-- ==== Sys2Proof/Word.lean ====
section
/-! DEFINITION. The 32-bit register word, the byte, and their plainest arithmetic (spec/00_scope.md, Register conventions; R7). -/

namespace Sys2Proof

/-- A host register word (00_scope.md: registers are 32 bits wide). -/
abbrev Word := BitVec 32

/-- One byte of MRAM, of a frame or of a window. -/
abbrev Byte := BitVec 8

/-- Bits `[hi:lo]` of a word as a number; bit 0 is the least significant (R7). -/
def bitsOf (w : Word) (hi lo : Nat) : Nat := (w.toNat / 2 ^ lo) % 2 ^ (hi - lo + 1)

/-- One bit of a word. -/
def bitAt (w : Word) (i : Nat) : Bool := w.toNat.testBit i

/-- A word made of fields `(lowest bit, width, value)`; a value is cut to its width. -/
def pack : List (Nat × Nat × Nat) → Word
  | [] => 0
  | (lo, n, v) :: r => BitVec.ofNat 32 ((v % 2 ^ n) * 2 ^ lo) ||| pack r

/-- Saturating increment, as the spec's counters count. -/
def satInc (top n : Nat) : Nat := if n < top then n + 1 else top

/-- Saturating addition. -/
def satAdd (top n k : Nat) : Nat := min top (n + k)

/-- One as a Nat for a flag. -/
def b2n (b : Bool) : Nat := if b then 1 else 0

/-- A signed value as the low `n` bits of two's complement. -/
def toTwos (n : Nat) (i : Int) : Nat := (i % (2 ^ n : Nat)).toNat

/-- The low `n` bits of `v` read as two's complement. -/
def ofTwos (n v : Nat) : Int :=
  let u := v % 2 ^ n
  if u < 2 ^ (n - 1) then u else (u : Int) - 2 ^ n

/-- The `n` bytes of a number, least significant byte first (R7). -/
def leBytes : Nat → Nat → List Byte
  | 0, _ => []
  | n + 1, v => BitVec.ofNat 8 v :: leBytes n (v / 256)

/-- The number a list of bytes spells, least significant byte first (R7). -/
def leNat : List Byte → Nat
  | [] => 0
  | b :: r => b.toNat + 256 * leNat r

/-- The number a list of bytes spells, most significant byte first (R384, host-port wire order). -/
def beNat (l : List Byte) : Nat := l.foldl (fun a b => a * 256 + b.toNat) 0

/-- Element `i` of a list, or a default beyond its end. -/
def nth {α : Type} [Inhabited α] (l : List α) (i : Nat) : α := l.getD i default

/-- Element `i` of a list changed by `f`; the list itself beyond its end. -/
def modNth {α : Type} (l : List α) (i : Nat) (f : α → α) : List α := l.modify i f

/-- The value a key has in an association list, or a default. -/
def lookupD {α : Type} (l : List (Nat × α)) (k : Nat) (d : α) : α :=
  match l with
  | [] => d
  | (a, v) :: r => if a = k then v else lookupD r k d

/-- Set a key in an association list kept in rising key order. -/
def insertKey {α : Type} (l : List (Nat × α)) (k : Nat) (v : α) : List (Nat × α) :=
  match l with
  | [] => [(k, v)]
  | (a, w) :: r =>
    if k < a then (k, v) :: (a, w) :: r
    else if k = a then (k, v) :: r
    else (a, w) :: insertKey r k v

/-- Remove a key from an association list. -/
def eraseKey {α : Type} (l : List (Nat × α)) (k : Nat) : List (Nat × α) := l.filter (fun p => p.1 ≠ k)

/-- The number of elements that satisfy a test. -/
def countIf {α : Type} (l : List α) (p : α → Bool) : Nat := (l.filter p).length

/-- A word whose bit `i` is the `i`-th flag. -/
def maskOf (l : List Bool) : Nat := l.foldr (fun b a => b2n b + 2 * a) 0

end Sys2Proof
end

