-- ==== Sys2Proof/Syntax.lean ====
section
/-! DEFINITION. The commands of the ZX6340: one constructor per row of spec/opcode_table.json, in its order, and the types of their operands. An operand is a quantity that the step's rules read and that comes from outside the block. -/

namespace Sys2Proof

/-- The path a transaction takes, which is its keyway class (R393). -/
inductive KeyClass where
  | host | chain | net | debug
  deriving DecidableEq, Repr, Inhabited

/-- One calibrated converter code offered to a comparator: the code, whether it passed its conversion-done and parity checks, whether it is one of the B blanked samples, and its sample instant in ns on the time counter (R189, R191, R193). -/
structure CodeIn where
  code : Int
  ok : Bool
  blanked : Bool
  t : Rat
  ot : Nat
  deriving DecidableEq, Repr, Inhabited

/-- What a protection tick brings from outside: OT at the tick, the codes each channel's in-service core converted in the period (oldest first), the instances whose state reads an uncorrectable error (R100), the placements on which the gate finds a mismatch with its cause code (R108). -/
structure TickIn where
  ot : Nat
  codes : List (List Int)
  ecc : List Nat
  mismatch : List (Nat × Nat)
  deriving DecidableEq, Repr, Inhabited

/-- The measurements of one core comparison (R42, R43): the compared sample-word values (shadow, channel), and pilot amplitude (mV peak) and phase (degrees) measured on the spare and on the in-service core. -/
structure CompareIn where
  words : List (Int × Int)
  ampSpare : Rat
  phSpare : Rat
  ampServ : Rat
  phServ : Rat
  deriving DecidableEq, Repr, Inhabited

/-- The measurements of one core calibration (R45): offset in FS / 2^20, gain error in ppm, the correction found at the five points in ppm of FS (piecewise linear between them), the residuals left at the five points in ppm of FS, noise in core LSB rms. -/
structure CalIn where
  offset : Int
  gainPpm : Int
  corr : List Rat
  residuals : List Rat
  noise : Rat
  deriving DecidableEq, Repr, Inhabited

/-- A symbol as a receiver decodes it (R328): a data byte, K28.1, K30.7, or one that carries a code or disparity violation (any other K-code at these places among them). -/
inductive RxSym where
  | data (b : Byte)
  | express
  | error
  | violation
  deriving DecidableEq, Repr, Inhabited

/-- One lane's two symbols of an express pair (R345, R346). -/
structure LaneIn where
  head : RxSym
  code : RxSym
  deriving DecidableEq, Repr, Inhabited

/-- A Sync message (R301): sequence, one-step, origin t1, own receive time t2, correction, in ns. -/
structure SyncIn where
  seq : Nat
  oneStep : Bool
  t1 : Int
  t2 : Int
  corr : Int
  deriving DecidableEq, Repr, Inhabited

/-- An Announce message (R298): the data set the best master clock algorithm compares, and the fields the module reports. -/
structure AnnounceIn where
  domain : Nat
  gm : Nat
  prio1 : Nat
  clockClass : Nat
  accuracy : Nat
  variance : Nat
  prio2 : Nat
  steps : Nat
  utc : Int
  deriving DecidableEq, Repr, Inhabited

/-- A sampled-value frame (R310, R317, R318): match fields, PRP trailer (source, sequence, LAN), rate, count, items with validity quality bits, flags. Item quality: bit 0 good, bit 1 operatorBlocked, bit 2 overflow, bit 3 test. -/
structure SvIn where
  src : Nat
  trailer : Option (Nat × Nat)
  mac : Nat
  appid : Nat
  hash : Nat
  rate : Nat
  smpCnt : Nat
  smpSynch : Nat
  items : List (Int × Nat)
  deriving DecidableEq, Repr, Inhabited

/-- An event message (R310, R319, R320). A member that is not BOOLEAN is none. -/
structure EventIn where
  src : Nat
  trailer : Option (Nat × Nat)
  mac : Nat
  appid : Nat
  hash : Nat
  stNum : Nat
  sqNum : Nat
  ttl : Nat
  test : Bool
  sim : Bool
  ndsCom : Bool
  members : List (Option Bool)
  deriving DecidableEq, Repr, Inhabited

/-- A management frame (R309): sender's MAC address, sequence, the count byte and the transactions of 9 bytes. -/
structure MgmtIn where
  src : Nat
  seq : Nat
  count : Nat
  txns : List (List Byte)
  deriving DecidableEq, Repr, Inhabited

/-- What a port's receiver finds in training (R331, R332): clock windows within tolerance in a row, markers found in a row on each lane, lanes within the skew limit, lanes free of marker errors (mask), whether the far end reports SPARE complete, K28.5 symbols received, and the far receiver's failed-lane mask. -/
structure TrainIn where
  windows : Nat
  markers : List Nat
  aligned : Bool
  goodLanes : Nat
  farSpare : Bool
  k285 : Nat
  farFailed : Nat
  deriving DecidableEq, Repr, Inhabited

/-- Why an UP port enters RECOVERY (R332). -/
inductive RecoveryCause where
  | violations (onLane symbols : Nat)
  | clockLoss (ns : Nat)
  | crcRuns (cycles : Nat)
  deriving DecidableEq, Repr, Inhabited

/-- What a monitor declares (R414). -/
inductive ClockFail where
  | refStopped | refFreq | sysStopped | sysFreq | ircStopped | ircFreq | lfoStopped | lfoFreq
  deriving DecidableEq, Repr, Inhabited

/-- The capacitor judgements of R437 that set hold_fault, with the measured values in the order of the rule. -/
inductive HoldJudge where
  | short (mv ms : Nat)
  | openCap (mv ms : Nat)
  | leakage (mv ms : Nat)
  deriving DecidableEq, Repr, Inhabited

/-- What a start-up finds at row 3 of R448: the straps (R326, R393) and the addresses of "P" registers, and the stored items, whose stored copy fails its check (R10, R441, R442). -/
structure BootIn where
  dbgEn : Bool
  chainRoot : Bool
  failing : List Nat
  pccFail : Bool
  countersFail : Bool
  deriving DecidableEq, Repr, Inhabited

/-- The outcome of the short self-test (R448, R449): failed pairs and cores, and whether the crossbar and the state-store controller pass. -/
structure SelfTestIn where
  pairs : List Nat
  cores : List Nat
  storeOk : Bool
  deriving DecidableEq, Repr, Inhabited

/-- What one job step measures, where its job measures anything (R61, R464): pilot amplitude and phase of the channel at hand, its PGA's offset and gain error at the gain at hand (ppm), a core's calibration, words corrected and words uncorrectable (MRAM offsets). -/
structure JobIn where
  amp : Rat
  ph : Rat
  pgaOffset : Rat
  pgaGain : Rat
  cal : CalIn
  corrected : List Nat
  uncorrectable : List Nat
  deriving DecidableEq, Repr, Inhabited

/-- The commands, one per row of the opcode table. -/
inductive Instr where
  /-- TICK (R13): The CONV clock reaches a protection tick: the sample words are latched, the engines wake and run the scheme work, and events are staged. -/
  | tick (i : TickIn)
  /-- OUTPUT_UPDATE (R15): The CONV cycle count reaches the output-update offset, and the net values that drive outputs are latched and sent to the couplers. -/
  | outputUpdate
  /-- PLACEMENT_COMMIT (R102): Both engines of a pair reach the end of a placement with every comparison equal, and the gate commits the write buffer whole. -/
  | placementCommit (pl cycles : Nat)
  /-- ATTEMPT_OVERRUN (R106): An attempt's cycle count exceeds its placement's charge, and the attempt is stopped as a mismatch with cause overrun. -/
  | attemptOverrun (pl cycles : Nat)
  /-- PAIR_STALL (R108): The trailing engine has not issued a write within 64 cycles, and the pair is isolated with cause stall. -/
  | pairStall (pl gap : Nat)
  /-- REEXECUTION_START (R109): The spare starts re-executing the placement once its code is loaded, the ramp is complete and every other pair sleeps. -/
  | reexecutionStart (pl : Nat)
  /-- PAIR_SELFTEST_END (R112): An isolated pair's built-in self-test ends, and the pair returns to the spare pool or is mapped out. -/
  | pairSelftestEnd (pair : Nat) (pass : Bool)
  /-- SPARE_SELFTEST_START (R114): The 60 s timer of an idle spare pair expires, and its background self-test starts. -/
  | spareSelftestStart (pair : Nat)
  /-- SELFTEST_SWAP (R115): At the tick after the code load, the spare takes the placement of the named pair, and the named pair is tested. -/
  | selftestSwap
  /-- REQ_BLOCKED (R28): A write of SYS_STATE req = 0x2 requests BLOCKED. -/
  | reqBlocked (cls : KeyClass)
  /-- REQ_IN_SERVICE (R28): A write of SYS_STATE req = 0x3 requests IN_SERVICE. -/
  | reqInService (cls : KeyClass)
  /-- REQ_TEST (R28): A write of SYS_STATE req = 0x5 requests TEST. -/
  | reqTest (cls : KeyClass)
  /-- REQ_DORMANT (R28): A write of SYS_STATE req = 0x7 requests DORMANT. -/
  | reqDormant (cls : KeyClass)
  /-- REQ_WITHDRAW (R32): A write of SYS_STATE req = 0x0 withdraws a pending request, and req_result then reads withdrawn. -/
  | reqWithdraw (cls : KeyClass)
  /-- REQ_BAD_CODE (R32): A write of an undefined req value is answered with value_refused, and req_result then reads bad_code. -/
  | reqBadCode (cls : KeyClass) (code : Nat)
  /-- REQUEST_TAKEN (R28): At the first tick at least 2 µs after the write, the pending request is judged under rules R26 and R27 and is carried out or refused. -/
  | requestTaken
  /-- FAILSAFE_ENTRY (R26): At the next tick after a FAILSAFE cause is found, the module enters FAILSAFE and raises the non-maskable event line. -/
  | failsafeEntry (cause : Nat)
  /-- FAILSAFE_CAUSE_CLEARED (R26): Every FAILSAFE cause has cleared, and the module returns to IN_SERVICE, BLOCKED or STANDBY by the matching row. -/
  | failsafeCauseCleared (cause : Nat)
  /-- HEALTH_OPEN (R259): HEALTH keep-alive frames have stopped for 1 ms, and the HEALTH driver opens. -/
  | healthOpen
  /-- ROTATION_STEP_START (R42): At a tick, continuously or at the paced 10 s start, the spare core is connected to channel k for comparison. -/
  | rotationStepStart (bank : Nat)
  /-- HANDOVER (R44): At N + 65 periods the comparison is judged, and the former spare takes over the channel or is blamed. -/
  | handover (bank : Nat) (m : CompareIn)
  /-- CORE_CALIBRATION_END (R45): The 1 s calibration of a released core ends with a pass or a fail, the core becomes the spare, and the next step starts. -/
  | coreCalibrationEnd (bank : Nat) (c : CalIn)
  /-- CORE_HARD_FAULT (R49): A missing conversion-done or a result parity error is declared a hard fault, the core is mapped out, and the spare is switched in at once. -/
  | coreHardFault (core : Nat)
  /-- PILOT_WINDOW_END (R55): A 100 ms correlator window ends, and the channel's pilot amplitude and phase are judged against its baseline. -/
  | pilotWindowEnd (ch : Nat) (amp ph : Rat)
  /-- SUSPECT_SERVICE_START (R51): At the next tick after pilot_suspect sets, the spare is connected to the suspect channel for a pilot-only comparison. -/
  | suspectServiceStart (bank : Nat)
  /-- REFDAC_CHECK (R90): The auxiliary converter reads a reference DAC calibration point and judges it against its limits. -/
  | refdacCheck (bank point : Nat) (err : Rat)
  /-- REFDAC_RECHECK (R90): Every 1 s while a bank is held, the module drives the reference DAC through its five points and checks it again. -/
  | refdacRecheck (bank : Nat) (errs : List Rat)
  /-- REFDAC_RESUME (R52): At the tick after a passing recheck, the parked core is calibrated in full and the rotation resumes. -/
  | refdacResume (bank : Nat)
  /-- FLT_CFG_WRITE (R65): A write of FLT_CFG is checked against the filter conditions and is deferred to a boundary or refused. -/
  | fltCfgWrite (cls : KeyClass) (v : Word)
  /-- FILTER_BOUNDARY (R78): At its boundary tick a filter change takes effect, the pilot is retuned and the correlators restart. -/
  | filterBoundary
  /-- GAIN_BOUNDARY (R75): At its boundary tick a channel's gain change takes effect, with 4 converter samples blanked. -/
  | gainBoundary (ch : Nat)
  /-- SETTING_APPLY (R8): A deferred RWS write takes effect at the next protection-sample boundary. -/
  | settingApply
  /-- AUX_ENTRY_DONE (R83): A sequencer entry completes its conversions, its mean is reported and judged against its limits, and it is published as a net. -/
  | auxEntryDone (entry : Nat) (convs : List Rat)
  /-- AUX_INJ_TRIG_GO (R85): A write of AUX_INJ_TRIG go triggers the injected group, or holds it pending. -/
  | auxInjTrigGo (cls : KeyClass)
  /-- INJECTED_GROUP_START (R85): Once the running conversion has finished, the injected group's slots run in order. -/
  | injectedGroupStart
  /-- INJECTED_GROUP_DONE (R86): An injected group completes, its results become readable, and the sequence resumes. -/
  | injectedGroupDone (convs : List (List Rat))
  /-- AUX_CAL_START (R88): The cal_int interval expires, and an auxiliary converter calibration starts. -/
  | auxCalStart
  /-- AUX_CAL_STEP_DONE (R88): A calibration step completes, and the last step commits offset and gain, or fails. -/
  | auxCalStepDone (offset gainPpm : Int)
  /-- AUX_CAL_LATE (R89): A calibration has not committed within 60 s of its start. -/
  | auxCalLate
  /-- DEFINITE_TIME_EXPIRY (R127): A started stage's tick count reaches its definite time T, and the stage operates. -/
  | definiteTimeExpiry (inst : Nat)
  /-- CURVE_INTEGRATOR_FULL (R135): A curve stage's integrator reaches 1, and the stage operates. -/
  | curveIntegratorFull (inst : Nat)
  /-- RESET_TIME_EXPIRY (R136): The definite reset time tDR elapses, and the integrator and count clear. -/
  | resetTimeExpiry (inst : Nat)
  /-- INVALID_TIMEOUT (R123): An element's inputs stay invalid for longer than inval_tmo, and the element resets. -/
  | invalidTimeout (inst : Nat)
  /-- TRACKING_LOST (R130): With no qualifying source for 2 s, ft steps to fn and trk_lost sets. -/
  | trackingLost
  /-- DIRECTIONAL_MEMORY_EXPIRY (R144): Memory polarisation lasts t_mem and expires, and the phases become unknown. -/
  | directionalMemoryExpiry (inst : Nat)
  /-- INRUSH_HOLD_EXPIRY (R155): The one-cycle block or t_hold ends, and a phase stops blocking. -/
  | inrushHoldExpiry (inst phase : Nat)
  /-- COLD_LOAD_ARM (R156): The breaker has been open for t_cold, and the cold-load element arms. -/
  | coldLoadArm (inst : Nat)
  /-- COLD_LOAD_ACTIVE_END (R156): t_clp or t_fast elapses, and active ends and the element disarms. -/
  | coldLoadActiveEnd (inst : Nat)
  /-- TRIP_MIN_PULSE_EXPIRY (R160): t_min elapses since the trip set, so the trip net may clear. -/
  | tripMinPulseExpiry (inst : Nat)
  /-- BF_RETRIP (R162): Timer t1 of breaker failure expires with the failure condition holding, and retrip sets. -/
  | bfRetrip (inst : Nat)
  /-- BF_TRIP (R162): Timer t2 of breaker failure expires with the failure condition still holding, and bf_trip sets. -/
  | bfTrip (inst : Nat)
  /-- AR_READY_TIMER (R165): The breaker has been closed for tR with lockout clear, and the autoreclose moves to READY. -/
  | arReadyTimer (inst : Nat)
  /-- AR_OPEN_TIMEOUT (R165): t_open elapses in INIT, and the autoreclose goes to LOCKOUT. -/
  | arOpenTimeout (inst : Nat)
  /-- AR_DEAD_TIME_EXPIRY (R165): The shot's dead time elapses, and the autoreclose goes to CLOSING or SYNC_WAIT. -/
  | arDeadTimeExpiry (inst : Nat)
  /-- AR_SYNC_TIMEOUT (R165): t_sync elapses in SYNC_WAIT, and the autoreclose goes to LOCKOUT. -/
  | arSyncTimeout (inst : Nat)
  /-- AR_CLOSE_PULSE_EXPIRY (R165): t_cp elapses with the breaker open, and the autoreclose goes to LOCKOUT. -/
  | arClosePulseExpiry (inst : Nat)
  /-- AR_RECLAIM_EXPIRY (R165): tR elapses in RECLAIM with no trip, and the autoreclose returns to READY with its shot counter 0. -/
  | arReclaimExpiry (inst : Nat)
  /-- AR_DISCRIMINATION_EXPIRY (R165): A start lasts longer than t_disc, and the following trip counts as having no trip-and-reclose input. -/
  | arDiscriminationExpiry (inst : Nat)
  /-- ZONE_HOLDOVER_LIMIT (R173): An end's samples carry holdover for longer than hold_lim, and the zone blocks. -/
  | zoneHoldoverLimit (inst : Nat)
  /-- ZSI_TIME_EXPIRY (R176): t_zsi elapses with no named blocking group asserted in the last 10 ms, and the zone-selective stage operates. -/
  | zsiTimeExpiry (inst : Nat)
  /-- ZSI_BLOCK_WINDOW_EXPIRY (R176): 10 ms pass since a named blocking group was last asserted. -/
  | zsiBlockWindowExpiry (inst : Nat)
  /-- FAULT_LOCATION (R178): The locator's computation after a trip completes, and fl_km, fl_pct and fl_valid are published. -/
  | faultLocation (inst : Nat)
  /-- TW_MATCH_TIMEOUT (R179): No matching arrival pair arrives within 60 ms, and tw_valid is 0. -/
  | twMatchTimeout (inst : Nat)
  /-- SYNC_CONFIRM_EXPIRY (R180): The synchrocheck conditions hold for t_conf, and sync_ok sets. -/
  | syncConfirmExpiry (inst : Nat)
  /-- TCS_ALARM_EXPIRY (R181): Continuity has been lost for t_tcs, and the supervision alarm net sets. -/
  | tcsAlarmExpiry (inst : Nat)
  /-- TCS_TRIP_BLANK_EXPIRY (R181): 1 s passes after the watched trip net clears, and supervision resumes counting. -/
  | tcsTripBlankExpiry (inst : Nat)
  /-- PERSISTENT_LATCH_WRITE (R184): In the first gap after the commit, the HC writes a changed persistent latch to MRAM with its hallmark. -/
  | persistentLatchWrite (inst : Nat)
  /-- LOGIC_TIMER_EXPIRY (R183): A pickup, drop-off or pulse timer of the logic fabric reaches T. -/
  | logicTimerExpiry (inst : Nat)
  /-- COMPARATOR_ASSERT (R189): A comparator's consecutive count reaches N, or its mode condition holds, and it asserts and drives its routes. -/
  | comparatorAssert (c : Nat) (codes : List CodeIn) (light : Bool)
  /-- COMPARATOR_RELEASE (R190): hold samples pass without the assert condition, and the comparator releases. -/
  | comparatorRelease (c : Nat) (codes : List CodeIn)
  /-- ARC_WINDOW_EXPIRY (R192): arc_win runs out after an arc input stops being active, and the arc comparator releases. -/
  | arcWindowExpiry (c : Nat) (light : Bool)
  /-- EXPRESS_RECEIVED (R346): An express copy is checked and forwarded, and a passing copy sets the code's asserted state and drives its receive routes. -/
  | expressReceived (p : Nat) (lane0 lane1 : LaneIn)
  /-- EXPRESS_CODE_TIMEOUT (R200): No copy of an asserted code arrives for 3 chain cycles, and its state clears. -/
  | expressCodeTimeout (code : Nat)
  /-- FAST_CFG_WRITE (R205): A write of a comparator, vote, route or express register is checked, and takes effect at the next tick or is refused. -/
  | fastCfgWrite (cls : KeyClass) (addr : Nat) (v : Word)
  /-- IMAGE_LOAD (R235): Job code 1 submits the image load into the slot named in SCH_LOAD_CTL. -/
  | imageLoad (cls : KeyClass) (arg : Nat)
  /-- CHUNK_COMMIT (R236): A write of SCH_XFER_CTL go commits the chunk in the transfer window for copying. -/
  | chunkCommit (cls : KeyClass) (v : Word)
  /-- IMAGE_ACTIVATION (R238): Job code 2 submits the structural activation of an image slot, which is checked and accepted or refused. -/
  | imageActivation (cls : KeyClass) (arg : Nat)
  /-- TEMPLATE_ACTIVATION (R238): Job code 3 submits the structural activation of the template named in SCH_TPL_CTL. -/
  | templateActivation (cls : KeyClass) (arg : Nat)
  /-- ACTIVATION_REFERENCE_TICK (R238): At its reference tick an activation enters BLOCKED, and it assigns placements and applies the sections. -/
  | activationReferenceTick
  /-- ACTIVATION_BOUNDARY (R238): At the activation's boundary tick, the filter and channel changes take effect as routing. -/
  | activationBoundary
  /-- ACTIVATED (R238): Every full-cycle window is valid, the activation ends, and the module enters IN_SERVICE when enabled. -/
  | activated
  /-- SCH_GROUP_WRITE (R237): A write of SCH_GROUP requests a setting group, or is refused. -/
  | schGroupWrite (cls : KeyClass) (v : Word)
  /-- GROUP_SWITCH (R237): At its tick the setting group changes, and every element takes the new settings. -/
  | groupSwitch
  /-- TEMPLATE_PARAM_WRITE (R211): A write of SCH_TPL_PVAL sets a template parameter, which takes effect at the next tick. -/
  | templateParamWrite (cls : KeyClass) (v : Word)
  /-- COUPLER_FAIL (R244): 4 consecutive coupler frames fail or are missing, and the coupler is failed. -/
  | couplerFail (cpl frames : Nat)
  /-- COUPLER_OK (R244): 1,000 consecutive good frames restore a failed coupler. -/
  | couplerOk (cpl frames : Nat)
  /-- OUTPUT_HOLD_EXPIRY (R246): The 1 ms output hold ends, and the output switches off. -/
  | outputHoldExpiry (out : Nat)
  /-- INPUT_ACCEPTED (R248): An input's debounce count reaches its setting, and the new level is accepted with its timestamp. -/
  | inputAccepted (di : Nat) (level : Bool) (count sec us : Nat)
  /-- FIELD_SUPPLY_READING (R255): The field-side converter's 100 µs reading of Vf and the TCS currents is judged. -/
  | fieldSupplyReading (vf tcs0 tcs1 : Nat)
  /-- FIELD_SAG_END (R255): 10 ms inside the recovery level ends sag or high. -/
  | fieldSagEnd
  /-- FIELD_BROWNOUT (R255): The field side browns out below 12 V, and every output switches off within 5 µs. -/
  | fieldBrownout
  /-- FIELD_READY (R257): Vf has been above 14 V for 10 ms, the field side reports ready, and the configuration is resent. -/
  | fieldReady
  /-- STUCK_ON (R258): An output commanded off reads on, and stuck_on is set. -/
  | stuckOn (out : Nat)
  /-- OUT_SHORT (R258): The current limit engages on an output commanded on. -/
  | outShort (out : Nat)
  /-- THERMAL_SHUTDOWN (R258): A current-limited output reaches thermal shutdown and switches off for 100 ms. -/
  | thermalShutdown (out : Nat)
  /-- THERMAL_OFF_EXPIRY (R258): The 100 ms off period ends, and the output retries while its command stands. -/
  | thermalOffExpiry (out : Nat)
  /-- CROSS_DRIVE (R258): An output commanded off reads on within 50 µs of another output turning on, and its turn-on is inhibited. -/
  | crossDrive (out by_ : Nat)
  /-- OUT_FAIL_OFF (R258): An output commanded on for 50 µs reads off without limiting. -/
  | outFailOff (out : Nat)
  /-- OUT_OPEN (R258): An output commanded on for 50 µs reads on with a current below 10 mA. -/
  | outOpen (out cur : Nat)
  /-- OUT_OVERLOAD (R258): The current stays above the overload level for more than 100 ms. -/
  | outOverload (out cur : Nat)
  /-- CROSS_INH_CLEAR (R258): Writing 1 to FIO_DO_FAULT cross_inh clears a cross-drive inhibit. -/
  | crossInhClear (cls : KeyClass) (v : Word)
  /-- FIO_CFG_WRITE (R254): A write of an output or group configuration is checked and refused while the output is on. -/
  | fioCfgWrite (cls : KeyClass) (addr : Nat) (v : Word)
  /-- TCS_CONTINUITY_CHANGE (R260): 20 consecutive TCS readings change the continuity state. -/
  | tcsContinuityChange (n : Nat) (present : Bool)
  /-- LEDGER_WRITE (R274): After the output update of its tick, the HC writes the oldest writable staging entry into MRAM with a sequence number. -/
  | ledgerWrite
  /-- TOKEN_RETURN (R276): A code's refill period ends, and a token returns to its bucket. -/
  | tokenReturn (code : Nat)
  /-- CURSOR_SEEK (R280): LDG_CUR_CTL op 1 moves the class's cursor to the sequence in LDG_CUR_SEQ. -/
  | cursorSeek (cls : KeyClass)
  /-- CURSOR_OLDEST (R280): LDG_CUR_CTL op 2 moves the cursor to the oldest valid circulating record at or above the floor. -/
  | cursorOldest (cls : KeyClass)
  /-- CURSOR_NEWEST (R280): LDG_CUR_CTL op 3 moves the cursor to the newest record. -/
  | cursorNewest (cls : KeyClass)
  /-- CURSOR_NEXT (R280): LDG_CUR_CTL op 4 moves the cursor to the next record. -/
  | cursorNext (cls : KeyClass)
  /-- CURSOR_PREV (R280): LDG_CUR_CTL op 5 moves the cursor to the previous record within its area. -/
  | cursorPrev (cls : KeyClass)
  /-- CURSOR_FIRST (R280): LDG_CUR_CTL op 6 moves the cursor to the first area's first record. -/
  | cursorFirst (cls : KeyClass)
  /-- CURSOR_MOVE_DONE (R280): A cursor move completes within 20 µs, and busy clears with the status set. -/
  | cursorMoveDone (cls : KeyClass)
  /-- LEDGER_COMMISSION (R265): Job code 4 commissions the ledger's first area once in the module's life. -/
  | ledgerCommission (cls : KeyClass) (arg : Nat)
  /-- LEDGER_CLEAR (R282): Job code 5 clears the circulating area by hallmarking a new floor. -/
  | ledgerClear (cls : KeyClass) (arg : Nat)
  /-- LEDGER_SCAN_DONE (R283): The boot scan finds the newest record of each area and zeroes partial records. -/
  | ledgerScanDone
  /-- CAP_TRIG (R284): A write of CAP_CTL trig triggers a capture at the next tick. -/
  | capTrig (cls : KeyClass)
  /-- CAPTURE_END (R288): The capture's last tick is recorded, and the module starts the capture write job. -/
  | captureEnd
  /-- SLOT_PROTECT (R289): Writing CAP_SLOT_CTL protect protects the selected valid slot. -/
  | slotProtect (cls : KeyClass)
  /-- SLOT_UNPROTECT (R289): Writing CAP_SLOT_CTL unprotect clears the selected slot's protection. -/
  | slotUnprotect (cls : KeyClass)
  /-- CAPTURE_EXPORT (R290): Job code 6 leases a capture slot for reading. -/
  | captureExport (cls : KeyClass) (arg : Nat)
  /-- LEASE_TIMEOUT (R290): 60 s pass after the last window read, and the export job ends and its lease lapses. -/
  | leaseTimeout (slot : Nat)
  /-- PTP_SYNC (R301): A Sync from the best master yields an offset that is stepped, refused or passed to the servo under rule R304. -/
  | ptpSync (p : Nat) (m : SyncIn)
  /-- PTP_FOLLOW_UP (R301): A Follow_Up completes a two-step Sync, and its offset is formed. -/
  | ptpFollowUp (p seq : Nat) (t1 corr : Int)
  /-- PTP_ANNOUNCE (R298): An Announce message feeds the best master clock algorithm. -/
  | ptpAnnounce (p : Nat) (a : AnnounceIn)
  /-- PTP_PDELAY_REQ (R298): A Pdelay_Req is answered with a two-step Pdelay_Resp. -/
  | ptpPdelayReq (p seq : Nat) (t2 t3 : Int)
  /-- PTP_PDELAY_RESP (R301): A Pdelay response completes an exchange for the mean path delay. -/
  | ptpPdelayResp (p : Nat) (t1p t2p t3p t4 : Int)
  /-- SYNC_TIMEOUT (R302): No Sync is accepted for 3 sync intervals, and the time state enters holdover. -/
  | syncTimeout
  /-- ANNOUNCE_TIMEOUT (R302): The announce timeout expires on the port in use, and the module changes port or enters holdover. -/
  | announceTimeout (p : Nat)
  /-- TIME_REALIGNED (R306): The slew after a step ends, and realigning clears. -/
  | timeRealigned
  /-- FORCE_ACCEPT_NEXT (R305): Writing PTP_FORCE_CTL accept_next arms a force for the next offered step. -/
  | forceAcceptNext (cls : KeyClass)
  /-- FORCE_SET (R305): Writing PTP_FORCE_CTL set loads the counter from the force registers at once. -/
  | forceSet (cls : KeyClass)
  /-- FORCE_DISARM (R305): Writing PTP_FORCE_CTL disarm disarms an armed force. -/
  | forceDisarm (cls : KeyClass)
  /-- PTP_CTL_WRITE (R296): A write of PTP_CTL changes the profile, source or ports, and writing src moves the time state. -/
  | ptpCtlWrite (cls : KeyClass) (v : Word)
  /-- PTP_TIME_SEC_LO_READ (R323): A read of PTP_TIME_SEC_LO latches the other time registers. -/
  | ptpTimeSecLoRead (cls : KeyClass)
  /-- ETH_LINK (R322): A MAC's link goes up or down. -/
  | ethLink (m : Nat) (up : Bool) (speed : Nat)
  /-- PRP_SUPERVISION (R308): Every 2 s a PRP supervision frame is sent on both LANs. -/
  | prpSupervision
  /-- PRP_LAN_FAULT (R308): A LAN delivers no frame of a known source for 2 s while the other does. -/
  | prpLanFault (lan : Nat)
  /-- SV_FRAME_RECEIVED (R317): A sampled-value frame is matched to a context, and its samples are placed for alignment or discarded. -/
  | svFrameReceived (m : Nat) (f : SvIn)
  /-- EVENT_MESSAGE_RECEIVED (R320): An event message is matched to a context, and its members are written to nets. -/
  | eventMessageReceived (m : Nat) (f : EventIn)
  /-- MGMT_FRAME (R309): A management frame's transactions are executed with class NET and answered. -/
  | mgmtFrame (m : Nat) (f : MgmtIn)
  /-- SV_PUBLISH (R313): A published sampled-value frame is formed and sent at its context's rate. -/
  | svPublish (ctx : Nat)
  /-- EVENT_MESSAGE_REPEAT (R319): The repetition interval ends, and the event message is sent again. -/
  | eventMessageRepeat (ctx : Nat)
  /-- EVENT_CONTEXT_EXPIRY (R320): No message arrives within timeAllowedToLive, and the subscribed context becomes invalid. -/
  | eventContextExpiry (ctx : Nat)
  /-- PORT_CLOCK_RECEIVED (R331): A port in DOWN receives the forwarded clock and enters CLOCK. -/
  | portClockReceived (p : Nat)
  /-- TRAINING_ADVANCE (R331): A port's training state meets its criterion and moves to the next state. -/
  | trainingAdvance (p : Nat) (t : TrainIn)
  /-- TRAINING_TIMEOUT (R331): A training state reaches its timeout, and the port returns to DOWN. -/
  | trainingTimeout (p : Nat)
  /-- RECOVERY_ENTRY (R332): Code violations, loss of the forwarded clock or repeated CRC failures put an UP port into RECOVERY. -/
  | recoveryEntry (p : Nat) (cause : RecoveryCause)
  /-- RECOVERY_DONE (R332): RECOVERY ends with the port UP, a spare lane swapped in, or the port DOWN. -/
  | recoveryDone (p : Nat) (t : TrainIn)
  /-- CHAIN_CYCLE (R334): At each cycle instant the mark sender sends a cycle mark and the management slot on both ports. -/
  | chainCycle
  /-- CYCLE_MARK_RECEIVED (R355): A cycle mark arrives, and it is forwarded and sets the unit's counter. -/
  | cycleMarkReceived (p : Nat) (arrival : Rat) (second cycle phase : Nat)
  /-- MANAGEMENT_SLOT_RECEIVED (R336): A management slot passes the unit, which acts on its root block, walk block, requests and answers. -/
  | managementSlotReceived (p : Nat) (slot : List RxSym)
  /-- UNIT_SLOT_RECEIVED (R339): A unit slot arrives, is forwarded or replaced, and its words, nets, digest and anchor bytes are taken. -/
  | unitSlotReceived (p pos : Nat) (slot : List RxSym)
  /-- SLOT_LOSS (R341): A source's slot is absent for 3 consecutive cycles, and imports write 0. -/
  | slotLoss (addr : Nat)
  /-- WALK_START (R348): The root starts a tumbler walk after start-up, a ring closure, a join request or a re-walk job. -/
  | walkStart
  /-- CHAIN_WALK (R350): The walk ends at the end of cycle k + 65, with delays measured, and CHAIN_WALK is staged. -/
  | chainWalk (tr : Nat) (delta : Int)
  /-- CHAIN_REWALK (R348): Job code 9 asks the root to run a walk, in keep or renumber mode. -/
  | chainRewalk (cls : KeyClass) (arg : Nat)
  /-- CHAIN_RING_OPEN (R352): A mark has not returned for 2 cycles, and the root declares the ring open. -/
  | chainRingOpen
  /-- CHAIN_RING_CLOSED (R352): Marks return on both ports for 8 cycles, and the root declares the ring closed. -/
  | chainRingClosed
  /-- CHAIN_DEPUTY_ACTIVE (R354): The deputy receives no mark for 26.04 µs past an expected instant and starts sending marks. -/
  | chainDeputyActive
  /-- CHAIN_NO_ROOT (R354): A port has been UP for 5 ms with no marks. -/
  | chainNoRoot
  /-- CHAIN_TIME_LOST (R356): No mark arrives for 3 cycles, and a non-root unit enters holdover. -/
  | chainTimeLost
  /-- REMOTE_GO (R358): Writing CHN_RMT_STAT go places a mailbox transaction in the next management slot. -/
  | remoteGo (cls : KeyClass)
  /-- REMOTE_TRANSACTION (R358): A target executes the first copy of a new-tagged request with class CHAIN and writes its answer. -/
  | remoteTransaction (m : Nat) (entry : List Byte)
  /-- REMOTE_ANSWER (R358): An answer with a matching tag returns to the sender and ends the transaction. -/
  | remoteAnswer (m : Nat) (entry : List Byte)
  /-- REMOTE_TIMEOUT (R358): No answer arrives within 8 cycles, and the status reads timeout. -/
  | remoteTimeout (m : Nat)
  /-- CHN_XCP_DATA_0_READ (R361): A read of CHN_XCP_DATA_0 latches the other excerpt words of the same cycle. -/
  | chnXcpData0Read (cls : KeyClass)
  /-- FEED_OUT_OF_RANGE (R363): A feed stays below 5.9 V or above 40.5 V for 50 µs and is judged out of range. -/
  | feedOutOfRange (f mv : Nat)
  /-- FEED_IN_RANGE (R363): A feed has been within range for 10 ms and is judged in range again. -/
  | feedInRange (f mv : Nat)
  /-- HINGE_PEER_CHANGE (R366): HINGE_PEER holds a new level for 20 ns and is accepted. -/
  | hingePeerChange (asserted : Bool)
  /-- HINGE_CLAIM (R367): A BLOCKED hinged unit claims control at a tick, at once or after 200 ms of released peer. -/
  | hingeClaim
  /-- CLAIM_RECHECK (R367): 1 µs after claiming, the unit reads HINGE_PEER again to resolve a double claim. -/
  | claimRecheck (peer : Bool)
  /-- ANCHOR_FRAME_RECEIVED (R369): A complete anchor frame arrives and is checked, and it is kept or discarded. -/
  | anchorFrameReceived (words : List Word) (absent : Bool)
  /-- ANCHOR_ADOPT (R372): At the first tick after the frame arrives, the standby replaces its matching instances' parts. -/
  | anchorAdopt
  /-- ACTIVATE_ORDER (R240): The standby receives the activate order frame and activates. -/
  | activateOrder (gen : Nat)
  /-- READY_REPORT (R240): The active receives the ready frame and relinquishes at its next output update. -/
  | readyReport
  /-- HANDOVER_WRITE (R377): Writing HNG_CTL handover requests a manual handover, which is checked and refused or started. -/
  | handoverWrite (cls : KeyClass) (v : Word)
  /-- HANDOVER_REQUEST (R377): The standby receives a handover request frame and answers with an acknowledge. -/
  | handoverRequest
  /-- HANDOVER_ACKNOWLEDGE (R377): The active receives the acknowledge and releases control at its next output update. -/
  | handoverAcknowledge
  /-- HANDOVER_TIMEOUT (R377): No acknowledge arrives within 10 ms, and the handover ends with timeout. -/
  | handoverTimeout
  /-- HINGE_STANDBY (R376): After an anchor and 1 s with no run beyond dig_tol, a rejoining unit enters STANDBY. -/
  | hingeStandby
  /-- HINGE_WIRE_FAULT (R378): HINGE_PEER disagrees with the peer's slot flag for 3 cycles, and wire_fault sets. -/
  | hingeWireFault
  /-- WIRE_FAULT_CLEAR (R378): 1 s of agreement clears wire_fault. -/
  | wireFaultClear
  /-- HINGE_CTL_NO_TICK (R366): No tick occurs for 2 periods, and HINGE_CTL releases. -/
  | hingeCtlNoTick
  /-- HOST_READ (R383): A single-line READ request (0x0B) is executed and answered with the word. -/
  | hostRead (path : KeyClass) (frame : List Byte)
  /-- HOST_WRITE (R383): A single-line WRITE request (0x02) is executed and answered with the word's value after the write. -/
  | hostWrite (path : KeyClass) (frame : List Byte)
  /-- HOST_QUAD_READ (R383): A quad READ request (0xEB) is executed and answered. -/
  | hostQuadRead (path : KeyClass) (frame : List Byte)
  /-- HOST_QUAD_WRITE (R383): A quad WRITE request (0x32) is executed and answered. -/
  | hostQuadWrite (path : KeyClass) (frame : List Byte)
  /-- BAD_COMMAND (R387): A 9-byte frame with an unknown command byte is answered with bad_command. -/
  | badCommand (path : KeyClass) (frame : List Byte)
  /-- FRAME_ENDED_SHORT (R387): HOST_CS_N rises before the ninth byte, and the request is discarded and counted. -/
  | frameEndedShort (path : KeyClass) (n : Nat)
  /-- REGISTER_WRITE (R8): A write to a register that has no row of its own is judged by the keyway and applied. -/
  | registerWrite (cls : KeyClass) (addr : Nat) (v : Word)
  /-- IRQ_STAT_CLEAR (R390): Writing 1s to SYS_IRQ_STAT clears bits and may release IRQ_N. -/
  | irqStatClear (cls : KeyClass) (v : Word)
  /-- NME_STAT_CLEAR (R391): Writing 1s to SYS_NME_STAT clears bits and may release NME_N. -/
  | nmeStatClear (cls : KeyClass) (v : Word)
  /-- PAIR_SELF_TEST (R115): Job code 7 submits a self-test of the named pair. -/
  | pairSelfTest (cls : KeyClass) (arg : Nat)
  /-- FOREGROUND_AFE_CALIBRATION (R61): Job code 8 calibrates the PGAs, baselines and cores of the named banks in BLOCKED. -/
  | foregroundAfeCalibration (cls : KeyClass) (arg : Nat)
  /-- MRAM_SCRUB (R399): Job code 10 runs a whole MRAM scrub pass. -/
  | mramScrub (cls : KeyClass) (arg : Nat)
  /-- BREAKER_WEAR_RESET (R182): Job code 11 clears the totals and count of a breaker-wear instance. -/
  | breakerWearReset (cls : KeyClass) (arg : Nat)
  /-- JOB_CANCEL (R402): JOB_SUBMIT code 0xFF cancels a ticket, which stops at the end of its running step. -/
  | jobCancel (cls : KeyClass) (ticket : Nat)
  /-- JOB_STEP (R401): The HC runs one step of at most 50 µs of an outstanding job in its round. -/
  | jobStep (j : JobIn)
  /-- CLOCK_FAILURE (R414): A monitor declares a clock stopped or off frequency. -/
  | clockFailure (c : ClockFail)
  /-- SYS_PLL_RELOCK (R416): The SYS PLL locks on the IRC, the SYS domain returns to it, and the comparators qualify again. -/
  | sysPllRelock
  /-- CONV_PLL_LOCK (R416): The CONV PLL locks on its new reference. -/
  | convPllLock
  /-- IRC_RESTART (R419): At level 2 the IRC restarts every 5 ms until it is judged stable. -/
  | ircRestart
  /-- IRC_STABLE (R410): 8 good windows judge the IRC stable, and a module at level 2 starts to leave it. -/
  | ircStable
  /-- REFCLK_STABLE (R410): 8 good windows judge REFCLK stable, and the module identifies its frequency. -/
  | refclkStable (mhz : Nat)
  /-- REF_OK (R418): REFCLK has been stable for 1 s at level 1, ref_ok sets, and auto_return returns to level 0. -/
  | refOk
  /-- REF_RETURN (R418): Writing CLK_CFG ref_return returns to level 0 when ref_ok is 1, or is refused. -/
  | refReturn (cls : KeyClass)
  /-- REF_EN_WRITE (R418): Writing CLK_CFG ref_en switches the references, or returns from level 1 with the IRC as reference. -/
  | refEnWrite (cls : KeyClass) (v : Word)
  /-- LEVEL2_RECOVERY_VALID (R419): At the first valid words after leaving level 2, the cause clears and the module returns by its row. -/
  | level2RecoveryValid
  /-- TRIM (R411): Every 1 s the IRC and LFO trim codes are set against the trim source. -/
  | trim (irc lfo : Nat)
  /-- MEASUREMENT_GO (R428): Writing CLK_MEAS_CTL go starts a measurement at the next counter boundary. -/
  | measurementGo (cls : KeyClass) (v : Word)
  /-- MEASUREMENT_DONE (R428): The measurement gate closes, and the count is stored. -/
  | measurementDone (count : Nat)
  /-- RAIL_SETTLED (R424): The engine rail settles after its ramp. -/
  | railSettled
  /-- ENGINE_FREQUENCY_CHANGE (R17): At the first moment every engine sleeps, the engine clock changes frequency. -/
  | engineFrequencyChange
  /-- OP_LOWER (R425): No start, operate or comparator and an empty ring for 2 s after the last raise lower the module to OP-LOW. -/
  | opLower
  /-- LEAF_OFF_REQUEST (R423): Writing a CLK_GATE leaf-off bit requests a chain port, MAC or debug port off. -/
  | leafOffRequest (cls : KeyClass) (v : Word)
  /-- LEAF_GATED (R423): The leaf's work in flight ends, and the leaf is gated. -/
  | leafGated (leaf : Nat)
  /-- LEAF_RESTART (R423): Clearing a leaf-off bit restarts the leaf. -/
  | leafRestart (cls : KeyClass) (v : Word)
  /-- GROUP_OFF_REQUEST (R423): Writing a CLK_GATE group-off bit gates the group, or is refused. -/
  | groupOffRequest (cls : KeyClass) (v : Word)
  /-- FEED_RISE (R448): A feed rises to 6.0 V with the module OFF, and start-up begins. -/
  | feedRise (f mv : Nat)
  /-- POWER_ON_RESET_RELEASE (R448): The power-on reset is released with the always-on rail and the LFO up. -/
  | powerOnResetRelease
  /-- RAILS_IN_REGULATION (R448): The internal rails regulate, HOLD charging starts, the HC boot ROM runs and the host port answers. -/
  | railsInRegulation (b : BootIn)
  /-- PLLS_LOCKED (R448): The SYS, CONV and LANE PLLs lock, and the chain ports begin training. -/
  | pllsLocked
  /-- DEFECT_MAP_READ (R459): The identity and the defect map are read and checked, and the repair map is applied. -/
  | defectMapRead (identityOk : Bool)
  /-- SHORT_SELF_TEST_DONE (R449): The short self-test of pairs, cores and state store ends, and failed parts are mapped out or start-up ends in FAILSAFE. -/
  | shortSelfTestDone (t : SelfTestIn)
  /-- SLOT_SELECTION (R233): The valid slot with the higher generation, or the template, is chosen and placed. -/
  | slotSelection (latchFail : List Nat)
  /-- AFE_REFERENCE_SETTLED (R77): The AFE references settle, and the filter chain starts at a routing boundary. -/
  | afeReferenceSettled
  /-- FILTER_SETTLED (R77): The first valid word ends filter settling, and BOOT moves to BLOCKED. -/
  | filterSettled
  /-- WINDOWS_VALID (R448): Every full-cycle window is valid, and the module enters IN_SERVICE when the scheme enables protection. -/
  | windowsValid
  /-- POWER_FAIL_DECLARED (R438): No feed can supply the module for 5 µs, and HOLD takes over, jobs are abandoned and the commit starts. -/
  | powerFailDeclared (holdMv : Nat)
  /-- FLUSH_END (R275): 1.5 ms after the power fail the flush ends, and the remaining entries are dropped. -/
  | flushEnd
  /-- COMMIT_DONE (R439): The counter block with pf is hallmarked, and commit_done sets. -/
  | commitDone
  /-- HOLD_SPENT (R444): HOLD falls below 5.0 V during power fail, and the module goes OFF. -/
  | holdSpent (holdMv : Nat)
  /-- HOLD_READY (R436): HOLD first reaches 16 V, hold_ready sets and hold_cap is computed. -/
  | holdReady (tCharge : Nat)
  /-- HOLD_FAULT (R437): A capacitor judgement finds it small, shorted, open or leaking. -/
  | holdFault (k : HoldJudge)
  /-- RAIL_FAULT (R435): A rail leaves its window, and the module resets. -/
  | railFault (rail : Nat)
  /-- RESET_N_LOW (R445): RESET_N is low for 1 µs, and the module resets and stays in reset. -/
  | resetNLow
  /-- RESET_N_RISE (R446): RESET_N rises, and BOOT starts. -/
  | resetNRise
  /-- HOST_RESET (R445): Writing PWR_CTL reset starts a host reset with a flush, or is refused while a trip is asserted. -/
  | hostReset (cls : KeyClass)
  /-- HOST_RESET_EFFECT (R446): The host reset's flush ends, and the reset takes effect. -/
  | hostResetEffect
  /-- HC_RESTART (R447): The HC watchdog expires or the HC mismatches, and the HC alone restarts. -/
  | hcRestart
  /-- COUNTER_BLOCK_WRITE (R440): Every 60 s of OT the older counter block is written and hallmarked. -/
  | counterBlockWrite (ot : Nat)
  /-- DORMANT_ENTRY (R450): The orderly shutdown completes, DORMANT_ENTRY is written, and the module is DORMANT. -/
  | dormantEntry
  /-- PERSISTENCE_WAKE (R451): Every 60 s of OT in DORMANT a counter block is written. -/
  | persistenceWake (ot : Nat)
  /-- WAKE_PIN (R452): WAKE_N is low for 100 µs, and the module leaves DORMANT for BOOT. -/
  | wakePin
  /-- WAKE_TIMER (R452): tmr_s seconds of OT have passed in DORMANT, and the module wakes. -/
  | wakeTimer (ot : Nat)
  /-- FEED_WAKE (R452): A feed returns in range in DORMANT, and the module wakes. -/
  | feedWake (f : Nat)
  /-- PWR_OT_LO_READ (R455): A read of PWR_OT_LO latches PWR_OT_HI. -/
  | pwrOtLoRead (cls : KeyClass)
  /-- DEFECT_MAP_WRITE (R458): Within 10 ms of a change, the lower copy of the defect map is rewritten and hallmarked. -/
  | defectMapWrite
  /-- SS_ROW_SPARED (R463): After an output update a failing state-store row is copied into a spare row. -/
  | ssRowSpared (row reason : Nat)
  /-- SS_SCRUB (R463): In spans with no engine awake, the background scrub reads and corrects state-store words. -/
  | ssScrub (corrected : List Nat) (uncorrectable : List Nat)
  /-- MRAM_ROW_SPARED (R464): In one HC step a failing MRAM row is copied to a spare row and committed in the map. -/
  | mramRowSpared (row : Nat) (uncorrectable : Bool)
  /-- MRAM_SCRUB_STEP (R464): Between ledger writes the background scrub reads and corrects 1 KiB of MRAM. -/
  | mramScrubStep (corrected : List Nat) (uncorrectable : List Nat)
  /-- MRAM_FAIL (R467): The MRAM interface fails, mram_fail sets, and records wait in the ring. -/
  | mramFail
  /-- CROSSBAR_FAILURE (R26): A crossbar or state-store controller failure in a running state puts the module into FAILSAFE, from which only a reset or power cycle releases it, and a hinged active unit relinquishes. -/
  | crossbarFailure
  /-- LFO_STABLE (R414): A failed LFO is judged stable again against the IRC, lfo_fail clears and OT returns to the LFO. -/
  | lfoStable
  /-- REFCLK_ABSENT (R408): With ref_en = 1, no REFCLK is judged stable within 10 ms after the IRC is judged stable, and the module starts at level 1 with cause ref_absent. -/
  | refclkAbsent
  /-- PLL_HOLD_STOP (R415): 2 ms after entry into level 2, the CONV and LANE PLLs, held until then, are stopped. -/
  | pllHoldStop
  /-- LOCAL_CYCLE (R333): An UP port with no cycle marks to forward sends a cycle of its own, with root address 0 and empty slots, at its local cycle instant. -/
  | localCycle (p : Nat)
  deriving DecidableEq, Repr

end Sys2Proof
end

