-- ==== Sys2Proof/Machine/RegMap.lean ====
section
/-! DEFINITION. The register map (R392, R394 and the register tables of every chapter): which addresses exist, which bits a write may reach, which bits are restored from MRAM, and the classes that the ROM keyway lets write. -/

namespace Sys2Proof.Machine

/-- A register or a row of equal registers four bytes apart: first address, count, writable bits, bits with reset P (R10), and the ROM keyway's write classes as a mask (bit 0 HOST, 1 CHAIN, 2 NET, 3 DEBUG; R394). Every class may read. -/
structure RegRow where
  addr : Nat
  count : Nat
  mask : Nat
  kept : Nat
  classes : Nat
  deriving DecidableEq, Repr, Inhabited

/-- Registers of SYS (15_host_and_keyway.md, 01_sample_tick.md, 18_repair_and_failures.md). -/
def regsSys : List RegRow := [
  ⟨0x0000, 1, 0x00000000, 0x00000000, 0⟩, -- SYS_ID
  ⟨0x0004, 1, 0x000000F0, 0x00000000, 3⟩, -- SYS_STATE
  ⟨0x0008, 1, 0x00000000, 0x00000000, 0⟩, -- SYS_TICK
  ⟨0x000C, 1, 0x00000000, 0x00000000, 0⟩, -- SYS_TICK_COUNT
  ⟨0x0010, 1, 0x0003FFFF, 0x00000000, 1⟩, -- SYS_IRQ_STAT
  ⟨0x0014, 1, 0x0003FFFF, 0x00000000, 1⟩, -- SYS_IRQ_MASK
  ⟨0x0018, 1, 0x0000003F, 0x00000000, 1⟩, -- SYS_NME_STAT
  ⟨0x0020, 1, 0x00000000, 0x00000000, 0⟩, -- SYS_PORT
  ⟨0x0024, 1, 0x00000000, 0x00000000, 0⟩, -- SYS_LAST
  ⟨0x0040, 1, 0x00000000, 0x00000000, 0⟩, -- SYS_DEF_STAT
  ⟨0x0044, 4, 0x00000000, 0x00000000, 0⟩, -- SYS_DEF_PAIR_TR_w
  ⟨0x0054, 1, 0x00000000, 0x00000000, 0⟩, -- SYS_DEF_LANE
  ⟨0x0058, 1, 0x00000000, 0x00000000, 0⟩] -- SYS_DEF_ECC

/-- Registers of PWR (17_power_and_startup.md). -/
def regsPwr : List RegRow := [
  ⟨0x0400, 1, 0x00000080, 0x00000000, 1⟩, -- PWR_STAT
  ⟨0x0404, 1, 0x00000000, 0x00000000, 0⟩, -- PWR_RESET
  ⟨0x0408, 1, 0x00000000, 0x00000000, 0⟩, -- PWR_PCC
  ⟨0x040C, 1, 0x00000000, 0x00000000, 0⟩, -- PWR_OT_LO
  ⟨0x0410, 1, 0x00000000, 0x00000000, 0⟩, -- PWR_OT_HI
  ⟨0x0414, 1, 0x00000000, 0x00000000, 0⟩, -- PWR_HOLD
  ⟨0x0418, 1, 0x00000001, 0x00000000, 1⟩, -- PWR_CTL
  ⟨0x041C, 1, 0xFFFFFF07, 0xFFFFFF07, 1⟩, -- PWR_WAKE
  ⟨0x0420, 1, 0x00000000, 0x00000000, 0⟩] -- PWR_BOOT

/-- Registers of CLK (16_clocks.md). -/
def regsClk : List RegRow := [
  ⟨0x0800, 1, 0x00000007, 0x00000003, 3⟩, -- CLK_CFG
  ⟨0x0804, 1, 0x00008000, 0x00000000, 3⟩, -- CLK_STAT
  ⟨0x0808, 1, 0x00000000, 0x00000000, 0⟩, -- CLK_REF
  ⟨0x080C, 1, 0x00000000, 0x00000000, 0⟩, -- CLK_TRIM
  ⟨0x0810, 1, 0x00000003, 0x00000000, 3⟩, -- CLK_OP
  ⟨0x0814, 1, 0x0000007F, 0x00000000, 3⟩, -- CLK_GATE
  ⟨0x0818, 1, 0x00000000, 0x00000000, 0⟩, -- CLK_GATE_STAT
  ⟨0x081C, 1, 0x000FFFFF, 0x00000000, 3⟩, -- CLK_OUT
  ⟨0x0820, 1, 0x0000001F, 0x00000000, 3⟩, -- CLK_MEAS_CTL
  ⟨0x0824, 1, 0x00000000, 0x00000000, 0⟩] -- CLK_MEAS_CNT

/-- Registers of KEY (15_host_and_keyway.md). -/
def regsKey : List RegRow := [
  ⟨0x0C00, 1, 0x0000FFFF, 0x00000000, 15⟩, -- KEY_SEL
  ⟨0x0C04, 1, 0x00000000, 0x00000000, 0⟩, -- KEY_RIGHTS
  ⟨0x0C08, 1, 0x00000000, 0x00000000, 0⟩, -- KEY_STAT
  ⟨0x0C0C, 1, 0x00000000, 0x00000000, 0⟩] -- KEY_REFUSED

/-- Registers of JOB (15_host_and_keyway.md). -/
def regsJob : List RegRow := [
  ⟨0x1000, 1, 0x00FFFFFF, 0x00000000, 7⟩, -- JOB_SUBMIT
  ⟨0x1004, 1, 0x00000000, 0x00000000, 0⟩, -- JOB_TICKET
  ⟨0x1008, 1, 0x0000FFFF, 0x00000000, 15⟩, -- JOB_STATUS
  ⟨0x100C, 1, 0x00000000, 0x00000000, 0⟩] -- JOB_SLOTS

/-- Registers of AFE (02_analogue_front_end.md). -/
def regsAfe : List RegRow := [
  ⟨0x1400, 16, 0x00000007, 0x00000007, 3⟩, -- AFE_CHn_CFG
  ⟨0x1440, 1, 0x00FFFF3F, 0x00FFFF3F, 3⟩, -- AFE_BANK_CTL_A
  ⟨0x1444, 1, 0x00FFFF3F, 0x00FFFF3F, 3⟩, -- AFE_BANK_CTL_B
  ⟨0x1448, 1, 0x00000000, 0x00000000, 0⟩, -- AFE_BANK_STAT_A
  ⟨0x144C, 1, 0x00000000, 0x00000000, 0⟩, -- AFE_BANK_STAT_B
  ⟨0x1450, 1, 0x00000000, 0x00000000, 0⟩, -- AFE_MAP_A
  ⟨0x1454, 1, 0x00000000, 0x00000000, 0⟩, -- AFE_MAP_B
  ⟨0x1458, 1, 0x00000000, 0x00000000, 0⟩, -- AFE_CH_STAT
  ⟨0x1460, 1, 0x0000001F, 0x00000000, 15⟩, -- AFE_CORE_SEL
  ⟨0x1464, 1, 0x00000000, 0xFFFF0000, 0⟩, -- AFE_CORE_INFO
  ⟨0x1468, 1, 0x00000000, 0xFFFFFFFF, 0⟩, -- AFE_CORE_CAL
  ⟨0x1470, 1, 0x0000000F, 0x00000000, 15⟩, -- AFE_PILOT_SEL
  ⟨0x1474, 1, 0x00000000, 0x00000000, 0⟩] -- AFE_PILOT_MEAS

/-- Registers of FLT (03_filter_chain.md). -/
def regsFlt : List RegRow := [
  ⟨0x1800, 1, 0x07FF3FFF, 0x07FF3FFF, 3⟩, -- FLT_CFG
  ⟨0x1804, 1, 0x00000000, 0x00000000, 0⟩, -- FLT_STAT
  ⟨0x1808, 1, 0x00000000, 0x00000000, 0⟩, -- FLT_GDELAY
  ⟨0x180C, 1, 0x00000000, 0x00000000, 0⟩, -- FLT_CH_Q
  ⟨0x1840, 16, 0x00000000, 0x00000000, 0⟩] -- FLT_SAMPLE_n

/-- Registers of AUX (04_auxiliary_converter.md). -/
def regsAux : List RegRow := [
  ⟨0x1C00, 1, 0x0000FF01, 0x0000FF01, 3⟩, -- AUX_CTL
  ⟨0x1C04, 1, 0x00000000, 0x00000000, 0⟩, -- AUX_STAT
  ⟨0x1C20, 1, 0x7F7F7F7F, 0x7F7F7F7F, 3⟩, -- AUX_INJ_CFG
  ⟨0x1C24, 1, 0x00000001, 0x00000000, 7⟩, -- AUX_INJ_TRIG
  ⟨0x1C40, 8, 0x000001FF, 0x000001FF, 3⟩, -- AUX_ENTRY_n
  ⟨0x1C60, 32, 0xFFFFFFFF, 0xFFFFFFFF, 3⟩, -- AUX_LIM_n
  ⟨0x1CE0, 32, 0x00000000, 0x00000000, 0⟩, -- AUX_RESULT_n
  ⟨0x1D60, 4, 0x00000000, 0x00000000, 0⟩] -- AUX_INJ_RESULT_m

/-- Registers of PE (05_protection_engines.md). -/
def regsPe : List RegRow := [
  ⟨0x2000, 1, 0x00000000, 0x00000000, 0⟩, -- PE_STAT
  ⟨0x2004, 1, 0x00000000, 0x00000000, 0⟩, -- PE_PAIR_STAT
  ⟨0x2008, 1, 0x00000000, 0x00000000, 0⟩, -- PE_MAP_LO
  ⟨0x200C, 1, 0x00000000, 0x00000000, 0⟩, -- PE_MAP_HI
  ⟨0x2010, 1, 0x0000000F, 0x00000000, 15⟩, -- PE_BUDGET_SEL
  ⟨0x2014, 1, 0x00000000, 0x00000000, 0⟩, -- PE_BUDGET
  ⟨0x2018, 1, 0x00000000, 0x00000000, 0⟩, -- PE_REPAIR_CNT
  ⟨0x201C, 1, 0x00000000, 0x00000000, 0⟩, -- PE_BIST_STAT
  ⟨0x2020, 1, 0x00000000, 0x00000000, 0⟩, -- PE_CODE
  ⟨0x2030, 1, 0x000001FF, 0x00000000, 15⟩, -- PE_PROBE_SEL
  ⟨0x2034, 1, 0x00000000, 0x00000000, 0⟩] -- PE_PROBE_SEQ

/-- Registers of SCH (09_scheme_image.md). -/
def regsSch : List RegRow := [
  ⟨0x2400, 1, 0x00000000, 0x00000000, 0⟩, -- SCH_STAT
  ⟨0x2404, 1, 0x00000000, 0x00000000, 0⟩, -- SCH_GEN
  ⟨0x2408, 1, 0x00000000, 0x00000000, 0⟩, -- SCH_SLOTA_GEN
  ⟨0x240C, 1, 0x00000000, 0x00000000, 0⟩, -- SCH_SLOTB_GEN
  ⟨0x2410, 1, 0x00000000, 0x00000000, 0⟩, -- SCH_SLOT_STAT
  ⟨0x2414, 1, 0x011FFFFF, 0x00000000, 3⟩, -- SCH_LOAD_CTL
  ⟨0x2418, 1, 0x800001FF, 0x00000000, 3⟩, -- SCH_XFER_CTL
  ⟨0x241C, 1, 0x00000000, 0x00000000, 0⟩, -- SCH_XFER_STAT
  ⟨0x2420, 1, 0x00000000, 0x00000000, 0⟩, -- SCH_LOAD_STAT
  ⟨0x2424, 1, 0x00000000, 0x00000000, 0⟩, -- SCH_LOAD_POS
  ⟨0x2428, 1, 0x00000003, 0x00000000, 3⟩, -- SCH_ACT_CTL
  ⟨0x242C, 1, 0x00000000, 0x00000000, 0⟩, -- SCH_ACT_STAT
  ⟨0x2430, 1, 0x00000007, 0x00000007, 7⟩, -- SCH_GROUP
  ⟨0x2434, 1, 0x0000001F, 0x00000F1F, 3⟩, -- SCH_TPL_CTL
  ⟨0x2438, 1, 0x000077FF, 0x00000000, 15⟩, -- SCH_TPL_PSEL
  ⟨0x243C, 1, 0xFFFFFFFF, 0xFFFFFFFF, 3⟩] -- SCH_TPL_PVAL

/-- Registers of FST (08_fast_path.md). -/
def regsFst : List RegRow := [
  ⟨0x2800, 1, 0x0000003F, 0x00000000, 15⟩, -- FST_SEL
  ⟨0x2804, 1, 0x01FFFFFF, 0x01FFFFFF, 3⟩, -- FST_CMP_CFG
  ⟨0x2808, 1, 0x0001FFFF, 0x0001FFFF, 3⟩, -- FST_CMP_THR
  ⟨0x280C, 1, 0x03FFFFFF, 0x03FFFFFF, 3⟩, -- FST_CMP_HOLD
  ⟨0x2810, 1, 0x00000000, 0x00000000, 0⟩, -- FST_CMP_STAT
  ⟨0x2814, 1, 0x00000000, 0x00000000, 0⟩, -- FST_TW_SEC
  ⟨0x2818, 1, 0x00000000, 0x00000000, 0⟩, -- FST_TW_NS
  ⟨0x281C, 1, 0x00000000, 0x00000000, 0⟩, -- FST_TW_Q
  ⟨0x2820, 1, 0x00000000, 0x00000000, 0⟩, -- FST_STAT
  ⟨0x2880, 16, 0x7F7F7F7F, 0x7F7F7F7F, 3⟩, -- FST_VOTE_v
  ⟨0x2900, 64, 0x001FFFFF, 0x001FFFFF, 3⟩, -- FST_ROUTE_r
  ⟨0x2A00, 16, 0x000FFFFF, 0x000FFFFF, 3⟩, -- FST_XRX_m
  ⟨0x2A40, 4, 0x00003FFF, 0x00003FFF, 3⟩, -- FST_XSEND_g
  ⟨0x2A80, 8, 0x00000000, 0x00000000, 0⟩] -- FST_XASSERT_w

/-- Registers of FIO (10_field_io.md). -/
def regsFio : List RegRow := [
  ⟨0x2C00, 1, 0x00000000, 0x00000000, 0⟩, -- FIO_STAT
  ⟨0x2C04, 1, 0x00000000, 0x00000000, 0⟩, -- FIO_SUPPLY
  ⟨0x2C40, 16, 0xFFFF01FF, 0xFFFF01FF, 3⟩, -- FIO_DI_CFG_n
  ⟨0x2C80, 1, 0x00000000, 0x00000000, 0⟩, -- FIO_DI_STAT
  ⟨0x2C84, 1, 0x0000000F, 0x00000000, 15⟩, -- FIO_DI_SEL
  ⟨0x2C88, 1, 0x00000000, 0x00000000, 0⟩, -- FIO_DI_TS_SEC
  ⟨0x2C8C, 1, 0x00000000, 0x00000000, 0⟩, -- FIO_DI_TS_US
  ⟨0x2CC0, 12, 0x0007FFFF, 0x0007FFFF, 3⟩, -- FIO_DO_CFG_n
  ⟨0x2D00, 12, 0x00000000, 0x00000000, 0⟩, -- FIO_DO_STAT_n
  ⟨0x2D40, 1, 0x00000FFF, 0x00000000, 3⟩, -- FIO_DO_FAULT
  ⟨0x2D44, 1, 0x00000FFF, 0x00000FFF, 3⟩, -- FIO_GROUP
  ⟨0x2D48, 2, 0x0000001F, 0x0000001F, 3⟩, -- FIO_TCS_n
  ⟨0x2D50, 1, 0x00000000, 0x00000000, 0⟩] -- FIO_COUPLER

/-- Registers of LDG (11_recorder.md). -/
def regsLdg : List RegRow := [
  ⟨0x3000, 1, 0x00000000, 0x00000003, 0⟩, -- LDG_STAT
  ⟨0x3004, 1, 0x00000000, 0xFFFFFFFF, 0⟩, -- LDG_NEXT_SEQ
  ⟨0x3008, 1, 0x00000000, 0xFFFFFFFF, 0⟩, -- LDG_OLDEST_SEQ
  ⟨0x300C, 1, 0x00000000, 0xFFFFFFFF, 0⟩, -- LDG_FLOOR
  ⟨0x3010, 1, 0xFFFFFFFF, 0x00000000, 15⟩, -- LDG_CUR_SEQ
  ⟨0x3014, 1, 0x00000007, 0x00000000, 15⟩, -- LDG_CUR_CTL
  ⟨0x3018, 1, 0x00000000, 0x00000000, 0⟩, -- LDG_WIN_SEQ
  ⟨0x301C, 1, 0x00000000, 0x00000000, 0⟩, -- LDG_WIN_LEN
  ⟨0x3020, 1, 0x000007FF, 0x00000000, 15⟩, -- LDG_RATE_SEL
  ⟨0x3024, 1, 0x00FFFFFF, 0x00FFFFFF, 3⟩, -- LDG_RATE
  ⟨0x3028, 1, 0x00000000, 0x00000000, 0⟩, -- LDG_RATE_CNT
  ⟨0x302C, 1, 0x00000000, 0x00000000, 0⟩] -- LDG_LOST

/-- Registers of CAP (11_recorder.md). -/
def regsCap : List RegRow := [
  ⟨0x3400, 1, 0x00000000, 0x00000000, 0⟩, -- CAP_STAT
  ⟨0x3404, 1, 0x00000001, 0x00000000, 3⟩, -- CAP_CTL
  ⟨0x3408, 1, 0x000007FF, 0x00000000, 15⟩, -- CAP_SLOT_SEL
  ⟨0x340C, 1, 0x00000000, 0x00000000, 0⟩, -- CAP_SLOT_INFO
  ⟨0x3410, 1, 0x00000000, 0x00000000, 0⟩, -- CAP_SLOT_NUM
  ⟨0x3414, 1, 0x00000003, 0x00000000, 1⟩] -- CAP_SLOT_CTL

/-- Registers of PTP (12_time_and_streams.md). -/
def regsPtp : List RegRow := [
  ⟨0x3800, 1, 0x0000FF3F, 0x0000FF3F, 3⟩, -- PTP_CTL
  ⟨0x3804, 1, 0x00000000, 0x00000000, 0⟩, -- PTP_STAT
  ⟨0x3808, 1, 0x00000000, 0x00000000, 0⟩, -- PTP_TIME_SEC_HI
  ⟨0x380C, 1, 0x00000000, 0x00000000, 0⟩, -- PTP_TIME_SEC_LO
  ⟨0x3810, 1, 0x00000000, 0x00000000, 0⟩, -- PTP_TIME_NS
  ⟨0x3814, 1, 0x00000000, 0x00000000, 0⟩, -- PTP_TIME_FRAC
  ⟨0x3818, 1, 0x00000000, 0x00000000, 0⟩, -- PTP_OFFSET
  ⟨0x381C, 1, 0x00000000, 0x00000000, 0⟩, -- PTP_PATH
  ⟨0x3820, 1, 0x00000000, 0x00000000, 0⟩, -- PTP_FREQ
  ⟨0x3824, 1, 0x000FFFFF, 0x000FFFFF, 3⟩, -- PTP_STEP_THR
  ⟨0x3828, 1, 0x00000007, 0x00000000, 1⟩, -- PTP_FORCE_CTL
  ⟨0x382C, 1, 0xFFFFFFFF, 0x00000000, 1⟩, -- PTP_FORCE_SEC_HI
  ⟨0x3830, 1, 0xFFFFFFFF, 0x00000000, 1⟩, -- PTP_FORCE_SEC_LO
  ⟨0x3834, 1, 0x3FFFFFFF, 0x00000000, 1⟩, -- PTP_FORCE_NS
  ⟨0x3840, 2, 0xFFFFFFFF, 0xFFFFFFFF, 3⟩, -- PTP_PHY_LAT_m
  ⟨0x3848, 1, 0x00000000, 0x00000000, 0⟩, -- PTP_GM
  ⟨0x384C, 1, 0x000000FF, 0x000000FF, 3⟩] -- PTP_SERVO

/-- Registers of SVC (12_time_and_streams.md). -/
def regsSvc : List RegRow := [
  ⟨0x3C00, 2, 0x00000000, 0x00000000, 0⟩, -- SVC_MAC_m
  ⟨0x3C08, 1, 0x00000000, 0x00000000, 0⟩, -- SVC_PRP
  ⟨0x3C0C, 1, 0x00000003, 0x00000003, 1⟩, -- SVC_MGMT
  ⟨0x3C10, 1, 0x0000007F, 0x00000000, 15⟩, -- SVC_CTX_SEL
  ⟨0x3C14, 1, 0x00000000, 0x00000000, 0⟩, -- SVC_CTX_STAT
  ⟨0x3C18, 1, 0x00000000, 0x00000000, 0⟩, -- SVC_CTX_CNT
  ⟨0x3C1C, 1, 0x00000000, 0x00000000, 0⟩, -- SVC_CTX_ERR
  ⟨0x3C20, 4, 0x00000000, 0x00000000, 0⟩, -- SVC_PUB_DLY_k
  ⟨0x3C30, 4, 0x00000000, 0x00000000, 0⟩] -- SVC_CTX_VALID_w

/-- Registers of CHN (13_chain_link.md). -/
def regsChn : List RegRow := [
  ⟨0x4000, 1, 0x00000000, 0x00000000, 0⟩, -- CHN_STAT
  ⟨0x4004, 1, 0x0000003F, 0x0000003F, 3⟩, -- CHN_PIN
  ⟨0x4008, 1, 0x00000000, 0x00000000, 0⟩, -- CHN_PORT_A
  ⟨0x400C, 1, 0x00000000, 0x00000000, 0⟩, -- CHN_PORT_B
  ⟨0x4010, 1, 0x00000000, 0x00000000, 0⟩, -- CHN_ERR_A
  ⟨0x4014, 1, 0x00000000, 0x00000000, 0⟩, -- CHN_ERR_B
  ⟨0x4018, 1, 0x00000000, 0x00000000, 0⟩, -- CHN_RING
  ⟨0x401C, 1, 0x00000000, 0x00000000, 0⟩, -- CHN_TIME
  ⟨0x4020, 1, 0x00000000, 0x00000000, 0⟩, -- CHN_MEMBERS_LO
  ⟨0x4024, 1, 0x00000000, 0x00000000, 0⟩, -- CHN_MEMBERS_HI
  ⟨0x4028, 1, 0x00000000, 0x00000000, 0⟩, -- CHN_WALK
  ⟨0x402C, 1, 0x00000000, 0x00000000, 0⟩, -- CHN_XSTAT
  ⟨0x4030, 1, 0x00000007, 0x00000000, 1⟩, -- CHN_RMT_SEL
  ⟨0x4034, 1, 0xFFFFFF3F, 0x00000000, 1⟩, -- CHN_RMT_CMD
  ⟨0x4038, 1, 0xFFFFFFFF, 0x00000000, 1⟩, -- CHN_RMT_DATA
  ⟨0x403C, 1, 0x00000001, 0x00000000, 1⟩, -- CHN_RMT_STAT
  ⟨0x4040, 1, 0x000000FF, 0x00000000, 15⟩, -- CHN_XCP_SEL
  ⟨0x4050, 8, 0x00000000, 0x00000000, 0⟩] -- CHN_XCP_DATA_k

/-- Registers of HNG (14_hinge_and_feeds.md). -/
def regsHng : List RegRow := [
  ⟨0x4400, 1, 0x0003FF01, 0x0003FF00, 3⟩, -- HNG_CTL
  ⟨0x4404, 1, 0x00000000, 0x00000000, 0⟩, -- HNG_STAT
  ⟨0x4408, 1, 0x00000000, 0x00000000, 0⟩, -- HNG_DIGEST
  ⟨0x440C, 1, 0x00000000, 0x00000000, 0⟩, -- HNG_PEER_DIGEST
  ⟨0x4410, 1, 0x00000000, 0x00000000, 0⟩, -- HNG_ANCHOR
  ⟨0x4414, 1, 0x00000000, 0x00000000, 0⟩] -- HNG_TAKEOVER

/-- Every register of the module. -/
def regMap : List RegRow := regsSys ++ regsPwr ++ regsClk ++ regsKey ++ regsJob ++ regsAfe ++ regsFlt ++ regsAux ++ regsPe ++ regsSch ++ regsFst ++ regsFio ++ regsLdg ++ regsCap ++ regsPtp ++ regsSvc ++ regsChn ++ regsHng

/-- The row of an address. -/
def rowOf (a : Nat) : Option RegRow := regMap.find? (fun r => decide (r.addr ≤ a ∧ a < r.addr + 4 * r.count ∧ a % 4 = 0))

/-- Bits of a register that are restored from MRAM (R10). -/
def keptMask (a : Nat) : Nat := ((rowOf a).map (fun r => r.kept)).getD 0

end Sys2Proof.Machine
end

