-- ==== Sys2Proof/Machine/Numeric.lean ====
section
/-! DEFINITION. Numbers: rounding, single precision, and the functions that the formulas of the elements name (square root, sine, cosine, argument, logarithm, exponential, power), computed on rationals to far below the resolution of single precision (log entries 7 and 8). -/

namespace Sys2Proof.Machine

/-! ### Rounding -/

/-- Nearest integer, half away from zero. -/
def roundAway (q : Rat) : Int := if 0 ≤ q then (q + 1 / 2).floor else -((-q + 1 / 2).floor)

/-- Nearest natural number of a quotient, half up. -/
def divRound (a b : Nat) : Nat := (2 * a + b) / (2 * b)

/-- Nearest natural number of a quotient, a tie to the even one. -/
def divEven (a b : Nat) : Nat :=
  let q := a / b
  let r := a % b
  if 2 * r < b then q else if b < 2 * r then q + 1 else q + q % 2

/-- Quotient rounded up. -/
def ceilDiv (a b : Nat) : Nat := (a + b - 1) / b

/-- Two to an integer power. -/
def pow2 (e : Int) : Rat := if 0 ≤ e then (2 : Rat) ^ e.toNat else 1 / (2 : Rat) ^ (-e).toNat

/-- Absolute value of a rational. -/
def absR (r : Rat) : Rat := if r < 0 then -r else r

/-- Larger of a list of rationals, 0 for none. -/
def maxR (l : List Rat) : Rat := l.foldl max 0

/-! ### Single precision (R98, R99; log entry 8) -/

/-- The number a single-precision word stands for; infinities and not-a-numbers stand beyond every range. -/
def ofSingle (w : Word) : Rat :=
  let e := bitsOf w 30 23
  let f := bitsOf w 22 0
  let v : Rat :=
    if e = 0 then (f : Rat) * pow2 (-149)
    else if e = 255 then pow2 128
    else ((f + 2 ^ 23 : Nat) : Rat) * pow2 ((e : Int) - 150)
  if bitAt w 31 then -v else v

/-- Exponent of the leading bit of n / d. -/
def leadBit (n d : Nat) : Int :=
  let e : Int := (Nat.log2 n : Int) - (Nat.log2 d : Int)
  if 0 ≤ e then (if n < d * 2 ^ e.toNat then e - 1 else e) else if n * 2 ^ (-e).toNat < d then e - 1 else e

/-- The single-precision word of a number: the nearest one, a tie to the even one; beyond the range infinity. -/
def toSingle (r : Rat) : Word :=
  if r = 0 then 0
  else
    let n := r.num.natAbs
    let d := r.den
    let e := max (leadBit n d) (-126)
    let u := e - 23
    let m := if 0 ≤ u then divEven n (d * 2 ^ u.toNat) else divEven (n * 2 ^ (-u).toNat) d
    let b := min 0x7F800000 ((e + 126).toNat * 2 ^ 23 + m)
    BitVec.ofNat 32 (b + (if r < 0 then 2 ^ 31 else 0))

/-- A number as a single-precision word holds it. -/
def single (r : Rat) : Rat := ofSingle (toSingle r)

/-! ### Functions (log entry 7) -/

/-- The scale of the fixed-point series below. -/
def fixOne : Nat := 2 ^ 80

/-- A rational on that scale. -/
def toFix (r : Rat) : Int := (r * (fixOne : Rat)).floor

/-- A value of that scale as a rational. -/
def ofFix (x : Int) : Rat := (x : Rat) / (fixOne : Rat)

/-- Product on the scale. -/
def mulFix (x y : Int) : Int := x * y / (fixOne : Int)

/-- π. -/
def piR : Rat := 3141592653589793238462643383279502884197 / 1000000000000000000000000000000000000000

/-- ln 2. -/
def ln2R : Rat := 693147180559945309417232121458176568076 / 1000000000000000000000000000000000000000

/-- Square root of a number that is not negative. -/
def sqrtR (x : Rat) : Rat :=
  if x ≤ 0 then 0
  else ((Nat.sqrt (x.num.toNat * x.den * 2 ^ 160) : Nat) : Rat) / ((x.den * 2 ^ 80 : Nat) : Rat)

/-- Sum of a power series whose term n+1 is term n times y, divided by (k+2n)(k+2n+1). -/
def factSeries (y : Int) : Nat → Nat → Int → Int
  | 0, _, _ => 0
  | n + 1, k, t => t + factSeries y n (k + 2) (mulFix t y / ((k * (k + 1) : Nat) : Int))

/-- Sine and cosine of an angle of at most an eighth of a turn either way. -/
def smallSinCos (turns : Rat) : Int × Int :=
  let x := toFix (2 * piR * turns)
  let y := -(mulFix x x)
  (factSeries y 14 2 x, factSeries y 14 1 (fixOne : Int))

/-- Cosine and sine of an angle in turns. -/
def cosSin (turns : Rat) : Rat × Rat :=
  let t := turns - (turns.floor : Rat)
  let q := (4 * t + 1 / 2).floor
  let p := smallSinCos (t - (q : Rat) / 4)
  let s := ofFix p.1
  let c := ofFix p.2
  match q.toNat % 4 with
  | 0 => (c, s)
  | 1 => (-s, c)
  | 2 => (-c, -s)
  | _ => (s, -c)

def cosT (turns : Rat) : Rat := (cosSin turns).1

def sinT (turns : Rat) : Rat := (cosSin turns).2

/-- Sum of t·y^n / (k+2n). -/
def oddSeries (y : Int) : Nat → Nat → Int → Int
  | 0, _, _ => 0
  | n + 1, k, t => t / (k : Int) + oddSeries y n (k + 2) (mulFix t y)

/-- Arc tangent, in degrees, of a number from 0 to 1. -/
def atanUnit (z : Rat) : Rat :=
  let far := decide (2 / 5 < z)
  let w := if far then (z - 1) / (z + 1) else z
  let x := toFix w
  let r := ofFix (oddSeries (-(mulFix x x)) 40 1 x) * 180 / piR
  if far then 45 + r else r

/-- Argument of a complex number (imaginary, real) in degrees, above -180 to 180; 0 for zero. -/
def argD (im re : Rat) : Rat :=
  let a := absR re
  let b := absR im
  if a = 0 ∧ b = 0 then 0
  else
    let q := if b ≤ a then atanUnit (b / a) else 90 - atanUnit (a / b)
    let h := if re < 0 then 180 - q else q
    if im < 0 then -h else h

/-- Natural logarithm of a positive number. -/
def lnR (x : Rat) : Rat :=
  if x ≤ 0 then 0
  else
    let k := leadBit x.num.toNat x.den
    let m := x / pow2 k
    let z := toFix ((m - 1) / (m + 1))
    2 * ofFix (oddSeries (mulFix z z) 30 1 z) + (k : Rat) * ln2R

/-- Sum of t·x^n / (k+1)…(k+n). -/
def expSeries (x : Int) : Nat → Nat → Int → Int
  | 0, _, _ => 0
  | n + 1, k, t => t + expSeries x n (k + 1) (mulFix t x / ((k + 1 : Nat) : Int))

/-- Exponential; beyond 2^±200 it stays there. -/
def expR (x : Rat) : Rat :=
  let k := max (-200) (min 200 (x / ln2R + 1 / 2).floor)
  ofFix (expSeries (toFix (max (-1) (min 1 (x - (k : Rat) * ln2R)))) 26 0 (fixOne : Int)) * pow2 k

/-- Power of a positive number. -/
def powR (m p : Rat) : Rat := if m ≤ 0 then 0 else expR (p * lnR m)

end Sys2Proof.Machine
end

