-- ==== Sys2Proof/Config.lean ====
section
/-! DEFINITION. What an implementation fixes and what the spec leaves open: ROM tables of the ZX6340 and the free values, as opaque constants. -/

namespace Sys2Proof.Config

/-- Revision letter as A + rev, one of the 16 that an image header can name (SYS_ID rev, R212, per part; log entry 10). -/
opaque rev : Fin 16

/-- Temperature grade: 0 IT, 1 XT (SYS_ID grade, per part; log entry 10). -/
opaque grade : Nat

/-- HC ROM version and library version of a revision letter after B (R490 gives A and B only; log entry 10). -/
opaque romOf : Nat → Nat

opaque libOf : Nat → Nat

/-- R490: SYS_ID rom. -/
def rom : Nat := if rev = 0 then 0x10 else if rev = 1 then 0x14 else romOf rev

/-- R490: PE_CODE lib_ver. -/
def lib : Nat := if rev = 0 then 0x0100 else if rev = 1 then 0x0104 else libOf rev

/-- A fresh free value for each use: the n-th value the spec leaves open (log entry 5). -/
opaque freeWord : Nat → Word

opaque freeRat : Nat → Rat

/-- Outputs and record of a custom kind's microcode (R104, R489): kind, settings, inputs, record before (log entry 13). -/
opaque customBit : Nat → List Word → List Bool → List Rat → Nat → Nat → Bool

opaque customNum : Nat → List Word → List Bool → List Rat → Nat → Nat → Rat

/-- Voltage readback of an output, by its reading and Vf: no command brings it (R252; log entry 18). -/
opaque padVoltage : Nat → Bool → Nat → Nat

/-- The scheme's trigger net of the injected group, by generation: no image section has a field for it (R85; log entry 16). -/
opaque injNet : Nat → Option Nat

/-- Pre-trigger and post-trigger times in ms and channel mask of a capture that no CAPTURE section shapes: a template's, and a host's without the section (R284; log entry 20). -/
opaque capturePre : Nat

opaque capturePost : Nat

opaque captureMask : Nat

/-- A word of a state record whose contents no rule names: instance, word, output update (R120, R141; log entry 19). -/
opaque recordWord : Nat → Nat → Nat → Word

/-- What the chain does not carry of the hinge peer: its preference byte, by its address; whether its slots hold a valid image of a generation (R240, R367; log entry 22). -/
opaque peerPref : Nat → Bool

opaque peerImage : Nat → Nat → Bool

/-- Excerpt code of a cycle after the first of its period: second, cycle, 16 times the channel plus the conversion (R342, log entry 21). -/
opaque excerpt : Nat → Nat → Nat → BitVec 16

/-- Template wiring that the spec leaves open (R209, log entry 23): reference at a port of an instance of a template; field of T10's published context; kind of channels 8 to 15 of T10. -/
opaque tplRef : Nat → Nat → Nat → Nat

opaque tplStream : Nat → Nat

opaque tplKind : Nat → Nat

/-- Converter rate fc in samples per second (R11). -/
def fc : Nat := 1228800

/-- Record severities (R266). -/
def info : Nat := 0

def warn : Nat := 1

def alarm : Nat := 2

def trip : Nat := 3

/-- Device record codes with their severity, the higher one where a code has two (R31, R62, R80, R93, R118, R186, R207, R242, R262, R292, R322, R360, R380, R405, R430, R454, R469). -/
def devSev1 : List (Nat × Nat) := [
  (0x0010, 2),
  (0x0011, 1),
  (0x0060, 1),
  (0x0061, 1),
  (0x0062, 2),
  (0x0063, 2),
  (0x0064, 2),
  (0x0065, 2),
  (0x0066, 1),
  (0x0067, 0),
  (0x0068, 1),
  (0x0069, 2),
  (0x006A, 0),
  (0x0070, 0),
  (0x0071, 1),
  (0x0080, 1),
  (0x0081, 1),
  (0x0082, 1),
  (0x0083, 1),
  (0x0084, 2),
  (0x0090, 1),
  (0x0091, 0),
  (0x0092, 1),
  (0x0093, 1),
  (0x0094, 2),
  (0x0095, 2),
  (0x0096, 0),
  (0x0097, 2),
  (0x00A0, 2),
  (0x00A1, 0),
  (0x00A2, 2),
  (0x00A3, 0),
  (0x00A4, 1),
  (0x00A5, 2),
  (0x00A6, 0),
  (0x00B0, 3),
  (0x00B1, 1),
  (0x00B2, 1),
  (0x00B3, 0),
  (0x00B4, 1),
  (0x00B5, 1),
  (0x00B6, 1),
  (0x00C0, 0),
  (0x00C1, 1),
  (0x00C2, 0),
  (0x00C3, 1),
  (0x00C4, 2),
  (0x00C5, 2),
  (0x00C6, 0),
  (0x00D0, 1),
  (0x00D1, 0),
  (0x00D2, 2),
  (0x00D3, 0),
  (0x00D4, 1),
  (0x00D5, 2),
  (0x00D6, 0),
  (0x00D7, 2),
  (0x00D8, 2),
  (0x00D9, 2),
  (0x00DA, 2),
  (0x00DB, 1),
  (0x00DC, 1),
  (0x00DD, 1),
  (0x00E0, 0),
  (0x00E1, 2)]

/-- Second part of the table of device codes. -/
def devSev2 : List (Nat × Nat) := [
  (0x00E2, 1),
  (0x00E3, 1),
  (0x00E4, 2),
  (0x00E5, 0),
  (0x00E6, 1),
  (0x00E7, 1),
  (0x00E8, 0),
  (0x00F0, 0),
  (0x00F1, 1),
  (0x00F2, 0),
  (0x00F3, 1),
  (0x00F4, 1),
  (0x00F5, 0),
  (0x00F6, 1),
  (0x00F7, 0),
  (0x0100, 0),
  (0x0101, 1),
  (0x0102, 1),
  (0x0103, 0),
  (0x0104, 2),
  (0x0105, 0),
  (0x0106, 0),
  (0x0107, 2),
  (0x0108, 2),
  (0x0109, 1),
  (0x010A, 2),
  (0x010B, 1),
  (0x010C, 2),
  (0x010D, 1),
  (0x0110, 1),
  (0x0111, 0),
  (0x0112, 2),
  (0x0113, 2),
  (0x0114, 1),
  (0x0115, 0),
  (0x0116, 2),
  (0x0117, 1),
  (0x0118, 0),
  (0x0119, 0),
  (0x0120, 1),
  (0x0121, 1),
  (0x0122, 0),
  (0x0123, 2),
  (0x0130, 2),
  (0x0131, 2),
  (0x0132, 0),
  (0x0133, 2),
  (0x0134, 2),
  (0x0135, 1),
  (0x0140, 2),
  (0x0141, 0),
  (0x0142, 1),
  (0x0143, 2),
  (0x0144, 1),
  (0x0145, 2),
  (0x0146, 0),
  (0x0147, 2),
  (0x0150, 2),
  (0x0151, 1),
  (0x0152, 2),
  (0x0153, 1),
  (0x0154, 2),
  (0x0155, 2),
  (0x0156, 2),
  (0x0157, 2)]

/-- Severity that a device code's bucket defaults go by (R278). -/
def devSev (code : Nat) : Nat := lookupD (devSev1 ++ devSev2) code 0

/-- Bucket depth and refill in ms of a severity (R278). -/
def sevRate (sev : Nat) : Nat × Nat :=
  match sev with
  | 0 => (8, 1000)
  | 1 => (8, 1000)
  | 2 => (32, 100)
  | _ => (64, 10)

/-- Codes that take no tokens (R277). -/
def noToken : List Nat := [0x00E0, 0x00E1, 0x00E2, 0x00E7, 0x00E8, 0x0140]

/-- The block, as its number b · 0x400, whose bit a device record sets (R390): by the code's group. -/
def blockOf (code : Nat) : Nat :=
  if code < 0x0060 then 0
  else if code < 0x0070 then 5
  else if code < 0x0080 then 6
  else if code < 0x0090 then 7
  else if code < 0x00B0 then 8
  else if code < 0x00C0 then 10
  else if code < 0x00D0 then 9
  else if code < 0x00E0 then 11
  else if code = 0x00E3 ∨ code = 0x00E4 then 14
  else if code = 0x00E5 ∨ code = 0x00E6 then 13
  else if code < 0x00F0 then 12
  else if code < 0x00F3 ∨ code = 0x00F7 then 14
  else if code < 0x0100 then 15
  else if code < 0x0110 then 16
  else if code < 0x0120 then 17
  else if code = 0x0120 then 3
  else if code = 0x0122 then 4
  else if code < 0x0130 then 0
  else if code < 0x0140 then 2
  else if code < 0x0150 then 1
  else 0

/-- Filter presets 1 to 6 of R66: L1, D1, L2, D2. -/
def preset (n : Nat) : Option (Nat × Nat × Nat × Nat) :=
  match n with
  | 1 => some (256, 128, 2, 2)
  | 2 => some (128, 64, 2, 2)
  | 3 => some (64, 32, 2, 2)
  | 4 => some (256, 256, 1, 1)
  | 5 => some (128, 128, 1, 1)
  | 6 => some (64, 64, 1, 1)
  | _ => none

/-- Fallback limits of the fixed auxiliary entries, low and high (R482). -/
def auxLim : List (Nat × Nat) := [
  (7733, 53084), (7733, 53084), (0, 49807), (41091, 45416), (44827, 49545), (18678, 24773), (28312, 34603), (49807, 55050),
  (49807, 55050), (24904, 27525), (29884, 33030), (31130, 34406), (4864, 48384), (4864, 48384), (4864, 48384), (31143, 31772),
  (53419, 53956), (53419, 53956), (0, 65535), (0, 65535), (11954, 13212), (11954, 13212), (0, 64), (58805, 59159)]

/-- IEC and IEEE curves by code (R134): A, p, B, and tr where the curve has dependent reset. -/
def curve (c : Nat) : Rat × Rat × Rat × Rat :=
  match c with
  | 1 => (14 / 100, 2 / 100, 0, 0)
  | 2 => (135 / 10, 1, 0, 0)
  | 3 => (80, 2, 0, 0)
  | 4 => (120, 1, 0, 0)
  | 5 => (515 / 10000, 2 / 100, 114 / 1000, 485 / 100)
  | 6 => (1961 / 100, 2, 491 / 1000, 216 / 10)
  | 7 => (282 / 10, 2, 1217 / 10000, 291 / 10)
  | _ => (0, 1, 0, 0)

/-- Library charge of an element kind in cycles per tick, given its number of inputs (R105, R158). -/
def charge (kind nin : Nat) : Nat :=
  if kind = 0x01 then 420
  else if kind = 0x02 then 160
  else if kind = 0x03 then 240
  else if kind = 0x04 ∨ kind = 0x05 ∨ kind = 0x06 then 110
  else if kind = 0x07 then 380
  else if kind = 0x08 ∨ kind = 0x09 then 160
  else if kind = 0x0A ∨ kind = 0x0B ∨ kind = 0x0C then 150
  else if kind = 0x0D then 300
  else if kind = 0x0E then 140
  else if kind = 0x0F then 90
  else if kind = 0x10 then 48
  else if kind = 0x11 then 12 * ((nin - 2 + 7) / 8) + 24
  else if kind = 0x12 then 24
  else if kind = 0x13 then 120
  else if kind = 0x14 then 260
  else if kind = 0x15 then 600
  else if kind = 0x16 then 24
  else if kind = 0x17 then 380
  else if kind = 0x18 then 300
  else if kind = 0x19 then 24
  else if kind = 0x1A then 140
  else if kind = 0x20 ∨ kind = 0x21 ∨ kind = 0x22 then 12
  else if 0x23 ≤ kind ∧ kind ≤ 0x27 then 24
  else 0

end Sys2Proof.Config
end

