-- ==== Sys2Proof/Machine/State.lean ====
section
/-! DEFINITION. State of the ZX6340 block: everything the spec gives the machine, as plain data, with the values of reset as field defaults; the types of faults and refusals; State.reset. -/

namespace Sys2Proof.Machine

/-- Operating states (R23, R26). -/
inductive OpState where
  | off | dormant | boot | blocked | inService | standby | test | failsafe
  deriving DecidableEq, Repr, Inhabited

/-- Why the machine would stop. The spec gives the ZX6340 no behaviour that stops it, so no meaning answers with this one; it is kept so that the type of outcomes is the host's. Safe: nothing raises it. -/
inductive Fault where
  | stopped
  deriving DecidableEq, Repr, Inhabited

/-- Why a command would be refused by the model. -/
inductive Refusal where
  /-- Raised by an arm of exec for a row that has no meaning yet; safe. -/
  | notModelled (mnemonic : String)
  deriving DecidableEq, Repr, Inhabited

/-- The state logic (R23-R33) and the interrupt status (R390, R391). -/
structure Sys where
  /-- Operating state; BOOT after power-on (SYS_STATE reset 0x1). -/
  st : OpState := .boot
  /-- A request written and not yet taken (R28). -/
  pend : Option Nat := none
  /-- SYS_STATE req: the last request written. -/
  reqVal : Nat := 0
  /-- OT at the latest accepted write of a request; a tick at least 2 µs later has come (R28); the request waits for a return from level 2 or for the end of an activation (R29). -/
  reqOt : Nat := 0
  reqDue : Bool := false
  reqHold : Bool := false
  /-- SYS_STATE req_result (R32). -/
  reqResult : Nat := 0
  /-- SYS_STATE last_cause (R33). -/
  lastCause : Nat := 0
  /-- SYS_TICK_COUNT. -/
  ticks : Nat := 0
  /-- FAILSAFE causes that hold now, as last_cause codes (R26). -/
  causes : List Nat := []
  /-- State from which FAILSAFE was entered (R26). -/
  failFrom : OpState := .boot
  /-- OT of the tick of the latest automatic transition (R28). -/
  autoTick : Option Nat := none
  /-- An automatic transition falls due at the latest tick (R28). -/
  autoDue : Bool := false
  /-- HEALTH driver closed (R24). -/
  health : Bool := false
  /-- An orderly dormant shutdown runs (R30, R450). -/
  shutting : Bool := false
  /-- The state left for BOOT, as SYS_STATE codes it, until the STATE_CHANGE of that move is staged (R26, R30). -/
  bootFrom : Option Nat := some 0
  /-- SYS_IRQ_STAT (R390). -/
  irq : Word := 0
  /-- SYS_NME_STAT (R391): restart is set at every power-on and reset. -/
  nme : Word := 0x10
  deriving DecidableEq, Repr, Inhabited

/-- The host port and the other transaction paths (R382-R389). -/
structure HostPort where
  /-- The port answers (R388). -/
  up : Bool := false
  crcErr : Nat := 0
  frameErr : Nat := 0
  badCmd : Nat := 0
  lastStatus : Nat := 0
  lastCmd : Nat := 0
  lastAddr : Nat := 0
  /-- The latest answer and the path on which it goes back (R385). -/
  answer : Option (KeyClass × List Byte) := none
  deriving DecidableEq, Repr, Inhabited

/-- One KEYWAY entry (R229): address range, classes kept for reads and for writes. -/
structure KeyEntry where
  first : Nat
  last : Nat
  mask : Nat
  flags : Nat
  deriving DecidableEq, Repr, Inhabited

/-- The keyway (R393-R397). -/
structure Keyway where
  /-- DBG_EN as latched at reset. -/
  dbgEn : Bool := false
  /-- KEYWAY entries in effect. -/
  entries : List KeyEntry := []
  /-- KEY_REFUSED, one count per class. -/
  refused : List Nat := [0, 0, 0, 0]
  deriving DecidableEq, Repr, Inhabited

/-- One outstanding submitted job (R398). `step` counts the steps that have run. -/
structure Job where
  ticket : Nat
  code : Nat
  arg : Nat
  cls : KeyClass
  step : Nat
  deriving DecidableEq, Repr, Inhabited

/-- The outcome of a ticket (R403): JOB_STATUS state and reason. -/
structure JobEnd where
  ticket : Nat
  state : Nat
  reason : Nat
  deriving DecidableEq, Repr, Inhabited

/-- Jobs (R398-R403). -/
structure Jobs where
  /-- Outstanding submitted jobs in ticket order, at most 4. -/
  out : List Job := []
  /-- Outcomes of the latest 16 tickets, newest first. -/
  hist : List JobEnd := []
  /-- The next ticket. -/
  next : Nat := 1
  /-- JOB_TICKET per class: ticket and result. -/
  tickets : List (Nat × Nat) := [(0, 0), (0, 0), (0, 0), (0, 0)]
  /-- Position in the running round: the jobs that had their step in this round (R401), module-started jobs as tickets 0x10000 and up. -/
  round : List Nat := []
  deriving DecidableEq, Repr, Inhabited

/-- The wall-time annex of a record (R268). -/
structure Annex where
  sec : Nat
  ns : Nat
  qual : Nat
  deriving DecidableEq, Repr, Inhabited

/-- One entry of the staging ring (R266, R273). -/
structure Entry where
  ot : Nat
  qual : Nat
  pcc : Nat
  code : Nat
  sev : Nat
  flags : Nat
  annex : Option Annex
  body : List Byte
  deriving DecidableEq, Repr, Inhabited

/-- A token bucket (R276, R277): tokens it lacks, suppressed count with first and last OT, summaries made. -/
structure Bucket where
  lacks : Nat := 0
  pending : Nat := 0
  first : Nat := 0
  last : Nat := 0
  summaries : Nat := 0
  deriving DecidableEq, Repr, Inhabited

/-- Where a written record lies in MRAM: offset, length, sequence. -/
structure RecIx where
  off : Nat
  len : Nat
  seq : Nat
  deriving DecidableEq, Repr, Inhabited

/-- A ledger cursor (R279, R280). `ix` is the record at the cursor; none at an end. -/
structure Cursor where
  /-- In the first area. -/
  area : Bool := false
  ix : Option RecIx := none
  /-- Stands before the oldest record of its area rather than past the newest. -/
  before : Bool := false
  /-- The record after which the cursor stands, once it has moved past the newest one. -/
  past : Option RecIx := none
  status : Nat := 3
  /-- The move that runs, while busy. -/
  op : Nat := 0
  deriving DecidableEq, Repr, Inhabited

/-- The ledger (R264-R283). -/
structure Ledger where
  ring : List Entry := []
  /-- Lost counts that await STAGING_OVERFLOW (R273). -/
  ovLow : Nat := 0
  ovHigh : Nat := 0
  /-- LDG_LOST. -/
  lostLow : Nat := 0
  lostHigh : Nat := 0
  /-- The ring is closed after a power fail (R275). -/
  closed : Bool := false
  /-- Entries discarded, left unwritten or lost since the power fail (R275). -/
  pfLost : Nat := 0
  /-- Entries lost between the end of the flush and the reopening (R443). -/
  lateLost : Nat := 0
  /-- Buckets that differ from a full one, by code. -/
  buckets : List (Nat × Bucket) := []
  scanning : Bool := true
  /-- Commission job has run; first area closed (R265). -/
  commissioned : Bool := false
  firstFull : Bool := false
  /-- Sequence of the next record (R271). -/
  nextSeq : Nat := 1
  floor : Nat := 1
  /-- Records written and not since invalidated, oldest first, of each area. -/
  first : List RecIx := []
  circ : List RecIx := []
  /-- Next write position of each area, from the area's start. -/
  firstPos : Nat := 0
  circPos : Nat := 0
  cursors : List Cursor := [{}, {}, {}, {}]
  deriving DecidableEq, Repr, Inhabited

/-- One tick kept for captures (R286, R287): sample words, recorded net bits, OT and the test state. -/
structure TickRec where
  words : List Word
  nets : Nat
  ot : Nat
  deriving DecidableEq, Repr, Inhabited

/-- A capture (R284, R285): slot chosen, tick count wanted, ticks recorded (oldest first), trigger list, header fields. -/
structure Capture where
  slot : Nat
  num : Nat
  want : Nat
  ticks : List TickRec
  trigIx : Nat
  /-- Tick index and trigger number (0xFF host). -/
  trigs : List (Nat × Nat)
  moreTrigs : Bool
  ot : Nat
  qual : Nat
  pcc : Nat
  wall : Annex
  test : Bool
  protect : Bool
  chans : Nat
  netRefs : List Nat
  gen : Nat
  gd : Nat
  fp : Nat
  gains : List Nat
  ks : List Rat
  deriving DecidableEq, Repr, Inhabited

/-- What the module knows of a capture slot (R289, CAP_SLOT_INFO). -/
structure CapSlot where
  num : Nat := 0
  /-- CAP_SLOT_INFO state: 0 empty, 1 valid, 2 being written, 3 hallmarked but failing its CRC. -/
  state : Nat := 0
  prot : Bool := false
  /-- Ticket of the export job that leases it. -/
  lease : Option Nat := none
  deriving DecidableEq, Repr, Inhabited

/-- Captures (R284-R290). -/
structure Caps where
  /-- Pre-trigger buffer, newest first, at most 17,476 ticks. -/
  buf : List TickRec := []
  recording : Option Capture := none
  /-- Captures waiting to be written, oldest first, at most 2; the first is being written when `writing`. -/
  waiting : List Capture := []
  writing : Bool := false
  /-- Pieces of the slot written so far in the order of R288. -/
  written : Nat := 0
  slots : List CapSlot := List.replicate 16 {}
  lost : Nat := 0
  /-- A host trigger written and not yet judged (CAP_CTL trig). -/
  hostTrig : Bool := false
  /-- Next capture number, persistent (R285, R440). -/
  nextNum : Nat := 1
  /-- Trigger references' values at the tick before. -/
  prev : List Bool := []
  /-- A tick has been latched and waits to be recorded with the nets committed for it; a host trigger that it takes. -/
  due : Bool := false
  host : Bool := false
  /-- OT of the latest TRIP record staged (R289). -/
  trip : Option Nat := none
  deriving DecidableEq, Repr, Inhabited

/-- Clock system (R407-R429). -/
structure Clocks where
  level : Nat := 0
  /-- 0 SYS PLL, 1 IRC, 2 LFO. -/
  sysSrc : Nat := 0
  /-- 0 REFCLK, 1 IRC, 2 none. -/
  ref : Nat := 0
  refOk : Bool := false
  ircOk : Bool := false
  /-- REFCLK is judged stable (R410). -/
  refStable : Bool := false
  ircTrimmed : Bool := false
  lfoTrimmed : Bool := false
  sysLock : Bool := false
  convLock : Bool := false
  laneLock : Bool := false
  convHold : Bool := false
  laneHold : Bool := false
  muxForced : Bool := false
  lfoFail : Bool := false
  cause : Nat := 0
  /-- CLK_REF freq (R409). -/
  freq : Nat := 0
  level1 : Nat := 0
  level2 : Nat := 0
  ircCode : Nat := 100
  lfoCode : Nat := 1500
  /-- Tries of the IRC restart at level 2 (R419). -/
  ircTries : Nat := 0
  /-- The engine clock runs at 600 MHz. -/
  op : Bool := false
  ramping : Bool := false
  /-- The rail's goal is 0.90 V. -/
  railHigh : Bool := false
  /-- The rail has settled at its goal. -/
  settled : Bool := true
  raises : Nat := 0
  /-- OT of the latest raise request (R425). -/
  lastRaise : Nat := 0
  /-- Leaves that run: CHAIN-A, CHAIN-B, ETH0, ETH1, debug port (R422); a leaf requested off runs until its work ends. -/
  leaf : List Bool := [true, true, true, true, true]
  cgRefused : Nat := 0
  measBusy : Bool := false
  measDone : Bool := false
  measUnlocked : Bool := false
  measCnt : Nat := 0
  deriving DecidableEq, Repr, Inhabited

/-- A counter block of the identity area (R440). -/
structure CounterBlock where
  ot : Nat
  qual : Nat
  pcc : Nat
  pos : Nat
  nextSeq : Nat
  capNum : Nat
  mismatches : Nat
  holds : Nat
  corrections : Nat
  pf : Bool
  deriving DecidableEq, Repr, Inhabited

/-- Stages of a power fail (R438-R443). -/
inductive PfStage where
  | none | flushing | committing | committed
  deriving DecidableEq, Repr, Inhabited

/-- Supplies, reset and start-up (R432-R455); the always-on domain's counters. -/
structure Power where
  /-- OT in µs, 56 bits (R267). -/
  ot : Nat := 0
  resumed : Bool := false
  /-- OT runs on the untrimmed LFO since power-on. -/
  untrimmed : Bool := true
  /-- PWR_OT_HI as latched by a read of PWR_OT_LO. -/
  otHi : Word := 0
  /-- Feeds A and B: judged in range; diode open for overvoltage (R363); a feed that can supply (at 5.5 V, diode closed). -/
  feedOk : List Bool := [false, false]
  feedHigh : List Bool := [false, false]
  feedSup : List Bool := [false, false]
  holdReady : Bool := false
  holdSmall : Bool := false
  holdFault : Bool := false
  capUf : Nat := 0
  tCharge : Nat := 0
  /-- HOLD is being charged or held at 18 V (R436). -/
  charging : Bool := false
  restored : Bool := false
  bootStep : Nat := 0
  /-- PWR_RESET cause and rail. -/
  cause : Nat := 0
  rail : Nat := 15
  hcRestarts : Nat := 0
  pcc : Nat := 0
  /-- The two PCC copies of the identity area (R441); none: not valid. -/
  pccCopies : List (Option Nat) := [none, none]
  /-- Counter blocks A and B (R440); none: not valid. -/
  blocks : List (Option CounterBlock) := [none, none]
  /-- Index of the block written last. -/
  newest : Nat := 1
  pf : PfStage := .none
  /-- HOLD reading in mV at the declaration. -/
  holdMv : Nat := 0
  /-- RESET_N holds the module in reset. -/
  held : Bool := false
  /-- A host reset's flush runs (R445). -/
  hostReset : Bool := false
  /-- OT of the reference of R448, of the entry into DORMANT, and PWR_BOOT. -/
  bootOt : Int := 0
  dormantOt : Nat := 0
  toBlocked : Nat := 0
  toService : Nat := 0
  /-- A wake event came during the dormant shutdown (R453). -/
  wakeAfter : Bool := false
  /-- A feed was judged out of range and not since found back by the running logic (R364, R452). -/
  feedWasOut : List Bool := [false, false]
  /-- The defect map has been read, and the short self-test has ended (R448). -/
  mapRead : Bool := false
  tested : Bool := false
  /-- RESET_N fell while a commit ran (R453). -/
  resetWaits : Bool := false
  /-- CHAIN_ROOT strap. -/
  rootStrap : Bool := false
  deriving DecidableEq, Repr, Inhabited

/-- A pair in the defect map (R457): state 0 good, 1 out at manufacture, 2 out in the field. -/
structure DefPair where
  state : Nat := 0
  reason : Nat := 0
  transients : Nat := 0
  lastT : Nat := 0
  prevT : Nat := 0
  deriving DecidableEq, Repr, Inhabited

/-- The items of the defect map (R457). -/
structure DefMap where
  pairs : List DefPair := List.replicate 16 {}
  /-- State and failures since the last pass, cores A0-A8, B0-B8. -/
  cores : List (Nat × Nat) := List.replicate 18 (0, 0)
  /-- State and consecutive failed judgements, receive lanes A0-A4, B0-B4. -/
  lanes : List (Nat × Nat) := List.replicate 10 (0, 0)
  /-- Spare rows: the row replaced (none unused) and the reason. -/
  ssRows : List (Option (Nat × Nat)) := List.replicate 16 none
  mramRows : List (Option (Nat × Nat)) := List.replicate 64 none
  deriving DecidableEq, Repr, Inhabited

/-- A stored copy of the defect map (R458): update count, PCC and OT at writing, items. -/
structure DefCopy where
  update : Nat
  pcc : Nat
  ot : Nat
  map : DefMap
  deriving DecidableEq, Repr, Inhabited

/-- Defects and repair (R456-R467). -/
structure Defects where
  map : DefMap := {}
  /-- The two stored copies; copy 0 holds the factory map with update count 1 (R459). -/
  copies : List (Option DefCopy) := [some { update := 1, pcc := 0, ot := 0, map := {} }, none]
  copy : Nat := 0
  rebuilt : Bool := false
  /-- An item has changed since the last write (R458). -/
  dirty : Bool := false
  mramFail : Bool := false
  ssCorr : Nat := 0
  mramCorr : Nat := 0
  /-- State-store rows with an uncorrectable error or repeated corrections that wait for a spare: row, reason. -/
  ssDue : List (Nat × Nat) := []
  /-- Corrections noted for R463: word index, OT of the latest, count. -/
  ssLog : List (Nat × Nat × Nat) := []
  /-- SS_ROW_NO_SPARE, MRAM_ROW_NO_SPARE staged once. -/
  ssNoSpare : Bool := false
  mramNoSpare : Bool := false
  /-- MRAM words rewritten after a correction (R464), and words that read uncorrectable. -/
  mramSeen : List Nat := []
  mramBad : List Nat := []
  /-- Items reported under MRAM_UNCORRECTABLE. -/
  mramTold : List Nat := []
  /-- Position of the background scrub, in KiB. -/
  scrub : Nat := 0
  /-- MRAM rows waiting for a spare: row, reason. -/
  mramDue : List (Nat × Nat) := []
  deriving DecidableEq, Repr, Inhabited

/-- What MRAM keeps outside the byte-addressed items: stored overrides of P registers (R10, R239), persistent latches by instance name (R184), breaker-wear totals by instance name (R182), the stored template and its parameters, core coefficients and baselines. -/
structure NonVol where
  ovr : List (Nat × Word) := []
  latches : List (Nat × Bool) := []
  /-- Latches changed and not yet written (R184). -/
  latchDirty : List Nat := []
  /-- Name CRC of the instance: totals of the three poles and the count of openings. -/
  wear : List (Nat × (List Rat × Nat)) := []
  /-- Lifetime counts of mismatches, held ticks and corrections (R440). -/
  mismatches : Nat := 0
  holds : Nat := 0
  corrections : Nat := 0
  deriving DecidableEq, Repr, Inhabited

/-- What a core is doing (AFE_CORE_INFO role). -/
inductive CoreRole where
  | inService | idle | comparing | calibrating | parked | mappedOut
  deriving DecidableEq, Repr, Inhabited

/-- A converter core (R41-R48): role, passed calibrations over its life, stored offset and gain error. Failures and mapped-out state are in the defect map. -/
structure ConvCore where
  role : CoreRole := .inService
  calCount : Nat := 0
  offset : Int := 0
  gainErr : Int := 0
  /-- The stored correction at the five linearity points, in ppm of FS. -/
  corr : List Rat := []
  deriving DecidableEq, Repr, Inhabited

/-- The kind of step a bank runs (R42, R51, R52). -/
inductive StepKind where
  | rotation | suspect
  deriving DecidableEq, Repr, Inhabited

/-- step_phase of AFE_BANK_STAT. -/
inductive StepPhase where
  | compare | calibrate | waiting | stopped
  deriving DecidableEq, Repr, Inhabited

/-- A bank (R40-R54). Channels and cores are bank-relative. -/
structure Bank where
  /-- Core that serves each channel. -/
  map : List (Option Nat)
  spare : Option Nat
  noSpare : Bool := false
  /-- Channel of the current or next step. -/
  rotCh : Nat := 0
  phase : StepPhase := .waiting
  kind : StepKind := .rotation
  /-- The comparison waits until a change's invalid outputs have passed (R60). -/
  restart : Bool := false
  /-- Steps completed in this rotation, and rotations (R46). -/
  steps : Nat := 0
  rotations : Nat := 0
  /-- k in use; 0 when the pilot is off (R54). -/
  kEff : Nat := 0
  /-- 0 on, 1 off_no_null, 2 off_host. -/
  pilot : Nat := 0
  /-- REFDAC_FAIL holds the bank (R52); channel of the interrupted step; parked core to be calibrated. -/
  refdacFail : Bool := false
  /-- The step about to be resumed is that of the recheck (R52). -/
  resume : Bool := false
  /-- The shadow filter during a comparison: invalid outputs still to come, and valid ones so far, the handover's tick included (R42, R75). -/
  shLeft : Nat := 0
  shCmp : Nat := 0
  /-- A power fail came during the calibration that runs: no coefficients are written (R60). -/
  void : Bool := false
  deriving DecidableEq, Repr, Inhabited

/-- A channel's pilot judgement (R55-R58) and gain in effect. -/
structure AfeCh where
  gain : Nat := 0
  suspect : Bool := false
  /-- Windows in a row inside the alarm window since suspect set. -/
  inside : Nat := 0
  /-- The correlator is within its first window. -/
  fresh : Bool := true
  ampDev : Int := 0
  phDev : Int := 0
  /-- Stored baselines per gain code: amplitude in mV peak and phase in degrees (R56). -/
  base : List (Option (Rat × Rat)) := [none, none, none, none]
  /-- Stored PGA coefficients per gain code: offset and gain error (R61). -/
  pga : List (Option (Rat × Rat)) := [none, none, none, none]
  /-- Under foreground calibration (R61). -/
  cal : Bool := false
  /-- Served under R51 since its suspect set. -/
  served : Bool := false
  /-- A gain written and waiting for its boundary (R74, R79). -/
  gainPend : Option Nat := none
  deriving DecidableEq, Repr, Inhabited

/-- The front end (R35-R62). -/
structure Afe where
  cores : List ConvCore := (List.range 18).map (fun c => { role := if c % 9 = 8 then .idle else .inService })
  banks : List Bank := List.replicate 2 { map := (List.range 8).map some, spare := some 8 }
  ch : List AfeCh := List.replicate 16 {}
  deriving DecidableEq, Repr, Inhabited

/-- Filter settings L1, D1, L2, D2 and the preset they came from (R66). -/
structure FltSet where
  l1 : Nat
  d1 : Nat
  l2 : Nat
  d2 : Nat
  preset : Nat
  deriving DecidableEq, Repr, Inhabited

/-- One channel of the filter chain (R63-R76). -/
structure FltCh where
  /-- Converter codes of the span, newest first. -/
  win : List Int := []
  /-- Invalid outputs still to come (R76); as the latest tick left them; and the largest B of the changes at its boundary (R75, R79). -/
  left : Nat := 0
  left0 : Nat := 0
  nowB : Nat := 0
  /-- The latest sample word. -/
  word : Word := 0x40
  /-- Value of the last word with valid = 1 (R72). -/
  held : Int := 0
  /-- The newest 1,024 codes, newest first, for the publish filter (R314). -/
  raw : List Int := []
  /-- Discarded samples still to come (R75), and conversions since the last one. -/
  blank : Nat := 0
  clean : Nat := 1024
  deriving DecidableEq, Repr, Inhabited

/-- The filter chain (R63-R80). -/
structure Flt where
  eff : FltSet := { l1 := 128, d1 := 64, l2 := 2, d2 := 2, preset := 2 }
  pend : Option FltSet := none
  /-- FLT_STAT cfg_result. -/
  result : Nat := 0
  running : Bool := false
  ch : List FltCh := List.replicate 16 {}
  deriving DecidableEq, Repr, Inhabited

/-- A sequencer entry's result (R83). -/
structure AuxRes where
  code : Nat := 0
  valid : Bool := false
  /-- Inside its limits for a whole pass since it last left the window; AUX_LIMIT may be staged. -/
  armed : Bool := true
  /-- Passes since the latest result (R84), and results in a row inside the window. -/
  age : Nat := 0
  inside : Nat := 0
  outLow : Bool := false
  outHigh : Bool := false
  deriving DecidableEq, Repr, Inhabited

/-- The auxiliary converter (R81-R94). -/
structure Aux where
  /-- The entry that converts next. -/
  entry : Nat := 0
  res : List AuxRes := List.replicate 32 {}
  passes : Nat := 0
  /-- AUX_STAT ref_fail: AFE reference (per bank), pilot DAC (per bank), bandgap; the reference DAC's is Bank.refdacFail. -/
  afeRef : List Bool := [false, false]
  pilotDac : List Bool := [false, false]
  bandgap : Bool := false
  missed : Nat := 0
  injRun : Bool := false
  injPend : Bool := false
  injRes : List (Option Nat) := [none, none, none, none]
  /-- Of the run held pending: its triggers (bit 0 the net, bit 1 the host) and the OT of the first (R87). -/
  injSrc : Nat := 0
  injAt : Nat := 0
  /-- Completed groups by OT of completion, newest first, and the results as the engines read them (R86). -/
  injLog : List (Nat × List (Option Nat)) := []
  injNets : List (Option Nat) := [none, none, none, none]
  /-- The scheme's trigger net as last looked at. -/
  trigNet : Bool := false
  calBusy : Bool := false
  calStep : Nat := 0
  calLate : Bool := false
  /-- OT at which the latest calibration started (R88, R89). -/
  calOt : Nat := 0
  offset : Int := 0
  gainPpm : Int := 0
  deriving DecidableEq, Repr, Inhabited

/-- Role of a pair (PE_PAIR_STAT). -/
inductive PairRole where
  | placed | spare | isolated | mappedOut
  deriving DecidableEq, Repr, Inhabited

/-- A binary net: value and held bit (R99). -/
structure BNet where
  v : Bool := false
  held : Bool := false
  deriving DecidableEq, Repr, Inhabited

/-- An analogue net: value and quality byte (R99). -/
structure ANet where
  v : Rat := 0
  q : Byte := 0
  deriving DecidableEq, Repr, Inhabited

/-- A staged event of an attempt (R103): code, severity, body. -/
structure Ev where
  code : Nat
  sev : Nat
  body : List Byte
  deriving DecidableEq, Repr, Inhabited

/-- How far a placement's work of the tick has come (R102, R108-R113, R417). -/
inductive AttSt where
  | running | committed | reexecWait | reexec | discarded | held
  deriving DecidableEq, Repr, Inhabited

/-- What an element keeps for one phase, input or end. -/
structure PhaseSt where
  /-- Blocking, on, or asserted. -/
  on : Bool := false
  /-- Direction: 0 unknown, 1 forward, 2 reverse. -/
  dir : Nat := 0
  cnt : Nat := 0
  hold : Nat := 0
  below : Nat := 0
  num : Rat := 0
  deriving DecidableEq, Repr, Inhabited

/-- One sample value of an estimator's history: per-unit value, valid, quality bits [5:1] and 0 (R128, R129). -/
structure Smp where
  x : Rat
  ok : Bool
  q : Byte
  deriving DecidableEq, Repr, Inhabited

/-- An output of an element: a binary or an analogue net's value (R99). -/
inductive NetVal where
  | bin (v : Bool)
  | ana (n : ANet)
  /-- An output that this instance does not publish. -/
  | absent
  deriving DecidableEq, Repr, Inhabited

/-- The state record of an element instance (R98, R141, R159, R168, R175). One record serves every kind; a kind uses the fields that its rule names. -/
structure ElemSt where
  num : Nat
  /-- Setting group of the latest tick worked: another one means that start is judged afresh (R126). -/
  grp : Nat := 0
  started : Bool := false
  operate : Bool := false
  /-- The outputs are valid. -/
  valid : Bool := true
  /-- The invalid timeout has elapsed. -/
  tout : Bool := false
  /-- Ticks in a row with invalid inputs (R123). -/
  bad : Nat := 0
  /-- Kind-specific flags, bits [7:4] of word 0. -/
  flags : Nat := 0
  /-- Started ticks; running timer. -/
  count : Nat := 0
  /-- Ticks since drop-off; second timer. -/
  rcount : Nat := 0
  /-- Third timer: start duration, hold-over ticks, blocking window. -/
  tcount : Nat := 0
  /-- Integrator; thermal level. -/
  integ : Rat := 0
  /-- M of the starting phase with the largest M; measured quantity. -/
  m : Rat := 0
  /-- Word 3 of an overcurrent record. -/
  tus : Nat := 0
  /-- Autoreclose state code; block cause; stage of a function. -/
  mode : Nat := 0
  /-- Shot counter; operations counted. -/
  shot : Nat := 0
  /-- Inputs at the tick before, for edges and delays. -/
  prev : List Bool := []
  ph : List PhaseSt := []
  /-- Phasors and other numbers kept for readers: for an estimator X1, X1h and X2 as (re, im), then x and M_fs. -/
  z : List Rat := []
  /-- Sample history, newest first. -/
  hist : List Smp := []
  /-- Histories of numbers, newest first (frequency, memory, arguments). -/
  hists : List (List Rat) := []
  /-- Histories of a zone's ends, phase by phase, newest first (R170). -/
  ends : List (List Smp) := []
  /-- The kind's own outputs after start, operate and inv, as last written. -/
  own : List NetVal := []
  deriving DecidableEq, Repr, Inhabited

/-- One attempt at a placement's work in a tick: the write buffer of the commit gate (R102). -/
structure Attempt where
  pl : Nat
  pair : Nat
  st : AttSt
  bnets : List (Nat × Bool)
  anets : List (Nat × ANet)
  els : List ElemSt
  evs : List Ev
  deriving DecidableEq, Repr, Inhabited

/-- A placement: its pair, charge and peak (R105), held at the latest update, held without limit for want of a pair (R113). -/
structure Placement where
  pair : Option Nat := none
  charge : Nat := 0
  kib : Nat := 0
  peak : Nat := 0
  held : Bool := false
  stuck : Bool := false
  /-- ENGINE_HOLD staged for the hold that runs. -/
  told : Bool := false
  deriving DecidableEq, Repr, Inhabited

/-- Why a pair is under self-test: after an isolation (R112), for a job (R115), in the background (R114). -/
inductive TestKind where
  | isolation | job | background
  deriving DecidableEq, Repr, Inhabited

/-- The engines (R95-R120). -/
structure Engines where
  roles : List PairRole := List.replicate 16 .placed
  /-- Pairs under self-test. -/
  tests : List (Nat × TestKind) := []
  place : List Placement := []
  att : List Attempt := []
  /-- The tick of the attempts (OT). -/
  tickOt : Nat := 0
  /-- A tick's output update is still to come. -/
  updDue : Bool := false
  bnets : List BNet := []
  anets : List ANet := []
  els : List ElemSt := []
  /-- The probe window (R120): binary values and held bits, analogue nets, output command word, state record, sequence. -/
  probeB : List BNet := []
  probeA : List ANet := []
  probeCmd : Nat := 0
  probeRec : List Word := []
  probeSeq : Nat := 0
  mismatches : Nat := 0
  holds : Nat := 0
  bistPair : Nat := 0
  bistResult : Nat := 0
  bistReason : Nat := 0
  bistStep : Nat := 0
  /-- Pairs whose self-test jobs wait for their swap, the next first (R115). -/
  swaps : List Nat := []
  /-- Any placement was held at the latest output update. -/
  heldLast : Bool := false
  noSpare : Bool := false
  deriving DecidableEq, Repr, Inhabited

/-- Frequency tracking (R130). -/
structure Track where
  ft : Rat := 50
  /-- Reference phase psi in turns (R128). -/
  psi : Rat := 0
  /-- The first tick in BLOCKED has come. -/
  run : Bool := false
  /-- Values of the phases of the voltage and the current source, newest first. -/
  hist : List (List Smp) := [[], [], [], [], [], []]
  /-- Arguments of V1 and of I1 in degrees, none where not valid, newest first. -/
  argsV : List (Option Rat) := []
  argsI : List (Option Rat) := []
  /-- Values of f_m, newest first. -/
  fm : List Rat := []
  /-- Ticks for which no source has qualified, and ticks since one qualifies again. -/
  hold : Nat := 0
  back : Nat := 0
  lost : Bool := false
  /-- |V1| of the voltage source in per-unit. -/
  v1 : Rat := 0
  deriving DecidableEq, Repr, Inhabited

/-- An element instance of a scheme (R219): number, kind, placement, net references, setting words per group, name CRC. -/
structure InstCfg where
  num : Nat
  kind : Nat
  place : Nat
  persistent : Bool := false
  ins : List Nat := []
  outs : List Nat := []
  sets : List (List Word) := []
  name : Nat := 0
  /-- Bytes of the state record. -/
  size : Nat := 8192
  deriving DecidableEq, Repr, Inhabited

/-- A channel of CHANMAP (R217). -/
structure ChanCfg where
  kind : Nat := 0
  gain : Nat := 0
  excl : Bool := false
  group : Option Nat := none
  role : Nat := 0
  ks : Rat := 1
  deriving DecidableEq, Repr, Inhabited

/-- A measuring group of CHANMAP (R217): kind, rotation (0 ABC, 1 ACB), In or Un, In_sef. -/
structure GroupCfg where
  kind : Nat := 0
  rot : Nat := 0
  base : Rat := 1
  sef : Rat := 0
  deriving DecidableEq, Repr, Inhabited

/-- A LEDGER entry (R224). -/
structure LedgerCfg where
  code : Nat
  source : Nat
  kind : Nat
  sev : Nat
  depth : Nat
  refill : Nat
  deriving DecidableEq, Repr, Inhabited

/-- The CAPTURE section (R225). -/
structure CaptureCfg where
  pre : Nat
  post : Nat
  mask : Nat
  nets : List Nat
  trigs : List Nat
  protect : Bool
  deriving DecidableEq, Repr, Inhabited

/-- A stream context (R226). -/
structure StreamCfg where
  kind : Nat
  mac : Nat
  delay : Nat
  items : Nat
  dst : Nat
  appid : Nat
  hash : Nat
  first : Nat
  rate : Nat
  vlan : Nat
  deriving DecidableEq, Repr, Inhabited

/-- The CHAIN section (R227): own address, excerpt channels, exports (shared index, reference), imports (source, shared index, local net). -/
structure ChainCfg where
  addr : Nat
  xcp : List Nat
  exports : List (Nat × Nat)
  imports : List (Nat × Nat × Nat)
  deriving DecidableEq, Repr, Inhabited

/-- The HINGE section (R228). -/
structure HingeCfg where
  peer : Nat
  pref : Bool
  mask : Nat
  insts : List Nat
  deriving DecidableEq, Repr, Inhabited

/-- An input, an output and a TCS channel of FIO (R223). -/
structure FioCfg where
  dis : List (Nat × Nat × Nat × Nat)
  dos : List (Nat × Nat)
  groups : List Nat
  tcs : List (Nat × Nat)
  deriving DecidableEq, Repr, Inhabited

/-- A scheme: an image's sections, or a template's (R209-R230). -/
structure SchemeCfg where
  gen : Nat := 0
  enable : Bool := false
  hingeImg : Bool := false
  fpSel : Nat := 1
  fn : Nat := 50
  trkV : Option Nat := none
  trkI : Option Nat := none
  trkMin : Nat := 10
  chans : List ChanCfg := List.replicate 16 {}
  groups : List GroupCfg := List.replicate 8 {}
  filter : FltSet := { l1 := 128, d1 := 64, l2 := 2, d2 := 2, preset := 2 }
  /-- AFE_BANK_CTL words of PILOT. -/
  pilot : Option (List Word) := none
  /-- Charge, microcode KiB of each placement. -/
  places : List (Nat × Nat) := []
  insts : List InstCfg := []
  nGroups : Nat := 1
  initGroup : Nat := 0
  groupNets : List Nat := []
  nb : Nat := 0
  na : Nat := 0
  initB : List Bool := []
  initA : List Rat := []
  /-- The 292 words of FAST in order. -/
  fast : Option (List Word) := none
  fio : Option FioCfg := none
  ledger : List LedgerCfg := []
  capture : Option CaptureCfg := none
  streams : List StreamCfg := []
  chain : Option ChainCfg := none
  hinge : Option HingeCfg := none
  keyway : List KeyEntry := []
  /-- Custom kinds with their declared charges, and bytes of custom code. -/
  custom : List (Nat × Nat) := []
  customBytes : Nat := 0
  deriving DecidableEq, Repr, Inhabited

/-- Stages of a structural activation (R238). -/
inductive ActStage where
  | idle | accepted | blocked | settling
  deriving DecidableEq, Repr, Inhabited

/-- The scheme mechanism (R209-R243). -/
structure Scheme where
  /-- The scheme in force; T0 after power-on. -/
  cfg : SchemeCfg := {}
  /-- 1 while an image runs. -/
  image : Bool := false
  slot : Nat := 0
  tpl : Nat := 0
  /-- The state store holds the scheme's instances. -/
  placed : Bool := false
  lost : Bool := false
  fallback : Bool := false
  bootReason : Nat := 0
  /-- Generation of a valid slot, and the states of SCH_SLOT_STAT. -/
  slotGen : List Nat := [0, 0]
  slotState : List Nat := [0, 0]
  /-- Load job: target, length, phase, reason, section, offset, chunk expected, bytes of the chunk copied. -/
  ldSlot : Nat := 0
  ldLen : Nat := 0
  phase : Nat := 0
  reason : Nat := 0
  sect : Nat := 0
  pos : Nat := 0
  chunk : Nat := 0
  copied : Nat := 0
  ready : Bool := false
  xferErr : Bool := false
  lastChunk : Nat := 0
  /-- The transfer window, 4 KiB (R235). -/
  window : List Byte := []
  /-- Activation: stage, scheme to come, slot or template, kind, ticket, hinge, OT of the reference, result, time in BLOCKED. -/
  act : ActStage := .idle
  actCfg : SchemeCfg := {}
  actImage : Bool := false
  actIx : Nat := 0
  actTicket : Nat := 0
  actHinge : Bool := false
  actOt : Nat := 0
  actResult : Nat := 0
  blockedUs : Nat := 0
  /-- Entered BLOCKED from IN_SERVICE (R238), full-cycle ticks still to wait. -/
  actLeft : Nat := 0
  /-- Setting group in effect, requested group, result. -/
  group : Nat := 0
  groupPend : Option Nat := none
  /-- The stored group failed its check at this start-up, and RESTORE_FAIL is still to be staged (R10). -/
  groupFail : Bool := false
  groupResult : Nat := 0
  /-- Written template parameters that differ from the defaults: instance, group, word, value; waiting ones last. -/
  params : List (Nat × Word) := []
  paramPend : List (Nat × Word) := []
  /-- Parameters written for another template while its activation is accepted (R211). -/
  paramNext : List (Nat × Word) := []
  deriving DecidableEq, Repr, Inhabited

/-- A travelling-wave arrival (R191): seconds, tenths of a nanosecond within the second, holdover. -/
structure Arrival where
  sec : Nat
  tenths : Nat
  hold : Bool
  deriving DecidableEq, Repr, Inhabited

/-- A comparator (R187-R195). -/
structure CmpSt where
  asserted : Bool := false
  /-- Consecutive samples that meet the condition, and that do not while asserted. -/
  count : Nat := 0
  idle : Nat := 0
  /-- Disarmed by the pilot floor (R195). -/
  disarmed : Bool := false
  qualified : Bool := false
  /-- FST_CMP_STAT reason. -/
  reason : Nat := 0
  ops : Nat := 0
  /-- Channel whose codes `prev` holds; codes judged before, newest first, at most 9; instant of the newest. -/
  ch : Nat := 0
  prev : List Int := []
  prevT : Rat := 0
  arr : Option Arrival := none
  fresh : Bool := false
  /-- The arrival as published to the engines (R191). -/
  net : Option Arrival := none
  /-- Asserted at any code of the running period (R198). -/
  seen : Bool := false
  /-- The latest code judged failed its check or was blanked (R193). -/
  codeBad : Bool := false
  /-- Arc mode: each input counts as active (R192). -/
  lightWin : Bool := false
  curWin : Bool := false
  deriving DecidableEq, Repr, Inhabited

/-- The fast path (R187-R208). -/
structure Fast where
  cmp : List CmpSt := List.replicate 64 {}
  /-- fst_c, vote_v and express states as the engines read them (R198). -/
  netC : List Bool := List.replicate 64 false
  netV : List Bool := List.replicate 16 false
  netX : List Nat := []
  /-- Vote asserted at any code of the running period. -/
  seenV : List Bool := List.replicate 16 false
  /-- Raw levels of DI12 to DI15 as the fast path has them (R250). -/
  lights : List Bool := List.replicate 4 false
  /-- OT of the deciding sample while its consequences are drawn (R207). -/
  decOt : Option Nat := none
  /-- Express codes asserted, as 4 · address + group (R200). -/
  x : List Nat := []
  /-- Of each asserted code: chain cycles begun since its latest copy, and the OT of that copy (R200). -/
  xAge : List (Nat × Nat × Nat) := []
  /-- Rows, receive routes and express groups asserted at the latest evaluation. -/
  rows : List Bool := List.replicate 64 false
  xrx : List Bool := List.replicate 16 false
  groups : List Bool := List.replicate 4 false
  /-- Groups that the unit sends (R199). -/
  sending : List Bool := List.replicate 4 false
  /-- EXPRESS_NO_ADDR staged in this boot. -/
  noAddr : Bool := false
  /-- FST_STAT cfg_result. -/
  result : Nat := 0
  deriving DecidableEq, Repr, Inhabited

/-- An input (R247-R250). -/
structure DiSt where
  level : Bool := false
  /-- A level has been accepted since the latest restart (R249). -/
  accepted : Bool := false
  sec : Nat := 0
  us : Nat := 0
  edge : Bool := false
  hold : Bool := false
  /-- The state as the engines read it (R248). -/
  net : Bool := false
  deriving DecidableEq, Repr, Inhabited

/-- An output (R251-R258). -/
structure DoSt where
  /-- Engine command of the latest output update, and whether the state let it drive. -/
  cmd : Bool := false
  drv : Bool := false
  /-- Held on by the hold of R246. -/
  hold : Bool := false
  /-- The hold of R246 runs, whatever the output's state. -/
  holding : Bool := false
  limit : Bool := false
  thermal : Bool := false
  stuck : Bool := false
  cross : Bool := false
  failOff : Bool := false
  openLd : Bool := false
  overload : Bool := false
  /-- Kept off after field recovery (R257); its command has been 0 at an update since. -/
  await : Bool := false
  sawZero : Bool := false
  peer : Bool := false
  current : Nat := 0
  deriving DecidableEq, Repr, Inhabited

/-- A trip-circuit supervision channel (R260): current in µA, continuity, valid reading. -/
structure TcsSt where
  current : Nat := 0
  /-- Readings in a row at or above 0.5 mA, and below 0.3 mA. -/
  ups : Nat := 0
  downs : Nat := 0
  cont : Bool := false
  deriving DecidableEq, Repr, Inhabited

/-- Field inputs and outputs (R244-R263). -/
structure Field where
  /-- FIO_STAT field: 0 normal, 1 sag, 2 lost, 3 high. -/
  state : Nat := 2
  /-- The management coupler has carried frames since power-on. -/
  mgmtUp : Bool := false
  /-- Couplers failed, in the order of FIO_COUPLER. -/
  failed : List Bool := List.replicate 32 false
  /-- Couplers whose COUPLER_FAIL waits for the judgement of R256: coupler and OT. -/
  failPend : List (Nat × Nat) := []
  /-- FIELD_LOST staged for the present loss. -/
  lostTold : Bool := true
  lostCount : Nat := 0
  /-- Readings in a row below 16.8 V and above 30.2 V. -/
  lows : Nat := 0
  highs : Nat := 0
  /-- Readings in a row inside the recovery level of sag or high. -/
  backs : Nat := 0
  vf : Nat := 0
  vfRead : Bool := false
  /-- FIO_STAT cfg_result. -/
  result : Nat := 0
  /-- Ready after a recovery, and waiting for the next output update (R257). -/
  ready : Bool := false
  di : List DiSt := List.replicate 16 {}
  dos : List DoSt := List.replicate 12 {}
  tcs : List TcsSt := [{}, {}]
  /-- Continuity as the engines read it. -/
  tcsNet : List Bool := [false, false]
  deriving DecidableEq, Repr, Inhabited

/-- The time counter and the PTP receiver (R294-R306). -/
structure Ptp where
  /-- Set since the latest entry into BOOT (R294). -/
  set : Bool := false
  sec : Nat := 0
  ns : Nat := 0
  frac : Nat := 0
  /-- Conversion within its triplet (R295), and OT of the latest advance. -/
  tri : Nat := 0
  ot : Nat := 0
  /-- 0 unset, 1 acquiring, 2 locked, 3 holdover, 4 free. -/
  state : Nat := 0
  stepped : Bool := false
  realign : Bool := false
  refused : Bool := false
  armed : Bool := false
  /-- Port in use: 0 none, 1 ETH0, 2 ETH1. -/
  port : Nat := 0
  steps : Nat := 0
  /-- Latest offset in ns. -/
  offset : Int := 0
  /-- Delays of the last 8 Pdelay exchanges per port, newest first. -/
  delays : List (List Rat) := [[], []]
  integ : Rat := 0
  /-- CONV PLL adjustment in ppb; adjustments of the last 60 s locked, newest first. -/
  adj : Rat := 0
  adjLog : List Rat := []
  /-- Offsets in a row of at most 100 ns, and above 1 µs. -/
  good : Nat := 0
  bad : Nat := 0
  /-- Qualified master of each port. -/
  masters : List (Option AnnounceIn) := [none, none]
  /-- The master reported in PTP_GM and the last recorded. -/
  gm : Option AnnounceIn := none
  /-- Two-step Sync that waits for its Follow_Up, per port. -/
  waiting : List (Option SyncIn) := [none, none]
  /-- Holdover causes that hold (R322). -/
  causes : List Nat := []
  /-- The offset last recorded in TIME_STEP_REFUSED (R304). -/
  recorded : Option Int := none
  /-- PTP_TIME as latched (R323). -/
  latchHi : Nat := 0
  latchNs : Nat := 0
  latchFrac : Nat := 0
  /-- smpSynch before holdover, and OT of its entry (R316). -/
  synch : Nat := 0
  hoOt : Nat := 0
  /-- The root's time is traceable to a grandmaster (R336). -/
  traceable : Bool := false
  deriving DecidableEq, Repr, Inhabited

/-- A MAC (R307, R322). -/
structure MacSt where
  link : Bool := false
  speed : Nat := 0
  fault : Bool := false
  dropped : Nat := 0
  deriving DecidableEq, Repr, Inhabited

/-- A sample held for alignment (R317): number of the tick at which it becomes readable, within the day's seconds, smpCnt, smpSynch, items. -/
structure SvHeld where
  at_ : Nat
  cnt : Nat
  synch : Nat
  items : List (Int × Nat)
  deriving DecidableEq, Repr, Inhabited

/-- A stream context (R310-R320). -/
structure CtxSt where
  valid : Bool := false
  test : Bool := false
  last : Nat := 0
  sq : Nat := 0
  frames : Nat := 0
  missed : Nat := 0
  late : Nat := 0
  dups : Nat := 0
  format : Nat := 0
  rate : Nat := 0
  /-- Samples waiting, oldest first. -/
  held : List SvHeld := []
  /-- Values and quality as the engines read them. -/
  cur : List (Rat × Byte) := []
  bits : List Bool := []
  /-- Members of the latest event message, and whether it stands: not overtaken by its time to live, nor barred by ndsCom or simulation (R320). -/
  msg : List Bool := []
  stands : Bool := false
  /-- Ticks in a row without a valid sample; STREAM_LOST staged. -/
  off : Nat := 0
  lost : Bool := false
  /-- Repetition interval of a published event message in ms; allowed time to live of a subscribed one. -/
  ival : Nat := 0
  ttl : Nat := 0
  /-- A first message has been seen or sent. -/
  started : Bool := false
  /-- OT of the latest event message (R320). -/
  got : Nat := 0
  deriving DecidableEq, Repr, Inhabited

/-- A frame that the module sends on the network. -/
inductive NetOut where
  | sv (ctx cnt synch : Nat) (items : List (Int × Nat)) (test : Bool)
  | event (ctx stNum sqNum ttl : Nat) (members : List Bool) (test : Bool)
  | supervision
  | mgmt (m dst seq : Nat) (answers : List (List Byte))
  | pdelayResp (p seq : Nat) (t2 t3 : Int)
  deriving DecidableEq, Repr, Inhabited

/-- MACs and streams (R307-R320). -/
structure Svc where
  mac : List MacSt := [{}, {}]
  dups : Nat := 0
  lanErrors : Nat := 0
  /-- Trailers seen: source, sequence, LAN, OT. -/
  seen : List (Nat × Nat × Nat × Nat) := []
  /-- Contexts in section order. -/
  ctx : List CtxSt := []
  /-- Frames that the latest sending command sent. -/
  sent : List NetOut := []
  deriving DecidableEq, Repr, Inhabited

/-- Training state of a chain port (CHN_PORT state). -/
inductive PortState where
  | down | clock | align | deskew | spare | switch | up | recovery
  deriving DecidableEq, Repr, Inhabited

/-- A chain port (R324-R332). -/
structure ChnPort where
  st : PortState := .down
  rxSpare : Nat := 4
  rxFailed : Nat := 0
  txSpare : Nat := 4
  trainings : Nat := 0
  recoveries : Nat := 0
  violations : Nat := 0
  crc : Nat := 0
  k307 : Nat := 0
  /-- What the port forwards in the running cycle: slots by position, 0 for the management slot, and the two lanes' symbols of express pairs; K30.7 stands in place of each symbol that came in error (R329, R344). -/
  relay : List (Nat × List RxSym) := []
  relayed : List (LaneIn × LaneIn) := []
  /-- Marks seen since UP, and express pairs since the latest mark (R347). -/
  marks : Bool := false
  pairs : Nat := 0
  /-- A mark of the running cycle has come; cycles in a row in which it came, and in which it did not (R352). -/
  seen : Bool := false
  back : Nat := 0
  missed : Nat := 0
  /-- OT of the latest entry into UP. -/
  upOt : Nat := 0
  deriving DecidableEq, Repr, Inhabited

/-- What the unit knows of another unit (R337-R343). -/
structure ChnSrc where
  present : Bool := false
  /-- Cycles in a row without its slot; CHAIN_SLOT_LOST staged. -/
  absent : Nat := 0
  lost : Bool := false
  flags : Nat := 0
  fpSel : Option Nat := none
  fpTold : Bool := false
  /-- SYS_STATE state of the unit (R338). -/
  state : Nat := 0
  gd : Nat := 0
  d1 : Option Nat := none
  stamps : List Nat := [0, 0, 0, 0]
  generation : Nat := 0
  /-- Words by tick number within the second and channel, newest tick first; the words readable, and which of them have arrived for the present tick (R18, R340). -/
  words : List (Nat × List (Option Word)) := []
  readable : List Word := List.replicate 16 0
  arrived : List Bool := List.replicate 16 false
  /-- Shared nets and excerpt of the latest complete cycle, and of the running one (R19, R341, R361). -/
  nets : List Byte := []
  xcp : List Byte := []
  inNets : List Byte := []
  inXcp : List Byte := []
  /-- Digest by tick number within the second, newest first (R343, R368). -/
  digests : List (Nat × Nat) := []
  /-- A copy has been taken in the running cycle. -/
  taken : Bool := false
  deriving DecidableEq, Repr, Inhabited

/-- A mailbox (R357, R358). -/
structure Mailbox where
  target : Nat := 0
  command : Nat := 0
  address : Nat := 0
  data : Word := 0
  busy : Bool := false
  status : Nat := 0
  tag : Nat := 0
  /-- Goes out in the next management slot; cycles since it went. -/
  due : Bool := false
  age : Nat := 0
  deriving DecidableEq, Repr, Inhabited

/-- The chain link (R324-R361). -/
structure Chain where
  addr : Nat := 0
  /-- This unit sends the marks; the walk or the deputy role made it so. -/
  sender : Bool := false
  /-- A deputy that sends marks (R354). -/
  deputyActs : Bool := false
  /-- CHN_STAT ring: 0 no cycles, 1 ring, 2 line, 3 walking. -/
  ring : Nat := 0
  conflict : Bool := false
  full : Bool := false
  members : Nat := 0
  senderAddr : Nat := 0
  deputy : Nat := 0
  tr : Option Nat := none
  d1 : Option Nat := none
  /-- Both were measured in the latest walk (CHN_RING, CHN_TIME measured). -/
  measured : Bool := false
  walk : Nat := 0
  walkResult : Nat := 0
  walkConf : Nat := 0
  walkFull : Nat := 0
  /-- The walk's mode, the taken map and the counter as they stand; the walk's stage: 1 pass 1 to be sent, 2 sent or seen, 3 pass 2 sent or seen, 4 returned. -/
  walkMode : Nat := 0
  taken : Nat := 0
  counter : Nat := 0
  pass : Nat := 0
  /-- A walk was asked for while one ran or while the ring was open (R348, R359). -/
  walkDue : Bool := false
  /-- Cycle index and seconds of the latest cycle. -/
  cycle : Nat := 0
  second : Nat := 0
  /-- The upstream port: 0 CHAIN-A, 1 CHAIN-B; known once a mark has come. -/
  upstream : Option Nat := none
  /-- Root block's time state. -/
  rootTime : Nat := 0
  ports : List ChnPort := [{}, {}]
  src : List (Nat × ChnSrc) := []
  held : Nat := 0
  peak : Nat := 0
  /-- Express pairs inserted since the latest mark, oldest first; repeats held in the last cycle. -/
  sent : List Nat := []
  heldCodes : List Nat := []
  mbox : List Mailbox := List.replicate 8 {}
  /-- Latest tag executed per entry, and answers being written: entry, address, tag, bytes, cycles left. -/
  tags : List Nat := List.replicate 8 0
  answers : List (Nat × List Byte × Nat) := []
  /-- CHN_XCP_DATA 1-7 as latched. -/
  xcp : List Word := List.replicate 8 0
  /-- Both stopped their marks (R354). -/
  stopped : Bool := false
  noRoot : Bool := false
  /-- No mark for 3 cycles (R356). -/
  marksLost : Bool := false
  /-- The address under which the unit's slot goes out (R350). -/
  slotAddr : Nat := 0
  /-- Exports and imports stopped: the address differs from the image's (R359). -/
  mismatch : Bool := false
  /-- The management slot and unit slot the unit sent last. -/
  mgmtOut : List Byte := []
  slotOut : List Byte := []
  deriving DecidableEq, Repr, Inhabited

/-- A hinge pair (R365-R381). -/
structure Hinge where
  /-- HINGE_CTL asserted; HINGE_PEER as accepted. -/
  ctl : Bool := false
  peer : Bool := false
  wireFault : Bool := false
  /-- Cycles in a row of disagreement between wire and slot flag. -/
  differ : Nat := 0
  digest : Nat := 0
  peerDigest : Nat := 0
  /-- Digests of own ticks, newest first: number within the second and digest. -/
  own : List (Nat × Nat) := []
  run : Nat := 0
  diverged : Bool := false
  /-- Ticks since a run last exceeded dig_tol, up to one second. -/
  calm : Nat := 0
  /-- Digests of the pair are compared (R368). -/
  comparing : Bool := false
  anchors : Nat := 0
  crcFail : Nat := 0
  /-- OT of the latest adopted anchor. -/
  adopted : Option Nat := none
  /-- A complete anchor frame waiting to be adopted. -/
  frame : Option (List Word) := none
  hoResult : Nat := 0
  /-- The acknowledge has come: release at the next update. -/
  hoAck : Bool := false
  gap : Nat := 0
  takeovers : Nat := 0
  /-- OT at which the release was seen, until the first driven update. -/
  seenOt : Option Nat := none
  /-- Relinquished; the state changes at the next tick: the cause. -/
  leaving : Option Nat := none
  /-- Frames queued for the peer, type and words, and the words still to go of the frame being sent (R369). -/
  queue : List (Nat × List Word) := []
  flight : List Word := []
  /-- OT of the latest release of HINGE_PEER. -/
  freeOt : Nat := 0
  /-- Claimed at the latest tick (R367). -/
  claimed : Bool := false
  /-- In a hinge activation: the standby has reported ready; the active has received that report (R240). -/
  jobReady : Bool := false
  readyIn : Bool := false
  /-- Autoreclose and lockout states at the tick before, for extra anchors (R371). -/
  last : List (Nat × Nat) := []
  deriving DecidableEq, Repr, Inhabited

/-- The state of the block. -/
structure State where
  sys : Sys := {}
  host : HostPort := {}
  key : Keyway := {}
  job : Jobs := {}
  ldg : Ledger := {}
  cap : Caps := {}
  clk : Clocks := {}
  pwr : Power := {}
  dm : Defects := {}
  nv : NonVol := {}
  afe : Afe := {}
  flt : Flt := {}
  aux : Aux := {}
  pe : Engines := {}
  trk : Track := {}
  sch : Scheme := {}
  fst : Fast := {}
  fio : Field := {}
  ptp : Ptp := {}
  svc : Svc := {}
  chn : Chain := {}
  hng : Hinge := {}
  /-- The register file: value of every register that differs from its reset value or fallback; key is the address, plus 0x10000 times the bank for banked and per-class copies. Rising keys. -/
  regs : List (Nat × Word) := []
  /-- RWS writes that wait for the next boundary (R8): key and value, oldest first. -/
  defer : List (Nat × Word) := []
  /-- Bytes of MRAM that differ from what an unlisted byte reads as (R264). -/
  mram : List Host.Cell := []
  /-- Commands that are waiting, first in first out. -/
  pending : List Instr := []
  /-- The MODEL's own counter of free values (log entry 5). -/
  free : Nat := 0
  deriving DecidableEq, Repr, Inhabited

/-- The machine right after power-on reset. -/
def State.reset : State := {}

end Sys2Proof.Machine
end

