-- ==== Sys2Proof/Machine/Ops.lean ====
section
/-! DEFINITION. Named operations over MRAM and the register file: what every family of commands shares. -/

namespace Sys2Proof.Machine

/-! ### Bytes -/

/-- A number in one, two, four or eight bytes, least significant byte first (R7). -/
def b1 (v : Nat) : List Byte := leBytes 1 v

def b2 (v : Nat) : List Byte := leBytes 2 v

def b4 (v : Nat) : List Byte := leBytes 4 v

def b8 (v : Nat) : List Byte := leBytes 8 v

/-- A signed number in n bytes. -/
def bI (n : Nat) (v : Int) : List Byte := leBytes n (toTwos (8 * n) v)

/-- One of n zero bytes. -/
def zeros (n : Nat) : List Byte := List.replicate n 0

/-- A list of bytes cut or filled with zeros to n. -/
def padTo (n : Nat) (l : List Byte) : List Byte := (l ++ zeros (n - l.length)).take n

/-- Bytes `[a, a + n)` of a list, zero beyond its end. -/
def slice (l : List Byte) (a n : Nat) : List Byte := padTo n (l.drop a)

/-- A little-endian field of a list of bytes. -/
def field (l : List Byte) (a n : Nat) : Nat := leNat (slice l a n)

/-! ### Checks -/

/-- One bit of CRC-32C, reflected. -/
def crcBit (c : Word) : Word := if c.getLsbD 0 then (c >>> 1) ^^^ 0x82F63B78#32 else c >>> 1

/-- CRC-32C over one more byte. -/
def crcByte (c : Word) (b : Byte) : Word :=
  crcBit (crcBit (crcBit (crcBit (crcBit (crcBit (crcBit (crcBit (c ^^^ b.setWidth 32))))))))

/-- CRC-32C (Castagnoli) of bytes (R212, R213, R269, R285, R457). -/
def crc32c (l : List Byte) : Nat := ((l.foldl crcByte 0xFFFFFFFF#32) ^^^ 0xFFFFFFFF#32).toNat

/-- One bit of the CRC-16 of R384, most significant bit first. -/
def crc16Bit (c : BitVec 16) : BitVec 16 := if c.getLsbD 15 then (c <<< 1) ^^^ 0x1021#16 else c <<< 1

/-- CRC-16 over one more byte. -/
def crc16Byte (c : BitVec 16) (b : Byte) : BitVec 16 :=
  crc16Bit (crc16Bit (crc16Bit (crc16Bit (crc16Bit (crc16Bit (crc16Bit (crc16Bit (c ^^^ (b.setWidth 16 <<< 8)))))))))

/-- The CRC-16 of a request or an answer (R384): x^16 + x^12 + x^5 + 1, initial value 0xFFFF. -/
def crc16 (l : List Byte) : Nat := (l.foldl crc16Byte 0xFFFF#16).toNat

/-! ### MRAM (R264) -/

/-- Size of MRAM in bytes. -/
def mramSize : Nat := 0x1000000

/-- What a byte of MRAM that nothing has written reads as (log entry 4). -/
def mramBlank : Byte := 0

/-- Read one byte of MRAM. -/
def memRead : List Host.Cell → Nat → Byte
  | [], _ => mramBlank
  | (a, b) :: r, x => if a = x then b else memRead r x

/-- Write one byte of MRAM, keeping the canonical form. -/
def memWrite : List Host.Cell → Nat → Byte → List Host.Cell
  | [], x, v => if v = mramBlank then [] else [(x, v)]
  | (a, b) :: r, x, v =>
    if x < a then (if v = mramBlank then (a, b) :: r else (x, v) :: (a, b) :: r)
    else if x = a then (if v = mramBlank then r else (a, v) :: r)
    else (a, b) :: memWrite r x v

/-- Write bytes from an offset upward. -/
def memWriteBytes : List Host.Cell → Nat → List Byte → List Host.Cell
  | m, _, [] => m
  | m, x, b :: r => memWriteBytes (memWrite m x b) (x + 1) r

/-- Read n bytes from an offset upward. -/
def memReadBytes (m : List Host.Cell) : Nat → Nat → List Byte
  | _, 0 => []
  | x, n + 1 => memRead m x :: memReadBytes m (x + 1) n

/-- Addresses strictly rise from a bound, lie in MRAM, and no byte listed equals the blank one. -/
def memSorted : Nat → List Host.Cell → Bool
  | _, [] => true
  | lo, (a, b) :: r => decide (lo ≤ a) && decide (a < mramSize) && decide (b ≠ mramBlank) && memSorted (a + 1) r

/-- The canonical form of a memory. -/
def Memory.wf (m : List Host.Cell) : Bool := memSorted 0 m

/-- MRAM written with bytes; what lies outside the 16 MiB is cut off. A failed interface writes nothing (R467). A write ends an uncorrectable word that it overwrites. -/
def State.mramPut (s : State) (off : Nat) (l : List Byte) : State :=
  if s.dm.mramFail then s
  else
    { s with
      mram := memWriteBytes s.mram off (l.take (mramSize - off)),
      dm := { s.dm with mramBad := s.dm.mramBad.filter (fun w => decide (w + 8 ≤ off ∨ off + l.length ≤ w)) } }

/-- Bytes read from MRAM. -/
def State.mramGet (s : State) (off n : Nat) : List Byte := memReadBytes s.mram off n

/-- No uncorrectable word lies within `[off, off + n)`, and the interface works (R464, R467). -/
def State.mramGood (s : State) (off n : Nat) : Bool :=
  !s.dm.mramFail && s.dm.mramBad.all (fun w => decide (w + 8 ≤ off ∨ off + n ≤ w))

/-! ### Register file -/

/-- Key of a banked register. -/
def bankKey (addr bank : Nat) : Nat := addr + 0x10000 * bank

/-- Index of a class (R393, R395). -/
def clsIx : KeyClass → Nat
  | .host => 0
  | .chain => 1
  | .net => 2
  | .debug => 3

/-- Reset value, or fallback of a "P" register, of a key of the register file; the recorder's rates and the template parameters have their own (R278, R211). -/
def regDefault (key : Nat) : Word :=
  let a := key % 0x10000
  if a = 0x0014 then 1
  else if a = 0x041C then 0x000E1001
  else if a = 0x0800 then 3
  else if a = 0x1440 ∨ a = 0x1444 then 0x000A0A10
  else if a = 0x1800 then 0x0241187F
  else if a = 0x1C00 then 0x0A00
  else if 0x1C40 ≤ a ∧ a < 0x1C60 then BitVec.ofNat 32 ((a - 0x1C40) / 4 + 0xC0)
  else if 0x1C60 ≤ a ∧ a < 0x1CE0 then
    let n := (a - 0x1C60) / 4
    let p := if n < 24 then nth Config.auxLim n else (0, 65535)
    pack [(0, 16, p.1), (16, 16, p.2)]
  else if 0x2C40 ≤ a ∧ a < 0x2C80 then 0x27100000
  else if 0x2CC0 ≤ a ∧ a < 0x2CF0 then 0x0000FFFF
  else if a = 0x3800 then 0x00000035
  else if a = 0x3824 then 0x000003E8
  else if a = 0x384C then 0x00000041
  else if a = 0x4400 then 0x00006000
  else 0

/-- Writable bits of a FAST configuration register (R9). -/
def fastMask (addr : Nat) : Nat :=
  if addr = 0x2804 then 0x01FFFFFF
  else if addr = 0x2808 then 0x0001FFFF
  else if addr = 0x280C then 0x03FFFFFF
  else if addr < 0x28C0 then 0x7F7F7F7F
  else if addr < 0x2A00 then 0x001FFFFF
  else if addr < 0x2A40 then 0x000FFFFF
  else 0x00003FFF

/-- Value of a key of the register file. -/
def State.reg (s : State) (key : Nat) : Word := lookupD s.regs key (regDefault key)

/-- Register file with a key set; entries equal to the default are not listed. -/
def State.setReg (s : State) (key : Nat) (v : Word) : State :=
  { s with regs := if v = regDefault key then eraseKey s.regs key else insertKey s.regs key v }

/-- What a read returns: the value written last, waiting or not (R8). -/
def State.regSeen (s : State) (key : Nat) : Word :=
  s.defer.foldl (fun a p => if p.1 = key then p.2 else a) (s.reg key)

/-- A write that waits for the next protection-sample boundary (R8). A later one to the same key takes the earlier one's place (R79). -/
def State.deferReg (s : State) (key : Nat) (v : Word) : State :=
  { s with defer := s.defer.filter (fun p => p.1 ≠ key) ++ [(key, v)] }

/-- Store an override of a "P" register in MRAM (R10, R239). -/
def State.store (s : State) (key : Nat) (v : Word) : State :=
  if s.dm.mramFail then s else { s with nv := { s.nv with ovr := insertKey s.nv.ovr key v } }

/-- A register's new value, in force at once and stored. -/
def State.setStored (s : State) (key : Nat) (v : Word) : State := (s.setReg key v).store key v

/-! ### Modes -/

/-- The filter chain runs and ticks occur (R29, R419). -/
def State.ticking (s : State) : Bool := s.flt.running && decide (s.clk.level ≠ 2)

/-- A module that is off or dormant: nothing but its always-on domain acts (R23, R34). -/
def State.dark (s : State) : Bool := decide (s.sys.st = .off) || decide (s.sys.st = .dormant) || s.pwr.held

/-- The rails are in regulation and the boot logic runs (R448 row 3). -/
def State.alive (s : State) : Bool := !s.dark && s.host.up

/-- The code of a state in SYS_STATE and in records (R31). -/
def stCode : OpState → Nat
  | .off => 0
  | .dormant => 0
  | .boot => 1
  | .blocked => 2
  | .inService => 3
  | .standby => 4
  | .test => 5
  | .failsafe => 6

/-- fp in samples per second of the settings in effect (R11). -/
def State.fp (s : State) : Nat := Config.fc / (s.flt.eff.d1 * s.flt.eff.d2)

/-- fp_sel of SYS_TICK. -/
def fpSel (fp : Nat) : Nat := if fp = 4800 then 0 else if fp = 19200 then 2 else 1

/-- The unit runs a HINGE section. -/
def State.hinged (s : State) : Bool := s.sch.cfg.hinge.isSome

end Sys2Proof.Machine
end

