-- ==== Sys2Proof/Machine/Settings.lean ====
section
/-! DEFINITION. The setting words of each element kind: range, step and default (R123, R125, R138-R183, R216; log entry 9 for kinds without a table). -/

namespace Sys2Proof.Machine

/-- How a setting word is encoded (R216): a number, a choice, a bit mask or other plain word. -/
inductive SetEnc where
  | number | choice | plain
  deriving DecidableEq, Repr, Inhabited

/-- A setting: encoding, range, step (0 where the table states none) and default. -/
structure SetRow where
  enc : SetEnc
  lo : Rat
  hi : Rat
  step : Rat
  dflt : Rat
  deriving DecidableEq, Repr, Inhabited

/-- A number with range, step and default. -/
def sNum (lo hi step d : Rat) : SetRow := ⟨.number, lo, hi, step, d⟩

/-- A choice among n, and its default. -/
def sChoice (n : Nat) (d : Nat) : SetRow := ⟨.choice, 0, (n : Rat) - 1, 1, (d : Rat)⟩

/-- A word without a range. -/
def sPlain : SetRow := ⟨.plain, 0, 4294967295, 1, 0⟩

/-- A number without a stated range. -/
def sFree : SetRow := ⟨.number, 0, 0, 0, 0⟩

/-- inval_tmo and ps_block (R123, R125). -/
def headRows : List SetRow := [sNum 0 1 (1 / 1000) (20 / 1000), sChoice 2 0]

/-- The rows of R138 for a pickup row and a number of measured quantities. -/
def ocRows (is_ : SetRow) (meas : Nat) : List SetRow :=
  [is_, sChoice 9 0, sNum (1 / 100) 10 (1 / 100) 1, sNum 0 600 (1 / 1000) (1 / 10), sNum 0 10 (1 / 1000) 0, sChoice 3 0, sNum 0 60 (1 / 1000) 0,
    sNum (8 / 10) (99 / 100) (1 / 100) (95 / 100), sChoice meas 0, sChoice 3 0, sNum 1 5 (1 / 100) 1, sChoice 2 0]

/-- The rows of R145. -/
def dirRows (rca imin iminLo vminHi vmin : Rat) : List SetRow :=
  [sNum (-90) 90 1 rca, sNum 60 90 1 85, sNum iminLo 1 0 imin, sNum (5 / 1000) vminHi 0 vmin]

/-- The rows of R167. -/
def arRows : List SetRow :=
  let dead := [sNum (1 / 10) 300 (1 / 100) (1 / 2), sNum (1 / 10) 300 (1 / 100) 15, sNum (1 / 10) 300 (1 / 100) 30, sNum (1 / 10) 300 (1 / 100) 60]
  [sNum 1 4 1 1] ++ dead ++ dead ++ [sNum 1 600 (1 / 10) 30, sNum (5 / 100) 2 (1 / 100) (2 / 10), sNum (5 / 100) 5 (1 / 100) (1 / 2)]
    ++ List.replicate 4 (sChoice 2 0) ++ [sNum 0 600 (1 / 10) 10, sNum 0 60 (1 / 10) 0] ++ List.replicate 4 sPlain

/-- The rows of R172, then the zone's ends, base, stamp, and per end rated current, group delay, source and scale (log entry 9). -/
def zoneRows : List SetRow :=
  [sNum (1 / 10) 2 (1 / 100) (3 / 10), sNum 10 50 1 30, sNum 50 150 1 80, sNum 1 10 (1 / 10) 2, sNum 2 153 1 2, sNum 0 60 1 10, sChoice 2 0,
    sNum 2 8 1 2, sFree, sPlain]

/-- Rows of a kind after inval_tmo and ps_block. -/
def kindRows (kind : Nat) : List SetRow :=
  match kind with
  | 0x01 => [sChoice 16 0, sChoice 2 0]
  | 0x03 => ocRows (sNum (5 / 100) 40 (1 / 100) 1) 3
  | 0x04 => ocRows (sNum (1 / 100) 20 (1 / 1000) (2 / 10)) 3
  | 0x05 => ocRows (sNum (2 / 1000) 1 (1 / 1000) (2 / 100)) 1
  | 0x06 => ocRows (sNum (5 / 100) 5 (1 / 100) (2 / 10)) 3 ++ [sChoice 2 0]
  | 0x07 => dirRows 45 (5 / 100) (1 / 100) (2 / 10) (1 / 100) ++ [sNum 0 2 (1 / 1000) (1 / 2), sChoice 2 0]
  | 0x08 => dirRows 60 (2 / 100) (5 / 1000) (1 / 2) (5 / 100)
  | 0x09 => dirRows 60 (5 / 100) (1 / 100) (1 / 2) (2 / 100)
  | 0x0A => [sNum (5 / 100) (3 / 2) (1 / 1000) (8 / 10), sChoice 2 0, sNum 0 600 (1 / 1000) 1, sNum (1005 / 1000) (11 / 10) 0 (102 / 100), sNum 0 (1 / 2) 0 (1 / 10), sChoice 3 0, sChoice 2 0]
  | 0x0B => [sNum (5 / 100) 2 (1 / 1000) (11 / 10), sChoice 2 0, sNum 0 600 (1 / 1000) 1, sNum (9 / 10) (995 / 1000) 0 (98 / 100), sChoice 3 0, sChoice 2 0]
  | 0x0C => [sNum (1 / 100) 1 (1 / 1000) (1 / 10), sNum 0 600 (1 / 1000) 1]
  | 0x0D => [sChoice 2 1, sNum 40 70 (1 / 1000) 49, sNum (5 / 1000) (2 / 10) 0 (2 / 100), sNum 0 600 0 1, sNum (5 / 100) (9 / 10) 0 (2 / 10),
      sNum 2 100 1 10, sChoice 3 2, sNum (5 / 100) 10 (1 / 100) 1, sNum 0 600 0 1]
  | 0x0E => [sNum (1 / 10) 4 (1 / 100) 1, sNum 1 (3 / 2) (1 / 100) (105 / 100), sNum 1 1000 (1 / 10) 30, sNum 1 10 (1 / 10) 1,
      sNum (1 / 2) 1 (1 / 100) (9 / 10), sNum (1 / 2) (99 / 100) (1 / 100) (9 / 10), sNum 0 1 (1 / 100) (7 / 10)]
  | 0x0F => [sNum 7 50 1 15, sNum (5 / 100) 1 0 (1 / 10), sNum 1 40 0 10, sNum 0 1 0 0, sChoice 2 0]
  | 0x10 => [sNum 1 86400 0 600, sNum 1 3600 0 60, sNum (1 / 10) 2 0 (9 / 10), sNum (1 / 10) 60 0 2]
  | 0x11 => [sNum (5 / 100) 1 (1 / 1000) (1 / 10), sChoice 2 1] ++ List.replicate 32 (sChoice 3 2)
  | 0x13 => [sNum (5 / 100) 2 (1 / 100) (2 / 10), sNum (2 / 100) 2 (1 / 100) (1 / 10), sNum 0 1 (1 / 1000) (5 / 100), sNum (5 / 100) 1 (1 / 1000) (15 / 100), sChoice 3 0]
  | 0x14 => arRows
  | 0x15 => zoneRows ++ (List.replicate 8 [sFree, sPlain, sPlain, sFree]).flatten
  | 0x16 => ocRows (sNum (5 / 100) 40 (1 / 100) 1) 3 ++ [sNum (2 / 100) (1 / 2) (1 / 1000) (5 / 100), sChoice 2 0]
  | 0x17 => List.replicate 4 (sNum (1 / 1000) 10 0 (1 / 1000)) ++ [sNum (1 / 100) 100 0 (1 / 100), sNum 100 300 0 170]
  | 0x18 => [sNum (1 / 100) (1 / 2) (1 / 100) (1 / 10), sNum (1 / 100) 1 (1 / 100) (1 / 10), sNum 1 90 1 20, sNum (1 / 10) 1 (1 / 100) (7 / 10),
      sNum (5 / 100) (8 / 10) (1 / 100) (2 / 10), sChoice 4 0, sNum 0 10 (1 / 100) (1 / 10), sNum 0 500 1 0]
  | 0x19 => [sNum (1 / 10) 10 0 (4 / 10)]
  | 0x1A => [sNum 1 2 0 2, sFree, sFree]
  | 0x23 => [sNum 0 3600 (1 / 1000) 0]
  | 0x24 => [sNum 0 3600 (1 / 1000) 0]
  | 0x25 => [sNum 0 3600 (1 / 1000) 0]
  | 0x26 => [sChoice 2 0]
  | _ => []

/-- Every fixed row of a kind, from setting word 1 on (R216). -/
def rowsOf (kind : Nat) : List SetRow := headRows ++ kindRows kind

/-- Fewest words that a kind needs per group: a zone's ends and a trip logic's marks are as many as it has. -/
def wordsNeeded (kind nin : Nat) : Nat :=
  if kind = 0x11 then 4 + (nin - 2)
  else if kind = 0x15 then 12
  else (rowsOf kind).length

/-- A value taken to its nearest step (R216). -/
def toStep (r : SetRow) (x : Rat) : Rat := if r.step = 0 then x else r.step * (roundAway (x / r.step) : Rat)

/-- A limit as a word can hold it: the range of a row without a step includes the single-precision number of each limit. -/
def limitOf (r : SetRow) (x : Rat) : Rat := if r.step = 0 then ofSingle (toSingle x) else x

/-- A word lies in its range (R216); a row without a stated range takes any number. -/
def inRange (r : SetRow) (w : Word) : Bool :=
  match r.enc with
  | .plain => true
  | .choice => decide (((w.toNat : Nat) : Rat) ≤ r.hi)
  | .number =>
    let x := toStep r (ofSingle w)
    if r.hi = 0 ∧ r.lo = 0 then true else decide (limitOf r r.lo ≤ x ∧ x ≤ limitOf r r.hi)

/-- The word of a row's default. -/
def dfltWord (r : SetRow) : Word :=
  match r.enc with
  | .number => toSingle r.dflt
  | _ => BitVec.ofNat 32 r.dflt.num.toNat

/-- A setting word within its range, with the gap of t_disc (R167), the reset modes of R134 and t2 at least t1 (R164) judged by `setsOk`. -/
def wordOk (kind i : Nat) (w : Word) : Bool :=
  match (rowsOf kind)[i]? with
  | some r => inRange r w && (kind ≠ 0x14 || i ≠ 19 || decide (ofSingle w = 0 ∨ 1 / 10 ≤ ofSingle w))
  | none => true

/-- First word of a user curve's table in an overcurrent stage (R216). -/
def tableAt (kind : Nat) : Nat := if kind = 0x06 then 15 else if kind = 0x16 then 16 else 14

/-- Pairs of a variable table: a count word, then pairs of numbers. -/
def pairsAt (ws : List Word) (i : Nat) : List (Rat × Rat) :=
  (List.range (ws.getD i 0).toNat).map (fun k => (ofSingle (ws.getD (i + 1 + 2 * k) 0), ofSingle (ws.getD (i + 2 + 2 * k) 0)))

/-- Operate points and reset points of a user curve (R137). -/
def curvePts (kind : Nat) (ws : List Word) : List (Rat × Rat) := pairsAt ws (tableAt kind)

def resetPts (kind : Nat) (ws : List Word) : List (Rat × Rat) := pairsAt ws (tableAt kind + 1 + 2 * (ws.getD (tableAt kind) 0).toNat)

/-- Successive elements are in a relation. -/
def chained (f : Rat × Rat → Rat × Rat → Bool) : List (Rat × Rat) → Bool
  | a :: b :: r => f a b && chained f (b :: r)
  | _ => true

/-- The orders of a user curve's tables (R137). -/
def curveOk (op rs : List (Rat × Rat)) : Bool :=
  decide (2 ≤ op.length ∧ op.length ≤ 64) && op.all (fun p => decide (1 ≤ p.1 ∧ p.1 ≤ 50 ∧ 0 < p.2)) && chained (fun a b => decide (a.1 < b.1 ∧ b.2 ≤ a.2)) op
    && decide (1 ≤ rs.length ∧ rs.length ≤ 16) && rs.all (fun p => decide (0 ≤ p.1 ∧ p.1 < 95 / 100 ∧ 0 ≤ p.2)) && chained (fun a b => decide (a.1 < b.1)) rs

/-- A kind is an overcurrent stage. -/
def isOc (kind : Nat) : Bool := decide (kind ∈ [3, 4, 5, 6, 0x16])

/-- Inputs of a fabric kind (R183). -/
def inputsOk (kind nin : Nat) : Bool :=
  match kind with
  | 0x20 => decide (2 ≤ nin ∧ nin ≤ 8)
  | 0x21 => decide (2 ≤ nin ∧ nin ≤ 8)
  | 0x22 => decide (2 ≤ nin ∧ nin ≤ 8)
  | 0x23 => decide (nin = 1)
  | 0x24 => decide (nin = 1)
  | 0x25 => decide (nin = 1)
  | 0x26 => decide (nin = 2)
  | 0x27 => decide (nin = 1)
  | _ => true

/-- One group's words of an instance are legal (R216, R134, R137, R147, R164). -/
def setsOk (kind nin : Nat) (ws : List Word) : Bool :=
  decide (wordsNeeded kind nin ≤ ws.length ∨ 0x80 ≤ kind) && inputsOk kind nin && (List.range ws.length).all (fun i => wordOk kind i (ws.getD i 0)) &&
  (if isOc kind then
    let cv := (ws.getD 3 0).toNat
    let rm := (ws.getD 7 0).toNat
    (decide (5 ≤ cv) || decide (rm ≠ 2)) && (decide (kind ≠ 0x06 ∨ ws.getD 14 0 = 0) || decide (toStep (sNum (5 / 100) 5 (1 / 100) (2 / 10)) (ofSingle (ws.getD 2 0)) ≤ 1)) && (decide (cv ≠ 8) || curveOk (curvePts kind ws) (resetPts kind ws))
  else if kind = 0x13 then decide (ofSingle (ws.getD 4 0) ≤ ofSingle (ws.getD 5 0))
  else true)

end Sys2Proof.Machine
end

