-- ==== Sys2Proof/Machine/Flags.lean ====
section
/-! DEFINITION. Status flags: the interrupt lines and their status registers (R390, R391), the FAILSAFE causes (R26). -/

namespace Sys2Proof.Machine

/-- A word with a bit set. -/
def setBit (w : Word) (i : Nat) : Word := w ||| BitVec.ofNat 32 (2 ^ i)

/-- The bit of a block in SYS_IRQ_STAT (R390). -/
def State.setIrq (s : State) (b : Nat) : State := { s with sys := { s.sys with irq := setBit s.sys.irq b } }

/-- A bit of SYS_NME_STAT: 0 failsafe, 1 clk_fail, 2 power_fail, 3 takeover, 4 restart, 5 stuck_on (R391). -/
def State.setNme (s : State) (b : Nat) : State := { s with sys := { s.sys with nme := setBit s.sys.nme b } }

/-- IRQ_N is asserted (R390). -/
def State.irqOut (s : State) : Bool := decide (s.sys.irq &&& s.reg 0x0014 ≠ 0)

/-- NME_N is asserted: while any bit is set, once the port answers (R388, R391). -/
def State.nmeOut (s : State) : Bool := decide (s.sys.nme ≠ 0) && s.host.up

/-- A FAILSAFE cause begins to hold (R26). -/
def State.addCause (s : State) (c : Nat) : State :=
  { s with sys := { s.sys with causes := if c ∈ s.sys.causes then s.sys.causes else s.sys.causes ++ [c] } }

/-- A FAILSAFE cause ceases to hold; a crossbar or state-store failure never does (R26). -/
def State.dropCause (s : State) (c : Nat) : State :=
  if c = 8 then s else { s with sys := { s.sys with causes := s.sys.causes.filter (fun x => x ≠ c) } }

end Sys2Proof.Machine
end

