-- ==== Sys2Proof/Machine/Recorder.lean ====
section
/-! DEFINITION. The event ledger (R264-R283, R292): staging, rate limits, writing, reading, clearing and the boot scan. -/

namespace Sys2Proof.Machine

/-! ### Staging (R273, R276, R277) -/

/-- OT quality byte of rule R267. -/
def State.otQual (s : State) (tick : Bool) : Nat := b2n tick + 2 * b2n s.pwr.resumed + 4 * b2n s.pwr.untrimmed

/-- Wall time at an OT, from the counter at its latest advance (R268, R294). -/
def wallAt (p : Ptp) (ot : Nat) : Nat × Nat :=
  let n := p.sec * 1000000000 + p.ns + ot * 1000 - p.ot * 1000
  (n / 1000000000, n % 1000000000)

/-- The wall-time annex of a record with an OT (R268): only once the counter has been set. -/
def State.annexAt (s : State) (ot : Nat) : Option Annex :=
  if s.ptp.set then
    some { sec := (wallAt s.ptp ot).1, ns := (wallAt s.ptp ot).2, qual := b2n (decide (s.ptp.state = 2)) + 2 * b2n (decide (s.ptp.state = 3)) + 4 * b2n s.ptp.stepped }
  else none

/-- Severity of a code for its bucket's defaults (R278). -/
def State.codeSev (s : State) (code : Nat) : Nat :=
  if code < 0x200 then Config.devSev code
  else match s.sch.cfg.ledger.find? (fun e => e.code = code) with
    | some e => e.sev
    | none => 0

/-- Depth and refill period of a code's bucket: a written override, the LEDGER section, or the defaults (R276, R278). -/
def State.rate (s : State) (code : Nat) : Nat × Nat :=
  match s.regs.find? (fun p => p.1 = bankKey 0x3024 code) with
  | some p => (bitsOf p.2 7 0, bitsOf p.2 23 8)
  | none =>
    match s.sch.cfg.ledger.find? (fun e => e.code = code) with
    | some e => (e.depth, e.refill)
    | none => Config.sevRate (s.codeSev code)

/-- The bucket of a code. -/
def State.bucket (s : State) (code : Nat) : Bucket := lookupD s.ldg.buckets code {}

/-- A code's bucket replaced. -/
def State.setBucket (s : State) (code : Nat) (b : Bucket) : State :=
  { s with ldg := { s.ldg with buckets := if b = {} then eraseKey s.ldg.buckets code else insertKey s.ldg.buckets code b } }

/-- The ring with an entry, in OT order, equal OT in arrival order (R273). -/
def ringInsert : List Entry → Entry → List Entry
  | [], e => [e]
  | a :: r, e => if e.ot < a.ot then e :: a :: r else a :: ringInsert r e

/-- Count a lost entry (R273): LDG_LOST, and the counts that await STAGING_OVERFLOW or POWER_FAIL. -/
def State.loseEntry (s : State) (sev n : Nat) (full : Bool) : State :=
  let l := s.ldg
  let l := if sev < 2 then { l with lostLow := satAdd 65535 l.lostLow n } else { l with lostHigh := satAdd 65535 l.lostHigh n }
  let l :=
    if full then (if sev < 2 then { l with ovLow := l.ovLow + n } else { l with ovHigh := l.ovHigh + n })
    else if s.pwr.pf = PfStage.flushing then { l with pfLost := l.pfLost + n } else { l with lateLost := l.lateLost + n }
  { s with ldg := l }

/-- The sign of a code's class of severity in the ring: entries accepted while fewer are occupied (R273). -/
def ringRoom (sev : Nat) : Nat := if sev < 2 then 480 else 512

/-- Put an entry in the ring without asking for a token; the device record sets its block's interrupt bit (R273, R390). -/
def State.offer (s : State) (e : Entry) : State :=
  if s.ldg.closed then s.loseEntry e.sev 1 false
  else if s.ldg.ring.length < ringRoom e.sev then
    let s := { s with
      ldg := { s.ldg with ring := ringInsert s.ldg.ring e },
      cap := if e.sev = 3 then { s.cap with trip := some e.ot } else s.cap }
    if e.code < 0x200 then s.setIrq (Config.blockOf e.code) else s
  else s.loseEntry e.sev 1 true

/-- STAGING_OVERFLOW (R273): once an INFO or WARN entry could again be accepted, before any later arrival. -/
def State.overflow (s : State) : State :=
  if (s.ldg.ovLow ≠ 0 ∨ s.ldg.ovHigh ≠ 0) ∧ s.ldg.ring.length < 480 ∧ s.ldg.closed = false then
    let e : Entry :=
      { ot := s.pwr.ot, qual := s.otQual false, pcc := s.pwr.pcc, code := 0x00E1, sev := 2, flags := 8 * b2n (decide (s.sys.st = .test)),
        annex := s.annexAt s.pwr.ot, body := b4 s.ldg.ovLow ++ b4 s.ldg.ovHigh }
    { s with ldg := { s.ldg with ovLow := 0, ovHigh := 0 } }.offer e
  else s

/-- An entry of a code staged now; `tick` when the OT is a tick's OT (R21). -/
def State.entryOf (s : State) (tick : Bool) (code sev flags : Nat) (body : List Byte) : Entry :=
  let ot := if tick then s.pe.tickOt else s.pwr.ot
  { ot := ot, qual := s.otQual tick, pcc := s.pwr.pcc, code := code, sev := sev,
    flags := flags + 8 * b2n (decide (s.sys.st = .test)), annex := s.annexAt ot, body := body }

/-- An occurrence of a code: it takes a token before it is offered; without one it is suppressed and counted (R276). -/
def State.stageWith (s : State) (tick : Bool) (code sev : Nat) (body : List Byte) : State :=
  let s := s.overflow
  let e := s.entryOf tick code sev 0 body
  if code ∈ Config.noToken then s.offer e
  else
    let b := s.bucket code
    if b.lacks < (s.rate code).1 then (s.setBucket code { b with lacks := b.lacks + 1 }).offer e
    else s.setBucket code { b with pending := b.pending + 1, first := if b.pending = 0 then e.ot else b.first, last := e.ot }

/-- A record staged with the OT of now. -/
def State.stage (s : State) (code sev : Nat) (body : List Byte) : State := s.stageWith false code sev body

/-- A record staged with the tick's OT (R21). -/
def State.stageTick (s : State) (code sev : Nat) (body : List Byte) : State := s.stageWith true code sev body

/-- The summary that a returned token is spent on (R277). -/
def State.summary (s : State) (code : Nat) : State :=
  let b := s.bucket code
  let e := s.entryOf false 0x00E0 (s.codeSev code) 2 (b2 code ++ zeros 2 ++ b4 b.pending ++ b8 b.first ++ b8 b.last)
  (s.setBucket code { b with pending := 0, first := 0, last := 0, summaries := satInc 65535 b.summaries }).offer e

/-- TOKEN_RETURN (R276, R277). -/
def State.tokenReturn (s : State) (code : Nat) : State :=
  let s := s.overflow
  let b := s.bucket code
  if b.lacks = 0 then s
  else if b.pending ≠ 0 then s.summary code
  else s.setBucket code { b with lacks := b.lacks - 1 }

/-- At a structural activation pending counts are written as summaries and every bucket is refilled (R276, R291). -/
def State.refillBuckets (s : State) : State :=
  s.ldg.buckets.foldl (fun s p =>
    let s := if (s.bucket p.1).pending ≠ 0 then s.summary p.1 else s
    s.setBucket p.1 { s.bucket p.1 with lacks := 0 }) s

/-! ### Record format (R266-R269) -/

/-- Length of the record of an entry: a multiple of 8 bytes. -/
def recLen (e : Entry) : Nat := 32 + (if e.annex.isSome then 16 else 0) + 8 * ceilDiv e.body.length 8

/-- Header, annex and body of a record. -/
def recHead (e : Entry) (flags seq : Nat) : List Byte :=
  let an := match e.annex with
    | some a => b8 a.sec ++ b4 a.ns ++ b2 a.qual ++ zeros 2
    | none => []
  b2 (recLen e) ++ b2 e.code ++ b1 (flags + b2n e.annex.isSome) ++ b1 e.sev ++ zeros 2 ++ b4 seq ++ b4 e.pcc
    ++ b8 (e.ot % 2 ^ 56 + e.qual * 2 ^ 56) ++ an ++ padTo (8 * ceilDiv e.body.length 8) e.body

/-- A whole record: CRC-32C over what precedes the trailer, then the hallmark word (R269). -/
def recBytes (e : Entry) (flags seq : Nat) : List Byte :=
  let h := recHead e flags seq
  h ++ b4 (crc32c h) ++ b2 0x4C47 ++ b2 (seq % 65536)

/-- Start and size of the two areas (R264). -/
def firstBase : Nat := 0x400000

def firstSize : Nat := 0x80000

def circBase : Nat := 0x480000

def circSize : Nat := 0x380000

/-- A record in MRAM is valid (R269). -/
def State.recValid (s : State) (r : RecIx) : Bool :=
  let b := s.mramGet r.off r.len
  s.mramGood r.off r.len && decide (field b (r.len - 4) 2 = 0x4C47) && decide (field b (r.len - 2) 2 = field b 8 2)
    && decide (field b (r.len - 8) 4 = crc32c (b.take (r.len - 8)))

/-- The next sequence; 0 is never used (R271). -/
def seqNext (n : Nat) : Nat := if n = 0xFFFFFFFF then 1 else n + 1

/-- a lies below b by their difference modulo 2^32 (R271). -/
def seqBelow (a b : Nat) : Bool := decide (ofTwos 32 (toTwos 32 ((a : Int) - b)) < 0)

/-! ### Writing (R265, R269-R275) -/

/-- Zero the final word of a record. -/
def State.invalidate (s : State) (r : RecIx) : State := s.mramPut (r.off + r.len - 4) (zeros 4)

/-- Invalidate, in age order, the circulating records that `[off, off + n)` overlaps; readers at them read lapped (R270, R280). -/
def State.overwrite (s : State) (off n : Nat) : State :=
  let hit := fun r : RecIx => decide (r.off < off + n ∧ off < r.off + r.len)
  let s' := (s.ldg.circ.filter hit).foldl State.invalidate s
  { s' with ldg := { s'.ldg with
      circ := s.ldg.circ.filter (fun r => !hit r),
      cursors := s.ldg.cursors.map (fun c =>
        match c.ix with
        | some r => if c.area = false ∧ hit r then { c with status := 2 } else c
        | none => c) } }

/-- Write a record into the circulating area (R270). -/
def State.writeCirc (s : State) (e : Entry) (fl : Nat) : State :=
  let n := recLen e
  let pos := s.ldg.circPos
  let s :=
    if pos + n ≤ circSize then s
    else
      let s := if pos + 8 ≤ circSize then (s.overwrite (circBase + pos) 8).mramPut (circBase + pos) (zeros 2 ++ b2 0xFFFF ++ zeros 4) else s
      { s with ldg := { s.ldg with circPos := 0 } }
  let off := circBase + s.ldg.circPos
  let s := s.overwrite off n
  let seq := s.ldg.nextSeq
  let s := s.mramPut off (recBytes e fl seq)
  { s with ldg := { s.ldg with circ := s.ldg.circ ++ [{ off := off, len := n, seq := seq }], circPos := s.ldg.circPos + n, nextSeq := seqNext seq } }

/-- Write a record into the first area (R265). -/
def State.writeFirst (s : State) (e : Entry) (fl : Nat) : State :=
  let n := recLen e
  let off := firstBase + s.ldg.firstPos
  let seq := s.ldg.nextSeq
  let s := s.mramPut off (recBytes e (fl + 4) seq)
  { s with ldg := { s.ldg with first := s.ldg.first ++ [{ off := off, len := n, seq := seq }], firstPos := s.ldg.firstPos + n, nextSeq := seqNext seq } }

/-- Write one record: into the first area while it is open and the record fits, otherwise into the circulating area; a record that no longer fits closes the first area for good (R265). -/
def State.writeRecord (s : State) (e : Entry) (pf : Bool) : State :=
  let fl := e.flags + 16 * b2n pf
  if s.ldg.commissioned ∧ s.ldg.firstFull = false then
    if s.ldg.firstPos + recLen e ≤ firstSize then s.writeFirst e fl
    else
      let s := s.writeCirc e fl
      { s with ldg := { s.ldg with firstFull := true } }.stage 0x00E8 0 []
  else s.writeCirc e fl

/-- The ring's oldest entry may be written (R274, R283): the scan has ended, MRAM works, no changed latch waits to be written (R184), and the output update of its tick has passed. -/
def State.canWrite (s : State) (e : Entry) : Bool :=
  !s.ldg.scanning && !s.dm.mramFail && s.nv.latchDirty.isEmpty && (!s.ticking || !s.pe.updDue || decide (e.ot < s.pe.tickOt) || decide (s.pwr.pf = PfStage.flushing))

/-- LEDGER_WRITE (R274): the oldest entry goes to MRAM; then the overflow record, when one is due. -/
def State.ledgerWrite (s : State) : State :=
  match s.ldg.ring with
  | [] => s
  | e :: r =>
    if s.canWrite e then
      ({ s with ldg := { s.ldg with ring := r } }.writeRecord e (decide (s.pwr.pf = PfStage.flushing))).overflow
    else s

/-- Write every entry of the ring in order (R445, R450). -/
def State.flushRing (s : State) : State :=
  s.ldg.ring.foldl (fun s e => s.writeRecord e false) { s with ldg := { s.ldg with ring := [] } }

/-- The power-fail steps 2 and 3 of R275: the ring closes, and INFO and WARN entries ahead of the newest ALARM or TRIP entry are discarded. -/
def dropBefore (l : List Entry) : List Entry :=
  match l with
  | [] => []
  | e :: r => if (e :: r).any (fun x => 2 ≤ x.sev) ∧ e.sev < 2 then dropBefore r else e :: dropBefore r

def State.closeRing (s : State) : State :=
  let kept := dropBefore s.ldg.ring
  let gone := s.ldg.ring.length - kept.length
  let low := countIf s.ldg.ring (fun e => e.sev < 2) - countIf kept (fun e => e.sev < 2)
  { s with ldg := { s.ldg with ring := kept, closed := true, pfLost := gone, lateLost := 0, lostLow := satAdd 65535 s.ldg.lostLow low } }

/-- The end of the flush (R275 step 6): entries left are dropped and counted, and POWER_FAIL is written. -/
def State.flushEnd (s : State) : State :=
  let left := s.ldg.ring
  let s := { s with ldg := { s.ldg with
    ring := [], pfLost := s.ldg.pfLost + left.length,
    lostLow := satAdd 65535 s.ldg.lostLow (countIf left (fun e => e.sev < 2)),
    lostHigh := satAdd 65535 s.ldg.lostHigh (countIf left (fun e => 2 ≤ e.sev)) } }
  let e := s.entryOf false 0x0140 2 0 (b4 s.ldg.pfLost ++ b2 s.pwr.holdMv ++ zeros 2)
  (s.writeRecord e true).setIrq (Config.blockOf 0x0140)

/-! ### Cursors (R279-R281) -/

/-- The circulating record from which the oldest is read: the oldest valid one at or above the floor (R280). -/
def State.oldest (s : State) : Option RecIx := s.ldg.circ.find? (fun r => !seqBelow r.seq s.ldg.floor && s.recValid r)

/-- LDG_OLDEST_SEQ. -/
def State.oldestSeq (s : State) : Nat :=
  match s.oldest with
  | some r => r.seq
  | none => s.ldg.nextSeq

/-- Status of a cursor that has just moved to a record (R280): ok or torn. -/
def State.ixStatus (s : State) (r : RecIx) : Nat := if s.recValid r then 0 else 1

/-- A cursor at a record, or past the newest. -/
def State.cursorAt (s : State) (area : Bool) (ix : Option RecIx) : Cursor :=
  match ix with
  | some r => { area := area, ix := some r, status := s.ixStatus r }
  | none => { area := area, ix := none, status := 3 }

/-- The record after, and the record before, one in a list of records. -/
def nextOf (l : List RecIx) (r : RecIx) : Option RecIx :=
  match l with
  | a :: b :: t => if a = r then some b else nextOf (b :: t) r
  | _ => none

def prevOf (l : List RecIx) (r : RecIx) : Option RecIx :=
  match l with
  | a :: b :: t => if b = r then some a else prevOf (b :: t) r
  | _ => none

/-- A record below the floor of the circulating area is absent (R282). -/
def State.present (s : State) (area : Bool) (r : RecIx) : Bool := area || !seqBelow r.seq s.ldg.floor

/-- A cursor moved past the newest record from one. -/
def pastEnd (area : Bool) (r : RecIx) : Cursor := { area := area, ix := none, past := some r, status := 3 }

/-- Status as it reads: ok and torn follow the record, which is seen live (R279, R280). -/
def State.cursorStatus (s : State) (c : Cursor) : Nat :=
  match c.ix with
  | some r => if c.status ≤ 1 then s.ixStatus r else c.status
  | none => c.status

/-- The cursor stands in the circulating area below the floor (R280, R291). -/
def State.belowFloor (s : State) (c : Cursor) : Bool :=
  match c.ix, c.past with
  | some r, _ => !s.present c.area r
  | none, some r => !s.present c.area r
  | none, none => false

/-- One cursor move (R280). -/
def State.moveCursor (s : State) (seq : Nat) (c : Cursor) : Cursor :=
  match c.op with
  | 1 =>
    match s.ldg.circ.find? (fun r => r.seq = seq) with
    | some r => if seqBelow seq s.ldg.floor then { c with status := 4, op := 0 } else s.cursorAt false (some r)
    | none => if seqBelow seq s.ldg.floor ∧ seq ≠ 0 then { c with status := 4, op := 0 } else { c with status := 5, op := 0 }
  | 2 => s.cursorAt false s.oldest
  | 3 =>
    match (s.ldg.circ.filter (s.present false)).getLast?, s.ldg.first.getLast? with
    | some a, some b => if seqBelow a.seq b.seq then s.cursorAt true (some b) else s.cursorAt false (some a)
    | some a, none => s.cursorAt false (some a)
    | none, some b => s.cursorAt true (some b)
    | none, none => s.cursorAt false none
  | 4 =>
    if c.status = 2 ∨ c.status = 4 then s.cursorAt false s.oldest
    else if s.belowFloor c then { c with status := 4, op := 0 }
    else
      match c.ix with
      | some r =>
        if c.area then
          match nextOf s.ldg.first r with
          | some r' => s.cursorAt true (some r')
          | none => s.cursorAt false s.oldest
        else
          match nextOf s.ldg.circ r with
          | some r' => s.cursorAt false (some r')
          | none => pastEnd false r
      | none =>
        if c.before then s.cursorAt c.area (if c.area then s.ldg.first.head? else s.oldest)
        else
          match c.past with
          | some r =>
            if r ∉ s.ldg.circ then s.cursorAt false s.oldest
            else
              match nextOf s.ldg.circ r with
              | some r' => s.cursorAt false (some r')
              | none => { c with status := 3, op := 0 }
          | none => { c with status := 3, op := 0 }
  | 5 =>
    if c.status = 4 then { c with status := 3, op := 0 }
    else if s.belowFloor c then { c with status := 4, op := 0 }
    else
      let l := if c.area then s.ldg.first else s.ldg.circ
      match c.ix with
      | some r =>
        match (prevOf l r).filter (s.present c.area) with
        | some r' => s.cursorAt c.area (some r')
        | none => { area := c.area, ix := none, before := true, status := 3 }
      | none =>
        if c.before then { c with status := 3, op := 0 }
        else if c.past.any (fun r => l.contains r) then s.cursorAt c.area c.past
        else s.cursorAt c.area (l.filter (s.present c.area)).getLast?
  | 6 => s.cursorAt true s.ldg.first.head?
  | _ => c

/-- A write of LDG_CUR_CTL op: ignored while the class's cursor is busy, and for values 0 and 7 (R280). -/
def State.cursorOp (s : State) (cls : KeyClass) (op : Nat) : State :=
  { s with ldg := { s.ldg with cursors := modNth s.ldg.cursors (clsIx cls) (fun c => if c.op = 0 ∧ 1 ≤ op ∧ op ≤ 6 then { c with op := op } else c) } }

/-- CURSOR_MOVE_DONE (R280): the move that runs completes. -/
def State.cursorDone (s : State) (cls : KeyClass) : State :=
  let seq := (s.reg (bankKey 0x3010 (clsIx cls))).toNat
  { s with ldg := { s.ldg with cursors := modNth s.ldg.cursors (clsIx cls) (fun c => { s.moveCursor seq c with op := 0 }) } }

/-- The record bytes a class's window shows (R279). -/
def State.windowBytes (s : State) (cls : KeyClass) : List Byte :=
  match (nth s.ldg.cursors (clsIx cls)).ix with
  | some r => s.mramGet r.off r.len
  | none => []

/-! ### Clearing, commissioning and the boot scan (R265, R282, R283) -/

/-- The clear step (R282): the floor is hallmarked, and LEDGER_CLEARED carries the cleared range. -/
def State.clearLedger (s : State) : State :=
  let first := s.oldestSeq
  let last := if s.ldg.nextSeq = 1 then 0xFFFFFFFF else s.ldg.nextSeq - 1
  let s := { s with ldg := { s.ldg with floor := s.ldg.nextSeq } }
  s.stage 0x00E2 1 (b4 first ++ b4 last)

/-- The sequence after the newest record of an area, where that is later than the one at hand, or the one at hand is the fallback (R271, R293). -/
def seqAfter (n : Nat) (r : Option RecIx) : Nat :=
  match r with
  | some x => if n = 1 ∨ (seqNext x.seq + 2 ^ 32 - n) % 2 ^ 32 < 2 ^ 31 then seqNext x.seq else n
  | none => n

/-- LEDGER_SCAN_DONE (R283): the records after the newest valid one of each area are partial and lose their final word; the next sequence follows the newest record found (R271); OT steps forward to a larger OT found, in the case of R442. -/
def State.scanDone (s : State) : State :=
  let bad := fun l : List RecIx => l.reverse.takeWhile (fun r => !s.recValid r)
  let n := (bad s.ldg.first).length + (bad s.ldg.circ).length
  let s' := (bad s.ldg.first ++ bad s.ldg.circ).foldl State.invalidate s
  let f := s.ldg.first.take (s.ldg.first.length - (bad s.ldg.first).length)
  let c := s.ldg.circ.take (s.ldg.circ.length - (bad s.ldg.circ).length)
  let otOf := fun r : RecIx => field (s.mramGet r.off r.len) 16 7
  let top := ((f.getLast?.map otOf).getD 0).max ((c.getLast?.map otOf).getD 0)
  let s' := { s' with ldg := { s'.ldg with first := f, circ := c, scanning := false, nextSeq := seqAfter (seqAfter s'.ldg.nextSeq f.getLast?) c.getLast? } }
  let s' := if s'.pwr.blocks = [none, none] then { s' with pwr := { s'.pwr with ot := s'.pwr.ot.max top } } else s'
  if n ≠ 0 then s'.stage 0x00E7 1 (b4 n) else s'

end Sys2Proof.Machine
end

