-- ==== Sys2Proof/Machine/Filter.lean ====
section
/-! DEFINITION. The filter chain and sample quality (R11, R63-R80). -/

namespace Sys2Proof.Machine

/-- Number of invalid outputs after a boundary at which B converter samples are discarded (R76). -/
def invalidCount (f : FltSet) (b : Nat) : Nat :=
  let n1 := ceilDiv (f.l1 + b) f.d1 - 1
  if f.l2 = 1 ∧ f.d2 = 1 then n1 else ceilDiv (n1 + f.l2) f.d2 - 1

/-- Converter samples that feed a word (R70). -/
def spanOf (f : FltSet) : Nat := f.l1 + (f.l2 - 1) * f.d1

/-- Group delay in ns, rounded to the nearest (R67). -/
def gdNs (f : FltSet) : Nat := divRound ((f.l1 - 1 + (f.l2 - 1) * f.d1 + 2) * 1000000000) (2 * Config.fc)

/-- Single-cycle settling mode (R68). -/
def singleCycle (f : FltSet) : Bool := decide (f.l1 = f.d1 ∧ f.l2 = 1 ∧ f.d2 = 1)

/-- Refusal code of a set of settings, in the order of R65: 5 bad_value, 3 bad_rate, 4 gap; 0 when it passes. -/
def fltCheck (f : FltSet) : Nat :=
  if ¬(1 ≤ f.l1 ∧ f.l1 ≤ 1024 ∧ 1 ≤ f.l2 ∧ f.l2 ≤ 64) then 5
  else if f.d1 ∉ [1, 2, 4, 8, 16, 32, 64, 128, 256] ∨ f.d2 ∉ [1, 2, 4, 8] then 5
  else if f.d1 * f.d2 ∉ [64, 128, 256] then 3
  else if f.l1 < f.d1 ∨ f.l2 < f.d2 then 4
  else 0

/-- The settings that a value of FLT_CFG names (R66); none for preset 7. -/
def fltOfWord (w : Word) : Option FltSet :=
  let p := bitsOf w 26 24
  if p = 0 then
    some { l1 := bitsOf w 9 0 + 1, d1 := 2 ^ bitsOf w 13 10, l2 := bitsOf w 21 16 + 1, d2 := 2 ^ bitsOf w 23 22, preset := 0 }
  else
    match Config.preset p with
    | some (l1, d1, l2, d2) => some { l1 := l1, d1 := d1, l2 := l2, d2 := d2, preset := p }
    | none => none

/-- The value of FLT_CFG for settings: a preset's fields take the preset's values. -/
def wordOfFlt (f : FltSet) : Word :=
  pack [(0, 10, f.l1 - 1), (10, 4, Nat.log2 f.d1), (16, 6, f.l2 - 1), (22, 2, Nat.log2 f.d2), (24, 3, f.preset)]

/-- The filter that a template will run on: the stored setting, or the fallback (R66, R239). -/
def State.fltToCome (s : State) : FltSet := (fltOfWord (lookupD s.nv.ovr 0x1800 (regDefault 0x1800))).getD s.flt.eff

/-- The four settings are those in effect (R74). -/
def sameFlt (a b : FltSet) : Bool := decide (a.l1 = b.l1 ∧ a.d1 = b.d1 ∧ a.l2 = b.l2 ∧ a.d2 = b.d2)

/-- One channel changed. -/
def State.modFltCh (s : State) (c : Nat) (f : FltCh → FltCh) : State := { s with flt := { s.flt with ch := modNth s.flt.ch c f } }

/-- A change on a channel's path that discards b samples: the largest B of one boundary, N under the settings that follow it, and the later of the running and the new end of the invalid outputs (R75, R79). -/
def FltCh.spoil (x : FltCh) (f : FltSet) (b : Nat) : FltCh :=
  { x with nowB := x.nowB.max b, left := x.left0.max (invalidCount f (x.nowB.max b)), blank := x.blank.max b }

/-- A change on a channel's path. -/
def State.spoil (s : State) (c b : Nat) : State := s.modFltCh c (fun x => x.spoil s.flt.eff b)

/-- A change on every channel's path. -/
def State.spoilAll (s : State) (b : Nat) : State := { s with flt := { s.flt with ch := s.flt.ch.map (fun x => x.spoil s.flt.eff b) } }

/-- A channel's path after a hard fault: n invalid outputs (R49). -/
def State.spoilFor (s : State) (c n : Nat) : State := s.modFltCh c (fun x => { x with left0 := x.left0.max n, left := x.left.max n, blank := x.blank.max 6 })

/-- Sum of the first n codes of a window from a position on. -/
def sumWin (win : List Int) (start n : Nat) : Int := ((win.drop start).take n).foldl (· + ·) 0

/-- y2 times L1 · L2, exact (R63). -/
def fltSum (f : FltSet) (win : List Int) : Int := (List.range f.l2).foldl (fun a j => a + sumWin win (j * f.d1) f.l1) 0

/-- Value of a sample word (R69): round(64 · y2), half away from zero. -/
def fltValue (f : FltSet) (win : List Int) : Int := roundAway ((64 * fltSum f win : Int) / ((f.l1 * f.l2 : Nat) : Rat))

/-- A code limited to the range of R37. -/
def limitCode (c : Int) : Int := max (-131072) (min 131071 c)

/-- A code at either limit of R37. -/
def atLimit (c : Int) : Bool := decide (c = -131072 ∨ c = 131071)

/-- The bank-relative core that serves a channel (R40). -/
def State.coreOf (s : State) (c : Nat) : Option Nat := ((nth s.afe.banks (c / 8)).map).getD (c % 8) none

/-- The sample word of one channel at a tick (R69-R72), and the channel's new filter state. -/
def fltTick (f : FltSet) (x : FltCh) (codes : List Int) (hasCore cal suspect test holdover : Bool) : FltCh :=
  let codes := codes.map limitCode
  let win := (codes.reverse ++ x.win).take (spanOf f)
  let off := !hasCore || cal
  let valid := !off && decide (x.left = 0)
  let settling := !off && decide (x.left ≠ 0)
  let v := if valid then fltValue f win else x.held
  let clip := valid && win.any atLimit
  { win := win, left := x.left - 1, left0 := x.left - 1, nowB := 0, held := v, raw := (codes.reverse ++ x.raw).take 1024, blank := x.blank - codes.length,
    clean := if x.blank = 0 then x.clean + codes.length else codes.length - x.blank,
    word := pack [(1, 1, 0), (2, 1, b2n holdover), (3, 1, b2n test), (4, 1, b2n suspect), (5, 1, b2n clip), (6, 1, b2n settling),
      (7, 1, b2n valid), (8, 24, toTwos 24 v)] }

/-- Every channel's sample word of a tick is latched (R13, R70). -/
def State.latchWords (s : State) (codes : List (List Int)) : State :=
  let test := decide (s.sys.st = .test)
  let ho := decide (s.ptp.state ≠ 2)
  { s with flt := { s.flt with ch := (List.range 16).map (fun c =>
      let a := nth s.afe.ch c
      fltTick s.flt.eff (nth s.flt.ch c) (codes.getD c []) (s.coreOf c).isSome a.cal a.suspect test ho) } }

/-- A word made invalid: valid and overrange read 0 (R71, R72); settling reads 1 where the channel has a core in service (log entry 135). -/
def invalidWord (w : Word) (core : Bool) : Word := (w &&& 0xFFFFFF1F#32) ||| (if core then 0x40#32 else 0#32)

/-- The latest sample word of a channel. -/
def State.word (s : State) (c : Nat) : Word := (nth s.flt.ch c).word

/-- Signed value of a sample word. -/
def wordVal (w : Word) : Int := ofTwos 24 (bitsOf w 31 8)

/-- Valid words have come (R77): the latest word of some channel has valid = 1. -/
def State.wordsValid (s : State) : Bool := s.ticking && s.flt.ch.any (fun x => decide (x.left = 0) && bitAt x.word 7)

/-- FLT_STAT. -/
def State.fltStat (s : State) : Word :=
  let f := s.flt.eff
  pack [(0, 4, s.flt.result), (8, 7, invalidCount f 0), (15, 7, invalidCount f 4), (22, 7, invalidCount f 6), (29, 1, b2n (singleCycle f))]

/-- FLT_CH_Q. -/
def State.fltChQ (s : State) : Word :=
  pack [(0, 16, maskOf (s.flt.ch.map (fun x => !bitAt x.word 7))), (16, 16, maskOf (s.flt.ch.map (fun x => bitAt x.word 6)))]

/-- A set is refused (R65, R80): the result reads its code, and FILTER_REFUSED carries it. -/
def State.refuseFlt (s : State) (code : Nat) : State := { s with flt := { s.flt with result := code } }.stage 0x0071 1 (b1 code ++ zeros 3)

/-- A structural activation is within its BLOCKED span (R238). -/
def State.actSpan (s : State) : Bool := decide (s.sch.act = .blocked ∨ s.sch.act = .settling)

/-- A write of FLT_CFG that the keyway allows (R65, R66, R74): the state after it, and whether the value was refused. -/
def State.writeFltCfg (s : State) (w : Word) : State × Bool :=
  match fltOfWord w with
  | none => (s.refuseFlt 5, true)
  | some f =>
    let c := fltCheck f
    if c ≠ 0 then (s.refuseFlt c, true)
    else if f.d1 * f.d2 ≠ s.flt.eff.d1 * s.flt.eff.d2 then (s.refuseFlt 6, true)
    else if s.actSpan then (s.refuseFlt 7, true)
    else
      let s := s.setStored 0x1800 (wordOfFlt f)
      if sameFlt f s.flt.eff then ({ s with flt := { s.flt with pend := none, result := 2, eff := { s.flt.eff with preset := f.preset } } }, false)
      else ({ s with flt := { s.flt with pend := some f, result := 1 } }, false)

end Sys2Proof.Machine
end

