-- ==== Sys2Proof/Machine/Afe.lean ====
section
/-! DEFINITION. The analogue front end: banks, anneal rotation, pilot (R35-R62). -/

namespace Sys2Proof.Machine

/-! ### Accessors -/

/-- A bank, and a bank changed. -/
def State.bank (s : State) (b : Nat) : Bank := nth s.afe.banks b

def State.modBank (s : State) (b : Nat) (f : Bank → Bank) : State := { s with afe := { s.afe with banks := modNth s.afe.banks b f } }

/-- A core by its number 0-17, and a core changed. -/
def State.core (s : State) (c : Nat) : ConvCore := nth s.afe.cores c

def State.modCore (s : State) (c : Nat) (f : ConvCore → ConvCore) : State := { s with afe := { s.afe with cores := modNth s.afe.cores c f } }

def State.setRole (s : State) (c : Nat) (r : CoreRole) : State := s.modCore c (fun x => { x with role := r })

/-- A channel's pilot state, and one changed. -/
def State.afeCh (s : State) (c : Nat) : AfeCh := nth s.afe.ch c

def State.modAfeCh (s : State) (c : Nat) (f : AfeCh → AfeCh) : State := { s with afe := { s.afe with ch := modNth s.afe.ch c f } }

/-- Number of a bank's core. -/
def coreNo (b i : Nat) : Nat := 9 * b + i

/-- A core is good when the defect map does not mark it as mapped out (R41). -/
def State.coreGood (s : State) (c : Nat) : Bool := decide ((nth s.dm.map.cores c).1 = 0)

/-- Register AFE_BANK_CTL of a bank, in effect. -/
def State.bankCtl (s : State) (b : Nat) : Word := s.reg (0x1440 + 4 * b)

/-! ### Pilot frequency (R54, R58) -/

/-- k is usable: 4 kHz ≤ k · fc / L1 ≤ 100 kHz. -/
def kUsable (l1 k : Nat) : Bool := decide (1 ≤ k ∧ k ≤ 8 ∧ 4000 * l1 ≤ k * Config.fc ∧ k * Config.fc ≤ 100000 * l1)

/-- Distance of f from 38.4 kHz, times L1. -/
def kDist (l1 k : Nat) : Nat := (((k * Config.fc : Nat) : Int) - ((38400 * l1 : Nat) : Int)).natAbs

/-- The usable k whose f lies nearest to 38.4 kHz, the lower on a tie; 0 for none. -/
def kAuto (l1 : Nat) : Nat :=
  ((List.range 9).filter (kUsable l1)).foldl (fun a k => if a = 0 ∨ kDist l1 k < kDist l1 a then k else a) 0

/-- k in use and pilot state of a bank: 0 on, 1 off_no_null, 2 off_host. -/
def pilotChoice (ctl : Word) (l1 : Nat) : Nat × Nat :=
  if bitAt ctl 4 = false then (0, 2)
  else
    let k := bitsOf ctl 3 0
    let e := if k = 0 then kAuto l1 else if kUsable l1 k then k else 0
    (e, if e = 0 then 1 else 0)

/-- Channel numbers of a bank. -/
def bankChs (b : Nat) : List Nat := (List.range 8).map (fun i => 8 * b + i)

/-- Restart a channel's correlator (R58). -/
def State.restartCorr (s : State) (c : Nat) : State := s.modAfeCh c (fun x => { x with fresh := true, ampDev := 0, phDev := 0, inside := 0 })

/-- The FAILSAFE cause of R57: more than 2 channels suffer pilot failure. -/
def State.judgePilots (s : State) : State := if 2 < countIf s.afe.ch (fun c => c.suspect) then s.addCause 7 else s.dropCause 7

/-- Clear pilot_suspect on every channel of a bank whose pilot is off (R54, R58). -/
def State.clearSuspects (s : State) (b : Nat) : State :=
  ((bankChs b).foldl (fun s c => s.modAfeCh c (fun x => { x with suspect := false, inside := 0, served := false })) s).judgePilots

/-- Evaluate R54 again for a bank; PILOT_OFF when it turns off for want of a null. The correlators are restarted by a filter or a gain change only (R58): a new pilot_k or a pilot turned on restarts none (DESIGN CHOICE, log entry 136). -/
def State.evalPilot (s : State) (b : Nat) : State :=
  let o := s.bank b
  let p := pilotChoice (s.bankCtl b) s.flt.eff.l1
  let s := s.modBank b (fun x => { x with kEff := p.1, pilot := p.2 })
  let s := if p.2 = 1 ∧ o.pilot ≠ 1 then s.stage 0x0068 1 (b1 b ++ zeros 3) else s
  if p.2 = 0 then s else s.clearSuspects b

/-- At a filter boundary: R54 again, the pilot DAC retuned, every correlator restarted (R58, R78). -/
def State.retunePilots (s : State) : State :=
  let s := (List.range 16).foldl State.restartCorr s
  (s.evalPilot 0).evalPilot 1

/-- A phase difference reduced to -180 … +180 degrees. -/
def wrapDeg (d : Rat) : Rat := d - 360 * (((d + 180) / 360).floor : Rat)

/-- A measurement lies within the alarm window around a baseline (R55). -/
def inWindow (ctl : Word) (base : Rat × Rat) (amp ph : Rat) : Bool :=
  decide (absR (amp - base.1) * 1000 ≤ ((bitsOf ctl 15 8 : Nat) : Rat) * absR base.1) &&
  decide (absR (wrapDeg (ph - base.2)) * 10 ≤ ((bitsOf ctl 23 16 : Nat) : Rat))

/-- The stored baseline of a channel for its present gain (R56). -/
def State.baseline (s : State) (c : Nat) : Option (Rat × Rat) := ((s.afeCh c).base).getD (s.afeCh c).gain none

/-- Measured pilot against the channel's baseline; a channel without one counts as within. -/
def State.pilotOk (s : State) (c : Nat) (amp ph : Rat) : Bool :=
  match s.baseline c with
  | some b => inWindow (s.bankCtl (c / 8)) b amp ph
  | none => true

/-- PILOT_WINDOW_END (R55-R57): nothing is measured while the bank's pilot is off (R54). -/
def State.pilotWindow (s : State) (c : Nat) (amp ph : Rat) : State :=
  let a := s.afeCh c
  if (s.bank (c / 8)).kEff = 0 then s
  else
  match s.baseline c with
  | none =>
    let s := s.modAfeCh c (fun x => { x with fresh := false, base := x.base.set a.gain (some (amp, ph)) })
    s.stage 0x006A 0 (b1 c ++ b1 a.gain ++ zeros 2 ++ leBytes 4 (toSingle amp).toNat ++ leBytes 4 (toSingle ph).toNat)
  | some b =>
    let dev := fun v : Rat => roundAway v
    let ad := if b.1 = 0 then 0 else dev ((amp - b.1) / b.1 * 10000)
    let pd := dev (wrapDeg (ph - b.2) * 100)
    let ok := inWindow (s.bankCtl (c / 8)) b amp ph
    let s := s.modAfeCh c (fun x => { x with fresh := false, ampDev := ad, phDev := pd })
    if bitAt (s.reg (0x1400 + 4 * c)) 2 then s
    else if !ok then
      if a.suspect then s.modAfeCh c (fun x => { x with inside := 0 })
      else
        let s := s.modAfeCh c (fun x => { x with suspect := true, inside := 0, served := false })
        (s.stage 0x0066 1 (b1 c ++ zeros 3 ++ bI 2 ad ++ bI 2 pd)).judgePilots
    else if a.suspect then
      if 3 ≤ a.inside + 1 then
        let s := s.modAfeCh c (fun x => { x with suspect := false, inside := 0 })
        (s.stage 0x0067 0 (b1 c ++ zeros 3)).judgePilots
      else s.modAfeCh c (fun x => { x with inside := a.inside + 1 })
    else s

/-- pilot_excl set on a suspect channel clears its suspect, with PILOT_CLEAR (R55). -/
def State.exclude (s : State) (c : Nat) : State :=
  if (s.afeCh c).suspect then
    ((s.modAfeCh c (fun x => { x with suspect := false, inside := 0 })).stage 0x0067 0 (b1 c ++ zeros 3)).judgePilots
  else s

/-! ### Cores in and out of service (R41, R48-R50) -/

/-- The bank loses its spare (R50). -/
def State.bankNoSpare (s : State) (b : Nat) : State :=
  let s := s.modBank b (fun x => { x with spare := none, noSpare := true, phase := .stopped })
  s.stage 0x0064 2 (b1 b ++ zeros 3)

/-- Map a core out in the defect map (R48, R49). -/
def State.mapOutCore (s : State) (c : Nat) : State :=
  let s := s.setRole c .mappedOut
  let s := { s with dm := { s.dm with map := { s.dm.map with cores := s.dm.map.cores.set c (2, 0) }, dirty := true } }
  s.stage 0x0062 2 (b1 c ++ zeros 3)

/-- Failures of a core since its last pass (R48). -/
def State.coreFails (s : State) (c : Nat) : Nat := (nth s.dm.map.cores c).2

/-- A core's failure count set in the defect map. -/
def State.setFails (s : State) (c n : Nat) : State :=
  if s.coreFails c = n then s
  else { s with dm := { s.dm with map := { s.dm.map with cores := modNth s.dm.map.cores c (fun x => (x.1, n)) }, dirty := true } }

/-- A core fails (R48): twice with no pass in between maps it out. -/
def State.failCore (s : State) (c : Nat) : State := if s.coreFails c = 0 then s.setFails c 1 else s.mapOutCore c

/-- Assignment of a bank's good cores at power-on (R41). -/
def State.assignBank (s : State) (b : Nat) : State :=
  let good := (List.range 9).filter (fun i => s.coreGood (coreNo b i))
  let map := (List.range 8).map (fun i => good[i]?)
  let had := (s.bank b).noSpare
  let none0 := (bankChs b).filter (fun c => (s.coreOf c).isNone)
  let s := (List.range 9).foldl (fun s i =>
    s.setRole (coreNo b i) (if !s.coreGood (coreNo b i) then .mappedOut else if good[8]? = some i then .idle else .inService)) s
  let s := s.modBank b (fun x => { x with map := map, spare := good[8]?, noSpare := (good[8]?).isNone, rotCh := 0, phase := if (good[8]?).isNone then .stopped else .waiting })
  let s := (bankChs b).foldl (fun s c => if (s.coreOf c).isNone ∧ c ∉ none0 then s.stage 0x0065 2 (b1 c ++ zeros 3) else s) s
  if (good[8]?).isNone ∧ had = false then s.stage 0x0064 2 (b1 b ++ zeros 3) else s

/-! ### The rotation (R42-R52) -/

/-- Longest run of invalid outputs after a hard fault (R49). -/
def hardFaultOutputs (f : FltSet) : Nat := ceilDiv (f.l1 + (f.l2 - 1) * f.d1 + 6) (f.d1 * f.d2)

/-- The next channel of the bank that has a core, from one on. -/
def State.nextChan (s : State) (b c : Nat) : Nat :=
  ((List.range 8).map (fun i => (c + i) % 8)).find? (fun i => (s.coreOf (8 * b + i)).isSome) |>.getD (c % 8)

/-- Connect the spare to a channel for comparison: its shadow filter counts as routed anew, with B = 6 (R42, R51, R75). -/
def State.startStep (s : State) (b ch : Nat) (k : StepKind) : State :=
  match (s.bank b).spare with
  | some sp =>
    let s := s.setRole (coreNo b sp) .comparing
    s.modBank b (fun x => { x with rotCh := ch, phase := .compare, kind := k, restart := false, shLeft := invalidCount s.flt.eff 6, shCmp := 0 })
  | none => s

/-- One tick of a bank's shadow filter (R42): its N invalid outputs, then the compared ones; it stands still while the step waits to restart. -/
def Bank.shadowTick (x : Bank) : Bank :=
  if x.phase = .compare ∧ x.restart = false then
    if x.shLeft = 0 then { x with shCmp := min 66 (x.shCmp + 1) } else { x with shLeft := x.shLeft - 1 }
  else x

def State.shadowTick (s : State) : State := { s with afe := { s.afe with banks := s.afe.banks.map Bank.shadowTick } }

/-- The handover of a comparison is due at the latest tick: 64 outputs have been compared (R42). -/
def Bank.handoverDue (x : Bank) : Bool := decide (x.phase = .compare) && !x.restart && decide (x.shCmp = 65)

/-- A bank may start a step: ticks occur outside BOOT, it has a spare, and its reference DAC holds (R46). -/
def State.canRotate (s : State) (b : Nat) : Bool :=
  s.ticking && decide (s.sys.st ≠ .boot) && (s.bank b).spare.isSome && !(s.bank b).refdacFail && !(s.bank b).noSpare

/-- ROTATION_STEP_START (R42, R46); an abandoned step restarts once the change's invalid outputs have passed (R60). -/
def State.rotationStart (s : State) (b : Nat) : State :=
  let k := s.bank b
  if s.canRotate b && (decide (k.phase = .waiting) || (decide (k.phase = .compare) && k.restart && decide ((nth s.flt.ch (8 * b + k.rotCh)).left = 0))) then s.startStep b (s.nextChan b k.rotCh) k.kind else s

/-- The lowest suspect channel of a bank not yet served (R51). -/
def State.suspectCh (s : State) (b : Nat) : Option Nat :=
  (List.range 8).find? (fun i => (s.afeCh (8 * b + i)).suspect && !(s.afeCh (8 * b + i)).served && (s.coreOf (8 * b + i)).isSome)

/-- SUSPECT_SERVICE_START (R51, R60): a calibration runs to its end first; a comparison that already runs on the channel continues. -/
def State.suspectStart (s : State) (b : Nat) : State :=
  match s.suspectCh b with
  | none => s
  | some i =>
    if s.canRotate b && decide ((s.bank b).phase = .waiting ∨ (s.bank b).phase = .compare) then
      if (s.bank b).phase = .compare ∧ (s.bank b).rotCh = i then s.modBank b (fun x => { x with kind := .suspect })
      else s.startStep b i .suspect
    else s

/-- The former spare takes over the channel, and the former in-service core is released (R42, R44). -/
def State.swapCores (s : State) (b : Nat) : State :=
  let k := s.bank b
  match k.spare, k.map.getD k.rotCh none with
  | some sp, some old =>
    let s := (s.setRole (coreNo b sp) .inService).setRole (coreNo b old) .calibrating
    s.modBank b (fun x => { x with map := x.map.set x.rotCh (some sp), spare := some old, phase := .calibrate })
  | _, _ => s

/-- After a handover, which counts as a step of the rotation (a suspect channel's as well: DESIGN CHOICE, log entry 137): the released core is calibrated, parked when the reference DAC has failed, or lost when it is mapped out (R42, R52, R60). -/
def State.afterHandover (s : State) (b : Nat) (steps : Nat) : State :=
  match (s.bank b).spare with
  | some r =>
    if !s.coreGood (coreNo b r) then s.bankNoSpare b
    else if (s.bank b).refdacFail then (s.setRole (coreNo b r) .parked).modBank b (fun x => { x with phase := .stopped, steps := x.steps + steps })
    else s.modBank b (fun x => { x with steps := x.steps + steps })
  | none => s

/-- The spare is blamed: no handover, it returns to calibration, and the step restarts on the same channel (R47); with the reference DAC failed it is parked, and the rotation will resume at the channel that follows (R52). -/
def State.blameSpare (s : State) (b : Nat) : State :=
  match (s.bank b).spare with
  | some sp =>
    let s := s.failCore (coreNo b sp)
    if !s.coreGood (coreNo b sp) then s.bankNoSpare b
    else if (s.bank b).refdacFail then (s.setRole (coreNo b sp) .parked).modBank b (fun x => { x with phase := .stopped, restart := false })
    else (s.setRole (coreNo b sp) .calibrating).modBank b (fun x => { x with phase := .calibrate, restart := true })
  | none => s

/-- A core has been mapped out: the spare takes the channel that it served, with the invalid outputs of a routing change (their number is the bound of R49: DESIGN CHOICE, log entry 138); without a spare the channel is left without a core (R49, R50). -/
def State.coreLost (s : State) (c : Nat) : State :=
  let b := c / 9
  let i := c % 9
  let k := s.bank b
  match (List.range 8).find? (fun j => k.map.getD j none = some i) with
  | some j =>
    match k.spare with
    | some sp =>
      let s := (s.setRole (coreNo b sp) .inService).modBank b (fun x => { x with map := x.map.set j (some sp) })
      (s.bankNoSpare b).spoilFor (8 * b + j) (hardFaultOutputs s.flt.eff)
    | none => (s.modBank b (fun x => { x with map := x.map.set j none })).stage 0x0065 2 (b1 (8 * b + j) ++ zeros 3)
  | none => if k.spare = some i then s.bankNoSpare b else s

/-- The in-service core is blamed while the reference DAC has failed: the cores disagree, so there is no handover, and the spare is parked (R47, R52, R60); a core that this maps out leaves its channel to the spare as after a hard fault (DESIGN CHOICE, log entry 139). -/
def State.blameServing (s : State) (b : Nat) : State :=
  let k := s.bank b
  match k.spare, k.map.getD k.rotCh none with
  | some sp, some serv =>
    let s := s.failCore (coreNo b serv)
    if s.coreGood (coreNo b serv) then (s.setRole (coreNo b sp) .parked).modBank b (fun x => { x with phase := .stopped, restart := false }) else s.coreLost (coreNo b serv)
  | _, _ => s

/-- The two cores agree (R43): 64 outputs within 0.05 % of full scale, and pilot phases within 0.1° unless the pilot is off. -/
def coresAgree (m : CompareIn) (pilotOff : Bool) : Bool :=
  decide (m.words.length = 64) && m.words.all (fun p => decide ((p.1 - p.2).natAbs * 2000 ≤ 2 ^ 23)) && (pilotOff || decide (absR (wrapDeg (m.phSpare - m.phServ)) * 10 ≤ 1))

/-- A CORE_DISAGREE record names both cores and the blamed one (R47). -/
def State.disagree (s : State) (spare serv blamed : Nat) : State := s.stage 0x0060 1 (b1 spare ++ b1 serv ++ b1 blamed ++ zeros 1)

/-- HANDOVER (R43, R44, R47, R51, R60). -/
def State.handover (s : State) (b : Nat) (m : CompareIn) : State :=
  let k := s.bank b
  let c := 8 * b + k.rotCh
  match k.spare, k.map.getD k.rotCh none with
  | some sp, some serv =>
    if k.phase ≠ .compare ∨ k.restart ∨ k.shLeft ≠ 0 ∨ k.shCmp < 65 ∨ m.words.length ≠ 64 then s
    else
      let off := decide (k.kEff = 0)
      let spOk := s.pilotOk c m.ampSpare m.phSpare
      let svOk := s.pilotOk c m.ampServ m.phServ
      if k.kind = .suspect ∨ (s.afeCh c).suspect then
        let s := s.modAfeCh c (fun x => { x with served := true })
        if spOk then
          let s := (s.swapCores b).modAfeCh c (fun x => { x with suspect := false, inside := 0 })
          ((s.stage 0x0067 0 (b1 c ++ zeros 3)).judgePilots).afterHandover b 1
        else ((s.disagree (coreNo b sp) (coreNo b serv) (coreNo b sp)).blameSpare b).modBank b (fun x => { x with restart := false })
      else if coresAgree m off then (s.swapCores b).afterHandover b 1
      else if !off && spOk && !svOk then
        if k.refdacFail then (s.disagree (coreNo b sp) (coreNo b serv) (coreNo b serv)).blameServing b else
        (((s.disagree (coreNo b sp) (coreNo b serv) (coreNo b serv)).swapCores b).failCore (coreNo b serv)).afterHandover b 1
      else (s.disagree (coreNo b sp) (coreNo b serv) (coreNo b sp)).blameSpare b
  | _, _ => s

/-- Limits of one core calibration (R45): offset 0.2 % FS, gain 1.0 %, residuals 0.005 % FS, noise 4 LSB rms. -/
def calPasses (c : CalIn) : Bool :=
  decide (c.offset.natAbs * 500 ≤ 2 ^ 20) && decide (c.gainPpm.natAbs ≤ 10000) && decide (c.corr.length = 5 ∧ c.residuals.length = 5) && c.residuals.all (fun r => decide (absR r ≤ 50)) && decide (c.noise ≤ 4)

/-- Result of a calibration of a core (R45, R48): coefficients are stored only after a pass. -/
def State.calResult (s : State) (c : Nat) (m : CalIn) : State :=
  if calPasses m then
    (s.modCore c (fun x => { x with offset := m.offset, gainErr := m.gainPpm, corr := m.corr, calCount := satInc 65535 x.calCount })).setFails c 0
  else (s.stage 0x0061 1 (b1 c ++ zeros 3)).failCore c

/-- The step after a calibration: at continuous pace it starts at once (R42, R46), unless a suspect channel waits (R51). -/
def State.nextStep (s : State) (b : Nat) : State :=
  let k := s.bank b
  let ch := if k.restart then k.rotCh else (k.rotCh + 1) % 8
  let full := decide (9 ≤ k.steps)
  let s := s.modBank b (fun x => { x with
    rotCh := ch, phase := .waiting, kind := .rotation, restart := false, resume := false,
    steps := if full then 0 else x.steps, rotations := if full then (x.rotations + 1) % 256 else x.rotations })
  if bitAt (s.bankCtl b) 5 ∨ (s.suspectCh b).isSome then s else s.rotationStart b

/-- A power fail during a calibration: its coefficients are not written (R60). -/
def State.voidCal (s : State) : State :=
  { s with afe := { s.afe with banks := s.afe.banks.map (fun x => if x.phase = .calibrate then { x with void := true } else x) } }

/-- CORE_CALIBRATION_END (R42, R45, R48); one that a power fail met writes nothing (R60). -/
def State.calibrationEnd (s : State) (b : Nat) (m : CalIn) : State :=
  match (s.bank b).phase, (s.bank b).spare with
  | .calibrate, some sp =>
    let s := if (s.bank b).void then s.modBank b (fun x => { x with void := false }) else s.calResult (coreNo b sp) m
    if !s.coreGood (coreNo b sp) then s.bankNoSpare b
    else (s.setRole (coreNo b sp) .idle).nextStep b
  | _, _ => s

/-- CORE_HARD_FAULT (R49, R50, R60). -/
def State.hardFault (s : State) (c : Nat) : State :=
  if s.coreGood c then ((s.stage 0x0063 2 (b1 c ++ zeros 3)).mapOutCore c).coreLost c else s

/-- A change on a channel's path abandons the comparison on it, unless its handover is due at this tick (R79); the step restarts once the invalid outputs have passed (R60). -/
def State.abandonCompare (s : State) (c : Nat) : State :=
  s.modBank (c / 8) (fun x => if x.phase = .compare ∧ x.rotCh = c % 8 ∧ x.handoverDue = false then { x with restart := true } else x)

/-- A filter change abandons every comparison (R60). -/
def State.abandonAll (s : State) : State :=
  let f := fun x : Bank => if x.phase = .compare ∧ x.handoverDue = false then { x with restart := true } else x
  (s.modBank 0 f).modBank 1 f

/-- A reference DAC check point passes within ±2.5 mV (R90). -/
def refdacOk (err : Rat) : Bool := decide (absR err ≤ 5 / 2)

/-- REFDAC_CHECK (R52, R60, R90): a failed check ends the calibration, parks the spare and stops the rotation; a comparison completes first. A bank that waited between paced steps has no step interrupted, and keeps its next channel (DESIGN CHOICE, log entry 134). -/
def State.refdacCheck (s : State) (b : Nat) (err : Rat) : State :=
  let k := s.bank b
  if refdacOk err ∨ k.refdacFail then s
  else
    let s := s.modBank b (fun x => { x with refdacFail := true })
    let s :=
      match k.phase, k.spare with
      | .compare, _ => s
      | .waiting, some sp => (s.setRole (coreNo b sp) .parked).modBank b (fun x => { x with phase := .stopped, restart := true })
      | _, some sp => (s.setRole (coreNo b sp) .parked).modBank b (fun x => { x with phase := .stopped, restart := false })
      | _, none => s
    s.stage 0x0069 2 (b1 b ++ zeros 3)

/-- REFDAC_RECHECK (R52, R90): a held bank's five points all pass. -/
def State.refdacRecheck (s : State) (b : Nat) (errs : List Rat) : State :=
  if (s.bank b).refdacFail && decide (errs.length = 5) && errs.all refdacOk then s.modBank b (fun x => { x with refdacFail := false, resume := true }) else s

/-- REFDAC_RESUME (R52): the parked core is calibrated in full, and the rotation resumes. -/
def State.refdacResume (s : State) (b : Nat) : State :=
  match (s.bank b).resume, (s.bank b).phase, (s.bank b).spare with
  | true, .stopped, some sp => (s.setRole (coreNo b sp) .calibrating).modBank b (fun x => { x with phase := .calibrate, resume := false })
  | _, _, _ => s

/-- GAIN_BOUNDARY (R58, R74, R75, R79): the gain takes effect with 4 converter samples blanked; a channel under foreground calibration holds it. -/
def State.gainBoundary (s : State) (c : Nat) : State :=
  match (s.afeCh c).gainPend with
  | none => s
  | some g =>
    if (s.afeCh c).cal then s
    else
      let s := s.modAfeCh c (fun x => { x with gain := g, gainPend := none })
      (((s.restartCorr c).abandonCompare c).spoil c 4)

/-- FILTER_APPLIED with the old and the new settings (R78, R80). -/
def State.filterApplied (s : State) (o f : FltSet) : State :=
  s.stage 0x0070 0 (b2 o.l1 ++ b2 o.d1 ++ b2 o.l2 ++ b2 o.d2 ++ b2 f.l1 ++ b2 f.d1 ++ b2 f.l2 ++ b2 f.d2)

/-- FILTER_BOUNDARY (R58, R74-R78): the waiting set takes effect, and cfg_result reads applied, whatever a later refused write has put there (DESIGN CHOICE, log entry 140). -/
def State.filterBoundary (s : State) : State :=
  match s.flt.pend with
  | none => s
  | some f =>
    let o := s.flt.eff
    let s := { s with flt := { s.flt with eff := f, pend := none, result := 2 } }
    let s := ((s.spoilAll 0).abandonAll).retunePilots
    s.filterApplied o f

/-- A channel under foreground calibration is reconnected, as a routing change (R61, R79). -/
def State.reconnect (s : State) (c : Nat) : State :=
  if (s.afeCh c).cal then
    ((s.modAfeCh c (fun x => { x with cal := false, gain := x.gainPend.getD x.gain, gainPend := none, fresh := true })).abandonCompare c).spoil c 6
  else s

/-- Every channel that foreground calibration holds is reconnected (R61). -/
def State.reconnectAll (s : State) : State := (List.range 16).foldl State.reconnect s

/-- Steps of the foreground calibration of a bank: four gains of eight channels, then nine cores (R61). -/
def calSteps : Nat := 41

/-- Step n of the foreground calibration of a bank (R61): a channel is disconnected at its first gain, its PGA's coefficients and its baseline are taken at each gain, and it is reconnected after the last; then each good core is calibrated. -/
def State.foreground (s : State) (b n : Nat) (j : JobIn) : State :=
  if n < 32 then
    let c := 8 * b + n / 4
    let s := s.modAfeCh c (fun x => { x with
      cal := true, base := x.base.set (n % 4) (some (j.amp, j.ph)), pga := x.pga.set (n % 4) (some (j.pgaOffset, j.pgaGain)) })
    if n % 4 = 3 then s.reconnect c else s
  else
    let c := coreNo b (n - 32)
    if s.coreGood c then
      let s := s.calResult c j.cal
      if s.coreGood c then s else s.coreLost c
    else s

/-! ### Register views -/

/-- Role codes of AFE_CORE_INFO. -/
def roleCode : CoreRole → Nat
  | .inService => 0
  | .idle => 1
  | .comparing => 2
  | .calibrating => 3
  | .parked => 4
  | .mappedOut => 5

def phaseCode : StepPhase → Nat
  | .compare => 0
  | .calibrate => 1
  | .waiting => 2
  | .stopped => 3

/-- AFE_BANK_STAT. -/
def State.bankStat (s : State) (b : Nat) : Word :=
  let k := s.bank b
  let restarting := decide (k.pilot = 0) && (bankChs b).any (fun c => (s.afeCh c).fresh)
  pack [(0, 4, k.spare.getD 15), (4, 3, k.rotCh), (7, 1, b2n k.noSpare), (8, 2, phaseCode k.phase), (10, 4, k.kEff),
    (14, 2, if restarting then 3 else k.pilot), (16, 4, countIf (List.range 9) (fun i => !s.coreGood (coreNo b i))), (20, 1, b2n k.refdacFail), (24, 8, k.rotations)]

/-- AFE_MAP. -/
def State.bankMap (s : State) (b : Nat) : Word := pack ((List.range 8).map (fun i => (4 * i, 4, ((s.bank b).map.getD i none).getD 15)))

/-- AFE_CH_STAT. -/
def State.chStat (s : State) : Word :=
  pack [(0, 16, maskOf (s.afe.ch.map (fun c => c.suspect))), (16, 16, maskOf ((List.range 16).map (fun c => (s.coreOf c).isNone)))]

/-- AFE_CORE_INFO, AFE_CORE_CAL and AFE_PILOT_MEAS of the selected core or channel. -/
def State.coreInfo (s : State) : Word :=
  let c := bitsOf (s.reg 0x1460) 4 0
  pack [(0, 3, roleCode (s.core c).role), (4, 2, s.coreFails c), (16, 16, (s.core c).calCount)]

def State.coreCal (s : State) : Word :=
  let c := s.core (bitsOf (s.reg 0x1460) 4 0)
  pack [(0, 16, toTwos 16 c.offset), (16, 16, toTwos 16 c.gainErr)]

def State.pilotMeas (s : State) : Word :=
  let n := bitsOf (s.reg 0x1470) 3 0
  let c := s.afeCh n
  if (s.bank (n / 8)).kEff = 0 ∨ c.fresh then 0 else pack [(0, 16, toTwos 16 c.ampDev), (16, 16, toTwos 16 c.phDev)]

end Sys2Proof.Machine
end

