-- ==== Sys2Proof/Machine/AuxConv.lean ====
section
/-! DEFINITION. The auxiliary converter: sequencer, injected groups, calibration and reference checks (R81-R94). -/

namespace Sys2Proof.Machine

/-- The auxiliary converter changed. -/
def State.modAux (s : State) (f : Aux → Aux) : State := { s with aux := f s.aux }

/-- Result of an entry. -/
def State.auxRes (s : State) (n : Nat) : AuxRes := nth s.aux.res n

/-- Conversions that an entry makes (R83). -/
def State.auxConvs (s : State) (n : Nat) : Nat :=
  if n < 24 then 16 else 4 ^ bitsOf (s.reg (0x1C40 + 4 * (n - 24))) 6 5

/-- An entry is in the sequence: fixed entries always, user entries while enabled (R83). -/
def State.auxEnabled (s : State) (n : Nat) : Bool := decide (n < 24) || bitAt (s.reg (0x1C40 + 4 * (n - 24))) 7

/-- The entry after one (R83), and whether the pass ends. -/
def State.auxNext (s : State) (n : Nat) : Nat × Bool :=
  match (List.range 32).find? (fun i => decide (n < i) && s.auxEnabled i) with
  | some i => (i, false)
  | none => (0, true)

/-! ### Inputs, scaling and codes (R81, R82) -/

/-- The scaled voltage in V that an input's quantity gives (R82): volts at a pad, feed, rail, reference, tap or detector, °C at a temperature. -/
def auxScale (input : Nat) (q : Rat) : Rat :=
  if input < 8 then q
  else if input < 10 then q / 20
  else if input = 10 then q / 10
  else if input = 11 ∨ input = 19 then q / 2
  else if input = 15 ∨ input = 16 then q * 2 / 5
  else if 20 ≤ input ∧ input < 23 then (q + 64) * 5 / 512
  else if input = 24 ∨ input = 25 then q / 2
  else if input = 26 ∨ input = 27 then (q + 12 / 5) / 2
  else if input = 28 ∨ input = 29 then q * 100
  else if input = 30 then 0
  else q

/-- The code of a scaled voltage (R81), with the offset and gain that calibration found taken out (log entry 142). -/
def State.auxCode (s : State) (vs : Rat) : Nat :=
  min 65535 (roundAway ((vs * 131072 / 5 - (s.aux.offset : Rat)) * 1000000 / (1000000 + (s.aux.gainPpm : Rat)))).toNat

/-- The input that an entry measures (R82, AUX_ENTRY_n). -/
def State.auxInput (s : State) (n : Nat) : Nat := if n < 24 then n + 8 else bitsOf (s.reg (0x1C40 + 4 * (n - 24))) 4 0

/-- The code of one conversion of an input's quantity. -/
def State.auxConv (s : State) (input : Nat) (q : Rat) : Nat := s.auxCode (auxScale input q)

/-- Mean of conversions, rounded half up (R83). -/
def auxMean (l : List Nat) : Nat := divRound l.sum l.length

/-- The result of an entry judged against its limits (R83): AUX_LIMIT once when it leaves the window, again only after it has been back inside for a whole pass: two results inside in a row (log entry 145). -/
def auxJudge (r : AuxRes) (code low high : Nat) : AuxRes × Bool :=
  let lo := decide (code < low)
  let hi := decide (high < code)
  if lo || hi then
    ({ r with code := code, valid := true, age := 0, inside := 0, outLow := lo, outHigh := hi, armed := false }, r.armed)
  else
    ({ r with code := code, valid := true, age := 0, inside := r.inside + 1, outLow := false, outHigh := false, armed := r.armed || decide (2 ≤ r.inside + 1) }, false)

/-- A reference check: the matching bit follows, and a failed check stages AUX_REF_FAIL (R90). -/
def State.refJudge (s : State) (ok : Bool) (set : Aux → Bool → Aux) : State :=
  let s := s.modAux (fun a => set a (!ok))
  if ok then s else s.stage 0x0084 2 []

/-- Two codes stand in the ratio a : b within a part of 1,000 (R90). -/
def ratioOk (x y a b mille : Nat) : Bool := decide ((((x * b : Nat) : Int) - ((y * a : Nat) : Int)).natAbs * 1000 ≤ mille * (y * a))

/-- The checks of R90 that an entry's result decides: AFE references at entries 16 and 17 against the bandgap, pilot DACs at 20 and 21 while the pilot is on, the bandgap at 23 against input 31 (log entry 15). While a pilot is off its bit keeps the latest check's outcome (log entry 147). -/
def State.auxRefs (s : State) (n code : Nat) : State :=
  let bg := (s.auxRes 15).code
  if n = 16 ∨ n = 17 then s.refJudge (ratioOk code bg 2048 1200 5) (fun a v => { a with afeRef := a.afeRef.set (n - 16) v })
  else if n = 20 ∨ n = 21 then
    if (s.bank (n - 20)).pilot = 0 then
      s.refJudge (decide ((((code * 250 : Nat) : Int) - ((48 * 65536 : Nat) : Int)).natAbs * 100 ≤ 5 * 48 * 65536)) (fun a v => { a with pilotDac := a.pilotDac.set (n - 20) v })
    else s
  else if n = 23 then s.refJudge (ratioOk bg code 1200 2250 3) (fun a v => { a with bandgap := v })
  else s

/-- The sequence goes to the entry that follows one (R83); at the end of a pass results age (R84). -/
def State.auxAdvance (s : State) (n : Nat) : State :=
  let nx := s.auxNext n
  s.modAux (fun a => { a with
    entry := nx.1,
    passes := if nx.2 then (a.passes + 1) % 65536 else a.passes,
    res := if nx.2 then a.res.map (fun r => { r with age := r.age + 1 }) else a.res })

/-- A user entry that is disabled while it is at hand is skipped (R83). -/
def State.auxSeek (s : State) : State := if s.auxEnabled s.aux.entry then s else s.auxAdvance s.aux.entry

/-- The condition of AUX_ENTRY_DONE: the entry at hand, enabled, with all its conversions; no group runs. -/
def State.auxEntryGo (s : State) (n : Nat) (convs : List Rat) : Bool :=
  decide (n = s.aux.entry) && decide (n < 32) && s.auxEnabled n && decide (convs.length = s.auxConvs n) && !s.aux.injRun && !s.dark

/-- AUX_ENTRY_DONE (R81-R84, R90): the quantity at the entry's input at each conversion. -/
def State.auxEntry (s : State) (n : Nat) (convs : List Rat) : State :=
  let code := auxMean (convs.map (s.auxConv (s.auxInput n)))
  let lim := s.reg (0x1C60 + 4 * n)
  let j := auxJudge (s.auxRes n) code (bitsOf lim 15 0) (bitsOf lim 31 16)
  let s := s.modAux (fun a => { a with res := a.res.set n j.1 })
  let s := if j.2 then s.stage 0x0080 1 [] else s
  (s.auxRefs n code).auxAdvance n

/-- Scaled voltage of a code in V (R81). -/
def auxVolts (code : Nat) : Rat := (code : Rat) * 5 / 131072

/-- Module analogue net n: an auxiliary result, valid only when net_pub is set and no older than two passes, counted by the pass ends after it (R84, R215; log entry 148). -/
def State.auxNet (s : State) (n : Nat) : ANet :=
  let r := s.auxRes n
  let pub := decide (24 ≤ n) && bitAt (s.reg (0x1C40 + 4 * (n - 24))) 8
  { v := auxVolts r.code, q := if pub && r.valid && decide (r.age ≤ 2) then 0x80 else 0 }

/-- Module analogue net 32 + m: an injected slot's result as the engines read it (R86). -/
def State.injNet (s : State) (m : Nat) : ANet :=
  match s.aux.injNets.getD m none with
  | some c => { v := auxVolts c, q := 0x80 }
  | none => {}

/-- At a tick the engines come to read the latest group completed at least 2 µs before (R86). -/
def State.injLatch (s : State) : State :=
  match s.aux.injLog.find? (fun g => decide (g.1 + 2 ≤ s.pwr.ot)) with
  | some g => s.modAux (fun a => { a with injNets := g.2 })
  | none => s

/-- µs of one conversion (R81, R91). -/
def State.convUs (s : State) : Nat := if bitAt (s.reg 0x1C00) 0 then 16 else 1

/-- A trigger comes within the conversion in which the pending run's trigger came, from the other source (R87): before the group starts that conversion still runs; later it is judged by OT (log entry 143). -/
def State.injJoins (s : State) (src : Nat) : Bool :=
  decide (s.aux.injSrc ≠ src ∧ s.aux.injSrc ≠ 3) && (!s.aux.injRun || decide (s.pwr.ot < s.aux.injAt + s.convUs))

/-- A trigger of the injected group by its net (source 1) or the host (source 2) (R85, R87): a run is held pending; a trigger that finds one pending is lost, unless it comes within the same conversion from the other source. -/
def State.injTrigger (s : State) (src : Nat) : State :=
  if s.aux.injPend = false then s.modAux (fun a => { a with injPend := true, injSrc := src, injAt := s.pwr.ot })
  else if s.injJoins src then s.modAux (fun a => { a with injSrc := 3 })
  else (s.modAux (fun a => { a with missed := satInc 255 a.missed })).stage 0x0081 1 []

/-- INJECTED_GROUP_START (R85). -/
def State.injStart (s : State) : State :=
  if s.aux.injPend ∧ s.aux.injRun = false then s.modAux (fun a => { a with injRun := true, injPend := false }) else s

/-- Slots in the group, ascending (AUX_INJ_CFG en_m). -/
def State.injSlots (s : State) : List Nat := (List.range 4).filter (fun m => bitAt (s.reg 0x1C20) (8 * m + 6))

/-- Conversions of a slot. -/
def State.injConvs (s : State) (m : Nat) : Nat := if bitAt (s.reg 0x1C20) (8 * m + 5) then 4 else 1

/-- The condition of INJECTED_GROUP_DONE: a group runs, and every slot of it has its conversions. -/
def State.injGo (s : State) (convs : List (List Rat)) : Bool :=
  s.aux.injRun && decide (convs.map List.length = s.injSlots.map s.injConvs)

/-- Input of a slot (AUX_INJ_CFG in_m). -/
def State.injInput (s : State) (m : Nat) : Nat := bitsOf (s.reg 0x1C20) (8 * m + 4) (8 * m)

/-- INJECTED_GROUP_DONE (R86): the quantity at each slot's input at each of its conversions. A group without slots leaves no slot's result valid (log entry 146). -/
def State.injDone (s : State) (convs : List (List Rat)) : State :=
  let got := (s.injSlots.zip convs).map (fun p => (p.1, auxMean (p.2.map (s.auxConv (s.injInput p.1)))))
  let res := (List.range 4).map (fun m => (got.find? (fun p => p.1 = m)).map (fun p => p.2))
  s.modAux (fun a => { a with injRun := false, injRes := res, injLog := ((s.pwr.ot, res) :: a.injLog).take 4 })

/-- A calibration begins (R88). -/
def State.auxCalBegin (s : State) : State := s.modAux (fun a => { a with calBusy := true, calStep := 0, calLate := false, calOt := s.pwr.ot })

/-- AUX_CAL_START (R88): cal_int seconds after the latest one started. -/
def State.auxCalStart (s : State) : State :=
  if s.aux.calBusy ∨ s.dark ∨ s.pwr.ot < s.aux.calOt + bitsOf (s.reg 0x1C00) 15 8 * 1000000 then s else s.auxCalBegin

/-- AUX_CAL_STEP_DONE (R88, R89): the last step commits offset and gain, or keeps the old ones and stages AUX_CAL_FAIL; the calibration then goes on trying from its first step (log entry 144). A group that runs or waits goes first. -/
def State.auxCalStep (s : State) (offset gainPpm : Int) : State :=
  if s.aux.calBusy = false ∨ s.aux.injRun ∨ s.aux.injPend then s
  else if s.aux.calStep < 3 then s.modAux (fun a => { a with calStep := a.calStep + 1 })
  else if offset.natAbs ≤ 64 ∧ gainPpm.natAbs ≤ 10000 then
    s.modAux (fun a => { a with calBusy := false, calStep := 0, calLate := false, offset := offset, gainPpm := gainPpm })
  else (s.modAux (fun a => { a with calStep := 0 })).stage 0x0082 1 []

/-- AUX_CAL_LATE (R89): staged once for a calibration that has not committed within 60 s of its start; it goes on trying. -/
def State.auxCalLate (s : State) : State :=
  if s.aux.calBusy ∧ s.aux.calLate = false ∧ s.aux.calOt + 60000000 ≤ s.pwr.ot then (s.modAux (fun a => { a with calLate := true })).stage 0x0083 1 [] else s

/-- AUX_STAT. -/
def State.auxStat (s : State) : Word :=
  let a := s.aux
  let rd := (s.bank 0).refdacFail || (s.bank 1).refdacFail
  pack [(0, 2, a.calStep), (2, 1, b2n a.calBusy), (3, 1, b2n (a.injRun || a.injPend)),
    (4, 4, maskOf [a.afeRef.any id, a.pilotDac.any id, a.bandgap, rd]), (8, 8, a.missed), (16, 16, a.passes)]

/-- AUX_RESULT_n. -/
def State.auxResult (s : State) (n : Nat) : Word :=
  let r := s.auxRes n
  pack [(0, 16, r.code), (16, 1, b2n r.valid), (17, 1, b2n r.outLow), (18, 1, b2n r.outHigh)]

/-- AUX_INJ_RESULT_m. -/
def State.injResult (s : State) (m : Nat) : Word :=
  match s.aux.injRes.getD m none with
  | some c => pack [(0, 16, c), (16, 1, 1)]
  | none => 0

end Sys2Proof.Machine
end

