-- ==== Sys2Proof/Machine/OpPoint.lean ====
section
/-! DEFINITION. The operating-point sequencer (R17, R424-R426). -/

namespace Sys2Proof.Machine

/-- Every engine is in clock-gated sleep (R17). -/
def State.asleep (s : State) : Bool := s.pe.att.all (fun a => decide (a.st ≠ .running ∧ a.st ≠ .reexec))

/-- CLK_OP pin. -/
def State.opPin (s : State) : Nat := bitsOf (s.reg 0x0810) 1 0

/-- The rail starts towards 0.90 V (R424); a raise during a downward ramp reverses it. -/
def State.railUp (s : State) : State :=
  if s.clk.railHigh then s
  else { s with clk := { s.clk with railHigh := true, ramping := true, settled := false, raises := satInc 65535 s.clk.raises } }

/-- A raise is requested (R425); a pinned OP-LOW stands (R426), and a power fail ignores requests (R438). -/
def State.raiseOp (s : State) : State :=
  let s := { s with clk := { s.clk with lastRaise := s.pwr.ot } }
  if s.opPin = 1 ∨ s.pwr.pf ≠ .none then s else s.railUp

/-- RAIL_SETTLED (R424). -/
def State.railSettled (s : State) : State :=
  if s.clk.ramping then { s with clk := { s.clk with ramping := false, settled := true } } else s

/-- The engine clock may go to 600 MHz: the rail has settled at 0.90 V, every engine sleeps, and no relock runs (R17, R424, R429). -/
def State.canSpeedUp (s : State) : Bool :=
  s.clk.railHigh && s.clk.settled && !s.clk.op && s.asleep && s.clk.sysLock && decide (s.clk.sysSrc = 0)

/-- ENGINE_FREQUENCY_CHANGE (R17, R424). -/
def State.freqChange (s : State) : State := if s.canSpeedUp then { s with clk := { s.clk with op := true } } else s

/-- No start or operate net is 1 and no comparator is asserted (R425). -/
def State.quiet (s : State) : Bool := s.pe.els.all (fun e => !e.started && !e.operate) && s.fst.cmp.all (fun c => !c.asserted)

/-- The engines may return to OP-LOW (R425, R426). -/
def State.canLower (s : State) : Bool :=
  s.clk.railHigh && s.asleep && decide (s.opPin ≠ 2) &&
    (decide (s.opPin = 1) || (s.quiet && s.ldg.ring.isEmpty && decide (s.clk.lastRaise + 2000000 ≤ s.pwr.ot)))

/-- OP_LOWER (R424, R425): first the clock, then the rail. -/
def State.opLower (s : State) : State :=
  if s.canLower then { s with clk := { s.clk with op := false, railHigh := false, ramping := true, settled := false } } else s

/-- A write of CLK_OP pin (R426): 3 is refused. -/
def State.opPinned (s : State) : State := if s.opPin = 2 then s.railUp else s

end Sys2Proof.Machine
end

