-- ==== Sys2Proof/Machine/FastPath.lean ====
section
/-! DEFINITION. The fast path and express intertrips (R187-R208). -/

namespace Sys2Proof.Machine

/-! ### Accessors -/

def State.cmp (s : State) (c : Nat) : CmpSt := nth s.fst.cmp c

def State.modFst (s : State) (f : Fast → Fast) : State := { s with fst := f s.fst }

def State.modCmp (s : State) (c : Nat) (f : CmpSt → CmpSt) : State := s.modFst (fun x => { x with cmp := modNth x.cmp c f })

/-- FST_CMP_CFG, FST_CMP_THR and FST_CMP_HOLD of a comparator, in effect. -/
def State.cmpCfg (s : State) (c : Nat) : Word := s.reg (bankKey 0x2804 c)

def State.cmpThr (s : State) (c : Nat) : Nat := bitsOf (s.reg (bankKey 0x2808 c)) 16 0

def State.cmpHold (s : State) (c : Nat) : Nat := bitsOf (s.reg (bankKey 0x280C c)) 15 0

def State.arcWin (s : State) (c : Nat) : Nat := bitsOf (s.reg (bankKey 0x280C c)) 25 16

/-- Fields of FST_CMP_CFG. -/
def cfgMode (w : Word) : Nat := bitsOf w 1 0
def cfgEn (w : Word) : Bool := bitAt w 2
def cfgN (w : Word) : Nat := bitsOf w 7 3 + 1
def cfgCh (w : Word) : Nat := bitsOf w 11 8
def cfgSense (w : Word) : Nat := bitsOf w 13 12
def cfgLight (w : Word) : Nat := bitsOf w 15 14
def cfgCur (w : Word) : Nat := bitsOf w 21 16
def cfgLd (w : Word) : Nat := bitsOf w 24 22 + 1

/-- Gain factor of a gain code (R36). -/
def gainOf (code : Nat) : Nat := 2 ^ code

/-- thr · G as compared (R188). -/
def State.thrG (s : State) (c : Nat) : Nat := min 131071 (s.cmpThr c * gainOf (s.afeCh (cfgCh (s.cmpCfg c))).gain)

/-- An input is valid (R249). -/
def State.diValid (s : State) (n : Nat) : Bool := (nth s.fio.di n).accepted && !nth s.fio.failed n && decide (s.fio.state ≠ 2)

/-- DI12-DI15 in fast mode (R250). -/
def State.diFast (s : State) (n : Nat) : Bool := bitAt (s.reg (0x2C40 + 4 * n)) 8

/-! ### Qualification (R193, R194) -/

/-- Reason for which a comparator of mode 0, 1 or 2 is unqualified; the code is the latest one judged (R193). -/
def State.plainReason (s : State) (c : Nat) : Nat :=
  let w := s.word (cfgCh (s.cmpCfg c))
  if bitAt w 7 = false then 1
  else if bitAt w 4 then 2
  else if (s.cmp c).codeBad && decide ((s.cmp c).ch = cfgCh (s.cmpCfg c)) then 3
  else if ¬(s.clk.sysLock ∧ s.clk.sysSrc = 0) then 4
  else if (s.cmp c).disarmed then 5
  else 0

/-- Reason for which a comparator is unqualified; an arc comparator by its current comparator and its light input. -/
def State.cmpReason (s : State) (c : Nat) : Nat :=
  let w := s.cmpCfg c
  if cfgMode w = 3 then
    let r := s.plainReason (cfgCur w)
    if r ≠ 0 then r
    else if s.diValid (12 + cfgLight w) && s.diFast (12 + cfgLight w) then 0 else 6
  else s.plainReason c

/-- OT of the deciding sample that a record carries; of the event itself where no sample decides (R207). -/
def State.decidedAt (s : State) : Nat := s.fst.decOt.getD s.pwr.ot

/-- A comparator's qualification set: an unqualified one does not count, and the first loss after a qualified spell stages FAST_DISQUALIFIED (R194, R207). -/
def State.qualify (s : State) (c reason : Nat) : State :=
  let o := s.cmp c
  let q := decide (reason = 0)
  let s := s.modCmp c (fun x => { x with qualified := q, reason := reason, count := if q then x.count else 0 })
  if o.qualified && !q then s.stageTick 0x00B1 1 (b1 c ++ b1 reason ++ zeros 2 ++ b8 s.decidedAt) else s

/-! ### Voting and routes (R196, R197, R199) -/

/-- Comparators that a vote unit names. -/
def voteMembers (w : Word) : List Nat := (List.range 4).filterMap (fun m => if bitAt w (8 * m + 6) then some (bitsOf w (8 * m + 5) (8 * m)) else none)

/-- A vote unit asserts while at least two of its comparators are asserted; an unqualified one counts as not asserted (R196). -/
def State.vote (s : State) (v : Nat) : Bool :=
  decide (2 ≤ countIf (voteMembers (s.reg (0x2880 + 4 * v))) (fun c => (s.cmp c).asserted && (s.cmp c).qualified))

/-- A row's source is asserted (R197). -/
def State.rowOn (s : State) (r : Nat) : Bool :=
  let w := s.reg (0x2900 + 4 * r)
  let src := bitsOf w 20 16
  decide (bitsOf w 15 0 ≠ 0) && (if src = 0 then (s.cmp r).asserted else s.vote (src - 1))

/-- A receive route's code is asserted (R200). -/
def State.xrxOn (s : State) (m : Nat) : Bool :=
  let w := s.reg (0x2A00 + 4 * m)
  let a := bitsOf w 5 0
  decide (a ≠ 0) && decide (4 * a + bitsOf w 7 6 ∈ s.fst.x)

/-- Value of a scheme binary net as committed. -/
def State.bnet (s : State) (n : Nat) : Bool := (nth s.pe.bnets n).v

/-- An express group is asserted by a row or by its engine net (R199). -/
def State.groupOn (s : State) (g : Nat) : Bool :=
  let w := s.reg (0x2A40 + 4 * g)
  (List.range 64).any (fun r => s.rowOn r && bitAt (s.reg (0x2900 + 4 * r)) (12 + g)) || (bitAt w 12 && s.bnet (bitsOf w 11 0))

/-- An output is hinge-shared. -/
def State.doShared (s : State) (n : Nat) : Bool := bitAt (s.reg (0x2CC0 + 4 * n)) 18

/-- A fast route calls for an output (R16, R197, R200). -/
def State.fastCall (s : State) (n : Nat) : Bool :=
  (List.range 64).any (fun r => s.rowOn r && bitAt (s.reg (0x2900 + 4 * r)) n) ||
  (List.range 16).any (fun m => s.xrxOn m && bitAt (s.reg (0x2A00 + 4 * m)) (8 + n))

/-- The state lets fast routes drive an output on the field side (R197, R25). -/
def State.fastMay (s : State) (n : Nat) : Bool := decide (s.sys.st = .inService) || (decide (s.sys.st = .standby) && s.doShared n)

/-- The state lets fast routes drive an output, simulated ones in TEST among them. -/
def State.fastDrives (s : State) (mask : Nat) : Bool := (List.range 12).any (fun n => mask.testBit n && (s.fastMay n || decide (s.sys.st = .test)))

/-- A group may be sent (R199). -/
def State.groupMay (s : State) (g : Nat) : Bool :=
  decide (s.sys.st = .inService) || (decide (s.sys.st = .standby) && bitAt (s.reg (0x2A40 + 4 * g)) 13)

/-! ### Express sending (R199, R345, R347) -/

/-- Room for one more pair in the running cycle on an UP port. -/
def portRoom (p : ChnPort) : Bool := decide (p.st = .up) && decide (p.pairs < 16)

/-- Insert the pair of a code on the ports named; a pair held for want of room is counted, and a repeat held in two cycles stages EXPRESS_CONGESTED (R347). -/
def State.insertPair (s : State) (on : List Nat) (code : Nat) (again : Bool) : State :=
  let up := countIf on (fun i => (nth s.chn.ports i).st = .up)
  let room := countIf on (fun i => portRoom (nth s.chn.ports i))
  let ports := on.foldl (fun l i => modNth l i (fun p => if portRoom p then { p with pairs := p.pairs + 1 } else p)) s.chn.ports
  let peak := ports.foldl (fun a p => a.max p.pairs) s.chn.peak
  let twice := again && decide (room < up) && decide (code ∈ s.chn.heldCodes)
  let s := { s with chn := { s.chn with
    ports := ports, peak := peak.min 16, held := satAdd 65535 s.chn.held (up - room),
    sent := if 0 < room then s.chn.sent ++ [code] else s.chn.sent,
    heldCodes := if room < up then code :: s.chn.heldCodes.filter (fun x => x ≠ code) else s.chn.heldCodes.filter (fun x => x ≠ code) } }
  if twice then s.stage 0x010B 1 (b1 code) else s

/-- A unit with address 0 sends nothing and says so once per boot; otherwise the pair of each group goes out (R199). -/
def State.sendGroup (s : State) (on : List Nat) (g : Nat) (again : Bool) : State :=
  if s.chn.addr = 0 then
    if s.fst.noAddr then s else (s.modFst (fun x => { x with noAddr := true })).stageTick 0x00B4 1 (b8 s.decidedAt)
  else s.insertPair on (4 * s.chn.addr + g) again

/-- Groups that are asserted and allowed; each that newly is so is sent at the next symbol boundary (R199). -/
def State.sendGroups (s : State) : State :=
  let old := s.fst.sending
  let now := (List.range 4).map (fun g => s.groupOn g && s.groupMay g)
  let s := s.modFst (fun x => { x with sending := now, groups := (List.range 4).map s.groupOn })
  (List.range 4).foldl (fun s g => if nth now g && !nth old g then s.sendGroup [0, 1] g false else s) s

/-- EXPRESS_REPEAT in each chain cycle that begins at the ports named (R199). -/
def State.repeatGroups (s : State) (on : List Nat) : State := (List.range 4).foldl (fun s g => if nth s.fst.sending g then s.sendGroup on g true else s) s

/-! ### Evaluation after any change -/

/-- FAST_OPERATE: TRIP when the row drives an output, otherwise INFO (R207). -/
def State.fastOperate (s : State) (kind ix mask : Nat) : State :=
  s.stageTick 0x00B0 (if s.fastDrives mask then 3 else 0) (b1 ix ++ b1 kind ++ zeros 2 ++ b8 s.decidedAt)

/-- Rows, receive routes, votes and groups after a change; what newly asserts is recorded and sent (R197, R199, R207). -/
def State.fastSettle (s : State) : State :=
  let rows := (List.range 64).map s.rowOn
  let xrx := (List.range 16).map s.xrxOn
  let o := s.fst
  let s := s.modFst (fun x => { x with rows := rows, xrx := xrx, seenV := (List.range 16).map (fun v => nth x.seenV v || s.vote v) })
  let s := (List.range 64).foldl (fun s r => if nth rows r && !nth o.rows r then s.fastOperate 0 r (bitsOf (s.reg (0x2900 + 4 * r)) 11 0) else s) s
  let s := (List.range 16).foldl (fun s m => if nth xrx m && !nth o.xrx m then s.fastOperate 1 m (bitsOf (s.reg (0x2A00 + 4 * m)) 19 8) else s) s
  s.sendGroups

/-! ### Comparators (R187-R192) -/

/-- The judged quantity reaches a threshold in the set sense (R189). -/
def senseMet (sense : Nat) (q : Int) (t : Nat) : Bool :=
  match sense with
  | 1 => decide ((t : Int) ≤ q)
  | 2 => decide (q ≤ -(t : Int))
  | _ => decide (t ≤ q.natAbs)

/-- The assert condition at one sample (R188, R189): the newest code, the codes before it, and the threshold. -/
def sampleMet (w : Word) (x : Int) (prev : List Int) (t : Nat) : Bool :=
  match cfgMode w with
  | 0 => decide (t ≤ x.natAbs) || atLimit x
  | 1 =>
    match prev[0]? with
    | some p => senseMet (cfgSense w) (x - p) t
    | none => false
  | 2 =>
    match prev[cfgLd w - 1]? with
    | some p => senseMet (cfgSense w) (x - p) t
    | none => false
  | _ => false

/-- Consecutive samples that a mode asks for (R189). -/
def needed (w : Word) : Nat := if cfgMode w = 2 then 1 else cfgN w

/-- Size of the difference over Ld samples, from the newest code of a list. -/
def diffOver (l : List Int) (ld : Nat) : Option Rat :=
  match l[0]?, l[ld]? with
  | some a, some b => some ((a - b).natAbs : Rat)
  | _, _ => none

/-- The arrival of R191 in ns on the time counter. Where the two differences are equal, or the earlier one is not known, the formula gives none and it is a free value. -/
def State.arrival (s : State) (c : Nat) (x : Int) (t : Nat) : Rat :=
  let w := s.cmpCfg c
  let p := (s.cmp c).prev
  match diffOver p (cfgLd w), diffOver (x :: p) (cfgLd w) with
  | some d0, some d1 => if d0 = d1 then Config.freeRat s.free else (s.cmp c).prevT + 1000000000 / (Config.fc : Rat) * (((t : Rat) - d0) / (d1 - d0))
  | _, _ => Config.freeRat s.free

/-- A capture (R191): resolved to 0.1 ns, with holdover when time is not locked. -/
def State.capture (s : State) (c : Nat) (x : Int) (t : Nat) : State :=
  let n := (s.arrival c x t * 10).floor.toNat
  let a : Arrival := { sec := n / 10000000000, tenths := n % 10000000000, hold := decide (s.ptp.state ≠ 2) }
  let s := { (s.modCmp c (fun y => { y with arr := some a, fresh := true })) with free := s.free + 1 }
  s.stageTick 0x00B3 0 (b1 c ++ zeros 3 ++ b8 a.sec ++ b4 (a.tenths / 10) ++ b1 (a.tenths % 10) ++ b1 (b2n a.hold) ++ zeros 2 ++ b8 s.decidedAt)

/-- An arc comparator asserts while both inputs count as active; an unqualified one does not newly assert (R192, R194). -/
def State.arcEval (s : State) (c : Nat) : State :=
  let x := s.cmp c
  let on := x.lightWin && x.curWin && (x.asserted || x.qualified) && cfgEn (s.cmpCfg c)
  let s := s.modCmp c (fun y => { y with asserted := on, seen := y.seen || on, ops := if on && !x.asserted then satInc 65535 y.ops else y.ops })
  if on && !x.asserted then s.raiseOp else s

/-- The level of an arc comparator's light input. -/
def State.arcLight (s : State) (a : Nat) : Bool := nth s.fst.lights (cfgLight (s.cmpCfg a))

/-- An arc comparator is judged again: its qualification, what counts as active, and with them its output (R192, R193). -/
def State.arcJudge (s : State) (a : Nat) : State :=
  let keep := decide (s.arcWin a ≠ 0)
  let s := s.qualify a (s.cmpReason a)
  let cur := (s.cmp (cfgCur (s.cmpCfg a))).asserted
  (s.modCmp a (fun y => { y with curWin := cur || (y.curWin && keep), lightWin := s.arcLight a || (y.lightWin && keep) })).arcEval a

/-- Arc comparators that name a current comparator follow its state (R192). -/
def State.arcFollow (s : State) (c : Nat) : State :=
  (List.range 64).foldl (fun s a => if cfgEn (s.cmpCfg a) ∧ cfgMode (s.cmpCfg a) = 3 ∧ cfgCur (s.cmpCfg a) = c then s.arcJudge a else s) s

/-- Every enabled comparator is judged again, arc comparators last; a disabled one is neither qualified nor asserted, and holds no code. -/
def State.fastQual (s : State) : State :=
  let s := (List.range 64).foldl (fun s c =>
    if cfgEn (s.cmpCfg c) = false then
      s.modCmp c (fun x => { x with qualified := false, reason := 0, asserted := false, count := 0, idle := 0, prev := [], codeBad := false, lightWin := false, curWin := false })
    else if cfgMode (s.cmpCfg c) = 3 then s
    else s.qualify c (s.cmpReason c)) s
  ((List.range 64).foldl (fun s a => if cfgEn (s.cmpCfg a) ∧ cfgMode (s.cmpCfg a) = 3 then s.arcJudge a else s) s).fastSettle

/-- One code offered to a comparator of mode 0, 1 or 2 (R187-R194). -/
def State.feedCode (s : State) (c : Nat) (k : CodeIn) : State :=
  let w := s.cmpCfg c
  if cfgEn w = false ∨ cfgMode w = 3 then s
  else
    let was := (s.cmp c).reason
    let s := s.modCmp c (fun x => { x with codeBad := !k.ok || k.blanked, ch := cfgCh w, prev := if x.ch = cfgCh w then x.prev else [] })
    let reason := s.plainReason c
    let s := s.qualify c reason
    let o := s.cmp c
    let t := s.thrG c
    let met := decide (reason = 0) && sampleMet w k.code o.prev t
    let cnt := if met then o.count + 1 else 0
    let rise := !o.asserted && met && decide (needed w ≤ cnt)
    let idle := if o.asserted && !met then o.idle + 1 else 0
    let fall := o.asserted && !met && decide (s.cmpHold c ≤ idle)
    let on := (o.asserted && !fall) || rise
    let s := if rise && decide (cfgMode w = 2) then s.capture c k.code t else s
    let s := s.modCmp c (fun x => { x with
      asserted := on, count := min cnt 32, idle := if on then idle else 0, seen := x.seen || on,
      ops := if rise then satInc 65535 x.ops else x.ops,
      prev := (k.code :: o.prev).take 9, prevT := k.t })
    let s := if rise then s.raiseOp else s
    if rise || fall || decide (was ≠ reason) then s.arcFollow c else s

/-- One code of a channel, judged by every enabled comparator that names the channel; an arc comparator counts as asserted at the code at which it is (R187, R198). -/
def State.feedChannel (s : State) (ch : Nat) (k : CodeIn) : State :=
  let s := s.modFst (fun x => { x with decOt := some k.ot })
  let s := (List.range 64).foldl (fun s c => if cfgCh (s.cmpCfg c) = ch then s.feedCode c k else s) s
  let s := s.modFst (fun x => { x with cmp := (List.range 64).map (fun a =>
    let y := nth x.cmp a
    if cfgMode (s.cmpCfg a) = 3 ∧ cfgCh (s.cmpCfg (cfgCur (s.cmpCfg a))) = ch then { y with seen := y.seen || y.asserted } else y) })
  s.fastSettle.modFst (fun x => { x with decOt := none })

/-- Codes of the channel that a comparator names, in conversion order (R187, log entry 150). -/
def State.feed (s : State) (c : Nat) (codes : List CodeIn) : State :=
  let w := s.cmpCfg c
  if cfgEn w = false ∨ cfgMode w = 3 then s else codes.foldl (fun s k => s.feedChannel (cfgCh w) k) s

/-- What is asserted now counts as asserted in the period, before an arc comparator's inputs change. -/
def State.seenNow (s : State) : State :=
  s.modFst (fun x => { x with
    seenV := (List.range 16).map (fun v => nth x.seenV v || s.vote v),
    cmp := (List.range 64).map (fun a => if cfgMode (s.cmpCfg a) = 3 then { nth x.cmp a with seen := (nth x.cmp a).seen || (nth x.cmp a).asserted } else nth x.cmp a) })

/-- The light input that an arc comparator names takes a level, for every arc comparator that names it (R192, R250). -/
def State.lightLevel (s : State) (c : Nat) (on : Bool) : State :=
  let w := s.cmpCfg c
  if cfgEn w ∧ cfgMode w = 3 then
    let s := s.seenNow.modFst (fun x => { x with lights := x.lights.set (cfgLight w) on })
    ((List.range 64).foldl (fun s a => if cfgEn (s.cmpCfg a) ∧ cfgMode (s.cmpCfg a) = 3 ∧ cfgLight (s.cmpCfg a) = cfgLight w then s.arcJudge a else s) s).fastSettle
  else s

/-- COMPARATOR_ASSERT (R189): codes judged, or the light input's level. -/
def State.cmpAssert (s : State) (c : Nat) (codes : List CodeIn) (light : Bool) : State :=
  if cfgMode (s.cmpCfg c) = 3 then s.lightLevel c light else s.feed c codes

/-- ARC_WINDOW_EXPIRY (R192): arc_win has run out after the light input, or the current comparator, stopped being active. -/
def State.arcExpiry (s : State) (c : Nat) (light : Bool) : State :=
  let w := s.cmpCfg c
  if cfgMode w ≠ 3 then s
  else if light ∧ s.arcLight c = false then ((s.seenNow.modCmp c (fun y => { y with lightWin := false })).arcEval c).fastSettle
  else if light = false ∧ (s.cmp (cfgCur w)).asserted = false then ((s.seenNow.modCmp c (fun y => { y with curWin := false })).arcEval c).fastSettle
  else s

/-! ### Express reception (R200, R346) -/

/-- A symbol of a lane's pair carries a violation; one is K30.7. -/
def laneBad (l : LaneIn) : Bool := decide (l.head = .violation ∨ l.code = .violation)

def laneErr (l : LaneIn) : Bool := decide (l.head = .error ∨ l.code = .error)

/-- A pair is at this position. -/
def lanePair (l : LaneIn) : Bool := decide (l.head = .express)

/-- The data symbol of a pair, 0 when it is none. -/
def laneData (l : LaneIn) : Byte :=
  match l.code with
  | .data b => b
  | _ => 0

/-- One lane's pair passes the first two conditions of R346. -/
def laneGood (l : LaneIn) : Bool := lanePair l && !laneBad l && !laneErr l && decide (4 ≤ (laneData l).toNat)

/-- Both lanes carry a pair free of errors, and their data symbols differ (R346). -/
def lanesDiffer (a b : LaneIn) : Bool := lanePair a && lanePair b && !laneBad a && !laneBad b && !laneErr a && !laneErr b && decide (laneData a ≠ laneData b)

/-- The code of a received pair, when a copy passes its check: position on both lanes unless the other lane carries a violation, and equal data (R346). -/
def expressCode (a b : LaneIn) : Option Nat :=
  if lanesDiffer a b then none
  else if laneGood a && (lanePair b || laneBad b || laneErr b) then some (laneData a).toNat
  else if laneGood b && (lanePair a || laneBad a || laneErr a) then some (laneData b).toNat
  else none

/-- Symbol errors of a pair, for CHN_ERR: a violation on each lane when both good pairs differ, otherwise one per bad lane. -/
def pairErrors (a b : LaneIn) : Nat :=
  if lanesDiffer a b then 2 else countIf [a.head, a.code, b.head, b.code] (fun x => x = .violation)

/-- K30.7 symbols of a pair: they count, and not as the link's own violations (R329). -/
def pairK307 (a b : LaneIn) : Nat := countIf [a.head, a.code, b.head, b.code] (fun x => x = .error)

/-- A symbol as a unit forwards it: K30.7 in place of one that came with a violation (R329). -/
def symForward (x : RxSym) : RxSym := if x = .violation then .error else x

def laneForward (l : LaneIn) : LaneIn := { head := symForward l.head, code := symForward l.code }

/-- A pair carries the unit's own address: by the code that passes, or, where none does, by a data symbol of either lane (R345, log entry 141). -/
def State.ownPair (s : State) (a b : LaneIn) : Bool :=
  match expressCode a b with
  | some k => decide (k / 4 = s.chn.addr)
  | none => [a, b].any (fun l => decide (4 ≤ (laneData l).toNat) && decide ((laneData l).toNat / 4 = s.chn.addr))

/-- Every pair that comes in by one port, whether or not it passes its check, goes out of the other, but for one that carries the unit's own address (R345, R346). -/
def State.relayPair (s : State) (p : Nat) (a b : LaneIn) : State :=
  if s.ownPair a b ∨ (nth s.chn.ports (1 - p)).st ≠ .up then s
  else
    { s with chn := { s.chn with
      ports := modNth s.chn.ports (1 - p) (fun x : ChnPort => { x with pairs := x.pairs + 1, relayed := x.relayed ++ [(laneForward a, laneForward b)] }),
      peak := (s.chn.peak.max ((nth s.chn.ports (1 - p)).pairs + 1)).min 16 } }

/-- What a received pair counts in CHN_ERR of its port (R329, R346). -/
def State.countPair (s : State) (p : Nat) (a b : LaneIn) : State :=
  { s with chn := { s.chn with ports := modNth s.chn.ports p (fun x => { x with
    violations := satAdd 65535 x.violations (pairErrors a b), k307 := satAdd 255 x.k307 (pairK307 a b) }) } }

/-- A copy of a code starts its timeout anew (R200, R206). -/
def State.copyCame (s : State) (code : Nat) : State :=
  s.modFst (fun x => { x with x := if code ∈ x.x then x.x else code :: x.x, xAge := insertKey x.xAge code (0, s.pwr.ot) })

/-- A chain cycle begins for every asserted code (R200). -/
def State.ageCodes (s : State) : State := s.modFst (fun x => { x with xAge := x.xAge.map (fun e => (e.1, e.2.1 + 1, e.2.2)) })

/-- No copy of a code has come for 3 chain cycles, each of 13.02 µs (R200). -/
def State.codeStale (s : State) (code : Nat) : Bool :=
  match s.fst.xAge.find? (fun e => e.1 = code) with
  | some e => decide (3 ≤ e.2.1 ∨ e.2.2 + 39 < s.pwr.ot)
  | none => true

/-- EXPRESS_RECEIVED (R200, R345, R346): a passing copy sets its code, and every pair is forwarded but the unit's own. -/
def State.expressIn (s : State) (p : Nat) (a b : LaneIn) : State :=
  if (nth s.chn.ports p).st ≠ .up then s
  else
    let s := (s.countPair p a b).relayPair p a b
    match expressCode a b with
    | none => s
    | some code =>
      if code / 4 = s.chn.addr then s
      else
        let fresh := decide (code ∉ s.fst.x)
        let mask := (List.range 16).foldl (fun m i =>
          let w := s.reg (0x2A00 + 4 * i)
          if bitsOf w 5 0 ≠ 0 ∧ 4 * bitsOf w 5 0 + bitsOf w 7 6 = code then m ||| bitsOf w 19 8 else m) 0
        let s := s.copyCame code
        let s := if fresh ∧ mask = 0 then s.fastOperate 2 code 0 else s
        s.fastSettle

/-- EXPRESS_CODE_TIMEOUT (R200). -/
def State.expressTimeout (s : State) (code : Nat) : State :=
  if s.codeStale code then (s.modFst (fun x => { x with x := x.x.filter (fun y => y ≠ code), xAge := x.xAge.filter (fun e => e.1 ≠ code) })).fastSettle else s

/-- At each tick the engines read what was asserted in the period, and the arrivals (R191, R198). -/
def State.fastLatch (s : State) : State :=
  s.modFst (fun x => { x with
    netC := x.cmp.map (fun c => c.seen || c.asserted), netV := (List.range 16).map (fun v => nth x.seenV v || s.vote v), netX := x.x,
    seenV := List.replicate 16 false,
    cmp := x.cmp.map (fun c => { c with seen := false, fresh := false, net := if c.fresh then c.arr else c.net }) })

/-! ### The pilot floor (R195) -/

/-- 262.144 gain-1 codes: the pilot's peak (R53, R195). -/
def pilotPeak : Rat := 262144 / 1000

/-- The floor of a configuration while the bank's pilot is on at k · fc / L1 (R195). -/
def State.floorOf (s : State) (w : Word) : Nat :=
  let k := (s.bank (cfgCh w / 8)).kEff
  if k = 0 then 0
  else
    match cfgMode w with
    | 0 => (4 * pilotPeak).ceil.toNat
    | 1 => (8 * pilotPeak * sinT ((k : Rat) / (2 * (s.flt.eff.l1 : Rat)))).ceil.toNat
    | 2 => (8 * pilotPeak * absR (sinT ((k : Rat) * (cfgLd w : Rat) / (2 * (s.flt.eff.l1 : Rat))))).ceil.toNat
    | _ => 0

/-- At a boundary a comparator below its floor is disarmed, and one at or above it is armed again (R195). -/
def State.fastFloors (s : State) : State :=
  ((List.range 64).foldl (fun s c =>
    let w := s.cmpCfg c
    let low := cfgEn w && decide (s.cmpThr c < s.floorOf w)
    let o := s.cmp c
    let s := s.modCmp c (fun x => { x with disarmed := low })
    if low && !o.disarmed then s.stageTick 0x00B2 1 (b1 c ++ zeros 3 ++ b4 (s.floorOf w) ++ b8 s.pwr.ot) else s) s).fastQual

/-! ### Configuration (R205) -/

/-- A FAST configuration register, and the key under which it stands: comparator registers through FST_SEL. -/
def State.fastKey (s : State) (addr : Nat) : Option Nat :=
  if addr = 0x2804 ∨ addr = 0x2808 ∨ addr = 0x280C then some (bankKey addr (bitsOf (s.reg 0x2800) 5 0))
  else if (0x2880 ≤ addr ∧ addr < 0x28C0) ∨ (0x2900 ≤ addr ∧ addr < 0x2A50) then
    (if addr % 4 = 0 then some addr else none)
  else none

/-- A mask loses none of another's bits. -/
def maskKeeps (old new : Nat) : Bool := decide (old &&& new = old)

/-- The write changes a comparator that is asserted, or takes an output or a group from a row or receive route that asserts it (R205). -/
def State.fastAsserted (s : State) (addr : Nat) (v : Word) : Bool :=
  if addr = 0x2804 ∨ addr = 0x2808 ∨ addr = 0x280C then
    let c := bitsOf (s.reg 0x2800) 5 0
    (s.cmp c).asserted && decide (v ≠ s.reg (bankKey addr c))
  else if 0x2900 ≤ addr ∧ addr < 0x2A00 then
    let o := s.reg addr
    s.rowOn ((addr - 0x2900) / 4) && !maskKeeps (bitsOf o 15 0) (bitsOf v 15 0)
  else if 0x2A00 ≤ addr ∧ addr < 0x2A40 then
    let o := s.reg addr
    s.xrxOn ((addr - 0x2A00) / 4) && !maskKeeps (bitsOf o 19 8) (bitsOf v 19 8)
  else false

/-- A comparator's configuration and threshold as they would be after a write. -/
def State.cmpAfter (s : State) (addr : Nat) (v : Word) : Word × Nat :=
  let c := bitsOf (s.reg 0x2800) 5 0
  (if addr = 0x2804 then v else s.regSeen (bankKey 0x2804 c), if addr = 0x2808 then bitsOf v 16 0 else bitsOf (s.regSeen (bankKey 0x2808 c)) 16 0)

/-- The setting breaks R195. -/
def State.fastBelow (s : State) (addr : Nat) (v : Word) : Bool :=
  if addr = 0x2804 ∨ addr = 0x2808 then
    let p := s.cmpAfter addr v
    cfgEn p.1 && decide (p.2 < s.floorOf p.1)
  else false

/-- A comparator that is enabled, seen by a configuration that names it (log entry 17). -/
def State.cmpPresent (s : State) (c : Nat) : Bool := cfgEn (s.regSeen (bankKey 0x2804 c))

/-- The value is bad: a reserved code, an absent comparator, or fewer than two vote members (R205). -/
def State.fastBad (s : State) (addr : Nat) (v : Word) : Bool :=
  if addr = 0x2804 then
    decide (cfgSense v = 3) ||
      (cfgEn v && decide (cfgMode v = 3) && (!s.cmpPresent (cfgCur v) || decide (cfgMode (s.regSeen (bankKey 0x2804 (cfgCur v))) ≠ 0)))
  else if addr = 0x280C then decide (1000 < bitsOf v 25 16)
  else if 0x2880 ≤ addr ∧ addr < 0x28C0 then
    let m := voteMembers v
    decide (m.length = 1) || m.any (fun c => !s.cmpPresent c)
  else if 0x2900 ≤ addr ∧ addr < 0x2A00 then
    decide (16 < bitsOf v 20 16) || (decide (bitsOf v 20 16 = 0 ∧ bitsOf v 15 0 ≠ 0) && !s.cmpPresent ((addr - 0x2900) / 4))
  else false

/-- The refusal of a FAST write, 0 when it is accepted: 3 asserted, 4 below_floor, 5 bad_value, 6 busy (R205). -/
def State.fastCheck (s : State) (addr : Nat) (v : Word) : Nat :=
  if s.fastAsserted addr v then 3
  else if s.fastBelow addr v then 4
  else if s.fastBad addr v then 5
  else if s.actSpan then 6
  else 0

/-- A write of a FAST configuration register that the keyway allows (R205): whether it was refused. -/
def State.writeFast (s : State) (addr : Nat) (v : Word) : State × Bool :=
  match s.fastKey addr with
  | none => (s, false)
  | some key =>
    let v := v &&& BitVec.ofNat 32 (fastMask addr)
    let r := s.fastCheck addr v
    if r ≠ 0 then ((s.modFst (fun x => { x with result := r })).stageTick 0x00B6 1 (b1 r ++ zeros 3 ++ b8 s.pwr.ot), true)
    else (((s.deferReg key v).store key v).modFst (fun x => { x with result := 1 }), false)

/-! ### Register views -/

/-- FST_CMP_STAT. -/
def State.cmpStat (s : State) : Word :=
  let c := s.cmp (bitsOf (s.reg 0x2800) 5 0)
  pack [(0, 1, b2n c.asserted), (1, 1, b2n c.qualified), (2, 3, c.reason), (16, 16, c.ops)]

/-- The selected comparator's latest arrival. -/
def State.selArrival (s : State) : Arrival := ((s.cmp (bitsOf (s.reg 0x2800) 5 0)).arr).getD { sec := 0, tenths := 0, hold := false }

/-- FST_TW_Q. -/
def State.twQ (s : State) : Word :=
  let a := s.selArrival
  pack [(0, 4, a.tenths % 10), (4, 1, b2n a.hold), (5, 1, b2n (s.cmp (bitsOf (s.reg 0x2800) 5 0)).fresh)]

/-- FST_STAT. -/
def State.fstStat (s : State) : Word :=
  pack [(0, 1, b2n (decide (s.sys.st = .inService ∨ s.sys.st = .standby))), (1, 1, b2n (decide (s.sys.st = .inService ∨ s.sys.st = .standby))),
    (2, 7, countIf s.fst.cmp (fun c => c.asserted)), (16, 4, s.fst.result)]

/-- FST_XASSERT_w. -/
def State.xassert (s : State) (w : Nat) : Word := BitVec.ofNat 32 (maskOf ((List.range 32).map (fun b => decide (32 * w + b ∈ s.fst.x))))

end Sys2Proof.Machine
end

