-- ==== Sys2Proof/Machine/FieldIO.lean ====
section
/-! DEFINITION. Field inputs and outputs (R16, R92, R244-R263), and references to binary nets (R215). -/

namespace Sys2Proof.Machine

/-! ### Binary net references (R215) -/

/-- Value of a module binary net. -/
def State.modBin (s : State) (n : Nat) : Bool :=
  if n < 64 then nth s.fst.netC n
  else if n < 80 then nth s.fst.netV (n - 64)
  else if n < 336 then decide (n - 80 ∈ s.fst.netX)
  else if n < 352 then (nth s.fio.di (n - 336)).net
  else if n < 354 then nth s.fio.tcsNet (n - 352)
  else if n = 354 then s.trk.lost
  else false

/-- A reference names a binary net. -/
def isBinRef (r : Nat) : Bool := decide (r % 0x8000 < 0x1000 ∨ (0x2000 ≤ r % 0x8000 ∧ r % 0x8000 < 0x3000))

/-- Value of a binary reference; no net reads 0. -/
def State.binRef (s : State) (r : Nat) : Bool :=
  if r = 0xFFFF then false
  else
    let i := r % 0x1000
    let v := if r % 0x4000 < 0x1000 then s.bnet i else s.modBin i
    if 0x8000 ≤ r then !v else v

/-- What the field side reports reaches the part only while its rails are up and its boot logic runs: in DORMANT only the always-on domain runs (R34, R448). -/
def State.whileAlive (s : State) (f : State → State) : State := if s.alive then f s else s

/-! ### Accessors -/

def State.modFio (s : State) (f : Field → Field) : State := { s with fio := f s.fio }

def State.modDi (s : State) (n : Nat) (f : DiSt → DiSt) : State := s.modFio (fun x => { x with di := modNth x.di n f })

def State.modDo (s : State) (n : Nat) (f : DoSt → DoSt) : State := s.modFio (fun x => { x with dos := modNth x.dos n f })

def State.outp (s : State) (n : Nat) : DoSt := nth s.fio.dos n

/-- FIO_DO_CFG_n in effect. -/
def State.doCfg (s : State) (n : Nat) : Word := s.reg (0x2CC0 + 4 * n)

/-- Coupler numbers: DI0-DI15, DO0-DO11, TCS0-TCS1, HEALTH, management. -/
def State.cplFailed (s : State) (k : Nat) : Bool := nth s.fio.failed k

/-! ### What drives an output (R16, R246) -/

/-- The engine command of the latest output update calls for the output (R16, R23, R257). -/
def State.engineCall (s : State) (n : Nat) : Bool := (s.outp n).drv && decide (s.sys.st = .inService) && !(s.outp n).await

/-- The driver of an output is on: a call that nothing withholds, or the hold of R246; never in the off period of a thermal shutdown, without field supply, nor between its recovery and the next output update (R257). -/
def State.outOn (s : State) (n : Nat) : Bool :=
  (((s.engineCall n || (s.fastCall n && s.fastMay n)) && !(s.outp n).cross && !s.cplFailed (16 + n)) || (s.outp n).hold)
    && !(s.outp n).thermal && decide (s.fio.state ≠ 2) && !s.fio.ready

/-- Readback of an output (R252, R258). -/
def State.outReads (s : State) (n : Nat) : Bool := (s.outOn n && !(s.outp n).failOff) || (s.outp n).stuck || (s.outp n).peer

/-- Faults that need the output commanded on end when it is off, and the reverse (R258). -/
def State.followOutputs (s : State) : State :=
  (List.range 12).foldl (fun s n =>
    if s.outOn n then s.modDo n (fun o => { o with peer := false })
    else s.modDo n (fun o => { o with limit := o.limit && o.thermal, failOff := false, openLd := false, overload := false, current := 0 })) s

/-- The hold of R246 starts on every output: each stays in its present state. -/
def State.holdOutputs (s : State) : State :=
  let on := (List.range 12).map s.outOn
  s.modFio (fun x => { x with dos := (List.range 12).map (fun n => { nth x.dos n with hold := nth on n, holding := true, drv := false }) })

/-- OUTPUT_HOLD_EXPIRY (R246). -/
def State.holdExpiry (s : State) (n : Nat) : State := (s.modDo n (fun o => { o with hold := false, holding := false })).followOutputs

/-- A trip-logic instance's trip net drives an output (R160). -/
def State.tripDriven (s : State) (n : Nat) : Bool :=
  let r := bitsOf (s.doCfg n) 15 0
  decide (r ≠ 0xFFFF) && s.sch.cfg.insts.any (fun c => decide (c.kind = 0x11 ∧ c.outs.getD 1 0xFFFF = r % 0x8000))

/-- A trip output, by its flag or because a trip net drives it, or a fast-route output is asserted (R27, R160, R198). -/
def State.tripAsserted (s : State) : Bool :=
  (List.range 12).any (fun n => ((bitAt (s.doCfg n) 16 || s.tripDriven n) && (((s.outp n).cmd && decide (s.sys.st = OpState.inService)) || s.outOn n)) || (s.fastCall n && s.fastMay n))

/-! ### Couplers (R244, R256) -/

/-- COUPLER_FAIL records whose 10 µs have passed are staged (R256). -/
def State.couplerFlush (s : State) : State :=
  let due := s.fio.failPend.filter (fun p => decide (p.2 + 10 < s.pwr.ot))
  if due = [] then s
  else due.foldl (fun s p => s.stage 0x00D5 2 (b1 p.1)) (s.modFio (fun x => { x with failPend := x.failPend.filter (fun p => decide (s.pwr.ot ≤ p.2 + 10)) }))

/-- The field is lost (R255, R256): outputs off, HEALTH open. -/
def State.enterLost (s : State) : State :=
  if s.fio.state = 2 then s
  else
    let s := s.modFio (fun x => { x with
      state := 2, lostCount := satInc 255 x.lostCount, lostTold := false, lows := 0, highs := 0, ready := false,
      dos := x.dos.map (fun o => { o with hold := false, holding := false, limit := false, thermal := false, stuck := false, failOff := false, openLd := false, overload := false, peer := false, current := 0 }) })
    { s with sys := { s.sys with health := false } }.fastQual

/-- The management coupler and at least 16 channel couplers have failed within 10 µs (R256): FIELD_LOST once, instead of their records. -/
def State.judgeLost (s : State) : State :=
  let p := s.fio.failPend
  if p.any (fun e => e.1 = 31) ∧ 16 ≤ countIf p (fun e => e.1 < 31) ∧ (s.fio.state ≠ 2 ∨ s.fio.lostTold = false) then
    let s := s.enterLost
    (s.modFio (fun x => { x with failPend := [], lostTold := true })).stage 0x00D2 2 []
  else s

/-- COUPLER_FAIL (R244, R246, R256). -/
def State.couplerFail (s : State) (k frames : Nat) : State :=
  let s := s.couplerFlush
  if 32 ≤ k ∨ s.cplFailed k ∨ frames < 4 then s
  else
    let on := s.outOn (k - 16)
    let s := if 16 ≤ k ∧ k < 28 then s.modDo (k - 16) (fun o => { o with hold := on, holding := true }) else s
    let s := s.modFio (fun x => { x with
      failed := x.failed.set k true,
      failPend := if x.state = 2 ∧ x.lostTold then x.failPend else x.failPend ++ [(k, s.pwr.ot)] })
    let s := if k = 30 then { s with sys := { s.sys with health := false } } else s
    s.judgeLost.fastQual

/-- COUPLER_OK (R244): restored after 1,000 good frames. -/
def State.couplerOk (s : State) (k frames : Nat) : State :=
  let s := s.couplerFlush
  if 32 ≤ k ∨ s.cplFailed k = false ∨ frames < 1000 then s
  else
    let s := s.modFio (fun x => { x with failed := x.failed.set k false, mgmtUp := x.mgmtUp || decide (k = 31) })
    let s := if 16 ≤ k ∧ k < 28 then s.modDo (k - 16) (fun o => { o with hold := false, holding := false }) else s
    (s.stage 0x00D6 0 (b1 k)).fastQual.followOutputs

/-! ### Inputs (R247-R250) -/

/-- Debounce setting of an input in µs. -/
def State.debounce (s : State) (n : Nat) : Nat := bitsOf (s.reg (0x2C40 + 4 * n)) 31 16

/-- The condition of INPUT_ACCEPTED: the count has reached the debounce setting, with coupler and field in order. -/
def State.inputGo (s : State) (n count : Nat) : Bool :=
  decide (n < 16) && decide (s.debounce n ≤ count) && !s.cplFailed n && decide (s.fio.state ≠ 2)

/-- INPUT_ACCEPTED (R248). -/
def State.inputAccepted (s : State) (n : Nat) (level : Bool) (sec us : Nat) : State :=
  (s.modDi n (fun d => { d with level := level, accepted := true, sec := sec % 2 ^ 32, us := us, edge := level, hold := decide (s.ptp.state ≠ 2) })).fastQual

/-- Inputs restart: a level must be accepted again (R249). -/
def State.restartInput (s : State) (n : Nat) : State := s.modDi n (fun d => { d with accepted := false })

/-- A TCS channel is valid (R260). -/
def State.tcsValid (s : State) (n : Nat) : Bool := s.fio.mgmtUp && !s.cplFailed (28 + n) && !s.cplFailed 31 && decide (s.fio.state ≠ 2)

/-- At a tick the engines take debounced levels and continuity (R248, R260). -/
def State.fieldLatch (s : State) : State :=
  let cont := (List.range 2).map (fun n => if s.tcsValid n then (nth s.fio.tcs n).cont else nth s.fio.tcsNet n)
  s.modFio (fun x => { x with di := x.di.map (fun d => { d with net := d.level }), tcsNet := cont })

/-- A channel with one more reading in µA (R260). -/
def tcsRead (t : TcsSt) (ua : Nat) : TcsSt :=
  { t with current := ua, ups := if 500 ≤ ua then satInc 255 t.ups else 0, downs := if ua < 300 then satInc 255 t.downs else 0 }

/-- TCS_CONTINUITY_CHANGE, after 20 readings that agree (R260). -/
def State.tcsChange (s : State) (n : Nat) (present : Bool) : State :=
  let t := nth s.fio.tcs n
  if s.tcsValid n && decide (n < 2) && bitAt (s.reg (0x2D48 + 4 * n)) 0 && decide (20 ≤ if present then t.ups else t.downs) then s.modFio (fun x => { x with tcs := modNth x.tcs n (fun t => { t with cont := present }) }) else s

/-! ### Field supply (R92, R255, R257) -/

/-- FIELD_SUPPLY_READING (R92, R255): Vf in units of 10 mV, currents in µA. -/
def State.supplyReading (s : State) (vf t0 t1 : Nat) : State :=
  if s.cplFailed 31 then s
  else
    let s := s.modFio (fun x => { x with
      vf := vf, vfRead := true, mgmtUp := true,
      tcs := [tcsRead (nth x.tcs 0) t0, tcsRead (nth x.tcs 1) t1],
      backs := if (x.state = 1 ∧ 1730 < vf) ∨ (x.state = 3 ∧ vf < 2970) then satInc 255 x.backs else 0,
      lows := if vf < 1680 then x.lows + 1 else 0, highs := if 3020 < vf then x.highs + 1 else 0 })
    if s.fio.state ≠ 0 then s
    else if 2 ≤ s.fio.lows then (s.modFio (fun x => { x with state := 1 })).stage 0x00D0 1 []
    else if 2 ≤ s.fio.highs then (s.modFio (fun x => { x with state := 3 })).stage 0x00D4 1 []
    else s

/-- FIELD_SAG_END (R255): 100 readings of 100 µs inside the recovery level. -/
def State.sagEnd (s : State) : State :=
  if (s.fio.state = 1 ∨ s.fio.state = 3) ∧ 100 ≤ s.fio.backs then (s.modFio (fun x => { x with state := 0, lows := 0, highs := 0, backs := 0 })).stage 0x00D1 0 [] else s

/-- FIELD_READY (R257): the configuration is sent again, inputs restart, and outputs wait for the next update. -/
def State.fieldReady (s : State) : State :=
  if s.fio.state ≠ 2 then s
  else
    (s.modFio (fun x => { x with
      state := 0, ready := true, mgmtUp := true, failPend := [],
      failed := if x.lostTold then List.replicate 32 false else x.failed,
      di := x.di.map (fun d => { d with accepted := false }) })).fastQual

/-! ### The output update (R15, R16, R257) -/

/-- One output at an update: its command, whether the state drives it, and the await of R257. -/
def State.latchOutput (s : State) (n : Nat) : DoSt :=
  let o := s.outp n
  let cfg := s.doCfg n
  let v := s.binRef (bitsOf cfg 15 0)
  let o := { o with cmd := v, drv := v && decide (s.sys.st = OpState.inService ∧ s.hng.leaving = none) }
  if s.fio.ready then
    let go := (v && (bitAt cfg 16 || bitAt cfg 17)) || (s.fastCall n && s.fastMay n)
    { o with await := !go, sawZero := !v }
  else if o.await then
    if v then (if o.sawZero then { o with await := false } else o) else { o with sawZero := true }
  else o

/-- HEALTH may be closed: the state, its coupler and the field supply (R23, R255, R259). -/
def State.healthMay (s : State) : Bool :=
  decide (s.sys.st = .inService ∨ s.sys.st = .standby) && !s.cplFailed 30 && decide (s.fio.state ≠ 2)

/-- Outputs take the values of their driving nets (R15); HEALTH closes at the first update after entry into IN_SERVICE or STANDBY (R24); after a recovery FIELD_RESTORED (R257). -/
def State.updateOutputs (s : State) : State :=
  let dos := (List.range 12).map s.latchOutput
  let was := s.fio.ready
  let s := s.modFio (fun x => { x with dos := dos, ready := false })
  let s := { s with sys := { s.sys with health := if s.healthMay then true else s.sys.health } }
  let s := if was then s.stage 0x00D3 0 [] else s
  s.followOutputs

/-- HEALTH_OPEN (R24, R259). -/
def State.healthOpen (s : State) : State :=
  if s.sys.st = .inService ∨ s.sys.st = .standby then s else { s with sys := { s.sys with health := false } }

/-! ### Faults on outputs (R258) -/

/-- Two outputs belong to one group (R253). -/
def State.grouped (s : State) (a b : Nat) : Bool :=
  decide (a / 4 = b / 4) && bitAt (s.reg 0x2D44) a && bitAt (s.reg 0x2D44) b

/-- STUCK_ON, or the peer drive of a hinge-shared output (R258). -/
def State.stuckOn (s : State) (n : Nat) : State :=
  if 12 ≤ n ∨ s.outOn n ∨ s.fio.state = 2 ∨ s.cplFailed (16 + n) ∨ (s.outp n).stuck ∨ (s.outp n).cross then s
  else if s.hinged && s.doShared n then s.modDo n (fun o => { o with peer := true })
  else ((s.modDo n (fun o => { o with stuck := true })).setNme 5).stage 0x00D7 2 (b1 n)

/-- OUT_SHORT (R258). -/
def State.outShort (s : State) (n : Nat) : State :=
  if n < 12 ∧ s.outOn n ∧ (s.outp n).limit = false then (s.modDo n (fun o => { o with limit := true })).stage 0x00D8 2 (b1 n) else s

/-- THERMAL_SHUTDOWN (R258). -/
def State.thermalOff (s : State) (n : Nat) : State :=
  if n < 12 ∧ s.outOn n ∧ (s.outp n).limit then s.modDo n (fun o => { o with thermal := true }) else s

/-- THERMAL_OFF_EXPIRY (R258): a retry while the command stands, judged afresh. -/
def State.thermalRetry (s : State) (n : Nat) : State :=
  if (s.outp n).thermal then s.modDo n (fun o => { o with thermal := false, limit := false }) else s

/-- CROSS_DRIVE (R258). -/
def State.crossDrive (s : State) (n by_ : Nat) : State :=
  if n < 12 ∧ by_ < 12 ∧ n ≠ by_ ∧ s.outOn n = false ∧ s.outOn by_ ∧ s.grouped n by_ = false ∧ (s.outp n).cross = false then
    (s.modDo n (fun o => { o with cross := true })).stage 0x00D9 2 (b1 n ++ b1 by_)
  else s

/-- OUT_FAIL_OFF (R258). -/
def State.outFailOff (s : State) (n : Nat) : State :=
  if n < 12 ∧ s.outOn n ∧ (s.outp n).limit = false ∧ (s.outp n).failOff = false then (s.modDo n (fun o => { o with failOff := true, stuck := false })).stage 0x00DA 2 (b1 n) else s

/-- OUT_OPEN (R258): current in mA. -/
def State.outOpen (s : State) (n cur : Nat) : State :=
  if n < 12 ∧ s.outOn n ∧ cur < 10 ∧ (s.outp n).failOff = false ∧ (s.outp n).openLd = false then (s.modDo n (fun o => { o with openLd := true, current := cur / 10 })).stage 0x00DB 1 (b1 n) else s

/-- Continuous current above which an overload is judged, in mA: a single output, or its group's rating by the members whose couplers work (R253, R258). -/
def State.overLimit (s : State) (n : Nat) : Nat :=
  if bitAt (s.reg 0x2D44) n then 450 * countIf (List.range 12) (fun k => (decide (k = n) || s.grouped k n) && !s.cplFailed (16 + k)) else 600

/-- OUT_OVERLOAD (R258): current in mA. -/
def State.outOverload (s : State) (n cur : Nat) : State :=
  if n < 12 ∧ s.outOn n ∧ s.overLimit n < cur ∧ (s.outp n).overload = false then (s.modDo n (fun o => { o with overload := true, current := cur / 10 })).stage 0x00DC 1 (b1 n) else s

/-- CROSS_INH_CLEAR (R258). -/
def State.crossClear (s : State) (v : Word) : State :=
  (s.modFio (fun x => { x with dos := (List.range 12).map (fun n => if bitAt v n then { nth x.dos n with cross := false } else nth x.dos n) })).followOutputs

/-! ### Configuration (R249, R253, R254, R263) -/

/-- An output is on or the latest update commands it on (R254). -/
def State.outBusy (s : State) (n : Nat) : Bool := s.outOn n || (s.outp n).cmd

/-- A mask of group members is none, or at least two adjacent outputs (R253). -/
def maskOk (m : Nat) : Bool := decide (m ∈ [0, 3, 6, 12, 7, 14, 15])

/-- Net and flags of an output as last written. -/
def State.doSeen (s : State) (n : Nat) : Nat := bitsOf (s.regSeen (0x2CC0 + 4 * n)) 18 0

/-- Members of one group carry the same net and flags (R253). -/
def sameAll (l : List Nat) : Bool :=
  match l with
  | [] => true
  | a :: r => r.all (fun x => x = a)

/-- FIO_GROUP is legal for given net and flag words (R253). -/
def groupOk (v : Word) (f : Nat → Nat) : Bool :=
  (List.range 3).all (fun g =>
    let m := bitsOf v (4 * g + 3) (4 * g)
    maskOk m && sameAll (((List.range 4).filter (fun k => m.testBit k)).map (fun k => f (4 * g + k))))

/-- The members of the group to which an output belongs, 0 for none. -/
def groupPart (v : Word) (n : Nat) : Nat := if bitAt v n then bitsOf v (4 * (n / 4) + 3) (4 * (n / 4)) else 0

/-- The refusal of a field write, 0 when it is accepted: 3 refused_asserted, 4 bad_value, 5 bad_group. -/
def State.fioCheck (s : State) (addr : Nat) (v : Word) : Nat :=
  if 0x2C40 ≤ addr ∧ addr < 0x2C80 then
    if bitsOf v 1 0 = 3 ∨ 44 < bitsOf v 7 2 ∨ (bitAt v 8 ∧ (addr - 0x2C40) / 4 < 12) ∨ 65000 < bitsOf v 31 16 then 4 else 0
  else if 0x2CC0 ≤ addr ∧ addr < 0x2CF0 then
    let n := (addr - 0x2CC0) / 4
    let r := bitsOf v 15 0
    if s.doSeen n ≠ bitsOf v 18 0 ∧ s.outBusy n then 3
    else if r ≠ 0xFFFF ∧ isBinRef r = false then 4
    else if groupOk (s.regSeen 0x2D44) (fun k => if k = n then bitsOf v 18 0 else s.doSeen k) then 0 else 5
  else if addr = 0x2D44 then
    if (List.range 12).any (fun n => decide (groupPart (s.regSeen 0x2D44) n ≠ groupPart v n) && s.outBusy n) then 3
    else if groupOk v s.doSeen then 0 else 5
  else if addr = 0x2D48 ∨ addr = 0x2D4C then (if 11 < bitsOf v 4 1 then 4 else 0)
  else 0

/-- Writable bits of a field configuration register. -/
def fioMask (addr : Nat) : Nat :=
  if 0x2C40 ≤ addr ∧ addr < 0x2C80 then 0xFFFF01FF
  else if 0x2CC0 ≤ addr ∧ addr < 0x2CF0 then 0x0007FFFF
  else if addr = 0x2D44 then 0x00000FFF
  else 0x0000001F

/-- A write of a field configuration register that the keyway allows: whether it was refused. -/
def State.writeFio (s : State) (addr : Nat) (v : Word) : State × Bool :=
  let v := v &&& BitVec.ofNat 32 (fioMask addr)
  let r := s.fioCheck addr v
  if r ≠ 0 then
    let s := s.modFio (fun x => { x with result := r })
    (if r = 3 then s.stage 0x00DD 1 [] else s, true)
  else (((s.deferReg addr v).store addr v).modFio (fun x => { x with result := 1 }), false)

/-! ### Register views -/

def State.fioStat (s : State) : Word :=
  pack [(0, 2, s.fio.state), (2, 1, b2n (s.fio.mgmtUp && !s.cplFailed 31)), (4, 4, s.fio.result), (8, 8, s.fio.lostCount)]

def State.fioSupply (s : State) : Word :=
  pack [(0, 16, s.fio.vf), (16, 1, b2n (s.fio.vfRead && !s.cplFailed 31 && decide (s.fio.state ≠ 2)))]

def State.diStat (s : State) : Word := pack [(0, 16, maskOf (s.fio.di.map (fun d => d.level))), (16, 16, maskOf ((List.range 16).map s.diValid))]

/-- FIO_DI_TS_SEC and FIO_DI_TS_US of the selected input. -/
def State.diSel (s : State) : DiSt := nth s.fio.di (bitsOf (s.reg 0x2C84) 3 0)

def State.diTsUs (s : State) : Word := pack [(0, 20, s.diSel.us), (20, 1, b2n s.diSel.edge), (21, 1, b2n s.diSel.hold)]

def State.doStat (s : State) (n : Nat) : Word :=
  let o := s.outp n
  pack [(0, 1, b2n o.cmd), (1, 1, b2n (s.fastCall n)), (2, 1, b2n (s.outReads n)), (3, 1, b2n o.limit), (4, 1, b2n o.thermal), (5, 1, b2n o.stuck),
    (6, 1, b2n o.cross), (7, 1, b2n o.failOff), (8, 1, b2n o.openLd), (9, 1, b2n o.await), (10, 1, b2n o.peer), (11, 1, b2n (s.cplFailed (16 + n))),
    (12, 9, o.current), (21, 10, if s.fio.mgmtUp then Config.padVoltage n (s.outReads n) s.fio.vf else 0)]

def State.doFault (s : State) : Word := pack [(0, 12, maskOf (s.fio.dos.map (fun o => o.cross))), (12, 12, maskOf (s.fio.dos.map (fun o => o.stuck)))]

def State.tcsReg (s : State) (n : Nat) : Word :=
  let w := s.regSeen (0x2D48 + 4 * n)
  pack [(0, 5, bitsOf w 4 0), (5, 1, b2n (nth s.fio.tcs n).cont), (6, 1, b2n (s.tcsValid n)), (16, 12, (nth s.fio.tcs n).current)]

def State.couplerReg (s : State) : Word := BitVec.ofNat 32 (maskOf ((List.range 32).map (fun k => s.cplFailed k)))

end Sys2Proof.Machine
end

