-- ==== Sys2Proof/Machine/SysState.lean ====
section
/-! DEFINITION. Operating states, host requests and FAILSAFE (R23-R33), the release of control (R373), and the end of a job (R403). -/

namespace Sys2Proof.Machine

/-! ### The end of a job (R403) -/

/-- Codes of JOB_STATUS state. -/
def jobDone : Nat := 3
def jobFailed : Nat := 4
def jobCancelled : Nat := 5

/-- A submitted job ends: its outcome is kept among the latest 16, the JOB bit sets, and JOB_ENDED is staged (R403). -/
def State.endJob (s : State) (ticket state reason : Nat) : State :=
  match s.job.out.find? (fun j => j.ticket = ticket) with
  | none => s
  | some j =>
    let s := { s with job := { s.job with
      out := s.job.out.filter (fun x => x.ticket ≠ ticket), hist := (({ ticket := ticket, state := state, reason := reason } : JobEnd) :: s.job.hist).take 16,
      round := s.job.round.filter (fun x => x ≠ ticket) } }
    (s.setIrq 4).stage 0x0122 0 (b2 ticket ++ b1 j.code ++ b1 state ++ b1 reason)

/-- The outstanding job of a code. -/
def State.jobOf (s : State) (code : Nat) : Option Job := s.job.out.find? (fun j => j.code = code)

/-- Every job ends without an outcome, and tickets restart at 1 (R403). -/
def State.dropJobs (s : State) : State := { s with job := { tickets := s.job.tickets } }

/-! ### State changes (R30) -/

/-- The scheme enables protection (R26, R30, R233). -/
def State.enabled (s : State) : Bool :=
  !s.sch.lost && (if s.sch.image then s.sch.cfg.enable else decide (s.sch.tpl ≠ 0) && bitAt (s.reg 0x2434) 4)

/-- A channel path leaves foreground calibration when BLOCKED is left (R61). -/
def State.endForeground (s : State) : State :=
  match s.jobOf 8 with
  | some j => (s.reconnectAll).endJob j.ticket jobCancelled 0
  | none => s

/-- The sample words of the tick carry the test bit of the state that the tick enters (R70). -/
def State.markTest (s : State) (on : Bool) : State :=
  { s with flt := { s.flt with ch := s.flt.ch.map (fun c => { c with word := (c.word &&& 0xFFFFFFF7#32) ||| (if on then 8#32 else 0#32) }) } }

/-- What outputs and the control line do at a change of state: an output follows the new state's row of R23, FAILSAFE holds what was on for 1 ms (R23, R246), words change their test bit, and HINGE_CTL is low only while hinged in IN_SERVICE (R366). -/
def State.applyState (s : State) (new : OpState) : State :=
  let s := if new = OpState.failsafe ∧ (s.sys.st = OpState.inService ∨ s.sys.st = OpState.standby) then s.holdOutputs else s
  let s := if new = OpState.test ∨ s.sys.st = OpState.test then s.markTest (decide (new = OpState.test)) else s
  let s := { s with sys := { s.sys with st := new }, hng := { s.hng with ctl := decide (new = OpState.inService) && s.hinged, leaving := none, claimed := false } }
  let s := if new = OpState.inService then s else s.modFio (fun x => { x with dos := x.dos.map (fun o => { o with drv := false }) })
  s.fastSettle.followOutputs

/-- Time since the reference of R448, in ms. -/
def State.bootMs (s : State) : Nat := min 65535 (((s.pwr.ot : Int) - s.pwr.bootOt) / 1000).toNat

/-- The first entry into IN_SERVICE or STANDBY after BOOT is timed (R455). -/
def State.timeService (s : State) (new : OpState) : State :=
  if (new = OpState.inService ∨ new = OpState.standby) ∧ s.pwr.toService = 0 then { s with pwr := { s.pwr with toService := s.bootMs } } else s

/-- A transition of R26: last_cause, the SYS interrupt bit, STATE_CHANGE, and the non-maskable line on entry into FAILSAFE (R30). -/
def State.changeState (s : State) (new : OpState) (cause : Nat) : State :=
  let old := s.sys.st
  let s := if old = OpState.blocked ∧ new ≠ OpState.blocked then s.endForeground else s
  let s := (s.timeService new).applyState new
  let s := { s with sys := { s.sys with lastCause := cause, failFrom := if new = OpState.failsafe then old else s.sys.failFrom } }
  let s := if new = OpState.failsafe then s.setNme 0 else s
  (s.setIrq 0).stage 0x0010 (if new = OpState.failsafe then 2 else 0) (b1 (stCode old) ++ b1 (stCode new) ++ b1 cause ++ b1 s.sys.reqResult ++ zeros 4)

/-- An automatic transition at a tick; a request due at the same tick is superseded (R28). -/
def State.autoState (s : State) (new : OpState) (cause : Nat) : State :=
  { s.changeState new cause with sys := { (s.changeState new cause).sys with autoTick := some s.pe.tickOt } }

/-! ### Relinquishing (R373) -/

/-- A hinged active unit gives up control: HINGE_CTL releases, engine commands stop, the hold of R246 starts, and HINGE_RELINQUISH carries the cause; a handover that runs is superseded (R379). -/
def State.relinquish (s : State) (cause : Nat) : State :=
  if s.hinged && decide (s.sys.st = OpState.inService) && s.hng.ctl then
    let s := s.holdOutputs
    let s := { s with hng := { s.hng with ctl := false, leaving := some cause, hoAck := false, hoResult := if s.hng.hoResult = 1 then 7 else s.hng.hoResult } }
    s.stage 0x0112 2 (b1 cause)
  else s

/-- A FAILSAFE cause that has come up makes an active hinged unit relinquish (R373). -/
def State.checkCauses (s : State) : State :=
  match s.sys.causes with
  | [] => s
  | c :: _ => s.relinquish c

/-- A FAILSAFE cause is found (R26, R373). -/
def State.found (s : State) (cause : Nat) : State := (s.addCause cause).checkCauses

/-! ### FAILSAFE (R26) -/

/-- States from which a FAILSAFE cause leads into FAILSAFE. -/
def running (st : OpState) : Bool := decide (st = OpState.blocked ∨ st = OpState.inService ∨ st = OpState.standby ∨ st = OpState.test)

/-- FAILSAFE_ENTRY (R26): a cause holds in a running state. -/
def State.failsafeEntry (s : State) (cause : Nat) : State :=
  if running s.sys.st ∧ cause ∈ s.sys.causes ∧ s.sys.shutting = false then
    let s := s.autoState .failsafe cause
    { s with hng := { s.hng with comparing := false } }
  else s

/-- The state to which FAILSAFE returns once every cause has cleared (R26); a hinged unit rejoins instead. -/
def State.returnState (s : State) : Option OpState :=
  match s.sys.failFrom with
  | .inService => if s.hinged then none else some .inService
  | .blocked => some .blocked
  | .test => some .blocked
  | _ => none

/-- FAILSAFE_CAUSE_CLEARED (R26): with no cause left, the module returns by the matching row. -/
def State.causeCleared (s : State) : State :=
  if s.sys.st = OpState.failsafe ∧ s.sys.causes = [] ∧ s.sys.shutting = false then
    match s.returnState with
    | some st => s.autoState st 0xB
    | none => s
  else s

/-! ### Host requests (R27-R32) -/

/-- A write of SYS_STATE req (R28, R30, R32): whether the value is refused. -/
def State.writeReq (s : State) (code : Nat) : State × Bool :=
  if code = 0 then
    match s.sys.pend with
    | some _ => ({ s with sys := { s.sys with pend := none, reqResult := 9 } }, false)
    | none => (s, false)
  else if code ∈ [2, 3, 5, 7] then
    if s.sys.shutting then ({ s with sys := { s.sys with reqVal := code, reqResult := 3 } }, false)
    else ({ s with sys := { s.sys with
      reqVal := code, pend := some code, reqResult := 1, reqOt := s.pwr.ot, reqDue := false, reqHold := decide (s.clk.level = 2) || s.actSpan } }, false)
  else ({ s with sys := { s.sys with reqResult := 8 } }, true)

/-- The outcome of a request judged now (R26-R28): the req_result code. A request for DORMANT while a trip output is asserted gets 4, not 3: the rules name neither (DESIGN CHOICE, log entry 131). -/
def State.judgeReq (s : State) (code : Nat) : Nat :=
  if stCode s.sys.st = code then 2
  else
    match code, s.sys.st with
    | 2, .inService => if s.tripAsserted then 4 else 2
    | 2, .standby => 2
    | 2, .test => 2
    | 2, .failsafe => if s.sys.causes = [] then 2 else 6
    | 3, .blocked => if !s.enabled then 5 else if s.hinged then 3 else 2
    | 5, .blocked => 2
    | 7, .blocked => if s.tripAsserted then 4 else 2
    | 7, .failsafe => if s.tripAsserted then 4 else 2
    | _, _ => 3

/-- The state that a request's code names. -/
def reqState (code : Nat) : OpState :=
  match code with
  | 2 => .blocked
  | 3 => .inService
  | _ => .test

/-- The request for DORMANT is taken (R30, R450): the engines stop, STATE_CHANGE shows new state 0, and the shutdown runs. -/
def State.startShutdown (s : State) : State :=
  let s := { s with
    sys := { s.sys with shutting := true, lastCause := 1 },
    pwr := { s.pwr with bootStep := 15, wakeAfter := false },
    pe := { s.pe with att := [], updDue := false } }
  (s.setIrq 0).stage 0x0010 0 (b1 (stCode s.sys.st) ++ b1 0 ++ b1 1 ++ b1 s.sys.reqResult ++ zeros 4)

/-- A judged request is carried out. -/
def State.carryOut (s : State) (code : Nat) : State :=
  if stCode s.sys.st = code then s
  else if code = 7 then s.startShutdown
  else if s.sys.st = OpState.inService ∧ s.hinged then (s.relinquish 1).changeState (reqState code) 1
  else s.changeState (reqState code) 1

/-! ### Register views -/

/-- SYS_STATE. -/
def State.sysState (s : State) : Word :=
  pack [(0, 4, stCode s.sys.st), (4, 4, s.sys.reqVal), (8, 4, s.sys.reqResult), (12, 4, s.sys.lastCause)]

/-- Output-update offset in ns (R14). -/
def updNs (fp : Nat) : Nat := if fp = 4800 then 177083 else if fp = 19200 then 44271 else 88542

/-- SYS_TICK. -/
def State.sysTick (s : State) : Word := pack [(0, 2, fpSel s.fp), (2, 1, b2n s.clk.op), (8, 18, updNs s.fp)]

end Sys2Proof.Machine
end

