-- ==== Sys2Proof/Machine/Time.lean ====
section
/-! DEFINITION. The time counter, precision time, servo and steps (R294-R306). -/

namespace Sys2Proof.Machine

/-! ### Accessors and registers -/

def State.modPtp (s : State) (f : Ptp → Ptp) : State := { s with ptp := f s.ptp }

/-- PTP_CTL as written. -/
def State.ptpCtl (s : State) : Word := s.reg 0x3800

def State.profile (s : State) : Nat := bitsOf s.ptpCtl 1 0

def State.portEn (s : State) (p : Nat) : Bool := bitAt s.ptpCtl (4 + p)

/-- The unit belongs to a trained chain and is not its root (R296, R354). -/
def State.follower (s : State) : Bool :=
  s.chn.ports.any (fun p => decide (p.st = PortState.up)) && !(s.pwr.rootStrap && (s.chn.sender || s.chn.upstream.isNone))

/-- The source in force (R296): 0 free, 1 PTP, 2 chain. -/
def State.srcEff (s : State) : Nat := if s.follower then 2 else bitsOf s.ptpCtl 3 2

/-- The step threshold in ns (R304). -/
def State.stepThr (s : State) : Nat := bitsOf (s.reg 0x3824) 19 0 * 1000

/-! ### The counter (R294, R295) -/

/-- The counter in units of 2^-16 ns. -/
def ptpTotal (p : Ptp) : Nat := (p.sec * 1000000000 + p.ns) * 65536 + p.frac

/-- The counter set to a total. -/
def ptpOf (p : Ptp) (t : Nat) : Ptp :=
  { p with sec := t / (65536 * 1000000000), ns := t / 65536 % 1000000000, frac := t % 65536 }

/-- Units that n conversions add from one within its triplet (R295). -/
def convUnits (tri n : Nat) : Nat :=
  n * 813 * 65536 + n * 52565 + (tri + n) / 3

/-- The counter after n conversions. -/
def ptpStepConv (p : Ptp) (n : Nat) : Ptp := { ptpOf p (ptpTotal p + convUnits p.tri n) with tri := (p.tri + n) % 3 }

/-- At a tick the counter has advanced by the conversions since its latest advance: one period's, or what the elapsed OT gives when it was set or ticks had stopped in between (log entry 3). -/
def State.ptpTick (s : State) (ot : Nat) : State :=
  let p := s.ptp
  let n := s.flt.eff.d1 * s.flt.eff.d2
  let el := ot - p.ot
  let k := if p.ot = s.pe.tickOt ∧ el * s.fp ≤ 2000000 then n else el * 12288 / 10000
  s.modPtp (fun p => { ptpStepConv p k with ot := ot })

/-- Wall time now, in ns. -/
def State.nowNs (s : State) : Nat := (wallAt s.ptp s.pwr.ot).1 * 1000000000 + (wallAt s.ptp s.pwr.ot).2

/-- The index of the tick whose instant lies nearest to the counter. -/
def State.tickNear (s : State) : Nat := divRound ((s.ptp.sec * 1000000000 + s.ptp.ns) * s.fp) 1000000000

/-- A read of PTP_TIME_SEC_LO latches the other time registers (R323). -/
def State.latchTime (s : State) : State :=
  let w := wallAt s.ptp s.pwr.ot
  s.modPtp (fun p => { p with latchHi := w.1 / 2 ^ 32, latchNs := w.2, latchFrac := p.frac })

/-! ### States (R302, R303, R316) -/

/-- smpSynch (R316). -/
def State.smpSynch (s : State) : Nat :=
  match s.ptp.state with
  | 2 => if s.srcEff = 1 ∨ (s.srcEff = 2 ∧ s.ptp.traceable) then 2 else 0
  | 3 => if s.pwr.ot ≤ s.ptp.hoOt + 5000000 then s.ptp.synch else 0
  | 4 => if s.ptp.set then 1 else 0
  | _ => 0

/-- A measurement whose gate is open notes that the time state leaves locked (R428). -/
def State.leaveLock (s : State) : State :=
  if s.ptp.state = 2 ∧ s.clk.measBusy then { s with clk := { s.clk with measUnlocked := true } } else s

/-- The state becomes acquiring. -/
def State.toAcquiring (s : State) : State := s.leaveLock.modPtp (fun p => { p with state := 1, good := 0, bad := 0 })

/-- The state becomes locked, with TIME_LOCKED (R322). -/
def State.toLocked (s : State) : State := (s.modPtp (fun p => { p with state := 2, bad := 0, recorded := none })).stage 0x00F0 0 []

/-- Entries of adjustments that span 60 s at an interval between offsets. -/
def logLen (interval : Rat) : Nat := (60 / interval).floor.toNat

/-- The interval at which offsets come: 1 s of both profiles, or one chain cycle. -/
def State.interval (s : State) : Rat := if s.srcEff = 2 then 1 / 76800 else 1

/-- The adjustment kept in holdover (R303). -/
def State.heldAdj (s : State) : Rat :=
  let n := logLen s.interval
  if s.ptp.adjLog.length < n then s.ptp.adj else (s.ptp.adjLog.take n).foldl (· + ·) 0 / (n : Rat)

/-- A holdover cause (R302, R322): 1 no Sync, 2 announce timeout, 3 links down, 4 chain time lost, 5 step refused. -/
def State.holdover (s : State) (cause : Nat) : State :=
  let add := fun p : Ptp => { p with causes := if cause ∈ p.causes then p.causes else p.causes ++ [cause] }
  if s.ptp.state = 1 ∨ s.ptp.state = 2 then
    let sy := s.smpSynch
    let adj := s.heldAdj
    (s.leaveLock.modPtp (fun p => { add p with state := 3, synch := sy, hoOt := s.pwr.ot, adj := adj, good := 0, bad := 0 })).stage 0x00F1 1 (b1 cause ++ zeros 7)
  else if s.ptp.state = 3 then s.modPtp add
  else s

/-- Holdover ends when no cause remains (R302). -/
def State.endHoldover (s : State) : State := if s.ptp.state = 3 ∧ s.ptp.causes = [] then s.toAcquiring else s

/-- Causes that no longer hold. -/
def State.dropHold (s : State) (gone : List Nat) : State := s.modPtp (fun p => { p with causes := p.causes.filter (fun c => c ∉ gone) })

/-- The source in force has changed (R302): free ends or begins. -/
def State.srcMoved (s : State) (old : Nat) : State :=
  let new := s.srcEff
  if new = old then s
  else
    let s := s.modPtp (fun p => { p with causes := [], adjLog := [], waiting := [none, none] })
    if new = 0 then s.leaveLock.modPtp (fun p => { p with state := if p.state = 0 then 0 else 4, adj := 0, integ := 0, good := 0, bad := 0 })
    else if s.ptp.state = 4 then s.toAcquiring
    else if s.ptp.state = 3 then s.endHoldover
    else s

/-! ### Steps (R304-R306, R321) -/

/-- Wall time as the body of TIME_STEP carries it. -/
def wallBytes (w : Nat × Nat) : List Byte := b8 w.1 ++ b4 w.2

/-- Alignment buffers are flushed (R306, R321). -/
def State.flushStreams (s : State) : State := { s with svc := { s.svc with ctx := s.svc.ctx.map (fun c => { c with held := [] }) } }

/-- The counter has been stepped (R272, R306): counts, realignment, flushed buffers and TIME_STEP with the tick's OT. -/
def State.afterStep (s : State) (old : Nat × Nat) (source : Nat) : State :=
  let s := s.modPtp (fun p => { p with set := true, stepped := true, realign := true, steps := satInc 65535 p.steps, good := 0, bad := 0 })
  s.flushStreams.stageTick 0x00E3 1 (wallBytes old ++ wallBytes (wallAt s.ptp s.pwr.ot) ++ b1 source ++ zeros 3)

/-- The counter stepped by -o (R304). -/
def State.stepBy (s : State) (o : Rat) (source : Nat) : State :=
  let old := wallAt s.ptp s.pwr.ot
  let t := ((ptpTotal s.ptp : Nat) : Int) - roundAway (o * 65536)
  let s := s.modPtp (fun p => { ptpOf p t.toNat with refused := false, armed := p.armed && decide (source ≠ 0) })
  let s := (s.dropHold [5]).afterStep old source
  if s.ptp.state = 3 then s.endHoldover else s.toAcquiring

/-- A step is refused (R304): recorded once, and again after a locked spell or a move of the offer by more than the threshold. -/
def State.refuseStep (s : State) (o : Rat) : State :=
  let n := roundAway o
  let again := match s.ptp.recorded with
    | none => true
    | some r => decide (s.stepThr < (n - r).natAbs)
  let s := s.modPtp (fun p => { p with refused := true, good := 0, recorded := if again then some n else p.recorded })
  let s := if again then s.stage 0x00E4 2 (bI 8 n) else s
  s.holdover 5

/-- The servo (R301): integral and proportional parts, ±500 ppm, in steps of 0.01 ppb (R295). -/
def State.servo (s : State) (o : Rat) : State :=
  let w := s.reg 0x384C
  let integ := s.ptp.integ + o / (2 : Rat) ^ bitsOf w 7 4
  let raw := -(o / (2 : Rat) ^ bitsOf w 3 0 + integ) / s.interval
  let lim := if raw < -500000 then -500000 else if 500000 < raw then 500000 else raw
  let adj : Rat := (roundAway (lim * 100) : Rat) / 100
  s.modPtp (fun p => { p with integ := integ, adj := adj, adjLog := if p.state = 2 then (adj :: p.adjLog).take (logLen s.interval) else p.adjLog })

/-- Lock and loss of lock by the offsets in a row (R302); `may` is the root's lock on a chain (R356). -/
def State.lockJudge (s : State) (o : Rat) (may : Bool) : State :=
  let m := absR o
  let good := if m ≤ 100 ∧ s.ptp.realign = false then s.ptp.good + 1 else 0
  let bad := if 1000 < m then s.ptp.bad + 1 else 0
  let s := s.modPtp (fun p => { p with good := min good 16, bad := min bad 4 })
  match s.ptp.state with
  | 1 => if 16 ≤ good ∧ may then s.toLocked else s
  | 2 => if 4 ≤ bad ∨ may = false then s.toAcquiring else s
  | _ => s

/-- An offset is taken by the servo (R304 item 4). -/
def State.takeOffset (s : State) (o : Rat) (may : Bool) : State :=
  let s := (((s.modPtp (fun p => { p with refused := false })).dropHold [5]).endHoldover).servo o
  s.lockJudge o may

/-- An offset is judged (R304, R305). -/
def State.judgeOffset (s : State) (o : Rat) (may : Bool) : State :=
  let s := s.modPtp (fun p => { p with offset := roundAway o })
  let m := absR o
  if s.ptp.set = false then s.stepBy o 2
  else if s.ptp.armed ∧ (20000 ≤ m ∨ (s.stepThr : Rat) ≤ m) then s.stepBy o 0
  else if (s.stepThr : Rat) ≤ m then s.refuseStep o
  else if 20000 ≤ m then s.stepBy o 1
  else s.takeOffset o may

/-- FORCE_ACCEPT_NEXT, FORCE_SET and FORCE_DISARM: a write of PTP_FORCE_CTL; more than one bit set is ignored (R305, R323). -/
def State.writeForce (s : State) (v : Word) : State :=
  match bitsOf v 2 0 with
  | 1 => s.modPtp (fun p => { p with armed := true })
  | 2 =>
    let old := wallAt s.ptp s.pwr.ot
    let unset := !s.ptp.set
    let sec := (s.reg 0x382C).toNat * 2 ^ 32 + (s.reg 0x3830).toNat
    let s := s.modPtp (fun p => { p with sec := sec, ns := (s.reg 0x3834).toNat, frac := 0, ot := s.pwr.ot, armed := false, waiting := [none, none] })
    let s := s.afterStep old 0
    if unset then (if s.srcEff = 0 then s.modPtp (fun p => { p with state := 4 }) else s.toAcquiring)
    else if s.ptp.state = 2 then s.toAcquiring
    else s
  | 4 => s.modPtp (fun p => { p with armed := false })
  | _ => s

/-- TIME_REALIGNED (R306). -/
def State.realigned (s : State) : State := if s.ptp.realign then (s.modPtp (fun p => { p with realign := false, good := 0 })).stage 0x00F7 0 [] else s

/-! ### Masters and ports (R297, R298) -/

/-- The data set that the best master clock algorithm compares, best first. -/
def masterKey (a : AnnounceIn) : List Nat := [a.prio1, a.clockClass, a.accuracy, a.variance, a.prio2, a.gm, a.steps]

/-- One data set is better than another: the first difference decides, the lower value being better. -/
def better : List Nat → List Nat → Bool
  | a :: r, b :: t => if a < b then true else if b < a then false else better r t
  | _, _ => false

/-- The port on which the best qualified master is heard: 0 none, 1 ETH0, 2 ETH1. -/
def State.bestPort (s : State) : Nat :=
  let q := fun p : Nat => if s.portEn p ∧ s.profile ≠ 0 then nth s.ptp.masters p else none
  match q 0, q 1 with
  | none, none => 0
  | some _, none => 1
  | none, some _ => 2
  | some a, some b => if better (masterKey b) (masterKey a) then 2 else 1

/-- The port in use and the best master are chosen again (R298); PTP_MASTER_CHANGE when either changes. -/
def State.reselect (s : State) : State :=
  let p := s.bestPort
  let gm := if p = 0 then none else nth s.ptp.masters (p - 1)
  let changed := decide (p ≠ s.ptp.port) || decide (gm.map (fun a => a.gm) ≠ s.ptp.gm.map (fun a => a.gm))
  let s := s.modPtp (fun x => { x with port := p, gm := if gm.isSome then gm else x.gm })
  match gm with
  | some a => if changed then s.stage 0x00F2 0 (b8 a.gm) else s
  | none => s

/-- A port's PTP works: the profile is on, the port enabled, its MAC not gated (R297, R422). -/
def State.ptpOn (s : State) (p : Nat) : Bool := decide (p < 2) && decide (s.profile ≠ 0) && s.portEn p && nth s.clk.leaf (2 + p) && !s.dark

/-- PTP_ANNOUNCE (R298, R302). -/
def State.announce (s : State) (p : Nat) (a : AnnounceIn) : State :=
  if s.ptpOn p = false ∨ a.domain ≠ bitsOf s.ptpCtl 15 8 then s
  else
    let take := match nth s.ptp.masters p with
      | none => true
      | some o => decide (o.gm = a.gm) || better (masterKey a) (masterKey o)
    let s := if take then (s.modPtp (fun x => { x with masters := x.masters.set p (some a) })).reselect else s
    if s.srcEff = 1 then (s.dropHold [2, 3]).endHoldover else s

/-- ANNOUNCE_TIMEOUT (R298, R302). -/
def State.announceTimeout (s : State) (p : Nat) : State :=
  if (nth s.ptp.masters p).isNone then s
  else
    let used := decide (s.ptp.port = p + 1)
    let s := (s.modPtp (fun x => { x with masters := x.masters.set p none })).reselect
    if used && decide (s.ptp.port = 0) && decide (s.srcEff = 1) then s.holdover 2 else s

/-- SYNC_TIMEOUT (R302). -/
def State.syncTimeout (s : State) : State := if s.srcEff = 1 then s.holdover 1 else s

/-! ### Messages (R298-R301) -/

/-- Ingress and egress corrections of a MAC in ns: by link speed, and the latency the host wrote (R299, R300). -/
def State.ingress (s : State) (p : Nat) : Int :=
  let own : Nat := match (nth s.svc.mac p).speed with
    | 2 => 104
    | 1 => 640
    | _ => 6200
  ((own + bitsOf (s.reg (0x3840 + 4 * p)) 15 0 : Nat) : Int)

def State.egress (s : State) (p : Nat) : Int :=
  let own : Nat := match (nth s.svc.mac p).speed with
    | 2 => 88
    | 1 => 520
    | _ => 5040
  ((own + bitsOf (s.reg (0x3840 + 4 * p)) 31 16 : Nat) : Int)

/-- Mean path delay of a port over its last 8 exchanges (R301). -/
def State.pathDelay (s : State) (p : Nat) : Rat :=
  let l := nth s.ptp.delays p
  l.foldl (· + ·) 0 / (l.length : Rat)

/-- The offset that a Sync gives (R301). -/
def State.offsetOf (s : State) (p : Nat) (t1 t2 corr : Int) : Rat := ((t2 - s.ingress p - t1 - corr : Int) : Rat) - s.pathDelay p

/-- An accepted Sync of the best master: its offset is judged, and the causes that its master's absence gave are gone (R302, R304). -/
def State.syncOffset (s : State) (p : Nat) (t1 t2 corr : Int) : State :=
  ((s.dropHold [1, 2, 3]).judgeOffset (s.offsetOf p t1 t2 corr) true).endHoldover

/-- PTP_SYNC (R298, R301): the port in use, with PTP as source; a two-step Sync waits for its Follow_Up. -/
def State.ptpSync (s : State) (p : Nat) (m : SyncIn) : State :=
  if s.ptpOn p = false ∨ s.srcEff ≠ 1 ∨ s.ptp.port ≠ p + 1 then s
  else if m.oneStep then s.syncOffset p m.t1 m.t2 m.corr
  else s.modPtp (fun x => { x with waiting := x.waiting.set p (some m) })

/-- PTP_FOLLOW_UP (R301). -/
def State.ptpFollowUp (s : State) (p seq : Nat) (t1 corr : Int) : State :=
  match nth s.ptp.waiting p with
  | none => s
  | some m =>
    if s.ptpOn p = false ∨ s.srcEff ≠ 1 ∨ s.ptp.port ≠ p + 1 ∨ m.seq ≠ seq then s
    else (s.modPtp (fun x => { x with waiting := x.waiting.set p none })).syncOffset p t1 m.t2 (m.corr + corr)

/-- Frames that the module sends on the network take the place of the last ones. -/
def State.send (s : State) (l : List NetOut) : State := { s with svc := { s.svc with sent := l } }

/-- PTP_PDELAY_REQ (R298, R299): answered on each enabled port, with times that refer to the pins. -/
def State.pdelayReq (s : State) (p seq : Nat) (t2 t3 : Int) : State :=
  if s.ptpOn p then s.send [.pdelayResp p seq (t2 - s.ingress p) (t3 + s.egress p)] else s

/-- PTP_PDELAY_RESP (R301). -/
def State.pdelayResp (s : State) (p : Nat) (t1p t2p t3p t4 : Int) : State :=
  if s.ptpOn p then
    let d : Rat := (((t4 - s.ingress p) - (t1p + s.egress p) - (t3p - t2p) : Int) : Rat) / 2
    s.modPtp (fun x => { x with delays := modNth x.delays p (fun l => (d :: l).take 8) })
  else s

/-! ### Control (R296, R323) -/

/-- A write of PTP_CTL that the keyway allows (R296, R302, R323): whether the value was refused. -/
def State.writePtpCtl (s : State) (v : Word) : State × Bool :=
  if bitsOf v 1 0 = 3 ∨ bitsOf v 3 2 = 3 then (s, true)
  else
    let old := s.srcEff
    let o := s.ptpCtl
    let v := v &&& 0xFF3F#32
    let s := s.setStored 0x3800 v
    let ms := if bitsOf o 1 0 ≠ bitsOf v 1 0 then [none, none] else (List.range 2).map (fun i => if bitAt v (4 + i) then nth s.ptp.masters i else none)
    let s := s.modPtp (fun p => { p with masters := ms })
    ((s.reselect).srcMoved old, false)

/-! ### Links (R322) -/

/-- Every enabled link is down (R302). -/
def State.linksDown (s : State) : Bool := (List.range 2).all (fun p => !s.portEn p || !(nth s.svc.mac p).link)

/-- ETH_LINK (R302, R322). -/
def State.ethLink (s : State) (m : Nat) (up : Bool) (speed : Nat) : State :=
  let o := nth s.svc.mac m
  if 2 ≤ m ∨ (o.link = up ∧ (up = false ∨ o.speed = speed)) then s
  else
    let s := { s with svc := { s.svc with mac := modNth s.svc.mac m (fun x => { x with link := up, speed := speed % 4 }) } }
    let s := if o.link = up then s else s.stage 0x00F3 (if up then 0 else 1) []
    if !up && s.linksDown && decide (s.srcEff = 1) then s.holdover 3 else s

/-! ### Register views -/

/-- PTP_CTL reads the source in force. -/
def State.ptpCtlView (s : State) : Word := (s.ptpCtl &&& 0xFFFFFFF3#32) ||| pack [(2, 2, s.srcEff)]

/-- PTP_STAT. -/
def State.ptpStat (s : State) : Word :=
  let p := s.ptp
  pack [(0, 3, p.state), (3, 1, b2n p.realign), (4, 1, b2n p.refused), (5, 1, b2n p.armed), (6, 2, p.port), (16, 16, p.steps)]

/-- A signed value cut to 32 bits at its ends. -/
def sat32 (i : Int) : Word := BitVec.ofNat 32 (toTwos 32 (if i < -2147483648 then -2147483648 else if 2147483647 < i then 2147483647 else i))

/-- PTP_PATH of the port in use, and PTP_FREQ in 0.01 ppb. -/
def State.ptpPath (s : State) : Word := if s.ptp.port = 0 then 0 else sat32 (roundAway (s.pathDelay (s.ptp.port - 1)))

def State.ptpFreq (s : State) : Word := sat32 (roundAway (s.ptp.adj * 100))

/-- PTP_GM. -/
def State.ptpGm (s : State) : Word :=
  match s.ptp.gm with
  | some a => pack [(0, 16, toTwos 16 a.utc), (16, 8, a.clockClass), (24, 8, a.steps)]
  | none => 0

end Sys2Proof.Machine
end

