-- ==== Sys2Proof/Machine/Signals.lean ====
section
/-! DEFINITION. What an element reads: nets, sample words, settings, phasors; frequency tracking and estimators (R99, R101, R121-R132, R215, R216). -/

namespace Sys2Proof.Machine

/-! ### Quality bytes (R99, R122) -/

/-- A quality bit. -/
def qBit (q : Byte) (i : Nat) : Bool := q.toNat.testBit i

/-- A quality byte from its bits: valid, overrange, pilot suspect, test, holdover, chain, stream. -/
def qMake (valid ovr pilot test hold chain stream : Bool) : Byte :=
  BitVec.ofNat 8 (128 * b2n valid + 32 * b2n ovr + 16 * b2n pilot + 8 * b2n test + 4 * b2n hold + 2 * b2n chain + b2n stream)

/-- Quality of an output formed from inputs (R122): valid is the AND, the other bits but held the OR. -/
def qMerge (l : List Byte) : Byte :=
  let any := fun i => l.any (fun q => qBit q i)
  qMake (l.all (fun q => qBit q 7)) (any 5) (any 4) (any 3) (any 2) (any 1) (any 0)

/-- A quality byte with valid = 0. -/
def qClear (q : Byte) : Byte := q &&& 0x7F#8

/-- A quality byte with valid = 0 unless the condition holds. -/
def qIf (c : Bool) (q : Byte) : Byte := if c then q else qClear q

/-! ### What an attempt reads (R101) -/

/-- The inputs of one attempt: the state as latched at wake, and what the placement has written in this tick so far. -/
structure Env where
  s : State
  place : Nat
  b : List (Nat × Bool) := []
  a : List (Nat × ANet) := []
  els : List ElemSt := []
  evs : List Ev := []

/-- Value of a scheme binary net: a net written earlier in the tick by the same placement is read at its new value. -/
def Env.bin (v : Env) (n : Nat) : Bool :=
  match v.b.find? (fun p => p.1 = n) with
  | some p => p.2
  | none => v.s.bnet n

/-- Value of a binary reference; no net reads 0 (R215). -/
def Env.ref (v : Env) (r : Nat) : Bool :=
  if r = 0xFFFF then false
  else
    let x := if r % 0x4000 < 0x1000 then v.bin (r % 0x1000) else v.s.modBin (r % 0x1000)
    if 0x8000 ≤ r then !x else x

/-- An arrival as the two module analogue nets of a comparator (R191). -/
def arrivalNets (c : CmpSt) : ANet × ANet :=
  match c.net with
  | some a => ({ v := (a.tenths / 10000 : Nat), q := qMake true false false false a.hold false false },
      { v := (a.tenths % 10000 : Nat) / 10, q := qMake true false false false a.hold false false })
  | none => ({}, {})

/-- Value of a module analogue net (R215). -/
def State.modAna (s : State) (n : Nat) : ANet :=
  if n < 32 then s.auxNet n
  else if n < 36 then s.injNet (n - 32)
  else if n = 36 then { v := s.trk.ft, q := 0x80 }
  else if 64 ≤ n ∧ n < 192 then
    let p := arrivalNets (s.cmp ((n - 64) / 2))
    if n % 2 = 0 then p.1 else p.2
  else {}

/-- Value of an analogue reference. -/
def Env.ana (v : Env) (r : Nat) : ANet :=
  if r = 0xFFFF then {}
  else if r / 0x1000 % 4 = 3 then v.s.modAna (r % 0x1000)
  else
    match v.a.find? (fun p => p.1 = r % 0x1000) with
    | some p => p.2
    | none => nth v.s.pe.anets (r % 0x1000)

/-- Record of an instance: written earlier in the tick by the same placement, or as committed. -/
def Env.record (v : Env) (num : Nat) : Option ElemSt :=
  match v.els.find? (fun e => e.num = num) with
  | some e => some e
  | none => v.s.pe.els.find? (fun e => e.num = num)

/-- The instance that writes the net of a reference. -/
def Env.writer (v : Env) (r : Nat) : Option InstCfg :=
  if r = 0xFFFF ∨ 2 ≤ r / 0x1000 % 4 then none else v.s.sch.cfg.insts.find? (fun c => c.outs.contains (r % 0x8000))

/-- Input of an instance. -/
def InstCfg.inp (c : InstCfg) (i : Nat) : Nat := c.ins.getD i 0xFFFF

/-- Setting word of an instance in the group in effect (R126, R216): the raw word, a number taken to its nearest step, a choice. -/
def Env.word (v : Env) (c : InstCfg) (i : Nat) : Word := (c.sets.getD v.s.sch.group []).getD i 0

def Env.num (v : Env) (c : InstCfg) (i : Nat) : Rat :=
  match (rowsOf c.kind)[i]? with
  | some r => toStep r (ofSingle (v.word c i))
  | none => ofSingle (v.word c i)

def Env.choice (v : Env) (c : InstCfg) (i : Nat) : Nat := (v.word c i).toNat

/-- Rate of ticks. -/
def Env.fp (v : Env) : Nat := v.s.fp

/-- A count of ticks has reached a time in seconds (R127). -/
def Env.reached (v : Env) (n : Nat) (t : Rat) : Bool := decide (t ≤ (n : Rat) / (v.fp : Rat))

/-- A count of ticks exceeds a time in seconds. -/
def Env.exceeds (v : Env) (n : Nat) (t : Rat) : Bool := decide (t < (n : Rat) / (v.fp : Rat))

/-- A quality byte allows use: valid, no test flag outside TEST (R25, R124), and no pilot_suspect when ps_block is set (R125). -/
def Env.good (v : Env) (ps : Bool) (q : Byte) : Bool :=
  qBit q 7 && (!qBit q 3 || decide (v.s.sys.st = OpState.test)) && !(ps && qBit q 4)

/-- The setting group has changed since the record's latest tick: a start stands only if the new settings meet it afresh (R126). -/
def Env.fresh (v : Env) (e : ElemSt) : Bool := decide (e.grp ≠ v.s.sch.group)

/-- A quality as an element sees it on a reference: an input with held = 1 is treated as valid, and the held bit goes no further (R122, R124). -/
def Env.seen (v : Env) (r : Nat) (q : Byte) : Byte := if qBit (v.ana r).q 6 then (q ||| 0x80#8) &&& 0xBF#8 else q &&& 0xBF#8

/-! ### Complex numbers -/

/-- A complex number. -/
structure Cx where
  re : Rat
  im : Rat
  deriving DecidableEq, Repr, Inhabited

def Cx.add (x y : Cx) : Cx := ⟨x.re + y.re, x.im + y.im⟩

def Cx.sub (x y : Cx) : Cx := ⟨x.re - y.re, x.im - y.im⟩

def Cx.mul (x y : Cx) : Cx := ⟨x.re * y.re - x.im * y.im, x.re * y.im + x.im * y.re⟩

def Cx.scale (k : Rat) (x : Cx) : Cx := ⟨k * x.re, k * x.im⟩

/-- Quotient; 0 for a zero divisor, which the callers exclude. -/
def Cx.div (x y : Cx) : Cx :=
  let d := y.re * y.re + y.im * y.im
  ⟨(x.re * y.re + x.im * y.im) / d, (x.im * y.re - x.re * y.im) / d⟩

def Cx.sq (x : Cx) : Rat := x.re * x.re + x.im * x.im

def Cx.abs (x : Cx) : Rat := sqrtR x.sq

/-- Argument in degrees. -/
def Cx.arg (x : Cx) : Rat := argD x.im x.re

/-- e^(j·turns). -/
def Cx.unit (turns : Rat) : Cx := ⟨cosT turns, sinT turns⟩

/-- The square root of 3 as the engines hold it. -/
def root3 : Rat := sqrtR 3

/-- The operator a = e^(j120°), and its square. -/
def opA : Cx := ⟨-1 / 2, root3 / 2⟩

def opA2 : Cx := ⟨-1 / 2, -root3 / 2⟩

def Cx.sum (l : List Cx) : Cx := l.foldl Cx.add ⟨0, 0⟩

/-- The complex number at position 2k of a list of numbers. -/
def cxAt (z : List Rat) (k : Nat) : Cx := ⟨z.getD (2 * k) 0, z.getD (2 * k + 1) 0⟩

/-! ### Sample values in per-unit (R121) -/

/-- Configuration of a channel and of a measuring group; a template's parameters stand in the scheme. -/
def State.chan (s : State) (c : Nat) : ChanCfg := nth s.sch.cfg.chans c

def State.grp (s : State) (c : Nat) : GroupCfg :=
  match (s.chan c).group with
  | some g => nth s.sch.cfg.groups g
  | none => {}

/-- Base of a channel: its group's, or In_sef for a sensitive-earth input. -/
def State.base (s : State) (c : Nat) (sef : Bool) : Rat := if sef then (s.grp c).sef else (s.grp c).base

/-- Value of a channel's word in primary units. -/
def State.primary (s : State) (c : Nat) (w : Word) : Rat :=
  (wordVal w : Rat) * 12 / 5 * (s.chan c).ks / ((gainOf (s.afeCh c).gain : Nat) * 2 ^ 23 : Nat)

/-- M_fs of R125. -/
def State.fullScale (s : State) (c : Nat) (sef : Bool) : Rat :=
  12 / 5 * (s.chan c).ks / ((gainOf (s.afeCh c).gain : Nat) * sqrtR 2 * s.base c sef)

/-- The quality byte of a sample word. -/
def wordQ (w : Word) : Byte := qMake (bitAt w 7) (bitAt w 5) (bitAt w 4) (bitAt w 3) (bitAt w 2) (bitAt w 1) false

/-- A sample of an own channel (R25, R99, R121). -/
def State.sample (s : State) (c : Nat) (sef : Bool) : Smp :=
  let w := s.word c
  { x := s.primary c w / s.base c sef, ok := bitAt w 7 && (!bitAt w 3 || decide (s.sys.st = .test)), q := wordQ w }

/-! ### Windows and phasors (R128) -/

/-- Ticks of a full and of a half cycle at a frequency. -/
def winFull (fp : Nat) (f : Rat) : Nat := (roundAway ((fp : Rat) / f)).toNat

def winHalf (fp : Nat) (f : Rat) : Nat := (roundAway ((fp : Rat) / (2 * f))).toNat

/-- Sum of x[n-k] · e^(-j·h·(psi - k·theta)) over the first n samples, from index k. -/
def corrSum (h : Rat) (psi theta : Rat) : List Smp → Nat → Cx
  | [], _ => ⟨0, 0⟩
  | x :: r, k => (Cx.scale x.x (Cx.unit (-(h * (psi - (k : Rat) * theta))))).add (corrSum h psi theta r (k + 1))

/-- A phasor over n ticks (R128): rms, harmonic h. -/
def phasor (h psi theta : Rat) (hist : List Smp) (n : Nat) : Cx :=
  Cx.scale (sqrtR 2 / (n : Rat)) (corrSum h psi theta (hist.take n) 0)

/-- RMS over n ticks (R128). -/
def rmsOf (hist : List Smp) (n : Nat) : Rat :=
  sqrtR (((hist.take n).foldl (fun a x => a + x.x * x.x) 0) / (n : Rat))

/-- Quality of an output over a window (R129): valid when the whole window holds valid words. -/
def winQ (hist : List Smp) (n : Nat) : Byte :=
  let l := hist.take n
  qIf (decide (l.length = n) && decide (n ≠ 0) && l.all (fun x => x.ok)) (qMerge (l.map (fun x => x.q ||| 0x80#8)))

/-- Longest history that a window needs, at 40 Hz and 19.2 kS/s. -/
def histLen : Nat := 480

/-! ### Frequency tracking (R130) -/

/-- Positive-sequence phasor of three histories in a group's rotation. -/
def posSeq (acb : Bool) (psi theta : Rat) (n : Nat) (h : List (List Smp)) : Cx :=
  let p := fun i => phasor 1 psi theta (nth h i) n
  let a := if acb then opA2 else opA
  let a2 := if acb then opA else opA2
  Cx.scale (1 / 3) (Cx.sum [p 0, a.mul (p 1), a2.mul (p 2)])

/-- Channel of a phase of a group. -/
def State.phaseCh (s : State) (g role : Nat) : Option Nat :=
  (List.range 16).find? (fun c => decide ((s.chan c).group = some g ∧ (s.chan c).role = role ∧ (s.chan c).kind ≠ 0))

/-- History of a group's three phases with one more sample each. -/
def State.groupHist (s : State) (g : Option Nat) (h : List (List Smp)) : List (List Smp) :=
  (List.range 3).map (fun i =>
    match g.bind (fun g => s.phaseCh g i) with
    | some c => (s.sample c false :: nth h i).take histLen
    | none => [])

/-- A measured frequency from two arguments n ticks apart. -/
def freqOf (ft : Rat) (fp n : Nat) (now before : Option Rat) : Option Rat :=
  match now, before with
  | some a, some b => some (ft + wrapDeg (a - b) / 360 * (fp : Rat) / (n : Rat))
  | _, _ => none

/-- Mean of a list. -/
def meanR (l : List Rat) : Rat := l.foldl (· + ·) 0 / (l.length : Rat)

/-- ft limited to 40-70 Hz. -/
def limitFt (f : Rat) : Rat := if f < 40 then 40 else if 70 < f then 70 else f

/-- Both sources have failed for 2 s: ft steps to fn and trk_lost sets (R130). -/
def Track.expire (t : Track) (fp fn : Nat) : Track :=
  if 2 * fp ≤ t.hold ∧ t.lost = false then { t with ft := fn, fm := [], lost := true, back := 0 } else t

/-- One tick of the tracked frequency (R128, R130). -/
def State.track (s : State) : Track :=
  let t := s.trk
  let fp := s.fp
  let psi := if t.run then t.psi + t.ft / (fp : Rat) else 0
  let psi := psi - (psi.floor : Rat)
  let th := t.ft / (fp : Rat)
  let nw := winFull fp t.ft
  let hv := s.groupHist s.sch.cfg.trkV (t.hist.take 3)
  let hi := s.groupHist s.sch.cfg.trkI ((t.hist.drop 3).take 3)
  let rot := fun g : Option Nat => decide ((g.map (fun g => (nth s.sch.cfg.groups g).rot)) = some 1)
  let ok := fun h : List (List Smp) => h.all (fun x => qBit (winQ x nw) 7)
  let v1 := posSeq (rot s.sch.cfg.trkV) psi th nw hv
  let i1 := posSeq (rot s.sch.cfg.trkI) psi th nw hi
  let av := if ok hv then some v1.arg else none
  let ai := if ok hi then some i1.arg else none
  let fv := if ok hv && decide ((s.sch.cfg.trkMin : Rat) / 100 ≤ v1.abs * root3) then freqOf t.ft fp nw av (t.argsV.getD (nw - 1) none) else none
  let fi := if ok hi && decide (1 / 10 ≤ i1.abs) then freqOf t.ft fp nw ai (t.argsI.getD (nw - 1) none) else none
  let f := match fv with
    | some x => some x
    | none => fi
  let t := { t with
    psi := psi, run := true, hist := hv ++ hi, argsV := (av :: t.argsV).take histLen, argsI := (ai :: t.argsI).take histLen,
    v1 := if ok hv then v1.abs * root3 else 0 }
  match f with
  | some x =>
    let fm := (x :: t.fm).take (3 * nw)
    let back := t.back + 1
    { t with fm := fm, ft := limitFt (meanR fm), hold := 0, back := back, lost := t.lost && decide (back < 3 * nw) }
  | none => Track.expire { t with hold := t.hold + 1, back := 0 } fp s.sch.cfg.fn

/-- TRACKING_LOST (R130). -/
def State.trackingLost (s : State) : State := { s with trk := s.trk.expire s.fp s.sch.cfg.fn }

/-! ### Estimators and sequence components (R129, R132) -/

/-- An estimator's tick; with ps_block set, a word that carries pilot_suspect is an invalid one (R125). Numbers kept: X1, X1h, X2 as (re, im); x; M_fs; RMS; |X1|; |X1h|; |X2|; the qualities of the full cycle, of the half cycle, and of the newest word. -/
def Env.estimator (v : Env) (c : InstCfg) (e : ElemSt) : ElemSt :=
  let ch := v.choice c 2
  let sef := decide (v.choice c 3 ≠ 0)
  let t := v.s.trk
  let fp := v.fp
  let nw := winFull fp t.ft
  let nh := winHalf fp t.ft
  let th := t.ft / (fp : Rat)
  let x0 := v.s.sample ch sef
  let hist := ({ x0 with ok := x0.ok && !(decide (v.choice c 1 ≠ 0) && qBit x0.q 4) } :: e.hist).take histLen
  let x1 := phasor 1 t.psi th hist nw
  let xh := phasor 1 t.psi th hist nh
  let x2 := phasor 2 t.psi th hist nw
  let rms := rmsOf hist nw
  let q1 := winQ hist nw
  let qh := winQ hist nh
  let q0 := match hist.head? with
    | some x => qIf x.ok x.q
    | none => 0
  { e with
    hist := hist, valid := qBit q1 7 && qBit qh 7,
    z := [x1.re, x1.im, xh.re, xh.im, x2.re, x2.im, (hist.head?.map (fun x => x.x)).getD 0, v.s.fullScale ch sef, rms, x1.abs, xh.abs, x2.abs,
      (q1.toNat : Rat), (qh.toNat : Rat), (q0.toNat : Rat)],
    own := [.ana { v := x1.abs, q := q1 }, .ana { v := x1.arg, q := q1 }, .ana { v := xh.abs, q := qh }, .ana { v := x2.abs, q := q1 }, .ana { v := rms, q := q1 }] }

/-- The record of the estimator or sequence element behind a reference. -/
def Env.source (v : Env) (r : Nat) : Option (InstCfg × ElemSt) :=
  match v.writer r with
  | some c => if c.kind = 1 ∨ c.kind = 2 then (v.record c.num).map (fun e => (c, e)) else none
  | none => none

/-- A quality kept as a number. -/
def qOf (r : Rat) : Byte := BitVec.ofNat 8 r.num.toNat

/-- A quantity: magnitude, quality, full-scale magnitude, overrange. -/
structure Quant where
  m : Rat
  q : Byte
  fs : Rat
  deriving DecidableEq, Repr, Inhabited

/-- The measured quantity of an estimator's channel (R133): 0 |X1|, 1 |X1h|, 2 RMS. A net that no estimator writes is read as the magnitude itself. -/
def Env.quant (v : Env) (meas r : Nat) : Quant :=
  match v.source r with
  | some (_, e) =>
    match meas with
    | 1 => { m := e.z.getD 10 0, q := v.seen r (qOf (e.z.getD 13 0)), fs := e.z.getD 7 0 }
    | 2 => { m := e.z.getD 8 0, q := v.seen r (qOf (e.z.getD 12 0)), fs := e.z.getD 7 0 }
    | _ => { m := e.z.getD 9 0, q := v.seen r (qOf (e.z.getD 12 0)), fs := e.z.getD 7 0 }
  | none => { m := (v.ana r).v, q := v.seen r (v.ana r).q, fs := 0 }

/-- The full-cycle phasor of an estimator and its quality. -/
def Env.phas (v : Env) (r : Nat) : Cx × Byte :=
  match v.source r with
  | some (_, e) => (cxAt e.z 0, v.seen r (qOf (e.z.getD 12 0)))
  | none => (⟨(v.ana r).v, 0⟩, v.seen r (v.ana r).q)

/-- Quality k of an estimator: 12 of the full cycle, 13 of the half cycle, 14 of the newest word. -/
def Env.estQ (v : Env) (r k : Nat) : Byte :=
  match v.source r with
  | some (_, e) => v.seen r (qOf (e.z.getD k 0))
  | none => v.seen r (v.ana r).q

/-- Channel of an estimator behind a reference, and its group. -/
def Env.chanOf (v : Env) (r : Nat) : Option Nat :=
  match v.source r with
  | some (c, _) => if c.kind = 1 then some (v.choice c 2) else none
  | none => none

/-- Measuring group of an estimator, or of a sequence element by its first phase. -/
def Env.groupOf (v : Env) (r : Nat) : Option Nat :=
  let own := fun x => (v.chanOf x).bind (fun c => (v.s.chan c).group)
  match v.source r with
  | some (c, _) => if c.kind = 2 then own (c.inp 0) else own r
  | none => none

/-- The group's rotation is ACB. -/
def Env.acb (v : Env) (r : Nat) : Bool :=
  match v.groupOf r with
  | some g => decide ((nth v.s.sch.cfg.groups g).rot = 1)
  | none => false

/-- Merged quality of the inputs of an element: invalid too where ps_block bars one of them (R122, R125). -/
def Env.merged (v : Env) (c : InstCfg) (l : List Byte) : Byte := qIf (!(decide (v.choice c 1 ≠ 0) && l.any (fun q => qBit q 4))) (qMerge l)

/-- A sequence element's tick; "3X0 measured" is published only with a residual channel (R132). Numbers kept: X0, X1, X2, 3X0h as (re, im); 3I0 RMS; the largest M_fs; the qualities of the full cycle and of the half cycle. -/
def Env.sequence (v : Env) (c : InstCfg) (e : ElemSt) : ElemSt :=
  let r := fun i => c.inp i
  let p := fun i => v.phas (r i)
  let zs := fun i => match v.source (r i) with
    | some (_, e) => e.z
    | none => []
  let acb := v.acb (r 0)
  let a := if acb then opA2 else opA
  let a2 := if acb then opA else opA2
  let q := v.merged c [(p 0).2, (p 1).2, (p 2).2]
  let qh := v.merged c ((List.range 3).map (fun i => v.estQ (r i) 13))
  let x0 := Cx.scale (1 / 3) (Cx.sum [(p 0).1, (p 1).1, (p 2).1])
  let x1 := Cx.scale (1 / 3) (Cx.sum [(p 0).1, a.mul (p 1).1, a2.mul (p 2).1])
  let x2 := Cx.scale (1 / 3) (Cx.sum [(p 0).1, a2.mul (p 1).1, a.mul (p 2).1])
  let h3 := Cx.sum ((List.range 3).map (fun i => cxAt (zs i) 1))
  let q0 := v.merged c ((List.range 3).map (fun i => v.estQ (r i) 14))
  let x : Smp := { x := ((List.range 3).map (fun i => (zs i).getD 6 0)).foldl (· + ·) 0, ok := qBit q0 7, q := q0 }
  let hist := (x :: e.hist).take histLen
  let nw := winFull v.fp v.s.trk.ft
  let rms := rmsOf hist nw
  let qr := winQ hist nw
  let fs := maxR ((List.range 3).map (fun i => (zs i).getD 7 0))
  let res := if r 3 = 0xFFFF then NetVal.absent else NetVal.ana { v := (v.quant 0 (r 3)).m, q := v.merged c [(v.quant 0 (r 3)).q] }
  { e with
    hist := hist, valid := qBit q 7 && qBit qh 7,
    z := [x0.re, x0.im, x1.re, x1.im, x2.re, x2.im, h3.re, h3.im, rms, fs, (q.toNat : Rat), (qh.toNat : Rat), (qr.toNat : Rat)],
    own := [.ana { v := x0.abs, q := q }, .ana { v := x0.arg, q := q }, .ana { v := x1.abs, q := q }, .ana { v := x1.arg, q := q },
      .ana { v := x2.abs, q := q }, .ana { v := x2.arg, q := q }, .ana { v := 3 * x0.abs, q := q }, res,
      .ana { v := h3.abs, q := qh }, .ana { v := rms, q := qr }] }

/-- A sequence component of the element behind a reference (0 zero, 1 positive, 2 negative), and its quality. -/
def Env.seqComp (v : Env) (k r : Nat) : Cx × Byte :=
  match v.source r with
  | some (_, e) => (cxAt e.z k, v.seen r (qOf (e.z.getD 10 0)))
  | none => (⟨(v.ana r).v, 0⟩, v.seen r (v.ana r).q)

/-- Calculated 3I0 of a sequence element by measured quantity (R132). -/
def Env.seqQuant (v : Env) (meas r : Nat) : Quant :=
  match v.source r with
  | some (_, e) =>
    let fs := e.z.getD 9 0
    match meas with
    | 1 => { m := (cxAt e.z 3).abs, q := v.seen r (qOf (e.z.getD 11 0)), fs := fs }
    | 2 => { m := e.z.getD 8 0, q := v.seen r (qOf (e.z.getD 12 0)), fs := fs }
    | _ => { m := 3 * (cxAt e.z 0).abs, q := v.seen r (qOf (e.z.getD 10 0)), fs := fs }
  | none => { m := (v.ana r).v, q := v.seen r (v.ana r).q, fs := 0 }

/-- Residual quantity: the estimator named first when there is one, otherwise the sequence element named second. -/
def Env.resQuant (v : Env) (meas est seq : Nat) : Quant := if est = 0xFFFF then v.seqQuant meas seq else v.quant meas est

/-- Residual phasor 3X0 and its quality, measured where an estimator is named, calculated otherwise (R143). -/
def Env.resPhas (v : Env) (est seq : Nat) : Cx × Byte :=
  if est = 0xFFFF then (Cx.scale 3 (v.seqComp 0 seq).1, (v.seqComp 0 seq).2) else v.phas est

/-! ### Invalid inputs (R123) -/

/-- An element in its initial state after inval_tmo: start, operate and its own binary outputs clear; its analogue outputs keep their values, and are invalid (R123). -/
def timedOut (reset : ElemSt → ElemSt) (e : ElemSt) : ElemSt :=
  let e := reset e
  { e with
    tout := true, started := false, operate := false,
    own := e.own.map (fun x => match x with
      | .bin _ => .bin false
      | x => x) }

/-- What an element does with a tick: with its inputs good its own work; otherwise it freezes, and resets when they stay bad for longer than inval_tmo. -/
def Env.guarded (v : Env) (c : InstCfg) (e : ElemSt) (ok : Bool) (reset work : ElemSt → ElemSt) : ElemSt :=
  if ok then { work { e with bad := 0, tout := false } with valid := true }
  else
    let bad := e.bad + 1
    let e := { e with bad := bad, valid := false }
    if !e.tout && v.exceeds bad (v.num c 0) then timedOut reset e else e

/-- ps_block of an instance. -/
def Env.ps (v : Env) (c : InstCfg) : Bool := decide (v.choice c 1 ≠ 0)

/-- INVALID_TIMEOUT (R123): an element whose inputs have been invalid for longer than inval_tmo is reset. -/
def Env.settleInvalid (v : Env) (c : InstCfg) (reset : ElemSt → ElemSt) (e : ElemSt) : ElemSt :=
  if e.valid = false ∧ e.tout = false ∧ v.exceeds e.bad (v.num c 0) = true then timedOut reset e else e

end Sys2Proof.Machine
end

