-- ==== Sys2Proof/Machine/Measure.lean ====
section
/-! DEFINITION. Measuring elements: overcurrent, directional, voltage, frequency, thermal, inrush, cold load (R133-R157). -/

namespace Sys2Proof.Machine

/-! ### Overcurrent timing (R133-R137) -/

/-- M to an exponent: exact for 1 and 2. -/
def powM (m p : Rat) : Rat := if p = 1 then m else if p = 2 then m * m else powR m p

/-- Linear interpolation between two points. -/
def lerp (a b : Rat × Rat) (x : Rat) : Rat := a.2 + (b.2 - a.2) * (x - a.1) / (b.1 - a.1)

/-- A table read at x: the first value below it, the last above it, between two points the function given. -/
def tableRead (f : Rat × Rat → Rat × Rat → Rat → Rat) : List (Rat × Rat) → Rat → Rat
  | [], _ => 0
  | [a], _ => a.2
  | a :: b :: r, x => if x ≤ a.1 then a.2 else if x < b.1 then f a b x else tableRead f (b :: r) x

/-- Interpolation linear in log M against log t (R137). -/
def logLerp (a b : Rat × Rat) (x : Rat) : Rat :=
  expR (lerp (lnR a.1, lnR a.2) (lnR b.1, lnR b.2) (lnR x))

/-- Setting words of an instance in the group in effect. -/
def Env.words (v : Env) (c : InstCfg) : List Word := c.sets.getD v.s.sch.group []

/-- t(M) in s (R134, R137). -/
def Env.opTime (v : Env) (c : InstCfg) (m : Rat) : Rat :=
  let tms := v.num c 4
  if v.choice c 3 = 8 then tms * tableRead logLerp (curvePts c.kind (v.words c)) m
  else
    let k := Config.curve (v.choice c 3)
    tms * (k.1 / (powM (min m 20) k.2.1 - 1) + k.2.2.1)

/-- tr(M) in s (R134, R136, R137). -/
def Env.resetTime (v : Env) (c : InstCfg) (m : Rat) : Rat :=
  let tms := v.num c 4
  if v.choice c 3 = 8 then tms * tableRead lerp (resetPts c.kind (v.words c)) m
  else tms * (Config.curve (v.choice c 3)).2.2.2 / (1 - m * m)

/-- M at which a stage starts (R135). -/
def Env.startLevel (v : Env) (c : InstCfg) : Rat :=
  match v.choice c 3 with
  | 0 => 1
  | 8 => ((curvePts c.kind (v.words c)).head?.map (fun p => p.1)).getD 1
  | _ => 11 / 10

/-- The definite time or the integrator of a started stage has run out: it operates (R127, R135). -/
def Env.ocDue (v : Env) (c : InstCfg) (e : ElemSt) : Bool :=
  if v.choice c 3 = 0 then v.reached e.count (v.num c 5) else decide (1 ≤ e.integ)

/-- DEFINITE_TIME_EXPIRY and CURVE_INTEGRATOR_FULL (R127, R135). -/
def Env.settleOc (v : Env) (c : InstCfg) (e : ElemSt) : ElemSt := { e with operate := e.operate || (e.started && v.ocDue c e) }

/-- RESET_TIME_EXPIRY (R136). -/
def Env.settleReset (v : Env) (c : InstCfg) (e : ElemSt) : ElemSt :=
  if e.started = false ∧ v.choice c 7 = 1 ∧ v.reached e.rcount (v.num c 8) then { e with integ := 0, count := 0 } else e

/-- Timing of a started stage for one tick at or above the start level; the integrator stays within 0.0 to 1.0 (R135, R141). -/
def Env.ocRun (v : Env) (c : InstCfg) (m : Rat) (e : ElemSt) : ElemSt :=
  let e := { e with started := true, rcount := 0, count := e.count + 1, shot := if e.started then e.shot + 1 else 1 }
  if v.choice c 3 = 0 then e
  else { e with integ := min 1 (e.integ + 1 / (v.fp : Rat) / max (v.opTime c m) (v.num c 6)) }

/-- A tick below drop-off by the reset mode (R136). -/
def Env.ocDrop (v : Env) (c : InstCfg) (m : Rat) (e : ElemSt) : ElemSt :=
  let e := { e with started := false, operate := false, rcount := e.rcount + 1, shot := 0 }
  match v.choice c 7 with
  | 0 => { e with integ := 0, count := 0 }
  | 1 => v.settleReset c e
  | _ =>
    let e := { e with count := 0 }
    if m < 1 then
      let tr := v.resetTime c m
      if tr ≤ 0 then { e with integ := 0, count := 0 } else { e with integ := max 0 (e.integ - 1 / (v.fp : Rat) / tr) }
    else e

/-- Word 3 of the record (R141): t(M) or T in µs. -/
def Env.ocTus (v : Env) (c : InstCfg) (started : Bool) (m : Rat) : Nat :=
  if !started then 0
  else if v.choice c 3 = 0 then min 0xFFFFFFFF (roundAway (v.num c 5 * 1000000)).toNat
  else if m ≤ 1 ∨ (v.choice c 3 = 8 ∧ m < v.startLevel c) then 0xFFFFFFFF
  else min 0xFFFFFFFF (roundAway (v.opTime c m * 1000000)).toNat

/-- The cold-load elements of a measuring group are active (R156). -/
def Env.coldActive (v : Env) (g : Option Nat) : Bool :=
  g.isSome && v.s.sch.cfg.insts.any (fun c => decide (c.kind = 0x10 ∧ v.groupOf (c.inp 2) = g) && (((v.record c.num).map (fun e => e.operate)).getD false))

/-- One tick of a stage over its phases: the measured values, the phases that may start, whether the stage is blocked (R133-R136, R139, R155, R156). A dependent reset goes by M as measured, whatever keeps the stage from starting (R136); shot counts started ticks for the record (R141). -/
def Env.ocTick (v : Env) (c : InstCfg) (qs : List Quant) (may : List Bool) (blocked cold : Bool) (e : ElemSt) : ElemSt :=
  let is_ := v.num c 2 * (if cold then v.num c 12 else 1)
  let again := e.started && !v.fresh e
  let mOf := fun q : Quant => if qBit q.q 5 ∧ c.kind ≠ 6 then max (q.m / is_) (q.fs / is_) else q.m / is_
  let all := qs.map mOf
  let ms := (List.range qs.length).map (fun i => if nth may i then nth all i else 0)
  let m := maxR ms
  let lvl := v.startLevel c
  let dr := v.num c 9
  let stop := blocked || (cold && decide (v.choice c 13 ≠ 0))
  let on := (List.range qs.length).map (fun i => !stop && (decide (lvl ≤ nth ms i) || (again && (nth e.ph i).on && decide (dr * lvl ≤ nth ms i))))
  let marks := if qs.length = 1 then 4 * b2n (nth on 0) else maskOf on
  let e := { e with ph := on.map (fun o => ({ on := o } : PhaseSt)), m := m, flags := marks + 8 * b2n cold, prev := [] }
  let e :=
    if stop then v.ocDrop c (maxR all) e
    else if lvl ≤ m then v.settleOc c (v.ocRun c m e)
    else if again ∧ dr * lvl ≤ m then { e with shot := e.shot + 1 }
    else v.ocDrop c (maxR all) e
  { e with tus := v.ocTus c e.started m }

/-- An overcurrent stage in its initial state. -/
def ocReset (e : ElemSt) : ElemSt := { e with started := false, operate := false, count := 0, rcount := 0, tcount := 0, integ := 0, shot := 0, ph := [], flags := 0, m := 0, tus := 0, z := [] }

/-! ### Directions read by stages (R139) -/

/-- The record of the directional element behind a reference. -/
def Env.dirOf (v : Env) (r : Nat) : Option ElemSt :=
  match v.writer r with
  | some c => if 7 ≤ c.kind ∧ c.kind ≤ 9 then v.record c.num else none
  | none => none

/-- Phases on which a stage may start: the set direction is reported. -/
def Env.dirMay (v : Env) (c : InstCfg) (r n : Nat) : List Bool :=
  match v.choice c 11 with
  | 0 => List.replicate n true
  | d =>
    match v.dirOf r with
    | some e => (List.range n).map (fun i => decide ((nth e.ph i).dir = d))
    | none => List.replicate n false

/-- The stage's directional element allows a judgement. -/
def Env.dirOk (v : Env) (c : InstCfg) (r : Nat) : Bool :=
  decide (v.choice c 11 = 0) || (match v.dirOf r with
    | some e => e.valid
    | none => true)

/-- A blocking reference that names an express asserted state belongs to zone-selective interlocking (R176). -/
def isXref (r : Nat) : Bool := decide (0x2000 ≤ r ∧ r < 0x3000 ∧ 80 ≤ r % 0x1000 ∧ r % 0x1000 < 336)

/-- Any of the blocking nets from an input on is 1 (R155, R167). -/
def Env.blocked (v : Env) (c : InstCfg) (i : Nat) : Bool := ((c.ins.drop i).filter (fun r => !isXref r)).any v.ref

/-! ### Stages -/

/-- Phase overcurrent (R133-R141): inputs a, b, c, directional element, per-phase blocks, blocks. -/
def Env.phaseOc (v : Env) (c : InstCfg) (e : ElemSt) : ElemSt :=
  let qs := (List.range 3).map (fun i => v.quant (v.choice c 10) (c.inp i))
  let ok := qs.all (fun q => v.good (v.ps c) q.q) && v.dirOk c (c.inp 3)
  let may := (List.range 3).map (fun i => nth (v.dirMay c (c.inp 3) 3) i && !v.ref (c.inp (4 + i)))
  v.guarded c e ok ocReset (v.ocTick c qs may (v.blocked c 7) (v.coldActive (v.groupOf (c.inp 0))))

/-- Earth overcurrent (R133, R139): inputs residual estimator, sequence element, directional element, blocks. -/
def Env.earthOc (v : Env) (c : InstCfg) (e : ElemSt) : ElemSt :=
  let q := v.resQuant (v.choice c 10) (c.inp 0) (c.inp 1)
  let ok := v.good (v.ps c) q.q && v.dirOk c (c.inp 2)
  let g := v.groupOf (if c.inp 0 = 0xFFFF then c.inp 1 else c.inp 0)
  v.guarded c e ok ocReset (v.ocTick c [q] (v.dirMay c (c.inp 2) 1) (v.blocked c 3) (v.coldActive g))

/-- Sensitive-earth overcurrent: inputs residual estimator, directional element, blocks. -/
def Env.sefOc (v : Env) (c : InstCfg) (e : ElemSt) : ElemSt :=
  let q := v.quant 0 (c.inp 0)
  let ok := v.good (v.ps c) q.q && v.dirOk c (c.inp 1)
  v.guarded c e ok ocReset (v.ocTick c [q] (v.dirMay c (c.inp 1) 1) (v.blocked c 2) (v.coldActive (v.groupOf (c.inp 0))))

/-- Negative-sequence overcurrent (R147): inputs sequence element, directional element, blocks. -/
def Env.npsOc (v : Env) (c : InstCfg) (e : ElemSt) : ElemSt :=
  let x2 := v.seqComp 2 (c.inp 0)
  let x1 := v.seqComp 1 (c.inp 0)
  let ratio := decide (v.choice c 14 ≠ 0)
  let m := if ratio then x2.1.abs / x1.1.abs else x2.1.abs
  let q : Quant := { m := m, q := x2.2, fs := 0 }
  let ok := v.good (v.ps c) q.q && v.dirOk c (c.inp 1)
  let may := if ratio && decide (x1.1.abs < 1 / 10) then [false] else v.dirMay c (c.inp 1) 1
  v.guarded c e ok ocReset (v.ocTick c [q] may (v.blocked c 2) (v.coldActive (v.groupOf (c.inp 0))))

/-! ### Zone-selective stage (R176, R177) -/

/-- Express codes of the named blocking groups. -/
def InstCfg.zsiCodes (c : InstCfg) : List Nat := ((c.ins.drop 7).filter isXref).map (fun r => r % 0x1000 - 80)

/-- A source is unreachable. -/
def State.srcLost (s : State) (addr : Nat) : Bool := decide (addr ≠ s.chn.addr) && !(lookupD s.chn.src addr {}).present

/-- The interlock lets a zone-selective stage operate: t_zsi has elapsed, and no named group was asserted within the window (R176); with a source lost and src_lost = block, T must have elapsed too (R177). -/
def Env.zsiFree (v : Env) (c : InstCfg) (e : ElemSt) : Bool :=
  let lost := c.zsiCodes.any (fun x => v.s.srcLost (x / 4)) && decide (v.choice c 15 = 1)
  v.reached e.count (v.num c 14) && decide (e.tcount = 0) && (!lost || v.reached e.count (v.num c 5))

/-- ZSI_TIME_EXPIRY (R176). -/
def Env.settleZsi (v : Env) (c : InstCfg) (e : ElemSt) : ElemSt :=
  { e with operate := e.operate || (e.started && v.ocDue c e && v.zsiFree c e) }

/-- Zone-selective stage: the tick of a phase stage, whose operate the interlock decides. z holds per named group the ticks for which its latest assertion still blocks, none for a lost source with src_lost = trip, and tcount the largest of them; prev the sources reported lost. -/
def Env.zsi (v : Env) (c : InstCfg) (e : ElemSt) : ElemSt :=
  let codes := c.zsiCodes
  let wins := (List.range codes.length).map (fun i =>
    let x := nth codes i
    if v.s.srcLost (x / 4) && decide (v.choice c 15 = 0) then (0 : Rat)
    else if x ∈ v.s.fst.netX then ((v.fp / 100 : Nat) : Rat)
    else max 0 (e.z.getD i 0 - 1))
  let win := (maxR wins).num.toNat
  let told := (List.range codes.length).map (fun i => nth e.prev i || v.s.srcLost (nth codes i / 4))
  let was := e.operate
  let e := v.phaseOc c e
  let e := { e with tcount := win, prev := told, z := wins }
  if e.valid then v.settleZsi c { e with operate := was && e.started } else e

/-- The first instance of the scheme that names a source, and its first group of that source: where the source's loss is told (R177). -/
def Env.tells (v : Env) (c : InstCfg) (i : Nat) : Bool :=
  let a := nth c.zsiCodes i / 4
  let names := fun (k : InstCfg) => decide (k.kind = 0x16) && k.zsiCodes.any (fun x => decide (x / 4 = a))
  decide ((v.s.sch.cfg.insts.find? names).map (fun k => k.num) = some c.num) && decide (c.zsiCodes.findIdx? (fun x => decide (x / 4 = a)) = some i)

/-- ZSI_SOURCE_LOST events of a tick, once per source: sources newly lost (R177). -/
def Env.zsiEvents (v : Env) (c : InstCfg) (old new : ElemSt) : List Ev :=
  (List.range new.prev.length).filterMap (fun i =>
    if nth new.prev i && !nth old.prev i && v.tells c i then some { code := 0x00A4, sev := 1, body := [] } else none)

/-! ### Directional elements (R142-R146) -/

/-- Direction by sector (R142): 1 forward, 2 reverse, 0 unknown. -/
def sector (delta hw : Rat) : Nat := if absR delta ≤ hw then 1 else if absR (wrapDeg (delta - 180)) ≤ hw then 2 else 0

/-- δ of a current against a polarising voltage. -/
def deltaOf (i vpol : Cx) (rca : Rat) : Rat := wrapDeg (i.arg - vpol.arg + rca)

/-- Memory has run out after t_mem (R144). -/
def Env.memSpent (v : Env) (c : InstCfg) (e : ElemSt) : Bool := v.reached e.tcount (v.num c 6)

/-- Outputs of a directional element: fwd per phase, rev per phase, δ per phase. -/
def dirOwn (ph : List PhaseSt) (q : Byte) : List NetVal :=
  ph.map (fun p => NetVal.bin (decide (p.dir = 1))) ++ ph.map (fun p => NetVal.bin (decide (p.dir = 2))) ++ ph.map (fun p => NetVal.ana { v := p.num, q := q })

/-- Quality of the last analogue output kept. -/
def ownQ (l : List NetVal) : Byte :=
  match l.getLast? with
  | some (.ana n) => n.q
  | _ => 0

/-- DIRECTIONAL_MEMORY_EXPIRY (R144): every phase becomes unknown, or forward with no_pol = forward where a phase was judged. -/
def Env.settleMemory (v : Env) (c : InstCfg) (e : ElemSt) : ElemSt :=
  if e.mode = 1 ∧ v.memSpent c e then
    let ph := e.ph.map (fun p => { p with dir := if v.choice c 7 = 1 ∧ p.on then 1 else 0 })
    { e with mode := 2, ph := ph, own := dirOwn ph (ownQ e.own) }
  else e

/-- Phase directional element: inputs Ia, Ib, Ic, Va, Vb, Vc. mode 0 live, 1 memory, 2 none; hists keep V1 (re, im, magnitude); z the memory phasor. -/
def Env.dirPhase (v : Env) (c : InstCfg) (e : ElemSt) : ElemSt :=
  let i := fun k => v.phas (c.inp k)
  let u := fun k => (v.phas (c.inp (3 + k))).1
  let qs := (List.range 6).map (fun k => (v.phas (c.inp k)).2)
  let ok := qs.all (v.good (v.ps c))
  let acb := v.acb (c.inp 3)
  let a := if acb then opA2 else opA
  let a2 := if acb then opA else opA2
  let nw := winFull v.fp v.s.trk.ft
  v.guarded c e ok (fun e => { e with ph := [], mode := 0, tcount := 0, hists := [], z := [] }) (fun e =>
    let j : Cx := ⟨0, 1⟩
    let live := [j.mul ((u 1).sub (u 2)), j.mul ((u 2).sub (u 0)), j.mul ((u 0).sub (u 1))]
    let v1 := Cx.scale (1 / 3) (Cx.sum [u 0, a.mul (u 1), a2.mul (u 2)])
    let low := live.any (fun x => decide (x.abs < v.num c 5))
    let old := nth e.hists 2
    let avail := decide (nw ≤ old.length) && (old.take nw).all (fun m => decide (7 / 10 ≤ m))
    let mem0 : Cx := ⟨(nth e.hists 0).getD (nw - 1) 0, (nth e.hists 1).getD (nw - 1) 0⟩
    let e :=
      if !low then { e with mode := 0, tcount := 0 }
      else if e.mode = 0 then (if avail then { e with mode := 1, tcount := 1, z := [mem0.re, mem0.im] } else { e with mode := 2, tcount := 0 })
      else { e with tcount := e.tcount + 1 }
    let e := if e.mode = 1 ∧ v.memSpent c e then { e with mode := 2 } else e
    let m := Cx.scale (if acb then -root3 else root3) (cxAt e.z 0)
    let pol := match e.mode with
      | 0 => live
      | _ => [m, a2.mul m, a.mul m]
    let ph := (List.range 3).map (fun k =>
      let d := deltaOf (i k).1 (nth pol k) (v.num c 2)
      let strong := decide (v.num c 4 ≤ (i k).1.abs)
      let dir := if !strong then 0 else if e.mode = 2 then (if v.choice c 7 = 1 then 1 else 0) else sector d (v.num c 3)
      ({ on := strong, dir := dir, num := d } : PhaseSt))
    let keep := fun (l : List Rat) (x : Rat) => (x :: l).take histLen
    { e with
      ph := ph, own := dirOwn ph (qMerge qs),
      hists := [keep (nth e.hists 0) v1.re, keep (nth e.hists 1) v1.im, keep old (v1.abs * root3)] })

/-- A single-quantity directional element: current and polarising voltage with their qualities. -/
def Env.dirOne (v : Env) (c : InstCfg) (e : ElemSt) (i u : Cx × Byte) : ElemSt :=
  v.guarded c e (v.good (v.ps c) i.2 && v.good (v.ps c) u.2) (fun e => { e with ph := [] }) (fun e =>
    let pol := Cx.scale (-1) u.1
    let d := deltaOf i.1 pol (v.num c 2)
    let judged := decide (v.num c 4 ≤ i.1.abs) && decide (v.num c 5 ≤ u.1.abs * root3)
    let ph := [({ dir := if judged then sector d (v.num c 3) else 0, num := d } : PhaseSt)]
    { e with ph := ph, own := dirOwn ph (qMerge [i.2, u.2]) })

/-- Earth directional element: inputs residual current, current sequence, residual voltage, voltage sequence. -/
def Env.dirEarth (v : Env) (c : InstCfg) (e : ElemSt) : ElemSt := v.dirOne c e (v.resPhas (c.inp 0) (c.inp 1)) (v.resPhas (c.inp 2) (c.inp 3))

/-- Negative-sequence directional element: inputs current sequence, voltage sequence. -/
def Env.dirNps (v : Env) (c : InstCfg) (e : ElemSt) : ElemSt := v.dirOne c e (v.seqComp 2 (c.inp 0)) (v.seqComp 2 (c.inp 1))

/-! ### Voltage stages (R148, R149) -/

/-- A voltage to be judged: value in Un, full-scale value, overrange. -/
structure Volt where
  u : Rat
  fs : Rat
  ovr : Bool
  deriving DecidableEq, Repr, Inhabited

/-- The watched voltages (R148): 0 phase to phase, 1 phase to earth, 2 positive sequence. -/
def Env.watched (v : Env) (c : InstCfg) (sel : Nat) : List Volt :=
  let p := fun i => (v.phas (c.inp i)).1
  let fs := fun i => (v.quant 0 (c.inp i)).fs
  let ov := fun i => qBit (v.phas (c.inp i)).2 5
  match sel with
  | 0 => [(0, 1), (1, 2), (2, 0)].map (fun x => { u := ((p x.1).sub (p x.2)).abs, fs := max (fs x.1) (fs x.2), ovr := ov x.1 || ov x.2 })
  | 1 => (List.range 3).map (fun i => { u := (p i).abs * root3, fs := fs i * root3, ovr := ov i })
  | _ =>
    let a := if v.acb (c.inp 0) then opA2 else opA
    let x := Cx.scale (1 / 3) (Cx.sum [p 0, a.mul (p 1), (a.mul a).mul (p 2)])
    [{ u := x.abs * root3, fs := maxR ((List.range 3).map fs) * root3, ovr := (List.range 3).any ov }]

/-- Timing of a voltage stage for one tick: definite time, or the integral of 1 / t. -/
def Env.voltRun (v : Env) (inv : Bool) (t excess : Rat) (e : ElemSt) : ElemSt :=
  let e := { e with started := true, count := e.count + 1 }
  if inv then
    let e := { e with integ := if t = 0 then 1 else e.integ + 1 / (v.fp : Rat) / (t / max excess (1 / 100)) }
    { e with operate := e.operate || decide (1 ≤ e.integ) }
  else { e with operate := e.operate || v.reached e.count t }

/-- A tick of a started voltage stage within its drop-off band: a definite time counts on (R127), an integral holds (R135). -/
def Env.voltHold (v : Env) (inv : Bool) (t : Rat) (e : ElemSt) : ElemSt :=
  let e := { e with count := e.count + 1 }
  if inv then e else { e with operate := e.operate || v.reached e.count t }

/-- A voltage stage off: timing cleared. -/
def voltReset (e : ElemSt) : ElemSt := { e with started := false, operate := false, count := 0, integ := 0, ph := [], flags := 0, m := 0 }

/-- Undervoltage and overvoltage (R148): inputs a, b, c, block net. -/
def Env.volt (v : Env) (c : InstCfg) (e : ElemSt) : ElemSt :=
  let under := decide (c.kind = 0x0A)
  let k := if under then 7 else 6
  let qs := (List.range 3).map (fun i => (v.phas (c.inp i)).2)
  v.guarded c e (qs.all (v.good (v.ps c))) voltReset (fun e =>
    let w := v.watched c (v.choice c k)
    let us := v.num c 2
    let all := decide (v.choice c (k + 1) ≠ 0)
    let eff := fun x : Volt => if x.ovr && !under then max x.u x.fs else x.u
    let hit := fun x : Volt => if under then !x.ovr && decide (eff x ≤ us) else decide (us ≤ eff x)
    let stay := fun x : Volt => if under then !x.ovr && decide (eff x ≤ us * v.num c 5) else decide (us * v.num c 5 ≤ eff x)
    let test := fun f : Volt → Bool => if all then w.all f else w.any f
    let again := e.started && !v.fresh e
    let dead := under && w.all (fun x => !x.ovr && decide (eff x < v.num c 6))
    let go := test hit && (again || !dead)
    let excess := maxR ((w.filter (fun x => !under || !x.ovr)).map (fun x => if under then 1 - eff x / us else eff x / us - 1))
    let e := { e with ph := w.map (fun x => ({ on := hit x } : PhaseSt)), flags := maskOf (w.map hit), m := maxR (w.map eff) }
    if v.ref (c.inp 3) then voltReset e
    else if go then v.voltRun (decide (v.choice c 3 = 1)) (v.num c 4) excess e
    else if again && test stay then v.voltHold (decide (v.choice c 3 = 1)) (v.num c 4) e
    else voltReset e)

/-- Residual overvoltage (R149): inputs residual estimator, sequence element, block net. -/
def Env.resVolt (v : Env) (c : InstCfg) (e : ElemSt) : ElemSt :=
  let q := v.resQuant 0 (c.inp 0) (c.inp 1)
  v.guarded c e (v.good (v.ps c) q.q) voltReset (fun e =>
    let u := (if qBit q.q 5 then max q.m q.fs else q.m) * root3
    let e := { e with m := u }
    if v.ref (c.inp 2) then voltReset e
    else if v.num c 2 ≤ u then v.voltRun false (v.num c 3) 0 e
    else if e.started ∧ v.fresh e = false ∧ v.num c 2 * (95 / 100) ≤ u then v.voltHold false (v.num c 3) e
    else voltReset e)

/-! ### Frequency and rate of change (R150, R151) -/

/-- A started condition with hysteresis and a definite time: state, and whether it operates. -/
def Env.timed (v : Env) (p : PhaseSt) (hit stay : Bool) (t : Rat) : PhaseSt :=
  if hit ∨ (p.on ∧ stay) then
    let n := p.cnt + 1
    { p with on := true, cnt := n, hold := b2n (decide (p.hold = 1) || v.reached n t) }
  else {}

/-- Frequency element: input block net. ph 0 is the frequency stage, ph 1 the rate-of-change stage; hold 1 is operate. -/
def Env.freq (v : Env) (c : InstCfg) (e : ElemSt) : ElemSt :=
  let t := v.s.trk
  let ok := !t.lost && decide (v.num c 6 ≤ t.v1)
  let w := (roundAway (v.num c 7)).toNat * winFull v.fp t.ft
  let hist := (t.ft :: nth e.hists 0).take (100 * histLen + 1)
  let e := { e with hists := [hist] }
  v.guarded c e ok (fun e => { e with ph := [], count := 0 }) (fun e =>
    let f := t.ft
    let old := fun k => let p : PhaseSt := nth e.ph k; { p with on := p.on && !v.fresh e }
    let fs := v.num c 3
    let up := decide (v.choice c 2 = 0)
    let p0 := v.timed (old 0) (if up then decide (fs ≤ f) else decide (f ≤ fs)) (if up then decide (fs - v.num c 4 < f) else decide (f < fs + v.num c 4)) (v.num c 5)
    let rate := match hist[w]? with
      | some o => (f - o) * (v.fp : Rat) / (w : Rat)
      | none => 0
    let sense := fun k : Rat => match v.choice c 8 with
      | 0 => decide (k ≤ rate)
      | 1 => decide (rate ≤ -k)
      | _ => decide (k ≤ absR rate)
    let p1 := v.timed (old 1) (sense (v.num c 9)) (sense (v.num c 9 * (9 / 10))) (v.num c 10)
    let blk := v.ref (c.inp 0)
    let ph := if blk then [{}, {}] else [p0, p1]
    { e with
      ph := ph, m := rate, started := ph.any (fun p => p.on), operate := ph.any (fun p => decide (p.hold = 1)),
      own := ph.flatMap (fun p => [NetVal.bin p.on, NetVal.bin (decide (p.hold = 1))]) })

/-! ### Thermal overload (R152-R154) -/

/-- Thermal element: inputs a, b, c. integ is θ. -/
def Env.thermal (v : Env) (c : InstCfg) (e : ElemSt) : ElemSt :=
  let qs := (List.range 3).map (fun i => v.quant 2 (c.inp i))
  v.guarded c e (qs.all (fun q => v.good (v.ps c) q.q)) id (fun e =>
    let i := maxR (qs.map (fun q => if qBit q.q 5 then max q.m q.fs else q.m))
    let ib := v.num c 2
    let tau := v.num c 4 * 60 * (if ib / 10 ≤ i then 1 else v.num c 5)
    let r := i / (v.num c 3 * ib)
    let th := e.integ + 1 / ((v.fp : Rat) * tau) * (r * r - e.integ)
    { e with
      integ := th, m := i, started := decide (v.num c 6 ≤ th), operate := decide (1 ≤ th) || (e.operate && decide (v.num c 7 ≤ th)),
      own := [.ana { v := th, q := qMerge (qs.map (fun q => q.q)) }, .bin (decide (v.num c 6 ≤ th))] })

/-! ### Inrush restraint (R155) -/

/-- A phase blocks: in its first cycle (cnt ticks left), or on its ratio. -/
def inrushOn (p : PhaseSt) : Bool := p.on || decide (p.cnt ≠ 0)

/-- Outputs of an inrush element: the block net with cross-block, or one net per phase. -/
def inrushOwn (perPhase : Bool) (ph : List PhaseSt) : List NetVal :=
  NetVal.bin (!perPhase && ph.any inrushOn) :: ph.map (fun p => NetVal.bin (perPhase && inrushOn p))

/-- t_hold has elapsed since the ratio fell below 0.9 · r_set: the phase stops blocking on its ratio (R155). -/
def Env.holdSpent (v : Env) (c : InstCfg) (p : PhaseSt) : PhaseSt :=
  if p.on ∧ p.hold ≠ 0 ∧ v.reached p.hold (v.num c 5) then { p with on := false, hold := 0 } else p

/-- One phase of the inrush element: r, |X1|, |X1h|, overrange, full cycle. -/
def Env.inrushPhase (v : Env) (c : InstCfg) (nw : Nat) (z : List Rat) (p : PhaseSt) : PhaseSt :=
  let x1 := z.getD 9 0
  let xh := z.getD 10 0
  let r := z.getD 11 0 / x1
  let ov := qBit (qOf (z.getD 12 0)) 5
  let rs := v.num c 2 / 100
  let imin := v.num c 3
  let inb := decide (imin ≤ x1) && decide (x1 ≤ v.num c 4) && !ov
  let reach := decide (imin ≤ x1) || decide (imin ≤ xh)
  let first := if reach && decide (nw ≤ p.below) then nw else p.cnt - 1
  let below := if reach then 0 else min nw (p.below + 1)
  let p :=
    if !inb then { p with on := false, hold := 0 }
    else if rs ≤ r then { p with on := true, hold := 0 }
    else if p.on ∧ r < rs * (9 / 10) then v.holdSpent c { p with hold := p.hold + 1 }
    else if p.on then { p with hold := 0 }
    else p
  { p with cnt := first, below := below }

/-- Inrush element: inputs a, b, c. -/
def Env.inrush (v : Env) (c : InstCfg) (e : ElemSt) : ElemSt :=
  let zs := (List.range 3).map (fun i => match v.source (c.inp i) with
    | some (_, x) => x.z
    | none => [])
  let ok := (List.range 3).all (fun i => v.good (v.ps c) (v.estQ (c.inp i) 12))
  v.guarded c e ok (fun e => { e with ph := [] }) (fun e =>
    let ph := (List.range 3).map (fun i => v.inrushPhase c (winFull v.fp v.s.trk.ft) (nth zs i) (nth e.ph i))
    { e with ph := ph, started := ph.any inrushOn, operate := false, own := inrushOwn (decide (v.choice c 6 = 1)) ph })

/-- INRUSH_HOLD_EXPIRY (R155): the first cycle or t_hold has ended for a phase. -/
def Env.settleInrush (v : Env) (c : InstCfg) (i : Nat) (e : ElemSt) : ElemSt :=
  let ph := modNth e.ph i (fun p => let p := v.holdSpent c p; if p.cnt = 1 then { p with cnt := 0 } else p)
  { e with ph := ph, started := ph.any inrushOn, own := inrushOwn (decide (v.choice c 6 = 1)) ph }

/-! ### Cold-load pickup (R156) -/

/-- COLD_LOAD_ARM (R156): open for t_cold. -/
def Env.settleArm (v : Env) (c : InstCfg) (e : ElemSt) : ElemSt :=
  if e.mode = 0 ∧ e.count ≠ 0 ∧ v.reached e.count (v.num c 2) then { e with mode := 1, started := true } else e

/-- COLD_LOAD_ACTIVE_END (R156): t_clp, or t_fast below r_clp, has elapsed. -/
def Env.settleCold (v : Env) (c : InstCfg) (e : ElemSt) : ElemSt :=
  if e.mode = 2 ∧ (v.reached e.tcount (v.num c 3) ∨ (e.rcount ≠ 0 ∧ v.reached e.rcount (v.num c 5))) then
    { e with mode := 0, tcount := 0, rcount := 0, started := false, operate := false }
  else e

/-- Cold-load element: inputs open, closed, a, b, c. mode 0 idle, 1 armed, 2 active; count is the open time, tcount the active time, rcount the time below r_clp. -/
def Env.coldLoad (v : Env) (c : InstCfg) (e : ElemSt) : ElemSt :=
  let qs := (List.range 3).map (fun i => v.quant 0 (c.inp (2 + i)))
  let named := decide (c.inp 0 ≠ 0xFFFF)
  v.guarded c e (qs.all (fun q => v.good (v.ps c) q.q)) (fun e => { e with mode := 0, count := 0, tcount := 0, rcount := 0 }) (fun e =>
    let isOpen := if named then v.ref (c.inp 0) else qs.all (fun q => decide (q.m < 5 / 100))
    let closed := if named && decide (c.inp 1 ≠ 0xFFFF) then v.ref (c.inp 1) else !isOpen
    let e := { e with count := if isOpen then e.count + 1 else 0 }
    let low := qs.all (fun q => decide (q.m < v.num c 4))
    match e.mode with
    | 0 => v.settleArm c e
    | 1 => if closed then v.settleCold c { e with mode := 2, tcount := 1, rcount := b2n low, operate := true } else e
    | _ =>
      if isOpen ∧ named then { e with mode := 0, tcount := 0, rcount := 0, started := false, operate := false }
      else v.settleCold c { e with tcount := e.tcount + 1, rcount := if low then e.rcount + 1 else 0 })

end Sys2Proof.Machine
end

