-- ==== Sys2Proof/Machine/Functions.lean ====
section
/-! DEFINITION. Scheme functions: trip logic, lockout, breaker failure, autoreclose, differential zone, locators, synchrocheck, supervision, wear and the logic fabric (R158-R185). -/

namespace Sys2Proof.Machine

/-! ### Trip logic and lockout (R160, R161) -/

/-- The trip net may clear: no input, t_min over, and the current gone or the breaker open when sealed in. -/
def Env.tripClear (v : Env) (c : InstCfg) (anyIn cd opened : Bool) (e : ElemSt) : Bool :=
  !anyIn && v.reached e.count (v.num c 2) && (decide (v.choice c 3 = 0) || !cd || opened)

/-- A net that an earth or sensitive-earth stage writes (R167). -/
def Env.earthNet (v : Env) (r : Nat) : Bool :=
  decide (r ≠ 0xFFFF) && v.s.sch.cfg.insts.any (fun k => decide (k.kind = 0x04 ∨ k.kind = 0x05) && k.outs.contains (r % 0x8000))

/-- Trip logic: inputs breaker open, current detector, then the operate nets. own: a trip-and-reclose input, a trip-and-lockout input, earth inputs only. -/
def Env.tripLogic (v : Env) (c : InstCfg) (e : ElemSt) : ElemSt :=
  let ins := (c.ins.drop 2).map v.ref
  let mark := fun i => v.choice c (4 + i)
  let cd := v.ref (c.inp 1)
  let opened := v.ref (c.inp 0)
  let anyIn := ins.any id
  let trip := anyIn || (e.operate && !v.tripClear c anyIn cd opened { e with count := e.count + 1 })
  let count := if !trip then 0 else if e.operate then e.count + 1 else 1
  let on := fun k => (List.range ins.length).any (fun i => nth ins i && decide (mark i = k))
  let earth := anyIn && (List.range ins.length).all (fun i => !nth ins i || v.earthNet (c.inp (2 + i)))
  let sealed := trip && !anyIn && cd && !opened && decide (v.choice c 3 ≠ 0)
  let run := trip && !v.reached count (v.num c 2)
  let lock := v.s.pe.els.any (fun x => decide (x.num ≠ e.num) && x.operate && v.s.sch.cfg.insts.any (fun k => decide (k.num = x.num ∧ k.kind = 0x12) && k.ins.any (fun r => decide (r ≠ 0xFFFF) && c.outs.contains (r % 0x8000))))
  { e with
    valid := true, started := anyIn, operate := trip, count := count,
    flags := b2n trip + 2 * b2n sealed + 4 * b2n run + 8 * b2n lock,
    own := [.bin (on 2), .bin (on 1), .bin earth] }

/-- TRIP_MIN_PULSE_EXPIRY (R160): t_min has elapsed, so the trip net clears when nothing else holds it. -/
def Env.settleTrip (v : Env) (c : InstCfg) (e : ElemSt) : ElemSt :=
  let ins := (c.ins.drop 2).map v.ref
  if e.operate ∧ v.tripClear c (ins.any id) (v.ref (c.inp 1)) (v.ref (c.inp 0)) e then { e with operate := false, count := 0, flags := e.flags / 8 * 8 } else e

/-- A set-reset memory: value after this tick's inputs; a tie goes to `setWins`. -/
def latchNext (setWins q st rs : Bool) : Bool := if st && rs then setWins else if st then true else if rs then false else q

/-- Lockout latch: inputs trip-and-lockout, autoreclose lockout, reset. own: close-block. -/
def Env.lockout (v : Env) (c : InstCfg) (e : ElemSt) : ElemSt :=
  let tl := v.ref (c.inp 0)
  let ar := v.ref (c.inp 1)
  let rs := v.ref (c.inp 2)
  let rise := rs && !nth e.prev 2
  let q := latchNext true e.operate (tl || (ar && !nth e.prev 1)) (rise && !tl)
  { e with valid := true, operate := q, prev := [tl, ar, rs], own := [.bin q] }

/-- A lockout latch belongs to an instance: it reads one of the instance's nets as the autoreclose's lockout, or the instance reads the latch's net (R161). -/
def latchOf (c : InstCfg) (i : Nat) (k : InstCfg) : Bool :=
  let of := fun (x : InstCfg) (r : Nat) => decide (r ≠ 0xFFFF) && x.outs.contains (r % 0x8000)
  decide (k.kind = 0x12) && (of c (k.inp 1) || of k (c.inp i))

/-- The breaker is locked out (R161, R185): the net that the instance reads, or a latch of its breaker by its inputs of this tick, whether its own turn has come or not. -/
def Env.lockedOut (v : Env) (c : InstCfg) (i : Nat) : Bool :=
  v.ref (c.inp i) || v.s.sch.cfg.insts.any (fun k => latchOf c i k && (match v.record k.num with
    | some e => (v.lockout k e).operate
    | none => false))

/-! ### Breaker failure (R162-R164) -/

/-- Signs differ between successive samples of a window. -/
def signChange : List Smp → Bool
  | a :: b :: r => (decide (a.x < 0) != decide (b.x < 0)) || signChange (b :: r)
  | _ => false

/-- The current detector of one phase (R163): the largest value over the last Nh ticks, and a change of sign at one of them; an invalid newest word leaves it as it was. -/
def detector (hist : List Smp) (nh : Nat) (thr : Rat) (was : Bool) : Bool :=
  match hist with
  | [] => was
  | x :: _ =>
    if x.ok then
      let w := fun n => (hist.take n).filter (fun y => y.ok)
      (w nh).any (fun y => qBit y.q 5 || decide (2 * thr * thr ≤ y.x * y.x)) && signChange (w (nh + 1))
    else was

/-- The failure condition by mode (R162): 0 current, 1 contact, 2 either. -/
def bfCond (mode : Nat) (cd closed : Bool) : Bool :=
  match mode with
  | 0 => cd
  | 1 => closed
  | _ => cd || closed

/-- The timers of breaker failure at their present count: retrip at t1, bf_trip at t2, while the condition holds (R162). -/
def Env.settleBf (v : Env) (c : InstCfg) (e : ElemSt) : ElemSt :=
  if e.started ∧ e.count ≠ 0 then
    let r := v.reached e.count (v.num c 4)
    let t := v.reached e.count (v.num c 5)
    let retrip := e.shot = 1 || r
    { e with shot := b2n retrip, operate := e.operate || t }
  else e

/-- Outputs of a breaker-failure element: retrip, current detector. -/
def bfOwn (e : ElemSt) : ElemSt :=
  let cd := e.ph.any (fun p => p.on)
  { e with flags := b2n cd + 2 * b2n (decide (e.shot = 1)) + 4 * b2n e.operate + 8 * b2n (decide (e.mode = 1)), own := [.bin (decide (e.shot = 1)), .bin cd] }

/-- Breaker failure: inputs start, closed, a, b, c, residual. shot is retrip, mode 1 that the contact is used. -/
def Env.breakerFail (v : Env) (c : InstCfg) (e : ElemSt) : ElemSt :=
  let md := v.choice c 6
  let hs := (List.range 4).map (fun i => match v.source (c.inp (2 + i)) with
    | some (_, x) => x.hist
    | none => [])
  let q := (List.range 4).map (fun i => match v.source (c.inp (2 + i)) with
    | some _ => v.good (v.ps c) (v.estQ (c.inp (2 + i)) 14)
    | none => true)
  let st := v.ref (c.inp 0)
  let rise := st && !nth e.prev 0
  let closed := v.ref (c.inp 1)
  let nh := winHalf v.fp v.s.trk.ft
  let ok := decide (md = 1) || q.all id
  let e := { e with prev := [st] }
  bfOwn (v.guarded c e ok (fun e => { e with count := 0, shot := 0, ph := [], mode := 0 }) (fun e =>
    let ph := (List.range 4).map (fun i =>
      ({ on := nth q i && detector (nth hs i) nh (if i = 3 then v.num c 3 else v.num c 2) (nth e.ph i).on || (!nth q i && (nth e.ph i).on) } : PhaseSt))
    let cd := ph.any (fun p => p.on)
    let cond := bfCond md cd closed
    let e := { e with ph := ph, mode := b2n (decide (md = 1) || (decide (md = 2) && !cd && closed)) }
    let on := (e.started || rise) && cond
    if !on then { e with started := false, operate := false, count := 0, shot := 0 }
    else v.settleBf c { e with started := true, count := if e.started then e.count + 1 else 1 }))

/-! ### Autoreclose (R165-R168) -/

/-- Codes of the states (R168). -/
def arNotReady : Nat := 0
def arReady : Nat := 1
def arInit : Nat := 2
def arDead : Nat := 3
def arSyncWait : Nat := 4
def arClosing : Nat := 5
def arReclaim : Nat := 6
def arLockout : Nat := 7

/-- An autoreclose enters a state: its timer starts, with the entry's tick as n = 1 (R127); every entry into READY sets the shot counter to 0. -/
def arEnter (st : Nat) (e : ElemSt) : ElemSt :=
  { e with mode := st, count := 1, shot := if st = arReady then 0 else if st = arDead then e.shot + 1 else e.shot }

/-- The dead time of the shot at hand; ph 0 tells whether earth stages alone initiated (R167). -/
def Env.deadTime (v : Env) (c : InstCfg) (e : ElemSt) : Rat := v.num c ((if (nth e.ph 0).on then 7 else 3) + (e.shot - 1))

/-- Time of the running timer of a state. -/
def Env.arTime (v : Env) (c : InstCfg) (e : ElemSt) : Rat :=
  match e.mode with
  | 0 => v.num c 11
  | 2 => v.num c 13
  | 3 => v.deadTime c e
  | 4 => v.num c 18
  | 5 => v.num c 12
  | 6 => v.num c 11
  | _ => 0

/-- The running timer has elapsed. -/
def Env.arOut (v : Env) (c : InstCfg) (e : ElemSt) : Bool := v.reached (if e.mode = arNotReady then e.rcount else e.count) (v.arTime c e)

/-- AR_READY_TIMER (R165): closed for tR with the lockout clear. -/
def Env.settleReady (v : Env) (c : InstCfg) (e : ElemSt) : ElemSt :=
  if e.mode = arNotReady ∧ v.arOut c e ∧ v.lockedOut c 7 = false then arEnter arReady e else e

/-- AR_OPEN_TIMEOUT, AR_SYNC_TIMEOUT (R165): a wait that ends in LOCKOUT. -/
def Env.settleWait (v : Env) (c : InstCfg) (st : Nat) (e : ElemSt) : ElemSt := if e.mode = st ∧ v.arOut c e then arEnter arLockout e else e

/-- AR_CLOSE_PULSE_EXPIRY (R165): t_cp elapses with the breaker open. -/
def Env.settleClose (v : Env) (c : InstCfg) (e : ElemSt) : ElemSt := if v.ref (c.inp 3) then v.settleWait c arClosing e else e

/-- AR_DEAD_TIME_EXPIRY (R165). -/
def Env.settleDead (v : Env) (c : InstCfg) (e : ElemSt) : ElemSt :=
  if e.mode = arDead ∧ v.arOut c e then arEnter (if v.choice c (14 + (e.shot - 1)) = 1 then arSyncWait else arClosing) e else e

/-- AR_RECLAIM_EXPIRY (R165). -/
def Env.settleReclaim (v : Env) (c : InstCfg) (e : ElemSt) : ElemSt := if e.mode = arReclaim ∧ v.arOut c e then arEnter arReady e else e

/-- A start has lasted longer than t_disc (R165); tcount counts its ticks. -/
def Env.startLong (v : Env) (c : InstCfg) (e : ElemSt) : Bool := decide (v.num c 19 ≠ 0) && v.exceeds e.tcount (v.num c 19)

/-- AR_DISCRIMINATION_EXPIRY (R165): the trip that follows counts as having no trip-and-reclose input; ph 1 holds that. -/
def Env.settleDisc (v : Env) (c : InstCfg) (e : ElemSt) : ElemSt := if v.startLong c e then { e with ph := [nth e.ph 0, { on := true }] } else e

/-- Trip-logic inputs with a bit in any stage-block word, in any group (R167). -/
def InstCfg.blkBits (c : InstCfg) : List Nat :=
  (List.range 32).filter (fun i => c.sets.any (fun ws => (List.range 4).any (fun k => bitAt (ws.getD (20 + k) 0) i)))

/-- Nets, flags and record of an autoreclose (R159, R166-R168). own: shot_1 to shot_4, lockout, then arblk_i in ascending i. -/
def Env.arView (v : Env) (c : InstCfg) (e : ElemSt) : ElemSt :=
  let shotOn := fun k => (decide (e.mode = arDead) || decide (e.mode = arReclaim)) && decide (e.shot = k)
  let blk := fun i => (List.range 4).any (fun k => shotOn (k + 1) && bitAt (v.word c (20 + k)) i)
  { e with
    started := decide (2 ≤ e.mode ∧ e.mode ≤ 6), operate := decide (e.mode = arClosing) && !v.lockedOut c 7,
    flags := b2n (decide (e.mode = arSyncWait)) + 2 * b2n (decide (e.mode = arClosing)) + 4 * b2n (decide (e.mode = arLockout)) + 8 * b2n (decide (e.mode = arNotReady)),
    own := (List.range 4).map (fun k => NetVal.bin (shotOn (k + 1))) ++ [.bin (decide (e.mode = arLockout))] ++ c.blkBits.map (fun i => NetVal.bin (blk i)) }

/-- A trip while READY, CLOSING or RECLAIM: INIT with a trip-and-reclose input and a shot left, otherwise LOCKOUT (R165). -/
def arTrip (recl : Bool) (shots : Nat) (earth : Bool) (e : ElemSt) : ElemSt :=
  if recl ∧ e.shot < shots then { arEnter arInit e with ph := [{ on := earth }, nth e.ph 1] } else arEnter arLockout e

/-- The move of one tick from the present state (R165); the timer has been counted. -/
def Env.arMove (v : Env) (c : InstCfg) (tripRise recl : Bool) (e : ElemSt) : ElemSt :=
  let opened := v.ref (c.inp 3)
  let closed := v.ref (c.inp 4)
  let shots := (roundAway (v.num c 2)).toNat
  let earth := v.ref (c.inp 2)
  match e.mode with
  | 0 => v.settleReady c e
  | 1 => if tripRise then arTrip recl shots earth e else e
  | 2 => if opened then arEnter arDead e else v.settleWait c arInit e
  | 3 => v.settleDead c e
  | 4 => if v.ref (c.inp 8) then arEnter arClosing e else v.settleWait c arSyncWait e
  | 5 => if tripRise then arTrip recl shots earth e else if closed then arEnter arReclaim e else v.settleClose c e
  | 6 => if tripRise then arTrip recl shots earth e else v.settleReclaim c e
  | _ => if v.lockedOut c 7 = false ∧ closed then arEnter arNotReady e else e

/-- Autoreclose: inputs trip, trip-and-reclose, earth only, open, closed, block, manual close, lockout latch, sync_ok, start. rcount counts ticks closed. -/
def Env.autoreclose (v : Env) (c : InstCfg) (e : ElemSt) : ElemSt :=
  let r := fun i => v.ref (c.inp i)
  let trip := r 0
  let tripRise := trip && !nth e.prev 0
  let manual := r 6 && !nth e.prev 1
  let start := r 9
  let late := (nth e.ph 1).on
  let recl := r 1 && !late
  let e := { e with valid := true, prev := [trip, r 6], rcount := if r 4 then e.rcount + 1 else 0, count := e.count + 1 }
  let e :=
    if v.lockedOut c 7 ∧ e.mode ≠ arLockout then arEnter arLockout e
    else if e.mode ≠ arLockout ∧ (r 5 ∨ manual) then { arEnter arNotReady e with rcount := if e.mode = arNotReady ∧ r 5 = false then e.rcount else b2n (r 4) }
    else v.arMove c tripRise recl e
  let e := { e with tcount := if start then e.tcount + 1 else 0, ph := [nth e.ph 0, if start then nth e.ph 1 else {}] }
  v.arView c (v.settleDisc c e)

/-- Ticks remaining in the running timer (R168). -/
def Env.arLeft (v : Env) (c : InstCfg) (e : ElemSt) : Nat :=
  ((v.arTime c e * (v.fp : Rat)).ceil.toNat) - (if e.mode = arNotReady then e.rcount else e.count)

/-! ### Line differential (R169-R175) -/

/-- Number of ends, and the per-end words: rated current, declared delay, source, scale. -/
def Env.ends (v : Env) (c : InstCfg) : Nat := min 8 (roundAway (v.num c 9)).toNat

def Env.endIn (v : Env) (c : InstCfg) (e : Nat) : Rat := ofSingle (v.word c (12 + 4 * e))

def Env.endGd (v : Env) (c : InstCfg) (e : Nat) : Nat := (v.word c (13 + 4 * e)).toNat

def Env.endSrc (v : Env) (c : InstCfg) (e : Nat) : Word := v.word c (14 + 4 * e)

def Env.endKs (v : Env) (c : InstCfg) (e : Nat) : Rat := ofSingle (v.word c (15 + 4 * e))

/-- Kind of an end's source: 0 local, 1 chain, 2 stream; its address or context; its first channel or item. -/
def srcKind (w : Word) : Nat := bitsOf w 1 0

def srcAddr (w : Word) : Nat := bitsOf w 15 8

def srcFirst (w : Word) : Nat := bitsOf w 23 16

/-- A word of another unit as read at this tick (R18, R340): invalid with the last value where it has not arrived or the rates differ. -/
def State.chainWord (s : State) (addr ch : Nat) : Word :=
  let src := lookupD s.chn.src addr {}
  let w := nth src.readable ch
  let good := decide (src.fpSel = some (fpSel s.fp)) && nth src.arrived ch
  if good then w ||| 2#32 else (w &&& 0xFFFFFF1D#32) ||| 2#32

/-- A stream context's item: value in primary units and quality. -/
def State.streamItem (s : State) (ctx i : Nat) : Rat × Byte := nth (nth s.svc.ctx ctx).cur i

/-- The newest sample of a phase of an end, in per-unit of the end's rated current (R170, R171). -/
def Env.endSample (v : Env) (c : InstCfg) (e ph : Nat) : Smp :=
  let w := v.endSrc c e
  let inE := v.endIn c e
  let test := decide (v.s.sys.st = OpState.test)
  match srcKind w with
  | 0 =>
    let x := v.s.word (srcFirst w + ph)
    { x := v.s.primary (srcFirst w + ph) x / inE, ok := bitAt x 7 && (!bitAt x 3 || test), q := wordQ x }
  | 1 =>
    let x := v.s.chainWord (srcAddr w) (srcFirst w + ph)
    { x := (wordVal x : Rat) * 12 / 5 * v.endKs c e / (2 ^ 23 : Nat) / inE, ok := bitAt x 7 && (!bitAt x 3 || test), q := wordQ x }
  | _ =>
    let p := v.s.streamItem (srcAddr w) (srcFirst w + ph)
    { x := p.1 / inE, ok := qBit p.2 7 && (!qBit p.2 3 || test), q := p.2 }

/-- Rotation of an end in degrees (R171). -/
def Env.endRot (v : Env) (c : InstCfg) (e : Nat) : Rat :=
  360 * (v.s.sch.cfg.fn : Rat) * (((v.endGd c e : Int) - (v.endGd c 0 : Int) : Int) : Rat) / 1000000000

/-- One end at a tick: X1 magnitudes per phase, phasors in In_z after rotation, validity, quality. -/
structure EndEval where
  mags : List Rat
  ph : List Cx
  ok : Bool
  q : Byte
  deriving DecidableEq, Repr, Inhabited

/-- Phasors of an end over its aligned history (R170, R171): the newest local word is of tick n, a chain word readable at n is of tick n - 2 (R18), a stream sample is aligned already. -/
def Env.endEval (v : Env) (c : InstCfg) (hs : List (List Smp)) (e : Nat) : EndEval :=
  let a := (roundAway (v.num c 6)).toNat
  let fn : Rat := (v.s.sch.cfg.fn : Rat)
  let nw := winFull v.fp fn
  let nh := winHalf v.fp fn
  let n := if v.choice c 8 = 1 then nw else nh
  let skip := match srcKind (v.endSrc c e) with
    | 0 => a
    | 1 => a - 2
    | _ => 0
  let h := fun p => (nth hs (3 * e + p)).drop skip
  let th := fn / (v.fp : Rat)
  let scale := v.endIn c e / v.num c 10
  let rot := Cx.unit (v.endRot c e / 360)
  let x := fun p => rot.mul (Cx.scale scale (phasor 1 0 th (h p) n))
  let q := qMerge ((List.range 3).map (fun p => winQ (h p) n))
  { mags := (List.range 3).map (fun p => (Cx.scale scale (phasor 1 0 th (h p) nw)).abs), ph := (List.range 3).map x, ok := qBit q 7, q := q }

/-- A carried group delay differs from the declared one by more than 1,000 ns (R171). -/
def Env.gdBad (v : Env) (c : InstCfg) (e : Nat) : Bool :=
  let w := v.endSrc c e
  let gd := (lookupD v.s.chn.src (srcAddr w) {}).gd
  decide (srcKind w = 1 ∧ gd ≠ 0) && decide (1000 < ((gd : Int) - (v.endGd c e : Int)).natAbs)

/-- A carried zone stamp differs (R171): none of the stamps the source has sent is the zone's. -/
def Env.stampBad (v : Env) (c : InstCfg) (e : Nat) : Bool :=
  let w := v.endSrc c e
  let st := (lookupD v.s.chn.src (srcAddr w) {}).stamps
  decide (srcKind w = 1) && st.any (fun x => x ≠ 0) && !st.contains (v.choice c 11)

/-- An end has carried holdover for longer than hold_lim (R173). -/
def Env.holdLimit (v : Env) (c : InstCfg) (p : PhaseSt) : Bool := v.exceeds p.cnt (v.num c 7)

/-- Operate level at a bias current (R172). -/
def Env.biasLevel (v : Env) (c : InstCfg) (ir : Rat) : Rat :=
  let k1 := v.num c 3 / 100
  let k2 := v.num c 4 / 100
  let ib := v.num c 5
  max (v.num c 2) (if ir ≤ ib then k1 * ir else k1 * ib + k2 * (ir - ib))

/-- Outputs of a zone (R172). ph per phase: on is op, num Id, and z keeps Id, Ir and the rotations. -/
def zoneOwn (e : ElemSt) (q : Byte) : ElemSt :=
  let op := (List.range 3).map (fun p => (nth e.ph p).on && decide (e.mode < 3))
  let blk := decide (e.mode ≠ 0)
  { e with
    operate := op.any id,
    flags := maskOf op + 8 * b2n blk,
    own := op.map NetVal.bin ++ [.bin (op.any id), .bin blk]
      ++ (List.range 6).map (fun k => NetVal.ana { v := e.z.getD k 0, q := qIf (!blk) q }) }

/-- A differential zone: inputs one open_end net per end, then the block net. mode is the block cause (R173); ph from 3 on count each end's holdover ticks. -/
def Env.zone (v : Env) (c : InstCfg) (e : ElemSt) : ElemSt :=
  let n := v.ends c
  let a := (roundAway (v.num c 6)).toNat
  let len := winFull v.fp (v.s.sch.cfg.fn : Rat) + a
  let hs := (List.range (3 * n)).map (fun k => (v.endSample c (k / 3) (k % 3) :: nth e.ends k).take len)
  let ev := (List.range n).map (v.endEval c hs)
  let isOpen := fun k => v.ref (c.inp k) && (nth ev k).mags.all (fun m => decide (m < 5 / 100))
  let cnt := (List.range n).map (fun k => ({ cnt := if (List.range 3).any (fun p => match (nth hs (3 * k + p)).head? with
    | some x => qBit x.q 2
    | none => false) then (nth e.ph (3 + k)).cnt + 1 else 0 } : PhaseSt))
  let stream := (List.range n).any (fun k => decide (srcKind (v.endSrc c k) = 2))
  let cause :=
    if (List.range n).any (fun k => !(nth ev k).ok && !isOpen k) then 1
    else if stream && cnt.any (v.holdLimit c) then 2
    else if (List.range n).any (v.gdBad c) then 3
    else if (List.range n).any (v.stampBad c) then 4
    else if v.ref (c.inp n) then 5
    else 0
  let at1 := (List.range n).any (fun k => v.gdBad c k || v.stampBad c k) || v.ref (c.inp n)
  let cur := fun k p => if isOpen k then (⟨0, 0⟩ : Cx) else nth (nth ev k).ph p
  let id := fun p => (Cx.sum ((List.range n).map (fun k => cur k p))).abs
  let ir := fun p => ((List.range n).map (fun k => (cur k p).abs)).foldl (· + ·) 0 / 2
  let q := qMerge (ev.map (fun x => x.q))
  let rots := (List.range 8).map (fun k => if k < n then v.endRot c k else 0)
  let e := { e with ends := hs, z := (List.range 6).map (fun k => e.z.getD k 0) ++ rots, ph := (List.range 3).map (nth e.ph) ++ cnt, mode := if at1 && decide (cause < 3) then (if (List.range n).any (v.gdBad c) then 3 else if (List.range n).any (v.stampBad c) then 4 else 5) else cause }
  let keep := decide (cause = 1 ∨ cause = 2) && !at1
  let e := v.guarded c e (!keep) (fun e => { e with ph := (List.range 3).map (fun _ => ({} : PhaseSt)) ++ cnt }) (fun e =>
    if at1 then { e with ph := (List.range 3).map (fun _ => ({} : PhaseSt)) ++ cnt, started := false }
    else
      let ops := (List.range 3).map (fun p =>
        let lvl := v.biasLevel c (ir p)
        ({ on := decide (lvl ≤ id p) || ((nth e.ph p).on && decide (lvl * (95 / 100) ≤ id p)) } : PhaseSt))
      { e with ph := ops ++ cnt, z := (List.range 3).map id ++ (List.range 3).map ir ++ rots, started := (List.range 3).any (fun p => decide (v.num c 2 ≤ id p)) })
  let e := zoneOwn e q
  { e with valid := decide (e.mode = 0) }

/-- ZONE_HOLDOVER_LIMIT (R173): a zone with a stream end blocks on hold_lim. -/
def Env.settleHoldLimit (v : Env) (c : InstCfg) (e : ElemSt) : ElemSt :=
  if e.mode = 0 ∧ (List.range (v.ends c)).any (fun k => decide (srcKind (v.endSrc c k) = 2)) = true ∧ (e.ph.drop 3).any (v.holdLimit c) = true then
    { zoneOwn { e with mode := 2 } 0 with valid := false }
  else e

/-- Records of a zone that blocks or unblocks, and of a delay mismatch (R186). -/
def Env.zoneEvents (v : Env) (c : InstCfg) (old new : ElemSt) : List Ev :=
  let blk : List Ev := if new.mode ≠ 0 ∧ old.mode = 0 then [{ code := 0x00A0, sev := 2, body := b2 c.num ++ b1 new.mode }] else []
  let gd : List Ev :=
    if new.mode = 3 ∧ old.mode ≠ 3 then
      match (List.range (v.ends c)).find? (v.gdBad c) with
      | some k => [{ code := 0x00A2, sev := 2, body := b4 (v.endGd c k) ++ b4 (lookupD v.s.chn.src (srcAddr (v.endSrc c k)) {}).gd }]
      | none => []
    else []
  let un : List Ev := if new.mode = 0 ∧ old.mode ≠ 0 then [{ code := 0x00A1, sev := 0, body := [] }] else []
  blk ++ gd ++ un

/-! ### Fault location (R178, R179) -/

/-- The loop chosen (R178): 1-3 phase a, b or c with earth, 4-6 phases ab, bc, ca. -/
def loopOf (ops : List Bool) (earth : Bool) (mags : List Rat) : Nat :=
  let big := fun l : List Nat => l.foldl (fun a i => if mags.getD a 0 < mags.getD i 0 then i else a) (l.headD 0)
  let on := (List.range 3).filter (fun i => nth ops i)
  if earth ∧ on.length ≤ 1 then 1 + on.headD (big [0, 1, 2])
  else
    let small := [0, 1, 2].foldl (fun a i => if mags.getD i 0 < mags.getD a 0 then i else a) 0
    match small with
    | 0 => 5
    | 1 => 6
    | _ => 4

/-- Distance in km by a loop (R178). -/
def Env.distance (v : Env) (c : InstCfg) (loop : Nat) (i u : Nat → Cx) (i0 : Cx) : Rat :=
  let z1 : Cx := ⟨v.num c 2, v.num c 3⟩
  let z0 : Cx := ⟨v.num c 4, v.num c 5⟩
  let k0 := (z0.sub z1).div (Cx.scale 3 z1)
  let z :=
    if loop ≤ 3 then (u (loop - 1)).div ((i (loop - 1)).add (k0.mul i0))
    else
      let a := loop - 4
      let b := (loop - 3) % 3
      ((u a).sub (u b)).div ((i a).sub (i b))
  z.im / z1.im

/-- Travelling-wave distance in km (R179): none when the arrivals do not match. -/
def twDistance (lenKm vel ta tb : Rat) : Option Rat :=
  let d := ta - tb
  let d := d - 1000000 * (((d + 500000) / 1000000).floor : Rat)
  if absR d ≤ lenKm * 1000 / vel + 10 then some ((lenKm * 1000 + vel * d) / 2 / 1000) else none

/-- Outputs of a locator: fl_km, fl_pct, fl_valid, tw_km, tw_valid. z keeps km, pct, tw_km, and the qualities of the impedance and of the travelling-wave result (R122); flags bit 0 tw_valid. -/
def locOwn (e : ElemSt) : ElemSt :=
  let q := qOf (e.z.getD 3 0x80)
  { e with own := [.ana { v := e.z.getD 0 0, q := q }, .ana { v := e.z.getD 1 0, q := q }, .bin e.operate,
      .ana { v := e.z.getD 2 0, q := qOf (e.z.getD 4 0x80) }, .bin (decide (e.flags % 2 = 1))] }

/-- FAULT_LOCATION (R178): the computation that runs (mode not 0, the loop) is published. -/
def settleLoc (e : ElemSt) : ElemSt := if e.mode = 0 then e else locOwn { e with mode := 0, operate := true, shot := e.mode }

/-- TW_MATCH_TIMEOUT (R179): no pair matched within 60 ms. -/
def Env.settleTw (v : Env) (e : ElemSt) : ElemSt := if e.rcount ≠ 0 ∧ v.reached e.rcount (60 / 1000) then locOwn { e with flags := 0, rcount := 0 } else e

/-- Locator: inputs trip, start, Ia, Ib, Ic, residual current, Va, Vb, Vc, operates of phases a, b, c and of an earth stage, arrivals of end A (µs, ns) and of end B. A trip that finds a contributing phasor invalid gives no location: fl_km and fl_pct are invalid then (R122, R123). count is the start's duration, tcount the time since the trip, rcount the time since an arrival. -/
def Env.locator (v : Env) (c : InstCfg) (e : ElemSt) : ElemSt :=
  let trip := v.ref (c.inp 0)
  let rise := trip && !nth e.prev 0
  let count := if v.ref (c.inp 1) then e.count + 1 else 0
  let full := decide (winFull v.fp v.s.trk.ft ≤ e.count)
  let ph := fun k => match v.source (c.inp k) with
    | some (_, x) => if full then cxAt x.z 0 else cxAt x.z 1
    | none => ⟨0, 0⟩
  let chs := fun k => match v.chanOf (c.inp k) with
    | some x => v.s.base x false
    | none => 1
  let i := fun k => Cx.scale (chs (2 + k)) (ph (2 + k))
  let u := fun k => Cx.scale (chs (6 + k)) (ph (6 + k))
  let i0 := if c.inp 5 = 0xFFFF then Cx.sum [i 0, i 1, i 2] else Cx.scale (chs 5) (ph 5)
  let mags := (List.range 3).map (fun k => (Cx.scale (chs (2 + k)) (v.phas (c.inp (2 + k))).1).abs)
  let used := [2, 3, 4, 6, 7, 8] ++ (if c.inp 5 = 0xFFFF then [] else [5])
  let q := v.merged c (used.map (fun k => v.estQ (c.inp k) (if full then 12 else 13)))
  let good := v.good (v.ps c) q
  let e := { e with valid := true, prev := [trip], count := count, tcount := e.tcount + 1 }
  let e :=
    if rise && !good then { e with mode := 0, operate := false, z := [e.z.getD 0 0, e.z.getD 1 0, e.z.getD 2 0, (qClear q).toNat, e.z.getD 4 0x80] }
    else if rise then
      let loop := loopOf ((List.range 3).map (fun k => v.ref (c.inp (9 + k)))) (v.ref (c.inp 12)) mags
      let d := v.distance c loop i u i0
      { e with mode := loop, tcount := 1, operate := false, z := [d, d / v.num c 6 * 100, e.z.getD 2 0, (q.toNat : Rat), e.z.getD 4 0x80] }
    else if e.mode ≠ 0 ∧ v.reached e.tcount (60 / 1000) then settleLoc e
    else e
  let us := fun k => (v.ana (c.inp k)).v + (v.ana (c.inp (k + 1))).v / 1000
  let ok := qBit (v.ana (c.inp 13)).q 7 && qBit (v.ana (c.inp 15)).q 7
  let fresh := decide ([us 13, us 15] ≠ (nth e.hists 0))
  let e := { e with hists := [[us 13, us 15]], rcount := if fresh ∧ ok then 1 else if e.rcount = 0 then 0 else e.rcount + 1 }
  let e :=
    match (if fresh && ok then twDistance (v.num c 6) (v.num c 7) (us 13) (us 15) else none) with
    | some d => { e with rcount := 0, flags := 1, z := [e.z.getD 0 0, e.z.getD 1 0, d, e.z.getD 3 0x80, ((qMerge [v.seen (c.inp 13) (v.ana (c.inp 13)).q, v.seen (c.inp 15) (v.ana (c.inp 15)).q]).toNat : Rat)] }
    | none => v.settleTw e
  locOwn e

/-- The record of a published location (R186): loop, d and tw_km. -/
def locEvents (old new : ElemSt) : List Ev :=
  if old.mode ≠ 0 ∧ new.mode = 0 ∧ new.operate then
    [{ code := 0x00A3, sev := 0, body := b1 new.shot ++ leBytes 4 (toSingle (new.z.getD 0 0)).toNat ++ leBytes 4 (toSingle (new.z.getD 2 0)).toNat }]
  else []

/-! ### Synchrocheck (R180) -/

/-- SYNC_CONFIRM_EXPIRY (R180). -/
def Env.settleSync (v : Env) (c : InstCfg) (e : ElemSt) : ElemSt :=
  if e.started ∧ v.reached e.count (v.num c 8) then { e with operate := !v.lockedOut c 2 } else e

/-- A voltage's frequency (R130, R180): the measured values of the last three cycles, newest first, and their limited mean. -/
def freqMean (nw : Nat) (f : Option Rat) (old : List Rat) : List Rat × Option Rat :=
  match f with
  | some x => let l := (x :: old).take (3 * nw); (l, some (limitFt (meanR l)))
  | none => ([], none)

/-- Synchrocheck: inputs line, bus, lockout latch. hists keep both arguments, and both voltages' measured frequencies. -/
def Env.synchro (v : Env) (c : InstCfg) (e : ElemSt) : ElemSt :=
  let l := v.phas (c.inp 0)
  let b := v.phas (c.inp 1)
  let ok := v.good (v.ps c) l.2 && v.good (v.ps c) b.2
  let ft := v.s.trk.ft
  let nw := winFull v.fp ft
  let keep := fun (h : List Rat) (x : Rat) => (x :: h).take histLen
  let fq := fun (x : Cx) (h : List Rat) => freqOf ft v.fp nw (some x.arg) h[nw - 1]?
  let ml := freqMean nw (fq l.1 (nth e.hists 0)) (nth e.hists 2)
  let mb := freqMean nw (fq b.1 (nth e.hists 1)) (nth e.hists 3)
  let fl := ml.2
  let fb := mb.2
  if !ok then { e with valid := false, started := false, operate := false, count := 0, flags := 0, hists := [] }
  else
    let live := fun x : Cx => decide (v.num c 5 ≤ x.abs)
    let dead := fun x : Cx => decide (x.abs < v.num c 6)
    let du := decide (absR (l.1.abs - b.1.abs) ≤ v.num c 2)
    let dfv := match fl, fb with
      | some x, some y => x - y
      | _, _ => 0
    let df := fl.isSome && fb.isSome && decide (absR dfv ≤ v.num c 3)
    let phi := wrapDeg (l.1.arg - b.1.arg + 360 * dfv * v.num c 9 / 1000)
    let dp := decide (absR phi ≤ v.num c 4)
    let md := v.choice c 7
    let dl := dead l.1 && live b.1
    let ll := live l.1 && dead b.1
    let deadMode := (decide (md = 1 ∨ md = 3) && dl) || (decide (md = 2 ∨ md = 3) && ll)
    let cond := (live l.1 && live b.1 && du && df && dp) || deadMode
    let e := { e with
      valid := true, started := cond, count := if cond then e.count + 1 else 0, operate := e.operate && cond && !v.lockedOut c 2,
      flags := b2n du + 2 * b2n df + 4 * b2n dp + 8 * b2n deadMode, hists := [keep (nth e.hists 0) l.1.arg, keep (nth e.hists 1) b.1.arg, ml.1, mb.1] }
    v.settleSync c e

/-! ### Trip-circuit supervision and breaker wear (R181, R182) -/

/-- TCS_ALARM_EXPIRY (R181). -/
def Env.settleTcs (v : Env) (c : InstCfg) (e : ElemSt) : ElemSt := if e.started ∧ v.reached e.count (v.num c 2) then { e with operate := true } else e

/-- TCS_TRIP_BLANK_EXPIRY (R181): the second after the trip net cleared is over (rcount ticks). -/
def Env.settleBlank (v : Env) (e : ElemSt) : ElemSt := if v.reached e.rcount 1 then { e with mode := 0, rcount := 0 } else e

/-- The TCS channel behind a continuity reference is valid (R260). -/
def Env.tcsOk (v : Env) (r : Nat) : Bool := !(decide (r % 0x4000 / 0x1000 = 2 ∧ 352 ≤ r % 0x1000 ∧ r % 0x1000 < 354) && !v.s.tcsValid (r % 0x1000 - 352))

/-- Supervision: inputs continuity, watched trip net. mode 1 while counting is suspended. With its channel invalid it acts under R123. -/
def Env.tcs (v : Env) (c : InstCfg) (e : ElemSt) : ElemSt :=
  v.guarded c e (v.tcsOk (c.inp 0)) (fun e => { e with count := 0, mode := 0, rcount := 0 }) (fun e =>
  let lost := !v.ref (c.inp 0)
  let trip := v.ref (c.inp 1)
  let e := if trip then { e with mode := 1, rcount := 0 } else if e.mode = 1 then v.settleBlank { e with rcount := e.rcount + 1 } else e
  let counting := lost && decide (e.mode = 0)
  let e := { e with valid := true, started := counting, count := if !lost then 0 else if counting then e.count + 1 else e.count, operate := e.operate && lost }
  v.settleTcs c e)

/-- I^x in kA (R182). -/
def wearOf (ka x : Rat) : Rat := powM ka x

/-- Breaker wear; a breaker found open at the first tick has not opened there. Inputs open, a, b, c. z: three totals, then the poles' RMS in kA at the last tick; shot counts openings. own: totals, count, alarms per pole, alarm by count. -/
def Env.wear (v : Env) (c : InstCfg) (e : ElemSt) : ElemSt :=
  let opened := v.ref (c.inp 0)
  let rise := opened && decide (e.prev = [false])
  let q := (List.range 3).map (fun i => v.quant 2 (c.inp (1 + i)))
  let ka := (List.range 3).map (fun i => (nth q i).m * (match v.chanOf (c.inp (1 + i)) with
    | some x => v.s.base x false
    | none => 1) / 1000)
  v.guarded c e (q.all (fun x => v.good (v.ps c) x.q)) id (fun e =>
    let tot := (List.range 3).map (fun i => e.z.getD i 0 + (if rise then wearOf (e.z.getD (3 + i) 0) (v.num c 2) else 0))
    let n := if rise then e.shot + 1 else e.shot
    let al := tot.map (fun t => decide (v.num c 3 ≠ 0) && decide (v.num c 3 ≤ t))
    let an := decide (v.num c 4 ≠ 0) && decide (v.num c 4 ≤ (n : Rat))
    let qq := qMerge (q.map (fun x => x.q))
    { e with
      prev := [opened], z := tot ++ ka, shot := n, operate := al.any id || an,
      own := tot.map (fun t => NetVal.ana { v := t, q := qq }) ++ [.ana { v := (n : Rat), q := qq }] ++ al.map NetVal.bin ++ [.bin an] })

/-! ### The logic fabric (R183) -/

/-- Odd number of ones. -/
def parity (l : List Bool) : Bool := l.foldl (fun a b => a != b) false

/-- LOGIC_TIMER_EXPIRY (R183): a pickup timer that has run for T sets; a drop-off timer that has run for T ends; a pulse is still 1 at that tick, and ends at the next. -/
def Env.settleTimer (v : Env) (c : InstCfg) (e : ElemSt) : ElemSt :=
  if e.count = 0 then e
  else if v.reached e.count (v.num c 2) then
    match c.kind with
    | 0x23 => { e with operate := true }
    | 0x24 => { e with operate := false, count := 0 }
    | _ => e
  else e

/-- Pickup timer. -/
def Env.pickup (v : Env) (c : InstCfg) (x : Bool) (e : ElemSt) : ElemSt :=
  if x then v.settleTimer c { e with count := e.count + 1 } else { e with count := 0, operate := false }

/-- Drop-off timer: 1 while the input is 1, and for T after it falls, counted from the first tick at 0. -/
def Env.dropoff (v : Env) (c : InstCfg) (x : Bool) (e : ElemSt) : ElemSt :=
  if x then { e with count := 0, operate := true } else if e.operate then v.settleTimer c { e with count := e.count + 1 } else e

/-- Pulse timer: 1 from the edge tick up to and including the first tick n at which n / fp ≥ T. -/
def Env.pulse (v : Env) (c : InstCfg) (edge : Bool) (e : ElemSt) : ElemSt :=
  if edge then { e with operate := true, count := 1 }
  else if e.count = 0 then e
  else if v.reached e.count (v.num c 2) then { e with operate := false, count := 0 }
  else { e with count := e.count + 1 }

/-- A kind of the logic fabric: the output is the operate net. -/
def Env.logic (v : Env) (c : InstCfg) (e : ElemSt) : ElemSt :=
  let xs := c.ins.map v.ref
  let x := xs.headD false
  let e := { e with valid := true, started := false }
  match c.kind with
  | 0x20 => { e with operate := xs.all id }
  | 0x21 => { e with operate := xs.any id }
  | 0x22 => { e with operate := parity xs }
  | 0x23 => v.pickup c x e
  | 0x24 => v.dropoff c x e
  | 0x25 => { v.pulse c (x && !nth e.prev 0) e with prev := [x] }
  | 0x26 => { e with operate := latchNext (decide (v.choice c 2 = 0)) e.operate x (nth xs 1) }
  | _ => { e with operate := nth e.prev 0, prev := [x] }

/-! ### Custom kinds (R104, R489; log entry 13) -/

/-- A custom kind: its microcode's outputs are opaque functions of settings, inputs and its past. -/
def Env.custom (v : Env) (c : InstCfg) (e : ElemSt) : ElemSt :=
  let ws := v.words c
  let bs := c.ins.map v.ref
  let as_ := c.ins.map (fun r => (v.ana r).v)
  let f := fun k => Config.customBit c.kind ws bs as_ e.count k
  { e with
    valid := true, count := e.count + 1, started := f 0, operate := f 1,
    own := (List.range (c.outs.length - 3)).map (fun k =>
      if (c.outs.getD (k + 3) 0) / 0x1000 % 4 = 1 then NetVal.ana { v := Config.customNum c.kind ws bs as_ e.count k, q := 0x80 } else NetVal.bin (f (k + 2))) }

/-! ### All kinds -/

/-- The work of an instance in a tick, by its kind (R220). -/
def Env.work (v : Env) (c : InstCfg) (e : ElemSt) : ElemSt :=
  match c.kind with
  | 0x01 => v.estimator c e
  | 0x02 => v.sequence c e
  | 0x03 => v.phaseOc c e
  | 0x04 => v.earthOc c e
  | 0x05 => v.sefOc c e
  | 0x06 => v.npsOc c e
  | 0x07 => v.dirPhase c e
  | 0x08 => v.dirEarth c e
  | 0x09 => v.dirNps c e
  | 0x0A => v.volt c e
  | 0x0B => v.volt c e
  | 0x0C => v.resVolt c e
  | 0x0D => v.freq c e
  | 0x0E => v.thermal c e
  | 0x0F => v.inrush c e
  | 0x10 => v.coldLoad c e
  | 0x11 => v.tripLogic c e
  | 0x12 => v.lockout c e
  | 0x13 => v.breakerFail c e
  | 0x14 => v.autoreclose c e
  | 0x15 => v.zone c e
  | 0x16 => v.zsi c e
  | 0x17 => v.locator c e
  | 0x18 => v.synchro c e
  | 0x19 => v.tcs c e
  | 0x1A => v.wear c e
  | _ => if 0x80 ≤ c.kind then v.custom c e else v.logic c e

/-- Outputs of an instance in port order (R122, R489, log entry 9): start, operate, inv, then the kind's own; an output of an instance that is not valid carries valid = 0, but for an estimator's and a sequence element's, each of which has a window of its own (R129). -/
def outputsOf (c : InstCfg) (e : ElemSt) : List NetVal :=
  let bad := !e.valid && decide (c.kind ≠ 1 ∧ c.kind ≠ 2)
  let own := e.own.map (fun x => match x with
    | .ana n => NetVal.ana (if bad then { n with q := qClear n.q } else n)
    | x => x)
  let inv := bad || own.any (fun x => match x with
    | .ana n => !qBit n.q 7
    | _ => false)
  [.bin e.started, .bin e.operate, .bin inv] ++ own

end Sys2Proof.Machine
end

