-- ==== Sys2Proof/Machine/Engine.lean ====
section
/-! DEFINITION. The engines: placements, the work of a tick, the commit gate, mismatch and repair, self-tests, the probe window (R95-R120). -/

namespace Sys2Proof.Machine

def State.modPe (s : State) (f : Engines → Engines) : State := { s with pe := f s.pe }

/-! ### Element records at the start (R98, R152, R157, R182, R184) -/

/-- The value of the instance is kept across power cycles: a persistent latch, a lockout latch. -/
def InstCfg.keeps (c : InstCfg) : Bool := decide (c.kind = 0x12) || (c.persistent && decide (c.kind = 0x26))

/-- Record of an instance before its first tick. -/
def State.initElem (s : State) (c : InstCfg) : ElemSt :=
  let v : Env := { s := s, place := c.place }
  let e : ElemSt := { num := c.num, grp := s.sch.group }
  if c.kind = 0x0E then { e with integ := v.num c 8 }
  else if c.kind = 0x15 then { e with z := List.replicate 6 0 ++ (List.range 8).map (fun k => if k < v.ends c then v.endRot c k else 0) }
  else if c.kind = 0x1A then
    let w := lookupD s.nv.wear c.name ([0, 0, 0], 0)
    { e with z := w.1 ++ [0, 0, 0], shot := w.2 }
  else if c.keeps then
    let q := lookupD s.nv.latches c.name false
    { e with operate := q, own := if c.kind = 0x12 then [.bin q] else [] }
  else e

/-- A changed value of a persistent instance that MRAM does not hold yet (R182, R184). -/
def State.unsaved (s : State) (c : InstCfg) (e : ElemSt) : Bool :=
  if c.kind = 0x1A then decide (lookupD s.nv.wear c.name ([0, 0, 0], 0) ≠ ((List.range 3).map (fun i => e.z.getD i 0), e.shot))
  else c.keeps && (lookupD s.nv.latches c.name false != e.operate)

/-! ### Pairs (R95, R96, R114) -/

/-- A pair is good: the defect map does not mark it as mapped out. -/
def State.pairGood (s : State) (p : Nat) : Bool := decide ((nth s.dm.map.pairs p).state = 0)

def State.role (s : State) (p : Nat) : PairRole := s.pe.roles.getD p .mappedOut

def State.setPair (s : State) (p : Nat) (r : PairRole) : State := s.modPe (fun e => { e with roles := e.roles.set p r })

/-- The spare pool, lowest pair first. -/
def State.spares (s : State) : List Nat := (List.range 16).filter (fun p => decide (s.role p = .spare))

/-- PAIR_NO_SPARE when the pool has become empty (R118). -/
def State.poolCheck (s : State) : State :=
  let empty := s.spares.isEmpty
  let was := s.pe.noSpare
  let s := s.modPe (fun e => { e with noSpare := empty })
  if empty && !was then s.stage 0x0095 2 [] else s

/-- The FAILSAFE cause of R113 stands while a placement waits for a pair, and clears when none does. -/
def State.placesCheck (s : State) : State := if s.pe.place.any (fun x => x.stuck) then s.found 5 else s.dropCause 5

/-- A spare is taken: its background self-test is abandoned (R96, R114). -/
def State.takeSpare (s : State) (p : Nat) : State :=
  (s.setPair p .placed).modPe (fun e => { e with tests := e.tests.filter (fun t => t.1 ≠ p) })

/-- A pair is under a job's self-test, or waits for the swap before it (R115). -/
def State.jobTested (s : State) (p : Nat) : Bool := decide ((p, TestKind.job) ∈ s.pe.tests ∨ p ∈ s.pe.swaps)

/-- Pairs that placements may be assigned to (R96): good, and neither isolated nor under the self-test that follows an isolation; one under a job's self-test is assignable. -/
def State.assignable (s : State) : List Nat := (List.range 16).filter (fun p => s.pairGood p && (decide (s.role p ≠ .isolated) || s.jobTested p))

/-- Placements are assigned in ascending order to assignable pairs in ascending order; the rest joins the spare pool (R96). A pair of a self-test job that is assigned waits for a swap, and one left over goes on with its test and joins the pool at its end (R115, log entry 49). A placement for which no pair is left waits for one (R113). -/
def State.assignPlaces (s : State) : State :=
  let ps := s.assignable
  let n := s.sch.cfg.places.length
  let use := ps.take n
  let roles := (List.range 16).map (fun p =>
    if p ∈ use then PairRole.placed else if p ∈ ps then (if s.jobTested p then PairRole.isolated else PairRole.spare) else if s.pairGood p then PairRole.isolated else PairRole.mappedOut)
  let place := (List.range n).map (fun i =>
    let c := s.sch.cfg.places.getD i (0, 0)
    ({ pair := use[i]?, charge := c.1, kib := c.2, stuck := (use[i]?).isNone } : Placement))
  let jobs := (List.range 16).filter s.jobTested
  let s := s.modPe (fun e => { e with
    roles := roles, place := place, att := [], updDue := false, noSpare := false, swaps := jobs.filter (fun p => decide (p ∈ use)),
    tests := (e.tests.filter (fun t => t.2 ≠ TestKind.job && (t.2 ≠ TestKind.background || decide (t.1 ∉ use))))
      ++ (jobs.filter (fun p => decide (p ∉ use))).map (fun p => (p, TestKind.job)) })
  s.poolCheck.placesCheck

/-- The state store is set to initial states, and nets take their initial values (R238). -/
def State.initStore (s : State) : State :=
  let c := s.sch.cfg
  s.modPe (fun e => { e with
    els := c.insts.map s.initElem,
    bnets := (List.range c.nb).map (fun i => ({ v := c.initB.getD i false } : BNet)),
    anets := (List.range c.na).map (fun i => ({ v := c.initA.getD i 0, q := 0x80 } : ANet)) })

/-! ### The work of a placement (R101-R105) -/

/-- Scheme events of an instance whose start or operate rises (R224). -/
def State.schemeEvents (s : State) (num : Nat) (old new : ElemSt) : List Ev :=
  s.sch.cfg.ledger.filterMap (fun l =>
    if l.source = num ∧ ((l.kind = 1 ∧ new.started ∧ old.started = false) ∨ (l.kind = 2 ∧ new.operate ∧ old.operate = false)) then
      some { code := l.code, sev := l.sev, body := b2 num ++ zeros 2 }
    else none)

/-- Scheme events of a binary net that changes (R224). -/
def State.netEvents (s : State) (n : Nat) (old new : Bool) : List Ev :=
  s.sch.cfg.ledger.filterMap (fun l =>
    if l.source = n ∧ ((l.kind = 3 ∧ new ∧ old = false) ∨ (l.kind = 4 ∧ old ∧ new = false)) then some { code := l.code, sev := l.sev, body := b2 n ++ zeros 2 }
    else none)

/-- Device records of an element at a tick (R186). -/
def Env.kindEvents (v : Env) (c : InstCfg) (old new : ElemSt) : List Ev :=
  match c.kind with
  | 0x15 => v.zoneEvents c old new
  | 0x16 => v.zsiEvents c old new
  | 0x17 => locEvents old new
  | _ => []

/-- An analogue value as a net holds it: single precision, and no held bit, which only the hold rule sets (R99). -/
def ANet.stored (n : ANet) : ANet := { v := single n.v, q := n.q &&& 0xBF#8 }

/-- An output is written to the net that its reference names. -/
def Env.write (v : Env) (r : Nat) (x : NetVal) : Env :=
  if r = 0xFFFF then v
  else
    match x with
    | .bin b => { v with b := (r % 0x1000, b) :: v.b }
    | .ana n => { v with a := (r % 0x1000, n.stored) :: v.a }
    | .absent => v

/-- The outputs of a record go to the nets of its instance. -/
def Env.publish (v : Env) (c : InstCfg) (e : ElemSt) : Env := (c.outs.zip (outputsOf c e)).foldl (fun v p => v.write p.1 p.2) v

/-- A record with its events enters the write buffer. -/
def Env.put (v : Env) (c : InstCfg) (old new : ElemSt) : Env :=
  { v.publish c new with els := v.els ++ [new], evs := v.evs ++ v.s.schemeEvents c.num old new ++ v.kindEvents c old new }

/-- An instance whose state reads an uncorrectable error (R100): it is reset, its outputs keep their values with valid = 0, and STATE_ECC is staged. -/
def Env.eccReset (v : Env) (c : InstCfg) : Env :=
  let keep := (List.range c.outs.length).map (fun i =>
    let r := c.outs.getD i 0xFFFF
    if i = 2 then NetVal.bin true
    else if r / 0x1000 % 4 = 1 then NetVal.ana { v.ana r with q := qClear (v.ana r).q }
    else NetVal.bin (v.ref r))
  let v := (c.outs.zip keep).foldl (fun v p => v.write p.1 p.2) v
  { v with els := v.els ++ [{ v.s.initElem c with valid := false }], evs := v.evs ++ [{ code := 0x0097, sev := 2, body := [] }] }

/-- One instance's turn. -/
def Env.turn (ecc : List Nat) (v : Env) (c : InstCfg) : Env :=
  if c.num ∈ ecc then v.eccReset c
  else
    let old := (v.record c.num).getD (v.s.initElem c)
    v.put c old { v.work c old with grp := v.s.sch.group }

/-- Indexes written, without repeats. -/
def firsts : List (Nat × Bool) → List Nat
  | [] => []
  | p :: r => if r.any (fun x => x.1 = p.1) then firsts r else firsts r ++ [p.1]

/-- Events of the nets that a write buffer changes. -/
def State.bufferEvents (s : State) (b : List (Nat × Bool)) : List Ev :=
  (firsts b).flatMap (fun n => s.netEvents n (s.bnet n) (((b.find? (fun p => p.1 = n)).map (fun p => p.2)).getD false))

/-- Instances of a placement, in record order. -/
def State.instsOf (s : State) (pl : Nat) : List InstCfg := s.sch.cfg.insts.filter (fun c => c.place = pl)

/-- An attempt at the work of a placement, from what is latched at wake. -/
def State.attempt (s : State) (ecc : List Nat) (pl pair : Nat) : Attempt :=
  let v := (s.instsOf pl).foldl (Env.turn ecc) { s := s, place := pl }
  { pl := pl, pair := pair, st := .running, bnets := v.b, anets := v.a, els := v.els, evs := v.evs ++ s.bufferEvents v.b }

/-- An attempt of a placement that has no pair (R113). -/
def idleAttempt (pl pair : Nat) : Attempt := { pl := pl, pair := pair, st := .held, bnets := [], anets := [], els := [], evs := [] }

/-- The engines wake: every placement's attempt starts (R102); one whose wake falls within a relock waits for its end (R417). -/
def State.wake (s : State) (ecc : List Nat) : State :=
  let att := (List.range s.pe.place.length).map (fun i =>
    let p := nth s.pe.place i
    match p.pair with
    | some pair => if p.stuck then idleAttempt i pair else if s.clk.sysSrc = 0 then s.attempt ecc i pair else { s.attempt ecc i pair with st := .discarded }
    | none => idleAttempt i 0)
  s.modPe (fun e => { e with att := att, updDue := true })

/-! ### Commit (R102, R103) -/

/-- Scheme nets of a placement's outputs. -/
def State.netsOf (s : State) (pl : Nat) : List Nat := ((s.instsOf pl).flatMap (fun c => c.outs)).filter (fun r => r ≠ 0xFFFF)

/-- Nets with their held bits set or cleared (R99, R110). -/
def State.markHeld (s : State) (pl : Nat) (h : Bool) : State :=
  (s.netsOf pl).foldl (fun s r =>
    let i := r % 0x1000
    if r / 0x1000 % 4 = 0 then s.modPe (fun e => { e with bnets := modNth e.bnets i (fun n => { n with held := h }) })
    else s.modPe (fun e => { e with anets := modNth e.anets i (fun n => { n with q := if h then n.q ||| 0x40#8 else n.q &&& 0xBF#8 }) })) s

/-- Net values written, oldest first. -/
def State.writeNets (s : State) (b : List (Nat × Bool)) (a : List (Nat × ANet)) : State :=
  let bn := b.reverse.foldl (fun l p => modNth l p.1 (fun n => { n with v := p.2 })) s.pe.bnets
  let an := a.reverse.foldl (fun l p => modNth l p.1 (fun _ => p.2)) s.pe.anets
  s.modPe (fun e => { e with bnets := bn, anets := an })

/-- Records replaced, each by its number. -/
def putEls (l : List ElemSt) (new : List ElemSt) : List ElemSt := l.map (fun e => (new.find? (fun x => x.num = e.num)).getD e)

/-- Persistent values that now differ from MRAM are due to be written (R184). -/
def State.markLatches (s : State) (els : List ElemSt) : State :=
  let due := els.filterMap (fun e =>
    match s.sch.cfg.insts.find? (fun c => c.num = e.num) with
    | some c => if s.unsaved c e then some c.num else none
    | none => none)
  { s with nv := { s.nv with latchDirty := s.nv.latchDirty.filter (fun n => n ∉ due) ++ due } }

/-- A rising edge of the scheme's trigger net triggers the injected group (R85). -/
def State.injEdge (s : State) : State :=
  let on := ((Config.injNet s.sch.cfg.gen).map s.binRef).getD false
  let t := s.modAux (fun a => { a with trigNet := on })
  if on && !s.aux.trigNet then t.injTrigger 1 else t

/-- What a set of writes does at once (R102): records, nets, events with the tick's OT; a rising start requests OP-HIGH (R425), the trigger net of the injected group triggers it (R85), express groups follow their nets (R199). -/
def State.applyWrites (s : State) (b : List (Nat × Bool)) (a : List (Nat × ANet)) (els : List ElemSt) (evs : List Ev) : State :=
  let rise := els.any (fun e => e.started && s.pe.els.any (fun o => decide (o.num = e.num) && !o.started))
  let s := (s.modPe (fun x => { x with els := putEls x.els els })).writeNets b a
  let s := evs.foldl (fun s e => s.stageTick e.code e.sev e.body) (s.markLatches els)
  let s := if rise then s.raiseOp else s
  s.injEdge.sendGroups

/-- The attempt of a placement. -/
def State.attOf (s : State) (pl : Nat) : Option Attempt := s.pe.att.find? (fun a => a.pl = pl)

/-- An attempt of a placement changes. -/
def State.modAtt (s : State) (pl : Nat) (f : Attempt → Attempt) : State := s.modPe (fun e => { e with att := e.att.map (fun a => if a.pl = pl then f a else a) })

def State.modPlace (s : State) (pl : Nat) (f : Placement → Placement) : State := s.modPe (fun e => { e with place := modNth e.place pl f })

/-- PLACEMENT_COMMIT (R102, R106): the buffer is committed whole; a re-execution that commits stages PAIR_REEXEC (R110, R118). -/
def State.commit (s : State) (pl cycles : Nat) : State :=
  match s.attOf pl with
  | none => s
  | some a =>
    if (a.st = .running ∨ a.st = .reexec) ∧ cycles ≤ (nth s.pe.place pl).charge then
      let s := (s.markHeld pl false).applyWrites a.bnets a.anets a.els a.evs
      let s := s.modAtt pl (fun a => { a with st := .committed })
      let s := s.modPlace pl (fun p => { p with peak := p.peak.max cycles, told := false })
      if a.st = .reexec then s.stageTick 0x0091 0 [] else s
    else s

/-! ### Mismatch and repair (R108-R113, R117) -/

/-- A placement has no pair to run on: it is held from now on, and the FAILSAFE cause holds (R113). -/
def State.strand (s : State) (pl : Nat) : State :=
  ((s.modAtt pl (fun a => { a with st := .held })).modPlace pl (fun p => { p with stuck := true, told := false })).found 5

/-- The pair is isolated, with PAIR_MISMATCH, and its self-test begins (R108, R112). -/
def State.isolate (s : State) (pair pl cause : Nat) : State :=
  let s := s.stageTick 0x0090 1 (b1 pair ++ b1 pl ++ b1 cause)
  let s := { s with nv := { s.nv with mismatches := s.nv.mismatches + 1 } }
  (s.setPair pair .isolated).modPe (fun e => { e with
    mismatches := satInc 65535 e.mismatches, tests := e.tests.filter (fun t => t.1 ≠ pair) ++ [(pair, .isolation)] })

/-- A mismatch on a placement (R108, R109, R117). -/
def State.mismatch (s : State) (pl cause : Nat) : State :=
  match s.attOf pl with
  | none => s
  | some a =>
    if a.st = .running then
      let s := (s.isolate a.pair pl cause).raiseOp
      match s.spares with
      | [] => s.strand pl
      | p :: _ => (((s.takeSpare p).modAtt pl (fun a => { a with pair := p, st := .reexecWait })).modPlace pl (fun x => { x with pair := some p })).poolCheck
    else if a.st = .reexec then
      let s := s.isolate a.pair pl cause
      match s.spares with
      | [] => s.strand pl
      | p :: _ => (((s.takeSpare p).modAtt pl (fun a => { a with st := .held })).modPlace pl (fun x => { x with pair := some p })).poolCheck
    else s

/-- ATTEMPT_OVERRUN (R106, R108). -/
def State.overrun (s : State) (pl cycles : Nat) : State := if (nth s.pe.place pl).charge < cycles then s.mismatch pl 3 else s

/-- PAIR_STALL (R108). -/
def State.stall (s : State) (pl gap : Nat) : State := if 64 < gap then s.mismatch pl 2 else s

/-- REEXECUTION_START (R109): at OP-HIGH, or at OP-LOW when that is pinned (R426). -/
def State.reexecStart (s : State) (pl : Nat) : State :=
  match s.attOf pl with
  | none => s
  | some a =>
    if a.st = .reexecWait ∧ s.clk.level ≠ 2 ∧ s.clk.sysSrc = 0 ∧ (s.clk.op ∨ s.opPin = 1) then s.modAtt pl (fun a => { a with st := .reexec }) else s

/-! ### Self-tests (R112-R116, R462) -/

/-- The items of a pair in the defect map change, and the map is due to be written (R458). -/
def State.modDefPair (s : State) (p : Nat) (f : DefPair → DefPair) : State :=
  { s with dm := { s.dm with map := { s.dm.map with pairs := modNth s.dm.map.pairs p f }, dirty := true } }

/-- A pair is mapped out in the field (R112, R462). -/
def State.mapOutPair (s : State) (p reason : Nat) : State :=
  ((s.modDefPair p (fun d => { d with state := 2, reason := reason })).setPair p .mappedOut).stage 0x0094 2 []

/-- The placement that a passing pair takes back: its own, or the lowest that waits (R113). -/
def State.waitingPlace (s : State) (p : Nat) : Option Nat :=
  let w := (List.range s.pe.place.length).filter (fun i => (nth s.pe.place i).stuck)
  match w.find? (fun i => decide ((nth s.pe.place i).pair = some p)) with
  | some i => some i
  | none => w.head?

/-- A good pair joins the pool, or takes a placement that waits for one; the cause clears when none waits any more (R112, R113). -/
def State.joinPool (s : State) (p : Nat) : State :=
  match s.waitingPlace p with
  | some i =>
    let s := (s.setPair p .placed).modPlace i (fun x => { x with pair := some p, stuck := false, told := false })
    if s.pe.place.any (fun x => x.stuck) then s else s.dropCause 5
  | none => (s.setPair p .spare).poolCheck

/-- A day of OT in µs (R462). -/
def dayUs : Nat := 86400000000

/-- A transient is recorded (R112, R457); the third within 24 h maps the pair out (R462). -/
def State.transient (s : State) (p : Nat) : State :=
  let d := nth s.dm.map.pairs p
  let third := decide (2 ≤ d.transients) && decide (s.pwr.ot ≤ d.prevT + dayUs)
  let s := s.modDefPair p (fun d => { d with transients := satInc 65535 d.transients, lastT := s.pwr.ot, prevT := d.lastT })
  let s := s.stage 0x0093 1 []
  if third then s.mapOutPair p 5 else s.joinPool p

/-- PE_BIST_STAT shows how a self-test job of a pair ended, or that it was refused (R115). -/
def State.showBist (s : State) (p result reason : Nat) : State := s.modPe (fun e => { e with bistPair := p % 16, bistResult := result, bistReason := reason })

/-- PAIR_SELFTEST at the end of a self-test job: pair and PE_BIST_STAT result (R118). -/
def State.bistTold (s : State) (p result reason : Nat) : State := (s.showBist p result reason).stage 0x0096 0 (b1 p ++ b1 result)

/-- The self-test job of a pair ends. -/
def State.endBist (s : State) (p state reason : Nat) : State :=
  match s.job.out.find? (fun j => j.code = 7 ∧ j.arg = p) with
  | some j => s.endJob j.ticket state reason
  | none => s

/-- The self-test job of a pair ends done, with its pass or fail (R115). -/
def State.bistEnd (s : State) (p : Nat) (pass : Bool) : State := (s.bistTold p (if pass then 2 else 3) 0).endBist p jobDone 0

/-- The self-test job of a pair ends failed, with a reason of R115. -/
def State.bistFail (s : State) (p reason : Nat) : State := (s.bistTold p 4 reason).endBist p jobFailed reason

/-- PAIR_SELFTEST_END (R112, R114, R115). -/
def State.selftestEnd (s : State) (p : Nat) (pass : Bool) : State :=
  match s.pe.tests.find? (fun t => t.1 = p) with
  | none => s
  | some t =>
    let s := s.modPe (fun e => { e with tests := e.tests.filter (fun t => t.1 ≠ p) })
    match t.2 with
    | .isolation => if pass then s.transient p else s.mapOutPair p 0
    | .job => (if pass then s.joinPool p else s.mapOutPair p 0).bistEnd p pass
    | .background => if pass then s else (s.mapOutPair p 0).poolCheck

/-- SPARE_SELFTEST_START (R114): an idle spare. -/
def State.spareTest (s : State) (p : Nat) : State :=
  if p < 16 ∧ s.role p = .spare ∧ s.pe.tests.all (fun t => t.1 ≠ p) then s.modPe (fun e => { e with tests := e.tests ++ [(p, .background)] }) else s

/-- The refusal of a pair self-test, 0 when it is accepted: 1 no_spare, 2 not_good, 3 busy, 4 bad_pair (R115). -/
def State.bistCheck (s : State) (p : Nat) : Nat :=
  if 15 < p then 4
  else if s.pairGood p = false then 2
  else if s.pe.tests.any (fun t => t.1 = p) ∨ p ∈ s.pe.swaps then 3
  else if s.role p = .placed ∧ s.spares = [] then 1
  else 0

/-- PE_BIST_STAT shows a refused submission. -/
def State.bistRefuse (s : State) (p r : Nat) : State := (s.showBist p 4 r).modPe (fun e => { e with bistStep := 0 })

/-- The job starts on its pair: a spare is tested in place; for a placed pair the swap is due at the next tick (R115). A pair that a mismatch has isolated or a fail has mapped out since the submission is not taken: the job ends failed with the reason that would refuse it now (log entry 149). -/
def State.bistStart (s : State) (p : Nat) : State :=
  if s.pairGood p = false then s.bistFail p 2
  else if s.pe.tests.any (fun t => t.1 = p ∧ t.2 ≠ .background) ∨ p ∈ s.pe.swaps then s.bistFail p 3
  else
  let s := (s.showBist p 1 0).modPe (fun e => { e with bistStep := 0 })
  if s.role p = .placed then s.modPe (fun e => { e with swaps := e.swaps ++ [p] })
  else ((s.setPair p .isolated).modPe (fun e => { e with tests := e.tests.filter (fun t => t.1 ≠ p) ++ [(p, .job)] })).poolCheck

/-- SELFTEST_SWAP (R115, R117): the lowest spare takes the placement of the pair whose swap is next, and that pair is tested; a pair that a mismatch has isolated meanwhile is busy with that test. -/
def State.selftestSwap (s : State) : State :=
  match s.pe.swaps with
  | [] => s
  | p :: r =>
    let s := s.modPe (fun e => { e with swaps := r })
    match s.pe.place.findIdx? (fun x => decide (x.pair = some p)), s.spares with
    | none, _ => s.bistFail p 3
    | some _, [] => s.bistFail p 1
    | some i, q :: _ =>
      let s := ((s.takeSpare q).modPlace i (fun x => { x with pair := some q })).setPair p .isolated
      (s.modPe (fun e => { e with tests := e.tests ++ [(p, .job)] })).poolCheck

/-- A self-test job lets go of its pair: a swap that waits is dropped, and a pair under the job's test joins the pool; a test that a repair started goes on (R116). -/
def State.bistRelease (s : State) (p : Nat) : State :=
  let s := s.modPe (fun e => { e with swaps := e.swaps.filter (fun x => x ≠ p) })
  if (p, TestKind.job) ∈ s.pe.tests then (s.modPe (fun e => { e with tests := e.tests.filter (fun x => x.1 ≠ p) })).joinPool p else s

/-- A pair self-test is cancelled at a step boundary (R399). -/
def State.bistCancel (s : State) (p : Nat) : State := (s.bistRelease p).bistTold p 5 0

/-- A power fail ends every self-test without a result (R117): no pair counts as tested until the short self-test of the next start. -/
def State.testsLost (s : State) : State := s.modPe (fun e => { e with tests := [], swaps := [] })

/-! ### The output update (R15, R110, R120) -/

/-- A placement that has not committed is held: its nets keep their values with the held bit, and ENGINE_HOLD is staged once per hold (R110, R118). -/
def State.holdPlace (s : State) (pl : Nat) : State :=
  let p := nth s.pe.place pl
  let tell := !(p.stuck && p.told)
  let s := s.markHeld pl true
  let s := { s with nv := { s.nv with holds := s.nv.holds + 1 } }
  let s := (s.modPe (fun e => { e with holds := satInc 65535 e.holds })).modPlace pl (fun p => { p with held := true, told := true })
  if tell then s.stageTick 0x0092 1 [] else s

/-- Every attempt that has not committed is abandoned. -/
def State.holdLate (s : State) : State :=
  let late := (s.pe.att.filter (fun a => decide (a.st ≠ .committed))).map (fun a => a.pl)
  let s := s.modPe (fun e => { e with
    place := e.place.map (fun p => { p with held := false }), heldLast := !late.isEmpty,
    att := e.att.map (fun a => if a.st = .committed then a else { a with st := .held }) })
  late.foldl State.holdPlace s

/-- Word k of a state record (R141, R159, R168, R175); a word that no rule names is free. -/
def State.recordWordOf (s : State) (c : InstCfg) (e : ElemSt) (k : Nat) : Word :=
  let free := if 4 * k < c.size then Config.recordWord c.num k s.pe.probeSeq else 0
  let v : Env := { s := s, place := c.place }
  if k = 0 then
    pack [(0, 1, b2n e.started), (1, 1, b2n e.operate), (2, 1, b2n e.valid), (3, 1, b2n e.tout), (4, 4, e.flags), (8, 3, s.sch.group)]
  else if isOc c.kind then
    match k with
    | 1 => toSingle e.integ
    | 2 => BitVec.ofNat 32 e.shot
    | 3 => BitVec.ofNat 32 e.tus
    | 4 => toSingle e.m
    | _ => free
  else if c.kind = 0x14 then
    match k with
    | 1 => BitVec.ofNat 32 e.mode
    | 2 => BitVec.ofNat 32 e.shot
    | 3 => BitVec.ofNat 32 (v.arLeft c e)
    | _ => free
  else if c.kind = 0x15 then
    if k ≤ 6 then toSingle (e.z.getD (k - 1) 0)
    else if k = 7 then pack [(0, 8, (roundAway (v.num c 6)).toNat), (8, 8, e.mode), (16, 4, v.ends c)]
    else if k ≤ 15 then toSingle (e.z.getD (k - 2) 0)
    else free
  else free

/-- The state record of an instance as committed, in words (R120). -/
def State.recordWords (s : State) (n : Nat) : List Word :=
  match s.pe.els.find? (fun x => x.num = n), s.sch.cfg.insts.find? (fun c => c.num = n) with
  | some r, some c => (List.range (ceilDiv c.size 4)).map (s.recordWordOf c r)
  | _, _ => []

/-- The probe window takes the net store, the command word and the selected record (R120). -/
def State.probe (s : State) : State :=
  let n := bitsOf (s.reg 0x2030) 8 0
  s.modPe (fun e => { e with
    probeB := e.bnets, probeA := e.anets, probeCmd := maskOf (s.fio.dos.map (fun o => o.cmd)),
    probeRec := s.recordWords n, probeSeq := (e.probeSeq + 1) % 2 ^ 32 })

/-- The engines' part of OUTPUT_UPDATE. -/
def State.engineUpdate (s : State) : State :=
  let s := s.holdLate.updateOutputs.probe
  s.modPe (fun e => { e with updDue := false })

/-- An output update is due (R15): a tick has come since the last one. -/
def State.canUpdate (s : State) : Bool := s.pe.updDue && s.ticking

/-! ### What happens to one instance while its placement runs (R98, log entry 11) -/

/-- Events of the nets that an instance's turn changes, against what its attempt wrote before. -/
def Env.newEvents (v : Env) (b : List (Nat × Bool)) : List Ev :=
  (firsts b).flatMap (fun n => v.s.netEvents n (v.bin n) (((b.find? (fun p => p.1 = n)).map (fun p => p.2)).getD false))

/-- An instance of given kinds is settled within its placement's attempt: the new record, its nets and its events join the write buffer, and reach the stores with the commit. -/
def State.settleIn (s : State) (a : Attempt) (c : InstCfg) (e : ElemSt) (f : Env → InstCfg → ElemSt → ElemSt) : Attempt :=
  let v : Env := { s := s, place := c.place, b := a.bnets, a := a.anets, els := a.els }
  let e' := f v c e
  if e' = e then a
  else
    let w := (({ v with els := [] } : Env).put c e e')
    let new := w.b.take (w.b.length - a.bnets.length)
    { a with bnets := w.b, anets := w.a, els := putEls a.els [e'], evs := a.evs ++ w.evs ++ v.newEvents new }

/-- A happening of one instance (R98): it acts on the attempt that runs for its placement, and through the commit gate alone; with no attempt running nothing writes the record. -/
def State.modInst (s : State) (num : Nat) (kinds : List Nat) (f : Env → InstCfg → ElemSt → ElemSt) : State :=
  match s.sch.cfg.insts.find? (fun c => c.num = num) with
  | none => s
  | some c =>
    if c.kind ∈ kinds ∧ s.ticking then
      match s.attOf c.place with
      | none => s
      | some a =>
        match a.els.find? (fun e => e.num = num) with
        | some e => if a.st = .running ∨ a.st = .reexec then s.modAtt c.place (fun a => s.settleIn a c e f) else s
        | none => s
    else s

/-- PERSISTENT_LATCH_WRITE (R182, R184): a changed value goes to MRAM with its hallmark. -/
def State.latchWrite (s : State) (num : Nat) : State :=
  if num ∉ s.nv.latchDirty ∨ s.dm.mramFail then s
  else
    let nv := { s.nv with latchDirty := s.nv.latchDirty.filter (fun n => n ≠ num) }
    match s.pe.els.find? (fun e => e.num = num), s.sch.cfg.insts.find? (fun c => c.num = num) with
    | some e, some c =>
      { s with nv := if c.kind = 0x1A then { nv with wear := insertKey nv.wear c.name ((List.range 3).map (fun i => e.z.getD i 0), e.shot) }
        else { nv with latches := insertKey nv.latches c.name e.operate } }
    | _, _ => { s with nv := nv }

/-- Every changed persistent value is written (R275 step 4, R450). -/
def State.writeLatches (s : State) : State := s.nv.latchDirty.foldl State.latchWrite s

/-- Totals and count of a wear record cleared. -/
def wearCleared (num : Nat) (x : ElemSt) : ElemSt := if x.num = num then { x with z := [0, 0, 0] ++ x.z.drop 3, shot := 0, operate := false } else x

/-- The totals and the count of a wear instance are cleared, in the store and in the work of the tick that has not committed, with WEAR_RESET (R182, R186, R399). -/
def State.wearReset (s : State) (num : Nat) : State :=
  let s := s.modPe (fun e => { e with
    els := e.els.map (wearCleared num), att := e.att.map (fun a => { a with els := a.els.map (wearCleared num) }) })
  { s with nv := { s.nv with latchDirty := s.nv.latchDirty.filter (fun n => n ≠ num) ++ [num] } }.stage 0x00A6 0 []

/-! ### Register views (R120) -/

/-- A pair under re-execution or waiting for it. -/
def State.repairing (s : State) : Bool := s.pe.att.any (fun a => decide (a.st = .reexec))

/-- PE_STAT. -/
def State.peStat (s : State) : Word :=
  pack [(0, 5, countIf (List.range 16) s.pairGood), (5, 5, s.spares.length), (10, 4, s.pe.place.length), (14, 1, b2n s.spares.isEmpty),
    (15, 1, b2n s.pe.heldLast), (16, 1, b2n s.repairing)]

def roleOf : PairRole → Nat
  | .placed => 0
  | .spare => 1
  | .isolated => 2
  | .mappedOut => 3

/-- PE_PAIR_STAT. -/
def State.pairStat (s : State) : Word := pack ((List.range 16).map (fun p => (2 * p, 2, roleOf (s.role p))))

/-- PE_MAP_LO and PE_MAP_HI: the pair of a placement, 0xF where there is none. -/
def State.mapOf (s : State) (c : Nat) : Nat := ((s.pe.place[c]?).bind (fun p => p.pair)).getD 15

def State.peMapLo (s : State) : Word := pack ((List.range 8).map (fun i => (4 * i, 4, s.mapOf i)))

def State.peMapHi (s : State) : Word := pack ((List.range 6).map (fun i => (4 * i, 4, s.mapOf (8 + i))))

/-- PE_BUDGET of the selected placement. -/
def State.peBudget (s : State) : Word :=
  let p := nth s.pe.place (bitsOf (s.reg 0x2010) 3 0)
  pack [(0, 16, p.charge), (16, 16, p.peak)]

/-- PE_REPAIR_CNT, PE_BIST_STAT, PE_CODE. -/
def State.repairCnt (s : State) : Word := pack [(0, 16, s.pe.mismatches), (16, 16, s.pe.holds)]

def State.bistStat (s : State) : Word := pack [(0, 4, s.pe.bistPair), (4, 3, s.pe.bistResult), (8, 4, s.pe.bistReason), (16, 16, s.pe.bistStep)]

def State.peCode (s : State) : Word := pack [(0, 16, Config.lib), (16, 8, ceilDiv s.sch.cfg.customBytes 1024)]

/-- A word of the net and probe window (R120): addresses 0xC000-0xFFFF. -/
def State.probeWord (s : State) (addr : Nat) : Word :=
  let e := s.pe
  if addr < 0xC200 then BitVec.ofNat 32 (maskOf ((List.range 32).map (fun b => (nth e.probeB ((addr - 0xC000) * 8 + b)).v)))
  else if addr < 0xC400 then BitVec.ofNat 32 (maskOf ((List.range 32).map (fun b => (nth e.probeB ((addr - 0xC200) * 8 + b)).held)))
  else if addr < 0xD400 then toSingle (nth e.probeA ((addr - 0xC400) / 4)).v
  else if addr < 0xD800 then pack ((List.range 4).map (fun m => (8 * m, 8, (nth e.probeA (addr - 0xD400 + m)).q.toNat)))
  else if addr = 0xD800 then BitVec.ofNat 32 e.probeCmd
  else if addr < 0xE000 then 0
  else e.probeRec.getD ((addr - 0xE000) / 4) 0

end Sys2Proof.Machine
end

