-- ==== Sys2Proof/Machine/Captures.lean ====
section
/-! DEFINITION. Disturbance captures: the pre-trigger buffer, triggers, slots, the capture write, protection and export (R284-R291). -/

namespace Sys2Proof.Machine

def State.modCap (s : State) (f : Caps → Caps) : State := { s with cap := f s.cap }

/-- Operate nets of the trip logic, whose rising edge triggers a capture in template mode (R284). -/
def State.tripNets (s : State) : List Nat :=
  if s.sch.image then [] else (s.sch.cfg.insts.filter (fun c => c.kind = 0x11)).map (fun c => c.outs.getD 1 0xFFFF)

/-- The CAPTURE section in force; without one, lengths and mask that the spec does not give (log entry 20). -/
def State.capCfg (s : State) : CaptureCfg :=
  s.sch.cfg.capture.getD { pre := Config.capturePre, post := Config.capturePost, mask := Config.captureMask % 65536, nets := [], trigs := s.tripNets, protect := false }

/-- Ticks of a time in ms (R284). -/
def msTicks (fp ms : Nat) : Nat := divRound (ms * fp) 1000

/-- Ticks that the pre-trigger buffer holds (R288). -/
def capBuffer : Nat := 17476

/-- Most ticks of one capture (R225). -/
def capTicks : Nat := 8640

/-! ### Slots (R285, R289) -/

/-- Offset of a slot in MRAM. -/
def slotBase (k : Nat) : Nat := 0x800000 + 0x80000 * k

def State.capSlot (s : State) (k : Nat) : CapSlot := nth s.cap.slots k

def State.modSlot (s : State) (k : Nat) (f : CapSlot → CapSlot) : State := s.modCap (fun c => { c with slots := modNth c.slots k f })

/-- CRC of a slot as its bytes stand (R285). -/
def State.slotCrc (s : State) (k : Nat) : Nat := crc32c (s.mramGet (slotBase k) 0x1F8 ++ s.mramGet (slotBase k + 0x200) (0x7FF00 - 0x200))

/-- What a slot's bytes say of it: 0 empty, 1 valid, 3 hallmarked but failing its CRC. -/
def State.slotFound (s : State) (k : Nat) : CapSlot :=
  let h := s.mramGet (slotBase k) 0x200
  if field h 0x1FC 4 ≠ 0x5043585A then {}
  else
    let good := s.mramGood (slotBase k) 0x7FF00 && decide (field h 0x1F8 4 = s.slotCrc k)
    { num := field h 0 4, state := if good then 1 else 3, prot := good && decide (field h 0x21 1 % 2 = 1) }

/-- At start-up the slots are judged by their bytes. -/
def State.scanSlots (s : State) : State := s.modCap (fun c => { c with slots := (List.range 16).map s.slotFound })

/-- Slots that captures not yet written have taken. -/
def State.takenSlots (s : State) : List Nat := (s.cap.waiting.map (fun c => c.slot)) ++ (s.cap.recording.toList.map (fun c => c.slot))

/-- The slot that a capture takes (R289, R290): the lowest without a valid hallmark, otherwise the unprotected one with the oldest number. -/
def State.chooseSlot (s : State) : Option Nat :=
  let free := (List.range 16).filter (fun k => decide (k ∉ s.takenSlots) && (s.capSlot k).lease.isNone && decide ((s.capSlot k).state ≠ 2))
  match free.find? (fun k => decide ((s.capSlot k).state ≠ 1)) with
  | some k => some k
  | none =>
    (free.filter (fun k => !(s.capSlot k).prot)).foldl (fun a k =>
      match a with
      | none => some k
      | some b => if (s.capSlot k).num < (s.capSlot b).num then some k else a) none

/-- A capture is lost (R288, R289). -/
def State.capLost (s : State) : State := (s.modCap (fun c => { c with lost := satInc 65535 c.lost })).stage 0x00E6 1 []

/-! ### Recording (R284) -/

/-- The tick just past, with the nets committed for it. -/
def State.tickRec (s : State) : TickRec :=
  { words := (List.range 16).map s.word, nets := maskOf (s.capCfg.nets.map s.binRef), ot := s.pe.tickOt }

/-- States in which captures run (R284). -/
def State.capRuns (s : State) : Bool := decide (s.sys.st = .blocked ∨ s.sys.st = .inService ∨ s.sys.st = .standby ∨ s.sys.st = .test)

/-- A new capture at its trigger tick (R284, R285). -/
def State.newCapture (s : State) (slot : Nat) (r : TickRec) (trigs : List Nat) : Capture :=
  let c := s.capCfg
  let pre := (s.cap.buf.take (msTicks s.fp c.pre)).reverse
  let w := wallAt s.ptp r.ot
  let want := msTicks s.fp (c.pre + c.post) - (msTicks s.fp c.pre - pre.length)
  { slot := slot, num := s.cap.nextNum, want := min capTicks (max want (pre.length + 1)), ticks := pre ++ [r], trigIx := pre.length,
    trigs := (trigs.map (fun t => (pre.length, t))).take 16, moreTrigs := decide (16 < trigs.length),
    ot := r.ot, qual := s.otQual true, pcc := s.pwr.pcc,
    wall := { sec := w.1, ns := w.2, qual := b2n (decide (s.ptp.state = 2)) + 2 * b2n (decide (s.ptp.state = 3)) + 4 * b2n s.ptp.stepped },
    test := decide (s.sys.st = .test), protect := false, chans := c.mask, netRefs := c.nets, gen := if s.sch.image then s.sch.cfg.gen else 0,
    gd := gdNs s.flt.eff, fp := fpSel s.fp, gains := (List.range 16).map (fun i => (s.afeCh i).gain),
    ks := (List.range 16).map (fun i => (s.chan i).ks) }

/-- CAPTURE_TRIGGER (R284, R288, R425): a capture starts, or joins the trigger list of the one that records, or is lost. -/
def State.trigger (s : State) (r : TickRec) (trigs : List Nat) : State :=
  if trigs = [] then s
  else
    let s := s.raiseOp
    match s.cap.recording with
    | some c =>
      let all := c.trigs ++ trigs.map (fun t => (c.ticks.length - 1, t))
      s.modCap (fun x => { x with recording := some { c with trigs := all.take 16, moreTrigs := c.moreTrigs || decide (16 < all.length) } })
    | none =>
      if 2 ≤ s.cap.waiting.length then s.capLost
      else
        match s.chooseSlot with
        | none => s.capLost
        | some k => s.modCap (fun x => { x with recording := some (s.newCapture k r trigs), nextNum := (x.nextNum + 1) % 2 ^ 32 })

/-- A TRIP record with an OT within the capture's ticks protects its slot (R289). -/
def protects (trip : Option Nat) (c : Capture) : Bool :=
  match trip, c.ticks.head?, c.ticks.getLast? with
  | some t, some a, some b => decide (a.ot ≤ t ∧ t ≤ b.ot)
  | _, _, _ => false

/-- A capture whose ticks are complete, or that an activation ends, waits to be written, and the write job starts (R288, R291). -/
def State.endCapture (s : State) : State :=
  match s.cap.recording with
  | none => s
  | some c =>
    let c := { c with protect := c.protect || (s.capCfg.protect && protects s.cap.trip c) }
    s.modCap (fun x => { x with
      recording := none, waiting := x.waiting ++ [c], writing := true, written := if x.writing then x.written else 0 })

/-- CAPTURE_END (R288). -/
def State.captureEnd (s : State) : State :=
  match s.cap.recording with
  | some c => if c.want ≤ c.ticks.length then s.endCapture else s
  | none => s

/-- A structural activation ends the capture that records and starts the buffer afresh (R284, R291). -/
def State.captureActivated (s : State) : State := s.endCapture.modCap (fun x => { x with buf := [], prev := [] })

/-- The tick that is due is recorded: into the capture that records and into the buffer, and its triggers are judged. -/
def State.captureTick (s : State) : State :=
  if s.cap.due = false then s
  else
    let s := s.captureEnd
    let r := s.tickRec
    let now := s.capCfg.trigs.map s.binRef
    let edge := (List.range now.length).filter (fun i => s.capRuns && decide (s.cap.prev.length = now.length) && nth now i && !nth s.cap.prev i)
    let trigs := edge ++ (if s.cap.host then [255] else [])
    let grow := fun c : Capture => if c.ticks.length < c.want then { c with ticks := c.ticks ++ [r], test := c.test || decide (s.sys.st = .test) } else c
    let s := s.modCap (fun x => { x with recording := x.recording.map grow, due := false, host := false, prev := now })
    let s := s.trigger r trigs
    let prot := s.capCfg.protect
    let trip := s.cap.trip
    s.modCap (fun x => { x with
      buf := (r :: x.buf).take capBuffer,
      recording := x.recording.map (fun c => if prot && protects trip c then { c with protect := true } else c) })

/-- A tick has been latched: it is recorded once its nets are committed, and takes a host trigger written before it. -/
def State.captureDue (s : State) : State :=
  let on := s.capRuns || decide (s.sys.st = OpState.failsafe)
  s.modCap (fun x => { x with due := on, host := x.hostTrig && on, hostTrig := x.hostTrig && !on })

/-! ### Writing a slot (R285-R288) -/

/-- Value field of a word, zero for a channel outside the mask. -/
def capValue (mask n : Nat) (w : Word) : List Byte := if mask.testBit n then leBytes 3 (bitsOf w 31 8) else zeros 3

/-- A tick record (R286). -/
def capRecord (mask : Nat) (r : TickRec) : List Byte :=
  (List.range 16).flatMap (fun n => capValue mask n (nth r.words n)) ++ b8 r.nets
    ++ b2 (maskOf (r.words.map (fun w => bitAt w 7))) ++ b2 (maskOf (r.words.map (fun w => bitAt w 5)))

/-- Quality bits that make a log entry when one of them changes (R287). -/
def logBits (w : Word) : Nat := bitsOf w 7 0 &&& 0x5E

/-- Log entries of a tick after the tick before it. -/
def logTick (mask i : Nat) (old : Option TickRec) (r : TickRec) : List (List Byte) :=
  ((List.range 16).filter (fun n => mask.testBit n &&
    (match old with
      | none => true
      | some o => decide (logBits (nth o.words n) ≠ logBits (nth r.words n))))).map (fun n => b2 i ++ b1 n ++ b1 (bitsOf (nth r.words n) 7 0))

/-- The whole log of a capture's ticks. -/
def logAll (mask : Nat) : Nat → Option TickRec → List TickRec → List (List Byte)
  | _, _, [] => []
  | i, o, r :: t => logTick mask i o r ++ logAll mask (i + 1) (some r) t

/-- Entries that the quality log holds. -/
def logRoom : Nat := 1280

/-- Header of a capture's slot, bytes 0x000-0x1F7 (R285). -/
def capHeader (c : Capture) : List Byte :=
  let log := logAll c.chans 0 none c.ticks
  b4 c.num ++ b4 c.pcc ++ b8 (c.ot % 2 ^ 56 + c.qual * 2 ^ 56) ++ (b8 c.wall.sec ++ b4 c.wall.ns ++ b2 c.wall.qual ++ zeros 2) ++ b1 c.fp
    ++ b1 (b2n c.protect + 2 * b2n (decide (logRoom < log.length)) + 4 * b2n c.test + 8 * b2n c.moreTrigs)
    ++ b2 c.ticks.length ++ b2 c.trigIx ++ b2 c.chans ++ b2 (min logRoom log.length) ++ b2 c.trigs.length ++ b4 c.gd ++ b4 c.gen
    ++ c.gains.flatMap b1 ++ (List.range 16).flatMap (fun i => b4 (toSingle (c.ks.getD i 0)).toNat)
    ++ (List.range 64).flatMap (fun i => b2 (c.netRefs.getD i 0xFFFF))
    ++ padTo 64 (c.trigs.flatMap (fun t => b2 t.1 ++ b1 t.2 ++ zeros 1)) ++ zeros 180

/-- Bytes cut into pieces of 1 KiB with their offsets. -/
def pieces : Nat → Nat → List Byte → List (Nat × List Byte)
  | 0, _, _ => []
  | n + 1, off, l => if l.isEmpty then [] else (off, l.take 1024) :: pieces n (off + 1024) (l.drop 1024)

/-- What the write job writes, in order, up to the header; the CRC and the hallmark follow. -/
def capPieces (c : Capture) : List (Nat × List Byte) :=
  [(0x1FC, zeros 4)] ++ pieces 520 0x1600 (c.ticks.flatMap (capRecord c.chans))
    ++ pieces 6 0x200 (((logAll c.chans 0 none c.ticks).take logRoom).flatten) ++ [(0, capHeader c)]

/-- One step of the capture write job (R288); the last ends it with CAPTURE_WRITTEN. -/
def State.capStep (s : State) : State :=
  match s.cap.waiting with
  | [] => s
  | c :: rest =>
    if s.cap.writing = false ∨ s.dm.mramFail then s
    else
      let ps := capPieces c
      let base := slotBase c.slot
      let k := s.cap.written
      let s := s.modSlot c.slot (fun x => { x with state := 2 })
      let s := s.modCap (fun x => { x with written := k + 1 })
      if k < ps.length then
        let p := nth ps k
        s.mramPut (base + p.1) p.2
      else if k = ps.length then s.mramPut (base + 0x1F8) (b4 (s.slotCrc c.slot))
      else
        let s := s.mramPut (base + 0x1FC) (b4 0x5043585A)
        let s := s.modSlot c.slot (fun x => { x with num := c.num, state := 1, prot := c.protect })
        let s := s.modCap (fun x => { x with waiting := rest, writing := !rest.isEmpty, written := 0 })
        s.stage 0x00E5 0 (b4 c.slot ++ b4 c.num)

/-- Captures that wait are written whole, as before a shutdown (R450). -/
def State.capFlush (s : State) : State :=
  let n := (s.cap.waiting.map (fun c => (capPieces c).length + 2)).foldl (· + ·) 0
  (List.range n).foldl (fun s _ => s.capStep) s

/-- Captures not yet written are lost with a power fail or a reset; the slot being written stays without a hallmark (R291). -/
def State.dropCaptures (s : State) : State :=
  s.modCap (fun x => { x with
    buf := [], recording := none, waiting := [], writing := false, written := 0, hostTrig := false, due := false, host := false, prev := [],
    slots := x.slots.map (fun k => if k.state = 2 then { k with state := 0, num := 0, prot := false, lease := none } else { k with lease := none }) })

/-! ### Protection and export (R289, R290) -/

/-- The protected flag of a valid slot changes, in the header too, whose CRC then covers it. -/
def State.setProt (s : State) (k : Nat) (p : Bool) : State :=
  if (s.capSlot k).state ≠ 1 then s
  else
    let h := field (s.mramGet (slotBase k + 0x21) 1) 0 1
    let s := (s.modSlot k (fun x => { x with prot := p })).mramPut (slotBase k + 0x21) (b1 (h / 2 * 2 + b2n p))
    s.mramPut (slotBase k + 0x1F8) (b4 (s.slotCrc k))

/-- CAP_SLOT_SEL of a class: slot and page. -/
def State.selSlot (s : State) (cls : KeyClass) : Nat := bitsOf (s.reg (bankKey 0x3408 (clsIx cls))) 3 0

def State.selPage (s : State) (cls : KeyClass) : Nat := bitsOf (s.reg (bankKey 0x3408 (clsIx cls))) 10 4

/-- SLOT_PROTECT, SLOT_UNPROTECT: a write of CAP_SLOT_CTL; 1 in both bits is ignored. -/
def State.writeSlotCtl (s : State) (cls : KeyClass) (v : Word) : State :=
  match bitsOf v 1 0 with
  | 1 => s.setProt (s.selSlot cls) true
  | 2 => s.setProt (s.selSlot cls) false
  | _ => s

/-- CAP_TRIG: a write of CAP_CTL. -/
def State.writeCapCtl (s : State) (v : Word) : State := if bitAt v 0 then s.modCap (fun x => { x with hostTrig := true }) else s

/-- The lease of a slot ends. -/
def State.endLease (s : State) (ticket : Nat) : State :=
  s.modCap (fun x => { x with slots := x.slots.map (fun k => if k.lease = some ticket then { k with lease := none } else k) })

/-- LEASE_TIMEOUT (R290): the export job ends and its lease lapses. -/
def State.leaseTimeout (s : State) (k : Nat) : State :=
  match (s.capSlot k).lease with
  | some t => (s.endLease t).endJob t jobDone 0
  | none => s

/-! ### Register views -/

/-- CAP_STAT. -/
def State.capStat (s : State) : Word :=
  pack [(0, 5, countIf s.cap.slots (fun k => decide (k.state = 1))), (5, 5, countIf s.cap.slots (fun k => k.prot)), (10, 2, s.cap.waiting.length),
    (12, 1, b2n s.cap.recording.isSome), (13, 1, b2n s.cap.writing), (16, 16, s.cap.lost)]

/-- CAP_SLOT_INFO and CAP_SLOT_NUM of a class's selected slot. -/
def State.slotInfo (s : State) (cls : KeyClass) : Word :=
  let k := s.capSlot (s.selSlot cls)
  pack [(0, 2, k.state), (2, 1, b2n k.prot), (3, 1, b2n k.lease.isSome)]

def State.slotNum (s : State) (cls : KeyClass) : Word := BitVec.ofNat 32 (s.capSlot (s.selSlot cls)).num

/-- A word of the capture window 0xA000-0xAFFF (R290). -/
def State.capWindow (s : State) (cls : KeyClass) (addr : Nat) : Word :=
  BitVec.ofNat 32 (leNat (s.mramGet (slotBase (s.selSlot cls) + 4096 * s.selPage cls + (addr - 0xA000)) 4))

end Sys2Proof.Machine
end

