-- ==== Sys2Proof/Machine/Streams.lean ====
section
/-! DEFINITION. The MACs and the stream contexts: sampled values and event messages, published and subscribed (R307-R323). -/

namespace Sys2Proof.Machine

/-! ### Accessors -/

def State.modSvc (s : State) (f : Svc → Svc) : State := { s with svc := f s.svc }

def State.ctx (s : State) (i : Nat) : CtxSt := nth s.svc.ctx i

def State.modCtx (s : State) (i : Nat) (f : CtxSt → CtxSt) : State := s.modSvc (fun x => { x with ctx := modNth x.ctx i f })

/-- Entry of a context in STREAMS. -/
def State.ctxCfg (s : State) (i : Nat) : Option StreamCfg := s.sch.cfg.streams[i]?

/-- Items of a context, and the number of current items of a subscribed one (R311). -/
def StreamCfg.count (c : StreamCfg) : Nat := c.items % 64

def StreamCfg.currents (c : StreamCfg) : Nat := c.rate / 8 % 32

def StreamCfg.code (c : StreamCfg) : Nat := c.rate % 4

/-- A context's MAC field admits a port (R226, R310). -/
def StreamCfg.admits (c : StreamCfg) (m : Nat) : Bool := decide (c.mac = 2 ∨ c.mac = m)

/-- A MAC works: its leaf runs and the module is awake. -/
def State.macOn (s : State) (m : Nat) : Bool := decide (m < 2) && nth s.clk.leaf (2 + m) && !s.dark

/-- Some MAC that a context names works. -/
def State.canSend (s : State) (c : StreamCfg) : Bool := (List.range 2).any (fun m => c.admits m && s.macOn m)

/-- States in which the module publishes (R23). -/
def State.publishes (s : State) : Bool := decide (s.sys.st = .blocked ∨ s.sys.st = .inService ∨ s.sys.st = .test)

/-- A frame is dropped and counted (R307). -/
def State.dropFrame (s : State) (m : Nat) : State := s.modSvc (fun x => { x with mac := modNth x.mac m (fun k => { k with dropped := satInc 65535 k.dropped }) })

/-! ### PRP (R308) -/

/-- What a trailer says of a frame: whether it is a duplicate, and the state that remembers it. -/
def State.prp (s : State) (m src : Nat) (t : Option (Nat × Nat)) : State × Bool :=
  match t with
  | none => (s, false)
  | some (sq, lan) =>
    let old := s.svc.seen.filter (fun p => decide (s.pwr.ot ≤ p.2.2.2 + 400000))
    let dup := old.any (fun p => decide (p.1 = src ∧ p.2.1 = sq))
    (s.modSvc (fun x => { x with
      dups := if dup then satInc 65535 x.dups else x.dups,
      lanErrors := if lan = m then x.lanErrors else satInc 65535 x.lanErrors,
      seen := if dup then old else (src, sq, m, s.pwr.ot) :: old,
      mac := modNth x.mac m (fun k => { k with fault := false }) }), dup)

/-- PRP_SUPERVISION. -/
def State.supervision (s : State) : State := if s.macOn 0 || s.macOn 1 then s.send [.supervision] else s

/-- PRP_LAN_FAULT. -/
def State.lanFault (s : State) (lan : Nat) : State :=
  if lan < 2 ∧ (nth s.svc.mac lan).fault = false then (s.modSvc (fun x => { x with mac := modNth x.mac lan (fun k => { k with fault := true }) })).stage 0x00F6 1 [] else s

/-- The context of a kind that a received frame belongs to (R310). -/
def State.matchCtx (s : State) (kind m mac appid hash : Nat) : Option Nat :=
  s.sch.cfg.streams.findIdx? (fun c => decide (c.kind = kind ∧ c.dst = mac ∧ c.appid = appid ∧ c.hash = hash) && c.admits m)

/-! ### Subscribed sampled values (R20, R317, R318) -/

/-- The tick at which a sample becomes readable: its second boundary is the one that puts its instant within 0.5 s of the arrival (R317). -/
def State.readAt (s : State) (cnt delay : Nat) : Nat :=
  let fp := s.fp
  let t := s.nowNs * fp / 1000000000
  (t + fp / 2 - cnt % fp) / fp * fp + cnt + delay

/-- Samples skipped by a jump of smpCnt (R317). -/
def skipped (fp last cnt : Nat) : Nat :=
  let gap := (cnt + fp - (last + 1) % fp) % fp
  if gap < fp / 2 then gap else 0

/-- SV_FRAME_RECEIVED (R310, R317). -/
def State.svFrame (s : State) (m : Nat) (f : SvIn) : State :=
  if s.macOn m = false then s
  else
    let p := s.prp m f.src f.trailer
    let s := p.1
    if p.2 then s
    else
      match s.matchCtx 0 m f.mac f.appid f.hash with
      | none => s.dropFrame m
      | some i =>
        let c := (s.ctxCfg i).getD default
        let x := s.ctx i
        if f.rate ≠ s.fp then s.modCtx i (fun x => { x with rate := satInc 255 x.rate })
        else if f.items.length ≠ c.count then s.modCtx i (fun x => { x with format := satInc 255 x.format })
        else
          let k := s.readAt f.smpCnt c.delay
          let test := f.items.any (fun it => it.2.testBit 3)
          if x.held.any (fun h => h.at_ = k) ∨ (x.started ∧ x.last = f.smpCnt) then s.modCtx i (fun x => { x with dups := satInc 255 x.dups })
          else
            let miss := if x.started then skipped s.fp x.last f.smpCnt else 0
            let s := s.modCtx i (fun x => { x with
              frames := (x.frames + 1) % 65536, missed := satAdd 65535 x.missed miss, last := f.smpCnt, test := test, started := true })
            if k ≤ s.tickNear then s.modCtx i (fun x => { x with late := satInc 255 x.late })
            else s.modCtx i (fun x => { x with held := x.held ++ [{ at_ := k, cnt := f.smpCnt, synch := f.smpSynch, items := f.items }] })

/-- Value and quality of an item (R318). -/
def svItem (currents i synch : Nat) (it : Int × Nat) : Rat × Byte :=
  ((it.1 : Rat) / (if i < currents then 1000 else 100),
    qMake (it.2.testBit 0 && !it.2.testBit 1) (it.2.testBit 2) false (it.2.testBit 3) (decide (synch = 0)) false true)

/-- Values with valid = 0. -/
def svStale (l : List (Rat × Byte)) : List (Rat × Byte) := l.map (fun p => (p.1, qClear p.2))

/-- Binary nets written from outside the engines, with their scheme events (R224). -/
def State.writeBits (s : State) (b : List (Nat × Bool)) : State :=
  let evs := s.bufferEvents b
  evs.foldl (fun s e => s.stageTick e.code e.sev e.body) (s.writeNets b [])

/-- A context becomes invalid, or valid again (R322). -/
def State.ctxLost (s : State) (i : Nat) : State := (s.modCtx i (fun x => { x with valid := false, lost := true })).stage 0x00F4 1 []

def State.ctxBack (s : State) (i : Nat) : State :=
  let was := (s.ctx i).lost
  let s := s.modCtx i (fun x => { x with valid := true, lost := false, off := 0 })
  if was then s.stage 0x00F5 0 [] else s

/-- A subscribed sampled-value context at a tick: the sample aligned to it becomes readable, or the last value with valid = 0 (R20). -/
def State.svTake (s : State) (i : Nat) (c : StreamCfg) : State :=
  let n := s.tickNear
  let x := s.ctx i
  let got := x.held.find? (fun h => h.at_ = n)
  let test := decide (s.sys.st = .test)
  let ok := match got with
    | some h => test || !h.items.any (fun it => it.2.testBit 3)
    | none => false
  let cur := match got with
    | some h => (List.range h.items.length).map (fun k => svItem c.currents k h.synch (nth h.items k))
    | none => svStale x.cur
  let s := s.modCtx i (fun x => { x with cur := cur, held := x.held.filter (fun h => decide (n < h.at_)), valid := ok, off := if ok then 0 else min 3 (x.off + 1) })
  let s := s.writeNets [] ((List.range cur.length).map (fun k => (c.first % 0x1000 + k, ({ v := (nth cur k).1, q := (nth cur k).2 } : ANet).stored)))
  if ok then s.ctxBack i
  else if x.off = 2 ∧ x.started ∧ x.lost = false then s.ctxLost i
  else s

/-! ### Subscribed event messages (R320) -/

/-- The latest message's members are taken, and the context is valid (R320). -/
def State.eventGood (s : State) (i : Nat) : State := (s.modCtx i (fun x => { x with bits := x.msg })).ctxBack i

/-- The test flag of the latest message is judged by the state as it is now (R25): outside TEST it makes the context invalid; in TEST a message that still stands is used. -/
def State.eventJudge (s : State) (i : Nat) : State :=
  let x := s.ctx i
  if x.test = false then s
  else if s.sys.st = .test then (if x.stands && !x.valid then s.eventGood i else s)
  else if x.valid then s.ctxLost i
  else s

/-- EVENT_MESSAGE_RECEIVED (R310, R320). -/
def State.eventFrame (s : State) (m : Nat) (f : EventIn) : State :=
  if s.macOn m = false then s
  else
    let p := s.prp m f.src f.trailer
    let s := p.1
    if p.2 then s
    else
      match s.matchCtx 1 m f.mac f.appid f.hash with
      | none => s.dropFrame m
      | some i =>
        let c := (s.ctxCfg i).getD default
        let x := s.ctx i
        if f.members.length ≠ c.count ∨ f.members.any (fun b => b.isNone) then s.modCtx i (fun x => { x with format := satInc 255 x.format })
        else if x.started ∧ x.last = f.stNum ∧ x.sq = f.sqNum then s.modCtx i (fun x => { x with dups := satInc 255 x.dups })
        else
          let s := s.modCtx i (fun x => { x with
            frames := (x.frames + 1) % 65536, last := f.stNum, sq := f.sqNum, ttl := f.ttl, test := f.test, started := true, got := s.pwr.ot,
            msg := f.members.map (fun b => b.getD false), stands := !f.ndsCom && !f.sim })
          if (f.test ∧ s.sys.st ≠ .test) ∨ f.ndsCom ∨ f.sim then (if x.valid then s.ctxLost i else s)
          else s.eventGood i

/-- EVENT_CONTEXT_EXPIRY (R320). -/
def State.eventExpiry (s : State) (i : Nat) : State :=
  match s.ctxCfg i with
  | some c =>
    if c.kind = 1 then
      let s := s.modCtx i (fun x => { x with stands := false })
      if (s.ctx i).valid then s.ctxLost i else s
    else s
  | none => s

/-- A subscribed event context at a tick: members, and the validity net after them, once 2 µs lie between the message and the wake (R320). -/
def State.eventTake (s : State) (i : Nat) (c : StreamCfg) : State :=
  if s.pwr.ot < (s.ctx i).got + 2 then s
  else
    let s := s.eventJudge i
    let x := s.ctx i
    let f := c.first % 0x1000
    s.writeBits ((List.range x.bits.length).map (fun k => (f + k, nth x.bits k)) ++ [(f + c.count, x.valid)])

/-- Stream inputs at a tick. -/
def State.streamTick (s : State) : State :=
  (List.range s.sch.cfg.streams.length).foldl (fun s i =>
    match s.ctxCfg i with
    | some c => if c.kind = 0 then s.svTake i c else if c.kind = 1 then s.eventTake i c else s
    | none => s) s

/-! ### Published sampled values (R313-R316) -/

/-- Samples per second, samples per frame and filter length of a rate code; a sample labelled j lies at conversion j · num / 3. -/
def pubRate (code : Nat) : Nat × Nat × Nat := if code = 1 then (4800, 2, 256) else (14400, 6, 64)

/-- A published value in INT32 counts, and whether it was limited (R315). -/
def pubCount (kind : Nat) (primary : Rat) : Int × Bool :=
  let v := roundAway (primary * (if kind = 1 then 1000 else 100))
  if v < -2147483648 then (-2147483648, true) else if 2147483647 < v then (2147483647, true) else (v, false)

/-- Quality of a published item in the encoding of IEC 61850-9-2 (R315): validity in bits [1:0], overflow 2, failure 6, inaccurate 9, test 11. -/
def pubQuality (w : Word) (spoiled offNull limited down : Bool) : Nat :=
  let dead := bitAt w 7 = false || down
  let settling := bitAt w 6 || spoiled
  let fail := dead && !bitAt w 6
  let over_ := bitAt w 5 || limited
  let inacc := settling || bitAt w 4 || offNull
  let validity := if dead || settling then 1 else if over_ || bitAt w 4 || offNull then 3 else 0
  validity + 4 * b2n over_ + 64 * b2n fail + 512 * b2n inacc + 2048 * b2n (bitAt w 3)

/-- Mean over a filter length of codes whose newest lies `o` conversions before the newest held (R314), times 64. -/
def pubMean (raw : List Int) (o lp : Nat) : Rat := (64 * sumWin raw o lp : Int) / (lp : Rat)

/-- Position of a label in conversions, times 3. -/
def pubPos3 (code j : Nat) : Nat := if code = 1 then 768 * j else 256 * j

/-- The filter output centred on a label (R314): linear between the outputs that end at the two adjacent conversions. `p` is the conversion after the newest held. -/
def pubValue (raw : List Int) (code p j : Nat) : Rat :=
  let lp := (pubRate code).2.2
  let e6 := 2 * pubPos3 code j + 3 * (lp - 1)
  let e0 := e6 / 6
  let w : Rat := ((e6 % 6 : Nat) : Rat) / 6
  let a := pubMean raw (p - 1 - e0) lp
  let b := pubMean raw (p - 1 - (e0 + 1)) lp
  if e6 % 6 = 0 then a else (1 - w) * a + w * b

/-- The newest label whose span lies within the conversions held. -/
def pubNewest (code p : Nat) : Nat :=
  let lp := (pubRate code).2.2
  let room := 6 * (p - 2) - 3 * (lp - 1)
  if code = 1 then room / 1536 else room / 512

/-- Channels of a published context. -/
def StreamCfg.chans (c : StreamCfg) : List Nat := (List.range 16).filter (fun n => c.first.testBit n)

/-- The pilot of a channel's bank is not a multiple of fc / LP (R315). -/
def State.offNull (s : State) (ch lp : Nat) : Bool :=
  let k := (s.bank (ch / 8)).kEff
  decide (k ≠ 0) && decide (k * lp % s.flt.eff.l1 ≠ 0)

/-- One item from a value in word units. -/
def State.pubItem (s : State) (ch : Nat) (value : Rat) (spoiled offNull : Bool) : Int × Nat :=
  let g := gainOf (s.afeCh ch).gain
  let v := pubCount (s.chan ch).kind (value * 12 / 5 * (s.chan ch).ks / ((g * 2 ^ 23 : Nat) : Rat))
  (v.1, pubQuality (s.word ch) spoiled offNull v.2 (decide (s.sch.act = .blocked)))

/-- smpCnt and items of the frame's newest sample group. -/
def State.pubFrame (s : State) (c : StreamCfg) : Nat × List (Int × Nat) :=
  if c.code = 0 then (s.tickNear % s.fp, c.chans.map (fun ch => s.pubItem ch ((wordVal (s.word ch) : Int) : Rat) false false))
  else
    let r := pubRate c.code
    let p := s.tickNear * (s.flt.eff.d1 * s.flt.eff.d2)
    let n := (pubNewest c.code p + 1) / r.2.1 * r.2.1 - r.2.1
    (n % r.1, (List.range r.2.1).flatMap (fun k => c.chans.map (fun ch =>
      let x := nth s.flt.ch ch
      s.pubItem ch (pubValue x.raw c.code p (n + k)) (decide (x.clean < r.2.2)) (s.offNull ch r.2.2))))

/-- SV_PUBLISH (R313): the frame is sent once for its newest group. -/
def State.svPublish (s : State) (i : Nat) : State :=
  match s.ctxCfg i with
  | none => s
  | some c =>
    if c.kind ≠ 2 ∨ s.publishes = false ∨ s.canSend c = false then s
    else
      let f := s.pubFrame c
      if (s.ctx i).started ∧ (s.ctx i).last = f.1 then s
      else
        let s := s.modCtx i (fun x => { x with
          frames := (x.frames + 1) % 65536, last := f.1, started := true, valid := f.2.all (fun it => it.2 % 4 ≠ 1), test := decide (s.sys.st = .test) })
        s.send [.sv i f.1 s.smpSynch f.2 (decide (s.sys.st = .test))]

/-! ### Published event messages (R319) -/

/-- T0 in ms. -/
def eventT0 (c : StreamCfg) : Nat := 250 * 2 ^ (c.rate % 8)

/-- The message of a context as it stands. -/
def State.eventOut (s : State) (i : Nat) : NetOut :=
  let x := s.ctx i
  .event i x.last x.sq x.ttl x.bits (decide (s.sys.st = .test))

/-- Contexts whose nets have changed since their latest message send one with stNum incremented (R319). -/
def State.publishEvents (s : State) : State :=
  if s.publishes = false then s
  else
    let due := (List.range s.sch.cfg.streams.length).filter (fun i =>
      match s.ctxCfg i with
      | some c => decide (c.kind = 3) && s.canSend c && (!(s.ctx i).started || decide ((List.range c.count).map (fun k => s.bnet (c.first % 0x1000 + k)) ≠ (s.ctx i).bits))
      | none => false)
    if due = [] then s
    else
      let s := due.foldl (fun s i =>
        let c := (s.ctxCfg i).getD default
        s.modCtx i (fun x => { x with
          bits := (List.range c.count).map (fun k => s.bnet (c.first % 0x1000 + k)), last := x.last + 1, sq := 0, ival := 2, ttl := 4,
          frames := (x.frames + 1) % 65536, started := true, valid := true, test := decide (s.sys.st = .test) })) s
      s.send (due.map s.eventOut)

/-- EVENT_MESSAGE_REPEAT (R319). -/
def State.eventRepeat (s : State) (i : Nat) : State :=
  match s.ctxCfg i with
  | none => s
  | some c =>
    if c.kind ≠ 3 ∨ (s.ctx i).started = false ∨ s.publishes = false ∨ s.canSend c = false then s
    else
      let next := min (2 * (s.ctx i).ival) (eventT0 c)
      let s := s.modCtx i (fun x => { x with sq := x.sq + 1, ival := next, ttl := 2 * next, frames := (x.frames + 1) % 65536, test := decide (s.sys.st = .test) })
      s.send [s.eventOut i]

/-- Every context is rebuilt (R321): buffers flushed, stNum restarts at 1. -/
def State.rebuildCtx (s : State) : State := s.modSvc (fun x => { x with ctx := s.sch.cfg.streams.map (fun _ => ({} : CtxSt)) })

/-! ### Register views -/

/-- SVC_MAC_m, SVC_PRP. -/
def State.macReg (s : State) (m : Nat) : Word :=
  let x := nth s.svc.mac m
  pack [(0, 1, b2n x.link), (1, 2, x.speed), (3, 1, b2n x.fault), (16, 16, x.dropped)]

def State.prpReg (s : State) : Word := pack [(0, 16, s.svc.dups), (16, 16, s.svc.lanErrors)]

/-- The selected context. -/
def State.ctxSel (s : State) : Nat := bitsOf (s.reg 0x3C10) 6 0

/-- SVC_CTX_STAT, SVC_CTX_CNT, SVC_CTX_ERR. -/
def State.ctxStat (s : State) : Word :=
  let x := s.ctx s.ctxSel
  match s.ctxCfg s.ctxSel with
  | some c => pack [(0, 2, c.kind), (2, 1, 1), (3, 1, b2n x.valid), (4, 1, b2n x.test), (16, 16, x.last)]
  | none => 0

def State.ctxCnt (s : State) : Word := pack [(0, 16, (s.ctx s.ctxSel).frames), (16, 16, (s.ctx s.ctxSel).missed)]

def State.ctxErr (s : State) : Word :=
  let x := s.ctx s.ctxSel
  pack [(0, 8, x.late), (8, 8, x.dups), (16, 8, x.format), (24, 8, x.rate)]

/-- SVC_PUB_DLY_k (R313). -/
def State.pubDelay (s : State) (k : Nat) : Word :=
  match (s.sch.cfg.streams.filter (fun c => c.kind = 2))[k]? with
  | none => 0
  | some c =>
    match c.code with
    | 1 => pack [(0, 24, 104574), (24, 2, 1), (26, 1, 1)]
    | 2 => pack [(0, 24, 26449), (24, 2, 2), (26, 1, 1)]
    | _ => pack [(0, 24, gdNs s.flt.eff), (24, 2, 0)]

/-- SVC_CTX_VALID_w. -/
def State.ctxValid (s : State) (w : Nat) : Word := BitVec.ofNat 32 (maskOf ((List.range 32).map (fun b => (s.ctx (32 * w + b)).valid)))

end Sys2Proof.Machine
end

