-- ==== Sys2Proof/Machine/Chain.lean ====
section
/-! DEFINITION. The chain link: ports and training, lanes, the unit slots of every unit, and the register views (R324-R345, R361). -/

namespace Sys2Proof.Machine

/-! ### Accessors -/

def State.modChn (s : State) (f : Chain → Chain) : State := { s with chn := f s.chn }

def State.port (s : State) (p : Nat) : ChnPort := nth s.chn.ports p

def State.modPort (s : State) (p : Nat) (f : ChnPort → ChnPort) : State := s.modChn (fun x => { x with ports := modNth x.ports p f })

def State.portUp (s : State) (p : Nat) : Bool := decide ((s.port p).st = .up)

def State.anyUp (s : State) : Bool := s.portUp 0 || s.portUp 1

/-- What the unit knows of the unit at an address. -/
def State.src (s : State) (a : Nat) : ChnSrc := lookupD s.chn.src a {}

def State.modSrc (s : State) (a : Nat) (f : ChnSrc → ChnSrc) : State := s.modChn (fun x => { x with src := insertKey x.src a (f (lookupD x.src a {})) })

/-- Chain cycles in a protection period (R334). -/
def State.perPeriod (s : State) : Nat := 76800 / s.fp

/-- A change to the ports or to the mark sender may move the time source (R296). -/
def State.moveTime (s : State) (f : State → State) : State := (f s).srcMoved s.srcEff

/-! ### Training (R331, R332, R465) -/

/-- The lane PLL supplies the ports. -/
def State.laneRuns (s : State) : Bool := s.clk.laneLock || s.clk.laneHold

/-- A port that can train: its leaf runs, the lane clock is there, the unit is powered (R331, R359, R422). -/
def State.portMay (s : State) (p : Nat) : Bool := decide (p < 2) && nth s.clk.leaf p && s.laneRuns && !s.dark

/-- PORT_CLOCK_RECEIVED (R331). -/
def State.portClock (s : State) (p : Nat) : State :=
  if s.portMay p ∧ (s.port p).st = .down then s.modPort p (fun x => { x with st := .clock, trainings := satInc 255 x.trainings }) else s

/-- A port goes to DOWN; CHAIN_PORT_DOWN when it leaves service, and what it brought ends (R332, R360). -/
def State.portDown (s : State) (p : Nat) : State :=
  let was := decide ((s.port p).st = .up ∨ (s.port p).st = .recovery)
  let s := s.moveTime (fun s => s.modPort p (fun x => { x with st := .down, marks := false, pairs := 0, seen := false, back := 0 }))
  let s := if s.chn.upstream = some p ∧ was then s.modChn (fun x => { x with upstream := if (nth x.ports (1 - p)).marks then some (1 - p) else none }) else s
  if was then s.stage 0x0101 1 (b1 p) else s

/-- A port goes to UP (R360). -/
def State.toUp (s : State) (p : Nat) : State :=
  (s.moveTime (fun s => s.modPort p (fun x => { x with st := .up, marks := false, pairs := 0, seen := false, back := 0, missed := 0, upOt := s.pwr.ot }))).stage 0x0100 0 (b1 p)

/-- A receive lane of a port is mapped out (R465). -/
def State.laneOut (s : State) (p l : Nat) : Bool := decide ((nth s.dm.map.lanes (5 * p + l)).1 ≠ 0)

/-- Lanes that may serve: free of errors and not mapped out (R331, R465). -/
def State.serving (s : State) (p good : Nat) : List Nat := (List.range 5).filter (fun l => good.testBit l && !s.laneOut p l)

/-- The physical lane that is left when the lowest four of a list serve. -/
def spareLane (l : List Nat) : Nat := ((List.range 5).filter (fun x => x ∉ l.take 4)).headD 4

/-- One lane's judgement: three failed ones in a row map it out (R465). -/
def State.judgeLane (s : State) (p good l : Nat) : State :=
  let k := 5 * p + l
  let o := nth s.dm.map.lanes k
  let n : Nat × Nat := if o.1 ≠ 0 then o else if good.testBit l then (0, 0) else (if 2 ≤ o.2 then 2 else 0, min 3 (o.2 + 1))
  if n = o then s
  else
    let s := { s with dm := { s.dm with map := { s.dm.map with lanes := s.dm.map.lanes.set k n }, dirty := true } }
    if n.1 = 2 then s.stage 0x0156 2 (b1 p ++ b1 l) else s

/-- The SPARE judgement of a port's receiver: which lanes serve and which failed (R331, R332). -/
def State.judgeLanes (s : State) (p good : Nat) : State :=
  let s := (List.range 5).foldl (fun s l => s.judgeLane p good l) s
  s.modPort p (fun x => { x with rxSpare := spareLane (s.serving p good), rxFailed := maskOf ((List.range 5).map (fun l => !good.testBit l || s.laneOut p l)) })

/-- What the far receiver reports of this side's transmit lanes (R330, R331). -/
def State.farLanes (s : State) (p failed : Nat) : State :=
  s.modPort p (fun x => { x with txSpare := spareLane ((List.range 5).filter (fun l => !failed.testBit l)) })

/-- The marker and lane criteria that training and recovery share. -/
def alignOk (t : TrainIn) : Bool := decide (4 ≤ countIf t.markers (fun n => 8 ≤ n))

def switchOk (t : TrainIn) : Bool := t.farSpare && decide (4 ≤ t.k285)

/-- TRAINING_ADVANCE (R331). -/
def State.trainAdvance (s : State) (p : Nat) (t : TrainIn) : State :=
  if !s.portMay p then s
  else
    let goto_ := fun st => s.modPort p (fun x => { x with st := st })
    match (s.port p).st with
    | .clock => if 8 ≤ t.windows then goto_ .align else s
    | .align => if alignOk t then goto_ .deskew else s
    | .deskew => if t.aligned then goto_ .spare else s
    | .spare => if 4 ≤ (s.serving p t.goodLanes).length then (s.judgeLanes p t.goodLanes).modPort p (fun x => { x with st := .switch }) else s
    | .switch => if switchOk t then (s.farLanes p t.farFailed).toUp p else s
    | _ => s

/-- TRAINING_TIMEOUT (R331): a state that has a timeout. -/
def State.trainTimeout (s : State) (p : Nat) : State :=
  match (s.port p).st with
  | .clock | .align | .deskew | .spare | .switch => s.portDown p
  | _ => s

/-- The conditions of R332. -/
def recoveryDue : RecoveryCause → Bool
  | .violations _ symbols => decide (symbols ≤ 1024)
  | .clockLoss ns => decide (10 ≤ ns)
  | .crcRuns cycles => decide (3 ≤ cycles)

/-- RECOVERY_ENTRY (R332): the four violations of the first cause count in the port's register. -/
def State.recoveryEntry (s : State) (p : Nat) (c : RecoveryCause) : State :=
  if s.portUp p ∧ recoveryDue c then
    let n := match c with
      | .violations _ _ => 4
      | _ => 0
    (s.modPort p (fun x => { x with st := .recovery, recoveries := satInc 255 x.recoveries, violations := satAdd 65535 x.violations n, pairs := 0 })).stage 0x0103 0 (b1 p)
  else s

/-- RECOVERY_DONE (R332): back to UP with the lanes that serve now, or DOWN. -/
def State.recoveryDone (s : State) (p : Nat) (t : TrainIn) : State :=
  if (s.port p).st ≠ .recovery then s
  else
    let old := (s.port p).rxSpare
    let s := s.judgeLanes p t.goodLanes
    if 4 ≤ (s.serving p t.goodLanes).length ∧ alignOk t ∧ t.aligned ∧ switchOk t then
      let new := (s.port p).rxSpare
      let s := (s.farLanes p t.farFailed).toUp p
      if new ≠ old ∧ (s.port p).rxFailed.testBit new then s.stage 0x0102 1 (b1 p ++ b1 0 ++ b1 new) else s
    else s.portDown p

/-! ### The unit's own slot (R337-R343) -/

/-- Channel words of the part: invalid from an activation's reference to its boundary (R238, R239), otherwise the tick's, which stay invalid for the N outputs that follow the boundary. -/
def State.slotWord (s : State) (c : Nat) : Word :=
  if s.sch.act = .blocked then invalidWord (s.word c) ((s.coreOf c).isSome && !(s.afeCh c).cal) else s.word c

/-- A delay in units of 0.1 ns with bit 31 for measured (R336, R338). -/
def delayWord (d : Option Nat) (m : Bool) : Word := pack [(0, 31, d.getD 0), (31, 1, b2n m)]

/-- Stamp of the unit's zone n as its image declares it (R338). -/
def State.zoneStamp (s : State) (n : Nat) : Word :=
  match (s.sch.cfg.insts.filter (fun c => c.kind = 0x15))[n]? with
  | some c => (c.sets.getD s.sch.group []).getD 11 0
  | none => 0

/-- Info word of an index (R338). -/
def State.infoWord (s : State) (i : Nat) : Word :=
  match i with
  | 0 => BitVec.ofNat 32 (gdNs s.flt.eff)
  | 1 => pack [(0, 2, fpSel s.fp), (4, 4, stCode s.sys.st), (8, 3, s.ptp.state)]
  | 2 => delayWord s.chn.d1 s.chn.measured
  | 7 => if s.sch.image then BitVec.ofNat 32 s.sch.cfg.gen else 0
  | n => s.zoneStamp (n - 3)

/-- Exports as committed, one bit per shared net; none while the address is not the image's (R341, R359). -/
def State.sharedNets (s : State) : List Byte :=
  let ex := match s.sch.cfg.chain with
    | some c => if s.chn.mismatch then [] else c.exports
    | none => []
  let on : List Nat := (ex.filter (fun e => s.binRef e.2)).map (fun e => e.1)
  (List.range 64).map (fun k => BitVec.ofNat 8 (maskOf ((List.range 8).map (fun b => decide (8 * k + b ∈ on)))))

/-- The excerpt channels of the CHAIN section. -/
def State.xcpChans (s : State) : List Nat :=
  match s.sch.cfg.chain with
  | some c => if s.chn.mismatch then [] else c.xcp
  | none => []

/-- One excerpt code: the conversions that end at a tick are known; those of a later cycle of the period come from outside every command and are free (R342, log entry 21). -/
def State.xcpCode (s : State) (part j c : Nat) : List Byte :=
  if 16 ≤ c then zeros 2
  else if part = 0 then bI 2 (((nth s.flt.ch c).raw.getD (15 - j) 0) / 4)
  else leBytes 2 (Config.excerpt s.chn.second s.chn.cycle (16 * c + j)).toNat

/-- The excerpt field. -/
def State.xcpField (s : State) (part : Nat) : List Byte :=
  (List.range 16).flatMap (fun j => (List.range 4).flatMap (fun e => s.xcpCode part j (s.xcpChans.getD e 0xFF)))

/-- The unit is a hinged one in service that holds its control line (R337, R366). -/
def State.hingeActive (s : State) : Bool := s.hng.ctl

/-- Flags of the unit's slot (R337). -/
def State.slotFlags (s : State) : Nat :=
  b2n (running s.sys.st || decide (s.sys.st = .failsafe)) + 2 * b2n (s.xcpChans.any (fun c => c < 16)) + 4 * b2n (decide (s.sys.st = .test)) + 8 * b2n s.hingeActive

/-- The unit's slot for the running cycle (R337), with one word of the anchor stream. -/
def State.ownSlot (s : State) (anchor : Word) : List Byte :=
  let part := s.chn.cycle % s.perPeriod
  let info := s.chn.cycle % 8
  let words := if part < 4 then (List.range 4).flatMap (fun i => b4 (s.slotWord (4 * part + i)).toNat) else zeros 16
  let body := b1 s.chn.slotAddr ++ b1 s.slotFlags ++ b2 (s.chn.cycle / s.perPeriod) ++ b1 part ++ b1 info ++ zeros 2 ++ b4 (s.infoWord info).toNat
    ++ words ++ s.sharedNets ++ s.xcpField part ++ b4 ((s.hng.own.headD (0, 0)).2) ++ b4 anchor.toNat
  body ++ b4 (crc32c body)

/-- The next word of the anchor stream: the frame being sent, else a waiting one, types 2 to 5 first, else zero (R369). -/
def State.popAnchor (s : State) : Word × State :=
  let set := fun (q : List (Nat × List Word)) (f : List Word) => { s with hng := { s.hng with queue := q, flight := f } }
  match s.hng.flight with
  | w :: r => (w, set s.hng.queue r)
  | [] =>
    match (s.hng.queue.find? (fun f => f.1 ≠ 1)).orElse (fun _ => s.hng.queue.head?) with
    | some (k, w :: r) =>
      let s' := set (s.hng.queue.filter (fun f => f.1 ≠ k)) r
      (w, if k = 1 then { s' with hng := { s'.hng with anchors := (s'.hng.anchors + 1) % 65536 } } else s')
    | _ => (0, s)

/-- The unit's slot goes out on both ports in a cycle (R339); address 0 has no position. -/
def State.sendSlot (s : State) : State :=
  if s.chn.slotAddr = 0 then s.modChn (fun x => { x with slotOut := [] })
  else
    let a := s.popAnchor
    let slot := a.2.ownSlot a.1
    a.2.modChn (fun x => { x with slotOut := slot })

/-! ### Slots of other units (R339-R343) -/

/-- Words by tick number with those of one more part; four ticks are kept. -/
def putWords (l : List (Nat × List (Option Word))) (n part : Nat) (ws : List Word) : List (Nat × List (Option Word)) :=
  let old := lookupD l n (List.replicate 16 none)
  let new := (List.range 16).map (fun c => if c / 4 = part then ws[c % 4]? else nth old c)
  ((n, new) :: l.filter (fun p => p.1 ≠ n)).take 4

/-- The info word of a slot is kept (R338). -/
def ChnSrc.info (x : ChnSrc) (i : Nat) (w : Word) : ChnSrc :=
  match i with
  | 0 => { x with gd := w.toNat }
  | 1 => { x with fpSel := some (bitsOf w 1 0), state := bitsOf w 7 4 }
  | 2 => { x with d1 := if bitAt w 31 then some (bitsOf w 30 0) else none }
  | 7 => { x with generation := w.toNat }
  | n => { x with stamps := x.stamps.set (n - 3) w.toNat }

/-- The contents of a good copy are taken (R339-R343). -/
def ChnSrc.take (x : ChnSrc) (l : List Byte) : ChnSrc :=
  let n := field l 2 2
  let part := field l 4 1
  let ws := (List.range 4).map (fun i => BitVec.ofNat 32 (field l (0xC + 4 * i) 4))
  { x.info (field l 5 1 % 8) (BitVec.ofNat 32 (field l 8 4)) with
    taken := true, flags := field l 1 1,
    words := if part < 4 then putWords x.words n part ws else x.words,
    inNets := slice l 0x1C 64, inXcp := slice l 0x5C 128,
    digests := ((n, field l 0xDC 4) :: x.digests.filter (fun d => d.1 ≠ n)).take 4 }

/-- CHAIN_FP_MISMATCH, once per source (R340). -/
def State.fpCheck (s : State) (a : Nat) : State :=
  let x := s.src a
  match x.fpSel with
  | some f => if f ≠ fpSel s.fp ∧ x.fpTold = false then (s.modSrc a (fun y => { y with fpTold := true })).stage 0x010C 2 (b1 a) else s
  | none => s

/-- The bytes of a slot, none where a symbol came in error or as K30.7. -/
def slotBytes : List RxSym → Option (List Byte)
  | [] => some []
  | .data b :: r => (slotBytes r).map (fun l => b :: l)
  | _ :: _ => none

/-- Violations and K30.7 symbols of a slot, counted for the port that received it: a K30.7 spoils its slot and is no violation of the link (R329). -/
def State.countSymbols (s : State) (p : Nat) (l : List RxSym) : State :=
  s.modPort p (fun x => { x with
    violations := satAdd 65535 x.violations (countIf l (fun y => y = .violation)), k307 := satAdd 255 x.k307 (countIf l (fun y => y = .error)) })

/-- A slot is forwarded by the other port, with K30.7 in place of each symbol that came in error (R329, R344). -/
def State.relaySlot (s : State) (p pos : Nat) (l : List RxSym) : State :=
  if s.portUp (1 - p) then s.modPort (1 - p) (fun x => { x with relay := insertKey x.relay pos (l.map symForward) }) else s

/-- A slot fails its CRC: the port counts it. -/
def State.crcFailed (s : State) (p : Nat) : State := s.modPort p (fun x => { x with crc := satInc 255 x.crc })

/-- The bytes of a unit's slot (R339): a bad copy counts; the own position is stripped; the first good copy of a cycle is taken. -/
def State.takeSlot (s : State) (p pos : Nat) (l : List Byte) : State :=
  if l.length ≠ 232 ∨ field l 0xE4 4 ≠ crc32c (l.take 0xE4) then s.crcFailed p
  else if pos = s.chn.addr ∨ field l 0 1 ≠ pos ∨ (s.src pos).taken then s
  else (s.modSrc pos (fun x => { x.take l with lost := false })).fpCheck pos

/-- UNIT_SLOT_RECEIVED (R339): a zero slot is an empty position; another unit's goes on through the other port, and the unit's own slot takes its own position's place. -/
def State.unitSlot (s : State) (p pos : Nat) (l : List RxSym) : State :=
  if !s.portUp p || decide (pos = 0 ∨ 63 < pos) || l.all (fun b => b = .data 0) then s
  else
    let s := s.countSymbols p l
    let s := if pos = s.chn.addr then s else s.relaySlot p pos l
    match slotBytes l with
    | some b => s.takeSlot p pos b
    | none => s.crcFailed p

/-- A cycle has ended for a source: what it brought is complete, or its slot was absent (R19, R339, R341). -/
def ChnSrc.close (x : ChnSrc) : ChnSrc :=
  if x.taken then { x with present := true, absent := 0, taken := false, nets := x.inNets, xcp := x.inXcp }
  else { x with present := false, absent := x.absent + 1, xcp := [] }

/-- SLOT_LOSS (R341): no slot for 3 cycles, marks or none; imports write 0, and CHAIN_SLOT_LOST goes out once. -/
def State.slotLoss (s : State) (a : Nat) : State :=
  let x := s.src a
  let due := decide (3 ≤ x.absent) || (!x.taken && (s.chn.marksLost || !s.anyUp))
  if s.chn.src.any (fun q => q.1 = a) && due && !x.lost then
    (s.modSrc a (fun y => { y with present := false, lost := true, nets := [], xcp := [] })).stage 0x010D 1 (b1 a)
  else s

/-- A shared net of a source in its latest complete cycle. -/
def ChnSrc.net (x : ChnSrc) (i : Nat) : Bool := !x.lost && (nth x.nets (i / 8)).toNat.testBit (i % 8)

/-- Imports write their local nets at a tick (R341). -/
def State.importNets (s : State) : State :=
  match s.sch.cfg.chain with
  | some c => if s.chn.mismatch then s else s.writeBits (c.imports.map (fun i => (i.2.2, (s.src i.1).net i.2.1)))
  | none => s

/-- The words of tick n become readable; a word that has not come keeps its last value (R18, R340). -/
def ChnSrc.readable_ (x : ChnSrc) (n : Nat) : ChnSrc :=
  let ws := lookupD x.words n (List.replicate 16 none)
  { x with
    readable := (List.range 16).map (fun c => (nth ws c).getD (nth x.readable c)),
    arrived := (List.range 16).map (fun c => (nth ws c).isSome) }

/-- Number within the second of the tick k ticks before the present one. -/
def State.tickNo (s : State) (k : Nat) : Nat := (s.tickNear + s.fp - k % s.fp) % s.fp

/-- What a tick reads of the chain: the words of the tick two before, and the imports (R18, R340, R341). -/
def State.chainTick (s : State) : State :=
  let n := s.tickNo 2
  let s := s.modChn (fun c => { c with src := c.src.map (fun q => (q.1, q.2.readable_ n)) })
  (s.chn.src.foldl (fun s q => s.fpCheck q.1) s).importNets

/-! ### Address and image (R359) -/

/-- The unit's address differs from the one its image expects: exports and imports stop, and CHAIN_ADDR_CONFLICT is staged once (R359). -/
def State.checkAddr (s : State) : State :=
  let bad := match s.sch.cfg.chain with
    | some c => decide (c.addr ≠ 0 ∧ s.chn.addr ≠ 0 ∧ c.addr ≠ s.chn.addr)
    | none => false
  let was := s.chn.mismatch
  let s := s.modChn (fun x => { x with mismatch := bad })
  if bad && !was then s.stage 0x0107 2 [] else s

/-! ### Register views (R361) -/

def portCode : PortState → Nat
  | .down => 0
  | .clock => 1
  | .align => 2
  | .deskew => 3
  | .spare => 4
  | .switch => 5
  | .up => 6
  | .recovery => 7

/-- CHN_STAT. -/
def State.chnStat (s : State) : Word :=
  let c := s.chn
  pack [(0, 6, c.addr), (6, 1, b2n s.pwr.rootStrap), (7, 1, b2n c.sender), (8, 2, c.ring), (10, 1, b2n c.conflict), (11, 1, b2n c.full),
    (12, 6, c.members), (18, 6, c.senderAddr), (24, 6, c.deputy)]

/-- CHN_PORT_A, CHN_PORT_B. -/
def State.chnPort (s : State) (p : Nat) : Word :=
  let x := s.port p
  pack [(0, 3, portCode x.st), (3, 1, b2n (decide (s.chn.upstream = some p))), (4, 3, x.rxSpare), (7, 5, x.rxFailed), (12, 3, x.txSpare), (16, 8, x.trainings), (24, 8, x.recoveries)]

/-- CHN_ERR_A, CHN_ERR_B. -/
def State.chnErr (s : State) (p : Nat) : Word := pack [(0, 16, (s.port p).violations), (16, 8, (s.port p).crc), (24, 8, (s.port p).k307)]

/-- CHN_RING and CHN_TIME: a delay and whether it was measured. -/
def delayReg (d : Option Nat) (m : Bool) : Word := pack [(0, 20, d.getD 0), (20, 1, b2n m)]

/-- CHN_MEMBERS_LO, CHN_MEMBERS_HI: slots present in the latest cycle; the unit's own slot counts. -/
def State.chnMembers (s : State) (hi : Nat) : Word :=
  BitVec.ofNat 32 (maskOf ((List.range 32).map (fun b =>
    let a := 32 * hi + b
    decide (a ≠ 0) && ((s.src a).present || (decide (a = s.chn.slotAddr) && s.anyUp && !s.chn.slotOut.isEmpty)))))

/-- CHN_WALK. -/
def State.chnWalk (s : State) : Word := pack [(0, 16, s.chn.walk), (16, 4, s.chn.walkResult), (20, 6, s.chn.walkConf), (26, 6, s.chn.walkFull)]

/-- CHN_XSTAT. -/
def State.chnXstat (s : State) : Word := pack [(0, 16, s.chn.held), (16, 5, s.chn.peak)]

/-- Word k of the selected excerpt as the latest complete cycle holds it (R361). -/
def State.xcpWord (s : State) (k : Nat) : Word :=
  let w := s.reg 0x4040
  let x := (s.src (bitsOf w 5 0)).xcp
  pack [(0, 16, field x (16 * k + 2 * bitsOf w 7 6) 2), (16, 16, field x (16 * k + 8 + 2 * bitsOf w 7 6) 2)]

/-- CHN_XCP_DATA_0_READ (R361): the other words are latched from the same cycle. -/
def State.latchXcp (s : State) : State := s.modChn (fun x => { x with xcp := (List.range 8).map s.xcpWord })

/-- The mailbox selected by CHN_RMT_SEL. -/
def State.mboxSel (s : State) : Nat := bitsOf (s.reg 0x4030) 2 0

def State.mbox (s : State) (m : Nat) : Mailbox := nth s.chn.mbox m

def State.modMbox (s : State) (m : Nat) (f : Mailbox → Mailbox) : State := s.modChn (fun x => { x with mbox := modNth x.mbox m f })

/-- CHN_RMT_CMD, CHN_RMT_STAT. -/
def State.rmtCmd (s : State) : Word :=
  let b := s.mbox s.mboxSel
  pack [(0, 6, b.target), (8, 8, b.command), (16, 16, b.address)]

def State.rmtStat (s : State) : Word :=
  let b := s.mbox s.mboxSel
  pack [(1, 1, b2n b.busy), (4, 4, b.status), (8, 8, b.tag)]

end Sys2Proof.Machine
end

