-- ==== Sys2Proof/Machine/Hinge.lean ====
section
/-! DEFINITION. Hinge pairs: claims, digests, the anchor stream, takeover, rejoining, manual handover and wire faults (R365-R381). -/

namespace Sys2Proof.Machine

def State.modHng (s : State) (f : Hinge → Hinge) : State := { s with hng := f s.hng }

/-! ### The pair (R365-R367) -/

def State.hingeCfg (s : State) : HingeCfg := s.sch.cfg.hinge.getD { peer := 0, pref := false, mask := 0, insts := [] }

/-- What the unit knows of its peer. -/
def State.peerSrc (s : State) : ChnSrc := s.src s.hingeCfg.peer

/-- The peer's slot shows hinge active (R337, R378). -/
def State.peerFlag (s : State) : Bool := s.peerSrc.present && s.peerSrc.flags.testBit 3

/-- The peer holds control as the unit sees it: HINGE_PEER, or with a wire fault the slot's flag (R378). -/
def State.peerActive (s : State) : Bool := if s.hng.wireFault then s.peerFlag else s.hng.peer

/-- The unit is the preferred one (R367); the peer's byte is not carried to it (log entry 22). -/
def State.preferred (s : State) : Bool :=
  let own := s.hingeCfg.pref
  let peer := Config.peerPref s.hingeCfg.peer
  if own = peer then decide (s.chn.addr < s.hingeCfg.peer) else own

/-- A hinge activation runs on this unit (R240). -/
def State.hingeJob (s : State) : Bool := s.sch.actHinge && decide (s.sch.act ≠ .idle)

/-- A hinged unit rejoins (R376): in BLOCKED with an enabling scheme, or in FAILSAFE with every cause cleared, while its peer is active; not while an activation changes its scheme. -/
def State.rejoining (s : State) : Bool :=
  s.hinged && s.peerActive && !s.actSpan && !s.sys.shutting &&
    ((decide (s.sys.st = .blocked) && s.enabled) || (decide (s.sys.st = .failsafe) && s.sys.causes.isEmpty))

/-- HNG_STAT role: 0 not hinged, 1 active, 2 standby, 3 rejoining, 4 out. -/
def State.hingeRole (s : State) : Nat :=
  if !s.hinged then 0
  else if s.sys.st = .inService then 1
  else if s.sys.st = .standby then 2
  else if s.rejoining then 3
  else 4

/-- An anchor has been adopted within the last 250 ms (R376). -/
def State.anchorFresh (s : State) : Bool :=
  match s.hng.adopted with
  | some t => decide (s.pwr.ot ≤ t + 250000)
  | none => false

/-- A ready standby (R376). -/
def State.hingeReady (s : State) : Bool := decide (s.sys.st = .standby) && s.hinged && s.anchorFresh && !s.hng.diverged && !s.hng.wireFault

/-! ### Digests (R368) -/

/-- Value bits of the binary nets in net order, eight a byte. -/
def packBits : Nat → List Bool → List Byte
  | 0, _ => []
  | n + 1, l => if l.isEmpty then [] else BitVec.ofNat 8 (maskOf (l.take 8)) :: packBits n (l.drop 8)

/-- The digest of the tick as its update leaves it, held values included (R117, R368). -/
def State.digest (s : State) : Nat := crc32c (packBits s.pe.bnets.length (s.pe.bnets.map (fun b => b.v)))

/-- The digest of a tick is kept for the slot and for comparison. -/
def State.keepDigest (s : State) : State :=
  let n := s.tickNo 0
  let d := s.digest
  s.modHng (fun h => { h with own := ((n, d) :: h.own.filter (fun p => p.1 ≠ n)).take 4 })

/-- The unit compares digests: as standby, or rejoining once it has an anchor; not in a hinge activation (R240, R368, R376). -/
def State.compares (s : State) : Bool := s.hinged && s.peerActive && !s.hingeJob && (decide (s.sys.st = .standby) || (s.rejoining && s.hng.adopted.isSome))

def State.digTol (s : State) : Nat := bitsOf (s.reg 0x4400) 17 8

/-- Comparison of the tick whose words become readable now: an equal tick or an absent slot ends the run (R368). -/
def State.compareDigest (s : State) : State :=
  let n := s.tickNo 2
  let own := s.hng.own.find? (fun p => p.1 = n)
  let peer := s.peerSrc.digests.find? (fun p => p.1 = n)
  let differs := match own, peer with
    | some a, some b => decide (a.2 ≠ b.2)
    | _, _ => false
  let run := if differs then min 1023 (s.hng.run + 1) else 0
  let out := decide (s.digTol < run)
  let calm := if out then 0 else min s.fp (s.hng.calm + 1)
  let was := s.hng.diverged
  let s := s.modHng (fun h => { h with
    run := run, calm := calm, diverged := out || (was && decide (calm < s.fp)),
    digest := if peer.isSome then (own.getD (n, h.digest)).2 else h.digest,
    peerDigest := if own.isSome then (peer.getD (n, h.peerDigest)).2 else h.peerDigest })
  if out && !was then s.stageTick 0x0114 1 []
  else if was && !s.hng.diverged then s.stageTick 0x0115 0 []
  else s

/-- What a tick does with digests; while none are compared no run stands. -/
def State.digestTick (s : State) : State :=
  let s := if s.sys.st = .standby ∨ s.rejoining then s else s.modHng (fun h => { h with adopted := none, diverged := false })
  if !s.compares then s.modHng (fun h => { h with comparing := false, run := 0, calm := 0 })
  else (if s.hng.comparing then s else s.modHng (fun h => { h with comparing := true, run := 0, calm := 0 })).compareDigest

/-! ### Anchor frames (R369-R372) -/

/-- A frame of a type with its body (R369). -/
def State.hingeFrame (s : State) (kind : Nat) (body : List Word) : List Word :=
  let head : List Word := [BitVec.ofNat 32 (0x484E + kind * 2 ^ 16), BitVec.ofNat 32 (4 * body.length), BitVec.ofNat 32 (s.tickNo 0 + (s.ptp.sec % 65536) * 2 ^ 16)]
  let l := head ++ body
  l ++ [BitVec.ofNat 32 (crc32c (l.flatMap (fun w => b4 w.toNat)))]

/-- A frame waits to be sent; a newer one takes the place of one of its type (R369). -/
def State.pushFrame (s : State) (kind : Nat) (body : List Word) : State :=
  let f := s.hingeFrame kind body
  s.modHng (fun h => { h with queue := h.queue.filter (fun q => q.1 ≠ kind) ++ [(kind, f)] })

/-- The part that a kind contributes, as words (R370). -/
def Env.anchorPart (v : Env) (c : InstCfg) (e : ElemSt) : List Word :=
  let n := fun k : Nat => BitVec.ofNat 32 k
  if isOc c.kind then [toSingle e.integ, n e.count]
  else if c.kind = 0x0E then [toSingle e.integ]
  else if c.kind = 0x14 then [n e.mode, n e.shot, n (v.arLeft c e)]
  else if c.kind = 0x13 then [n e.count, n e.flags]
  else if c.kind = 0x11 then [n e.count, n e.flags]
  else if c.kind = 0x12 ∨ c.kind = 0x26 then [n (b2n e.operate)]
  else if c.kind = 0x23 ∨ c.kind = 0x24 ∨ c.kind = 0x25 then [n e.count]
  else if c.kind = 0x10 then [n e.count, n e.tcount]
  else if c.kind = 0x07 then [n e.tcount]
  else if c.kind = 0x1A then [toSingle (e.z.getD 0 0), toSingle (e.z.getD 1 0), toSingle (e.z.getD 2 0), n e.shot]
  else []

/-- Kinds with a part (R370). -/
def anchorBytes (kind : Nat) : Nat :=
  if isOc kind then 8
  else if kind = 0x0E then 4
  else if kind = 0x14 then 12
  else if kind = 0x13 ∨ kind = 0x11 then 8
  else if kind = 0x12 ∨ kind = 0x26 then 4
  else if kind = 0x23 ∨ kind = 0x24 ∨ kind = 0x25 then 4
  else if kind = 0x10 then 8
  else if kind = 0x07 then 4
  else if kind = 0x1A then 16
  else 0

/-- An item: head and part (R370). -/
def State.anchorItem (s : State) (num : Nat) : List Word :=
  match s.sch.cfg.insts.find? (fun c => c.num = num), s.pe.els.find? (fun e => e.num = num) with
  | some c, some e =>
    let p := Env.anchorPart { s := s, place := c.place } c e
    [BitVec.ofNat 32 c.name, BitVec.ofNat 32 (num + c.kind * 2 ^ 16 + 4 * p.length * 2 ^ 24)] ++ p
  | _, _ => []

/-- An anchor frame of the tick waits to be sent. -/
def State.pushAnchor (s : State) : State := s.pushFrame 1 (s.hingeCfg.insts.flatMap s.anchorItem)

/-- States of autorecloses and values of lockout latches, whose changes send an extra anchor (R371). -/
def State.anchorWatch (s : State) : List (Nat × Nat) :=
  s.sch.cfg.insts.filterMap (fun c =>
    if c.kind = 0x14 ∨ c.kind = 0x12 then
      match s.pe.els.find? (fun e => e.num = c.num) with
      | some e => some (c.num, if c.kind = 0x14 then e.mode else b2n e.operate)
      | none => none
    else none)

/-- Anchors of the active at an output update: every 100 ms, and at a change that R371 names. -/
def State.anchorUpdate (s : State) : State :=
  let w := s.anchorWatch
  let due := decide (s.tickNo 0 % (s.fp / 10) = 0) || decide (s.hng.last ≠ [] ∧ s.hng.last ≠ w)
  let s := s.modHng (fun h => { h with last := w })
  if s.hinged && decide (s.sys.st = .inService) && due then s.pushAnchor else s

/-- A frame is whole (R369). -/
def frameOk (l : List Word) : Bool :=
  let w0 := nth l 0
  let len := bitsOf (nth l 1) 15 0
  let body := (l.drop 3).dropLast
  decide (4 ≤ l.length) && decide (bitsOf w0 15 0 = 0x484E) && decide (bitsOf w0 31 24 = 0) && decide (bitsOf w0 23 16 ∈ [1, 2, 3, 4, 5])
    && decide (len % 4 = 0) && decide (len / 4 = body.length)
    && body.all (fun w => !(decide (bitsOf w 15 0 = 0x484E) && decide (bitsOf w 31 24 = 0) && decide (bitsOf w 23 16 ∈ [1, 2, 3, 4, 5])))
    && decide ((l.getLastD 0).toNat = crc32c (l.dropLast.flatMap (fun w => b4 w.toNat)))

/-- The unit takes anchors: as standby, rejoining, or in its hinge activation (R240, R372, R376). -/
def State.takesAnchors (s : State) : Bool := s.hinged && (decide (s.sys.st = .standby) || s.rejoining || (s.hingeJob && decide (s.sys.st = .blocked)))

/-- ANCHOR_FRAME_RECEIVED (R369): a frame that fails a check is discarded and counted; an anchor is kept for the next tick. -/
def State.frameIn (s : State) (l : List Word) (absent : Bool) : State :=
  if !s.hinged then s
  else if absent || !frameOk l then s.modHng (fun h => { h with crcFail := satInc 255 h.crcFail })
  else if bitsOf (nth l 0) 23 16 = 1 ∧ s.takesAnchors then s.modHng (fun h => { h with frame := some l })
  else s

/-- A running count advances by k ticks (R372). -/
def runOn (n k : Nat) : Nat := if n = 0 then 0 else n + k

/-- An instance takes the part that an item gives it, k ticks later (R372). -/
def Env.adoptPart (v : Env) (c : InstCfg) (p : List Word) (k : Nat) (e : ElemSt) : ElemSt :=
  let w := fun i : Nat => (p.getD i 0).toNat
  if isOc c.kind then { e with integ := ofSingle (p.getD 0 0), count := runOn (w 1) k, shot := runOn (w 1) k, started := decide (w 1 ≠ 0) }
  else if c.kind = 0x0E then { e with integ := ofSingle (p.getD 0 0) }
  else if c.kind = 0x14 then
    let e := { e with mode := w 0, shot := w 1 }
    let full := ((v.arTime c e) * (v.fp : Rat)).ceil.toNat
    let n := full - w 2 + (if w 2 = 0 then 0 else k)
    { e with count := if w 0 = arNotReady then e.count else n, rcount := if w 0 = arNotReady then n else e.rcount }
  else if c.kind = 0x13 then { e with count := runOn (w 0) k, started := decide (w 0 ≠ 0), flags := w 1, shot := b2n ((w 1).testBit 1), operate := (w 1).testBit 2, mode := b2n ((w 1).testBit 3) }
  else if c.kind = 0x11 then { e with count := runOn (w 0) k, flags := w 1, operate := (w 1).testBit 0 }
  else if c.kind = 0x12 ∨ c.kind = 0x26 then { e with operate := decide (w 0 % 2 = 1), own := if c.kind = 0x12 then [.bin (decide (w 0 % 2 = 1))] else e.own }
  else if c.kind = 0x23 ∨ c.kind = 0x24 ∨ c.kind = 0x25 then { e with count := runOn (w 0) k }
  else if c.kind = 0x10 then { e with count := runOn (w 0) k, tcount := runOn (w 1) k, mode := if w 1 ≠ 0 then 2 else if e.mode = 2 then 0 else e.mode }
  else if c.kind = 0x07 then { e with tcount := runOn (w 0) k }
  else if c.kind = 0x1A then { e with z := (List.range 3).map (fun i => ofSingle (p.getD i 0)) ++ e.z.drop 3, shot := w 3 }
  else e

/-- One item is adopted when its name CRC and kind match an instance (R372). -/
def State.adoptItem (s : State) (name kind k : Nat) (part : List Word) : State :=
  match s.sch.cfg.insts.find? (fun c => c.name = name ∧ c.kind = kind) with
  | some c => s.modPe (fun p => { p with els := p.els.map (fun e => if e.num = c.num then Env.adoptPart { s := s, place := c.place } c part k e else e) })
  | none => s

/-- The items of a body in order. -/
def State.adoptItems (s : State) (k : Nat) : Nat → List Word → State
  | 0, _ => s
  | n + 1, name :: head :: r =>
    let len := bitsOf head 31 24 / 4
    State.adoptItems (s.adoptItem name.toNat (bitsOf head 23 16) k (r.take len)) k n (r.drop len)
  | _ + 1, _ => s

/-- ANCHOR_ADOPT (R372): the waiting frame is adopted at the tick that is `later` ticks on from the latest. -/
def State.adopt (s : State) (later : Nat) : State :=
  match s.hng.frame with
  | some l =>
    let s := s.modHng (fun h => { h with frame := none })
    if !s.takesAnchors then s
    else
      let m := (s.tickNo 0 + later) % s.fp
      let k := (m + s.fp - bitsOf (nth l 2) 15 0 % s.fp) % s.fp
      let s := s.adoptItems k l.length ((l.drop 3).dropLast)
      s.modHng (fun h => { h with anchors := (h.anchors + 1) % 65536, adopted := some s.pwr.ot })
  | none => s

/-! ### Taking control (R367, R374) -/

/-- A claim is due: the preferred unit's at its next tick, the other's after 200 ms of released peer (R367). -/
def State.claimDue (s : State) : Bool :=
  s.hinged && decide (s.sys.st = .blocked) && s.enabled && s.ticking && !s.hng.peer && !s.actSpan && !s.sys.shutting
      && (s.preferred || decide (s.hng.freeOt + 200000 ≤ s.pwr.ot))

/-- HINGE_CLAIM (R367). -/
def State.hingeClaim (s : State) : State :=
  if s.claimDue then
    (s.autoState .inService 2).modHng (fun h => { h with claimed := true })
  else s

/-- CLAIM_RECHECK (R367): when both have claimed, the unit that is not preferred returns to BLOCKED, and both record it. -/
def State.claimRecheck (s : State) (peer : Bool) : State :=
  if !s.hng.claimed || decide (s.sys.st ≠ .inService) then s
  else
    let s := s.modHng (fun h => { h with claimed := false })
    if peer then
      let s := s.modHng (fun h => { h with peer := true })
      (if s.preferred then s else s.changeState .blocked 2).stage 0x0117 1 []
    else s

/-- The readiness that HINGE_TAKEOVER records: bit 0 ready, bit 1 diverged, bit 2 anchor stale. -/
def State.readiness (s : State) : Nat := b2n (s.hingeReady || s.hng.jobReady) + 2 * b2n s.hng.diverged + 4 * b2n (!s.anchorFresh)

/-- The unit takes control (R374): IN_SERVICE at once, the takeover bit, the count, HINGE_TAKEOVER; its gap is filled in at the first driven update. -/
def State.takeover (s : State) : State :=
  let r := s.readiness
  let s := (s.changeState .inService 9).setNme 3
  let s := s.modHng (fun h => { h with takeovers := satInc 65535 h.takeovers, seenOt := some s.pwr.ot, jobReady := false })
  s.stage 0x0113 2 (b2 0 ++ b1 r ++ zeros 1)

/-- The unit stands by to take over: in STANDBY, or in BLOCKED at the ready point of a hinge activation, and not during a shutdown (R30, R240, R374). -/
def State.standsBy (s : State) : Bool := s.hinged && !s.sys.shutting && (decide (s.sys.st = .standby) || (decide (s.sys.st = .blocked) && s.hng.jobReady))

/-- HINGE_PEER_CHANGE (R366, R374, R378): a standby takes over when HINGE_PEER is released, unless a wire fault makes it look at the slot instead. -/
def State.peerChange (s : State) (asserted : Bool) : State :=
  let s := s.modHng (fun h => { h with peer := asserted, freeOt := if asserted then h.freeOt else s.pwr.ot })
  if !asserted && s.standsBy && !s.hng.wireFault then s.takeover else s

/-- The gap of the latest HINGE_TAKEOVER is filled in while its entry waits in the ring. -/
def fillGap (gap : Nat) : List Entry → List Entry
  | [] => []
  | e :: r => if e.code = 0x0113 ∧ e.body.take 2 = zeros 2 then { e with body := b2 gap ++ e.body.drop 2 } :: r else e :: fillGap gap r

/-- The first update driven by a new active: HNG_TAKEOVER gap_us (R374, R381). -/
def State.firstDriven (s : State) : State :=
  match s.hng.seenOt with
  | some t =>
    if s.sys.st = .inService then
      let g := min 65535 (s.pwr.ot - t)
      { (s.modHng (fun h => { h with gap := g, seenOt := none })) with ldg := { s.ldg with ring := fillGap g s.ldg.ring } }
    else s.modHng (fun h => { h with seenOt := none })
  | none => s

/-- HINGE_CTL_NO_TICK (R366). -/
def State.ctlNoTick (s : State) : State := s.modHng (fun h => { h with ctl := false })

/-- The tick logic holds HINGE_CTL low in IN_SERVICE (R366). -/
def State.ctlTick (s : State) : State := s.modHng (fun h => { h with ctl := s.hinged && decide (s.sys.st = .inService ∧ h.leaving = none) })

/-! ### Rejoining and handover (R376, R377) -/

/-- The second of agreement that leads into STANDBY is complete (R376). -/
def State.standbyDue (s : State) : Bool := s.rejoining && s.ticking && s.hng.comparing && s.hng.adopted.isSome && decide (s.fp ≤ s.hng.calm)

/-- The entry into STANDBY (R376). -/
def State.hingeStandby (s : State) : State :=
  if s.standbyDue then
    (s.autoState .standby (if s.sys.st = .failsafe then 0xB else if s.sch.actHinge then 3 else 2)).stageTick 0x0119 0 []
  else s

/-- A manual handover is requested (R377): refusals in ho_result, or a request frame. The peer's readiness shows in its slot only as its state; the rest is free (log entry 22). -/
def State.requestHandover (s : State) : State :=
  let res := fun n : Nat => s.modHng (fun h => { h with hoResult := n })
  let peerOk := s.peerSrc.present && decide (s.peerSrc.state = 4) && (Config.freeWord s.free).getLsbD 0
  if !s.hinged then s
  else if s.hingeRole ≠ 1 ∨ s.hng.leaving ≠ none then res 5
  else if s.tripAsserted then res 3
  else if !peerOk then { res 4 with free := s.free + 1 }
  else { ((res 1).modHng (fun h => { h with hoAck := false })).pushFrame 4 [] with free := s.free + 1 }

/-- HANDOVER_WRITE: a write of HNG_CTL (R377, R381): dig_tol 0 is refused. -/
def State.writeHngCtl (s : State) (v : Word) : State × Bool :=
  if !s.hinged then (s, false)
  else
    let bad := decide (bitsOf v 17 8 = 0)
    let s := if bad then s else s.setStored 0x4400 (pack [(8, 10, bitsOf v 17 8)])
    (if bitAt v 0 then s.requestHandover else s, bad)

/-- HANDOVER_REQUEST (R377): the standby answers. -/
def State.handoverIn (s : State) : State := if s.hinged ∧ s.sys.st = .standby then s.pushFrame 5 [] else s

/-- HANDOVER_ACKNOWLEDGE (R377): control is released at the next output update. -/
def State.handoverAck (s : State) : State := if s.hng.hoResult = 1 then s.modHng (fun h => { h with hoAck := true }) else s

/-- HANDOVER_TIMEOUT (R377). -/
def State.handoverTimeout (s : State) : State := if s.hng.hoResult = 1 ∧ s.hng.hoAck = false then s.modHng (fun h => { h with hoResult := 6 }) else s

/-- READY_REPORT (R240): the active relinquishes at its next output update. -/
def State.readyReport (s : State) : State := if s.sch.actHinge ∧ s.sys.st = .inService then s.modHng (fun h => { h with readyIn := true }) else s

/-- An accepted activation meets an asserted trip or fast-route output when it is to leave IN_SERVICE: its job ends refused_trip (R27; what becomes of the job then is a DESIGN CHOICE, log entry 132). -/
def State.actTripped (s : State) : State :=
  let t := s.sch.actTicket
  let s := { s with sch := { s.sch with act := .idle, actHinge := false, actTicket := 0, actResult := 3 } }
  (if t = 0 then s else s.endJob t jobFailed 3).stage 0x00C3 1 (b1 3)

/-- Releases that take place at an output update, each refused while a trip or fast-route output is asserted (R27): a handover that was acknowledged, and a hinge activation whose standby is ready (R240, R377). -/
def State.releaseAtUpdate (s : State) : State :=
  if s.hng.hoAck ∧ s.hng.hoResult = 1 ∧ s.sys.st = .inService then
    if s.tripAsserted then s.modHng (fun h => { h with hoAck := false, hoResult := 3 })
    else
    let s := (s.holdOutputs).modHng (fun h => { h with hoAck := false, hoResult := 2 })
    (s.changeState .standby 0xA).stage 0x0118 0 []
  else if s.hng.readyIn then
    let s := s.modHng (fun h => { h with readyIn := false })
    if s.tripAsserted then s.actTripped else s.relinquish 3
  else s

/-! ### Wire faults (R378) -/

/-- The judgement of a cycle: HINGE_PEER against the slot's flag; with a fault the slot decides the takeover. -/
def State.hingeCycle (s : State) : State :=
  if !s.hinged then s
  else
    let x := s.peerSrc
    let d := x.flags.testBit 3 != s.hng.peer
    let s := if x.present ∧ s.sys.st = .standby then s.modHng (fun h => { h with differ := if d then min 3 (h.differ + 1) else 0 }) else s
    if s.hng.wireFault && s.standsBy && ((x.present && !x.flags.testBit 3) || decide (3 ≤ x.absent)) then s.takeover else s

/-- HINGE_WIRE_FAULT (R378). -/
def State.wireFaultSet (s : State) : State :=
  if s.hinged ∧ s.sys.st = .standby ∧ 3 ≤ s.hng.differ ∧ s.hng.wireFault = false then (s.modHng (fun h => { h with wireFault := true })).stage 0x0116 2 [] else s

/-- WIRE_FAULT_CLEAR (R378). -/
def State.wireFaultClear (s : State) : State := if s.hng.differ = 0 then s.modHng (fun h => { h with wireFault := false }) else s

/-! ### Register views (R381) -/

/-- HNG_CTL reads 0 on a unit that is not hinged. -/
def State.hngCtl (s : State) : Word := if s.hinged then s.reg 0x4400 else 0

/-- HNG_STAT. -/
def State.hngStat (s : State) : Word :=
  if !s.hinged then 0
  else
    let h := s.hng
    pack [(0, 3, s.hingeRole), (3, 1, b2n h.ctl), (4, 1, b2n h.peer), (5, 1, b2n s.hingeReady), (6, 1, b2n h.diverged), (7, 1, b2n h.wireFault),
      (8, 1, b2n (decide (s.sys.st = .standby) && !s.anchorFresh)), (9, 3, h.hoResult), (16, 6, s.hingeCfg.peer), (22, 10, if h.comparing then h.run else 0)]

def State.hngDigest (s : State) : Word := if s.hinged then BitVec.ofNat 32 s.hng.digest else 0

def State.hngPeerDigest (s : State) : Word := if s.hinged then BitVec.ofNat 32 s.hng.peerDigest else 0

/-- HNG_ANCHOR. -/
def State.hngAnchor (s : State) : Word :=
  if !s.hinged then 0
  else pack [(0, 16, s.hng.anchors), (16, 8, s.hng.crcFail), (24, 8, match s.hng.adopted with
    | some t => min 255 ((s.pwr.ot - t) / 10000)
    | none => 0)]

/-- HNG_TAKEOVER. -/
def State.hngTakeover (s : State) : Word := if s.hinged then pack [(0, 16, s.hng.gap), (16, 16, s.hng.takeovers)] else 0

end Sys2Proof.Machine
end

