-- ==== Sys2Proof/Machine/Cycle.lean ====
section
/-! DEFINITION. The chain cycle: marks, the management slot, the tumbler walk, ring and line, the deputy and time on the chain (R333-R341, R348-R356). -/

namespace Sys2Proof.Machine

/-! ### A new cycle -/

/-- The previous cycle closes for every source, express counts restart, asserted groups are repeated, and the unit's slot of the new cycle goes out (R199, R337-R341, R347). -/
def State.newCycle (s : State) : State :=
  let s := s.modChn (fun c => { c with
    src := c.src.map (fun q => (q.1, q.2.close)), ports := c.ports.map (fun p => { p with pairs := 0, relay := [], relayed := [] }), sent := [],
    answers := (c.answers.map (fun a => (a.1, a.2.1, a.2.2 - 1))).filter (fun a => a.2.2 ≠ 0),
    slotAddr := if c.pass = 1 ∨ (c.sender = true ∧ c.pass = 2) then c.slotAddr else c.addr })
  ((s.ageCodes.hingeCycle).repeatGroups [0, 1]).sendSlot

/-- Index of the cycle instant nearest to now, counted from the epoch (R334). -/
def State.cycleNear (s : State) : Nat := divRound (s.nowNs * 76800) 1000000000

/-- The cycle that follows, unless the counter has moved on from it. -/
def State.nextCycle (s : State) : Nat :=
  let n := s.cycleNear
  let p := s.chn.second * 76800 + s.chn.cycle + 1
  if p ≤ n + 2 ∧ n ≤ p + 2 then p else n

/-! ### The management slot (R336, R349, R357) -/

/-- Root block flags: bit 0 join request, bit 1 traceable (R316, R336). -/
def State.rootFlags (s : State) : Nat := 2 * b2n (s.ptp.traceable || decide (s.ptp.state = 2 ∧ s.srcEff = 1))

/-- The root block as the sender writes it. -/
def State.rootBlock (s : State) (phase : Nat) : List Byte :=
  b4 s.chn.cycle ++ b8 s.chn.second ++ b4 (delayWord s.chn.tr s.chn.measured).toNat ++ b1 s.chn.addr ++ b1 s.chn.deputy ++ b1 s.chn.members
    ++ b1 (s.chn.ring - 1) ++ b1 s.ptp.state ++ b1 s.rootFlags ++ b1 phase ++ b1 (fpSel s.fp) ++ zeros 8

/-- A walk block (R349). -/
structure WalkBlock where
  pass : Nat
  counter : Nat
  walk : Nat
  taken : Nat
  passed : Nat
  conf : Nat
  full : Nat
  mode : Nat
  deriving DecidableEq, Repr, Inhabited

def WalkBlock.bytes (w : WalkBlock) : List Byte := b1 w.pass ++ b1 w.counter ++ b2 w.walk ++ b8 w.taken ++ b1 w.passed ++ b1 w.conf ++ b1 w.full ++ b1 w.mode

def walkOf (l : List Byte) : WalkBlock :=
  { pass := field l 0 1, counter := field l 1 1, walk := field l 2 2, taken := field l 4 8, passed := field l 0xC 1, conf := field l 0xD 1, full := field l 0xE 1, mode := field l 0xF 1 }

/-- The transaction of a mailbox in host-port form: command, address, data, CRC (R357, R384). -/
def hostForm (cmd addr data : Nat) : List Byte :=
  let b := b1 cmd ++ [BitVec.ofNat 8 (addr / 256), BitVec.ofNat 8 addr] ++ (b4 data).reverse
  b ++ (b2 (crc16 b)).reverse

/-- A request entry (R357). -/
def requestEntry (m : Mailbox) : List Byte :=
  if m.due then b1 m.target ++ b1 m.tag ++ zeros 2 ++ hostForm m.command m.address m.data.toNat ++ zeros 3 else zeros 16

/-- The management slot with its CRC. -/
def mgmtSlot (root walk req ans : List Byte) : List Byte :=
  let b := padTo 0x3F4 (padTo 0x20 root ++ padTo 16 walk ++ padTo 128 req ++ padTo 128 ans)
  b ++ b4 (crc32c b)

/-- The walk block that the sender puts into the copy out of its CHAIN-B (R349, R350). -/
def State.walkOut (s : State) : List Byte :=
  let c := s.chn
  if c.ring = 3 ∧ (c.pass = 1 ∨ c.pass = 2) then
    WalkBlock.bytes { pass := c.pass, counter := if c.pass = 1 then 0 else 1, walk := c.walk, taken := c.taken, passed := 0, conf := c.walkConf, full := 0, mode := c.walkMode }
  else zeros 16

/-- The slot goes out; requests that were due are pending from now on, and a walk's pass has been sent. -/
def State.sendMgmt (s : State) : State :=
  let slot := mgmtSlot (s.rootBlock ((Config.freeWord s.free).toNat % 33)) s.walkOut (s.chn.mbox.flatMap requestEntry) []
  { s.modChn (fun c => { c with
      mgmtOut := slot, mbox := c.mbox.map (fun m => { m with due := false, age := if m.due then 1 else if m.busy then m.age + 1 else m.age }),
      pass := if c.ring = 3 ∧ c.pass ≤ 2 then c.pass + 1 else c.pass }) with free := s.free + 1 }

/-! ### The sender's cycle (R334, R352) -/

/-- The unit may send marks: it is the sender, or the strapped root with no other marks to follow (R334, R354). -/
def State.maySend (s : State) : Bool :=
  s.anyUp && !s.chn.stopped && !s.dark && (s.chn.sender || (s.pwr.rootStrap && s.chn.upstream.isNone))

/-- Marks that came back, counted when the next cycle begins (R352). -/
def countBack (p : ChnPort) : ChnPort :=
  if p.seen then { p with seen := false, back := min 8 (p.back + 1), missed := 0 } else { p with back := 0, missed := min 2 (p.missed + 1) }

/-- CHAIN_CYCLE (R334): a mark and the management slot on both ports. -/
def State.chainCycle (s : State) : State :=
  if !s.maySend then s
  else
    let start := !s.chn.sender
    let s := s.moveTime (fun s => s.modChn (fun c => { c with sender := true, senderAddr := c.addr, noRoot := false, marksLost := false }))
    let k := s.nextCycle
    let s := s.modChn (fun c => { c with
      second := k / 76800, cycle := k % 76800, ports := if start then c.ports.map (fun p => { p with seen := false, back := 0, missed := 0 }) else c.ports.map countBack,
      ring := if c.ring = 0 then (if s.portUp 0 && s.portUp 1 then 1 else 2) else c.ring, walkDue := c.walkDue || (start && c.walk = 0) })
    (s.newCycle).sendMgmt

/-- CHAIN_RING_OPEN (R352, R359): a mark has not returned for 2 cycles; a walk ends with ring_open. -/
def State.ringOpen (s : State) : State :=
  if s.chn.sender ∧ s.pwr.rootStrap ∧ (s.chn.ring = 1 ∨ s.chn.ring = 3) ∧ s.chn.ports.any (fun p => 2 ≤ p.missed) then
    let walking := decide (s.chn.ring = 3)
    let s := s.modChn (fun c => { c with ring := 2, walkResult := if walking then 3 else c.walkResult, measured := c.measured && !walking, pass := 0 })
    let s := s.stage 0x0104 2 []
    match walking, s.jobOf 9 with
    | true, some j => s.endJob j.ticket jobFailed 3
    | _, _ => s
  else s

/-- CHAIN_RING_CLOSED (R348, R352): marks return on both ports for 8 cycles; a walk is due. -/
def State.ringClosed (s : State) : State :=
  if s.chn.sender ∧ s.pwr.rootStrap ∧ s.chn.ring = 2 ∧ s.chn.ports.all (fun p => 8 ≤ p.back) then
    (s.modChn (fun c => { c with ring := 1, walkDue := true })).stage 0x0105 0 []
  else s

/-! ### The walk (R348-R351) -/

/-- CHN_PIN. -/
def State.chnPin (s : State) : Nat := bitsOf (s.reg 0x4004) 5 0

/-- The address that the unit claims, 0 for no claim (R350). -/
def State.claimOf (s : State) (mode : Nat) : Nat := if s.chnPin ≠ 0 then s.chnPin else if mode = 0 then s.chn.addr else 0

/-- The unit's address becomes a. -/
def State.setAddr (s : State) (a : Nat) (conflict full : Bool) : State :=
  (s.modChn (fun c => { c with addr := a, conflict := conflict, full := full })).checkAddr

/-- Pass 1 at a unit: a claimed address is taken, or a conflict is found (R350). -/
def State.walkPass1 (s : State) (w : WalkBlock) : State × WalkBlock :=
  let a := s.claimOf w.mode
  let w := { w with passed := w.passed + 1 }
  if a = 0 then (s, w)
  else if w.taken.testBit a then ((s.setAddr 0 true false).stage 0x0107 2 [], { w with conf := w.conf + 1 })
  else (s.setAddr a false false, { w with taken := w.taken ||| 2 ^ a })

/-- The lowest free address from a counter upwards. -/
def freeAddr (taken counter : Nat) : Option Nat := (List.range 64).find? (fun a => decide (counter ≤ a ∧ a ≠ 0) && !taken.testBit a)

/-- Pass 2 at a unit: one without a claim takes the lowest free address (R350). -/
def State.walkPass2 (s : State) (w : WalkBlock) : State × WalkBlock :=
  let w := { w with passed := w.passed + 1 }
  if s.claimOf w.mode ≠ 0 ∨ s.chn.conflict then (s, w)
  else
    match freeAddr w.taken w.counter with
    | some a => (s.setAddr a false false, { w with taken := w.taken ||| 2 ^ a, counter := a + 1 })
    | none => (s.setAddr 0 false true, { w with full := w.full + 1 })

/-- WALK_BLOCK_PASS (R350) at a unit that does not send the marks. -/
def State.walkPass (s : State) (w : WalkBlock) : State × WalkBlock :=
  let s := s.modChn (fun c => { c with pass := w.pass, walk := w.walk, walkMode := w.mode })
  if w.pass = 1 then (s.modChn (fun c => { c with conflict := false })).walkPass1 w
  else if w.pass = 2 then s.walkPass2 w
  else (s, w)

/-- WALK_START (R348): the root, with the ring closed and both ports UP; its own claim is taken first (R350). -/
def State.walkStart (s : State) : State :=
  if s.pwr.rootStrap && s.chn.sender && decide (s.chn.ring = 1) && s.portUp 0 && s.portUp 1 && s.chn.walkDue then
    let mode := if (s.jobOf 9).isSome then s.chn.walkMode else 0
    let a := s.claimOf mode
    let s := s.modChn (fun c => { c with
      ring := 3, walk := (c.walk + 1) % 65536, walkResult := 1, walkConf := 0, walkFull := 0, walkMode := mode, walkDue := false, pass := 1,
      taken := if a = 0 then 0 else 2 ^ a })
    if a ≠ 0 then s.setAddr a false false else s
  else s

/-- A walk block returns to the root on its CHAIN-A (R350): pass 1 gives the map for pass 2; after pass 2 a root with no claim takes an address. -/
def State.walkReturn (s : State) (w : WalkBlock) : State :=
  if s.chn.ring ≠ 3 ∨ w.walk ≠ s.chn.walk then s
  else if w.pass = 1 then s.modChn (fun c => { c with taken := w.taken, walkConf := w.conf })
  else if w.pass = 2 then
    let r := s.walkPass2 w
    r.1.modChn (fun c => { c with taken := r.2.taken, walkConf := r.2.conf, walkFull := r.2.full, pass := 4 })
  else s

/-- Members of a taken map other than one, lowest first. -/
def membersOf (taken : Nat) : List Nat := (List.range 64).filter (fun a => a ≠ 0 ∧ taken.testBit a)

/-- CHAIN_WALK (R350, R351, R355): the walk ends. The root keeps Tr, names members and deputy and records the walk; every other unit keeps its d1. -/
def State.walkEnd (s : State) (tr : Nat) (delta : Int) : State :=
  if s.chn.ring ≠ 3 then s
  else if s.chn.sender then
    if s.chn.pass ≠ 4 then s
    else
      let m := membersOf s.chn.taken
      let s := s.modChn (fun c => { c with
        tr := some tr, d1 := none, measured := true, ring := 1, members := m.length, deputy := (m.filter (fun a => a ≠ c.addr)).headD 0, walkResult := 2, pass := 0, senderAddr := c.addr })
      let s := s.stage 0x0106 0 (b2 s.chn.walk ++ b1 s.chn.members ++ b1 s.chn.walkConf ++ b1 s.chn.walkFull)
      match s.jobOf 9 with
      | some j => s.endJob j.ticket jobDone 0
      | none => s
  else s.modChn (fun c => { c with tr := some tr, d1 := some (((tr : Int) + delta) / 2).toNat, measured := true, ring := 1, pass := 0 })

/-! ### Marks and time (R327, R355, R356) -/

/-- The delay from the sender of marks to this unit in 0.1 ns (R355); none while it has not been measured. -/
def State.markDelay (s : State) : Option Nat :=
  let own := if s.pwr.rootStrap then some 0 else s.chn.d1
  match own, (s.src s.chn.senderAddr).d1 with
  | some d, some x => if x ≠ 0 then some (((d : Int) - x).natAbs) else if s.chn.upstream = some 1 then s.chn.tr.map (fun t => t - d) else some d
  | some d, none => if s.chn.upstream = some 1 then s.chn.tr.map (fun t => t - d) else some d
  | none, _ => none

/-- The offset of a mark: what the counter read at its arrival less cycle instant, mark phase and delay, in ns (R355). -/
def State.markOffset (s : State) (arrival : Rat) (second cycle phase : Nat) : Rat :=
  arrival - ((second : Rat) * 1000000000 + (cycle : Rat) * 1000000000 / 76800 + (phase : Rat) / 10 + ((s.markDelay.getD 0 : Nat) : Rat) / 10)

/-- A small offset is taken out of the counter at once (R355). -/
def State.setByMark (s : State) (o : Rat) : State :=
  s.modPtp (fun p => ptpOf p ((((ptpTotal p : Nat) : Int) - roundAway (o * 65536)).toNat))

/-- A mark's offset is judged as a PTP offset is (R304, R356), and sets the counter unless it is refused (R355). -/
def State.markTime (s : State) (o : Rat) : State :=
  let may := s.markDelay.isSome && decide (s.chn.rootTime = 2)
  let small := s.ptp.set && decide (absR o < 20000 ∧ absR o < (s.stepThr : Rat))
  let s := ((s.dropHold [4]).judgeOffset o may).endHoldover
  if small then s.setByMark o else s

/-- A mark begins a new cycle at a unit that does not send marks. -/
def State.markNew (s : State) (p second cycle : Nat) : State :=
  let s := s.moveTime (fun s => s.modChn (fun c => { c with
    second := second, cycle := cycle, upstream := some p, marksLost := false, noRoot := false, ring := if c.ring = 0 then 2 else c.ring }))
  s.newCycle

/-- CYCLE_MARK_RECEIVED (R327, R352, R355): at the sender its own mark has returned; elsewhere the first copy of a cycle begins it and gives the time. -/
def State.cycleMark (s : State) (p : Nat) (arrival : Rat) (second cycle phase : Nat) : State :=
  if !s.portUp p then s
  else
    let same := decide (s.chn.second = second ∧ s.chn.cycle = cycle)
    if s.chn.sender then s.modPort p (fun x => if same then { x with seen := true, marks := true } else { x with marks := true })
    else
      let first := !same || s.chn.upstream.isNone
      let s := s.modPort p (fun x => { x with marks := true, seen := true })
      if first then (s.markNew p second cycle).markTime ((s.markNew p second cycle).markOffset arrival second cycle phase) else s

/-- CHAIN_TIME_LOST (R356): no mark for 3 cycles at a unit that is not the root. -/
def State.chainTimeLost (s : State) : State :=
  if s.follower ∧ s.chn.sender = false ∧ s.chn.upstream.isSome ∧ s.chn.marksLost = false then (s.modChn (fun c => { c with marksLost := true })).holdover 4 else s

/-- CHAIN_DEPUTY_ACTIVE (R354): the deputy has had no mark for 26.04 µs; it sends marks in holdover. -/
def State.deputyActive (s : State) : State :=
  if s.chn.addr ≠ 0 ∧ s.chn.deputy = s.chn.addr ∧ s.chn.sender = false ∧ s.anyUp ∧ s.chn.upstream.isSome then
    let s := s.modChn (fun c => { c with sender := true, deputyActs := true, senderAddr := c.addr, marksLost := true })
    (s.stage 0x010A 2 []).holdover 4
  else s

/-- CHAIN_NO_ROOT (R354): a port UP for 5 ms with no marks, or marks gone for good in a cut-off segment. -/
def State.noRootFound (s : State) : State :=
  let idle := (List.range 2).any (fun p => s.portUp p && !(s.port p).marks && decide ((s.port p).upOt + 5000 ≤ s.pwr.ot))
  if s.chn.sender = false ∧ s.chn.noRoot = false ∧ s.anyUp ∧ (idle ∨ s.chn.marksLost) then
    (s.modChn (fun c => { c with noRoot := true, ring := if c.upstream.isNone || c.marksLost then 0 else c.ring })).stage 0x0109 1 []
  else s

/-- LOCAL_CYCLE (R333): an UP port with no marks to forward sends a cycle of its own: root address 0 and empty slots. Its mark restarts the port's pair count (R347), and where no other cycle begins at the unit the asserted groups are repeated with it (R199). -/
def State.localCycle (s : State) (p : Nat) : State :=
  if s.portUp p && !s.chn.sender && (!(s.port (1 - p)).marks || s.chn.marksLost) then
    let s := s.modChn (fun c => { c with
      mgmtOut := mgmtSlot (zeros 0x20) [] [] [], slotOut := zeros 232, ports := modNth c.ports p (fun x => { x with pairs := 0, relay := [], relayed := [] }) })
    if s.chn.upstream.isNone || s.chn.marksLost then s.repeatGroups [p] else s
  else s

/-! ### A management slot that arrives: root block and conflicts (R336, R354) -/

/-- What a follower keeps of the root block. -/
def State.takeRoot (s : State) (l : List Byte) : State :=
  let w := BitVec.ofNat 32 (field l 0xC 4)
  let ring := field l 0x13 1 % 4 + 1
  let s := s.modChn (fun c => { c with
    tr := if bitAt w 31 then some (bitsOf w 30 0) else c.tr, senderAddr := field l 0x10 1 % 64, deputy := field l 0x11 1 % 64, members := field l 0x12 1 % 64,
    measured := c.measured && !(decide (c.ring = 3 ∧ ring = 2)), ring := if c.ring = 3 ∧ ring = 1 then 3 else ring, rootTime := field l 0x14 1 % 8 })
  s.modPtp (fun p => { p with traceable := (field l 0x15 1).testBit 1 })

/-- A sender hears another sender (R354): an acting deputy gives way to the root; two roots both stop, and record it. -/
def State.otherSender (s : State) (addr : Nat) : State :=
  if s.chn.deputyActs then s.moveTime (fun s => s.modChn (fun c => { c with sender := false, deputyActs := false }))
  else if addr = s.chn.deputy then s
  else (s.moveTime (fun s => s.modChn (fun c => { c with sender := false, stopped := true, ring := 0 }))).stage 0x0108 2 []

/-- The root takes back the role of sender for a re-walk (R354). -/
def State.takeRole (s : State) : State := if s.chn.sender then s else s.moveTime (fun s => s.modChn (fun c => { c with sender := true, upstream := none }))

end Sys2Proof.Machine
end

