-- ==== Sys2Proof/Machine/Image.lean ====
section
/-! DEFINITION. A scheme image: its bytes as sections, the scheme it spells, and the checks with their refusal codes (R97, R107, R155, R169, R192, R195, R205, R212-R231, R311, R312). -/

namespace Sys2Proof.Machine

/-- Where a check fails: refusal code, section type, byte offset in the image (R231). -/
structure Bad where
  code : Nat
  sec : Nat
  off : Nat
  deriving DecidableEq, Repr, Inhabited

/-- A check's outcome: none when it holds. -/
def check (ok : Bool) (code sec off : Nat) : Option Bad := if ok then none else some { code := code, sec := sec, off := off }

/-- The first failure of a list of checks. -/
def firstBad (l : List (Option Bad)) : Option Bad := l.findSome? id

/-- The first failure among items. -/
def each {α : Type} (l : List α) (f : α → Option Bad) : Option Bad := l.findSome? f

/-! ### Sections (R213, R214) -/

/-- A section: its type, the image offset of its frame, the length of its value. -/
structure Sec where
  typ : Nat
  off : Nat
  len : Nat
  deriving DecidableEq, Repr, Inhabited

/-- Bytes of a length padded to a multiple of 4. -/
def pad4 (n : Nat) : Nat := 4 * ceilDiv n 4

/-- Sections in order up to an end, and the offset of the first frame that is not well formed. -/
def secsFrom (img : List Byte) (fin : Nat) : Nat → Nat → List Sec × Option Nat
  | 0, off => ([], if off = fin then none else some off)
  | n + 1, off =>
    if off = fin then ([], none)
    else if fin < off + 8 then ([], some off)
    else
      let len := field img (off + 4) 4
      if fin < off + 8 + pad4 len ∨ field img (off + 2) 2 ≠ 0 ∨ slice img (off + 8 + len) (pad4 len - len) ≠ zeros (pad4 len - len) then ([], some off)
      else
        let r := secsFrom img fin n (off + 8 + pad4 len)
        ({ typ := field img off 2, off := off, len := len } :: r.1, r.2)

/-- Offset of the CRC that ends an image. -/
def imgEnd (img : List Byte) : Nat := field img 8 4 - 4

/-- The sections of an image. -/
def imgSecs (img : List Byte) : List Sec × Option Nat := secsFrom img (imgEnd img) (field img 6 2) 0x40

/-- The section of a type. -/
def secOf (img : List Byte) (t : Nat) : Option Sec := (imgSecs img).1.find? (fun x => x.typ = t)

/-- Image offset of the value of a section, 0 where it is absent. -/
def valOff (img : List Byte) (t : Nat) : Nat := ((secOf img t).map (fun x => x.off + 8)).getD 0

def hasSec (img : List Byte) (t : Nat) : Bool := (secOf img t).isSome

/-- A field of a section's value; 0 where the section is absent. -/
def secField (img : List Byte) (t a n : Nat) : Nat := if hasSec img t then field img (valOff img t + a) n else 0

/-- A word of an image. -/
def imgWord (img : List Byte) (a : Nat) : Word := BitVec.ofNat 32 (field img a 4)

/-! ### Items of variable length -/

/-- One element instance record at an offset: the record and its length (R219). -/
def instAt (img : List Byte) (groups off : Nat) : InstCfg × Nat :=
  let nin := field img (off + 4) 1
  let nout := field img (off + 5) 1
  let nw := field img (off + 8) 2
  let base := off + 16 + pad4 (2 * (nin + nout))
  ({ num := field img off 2, kind := field img (off + 2) 1, place := field img (off + 3) 1, persistent := decide (field img (off + 6) 1 % 2 = 1),
     ins := (List.range nin).map (fun i => field img (off + 16 + 2 * i) 2),
     outs := (List.range nout).map (fun i => field img (off + 16 + 2 * (nin + i)) 2),
     sets := (List.range groups).map (fun g => (List.range nw).map (fun k => imgWord img (base + 4 * (nw * g + k)))),
     name := field img (off + 12) 4, size := field img (off + 10) 2 },
   16 + pad4 (2 * (nin + nout)) + 4 * nw * groups)

/-- Instance records with their offsets, and the offset after the last; records that run past the end are left out. -/
def instsFrom (img : List Byte) (fin groups : Nat) : Nat → Nat → List (Nat × InstCfg) × Nat
  | 0, off => ([], off)
  | n + 1, off =>
    if fin < off + 16 ∨ fin < off + (instAt img groups off).2 then ([], off)
    else
      let c := instAt img groups off
      let r := instsFrom img fin groups n (off + c.2)
      ((off, c.1) :: r.1, r.2)

/-- A custom kind: offset, code, declared charge, length of its microcode (R230). -/
structure Custom where
  off : Nat
  kind : Nat
  charge : Nat
  len : Nat
  deriving DecidableEq, Repr, Inhabited

/-- Custom kinds, and the offset after the last. -/
def customFrom (img : List Byte) (fin : Nat) : Nat → Nat → List Custom × Nat
  | 0, off => ([], off)
  | n + 1, off =>
    let len := field img (off + 4) 4
    if fin < off + 8 + pad4 len then ([], off)
    else
      let r := customFrom img fin n (off + 8 + pad4 len)
      ({ off := off, kind := field img off 1, charge := field img (off + 2) 2, len := len } :: r.1, r.2)

/-- Entries of TEXT: instance number and bytes; and the offset after the last (R230). -/
def textFrom (img : List Byte) (fin : Nat) : Nat → Nat → List (Nat × List Byte) × Nat
  | 0, off => ([], off)
  | n + 1, off =>
    let len := field img (off + 2) 2
    if fin ≤ off ∨ fin < off + 4 + pad4 len then ([], off)
    else
      let r := textFrom img fin n (off + 4 + pad4 len)
      ((field img off 2, slice img (off + 4) len) :: r.1, r.2)

/-- End of the value of a section. -/
def secEnd (img : List Byte) (t : Nat) : Nat := ((secOf img t).map (fun x => x.off + 8 + x.len)).getD 0

/-- Setting groups of an image. -/
def imgGroups (img : List Byte) : Nat := secField img 4 3 1

/-- Placements of an image's header. -/
def imgPlaces (img : List Byte) : Nat := field img 0x1B 1

def imgInsts (img : List Byte) : List (Nat × InstCfg) × Nat :=
  instsFrom img (secEnd img 4) (imgGroups img) (secField img 4 0 2) (valOff img 4 + 16 + 8 * imgPlaces img)

def imgCustoms (img : List Byte) : List Custom × Nat := customFrom img (secEnd img 14) (secField img 14 0 2) (valOff img 14 + 4)

def imgTexts (img : List Byte) : List (Nat × List Byte) × Nat := textFrom img (secEnd img 15) (secEnd img 15) (valOff img 15)

/-! ### The scheme of an image -/

/-- A number in single precision at an offset. -/
def imgNum (img : List Byte) (a : Nat) : Rat := ofSingle (imgWord img a)

/-- A byte that names something, 0xFF when nothing. -/
def optByte (v : Nat) : Option Nat := if v = 0xFF then none else some v

/-- CHANMAP's channels and groups (R217). -/
def imgChan (img : List Byte) (c : Nat) : ChanCfg :=
  let o := valOff img 1 + 4 + 12 * c
  { kind := field img o 1, gain := field img (o + 1) 1, excl := decide (field img (o + 2) 1 % 2 = 1), group := optByte (field img (o + 3) 1),
    role := field img (o + 4) 1, ks := imgNum img (o + 8) }

def imgGroup (img : List Byte) (g : Nat) : GroupCfg :=
  let o := valOff img 1 + 0xC4 + 12 * g
  { kind := field img o 1, rot := field img (o + 1) 1, base := imgNum img (o + 4), sef := imgNum img (o + 8) }

/-- The FLT_CFG value that FILTER names (R218). -/
def imgFltWord (img : List Byte) : Word :=
  let f := secField img 2
  pack [(0, 10, f 2 2), (10, 4, f 4 1), (16, 6, f 5 1), (22, 2, f 6 1), (24, 3, f 0 1)]

/-- The AFE_BANK_CTL values of PILOT (R218). -/
def imgPilot (img : List Byte) : List Word :=
  (List.range 2).map (fun b =>
    let f := fun a => secField img 3 (8 * b + a) 1
    pack [(0, 4, f 0), (4, 1, f 1), (5, 1, f 2), (8, 8, f 4), (16, 8, f 5)])

/-- FIO (R223). -/
def imgFio (img : List Byte) : FioCfg :=
  let f := secField img 7
  { dis := (List.range 16).map (fun n => (f (8 * n) 1, f (8 * n + 1) 1, f (8 * n + 2) 1, f (8 * n + 4) 2)),
    dos := (List.range 12).map (fun n => (f (128 + 4 * n) 2, f (130 + 4 * n) 1)),
    groups := (List.range 3).map (fun g => f (176 + g) 1),
    tcs := (List.range 2).map (fun n => (f (180 + 4 * n) 1, f (181 + 4 * n) 1)) }

/-- A LEDGER entry (R224). -/
def imgLedger (img : List Byte) (k : Nat) : LedgerCfg :=
  let f := fun a n => secField img 8 (4 + 12 * k + a) n
  { code := f 0 2, source := f 2 2, kind := f 4 1, sev := f 5 1, depth := f 6 1, refill := f 8 4 }

/-- CAPTURE (R225). -/
def imgCapture (img : List Byte) : CaptureCfg :=
  let f := secField img 9
  let n := f 6 1
  { pre := f 0 2, post := f 2 2, mask := f 4 2, nets := (List.range n).map (fun i => f (12 + 2 * i) 2),
    trigs := (List.range (f 7 1)).map (fun i => f (12 + 2 * n + 2 * i) 2), protect := decide (f 8 1 % 2 = 1) }

/-- A context entry of STREAMS (R226). -/
def imgStream (img : List Byte) (k : Nat) : StreamCfg :=
  let f := fun a n => secField img 10 (4 + 24 * k + a) n
  { kind := f 0 1, mac := f 1 1, delay := f 2 1, items := f 3 1, dst := f 4 6, appid := f 10 2, hash := f 12 4, first := f 16 2, rate := f 18 1, vlan := f 20 2 }

/-- CHAIN (R227). -/
def imgChain (img : List Byte) : ChainCfg :=
  let f := secField img 11
  let ne := f 6 2
  { addr := f 0 1, xcp := (List.range 4).map (fun i => f (1 + i) 1),
    exports := (List.range ne).map (fun i => (f (12 + 4 * i) 2, f (14 + 4 * i) 2)),
    imports := (List.range (f 8 2)).map (fun i => let o := 12 + 4 * ne + 8 * i; (f o 1, f (o + 2) 2, f (o + 4) 2)) }

/-- HINGE (R228). -/
def imgHinge (img : List Byte) : HingeCfg :=
  let f := secField img 12
  { peer := f 0 1, pref := decide (f 1 1 = 1), mask := f 2 2, insts := (List.range (f 4 2)).map (fun i => f (8 + 2 * i) 2) }

/-- A KEYWAY entry (R229). -/
def imgKey (img : List Byte) (k : Nat) : KeyEntry :=
  let f := fun a n => secField img 13 (4 + 8 * k + a) n
  { first := f 0 2, last := f 2 2, mask := f 4 1, flags := f 5 1 }

/-- Optional contents of a section. -/
def ifSec {α : Type} (img : List Byte) (t : Nat) (x : α) : Option α := if hasSec img t then some x else none

/-- The scheme that an image spells (R212-R230). -/
def schemeOf (img : List Byte) : SchemeCfg :=
  let flags := field img 0x18 2
  let nb := secField img 5 0 2
  let na := secField img 5 2 2
  let v := valOff img 5
  { gen := field img 0x10 4, enable := flags.testBit 0, hingeImg := flags.testBit 1, fpSel := field img 0x1A 1,
    fn := secField img 1 0 1, trkV := some (secField img 1 1 1), trkI := optByte (secField img 1 2 1), trkMin := secField img 1 3 1,
    chans := (List.range 16).map (imgChan img), groups := (List.range 8).map (imgGroup img),
    filter := (fltOfWord (imgFltWord img)).getD { l1 := 0, d1 := 1, l2 := 0, d2 := 1, preset := 7 },
    pilot := ifSec img 3 (imgPilot img),
    places := (List.range (imgPlaces img)).map (fun p => (secField img 4 (16 + 8 * p) 2, secField img 4 (18 + 8 * p) 1)),
    insts := (imgInsts img).1.map (fun p => p.2),
    nGroups := imgGroups img, initGroup := secField img 4 4 1,
    groupNets := (List.range (secField img 4 5 1)).map (fun i => secField img 4 (8 + 2 * i) 2),
    nb := nb, na := na,
    initB := (List.range nb).map (fun i => (field img (v + 8 + i / 8) 1).testBit (i % 8)),
    initA := (List.range na).map (fun i => imgNum img (v + 8 + 4 * ceilDiv nb 32 + 4 * i)),
    fast := ifSec img 6 ((List.range 292).map (fun i => imgWord img (valOff img 6 + 4 * i))),
    fio := ifSec img 7 (imgFio img), ledger := (List.range (secField img 8 0 2)).map (imgLedger img),
    capture := ifSec img 9 (imgCapture img), streams := (List.range (secField img 10 0 2)).map (imgStream img),
    chain := ifSec img 11 (imgChain img), hinge := ifSec img 12 (imgHinge img), keyway := (List.range (secField img 13 0 2)).map (imgKey img),
    custom := (imgCustoms img).1.map (fun c => (c.kind, c.charge)), customBytes := ((imgCustoms img).1.map (fun c => c.len)).sum }

/-! ### Registers that a scheme sets (R217, R218, R222, R223) -/

/-- Keys of the FAST words in their order (R222). -/
def fastKeyAt (i : Nat) : Nat :=
  if i < 192 then bankKey (0x2804 + 4 * (i % 3)) (i / 3)
  else if i < 208 then 0x2880 + 4 * (i - 192)
  else if i < 272 then 0x2900 + 4 * (i - 208)
  else if i < 288 then 0x2A00 + 4 * (i - 272)
  else 0x2A40 + 4 * (i - 288)

/-- FAST registers from their words; a reserved bit written as one is ignored (R9). -/
def fastRegs (ws : List Word) : List (Nat × Word) :=
  (List.range ws.length).map (fun i => (fastKeyAt i, ws.getD i 0 &&& BitVec.ofNat 32 (fastMask (fastKeyAt i % 0x10000))))

/-- An output's register from its net and flags. -/
def doWord (net flags : Nat) : Word := pack [(0, 16, net), (16, 3, flags)]

/-- Field registers of FIO (R223). -/
def fioRegs (f : FioCfg) : List (Nat × Word) :=
  (List.range 16).map (fun n =>
      let d := f.dis.getD n (0, 0, 0, 0)
      (0x2C40 + 4 * n, pack [(0, 2, d.1), (2, 6, d.2.1), (8, 1, d.2.2.1), (16, 16, d.2.2.2)]))
    ++ (List.range 12).map (fun n => (0x2CC0 + 4 * n, doWord (f.dos.getD n (0xFFFF, 0)).1 (f.dos.getD n (0xFFFF, 0)).2))
    ++ [(0x2D44, pack ((List.range 3).map (fun g => (4 * g, 4, f.groups.getD g 0))))]
    ++ (List.range 2).map (fun n => (0x2D48 + 4 * n, pack [(0, 1, (f.tcs.getD n (0, 0)).1), (1, 4, (f.tcs.getD n (0, 0)).2)]))

/-- Channel registers of CHANMAP. -/
def chanRegs (l : List ChanCfg) : List (Nat × Word) :=
  (List.range 16).map (fun c => (0x1400 + 4 * c, pack [(0, 2, (nth l c).gain), (2, 1, b2n (nth l c).excl)]))

/-- Registers that an image's sections set. -/
def imageRegs (c : SchemeCfg) : List (Nat × Word) :=
  chanRegs c.chans
    ++ (List.range 2).filterMap (fun b => (c.pilot.bind (fun l => l[b]?)).map (fun w => (0x1440 + 4 * b, w &&& 0x00FFFF3F#32)))
    ++ [(0x1800, wordOfFlt c.filter)]
    ++ (c.fast.map fastRegs).getD [] ++ (c.fio.map fioRegs).getD []

/-! ### Frame and header (R231 codes 1-8) -/

/-- Section types of R214. -/
def knownSec (t : Nat) : Bool := decide (1 ≤ t ∧ t ≤ 15) || decide (0x8000 ≤ t)

/-- Length of a section's value as its own counts give it, where R217 to R230 fix it. -/
def secLenOk (img : List Byte) (x : Sec) : Bool :=
  let f := fun a n => field img (x.off + 8 + a) n
  match x.typ with
  | 1 => decide (x.len = 292)
  | 2 => decide (x.len = 8)
  | 3 => decide (x.len = 16)
  | 4 => decide ((imgInsts img).1.length = f 0 2 ∧ (imgInsts img).2 = x.off + 8 + x.len ∧ f 2 1 = imgPlaces img ∧ 1 ≤ f 3 1 ∧ f 3 1 ≤ 8 ∧ f 4 1 < f 3 1 ∧ f 5 1 ≤ 3)
  | 5 => decide (x.len = 8 + 4 * ceilDiv (f 0 2) 32 + 4 * f 2 2)
  | 6 => decide (x.len = 1168)
  | 7 => decide (x.len = 188)
  | 8 => decide (x.len = 4 + 12 * f 0 2)
  | 9 => decide (x.len = 12 + 2 * (f 6 1 + f 7 1))
  | 10 => decide (x.len = 4 + 24 * f 0 2)
  | 11 => decide (x.len = 12 + 4 * f 6 2 + 8 * f 8 2)
  | 12 => decide (x.len = 8 + 2 * f 4 2)
  | 13 => decide (x.len = 4 + 8 * f 0 2)
  | 14 => decide ((imgCustoms img).1.length = f 0 2 ∧ (imgCustoms img).2 = x.off + 8 + x.len)
  | 15 => decide ((imgTexts img).2 = x.off + 8 + x.len)
  | _ => true

/-- Items at which a key does not rise. -/
def fallsAt {α : Type} (key : α → Nat) : List α → List α
  | a :: b :: r => if key a < key b then fallsAt key (b :: r) else b :: fallsAt key (b :: r)
  | _ => []

/-- Every item with those before it. -/
def withEarlier {α : Type} (l : List α) : List (List α × α) := (List.range l.length).filterMap (fun i => (l[i]?).map (fun a => (l.take i, a)))

/-- Instance records of a placement, and their first index. -/
def placeOf (img : List Byte) (p : Nat) : Nat × Nat :=
  let l := (imgInsts img).1.map (fun x => x.2.place)
  ((l.findIdx? (fun q => q = p)).getD 0, countIf l (fun q => decide (q = p)))

/-- Code 7: frame, order, reserved fields, lengths (R214), and the counts that the sections state of themselves. -/
def badFrame (img : List Byte) : Option Bad :=
  let ss := imgSecs img
  firstBad [
    (ss.2).map (fun o => { code := 7, sec := field img o 2, off := o }),
    check (decide (ss.1.length = field img 6 2)) 7 0 6,
    check (decide (field img 0x18 2 < 8)) 7 0 0x18,
    each (fallsAt (fun x => x.typ) ss.1) (fun x => check false 7 x.typ x.off),
    each ss.1 (fun x => check (knownSec x.typ) 7 x.typ x.off),
    each ss.1 (fun x => check (secLenOk img x) 7 x.typ x.off),
    each (fallsAt (fun p => p.2.num) (imgInsts img).1) (fun p => check false 7 4 p.1),
    each (imgInsts img).1 (fun p => check (decide (p.2.place < imgPlaces img)) 7 4 p.1),
    each (List.range (imgPlaces img)) (fun p =>
      let c := secField img 4 (22 + 8 * p) 2
      check (decide (c = (placeOf img p).2 ∧ (c = 0 ∨ secField img 4 (20 + 8 * p) 2 = (placeOf img p).1))) 7 4 (valOff img 4 + 16 + 8 * p))]

/-- Codes 1 to 8. -/
def badHead (img : List Byte) (len : Nat) : Option Bad :=
  firstBad [
    check (decide (slice img 0 4 = [0x5A, 0x58, 0x53, 0x49])) 1 0 0,
    check (decide (field img 0x3C 4 = crc32c (slice img 0 0x3C))) 2 0 0x3C,
    check (decide (field img 5 1 = 1)) 3 0 4,
    check (decide (field img 0x0C 2 = 0x6340)) 4 0 0x0C,
    check ((field img 0x0E 2).testBit Config.rev) 4 0 0x0E,
    check (decide (100 ≤ len ∧ len ≤ 1572800 ∧ field img 8 4 = len)) 5 0 8,
    check (decide (field img (len - 4) 4 = crc32c (slice img 0 (len - 4)))) 6 0 (len - 4),
    badFrame img,
    each [1, 2, 4, 5] (fun t => check (hasSec img t) 8 t 0),
    check (!(field img 0x18 2).testBit 2 || hasSec img 14) 8 14 0]

/-! ### References (R231 code 14) -/

/-- A reference to a net that exists, in a scheme with given counts of nets (R215). -/
def refOk (c : SchemeCfg) (r : Nat) : Bool :=
  let i := r % 0x1000
  decide (r = 0xFFFF) ||
  (match r / 0x1000 with
  | 0 => decide (i < c.nb)
  | 8 => decide (i < c.nb)
  | 1 => decide (i < c.na)
  | 2 => decide (i < 355)
  | 10 => decide (i < 355)
  | 3 => decide (i ≤ 36) || decide (64 ≤ i ∧ i < 192)
  | _ => false)

/-- A reference to a binary net that exists. -/
def binOk (c : SchemeCfg) (r : Nat) : Bool := refOk c r && (decide (r = 0xFFFF) || isBinRef r)

/-- A scheme net that something may write. -/
def outOk (c : SchemeCfg) (r : Nat) : Bool := decide (r = 0xFFFF) || (decide (r < 0x2000) && refOk c r)

/-- Scheme nets that a subscribed context writes: of an event context also the one after its members (R318, R320). -/
def streamNets (x : StreamCfg) : List Nat :=
  if x.kind = 0 then (List.range x.count).map (fun i => 0x1000 + x.first + i)
  else if x.kind = 1 then (List.range (x.count + 1)).map (fun i => x.first + i)
  else []

/-- Scheme nets written from outside the engines: imports and subscribed contexts. -/
def outerNets (c : SchemeCfg) : List Nat :=
  ((c.chain.map (fun h => h.imports.map (fun p => p.2.2))).getD []) ++ c.streams.flatMap streamNets

/-- A net stands in a list twice. -/
def twice : List Nat → Bool
  | [] => false
  | a :: r => (decide (a ≠ 0xFFFF) && r.contains a) || twice r

/-- Code 14, section by section. -/
def badNet (img : List Byte) (c : SchemeCfg) : Option Bad :=
  let outer := outerNets c
  firstBad [
    each (List.range c.groupNets.length) (fun i => check (binOk c (c.groupNets.getD i 0)) 14 4 (valOff img 4 + 8 + 2 * i)),
    each (imgInsts img).1 (fun p => check (p.2.ins.all (refOk c) && p.2.outs.all (outOk c)) 14 4 p.1),
    each (imgInsts img).1 (fun p => check (p.2.outs.all (fun r => !outer.contains r)) 14 4 p.1),
    each (withEarlier (imgInsts img).1) (fun x => check (!twice x.2.2.outs && !x.2.2.outs.any (fun r => decide (r ≠ 0xFFFF) && x.1.any (fun p => p.2.outs.contains r))) 14 4 x.2.1),
    each (List.range 4) (fun g =>
      let w := (c.fast.getD []).getD (288 + g) 0
      check (!bitAt w 12 || decide (bitsOf w 11 0 < c.nb)) 14 6 (valOff img 6 + 4 * (288 + g))),
    each (List.range ((c.fio.map (fun f => f.dos)).getD []).length) (fun n =>
      check (binOk c (((c.fio.map (fun f => f.dos)).getD []).getD n (0, 0)).1) 14 7 (valOff img 7 + 128 + 4 * n)),
    each (List.range c.ledger.length) (fun k =>
      let e := nth c.ledger k
      check (decide (e.kind = 0) || (decide (e.kind ≤ 2) && c.insts.any (fun i => i.num = e.source)) || (decide (3 ≤ e.kind ∧ e.source < c.nb)))
        14 8 (valOff img 8 + 4 + 12 * k)),
    each (c.capture.toList) (fun k => each (withEarlier (k.nets ++ k.trigs)) (fun x => check (binOk c x.2) 14 9 (valOff img 9 + 12 + 2 * x.1.length))),
    each (List.range c.streams.length) (fun k =>
      let x := nth c.streams k
      let ok := match x.kind with
        | 0 => decide (x.first + x.count ≤ c.na)
        | 1 => decide (x.first + x.count < c.nb)
        | 2 => true
        | _ => decide (x.first + x.count ≤ c.nb)
      let others := (c.streams.take k).flatMap streamNets
      check (ok && (streamNets x).all (fun n => !others.contains n)) 14 10 (valOff img 10 + 4 + 24 * k)),
    each (c.chain.toList) (fun h => firstBad [
      each (withEarlier h.exports) (fun x => check (binOk c x.2.2) 14 11 (valOff img 11 + 12 + 4 * x.1.length)),
      each (withEarlier h.imports) (fun x =>
        let n := x.2.2.2
        check (decide (n < c.nb) && !(c.streams.flatMap streamNets).contains n && x.1.all (fun p => decide (p.2.2 ≠ n)))
          14 11 (valOff img 11 + 12 + 4 * h.exports.length + 8 * x.1.length))])]

/-! ### Elements (R231 codes 9-13, 15-18) -/

/-- Charge of an instance: the library's, or a custom kind's declared worst case (R105). -/
def chargeOf (c : SchemeCfg) (i : InstCfg) : Nat :=
  if 0x80 ≤ i.kind then lookupD c.custom i.kind 0
  else if i.kind = 0x15 then 600 * (roundAway (ofSingle ((i.sets.getD 0 []).getD 9 0))).toNat
  else Config.charge i.kind i.ins.length

/-- Charge of a placement (R105). -/
def placeCharge (c : SchemeCfg) (p : Nat) : Nat := 625 + ((c.insts.filter (fun i => i.place = p)).map (chargeOf c)).sum

/-- Largest charge at a rate (R105). -/
def maxCharge (fp : Nat) : Nat := 150000000 / fp

/-- fp of a filter's settings. -/
def fpOf (f : FltSet) : Nat := Config.fc / (f.d1 * f.d2)

/-- Elements of the logic fabric whose output follows their inputs in the same tick (R183). -/
def combinational (kind : Nat) : Bool := decide (0x20 ≤ kind ∧ kind ≤ 0x26)

/-- One round of taking away the elements that wait for no other of the list. -/
def peel (l : List InstCfg) : List InstCfg :=
  l.filter (fun i => i.ins.any (fun r => decide (r ≠ 0xFFFF) && l.any (fun j => j.outs.contains (r % 0x8000))))

def peelN : Nat → List InstCfg → List InstCfg
  | 0, l => l
  | n + 1, l => peelN n (peel l)

/-- Elements that lie on or behind a combinational loop (R107, R183). -/
def looped (c : SchemeCfg) : List InstCfg :=
  let g := c.insts.filter (fun i => combinational i.kind)
  peelN g.length g

/-- Kinds of R220. -/
def knownKind (k : Nat) : Bool := decide (1 ≤ k ∧ k ≤ 0x1A) || decide (0x20 ≤ k ∧ k ≤ 0x27) || decide (0x80 ≤ k)

/-- A latch whose value is persistent (R184). -/
def isPersistent (i : InstCfg) : Bool := decide (i.kind = 0x12) || (i.persistent && decide (i.kind = 0x26))

/-- Code 12: counts of R107 and R184. -/
def badLimit (img : List Byte) (c : SchemeCfg) : Option Bad :=
  firstBad [
    check (decide (c.places.length ≤ 14)) 12 0 0x1B,
    check (decide (c.insts.length ≤ 512)) 12 4 (valOff img 4),
    each (imgInsts img).1 (fun p => check (decide (p.2.size ≤ 8192)) 12 4 p.1),
    check (decide ((c.insts.map (fun i => i.size)).sum ≤ 786432)) 12 4 (valOff img 4),
    each (List.range c.places.length) (fun p => check (decide ((c.places.getD p (0, 0)).2 ≤ 48)) 12 4 (valOff img 4 + 16 + 8 * p)),
    each (withEarlier (imgInsts img).1) (fun x => check (!isPersistent x.2.2 || decide (countIf x.1 (fun p => isPersistent p.2) < 64)) 12 4 x.2.1),
    check (decide (c.nb ≤ 4096 ∧ c.na ≤ 1024)) 12 5 (valOff img 5)]

/-- A value of a channel entry, a group entry or a bank's pilot setting is outside its range (R36, R54, R217, R218). -/
def badChan (img : List Byte) (c : SchemeCfg) : Option Bad :=
  let f := secField img 1
  firstBad [
    check (decide (c.fn = 50 ∨ c.fn = 60)) 16 1 (valOff img 1),
    check (decide (f 1 1 ≤ 7)) 16 1 (valOff img 1 + 1),
    check (decide (f 2 1 ≤ 7 ∨ f 2 1 = 0xFF)) 16 1 (valOff img 1 + 2),
    check (decide (5 ≤ c.trkMin ∧ c.trkMin ≤ 50)) 16 1 (valOff img 1 + 3),
    each (List.range 16) (fun k =>
      let h := nth c.chans k
      check (decide (h.kind ≤ 2 ∧ h.gain ≤ 3 ∧ h.role ≤ 3 ∧ h.group.getD 0 ≤ 7)) 16 1 (valOff img 1 + 4 + 12 * k)),
    each (List.range 8) (fun g => check (decide ((nth c.groups g).kind ≤ 2 ∧ (nth c.groups g).rot ≤ 1)) 16 1 (valOff img 1 + 0xC4 + 12 * g)),
    each (List.range 2) (fun b =>
      let f := fun a => secField img 3 (8 * b + a) 1
      check (!hasSec img 3 || decide (f 0 ≤ 8 ∧ f 1 ≤ 1 ∧ f 2 ≤ 1 ∧ 2 ≤ f 4 ∧ f 4 ≤ 100 ∧ 2 ≤ f 5 ∧ f 5 ≤ 100)) 16 3 (valOff img 3 + 8 * b))]

/-- The stage reads a net that a restraint on another placement writes (R155). -/
def badRestraint (c : SchemeCfg) (i : InstCfg) : Bool :=
  isOc i.kind && c.insts.any (fun r => decide (r.kind = 0x0F ∧ r.place ≠ i.place) && i.ins.any (fun x => decide (x ≠ 0xFFFF) && r.outs.contains (x % 0x8000)))

/-- Longest alignment in ticks (R170). -/
def maxAlign (fp : Nat) : Nat := 8 * fp / 1000

/-- One setting group of a zone keeps the local part of R169 and R170. -/
def zoneOk (c : SchemeCfg) (ws : List Word) : Bool :=
  let n := (roundAway (ofSingle (ws.getD 9 0))).toNat
  let a := (roundAway (ofSingle (ws.getD 6 0))).toNat
  let src := fun e => ws.getD (14 + 4 * e) 0
  decide (2 ≤ n ∧ n ≤ 8 ∧ 12 + 4 * n ≤ ws.length ∧ 2 ≤ a ∧ a ≤ maxAlign (fpOf c.filter)) &&
  (List.range n).any (fun e => decide (srcKind (src e) = 0)) &&
  (List.range n).all (fun e =>
    match srcKind (src e) with
    | 0 => decide (srcFirst (src e) + 2 < 16)
    | 1 => decide (1 ≤ srcAddr (src e) ∧ srcAddr (src e) ≤ 63 ∧ srcFirst (src e) + 2 < 16)
    | 2 => (c.streams[srcAddr (src e)]?).any (fun x => decide (x.kind = 0 ∧ x.delay = a ∧ srcFirst (src e) + 2 < x.count))
    | _ => false)

/-- Code 18 (R169). -/
def badZone (img : List Byte) (c : SchemeCfg) : Option Bad :=
  firstBad [
    each (withEarlier (imgInsts img).1) (fun x => check (decide (x.2.2.kind ≠ 0x15) || decide (countIf x.1 (fun p => decide (p.2.kind = 0x15)) < 4)) 18 4 x.2.1),
    each (imgInsts img).1 (fun p => check (decide (p.2.kind ≠ 0x15) || p.2.sets.all (zoneOk c)) 18 4 p.1)]

/-! ### The other sections (R231 codes 19-26) -/

/-- A state that holds a scheme's registers, on which the register checks of R205 and R254 are made. -/
def trial (c : SchemeCfg) : State :=
  let s := (imageRegs c).foldl (fun s p => s.setReg p.1 p.2) State.reset
  let s := { s with flt := { s.flt with eff := c.filter } }
  (s.evalPilot 0).evalPilot 1

/-- Code 19: a word of FAST that R205 refuses, a threshold below its floor (R195), or an arc comparator whose light input is not in fast mode (R192). -/
def badFast (img : List Byte) (c : SchemeCfg) : Option Bad :=
  let t := trial c
  let ws := c.fast.getD []
  each (List.range ws.length) (fun i =>
    let k := fastKeyAt i
    let s := t.setReg 0x2800 (BitVec.ofNat 32 (k / 0x10000))
    let w := ws.getD i 0
    let dark := decide (k % 0x10000 = 0x2804) && cfgEn w && decide (cfgMode w = 3) && !t.diFast (12 + cfgLight w)
    check (!s.fastBad (k % 0x10000) w && !s.fastBelow (k % 0x10000) w && !dark) 19 6 (valOff img 6 + 4 * i))

/-- Offset of a FIO register's item. -/
def fioOff (a : Nat) : Nat :=
  if a < 0x2C80 then 8 * ((a - 0x2C40) / 4) else if a < 0x2D44 then 128 + 4 * ((a - 0x2CC0) / 4) else if a = 0x2D44 then 176 else 180 + (a - 0x2D48)

/-- Code 20: values of FIO (R223). -/
def badFio (img : List Byte) (c : SchemeCfg) : Option Bad :=
  let t := trial c
  match c.fio with
  | none => none
  | some f =>
    firstBad [
      each (List.range 16) (fun n =>
        let d := f.dis.getD n (0, 0, 0, 0)
        check (decide (d.1 ≤ 2 ∧ d.2.1 ≤ 44 ∧ d.2.2.1 ≤ 1)) 20 7 (valOff img 7 + 8 * n)),
      each (List.range 12) (fun n => check (decide ((f.dos.getD n (0, 0)).2 ≤ 7)) 20 7 (valOff img 7 + 128 + 4 * n)),
      each (withEarlier f.groups) (fun x => check (decide (x.2 ≤ 15)) 20 7 (valOff img 7 + 176 + x.1.length)),
      each (List.range 2) (fun n => check (decide ((f.tcs.getD n (0, 0)).1 ≤ 1 ∧ (f.tcs.getD n (0, 0)).2 ≤ 11)) 20 7 (valOff img 7 + 180 + 4 * n)),
      each (fioRegs f) (fun p => check (decide (t.fioCheck p.1 p.2 = 0)) 20 7 (valOff img 7 + fioOff p.1))]

/-- A LEDGER entry keeps R224. -/
def ledgerOk (c : SchemeCfg) (e : LedgerCfg) : Bool :=
  decide (e.kind ≤ 4 ∧ e.sev ≤ 3 ∧ 1 ≤ e.depth ∧ 1 ≤ e.refill ∧ e.refill ≤ 60000 ∧ countIf c.ledger (fun x => decide (x.code = e.code)) = 1) &&
  (if e.kind = 0 then decide (e.code < 0x200 ∧ e.sev = 0) else decide (0x200 ≤ e.code ∧ e.code ≤ 0x5FF))

/-- Bytes up to the first zero. -/
def cString (l : List Byte) : List Byte := l.takeWhile (fun b => b ≠ 0)

/-- The identifier of a published context is there and matches (R312). -/
def identOk (img : List Byte) (k : Nat) (x : StreamCfg) : Bool :=
  match (imgTexts img).1.find? (fun p => p.1 = 0xFF00 + k) with
  | none => false
  | some p =>
    if x.kind = 2 then decide (crc32c p.2 = x.hash)
    else decide (crc32c (cString p.2) = x.hash ∧ countIf p.2 (fun b => decide (b = 0)) = 3 ∧ p.2.getLast? = some 0)

/-- A context keeps R226 and R311. -/
def streamOk (img : List Byte) (fp k : Nat) (x : StreamCfg) : Bool :=
  let n := x.items
  decide (x.kind ≤ 3 ∧ x.mac ≤ 2 ∧ n < 64) &&
  (match x.kind with
  | 0 => decide (1 ≤ n ∧ n ≤ 16 ∧ x.rate % 8 < 3 ∧ x.rate / 8 ≤ n ∧ x.vlan = 0 ∧ 2 ≤ x.delay ∧ x.delay ≤ maxAlign fp)
  | 1 => decide (1 ≤ n ∧ n ≤ 32 ∧ x.rate = 0 ∧ x.vlan = 0 ∧ x.delay = 0)
  | 2 => decide (n = x.chans.length ∧ x.rate < 3 ∧ x.delay = 0) && identOk img k x
  | _ => decide (1 ≤ n ∧ n ≤ 32 ∧ x.rate ≤ 5 ∧ x.delay = 0) && identOk img k x)

/-- Code 21. -/
def badStreams (img : List Byte) (c : SchemeCfg) : Option Bad :=
  firstBad [
    check (decide (c.streams.length ≤ 128 ∧ countIf c.streams (fun x => decide (2 ≤ x.kind)) ≤ 4)) 21 10 (valOff img 10),
    each (List.range c.streams.length) (fun k => check (streamOk img (fpOf c.filter) k (nth c.streams k)) 21 10 (valOff img 10 + 4 + 24 * k))]

/-- Code 22, for a unit with an address; 0 while it has none. -/
def badChain (img : List Byte) (c : SchemeCfg) (own : Nat) : Option Bad :=
  match c.chain with
  | none => none
  | some h =>
    firstBad [
      check (decide (h.addr ≤ 63 ∧ (h.addr = 0 ∨ own = 0 ∨ h.addr = own))) 22 11 (valOff img 11),
      each (withEarlier h.xcp) (fun x => check (decide (x.2 < 16 ∨ x.2 = 0xFF)) 22 11 (valOff img 11 + 1 + x.1.length)),
      each (withEarlier h.exports) (fun x => check (decide (x.2.1 < 512) && x.1.all (fun p => decide (p.1 ≠ x.2.1))) 22 11 (valOff img 11 + 12 + 4 * x.1.length)),
      each (withEarlier h.imports) (fun x => check (decide (1 ≤ x.2.1 ∧ x.2.1 ≤ 63 ∧ x.2.2.1 < 512)) 22 11 (valOff img 11 + 12 + 4 * h.exports.length + 8 * x.1.length))]

/-- Outputs that FIO flags as shared in the hinge. -/
def sharedMask (c : SchemeCfg) : Nat := maskOf (((c.fio.map (fun f => f.dos)).getD []).map (fun d => d.2.testBit 2))

/-- Code 23 (R228). -/
def badHinge (img : List Byte) (c : SchemeCfg) : Option Bad :=
  match c.hinge with
  | none => check (!c.hingeImg) 23 12 0x18
  | some h =>
    firstBad [
      check c.hingeImg 23 12 0x18,
      check (decide (1 ≤ h.peer ∧ h.peer ≤ 63)) 23 12 (valOff img 12),
      check (decide (h.mask = sharedMask c)) 23 12 (valOff img 12 + 2),
      each (withEarlier h.insts) (fun x => check (c.insts.any (fun i => decide (i.num = x.2) && decide (anchorBytes i.kind ≠ 0))) 23 12 (valOff img 12 + 8 + 2 * x.1.length)),
      check (decide ((h.insts.map (fun n => anchorBytes (((c.insts.find? (fun i => i.num = n)).map (fun i => i.kind)).getD 0))).sum ≤ 1024)) 23 12 (valOff img 12 + 8)]

/-- Code 24: an entry would take writes of a range away from HOST (R229). -/
def locksOut (e : KeyEntry) : Bool :=
  e.flags.testBit 1 && !e.mask.testBit 0 &&
  ([(0x0004, 0x0004), (0x1000, 0x100B), (0x2400, 0x27FF), (0x9000, 0x9FFF)] : List (Nat × Nat)).any (fun r => decide (e.first ≤ r.2 ∧ r.1 ≤ e.last))

/-- Code 25 (R230). -/
def badCustom (img : List Byte) (c : SchemeCfg) : Option Bad :=
  firstBad [
    each (imgCustoms img).1 (fun x => check (decide (0x80 ≤ x.kind)) 25 14 x.off),
    check (decide (c.customBytes ≤ 131072)) 25 14 (valOff img 14)]

/-- Code 26 (R225). -/
def badCapture (img : List Byte) (c : SchemeCfg) : Option Bad :=
  match c.capture with
  | none => none
  | some k => check (decide (k.nets.length ≤ 64 ∧ k.trigs.length ≤ 16 ∧ (k.pre + k.post) * fpOf c.filter ≤ capTicks * 1000)) 26 9 (valOff img 9)

/-! ### All checks, in order (R231) -/

/-- The checks of R231 on an image of a length: the first failure. -/
def State.checkImage (s : State) (img : List Byte) (len : Nat) : Option Bad :=
  let c := schemeOf img
  let f := secField img 2
  let v2 := valOff img 2
  (badHead img len).orElse (fun _ => firstBad [
    check (decide (f 0 1 ≤ 6 ∧ f 2 2 < 1024 ∧ f 4 1 < 16 ∧ f 5 1 < 64 ∧ f 6 1 < 4) && decide (fltCheck c.filter = 0 ∧ fpSel (fpOf c.filter) = c.fpSel)) 9 2 v2,
    check (decide (c.places.length ≤ s.assignable.length)) 10 0 0x1B,
    each (List.range c.places.length) (fun p =>
      let q := (c.places.getD p (0, 0)).1
      check (decide (q = placeCharge c p ∧ q ≤ maxCharge (fpOf c.filter))) 11 4 (valOff img 4 + 16 + 8 * p)),
    badLimit img c,
    each (imgInsts img).1 (fun p => check (!(looped c).contains p.2) 13 4 p.1),
    badNet img c,
    each (imgInsts img).1 (fun p => check (knownKind p.2.kind && (decide (p.2.kind < 0x80) || c.custom.any (fun k => k.1 = p.2.kind))) 15 4 p.1),
    badChan img c,
    each (imgInsts img).1 (fun p => check (p.2.sets.all (setsOk p.2.kind p.2.ins.length)) 16 4 p.1),
    each (List.range c.ledger.length) (fun k => check (ledgerOk c (nth c.ledger k)) 16 8 (valOff img 8 + 4 + 12 * k)),
    each (imgInsts img).1 (fun p => check (!badRestraint c p.2) 17 4 p.1),
    badZone img c, badFast img c, badFio img c, badStreams img c, badChain img c s.chn.addr, badHinge img c,
    each (List.range c.keyway.length) (fun k => check (!locksOut (nth c.keyway k)) 24 13 (valOff img 13 + 4 + 8 * k)),
    badCustom img c, badCapture img c])

end Sys2Proof.Machine
end

