-- ==== Sys2Proof/Machine/Templates.lean ====
section
/-! DEFINITION. The built-in templates and their parameters (R138, R209-R211; log entry 23). -/

namespace Sys2Proof.Machine

/-! ### Nets (log entry 23) -/

/-- Binary net k of template instance i: 0 start, 1 operate, 2 inv, then the kind's own. -/
def tb (i k : Nat) : Nat := 16 * i + k

/-- Analogue net k of template instance i. -/
def ta (i k : Nat) : Nat := 0x1000 + 12 * i + k

/-- A kind's own outputs in port order: true where binary (log entry 9). -/
def ownBits (kind : Nat) : List Bool :=
  match kind with
  | 0x01 => List.replicate 5 false
  | 0x02 => List.replicate 10 false
  | 0x07 => List.replicate 6 true ++ List.replicate 3 false
  | 0x08 => [true, true, false]
  | 0x0D => List.replicate 4 true
  | 0x0E => [false, true]
  | 0x0F => List.replicate 4 true
  | 0x11 => List.replicate 3 true
  | 0x12 => [true]
  | 0x13 => [true, true]
  | 0x14 => List.replicate 5 true
  | 0x15 => List.replicate 5 true ++ List.replicate 6 false
  | _ => []

/-- Nets of a kind's own outputs, from counts of binary and analogue nets taken so far. -/
def ownNets (i : Nat) : List Bool → Nat → Nat → List Nat
  | [], _, _ => []
  | true :: r, b, a => tb i b :: ownNets i r (b + 1) a
  | false :: r, b, a => ta i a :: ownNets i r b (a + 1)

/-- All output nets of template instance i. -/
def tplOuts (kind i : Nat) : List Nat := [tb i 0, tb i 1, tb i 2] ++ ownNets i (ownBits kind) 3 0

/-! ### Instances (R209) -/

/-- A template instance: number, kind, inputs, setting words that differ from the table's defaults. -/
structure TplInst where
  num : Nat
  kind : Nat
  ins : List Nat := []
  ovr : List (Nat × Word) := []
  deriving DecidableEq, Repr, Inhabited

/-- Four estimators on consecutive channels, from instance o on. -/
def tplEsts (o ch : Nat) : List TplInst := (List.range 4).map (fun k => { num := o + k, kind := 0x01, ovr := [(2, BitVec.ofNat 32 (ch + k))] })

/-- How a feeder's stages are wired: phase and earth directional element, restraint, zone-selective first stage, further operate nets into the trip logic. -/
structure Feeder where
  dirP : Nat := 0xFFFF
  dirE : Nat := 0xFFFF
  restr : Nat := 0xFFFF
  zsi : Bool := false
  more : List Nat := []
  deriving DecidableEq, Repr, Inhabited

/-- The instances of T1 on a current group: from instance o on, first channel ch. -/
def tplFeeder (t o ch : Nat) (f : Feeder) : List TplInst :=
  let ph := [ta o 0, ta (o + 1) 0, ta (o + 2) 0]
  let phase := ph ++ [f.dirP, 0xFFFF, 0xFFFF, 0xFFFF, f.restr]
  let earth := [ta (o + 3) 0, ta (o + 4) 0, f.dirE, f.restr]
  tplEsts o ch ++ [
    { num := o + 4, kind := 0x02, ins := ph },
    { num := o + 5, kind := if f.zsi then 0x16 else 0x03, ins := phase ++ (if f.zsi then [Config.tplRef t (o + 5) 8, Config.tplRef t (o + 5) 9] else []) },
    { num := o + 6, kind := 0x03, ins := phase },
    { num := o + 7, kind := 0x04, ins := earth },
    { num := o + 8, kind := 0x04, ins := earth },
    { num := o + 9, kind := 0x11, ins := [Config.tplRef t (o + 9) 0, Config.tplRef t (o + 9) 1, tb (o + 5) 1, tb (o + 6) 1, tb (o + 7) 1, tb (o + 8) 1] ++ f.more },
    { num := o + 10, kind := 0x13, ins := [tb (o + 9) 1, Config.tplRef t (o + 10) 1] ++ ph ++ [ta (o + 3) 0] }]

/-- What T2 adds: the voltage estimators and the two directional elements. -/
def tplDirs (ovr : List (Nat × Word)) : List TplInst :=
  tplEsts 11 4 ++ [
    { num := 15, kind := 0x07, ins := [ta 0 0, ta 1 0, ta 2 0, ta 11 0, ta 12 0, ta 13 0] },
    { num := 16, kind := 0x08, ins := [ta 3 0, ta 4 0, ta 14 0, 0xFFFF], ovr := ovr }]

/-- What T3 adds: inrush restraint and thermal overload. -/
def tplXfmr : List TplInst :=
  [{ num := 11, kind := 0x0F, ins := [ta 0 0, ta 1 0, ta 2 0] }, { num := 12, kind := 0x0E, ins := [ta 0 0, ta 1 0, ta 2 0] }]

/-- The instances of each template, in order (R209). -/
def tplInsts (t : Nat) : List TplInst :=
  match t with
  | 1 => tplFeeder 1 0 0 {}
  | 2 => tplFeeder 2 0 0 { dirP := tb 15 3, dirE := tb 16 3 } ++ tplDirs []
  | 3 => tplFeeder 3 0 0 { restr := tb 11 3, more := [tb 12 1] } ++ tplXfmr
  | 4 => tplFeeder 4 0 0 { restr := tb 11 3, more := [tb 12 1, tb 13 1] } ++ tplXfmr ++ [{ num := 13, kind := 0x06, ins := [ta 4 0, 0xFFFF, tb 11 3] }]
  | 5 =>
    tplFeeder 5 0 0 {} ++ [
      { num := 11, kind := 0x14, ins := [tb 9 1, tb 9 3, tb 9 5, Config.tplRef 5 11 3, Config.tplRef 5 11 4, Config.tplRef 5 11 5, Config.tplRef 5 11 6, tb 12 1,
          Config.tplRef 5 11 8, Config.tplRef 5 11 9] },
      { num := 12, kind := 0x12, ins := [tb 9 4, tb 11 7, Config.tplRef 5 12 2] }]
  | 6 =>
    tplFeeder 6 0 0 { dirP := tb 15 3, dirE := tb 16 3, more := [tb 17 1] } ++ tplDirs [(2, 0)]
      ++ [{ num := 17, kind := 0x05, ins := [ta 3 0, tb 16 3] }]
  | 7 => tplFeeder 7 0 0 { zsi := true }
  | 8 =>
    tplEsts 0 4 ++ [
      { num := 4, kind := 0x02, ins := [ta 0 0, ta 1 0, ta 2 0] },
      { num := 5, kind := 0x0A, ins := [ta 0 0, ta 1 0, ta 2 0] },
      { num := 6, kind := 0x0B, ins := [ta 0 0, ta 1 0, ta 2 0] },
      { num := 7, kind := 0x0C, ins := [ta 3 0, ta 4 0] },
      { num := 8, kind := 0x0D }]
  | 9 =>
    tplFeeder 9 0 0 { more := [tb 11 1] } ++ [
      { num := 11, kind := 0x15, ins := [Config.tplRef 9 11 0, Config.tplRef 9 11 1, Config.tplRef 9 11 2],
        ovr := [(10, toSingle 1), (12, toSingle 1), (15, toSingle 1), (16, toSingle 1), (18, 1), (19, toSingle 1)] }]
  | 11 => tplFeeder 11 0 0 {} ++ tplFeeder 11 11 8 {}
  | _ => []

/-- Place of a kind in the run order: an instance runs after those that it reads (R101, R155; log entry 23). -/
def tplRank (kind : Nat) : Nat :=
  match kind with
  | 0x01 => 0
  | 0x02 => 1
  | 0x07 => 2
  | 0x08 => 2
  | 0x0F => 3
  | 0x15 => 5
  | 0x11 => 6
  | 0x13 => 7
  | 0x14 => 8
  | 0x12 => 9
  | _ => 4

/-! ### Parameters (R211) -/

/-- Key of a parameter, as SCH_TPL_PSEL spells it: word, instance, group. -/
def parKey (word inst group : Nat) : Nat := word + 64 * inst + 4096 * group

/-- Words of an instance without parameters. -/
def tplWords (i : TplInst) : List Word :=
  let l := (rowsOf i.kind).map dfltWord
  (List.range l.length).map (fun k => lookupD i.ovr k (l.getD k 0))

/-- Words of an instance in a group, with written parameters; the earth-fault dead times of an autoreclose, which are expert words, equal its dead times (R167). -/
def tplSet (params : List (Nat × Word)) (i : TplInst) (g : Nat) : List Word :=
  let l := tplWords i
  let ws := (List.range l.length).map (fun k => lookupD params (parKey k i.num g) (l.getD k 0))
  if i.kind = 0x14 then ws.take 7 ++ (ws.drop 3).take 4 ++ ws.drop 11 else ws

/-- Setting words of a kind that a template exposes: the basic-level ones (R138 and the setting tables). -/
def basicWords (kind : Nat) : List Nat :=
  let oc := [2, 3, 4, 5, 7, 8, 10, 11, 12]
  match kind with
  | 0x03 => oc
  | 0x04 => oc
  | 0x05 => oc
  | 0x06 => oc
  | 0x16 => oc ++ [14]
  | 0x07 => [2]
  | 0x08 => [2]
  | 0x0A => [2, 3, 4, 6]
  | 0x0B => [2, 3, 4]
  | 0x0C => [2, 3]
  | 0x0D => [2, 3, 5, 8, 9, 10]
  | 0x0E => [2, 3, 4, 6]
  | 0x0F => [2, 3]
  | 0x11 => [2, 3]
  | 0x13 => [2, 4, 5, 6]
  | 0x14 => [2, 3, 4, 5, 6, 11, 12, 14, 15, 16, 17, 18]
  | 0x15 => ((List.range 38).map (fun k => k + 2)).filter (fun k => k ≠ 8)
  | _ => []

/-- A value that the basic level admits of a word with a wider expert range. -/
def basicOk (kind i : Nat) (w : Word) : Bool :=
  if isOc kind ∧ i = 3 then decide (w.toNat ≤ 7)
  else if isOc kind ∧ i = 10 then decide (w.toNat ≤ 1)
  else if kind = 0x07 ∧ i = 2 then decide (ofSingle w = 30 ∨ ofSingle w = 45)
  else if kind = 0x08 ∧ i = 2 then decide (ofSingle w = 0 ∨ ofSingle w = 60 ∨ ofSingle w = 90)
  else if (kind = 0x0A ∨ kind = 0x0B) ∧ i = 3 then decide (w.toNat = 0)
  else true

/-- The written parameter exists and its value is legal in a template (R211, R216). -/
def paramOk (t : Nat) (params : List (Nat × Word)) (key : Nat) (w : Word) : Bool :=
  let word := key % 64
  let inst := key / 64 % 32
  let g := key / 4096 % 8
  if inst = 31 then decide (word < 24) || (decide (word = 24) && decide (ofSingle w = 50 ∨ ofSingle w = 60))
  else
    match (tplInsts t).find? (fun i => i.num = inst) with
    | none => false
    | some i =>
      let ws := (tplSet params i g).set word w
      decide (word ∈ basicWords i.kind ∧ word < ws.length) && basicOk i.kind word w && wordOk i.kind word w && setsOk i.kind i.ins.length ws

/-- A parameter's value: written, or the default of its table; the module-wide ones as log entry 23 names them. -/
def paramVal (t : Nat) (params : List (Nat × Word)) (key : Nat) : Word :=
  let word := key % 64
  let inst := key / 64 % 32
  let g := key / 4096 % 8
  if inst = 31 then lookupD params (parKey word 31 0) (if word = 24 then toSingle 50 else if word < 24 then toSingle 1 else 0)
  else
    match (tplInsts t).find? (fun i => i.num = inst) with
    | none => 0
    | some i => (tplSet params i g).getD word 0

/-! ### The scheme of a template -/

/-- Channels of a template: its measuring groups (R209). -/
def tplChan (t : Nat) (params : List (Nat × Word)) (c : Nat) : ChanCfg :=
  let cur := decide (t ≠ 0 ∧ t ≠ 8)
  let volt := decide (t = 2 ∨ t = 6 ∨ t = 8 ∨ t = 10)
  let ks := ofSingle (paramVal t params (parKey c 31 0))
  if c < 4 then { kind := b2n cur, group := if cur then some 0 else none, role := c, ks := ks }
  else if c < 8 then { kind := if volt then 2 else 0, group := if volt then some 1 else none, role := c - 4, ks := ks }
  else if c < 12 ∧ t = 11 then { kind := 1, group := some 2, role := c - 8, ks := ks }
  else if t = 10 then { kind := Config.tplKind c, group := none, role := 0, ks := ks }
  else { ks := ks }

/-- Measuring groups of a template. -/
def tplGroup (t : Nat) (params : List (Nat × Word)) (g : Nat) : GroupCfg :=
  let kind := if g = 0 then b2n (decide (t ≠ 0 ∧ t ≠ 8)) else if g = 1 then (if t = 2 ∨ t = 6 ∨ t = 8 ∨ t = 10 then 2 else 0) else if g = 2 ∧ t = 11 then 1 else 0
  { kind := kind, base := ofSingle (paramVal t params (parKey (16 + g) 31 0)), sef := ofSingle (paramVal t params (parKey (16 + g) 31 0)) }

/-- Scheme events of a template's instances (R210). -/
def tplLedger (i : TplInst) : List LedgerCfg :=
  let sev := if i.kind = 0x11 then Config.trip else Config.alarm
  let a := Config.sevRate Config.info
  let b := Config.sevRate sev
  [{ code := 0x0200 + 2 * i.num, source := i.num, kind := 1, sev := Config.info, depth := a.1, refill := a.2 },
    { code := 0x0201 + 2 * i.num, source := i.num, kind := 2, sev := sev, depth := b.1, refill := b.2 }]

/-- Outputs of a template: number and reference (R209). -/
def tplOuts12 (t : Nat) : List (Nat × Nat) :=
  let feeder := [(0, tb 9 1), (1, tb 10 1)]
  match t with
  | 0 => []
  | 3 => feeder ++ [(2, tb 12 3)]
  | 4 => feeder ++ [(2, tb 12 3)]
  | 5 => feeder ++ [(2, tb 11 1)]
  | 8 => [(0, Config.tplRef 8 9 0)]
  | 10 => []
  | 11 => feeder ++ [(4, tb 20 1), (5, tb 21 1)]
  | _ => feeder

/-- Registers that a template sets: the nets of the outputs; trips and breaker-failure trips are flagged as trip outputs. -/
def tplRegs (t : Nat) : List (Nat × Word) :=
  (List.range 12).map (fun n =>
    match (tplOuts12 t).find? (fun p => p.1 = n) with
    | some p => (0x2CC0 + 4 * n, doWord p.2 (if n = 2 then 0 else 1))
    | none => (0x2CC0 + 4 * n, doWord 0xFFFF 0))

/-- The published context of T10 (log entry 23). -/
def tplStreams (t : Nat) : List StreamCfg :=
  if t = 10 then
    [{ kind := 2, mac := Config.tplStream 0 % 3, delay := 0, items := 16, dst := Config.tplStream 1, appid := Config.tplStream 2 % 65536, hash := Config.tplStream 3 % 2 ^ 32,
       first := 0xFFFF, rate := Config.tplStream 4 % 3, vlan := Config.tplStream 5 % 65536 }]
  else []

/-- The scheme of a template under given parameters and filter (R209). -/
def templateOf (t : Nat) (params : List (Nat × Word)) (flt : FltSet) : SchemeCfg :=
  let l := tplInsts t
  let insts := (List.range 10).flatMap (fun r => (l.filter (fun i => decide (tplRank i.kind = r))).map (fun i =>
    ({ num := i.num, kind := i.kind, place := 0, ins := i.ins, outs := tplOuts i.kind i.num, sets := (List.range 8).map (tplSet params i), name := 256 * t + i.num } : InstCfg)))
  let c : SchemeCfg := {
    fpSel := fpSel (fpOf flt), fn := if ofSingle (paramVal t params (parKey 24 31 0)) = 60 then 60 else 50,
    trkV := if t = 2 ∨ t = 6 ∨ t = 8 then some 1 else none, trkI := if t = 0 ∨ t = 8 ∨ t = 10 then none else some 0,
    chans := (List.range 16).map (tplChan t params), groups := (List.range 8).map (tplGroup t params), filter := flt,
    insts := insts, nGroups := 8, nb := 16 * l.length, na := 12 * l.length, ledger := l.flatMap tplLedger, streams := tplStreams t }
  { c with places := [(placeCharge c 0, 0)] }

end Sys2Proof.Machine
end

