-- ==== Sys2Proof/Machine/Scheme.lean ====
section
/-! DEFINITION. The scheme mechanism: slots, loading, boot selection, setting groups, structural activation, template parameters (R184, R209-R243). -/

namespace Sys2Proof.Machine

def State.modSch (s : State) (f : Scheme → Scheme) : State := { s with sch := f s.sch }

/-! ### Slots (R232, R233) -/

/-- MRAM offset of a slot, and of its hallmark block. -/
def imgBase (k : Nat) : Nat := 0x180000 * k

def hallAt (k : Nat) : Nat := imgBase k + 0x17FFC0

/-- The hallmark word. -/
def hallmark : Nat := 0x4B4D585A

/-- The hallmark block's own checks against the image: word, CRC, generation, length and CRC (R233). -/
def State.hallOk (s : State) (k : Nat) : Bool :=
  let b := s.mramGet (hallAt k) 64
  let len := field b 8 4
  decide (field b 0x3C 4 = crc32c (b.take 0x3C)) && decide (100 ≤ len ∧ len ≤ 1572800) && s.mramGood (imgBase k) 0x180000 &&
    decide (field (s.mramGet (imgBase k) 64) 0x10 4 = field b 4 4 ∧ field (s.mramGet (imgBase k) 64) 8 4 = len
      ∧ field (s.mramGet (imgBase k + len - 4) 4) 0 4 = field b 0x0C 4)

/-- A slot carries a hallmark. -/
def State.hallSet (s : State) (k : Nat) : Bool := decide (field (s.mramGet (hallAt k) 4) 0 4 = hallmark)

/-- Length that a slot's block gives. -/
def State.slotLen (s : State) (k : Nat) : Nat := field (s.mramGet (hallAt k + 8) 4) 0 4

/-- The image in a slot. -/
def State.slotImage (s : State) (k : Nat) : List Byte := s.mramGet (imgBase k) (s.slotLen k)

/-- Why a slot is not valid: none when it is (R233). A block that fails its own checks counts as an image whose CRC fails. -/
def State.slotBad (s : State) (k : Nat) : Option Bad :=
  if s.hallOk k then s.checkImage (s.slotImage k) (s.slotLen k) else some { code := 6, sec := 0, off := 0 }

/-- A slot's state and generation set. -/
def State.setSlotSt (s : State) (k st gen : Nat) : State :=
  s.modSch (fun x => { x with slotState := x.slotState.set k st, slotGen := x.slotGen.set k gen })

/-- The boot's check of a slot (SCH_SLOT_STAT). -/
def State.scanSlot (s : State) (k : Nat) : State :=
  if !s.hallSet k then s.setSlotSt k 0 0
  else
    match s.slotBad k with
    | none => s.setSlotSt k 1 (field (s.mramGet (hallAt k + 4) 4) 0 4)
    | some b => (s.setSlotSt k 2 0).modSch (fun x => { x with bootReason := b.code })

/-! ### The load job (R234-R236) -/

/-- An outstanding load job. -/
def State.loading (s : State) : Bool := (s.jobOf 1).isSome

/-- A load ends refused (R236): the slot is blank. -/
def State.refuseLoad (s : State) (b : Bad) : State :=
  let k := s.sch.ldSlot
  let s := (s.setSlotSt k 0 0).modSch (fun x => { x with phase := 5, reason := b.code, sect := b.sec, pos := b.off, ready := false })
  let s := s.stage 0x00C1 1 (b1 b.code ++ b2 b.sec ++ b4 b.off)
  match s.jobOf 1 with
  | some j => s.endJob j.ticket jobFailed b.code
  | none => s

/-- The reason for which a load is refused at submission, 0 for none: 27 slot_active (R235), 5 a length outside R212. -/
def State.loadRefusal (s : State) : Nat :=
  let w := s.reg 0x2414
  let slot := bitsOf w 24 24
  let len := bitsOf w 20 0
  if s.sch.image ∧ slot = s.sch.slot then 27 else if len < 100 ∨ 1572800 < len then 5 else 0

/-- A refused submission shows its reason (R400, R404). -/
def State.loadRefused (s : State) : State := s.modSch (fun x => { x with phase := 5, reason := s.loadRefusal, sect := 0, pos := 0 })

/-- A load job is accepted: its parameters are taken from SCH_LOAD_CTL. -/
def State.loadAccepted (s : State) : State :=
  let w := s.reg 0x2414
  let k := bitsOf w 24 24
  (s.setSlotSt k 3 0).modSch (fun x => { x with
    ldSlot := k, ldLen := bitsOf w 20 0, phase := 1, reason := 0, sect := 0, pos := 0, chunk := 0, copied := 0, ready := false, xferErr := false, lastChunk := 0 })

/-- Bytes of the chunk expected. -/
def State.chunkLen (s : State) : Nat := min 4096 (s.sch.ldLen - 4096 * s.sch.chunk)

/-- At most 1 KiB of the committed chunk goes to MRAM; the last piece makes the window ready again, or ends the transfer. -/
def State.copyStep (s : State) : State :=
  let x := s.sch
  let n := min 1024 (s.chunkLen - x.copied)
  let s := s.mramPut (imgBase x.ldSlot + 4096 * x.chunk + x.copied) (slice x.window x.copied n)
  let done := x.copied + n
  if done < s.chunkLen then s.modSch (fun y => { y with copied := done })
  else if 4096 * (x.chunk + 1) < x.ldLen then s.modSch (fun y => { y with lastChunk := x.chunk, chunk := x.chunk + 1, copied := 0, ready := true })
  else s.modSch (fun y => { y with lastChunk := x.chunk, copied := 0, phase := 2 })

/-- The read-back and the checks after the last chunk (R234, R236). -/
def State.loadCheck (s : State) : State :=
  let x := s.sch
  let img := s.mramGet (imgBase x.ldSlot) x.ldLen
  let gen := field img 0x10 4
  let good := s.mramGood (imgBase x.ldSlot) 0x180000
  let other := 1 - x.ldSlot
  let bad := if good then s.checkImage img x.ldLen else some { code := 6, sec := 0, off := x.ldLen - 4 }
  match bad with
  | some b => s.refuseLoad b
  | none =>
    if gen = 0 ∨ gen = 0xFFFFFFFF ∨ (nth x.slotState other = 1 ∧ nth x.slotGen other = gen) then s.refuseLoad { code := 28, sec := 0, off := 0x10 }
    else s.modSch (fun y => { y with phase := 3 })

/-- The hallmark block: every other field before the hallmark word (R232). -/
def State.writeHallmark (s : State) : State :=
  let x := s.sch
  let head := s.mramGet (imgBase x.ldSlot) 64
  let crc := field (s.mramGet (imgBase x.ldSlot + x.ldLen - 4) 4) 0 4
  let rest := b4 (field head 0x10 4) ++ b4 x.ldLen ++ b4 crc ++ b4 s.pwr.pcc ++ zeros 4 ++ b8 s.pwr.ot ++ zeros 28
  let s := s.mramPut (hallAt x.ldSlot + 4) (rest ++ b4 (crc32c (b4 hallmark ++ rest)))
  s.mramPut (hallAt x.ldSlot) (b4 hallmark)

/-- The load is done (R236). -/
def State.loadDone (s : State) : State :=
  let x := s.sch
  let gen := field (s.mramGet (imgBase x.ldSlot) 64) 0x10 4
  let s := ((s.writeHallmark).setSlotSt x.ldSlot 1 gen).modSch (fun y => { y with phase := 4 })
  let s := s.stage 0x00C0 0 (b1 x.ldSlot ++ b4 gen)
  match s.jobOf 1 with
  | some j => s.endJob j.ticket jobDone 0
  | none => s

/-- One step of the load job; the first one blanks the slot's hallmark (R232, R235). -/
def State.loadStep (s : State) (j : Job) : State :=
  if j.step = 0 then (s.mramPut (hallAt s.sch.ldSlot) (zeros 4)).modSch (fun x => { x with ready := true })
  else
    match s.sch.phase with
    | 1 => if s.sch.ready then s else s.copyStep
    | 2 => s.loadCheck
    | 3 => s.loadDone
    | _ => s

/-- A cancelled load leaves the slot blank (R236). -/
def State.loadCancelled (s : State) : State :=
  let s := s.mramPut (hallAt s.sch.ldSlot) (zeros 4)
  (s.setSlotSt s.sch.ldSlot 0 0).modSch (fun x => { x with phase := 6, ready := false })

/-- A write of SCH_XFER_CTL (R236): whether a value is refused. -/
def State.writeXfer (s : State) (v : Word) : State :=
  let s := s.setReg 0x2418 (BitVec.ofNat 32 (bitsOf v 8 0))
  if bitAt v 31 = false then s
  else if !s.loading || !s.sch.ready then s.modSch (fun x => { x with xferErr := true })
  else if bitsOf v 8 0 ≠ s.sch.chunk then s.refuseLoad { code := 7, sec := 0, off := 4096 * bitsOf v 8 0 }
  else s.modSch (fun x => { x with ready := false, copied := 0 })

/-- A write of a word of the transfer window: ignored while it is not ready (R236). -/
def State.writeWindow (s : State) (addr : Nat) (v : Word) : State :=
  if !s.sch.ready then s.modSch (fun x => { x with xferErr := true })
  else
    let o := addr - 0x9000
    s.modSch (fun x => { x with window := slice x.window 0 o ++ b4 v.toNat ++ slice x.window (o + 4) (4096 - o - 4) })

/-- A word of the transfer window. -/
def State.windowWord (s : State) (addr : Nat) : Word := BitVec.ofNat 32 (field s.sch.window (addr - 0x9000) 4)

/-! ### A scheme comes into force (R96, R157, R184, R229, R238, R239) -/

/-- Keys that some scheme may set. -/
def schemeKeys : List Nat :=
  (List.range 16).map (fun c => 0x1400 + 4 * c) ++ [0x1440, 0x1444, 0x1800] ++ (List.range 292).map fastKeyAt
    ++ (List.range 16).map (fun n => 0x2C40 + 4 * n) ++ (List.range 12).map (fun n => 0x2CC0 + 4 * n) ++ [0x2D44, 0x2D48, 0x2D4C]

/-- Registers that the scheme in force sets. -/
def State.schemeRegs (s : State) : List (Nat × Word) := if s.sch.image then imageRegs s.sch.cfg else tplRegs s.sch.tpl

/-- Fields of P registers take their values: a stored override, the scheme's, or the fallback; an activation clears the overrides of the fields that the scheme sets (R10, R239). -/
def State.restoreRegs (s : State) (clear : Bool) : State :=
  let set := s.schemeRegs
  let ovr := if clear then s.nv.ovr.filter (fun p => set.all (fun q => q.1 ≠ p.1)) else s.nv.ovr
  let s := { s with nv := { s.nv with ovr := ovr }, defer := if clear then s.defer.filter (fun p => p.1 ∉ schemeKeys) else s.defer }
  schemeKeys.foldl (fun s k => s.setReg k (lookupD ovr k (lookupD set k (regDefault k)))) s

/-- LEDGER entries for device codes take the place of written rates (R224, R239). -/
def State.restoreRates (s : State) (clear : Bool) : State :=
  if !clear then s
  else
    let ks := s.sch.cfg.ledger.map (fun e => bankKey 0x3024 e.code)
    { s with regs := s.regs.filter (fun p => p.1 ∉ ks), nv := { s.nv with ovr := s.nv.ovr.filter (fun p => p.1 ∉ ks) } }

/-- Comparators start afresh under new words. -/
def State.restartFast (s : State) : State :=
  (s.modFst (fun x => { x with
    cmp := x.cmp.map (fun c => { c with asserted := false, count := 0, idle := 0, qualified := false, reason := 0, seen := false, prev := [], codeBad := false, lightWin := false, curWin := false }) })).fastSettle

/-- Latches of instances that the scheme does not name are not kept (R184). -/
def State.keepLatches (s : State) : State :=
  let names := s.sch.cfg.insts.map (fun c => c.name)
  { s with nv := { s.nv with latches := s.nv.latches.filter (fun p => p.1 ∈ names), wear := s.nv.wear.filter (fun p => p.1 ∈ names), latchDirty := [] } }

/-- The keyway entries of the scheme (R397). -/
def State.applyKeyway (s : State) : State := { s with key := { s.key with entries := s.sch.cfg.keyway } }

/-- The scheme in force is placed: the tracked frequency at its fn (R130), placements, state store, registers with what pilot_excl clears (R55), streams, chain (R238). -/
def State.placeScheme (s : State) (clear : Bool) : State :=
  let s := ((s.restoreRegs clear).restoreRates clear).applyKeyway
  let s := { s with trk := { ft := s.sch.cfg.fn, psi := s.trk.psi, run := s.trk.run } }
  let s := (s.assignPlaces.initStore).modSch (fun x => { x with placed := true })
  let s := (List.range 16).foldl (fun s c => if bitAt (s.reg (0x1400 + 4 * c)) 2 then s.exclude c else s) s
  let s := (s.rebuildCtx.refillBuckets).checkAddr
  let s := s.modFio (fun x => { x with result := 2 })
  s.restartFast.followOutputs

/-- The state after an activation's reference tick (R238, R239, R241): the new scheme in its initial group. -/
def State.applyScheme (s : State) : State :=
  let x := s.sch
  let s := s.captureActivated.writeLatches
  let keepPar := decide (x.actIx = x.tpl)
  let params := if x.actImage then x.params else (if keepPar then x.paramPend.foldl (fun l p => insertKey l p.1 p.2) x.params else x.paramNext)
  let cfg := if x.actImage then x.actCfg else templateOf x.actIx params s.fltToCome
  let s := s.modSch (fun y => { y with
    cfg := cfg, image := x.actImage, slot := if x.actImage then x.actIx else y.slot, tpl := if x.actImage then y.tpl else x.actIx,
    params := params, paramPend := if x.actImage then y.paramPend else [], paramNext := [], group := cfg.initGroup, groupPend := none,
    groupResult := if y.groupPend.isSome then 3 else y.groupResult })
  let s := { s with nv := { s.nv with ovr := eraseKey s.nv.ovr 0x2430 } }
  (s.keepLatches).placeScheme true

/-! ### Boot (R184, R233) -/

/-- A persistent latch whose stored copy fails starts set (R184). -/
def State.latchFailed (s : State) (num : Nat) : State :=
  match s.sch.cfg.insts.find? (fun c => c.num = num) with
  | some c =>
    if c.keeps then
      let s := s.modPe (fun p => { p with els := p.els.map (fun e => if e.num = num then { e with operate := true, own := if c.kind = 0x12 then [.bin true] else e.own } else e) })
      { s with nv := { s.nv with latches := insertKey s.nv.latches c.name true } }.stage 0x00A5 2 []
    else s
  | none => s

/-- The chosen scheme at boot: its filter, gains and pilots are in effect from the start of the filter chain (R54, R77). -/
def State.bootScheme (s : State) (latchFail : List Nat) : State :=
  let cfg := s.sch.cfg
  let g := bitsOf (lookupD s.nv.ovr 0x2430 (BitVec.ofNat 32 cfg.initGroup)) 2 0
  let s := (s.modSch (fun x => { x with group := if g < cfg.nGroups then g else cfg.initGroup, groupFail := false })).placeScheme false
  let s := { s with flt := { s.flt with eff := (fltOfWord (s.reg 0x1800)).getD s.flt.eff } }
  let s := { s with afe := { s.afe with ch := (List.range 16).map (fun c => { nth s.afe.ch c with gain := bitsOf (s.reg (0x1400 + 4 * c)) 1 0 }) } }
  (((latchFail.foldl State.latchFailed s).evalPilot 0).evalPilot 1).fastFloors

/-- A slot's image is taken as the scheme. -/
def State.bootSlot (s : State) (k : Nat) (fallback : Bool) : State :=
  let s := s.modSch (fun x => { x with cfg := schemeOf (s.slotImage k), image := true, slot := k, fallback := fallback })
  if fallback then s.stage 0x00C4 2 [] else s

/-- The stored template is taken as the scheme. -/
def State.bootTemplate (s : State) (lost : Bool) : State :=
  let s := s.modSch (fun x => { x with cfg := templateOf x.tpl x.params s.fltToCome, image := false, lost := lost })
  if lost then s.stage 0x00C5 2 [] else s

/-- The choice at boot (R233): the valid slot with the higher generation; the other one when only its placement fails; otherwise the stored template. -/
def State.chooseScheme (s : State) : State :=
  let hall := (List.range 2).filter s.hallSet
  let bad := fun k => (s.slotBad k).map (fun b => b.code)
  let gen := fun k => field (s.mramGet (hallAt k + 4) 4) 0 4
  let cand := hall.filter (fun k => decide (bad k = none ∨ bad k = some 10))
  let order := if cand.length = 2 ∧ gen 0 < gen 1 then [1, 0] else cand
  match order with
  | [k] => if bad k = none then s.bootSlot k false else s.bootTemplate true
  | k :: l :: _ => if bad k = none then s.bootSlot k false else if bad l = none then s.bootSlot l true else s.bootTemplate true
  | [] => s.bootTemplate (decide (hall ≠ []))

/-- RESTORE_FAIL of SCH_GROUP, whose fallback is the initial group of the scheme chosen (R10, R31). -/
def State.tellGroup (s : State) : State :=
  if s.sch.groupFail then s.stage 0x0011 1 (b2 0x2430 ++ zeros 2 ++ b4 7 ++ b4 (17 * s.sch.cfg.initGroup)) else s

/-- SLOT_SELECTION (R233). -/
def State.slotSelection (s : State) (latchFail : List Nat) : State :=
  ((((s.modSch (fun x => { x with bootReason := 0 })).scanSlot 0).scanSlot 1).chooseScheme.tellGroup).bootScheme latchFail

/-! ### Structural activation (R238, R240) -/

/-- An activation runs: act_busy. -/
def State.actBusy (s : State) : Bool := decide (s.sch.act ≠ .idle) || s.sch.actHinge

/-- The slot named by SCH_ACT_CTL, and its hinge bit. -/
def State.actSlot (s : State) : Nat := bitsOf (s.reg 0x2428) 0 0

def State.actHingeBit (s : State) : Bool := bitAt (s.reg 0x2428) 1

/-- The first check of R231 that an activation fails. -/
def State.actCheck (s : State) (img : Bool) : Option Bad :=
  if img then
    if s.mramGood (imgBase s.actSlot) 0x180000 then s.checkImage (s.slotImage s.actSlot) (s.slotLen s.actSlot) else some { code := 6, sec := 0, off := s.slotLen s.actSlot - 4 }
  else if s.assignable.isEmpty then some { code := 10, sec := 0, off := 0 }
  else none

/-- A load or activation job is outstanding. -/
def State.schBusy (s : State) : Bool := s.job.out.any (fun j => decide (j.code ≤ 3)) || s.actBusy

/-- The SCH_ACT_STAT result for which an activation is refused, 0 for none: the checks first (R238), then R27, busy, and the hinge's conditions (R238, R240). -/
def State.actRefusal (s : State) (img : Bool) : Nat :=
  let gen := field (s.slotImage s.actSlot) 0x10 4
  let hinge := img && s.actHingeBit
  let names := s.hinged || (img && hasSec (s.slotImage s.actSlot) 12)
  if img && !(s.hallSet s.actSlot && s.hallOk s.actSlot) then 4
  else if (s.actCheck img).isSome then 8
  else if s.sys.st = .inService ∧ s.tripAsserted then 3
  else if s.schBusy then 5
  else if names && !hinge then 6
  else if hinge && s.hinged && decide (s.sys.st = .inService) && !Config.peerImage s.hingeCfg.peer gen then 7
  else 0

/-- A refused activation: the result, the failing check in SCH_LOAD_STAT, and ACT_REFUSED (R238, R242). -/
def State.actRefused (s : State) (img : Bool) : State :=
  let r := s.actRefusal img
  let s := match s.actCheck img with
    | some b => if r = 8 then s.modSch (fun x => { x with reason := b.code, sect := b.sec, pos := b.off }) else s
    | none => s
  (if r = 5 ∧ s.actBusy then s else s.modSch (fun x => { x with actResult := r })).stage 0x00C3 1 (b1 r)

/-- An activation is accepted under a ticket. -/
def State.actAccepted (s : State) (img : Bool) (ticket : Nat) : State :=
  let hinge := img && s.actHingeBit && s.hinged && decide (s.sys.st = .inService)
  let ix := if img then s.actSlot else bitsOf (s.reg 0x2434) 3 0
  let cfg := if img then schemeOf (s.slotImage s.actSlot) else {}
  let s := s.modSch (fun x => { x with
    act := .accepted, actCfg := cfg, actImage := img, actIx := ix, actTicket := ticket, actHinge := hinge, actResult := 1, paramNext := [],
    reason := if img then 0 else x.reason, sect := if img then 0 else x.sect, pos := if img then 0 else x.pos })
  if hinge then s.pushFrame 2 [BitVec.ofNat 32 cfg.gen] else s

/-- ACTIVATE_ORDER (R240): a standby whose slot holds a valid image of the generation activates it. -/
def State.activateOrder (s : State) (gen : Nat) : State :=
  match (List.range 2).find? (fun k => s.hallSet k && s.hallOk k && decide (field (s.slotImage k) 0x10 4 = gen) && (s.checkImage (s.slotImage k) (s.slotLen k)).isNone) with
  | some k =>
    if s.hinged ∧ s.sys.st = .standby ∧ s.sch.act = .idle then
      s.modSch (fun x => { x with act := .accepted, actCfg := schemeOf (s.slotImage k), actImage := true, actIx := k, actTicket := 0, actHinge := true, actResult := 1 })
    else s
  | none => s

/-- The activation job ends. -/
def State.endAct (s : State) (state reason : Nat) : State := if s.sch.actTicket = 0 then s else s.endJob s.sch.actTicket state reason

/-- A hinge activation's job ends peer_lost when the active leaves service before its standby has taken over (R240, R241). -/
def State.hingeActLost (s : State) : State :=
  if s.sch.actHinge ∧ s.sch.act = .accepted ∧ s.sch.actTicket ≠ 0 ∧ s.sys.st ≠ .inService then
    let s := s.endAct jobFailed 10
    s.modSch (fun x => { x with act := .idle, actHinge := false, actResult := 10, actTicket := 0 })
  else s

/-- The reference tick may come (R238, R240): in service, in BLOCKED, or as an ordered standby; a hinge job's active only once it has relinquished. -/
def State.actMayStart (s : State) : Bool :=
  decide (s.sch.act = .accepted) && s.ticking && !s.sys.shutting &&
  (match s.sys.st with
  | .inService => !s.sch.actHinge || decide (s.hng.leaving = some 3)
  | .blocked => true
  | .standby => s.sch.actHinge && decide (s.sch.actTicket = 0)
  | _ => false)

/-- ACTIVATION_REFERENCE_TICK (R238-R241). -/
def State.actReference (s : State) : State :=
  if !s.actMayStart then s
  else if s.sys.st = .inService ∧ s.hng.leaving = none ∧ s.tripAsserted then s.actTripped
  else
    let s := if s.sys.st = .blocked then s else s.autoState .blocked 3
    let s := { s with sys := { s.sys with reqHold := true, reqDue := false } }
    let s := s.modSch (fun x => { x with act := .blocked, actOt := s.pe.tickOt })
    s.applyScheme

/-- Ticks from the boundary to the first at which every full-cycle window is valid (R238). -/
def State.settleTicks (s : State) : Nat := invalidCount s.flt.eff 6 + 1 + ceilDiv s.fp s.sch.cfg.fn

/-- The filter and the gains that the registers now name, an image's or what they fall back to, take effect (R66, R239). -/
def State.actAfe (s : State) : State :=
  let f := (fltOfWord (s.reg 0x1800)).getD s.flt.eff
  { s with
    flt := { s.flt with eff := f, pend := none, result := if s.flt.pend.isSome then 2 else s.flt.result },
    afe := { s.afe with ch := (List.range 16).map (fun c => { nth s.afe.ch c with gain := bitsOf (s.reg (0x1400 + 4 * c)) 1 0, gainPend := none }) } }

/-- ACTIVATION_BOUNDARY (R75, R78, R238): filter and channel changes count as routing with B = 6, and end a comparison (R60). cfg_result reads applied only where a write of FLT_CFG waited (DESIGN CHOICE, log entry 140). -/
def State.actBoundary (s : State) : State :=
  if s.sch.act ≠ .blocked ∨ s.ticking = false then s
  else
    let o := s.flt.eff
    let s := s.actAfe
    let s := ((s.retunePilots.fastFloors).spoilAll 6).abandonAll
    let s := if sameFlt s.flt.eff o then s else s.filterApplied o s.flt.eff
    s.modSch (fun x => { x with act := .settling, actLeft := s.settleTicks })

/-- The end of an activation: ACTIVATED, the time in BLOCKED, the job (R238). -/
def State.finishAct (s : State) : State :=
  let x := s.sch
  let us := s.pe.tickOt - x.actOt
  let s := s.endAct jobDone 0
  let s := s.modSch (fun y => { y with act := .idle, actHinge := false, actTicket := 0, actResult := 2, lost := false, fallback := false, blockedUs := us })
  s.stageTick 0x00C2 0 (b1 (if x.image then x.slot else 16 + x.tpl) ++ b4 (if x.image then x.cfg.gen else 0) ++ b4 us)

/-- An ordered standby is ready (R240, R241): it reports, or takes control at once when the peer has released it. -/
def State.standbyActivated (s : State) : State :=
  let s := s.finishAct
  if s.peerActive then (s.pushFrame 3 [BitVec.ofNat 32 s.sch.cfg.gen]).modHng (fun h => { h with jobReady := true })
  else if s.enabled ∧ s.sys.st = .blocked ∧ s.sys.shutting = false then (s.modHng (fun h => { h with jobReady := true })).takeover
  else s

/-- ACTIVATED (R238, R240). -/
def State.activated (s : State) : State :=
  if s.sch.act ≠ .settling ∨ s.sch.actLeft ≠ 0 ∨ s.ticking = false then s
  else if s.sch.actHinge ∧ s.sch.actTicket = 0 then s.standbyActivated
  else if s.sch.actHinge then s.modSch (fun x => { x with act := .idle, lost := false })
  else
    let s := s.finishAct
    if s.sys.st = .blocked ∧ s.enabled ∧ s.hinged = false then s.autoState .inService 2 else s

/-- HINGE_STANDBY (R240, R376): the former active of a hinge activation ends its job. -/
def State.enterStandby (s : State) : State :=
  if s.standbyDue then
    let s := s.hingeStandby
    if s.sch.actHinge ∧ s.sch.act = .idle then s.finishAct else s
  else s

/-- A cancel before the reference tick (R399). -/
def State.actCancelled (s : State) : State := s.modSch (fun x => { x with act := .idle, actHinge := false, actTicket := 0, actResult := 9 })

/-! ### Setting groups (R126, R237, R241) -/

/-- The group that the group-select nets name. -/
def State.netGroup (s : State) : Nat := maskOf (s.sch.cfg.groupNets.map s.binRef)

/-- A write of SCH_GROUP (R237): whether the value is refused. -/
def State.writeGroup (s : State) (v : Word) : State × Bool :=
  let g := bitsOf v 2 0
  if s.sch.cfg.groupNets ≠ [] ∨ s.sch.cfg.nGroups ≤ g then (s.modSch (fun x => { x with groupResult := 2 }), true)
  else if s.actSpan then (s.modSch (fun x => { x with groupResult := 3 }), false)
  else ((s.modSch (fun x => { x with groupPend := some g })).store 0x2430 (BitVec.ofNat 32 g), false)

/-- The group changes, with GROUP_SWITCH. -/
def State.setGroup (s : State) (g : Nat) : State :=
  if g = s.sch.group then s
  else (s.modSch (fun x => { x with group := g })).stageTick 0x00C6 0 (b1 s.sch.group ++ b1 g)

/-- At a tick the group follows the nets that name it (R237). -/
def State.groupTick (s : State) : State :=
  if s.sch.cfg.groupNets = [] ∨ s.actSpan then s
  else if s.netGroup < s.sch.cfg.nGroups then s.setGroup s.netGroup
  else s

/-- GROUP_SWITCH (R237): a requested group, or the nets' group, takes effect. -/
def State.groupSwitch (s : State) : State :=
  if s.ticking = false ∨ s.actSpan then s
  else
    match s.sch.groupPend with
    | some g => (s.modSch (fun x => { x with groupPend := none, groupResult := 1 })).setGroup g
    | none => s.groupTick

/-! ### Template parameters and registers (R211, R241, R243) -/

/-- The template to which a parameter write belongs: the one being activated, or the one stored. -/
def State.parTpl (s : State) : Nat := if s.sch.act ≠ .idle ∧ s.sch.actImage = false then s.sch.actIx else s.sch.tpl

/-- Key of the parameter that SCH_TPL_PSEL selects; module-wide ones know no group. -/
def State.parSel (s : State) : Nat :=
  let w := s.reg 0x2438
  parKey (bitsOf w 5 0) (bitsOf w 10 6) (if bitsOf w 10 6 = 31 then 0 else bitsOf w 14 12)

/-- Parameters as they will be with what waits. -/
def State.parsSeen (s : State) : List (Nat × Word) :=
  if s.parTpl = s.sch.tpl then s.sch.paramPend.foldl (fun l p => insertKey l p.1 p.2) s.sch.params else s.sch.paramNext

/-- A write of SCH_TPL_PVAL (R211): whether it is refused. -/
def State.writeParam (s : State) (v : Word) : State × Bool :=
  if !paramOk s.parTpl s.parsSeen s.parSel v then (s, true)
  else if s.parTpl = s.sch.tpl then (s.modSch (fun x => { x with paramPend := x.paramPend.filter (fun p => p.1 ≠ s.parSel) ++ [(s.parSel, v)] }), false)
  else (s.modSch (fun x => { x with paramNext := insertKey x.paramNext s.parSel v }), false)

/-- At a tick the waiting parameters of the stored template take effect; those of a template being activated go with its activation (R211, R241). -/
def State.applyParams (s : State) : State :=
  if s.sch.paramPend = [] ∨ s.actSpan then s
  else
    let s := s.modSch (fun x => { x with params := x.paramPend.foldl (fun l p => insertKey l p.1 p.2) x.params, paramPend := [] })
    if s.sch.image then s else s.modSch (fun x => { x with cfg := { templateOf x.tpl x.params s.flt.eff with gen := x.cfg.gen } })

/-- A write of SCH_TPL_CTL: whether a value is refused. Enable waits for the next boundary (R8). -/
def State.writeTplCtl (s : State) (v : Word) : State × Bool :=
  let bad := decide (12 ≤ bitsOf v 3 0)
  let old := s.regSeen 0x2434
  let new := if bad then bitsOf old 3 0 else bitsOf v 3 0
  let s := s.setReg 0x2434 (pack [(0, 4, new), (4, 1, bitsOf (s.reg 0x2434) 4 4)])
  let w : Word := pack [(0, 4, new), (4, 1, bitsOf v 4 4)]
  ((s.deferReg 0x2434 w).store 0x2434 w, bad)

/-- A write of SCH_LOAD_CTL or SCH_ACT_CTL: refused while its job runs. -/
def State.writeLoadCtl (s : State) (v : Word) : State × Bool := if s.loading then (s, true) else (s.setReg 0x2414 (v &&& 0x011FFFFF#32), false)

def State.writeActCtl (s : State) (v : Word) : State × Bool := if s.actBusy then (s, true) else (s.setReg 0x2428 (v &&& 3#32), false)

/-! ### Register views -/

/-- SCH_STAT. -/
def State.schStat (s : State) : Word :=
  let x := s.sch
  let en := if x.image then x.cfg.enable else bitAt (s.reg 0x2434) 4
  pack [(0, 1, b2n x.image), (1, 1, if x.image then x.slot else 0), (2, 1, b2n en), (3, 1, b2n x.lost), (4, 1, b2n x.fallback), (5, 1, b2n s.actBusy)]

def State.schGen (s : State) : Word := if s.sch.image then BitVec.ofNat 32 s.sch.cfg.gen else 0

/-- SCH_SLOTA_GEN, SCH_SLOTB_GEN. -/
def State.schSlotGen (s : State) (k : Nat) : Word := if nth s.sch.slotState k = 1 then BitVec.ofNat 32 (nth s.sch.slotGen k) else 0

/-- SCH_SLOT_STAT. -/
def State.schSlotStat (s : State) : Word := pack [(0, 2, nth s.sch.slotState 0), (8, 2, nth s.sch.slotState 1), (16, 8, s.sch.bootReason)]

/-- SCH_XFER_STAT, SCH_LOAD_STAT, SCH_LOAD_POS, SCH_ACT_STAT. -/
def State.schXferStat (s : State) : Word := pack [(0, 1, b2n s.sch.ready), (1, 1, b2n s.sch.xferErr), (2, 9, s.sch.lastChunk)]

def State.schLoadStat (s : State) : Word := pack [(0, 4, s.sch.phase), (8, 8, s.sch.reason), (16, 16, s.sch.sect)]

def State.schLoadPos (s : State) : Word := pack [(0, 21, s.sch.pos)]

def State.schActStat (s : State) : Word := pack [(0, 4, s.sch.actResult), (8, 24, s.sch.blockedUs)]

/-- SCH_GROUP. -/
def State.schGroup (s : State) : Word := pack [(0, 3, s.sch.groupPend.getD s.sch.group), (4, 3, s.sch.group), (8, 2, s.sch.groupResult)]

/-- SCH_TPL_CTL. -/
def State.schTplCtl (s : State) : Word := pack [(0, 5, bitsOf (s.regSeen 0x2434) 4 0), (8, 4, s.sch.tpl)]

/-- SCH_TPL_PVAL. -/
def State.schParam (s : State) : Word := paramVal s.parTpl s.parsSeen s.parSel

end Sys2Proof.Machine
end

