-- ==== Sys2Proof/Machine/Tick.lean ====
section
/-! DEFINITION. The protection tick, the output update and the boundary of deferred settings (R8, R13-R20, R74, R101-R104, R126, R198, R205, R254). -/

namespace Sys2Proof.Machine

/-! ### The tick (R13) -/

/-- The engines run on words that are valid after an activation's boundary, not before (R77, R238). -/
def State.enginesMay (s : State) : Bool :=
  decide (s.sys.st ≠ .boot) && !s.sys.shutting && !decide (s.sch.act = .blocked)
    && !(decide (s.sch.act = .settling) && decide (ceilDiv s.fp s.sch.cfg.fn < s.sch.actLeft))

/-- Time at a tick: the counter, OT, the tick count from BLOCKED on (R12, R267, R295). -/
def State.tickTime (s : State) (ot : Nat) : State :=
  let s := s.ptpTick ot
  { s with
    pwr := { s.pwr with ot := ot }, pe := { s.pe with tickOt := ot },
    sys := { s.sys with ticks := if s.sys.st = .boot then s.sys.ticks else (s.sys.ticks + 1) % 2 ^ 32 } }

/-- An activation that settles comes one tick nearer to its end. -/
def State.actTick (s : State) : State :=
  (if s.sch.act = .settling then s.modSch (fun x => { x with actLeft := x.actLeft - 1 }) else s).hingeActLost

/-- What is latched at a tick for the engines to read (R18-R20, R101, R198, R248). -/
def State.latchAll (s : State) (codes : List (List Int)) : State :=
  ((((((s.latchWords codes).shadowTick).fastLatch).fieldLatch).fastQual).streamTick).chainTick.injLatch

/-- The engines wake and run the scheme work (R102); mismatches are found in the order given (R108). -/
def State.wakeAll (s : State) (ecc : List Nat) (mm : List (Nat × Nat)) : State :=
  if s.enginesMay then
    mm.foldl (fun s m => s.mismatch m.1 m.2) ({ s with trk := s.track }.wake ecc)
  else s

/-- A lone unit whose scheme enables protection enters service for the first time (R26, R448 row 15). -/
def State.serviceDue (s : State) : Bool :=
  decide (s.sys.st = .blocked ∧ s.sys.lastCause = 2 ∧ s.pwr.toService = 0) && s.enabled && !s.hinged && !s.actSpan && !s.sys.shutting && s.wordsValid
    && decide (ceilDiv s.fp s.sch.cfg.fn ≤ s.sys.ticks)

/-- An automatic transition of R26 by the FAILSAFE causes found before this tick. -/
def State.causeDue (s : State) : Bool :=
  !s.sys.shutting && ((running s.sys.st && !s.sys.causes.isEmpty) || (decide (s.sys.st = .failsafe) && s.sys.causes.isEmpty && s.returnState.isSome))

/-- What a tick means for a request: it falls due at the first one at least 2 µs after its write, and not while it waits for a return from level 2 or for the end of an activation (R28, R29). `auto`: a cause's transition falls due at this tick. -/
def State.reqTick (s : State) (auto : Bool) : State :=
  let hold := s.sys.reqHold && (decide (s.clk.level = 2) || decide (4 ∈ s.sys.causes) || s.actSpan)
  { s with sys := { s.sys with
    reqHold := hold, reqDue := s.sys.pend.isSome && !hold && (s.sys.reqDue || decide (s.sys.reqOt + 2 ≤ s.pwr.ot)),
    autoDue := auto || s.standbyDue || s.claimDue || s.serviceDue } }

/-- TICK (R13). -/
def State.tick (s : State) (i : TickIn) : State :=
  if !s.ticking then s
  else
    let auto := s.causeDue
    let s := ((s.captureTick).tickTime i.ot).actTick
    let s := (s.groupTick).latchAll i.codes
    let s := ((s.digestTick).ctlTick).adopt 0
    ((((s.wakeAll i.ecc i.mismatch).captureDue).couplerFlush).injEdge).reqTick auto

/-! ### A request is taken (R26-R30) -/

/-- A request may be judged at this tick: it fell due at it, ticks occur, no activation is in its BLOCKED span, no shutdown runs (R28-R30). -/
def State.canTake (s : State) : Bool := s.ticking && s.sys.reqDue && !s.sys.reqHold && !s.actSpan && !s.sys.shutting

/-- An automatic transition was made at this tick, or falls due at it (R28). -/
def State.outrun (s : State) : Bool :=
  decide (s.sys.autoTick = some s.pe.tickOt) || (s.sys.autoDue && (s.causeDue || s.standbyDue || s.claimDue || s.serviceDue))

/-- REQUEST_TAKEN (R26-R30). -/
def State.requestTaken (s : State) : State :=
  match s.sys.pend with
  | none => s
  | some code =>
    if !s.canTake then s
    else
      let s := { s with sys := { s.sys with pend := none } }
      if s.outrun then { s with sys := { s.sys with reqResult := 7 } }
      else
        let r := s.judgeReq code
        let s := { s with sys := { s.sys with reqResult := r } }
        if r = 2 then s.carryOut code else s

/-! ### The output update (R15) -/

/-- The digest of a hinged unit's tick is kept, and an anchor may be due (R368, R371). -/
def State.afterUpdate (s : State) : State := ((if s.hinged then s.keepDigest else s).anchorUpdate).firstDriven

/-- OUTPUT_UPDATE (R15). -/
def State.outputUpdate (s : State) : State := if s.canUpdate then ((s.releaseAtUpdate).engineUpdate).afterUpdate else s

/-- PLACEMENT_COMMIT (R102), with the event messages that its nets change (R319). -/
def State.placementCommit (s : State) (pl cycles : Nat) : State := (s.commit pl cycles).publishEvents

/-! ### The boundary of deferred settings (R8, R74) -/

/-- A key of the fast path, of the field block. -/
def isFast (k : Nat) : Bool := decide (0x2800 ≤ k % 0x10000 ∧ k % 0x10000 < 0x2C00)

def isField (k : Nat) : Bool := decide (0x2C00 ≤ k % 0x10000 ∧ k % 0x10000 < 0x3000)

/-- What follows a deferred value of a key. -/
def State.settled (s : State) (k : Nat) : State :=
  if k = 0x1440 then s.evalPilot 0
  else if k = 0x1444 then s.evalPilot 1
  else if 0x2C40 ≤ k ∧ k < 0x2C80 then s.restartInput ((k - 0x2C40) / 4)
  else s

/-- One deferred write takes effect. -/
def State.applyOne (s : State) (p : Nat × Word) : State := if s.reg p.1 = p.2 then s else (s.setReg p.1 p.2).settled p.1

/-- SETTING_APPLY (R8): every waiting value takes effect; cfg_result reads applied. -/
def State.settingApply (s : State) : State :=
  if !s.ticking then s
  else
    let l := s.defer
    let s := l.foldl State.applyOne { s with defer := [] }
    let s := if l.any (fun p => isFast p.1) then s.modFst (fun x => { x with result := 2 }) else s
    let s := if l.any (fun p => isField p.1) then s.modFio (fun x => { x with result := 2 }) else s
    let s := if l = [] then s else (s.fastFloors).followOutputs
    s.applyParams

/-- FILTER_BOUNDARY and GAIN_BOUNDARY with what they mean for the comparators' floors (R74, R78, R195). -/
def State.filterEdge (s : State) : State := if s.ticking then (s.filterBoundary).fastFloors else s

def State.gainEdge (s : State) (c : Nat) : State := if s.ticking then (s.gainBoundary c).fastFloors else s

/-! ### Idle time (log entry 2) -/

/-- One microsecond of OT with no command. -/
def State.idle (s : State) : State := if s.sys.st = .off then s else { s with pwr := { s.pwr with ot := s.pwr.ot + 1 } }.couplerFlush

end Sys2Proof.Machine
end

