-- ==== Sys2Proof/Machine/Clocks.lean ====
section
/-! DEFINITION. Clocks, monitors, fallback levels, trimming, gating and measurement (R407-R431). -/

namespace Sys2Proof.Machine

def State.modClk (s : State) (f : Clocks → Clocks) : State := { s with clk := f s.clk }

/-- CLK_CFG ref_en and auto_return. -/
def State.refEn (s : State) : Bool := bitAt (s.reg 0x0800) 0

def State.autoReturn (s : State) : Bool := bitAt (s.reg 0x0800) 1

/-- The LANE PLL's reference is the module's own: on the root, a deputy that sends marks, or a lone unit (R412). -/
def State.localLane (s : State) : Bool := s.chn.sender || s.chn.upstream.isNone

/-- The SYS PLL supplies the SYS domain. -/
def State.sysRuns (s : State) : Bool := s.clk.sysLock && decide (s.clk.sysSrc = 0)

/-- CLK_STAT ref_ok: REFCLK has been judged stable for 1 s at level 1, or is in use at level 0 (R418). -/
def State.refGood (s : State) : Bool := s.clk.refOk || (decide (s.clk.level = 0 ∧ s.clk.ref = 0) && s.clk.refStable)

/-! ### Fallback (R413-R420, R429) -/

/-- The ENG group is gated: uncommitted attempts are discarded (R416, R417). -/
def State.gateEngines (s : State) : State :=
  s.modPe (fun e => { e with att := e.att.map (fun a => if a.st = .running ∨ a.st = .reexec then { a with st := .discarded } else a) })

/-- Level 1 is entered (R415-R417): the SYS domain is forced onto the IRC, the CONV PLL and a local LANE PLL go into hold, comparators are unqualified, OP-HIGH is requested. -/
def State.enterLevel1 (s : State) (cause : Nat) : State :=
  let loc := s.localLane
  let s := (s.gateEngines).modClk (fun c => { c with
    level := 1, cause := cause, level1 := satInc 255 c.level1, ref := 1, refOk := false, sysSrc := 1, sysLock := false, muxForced := true,
    convHold := c.convHold || c.convLock, convLock := false,
    laneHold := c.laneHold || (loc && c.laneLock), laneLock := c.laneLock && !loc })
  let s := (s.setNme 1).stage 0x0130 2 (b1 cause)
  s.fastQual.raiseOp

/-- A running measurement ends without a count (R429). -/
def State.abortMeasure (s : State) : State := s.modClk (fun c => if c.measBusy then { c with measBusy := false, measDone := false } else c)

/-- Level 2 is entered (R415, R419, R420): no tick, a blind module, FAILSAFE at once outside BOOT. -/
def State.enterLevel2 (s : State) (cause : Nat) : State :=
  let s := s.modClk (fun c => { c with
    level := 2, cause := cause, level2 := satInc 255 c.level2, sysSrc := 2, ref := 2, refOk := false, sysLock := false, muxForced := true,
    convHold := c.convHold || c.convLock, convLock := false, laneHold := c.laneHold || c.laneLock, laneLock := false, ircTries := 0 })
  let s := (s.abortMeasure).modPe (fun e => { e with att := [], updDue := false })
  let s := { s with sys := { s.sys with reqHold := true, reqDue := false } }
  let s := (s.setNme 1).stage 0x0131 2 (b1 cause)
  (s.fastQual.found 4).failsafeEntry 4

/-- A fallback with a cause: to level 1 on a judged IRC, otherwise to level 2 (R415, R420). -/
def State.fallBack (s : State) (cause : Nat) : State := if s.clk.ircOk then s.enterLevel1 cause else s.enterLevel2 cause

/-- A REFCLK failure (R414): it leads to a fallback when REFCLK is the reference. -/
def State.refFails (s : State) (cause : Nat) : State :=
  let used := decide (s.clk.level = 0 ∧ s.clk.ref = 0)
  let s := s.modClk (fun c => { c with refStable := false, refOk := false, freq := 0 })
  if used then s.fallBack cause else s

/-- An IRC failure (R414, R415, R429): IRC_FAIL; level 2 where the IRC is the only reference. -/
def State.ircFails (s : State) : State :=
  let only := decide (s.clk.level = 1 ∨ (s.clk.level = 0 ∧ s.clk.ref = 1))
  let s := (s.modClk (fun c => { c with ircOk := false })).stage 0x0133 2 []
  if only then s.enterLevel2 4 else s

/-- An LFO failure (R414): OT runs from the IRC, no level changes. -/
def State.lfoFails (s : State) : State := (s.modClk (fun c => { c with lfoFail := true })).stage 0x0134 2 []

/-- CLOCK_FAILURE (R414). Frequency failures of REFCLK and of the SYS PLL are judged only against a stable IRC. -/
def State.clockFailure (s : State) (c : ClockFail) : State :=
  if !s.alive then s
  else
    match c with
    | .refStopped => if s.clk.refStable then s.refFails 1 else s
    | .refFreq => if s.clk.refStable && s.clk.ircOk then s.refFails 2 else s
    | .sysStopped => if s.sysRuns then s.fallBack 3 else s
    | .sysFreq => if s.sysRuns && s.clk.ircOk then s.fallBack 3 else s
    | .ircStopped => if s.clk.ircOk then s.ircFails else s
    | .ircFreq => if s.clk.ircOk then s.ircFails else s
    | .lfoStopped => if s.clk.lfoFail then s else s.lfoFails
    | .lfoFreq => if s.clk.lfoFail then s else s.lfoFails

/-- LFO_STABLE (R414). -/
def State.lfoStable (s : State) : State := if s.clk.lfoFail && s.clk.ircOk then s.modClk (fun c => { c with lfoFail := false }) else s

/-- SYS_PLL_RELOCK (R416, R417): discarded work runs from its beginning, comparators qualify again, FAST_CLOCK_GAP. -/
def State.sysRelock (s : State) : State :=
  if s.clk.level = 1 ∧ s.clk.sysSrc = 1 ∧ s.clk.ircOk then
    let s := s.modClk (fun c => { c with sysSrc := 0, sysLock := true })
    let s := s.modPe (fun e => { e with att := e.att.map (fun a => if a.st = .discarded then { a with st := .running } else a) })
    s.fastQual.stageTick 0x00B5 1 (b8 s.pwr.ot)
  else s

/-- CLK_RESTORED with the new level (R430). -/
def State.clkRestored (s : State) : State := s.stage 0x0132 0 (b1 s.clk.level)

/-- A return to level 0 with the IRC as reference (R418): nothing is re-referenced. -/
def State.returnIrc (s : State) : State :=
  if s.clk.level = 1 ∧ s.refEn = false ∧ s.clk.sysLock ∧ s.clk.convLock then (s.modClk (fun c => { c with level := 0, ref := 1, refOk := false })).clkRestored else s

/-- A return to REFCLK (R418); at level 0 only the reference is switched back. -/
def State.returnRef (s : State) : State :=
  let was := s.clk.level
  let s := s.modClk (fun c => { c with level := 0, ref := 0, refOk := true })
  if was = 0 then s else s.clkRestored

/-- Every PLL locks on the reference of the level: REFCLK at level 0 with ref_en = 1, otherwise the IRC; a module that leaves level 2 comes to the level of R419. -/
def State.lockAll (s : State) : State :=
  let lvl := if s.clk.level = 2 then (if s.refEn && !s.clk.refStable then 1 else 0) else s.clk.level
  let ref := if lvl = 0 ∧ s.refEn then 0 else 1
  s.modClk (fun c => { c with
    level := lvl, ref := ref, refOk := decide (ref = 0), sysSrc := 0, sysLock := true, convLock := true, laneLock := true, convHold := false, laneHold := false })

/-- CONV_PLL_LOCK (R416, R418, R419). After level 2 the first tick is a routing boundary with B = 6. -/
def State.convLocked (s : State) : State :=
  if !s.alive || !s.clk.ircOk then s
  else if s.clk.level = 1 ∧ s.clk.convHold then
    (s.modClk (fun c => { c with convLock := true, convHold := false, laneLock := c.laneLock || c.laneHold, laneHold := false })).returnIrc
  else if s.clk.level = 2 ∧ s.clk.sysSrc = 1 then (s.lockAll).spoilAll 6
  else s

/-- IRC_RESTART (R419). -/
def State.ircRestart (s : State) : State := if s.alive ∧ s.clk.level = 2 ∧ s.clk.ircOk = false then s.modClk (fun c => { c with ircTries := c.ircTries + 1 }) else s

/-- The latest row of R448 reached in BOOT. -/
def State.bootRow (s : State) (n : Nat) : State := if s.sys.st = .boot then { s with pwr := { s.pwr with bootStep := s.pwr.bootStep.max n } } else s

/-- IRC_STABLE (R410, R419): at level 2 the SYS domain moves to the IRC. -/
def State.ircStable (s : State) : State :=
  if s.alive ∧ s.clk.ircOk = false then (s.modClk (fun c => { c with ircOk := true, ircTries := 0, sysSrc := if c.level = 2 then 1 else c.sysSrc })).bootRow 5 else s

/-- CLK_REF freq of a measured frequency in MHz: the nominal one within ±5 % (R409). -/
def freqCode (mhz : Nat) : Nat :=
  let near := fun n : Nat => decide (95 * n ≤ 100 * mhz ∧ 100 * mhz ≤ 105 * n)
  if near 10 then 1 else if near 20 then 2 else if near 25 then 3 else 0

/-- REFCLK_STABLE (R409, R410). -/
def State.refclkStable (s : State) (mhz : Nat) : State :=
  if s.alive ∧ s.clk.ircOk ∧ freqCode mhz ≠ 0 then (s.modClk (fun c => { c with refStable := true, freq := freqCode mhz })).bootRow 6 else s

/-- REFCLK_ABSENT (R408): the module starts at level 1. -/
def State.refclkAbsent (s : State) : State :=
  if s.alive ∧ s.sys.st = .boot ∧ s.clk.ircOk ∧ s.refEn ∧ s.clk.refStable = false ∧ s.clk.level = 0 ∧ s.clk.sysLock = false then
    let s := s.modClk (fun c => { c with level := 1, cause := 5, level1 := satInc 255 c.level1, ref := 1 })
    ((s.setNme 1).stage 0x0130 2 (b1 5)).bootRow 6
  else s

/-- REF_OK (R418). -/
def State.refOkSet (s : State) : State :=
  if s.alive ∧ s.refEn ∧ s.clk.refStable ∧ s.clk.ref = 1 ∧ s.clk.level ≤ 1 ∧ s.clk.sysLock ∧ s.clk.convLock then
    let s := s.modClk (fun c => { c with refOk := true })
    if s.clk.level = 0 ∨ s.autoReturn then s.returnRef else s
  else s

/-- LEVEL2_RECOVERY_VALID (R419): the cause clears, and the module returns by the row that matches; in BOOT it only goes on. -/
def State.level2Recovered (s : State) : State :=
  if 4 ∈ s.sys.causes ∧ s.clk.level ≠ 2 ∧ (s.wordsValid ∨ (s.sys.st = .boot ∧ s.flt.running = false)) then ((s.dropCause 4).clkRestored).causeCleared else s

/-- PLL_HOLD_STOP (R415): the PLLs stop, and with the lane clock the ports go DOWN. -/
def State.pllHoldStop (s : State) : State :=
  if s.clk.level = 2 ∧ (s.clk.convHold ∨ s.clk.laneHold) then ((s.modClk (fun c => { c with convHold := false, laneHold := false })).portDown 0).portDown 1 else s

/-! ### Trimming (R411) -/

/-- CLK_TRIM src. -/
def State.trimSrc (s : State) : Nat :=
  if s.clk.refStable then 1 else if !s.chn.sender && s.chn.upstream.isSome && s.anyUp && !s.chn.marksLost then 2 else 0

/-- A code moved towards another by at most one step. -/
def oneStep (old new : Nat) : Nat := if old < new then old + 1 else if new < old then old - 1 else old

/-- CLK_TRIM_LIMIT when a code has reached an end of its range: 0 IRC, 1 LFO. -/
def State.trimLimit (s : State) (osc old new top : Nat) : State := if new ≠ old ∧ (new = 0 ∨ new = top) then s.stage 0x0135 1 (b1 osc) else s

/-- TRIM (R411, R429): the operands are the codes whose errors lie nearest 0. -/
def State.trim (s : State) (irc lfo : Nat) : State :=
  if !s.alive || decide (s.trimSrc = 0) || !s.clk.ircOk then s
  else
    let oi := s.clk.ircCode
    let ol := s.clk.lfoCode
    let ni := if s.clk.ref = 1 then oneStep oi (min irc 200) else min irc 200
    let nl := if s.clk.lfoFail then ol else min lfo 3000
    let s := s.modClk (fun c => { c with ircCode := ni, lfoCode := nl, ircTrimmed := true, lfoTrimmed := c.lfoTrimmed || !c.lfoFail })
    let s := { s with pwr := { s.pwr with untrimmed := s.pwr.untrimmed && s.clk.lfoFail } }
    (s.trimLimit 0 oi ni 200).trimLimit 1 ol nl 3000

/-! ### The measurement counter (R428) -/

/-- A write of CLK_MEAS_CTL: whether it is refused. -/
def State.writeMeas (s : State) (v : Word) : State × Bool :=
  if 6 ≤ bitsOf v 2 0 then (s, true)
  else
    let s := s.setReg 0x0820 (v &&& 0xF#32)
    (if bitAt v 4 && !s.clk.measBusy then s.modClk (fun c => { c with measBusy := true, measDone := false, measUnlocked := false }) else s, false)

/-- MEASUREMENT_DONE. -/
def State.measureDone (s : State) (count : Nat) : State :=
  if s.clk.measBusy then s.modClk (fun c => { c with measBusy := false, measDone := true, measCnt := count % 2 ^ 32 }) else s

/-! ### Writes of CLK_CFG, CLK_OP and CLK_OUT (R418, R426, R427) -/

/-- A write of CLK_CFG: ref_return without ref_ok refuses it whole. -/
def State.writeClkCfg (s : State) (v : Word) : State × Bool :=
  if bitAt v 2 && !s.refGood then (s, true)
  else
    let s := s.setStored 0x0800 (v &&& 3#32)
    let s :=
      if s.refEn then s
      else if s.clk.level = 0 ∧ s.clk.ref = 0 ∧ s.clk.ircOk then s.modClk (fun c => { c with ref := 1, refOk := false })
      else s.returnIrc
    (if bitAt v 2 && decide (s.clk.level = 1) && s.refEn then s.returnRef else s, false)

/-- A write of CLK_OP pin. -/
def State.writeOp (s : State) (v : Word) : State × Bool :=
  if bitsOf v 1 0 = 3 then (s, true) else ((s.setReg 0x0810 (v &&& 3#32)).opPinned, false)

/-- CLK_OUT may not exceed 50 MHz (R427). -/
def clkOutBad (v : Word) : Bool :=
  let src := bitsOf v 2 0
  let d := bitsOf v 19 4 + 1
  decide (src = 7) || (decide (src = 3) && decide (d < 4)) || (decide (src = 1) && decide (d = 1))

def State.writeClkOut (s : State) (v : Word) : State × Bool := if clkOutBad v then (s, true) else (s.setReg 0x081C (v &&& 0xFFFFF#32), false)

/-! ### The gate tree (R422, R423) -/

/-- CLK_GATE bit of a leaf. -/
def leafBit (n : Nat) : Nat := n + n / 2

def State.leafRuns (s : State) (n : Nat) : Bool := nth s.clk.leaf n

/-- A group-off bit that is set while a leaf of the group still runs. -/
def State.groupRefused (s : State) (v : Word) : Option Nat :=
  if bitAt v 2 && (s.leafRuns 0 || s.leafRuns 1) then some 4
  else if bitAt v 5 && (s.leafRuns 2 || s.leafRuns 3) then some 5
  else none

/-- Whether a leaf runs after a write: a leaf whose bit is clear starts again, unless its group stays off. -/
def leafAfter (v : Word) (n : Nat) (was : Bool) : Bool :=
  was || (!bitAt v (leafBit n) && !(decide (n < 2) && bitAt v 2) && !(decide (2 ≤ n ∧ n < 4) && bitAt v 5))

/-- A write of CLK_GATE: whether it is refused. -/
def State.writeGate (s : State) (v : Word) : State × Bool :=
  match s.groupRefused v with
  | some g => (s.modClk (fun c => { c with cgRefused := g }), true)
  | none => ((s.setReg 0x0814 (v &&& 0x7F#32)).modClk (fun c => { c with leaf := (List.range 5).map (fun n => leafAfter v n (nth c.leaf n)) }), false)

/-- LEAF_GATED (R423, R429): a chain port goes DOWN, a MAC stops its link. -/
def State.leafGated (s : State) (n : Nat) : State :=
  if n < 5 ∧ s.leafRuns n ∧ bitAt (s.reg 0x0814) (leafBit n) then
    let s := s.modClk (fun c => { c with leaf := c.leaf.set n false })
    if n < 2 then s.portDown n
    else if n < 4 then (s.ethLink (n - 2) false 0).announceTimeout (n - 2)
    else s
  else s

/-! ### Register views (R431) -/

def State.clkStat (s : State) : Word :=
  let c := s.clk
  pack [(0, 2, c.level), (2, 2, c.sysSrc), (4, 2, c.ref), (6, 1, b2n s.refGood), (7, 1, b2n c.ircOk), (8, 1, b2n c.ircTrimmed), (9, 1, b2n c.lfoTrimmed),
    (10, 1, b2n c.sysLock), (11, 1, b2n c.convLock), (12, 1, b2n c.laneLock), (13, 1, b2n c.convHold), (14, 1, b2n c.laneHold), (15, 1, b2n c.muxForced),
    (16, 1, b2n c.lfoFail), (17, 3, c.cause)]

def State.clkRef (s : State) : Word := pack [(0, 2, s.clk.freq), (8, 8, s.clk.level1), (16, 8, s.clk.level2)]

def State.clkTrim (s : State) : Word := pack [(0, 8, s.clk.ircCode), (8, 12, s.clk.lfoCode), (20, 2, s.trimSrc)]

def State.clkOp (s : State) : Word := pack [(0, 2, s.opPin), (2, 1, b2n s.clk.op), (3, 1, b2n s.clk.ramping), (16, 16, s.clk.raises)]

def State.clkGate (s : State) : Word := (s.reg 0x0814 &&& 0x7F#32) ||| pack [(8, 3, s.clk.cgRefused)]

/-- CLK_GATE_STAT: groups ENG, FST, AFE, CHN, NET, REC, HCP, then the leaves. -/
def State.clkGateStat (s : State) : Word :=
  let rec_ := !s.ldg.ring.isEmpty || s.cap.recording.isSome || !s.cap.waiting.isEmpty
  pack [(0, 7, maskOf [!s.asleep, s.ticking, s.ticking, s.leafRuns 0 || s.leafRuns 1, s.leafRuns 2 || s.leafRuns 3, rec_, s.host.up]),
    (8, 6, maskOf (s.clk.leaf ++ [bitAt (s.reg 0x081C) 3]))]

def State.clkMeas (s : State) : Word :=
  (s.reg 0x0820 &&& 0xF#32) ||| pack [(5, 1, b2n s.clk.measBusy), (6, 1, b2n s.clk.measDone), (7, 1, b2n s.clk.measUnlocked)]

end Sys2Proof.Machine
end

