-- ==== Sys2Proof/Machine/Repair.lean ====
section
/-! DEFINITION. The defect map and self-repair of memory rows (R456-R470). -/

namespace Sys2Proof.Machine

def State.modDm (s : State) (f : Defects → Defects) : State := { s with dm := f s.dm }

/-! ### The defect map in MRAM (R457, R458) -/

/-- A spare row's item: the row it replaces and the reason. -/
def rowBytes : Option (Nat × Nat) → List Byte
  | some r => b2 r.1 ++ b1 r.2 ++ zeros 1
  | none => b2 0xFFFF ++ zeros 2

/-- Bytes 0x004 to 0xFFB of a copy; `ot` carries its quality in bits 63 to 56. -/
def mapBody (update pcc ot : Nat) (m : DefMap) : List Byte :=
  b4 update ++ b4 pcc ++ zeros 4 ++ b8 ot ++ zeros 8
    ++ m.pairs.flatMap (fun p => b1 p.state ++ b1 p.reason ++ b2 p.transients ++ zeros 4 ++ b8 p.lastT ++ b8 p.prevT)
    ++ m.cores.flatMap (fun c => b1 c.1 ++ b1 c.2 ++ zeros 2) ++ m.lanes.flatMap (fun l => b1 l.1 ++ b1 l.2) ++ zeros 4
    ++ m.ssRows.flatMap rowBytes ++ m.mramRows.flatMap rowBytes ++ zeros 3260

/-- MRAM offset of a copy. -/
def mapBase (k : Nat) : Nat := 0x302000 + 0x1000 * k

/-- A copy is written whole: zero to its hallmark, the fields, the CRC, the hallmark last (R458). -/
def State.writeMap (s : State) (k update : Nat) : State :=
  if s.dm.mramFail then s
  else
    let body := mapBody update s.pwr.pcc (s.pwr.ot + s.otQual false * 2 ^ 56) s.dm.map
    let s := (s.mramPut (mapBase k) (zeros 4)).mramPut (mapBase k + 4) (body ++ b4 (crc32c body))
    let s := s.mramPut (mapBase k) (b4 0x4D44585A)
    s.modDm (fun d => { d with copies := d.copies.set k (some { update := update, pcc := s.pwr.pcc, ot := s.pwr.ot, map := d.map }), copy := k, dirty := false })

/-- Update count of a copy, none for a blank one. -/
def State.mapCount (s : State) (k : Nat) : Option Nat := (s.dm.copies.getD k none).map (fun (c : DefCopy) => c.update)

/-- The copy that the next write goes to: a blank one, or the one with the lower update count (R458). -/
def State.olderMap (s : State) : Nat :=
  match s.mapCount 0, s.mapCount 1 with
  | some a, some b => if a ≤ b then 0 else 1
  | some _, none => 1
  | none, _ => 0

/-- DEFECT_MAP_WRITE (R458). -/
def State.mapWrite (s : State) : State :=
  if s.dm.dirty ∧ s.alive ∧ s.pwr.mapRead then s.writeMap s.olderMap (((s.mapCount 0).getD 0).max ((s.mapCount 1).getD 0) + 1) else s

/-- Both copies of a rebuilt map are written (R459). -/
def State.writeBothMaps (s : State) : State := if s.dm.rebuilt then (s.writeMap 0 1).writeMap 1 2 else s

/-- A defect map copy is valid (R458). -/
def State.mapGood (s : State) (k : Nat) : Bool := (s.mapCount k).isSome && s.mramGood (mapBase k) 0x1000

/-- The valid copy with the higher update count (R459). -/
def State.bestMap (s : State) : Option Nat :=
  if s.mapGood 0 && s.mapGood 1 then some (if (s.mapCount 0).getD 0 < (s.mapCount 1).getD 0 then 1 else 0)
  else if s.mapGood 0 then some 0
  else if s.mapGood 1 then some 1
  else none

/-! ### State-store rows (R463) -/

/-- The lowest unused spare row. -/
def freeRow (l : List (Option (Nat × Nat))) : Option Nat := (List.range l.length).find? (fun i => (l.getD i none).isNone)

/-- A state-store row needs sparing: it waits for its copy, or with no spare left SS_ROW_NO_SPARE is staged once. -/
def State.ssNeeds (s : State) (row reason : Nat) : State :=
  if (freeRow s.dm.map.ssRows).isSome then s.modDm (fun d => { d with ssDue := d.ssDue.filter (fun x => x.1 ≠ row) ++ [(row, reason)] })
  else if s.dm.ssNoSpare then s
  else (s.modDm (fun d => { d with ssNoSpare := true })).stage 0x0152 2 []

/-- A word of the state store is corrected: two distinct words of its row within 24 h of OT, or one word eight times, need a spare row. Words are numbered from 0, 256 to a row. -/
def State.ssCorrected (s : State) (w : Nat) : State :=
  let n := ((s.dm.ssLog.find? (fun e => e.1 = w)).map (fun e => e.2.2)).getD 0 + 1
  let other := s.dm.ssLog.any (fun e => decide (e.1 ≠ w ∧ e.1 / 256 = w / 256 ∧ s.pwr.ot ≤ e.2.1 + dayUs))
  let s := s.modDm (fun d => { d with ssCorr := satInc 65535 d.ssCorr, ssLog := d.ssLog.filter (fun e => e.1 ≠ w) ++ [(w, s.pwr.ot, n)] })
  let s := { s with nv := { s.nv with corrections := s.nv.corrections + 1 } }
  if other ∨ 8 ≤ n then s.ssNeeds (w / 256) 2 else s

/-- SS_SCRUB (R463): while no engine is awake. -/
def State.ssScrub (s : State) (corrected uncorrectable : List Nat) : State :=
  if s.alive ∧ s.asleep then
    let s := corrected.foldl State.ssCorrected s
    uncorrectable.foldl (fun s w => s.ssNeeds (w / 256) 1) s
  else s

/-- A row may be copied now (R463, R466): after the output update and before the next wake; an uncorrectable error goes first, then the lower row number. -/
def State.ssMay (s : State) (row reason : Nat) : Bool :=
  s.alive && !s.pe.updDue && decide (row < 512) &&
    (if reason = 1 then s.dm.ssDue.all (fun d => decide (d.2 ≠ 1 ∨ row ≤ d.1))
     else decide ((row, 2) ∈ s.dm.ssDue ∧ reason = 2) && s.dm.ssDue.all (fun d => decide (d.2 = 2 ∧ row ≤ d.1)))

/-- SS_ROW_SPARED (R463). -/
def State.ssSpare (s : State) (row reason : Nat) : State :=
  if !s.ssMay row reason then s
  else
    match freeRow s.dm.map.ssRows with
    | none => s.ssNeeds row reason
    | some k =>
      let s := s.modDm (fun d => { d with
        map := { d.map with ssRows := d.map.ssRows.set k (some (row, reason)) }, dirty := true,
        ssDue := d.ssDue.filter (fun x => x.1 ≠ row), ssLog := d.ssLog.filter (fun e => e.1 / 256 ≠ row) })
      s.stage 0x0151 1 (b2 row ++ b1 reason)

/-! ### MRAM rows (R464, R467) -/

/-- The item that holds a byte of MRAM: a scheme slot, a page of the identity area, a record, a capture slot. -/
def State.itemOf (s : State) (off : Nat) : Nat :=
  if off < 0x300000 then imgBase (off / 0x180000)
  else if off < 0x400000 then off / 0x1000 * 0x1000
  else if off < 0x800000 then (((s.ldg.first ++ s.ldg.circ).find? (fun r => decide (r.off ≤ off ∧ off < r.off + r.len))).map (fun r => r.off)).getD (off / 0x400 * 0x400)
  else off / 0x80000 * 0x80000

/-- An MRAM row waits for a spare. -/
def State.mramNeeds (s : State) (row reason : Nat) : State := s.modDm (fun d => { d with mramDue := d.mramDue.filter (fun x => x.1 ≠ row) ++ [(row, reason)] })

/-- A word read with a correction is rewritten; one that needs correction again spares its row. -/
def State.mramCorrected (s : State) (off : Nat) : State :=
  let w := off / 8 * 8
  let again := decide (w ∈ s.dm.mramSeen)
  let s := s.modDm (fun d => { d with mramCorr := satInc 65535 d.mramCorr, mramSeen := if again then d.mramSeen else d.mramSeen ++ [w] })
  let s := { s with nv := { s.nv with corrections := s.nv.corrections + 1 } }
  if again then s.mramNeeds (off / 1024) 2 else s

/-- An uncorrectable word: its item fails from now on, MRAM_UNCORRECTABLE once per item, its row needs a spare. -/
def State.mramLostWord (s : State) (off : Nat) : State :=
  let w := off / 8 * 8
  let it := s.itemOf off
  let told := decide (it ∈ s.dm.mramTold)
  let s := (s.modDm (fun d => { d with mramBad := if w ∈ d.mramBad then d.mramBad else d.mramBad ++ [w], mramTold := if told then d.mramTold else d.mramTold ++ [it] })).mramNeeds (off / 1024) 1
  let s := if 0x800000 ≤ off ∧ off < mramSize then s.modSlot ((off - 0x800000) / 0x80000) (fun x => if x.state = 1 then { x with state := 3 } else x) else s
  if told then s else s.stage 0x0155 2 (b4 off)

/-- What a scrub of some of MRAM finds (R464). -/
def State.mramScrub (s : State) (corrected uncorrectable : List Nat) : State :=
  if s.dm.mramFail then s
  else
    let s := (corrected.filter (fun o => decide (o < mramSize))).foldl State.mramCorrected s
    (uncorrectable.filter (fun o => decide (o < mramSize))).foldl State.mramLostWord s

/-- MRAM_SCRUB_STEP (R464): the next 1 KiB. -/
def State.mramScrubStep (s : State) (corrected uncorrectable : List Nat) : State :=
  if s.alive ∧ s.dm.mramFail = false then (s.mramScrub corrected uncorrectable).modDm (fun d => { d with scrub := (d.scrub + 1) % 16384 }) else s

/-- MRAM_ROW_SPARED (R464). -/
def State.mramSpare (s : State) (row : Nat) (uncorrectable : Bool) : State :=
  let reason := if uncorrectable then 1 else 2
  if s.alive ∧ s.dm.mramFail = false ∧ row < 16384 ∧ (uncorrectable ∨ (row, 2) ∈ s.dm.mramDue) then
    let s := s.modDm (fun d => { d with mramDue := d.mramDue.filter (fun x => x.1 ≠ row), mramSeen := d.mramSeen.filter (fun w => w / 1024 ≠ row) })
    match freeRow s.dm.map.mramRows with
    | none => if s.dm.mramNoSpare then s else (s.modDm (fun d => { d with mramNoSpare := true })).stage 0x0154 2 []
    | some k => (s.modDm (fun d => { d with map := { d.map with mramRows := d.map.mramRows.set k (some (row, reason)) }, dirty := true })).stage 0x0153 1 (b2 row ++ b1 reason)
  else s

/-- MRAM_FAIL (R467). -/
def State.mramFails (s : State) : State := if s.alive ∧ s.dm.mramFail = false then (s.modDm (fun d => { d with mramFail := true })).stage 0x0157 2 [] else s

/-! ### Register views (R470) -/

def State.defStat (s : State) : Word :=
  let m := s.dm.map
  pack [(0, 1, s.dm.copy), (1, 1, b2n s.dm.rebuilt), (2, 1, b2n s.dm.mramFail), (4, 5, countIf m.pairs (fun p => p.state ≠ 0)), (9, 5, countIf m.cores (fun c => c.1 ≠ 0)),
    (14, 4, countIf m.lanes (fun l => l.1 ≠ 0)), (18, 5, countIf m.ssRows (fun r => r.isSome)), (23, 7, countIf m.mramRows (fun r => r.isSome))]

def State.defPairTr (s : State) (w : Nat) : Word := pack ((List.range 4).map (fun k => (8 * k, 8, min 255 (nth s.dm.map.pairs (4 * w + k)).transients)))

def State.defLane (s : State) : Word :=
  let out := s.dm.map.lanes.map (fun l => decide (l.1 ≠ 0))
  pack [(0, 5, maskOf (out.take 5)), (8, 5, maskOf (out.drop 5))]

def State.defEcc (s : State) : Word := pack [(0, 16, s.dm.ssCorr), (16, 16, s.dm.mramCorr)]

end Sys2Proof.Machine
end

