-- ==== Sys2Proof/Machine/Power.lean ====
section
/-! DEFINITION. Feeds, hold-up, power fail, resets, start-up and DORMANT (R362-R364, R432-R455). -/

namespace Sys2Proof.Machine

def State.modPwr (s : State) (f : Power → Power) : State := { s with pwr := f s.pwr }

/-! ### Counter blocks and PCC (R440-R442) -/

/-- The index of the newer valid counter block (R442). -/
def State.newBlock (s : State) : Option CounterBlock :=
  match s.pwr.blocks.getD s.pwr.newest none with
  | some b => some b
  | none => s.pwr.blocks.getD (1 - s.pwr.newest) none

/-- What a counter block holds of now. -/
def State.counterBlock (s : State) (pf : Bool) : CounterBlock :=
  { ot := s.pwr.ot, qual := s.otQual false, pcc := s.pwr.pcc, pos := s.ldg.circPos, nextSeq := s.ldg.nextSeq, capNum := s.cap.nextNum,
    mismatches := s.nv.mismatches, holds := s.nv.holds, corrections := s.nv.corrections, pf := pf }

/-- The older block is written and hallmarked (R440). -/
def State.writeBlock (s : State) (pf : Bool) : State :=
  if s.dm.mramFail then s
  else
    let k := 1 - s.pwr.newest
    s.modPwr (fun p => { p with blocks := p.blocks.set k (some (s.counterBlock pf)), newest := k })

/-- COUNTER_BLOCK_WRITE (R440). -/
def State.blockDue (s : State) (ot : Nat) : State :=
  if s.alive ∧ s.pwr.pf = .none ∧ s.pwr.ot ≤ ot then (s.modPwr (fun p => { p with ot := ot })).writeBlock false else s

/-! ### Jobs abandoned (R241, R291, R403, R438, R447) -/

/-- Every job ends without an outcome, with the partial effects of its chapter: a load leaves its slot blank, an activation not yet begun is dropped, a lease lapses, a self-test's pair returns, channels under calibration are reconnected. -/
def State.abandonJobs (s : State) : State :=
  let s := if s.loading then s.loadCancelled else s
  let s := if s.sch.act = .accepted then s.actCancelled else s.modSch (fun x => { x with actTicket := 0 })
  let s := s.modCap (fun c => { c with slots := c.slots.map (fun k => { k with lease := none }) })
  let s := (s.job.out.filter (fun j => decide (j.code = 7))).foldl (fun s j => s.bistRelease j.arg) s
  let s := if (s.jobOf 8).isSome then s.reconnectAll else s
  s.dropJobs

/-! ### Reset (R445, R446) -/

/-- The always-on domain after a reset that keeps it: LFO and OT, feeds, a power fail that stands, PCC (R34, R445). -/
def Power.keep (p : Power) (cause rail : Nat) : Power :=
  { ot := p.ot, otHi := p.otHi, resumed := p.resumed, untrimmed := p.untrimmed, feedOk := p.feedOk, feedHigh := p.feedHigh, feedSup := p.feedSup,
    feedWasOut := (List.range 2).map (fun f => nth p.feedWasOut f && !nth p.feedOk f),
    pccCopies := p.pccCopies, blocks := p.blocks, newest := p.newest, pcc := p.pcc,
    pf := if p.pf = PfStage.none then PfStage.none else PfStage.committed, holdMv := p.holdMv, bootOt := p.ot, bootStep := 3, cause := cause, rail := rail }

/-- After the always-on domain has lost its supply: only what MRAM holds. -/
def Power.cold (p : Power) : Power := { pccCopies := p.pccCopies, blocks := p.blocks, newest := p.newest, bootStep := 0 }

/-- The module in a state that a reset, a shutdown or the loss of supply leaves: MRAM and, unless `cold`, the always-on domain keep their contents; the logic side sends no frames, so the field side holds its outputs (R246, R446). -/
def State.resetTo (s : State) (st : OpState) (cold : Bool) (cause rail : Nat) : State :=
  let h := s.holdOutputs
  let from' : Option Nat := if st ≠ OpState.boot then none else if s.sys.st = OpState.boot then s.sys.bootFrom else some (stCode s.sys.st)
  { sys := { st := st, lastCause := if st = .dormant then s.sys.lastCause else 0, bootFrom := from' },
    pwr := if cold then s.pwr.cold else s.pwr.keep cause rail,
    ldg := {
      commissioned := s.ldg.commissioned, firstFull := s.ldg.firstFull, nextSeq := s.ldg.nextSeq, floor := s.ldg.floor, first := s.ldg.first,
      circ := s.ldg.circ, firstPos := s.ldg.firstPos, circPos := s.ldg.circPos },
    cap := { nextNum := s.cap.nextNum },
    clk := if cold then {} else { lfoCode := s.clk.lfoCode, lfoTrimmed := s.clk.lfoTrimmed },
    dm := { map := s.dm.map, copies := s.dm.copies, copy := s.dm.copy, mramFail := s.dm.mramFail, mramBad := s.dm.mramBad },
    nv := { s.nv with latchDirty := [] },
    afe := {
      cores := (List.range 18).map (fun c =>
        let o := nth s.afe.cores c
        { role := if c % 9 = 8 then .idle else .inService, calCount := o.calCount, offset := o.offset, gainErr := o.gainErr, corr := o.corr }),
      ch := s.afe.ch.map (fun c => { base := c.base, pga := c.pga }) },
    aux := { offset := s.aux.offset, gainPpm := s.aux.gainPpm },
    sch := { tpl := s.sch.tpl, params := s.sch.paramPend.foldl (fun l p => insertKey l p.1 p.2) s.sch.params },
    fio := { state := h.fio.state, dos := h.fio.dos.map (fun o => { hold := o.hold, holding := o.holding, stuck := o.stuck, peer := o.peer }) },
    regs := if cold then [] else s.regs.filter (fun p => p.1 = 0x041C),
    mram := s.mram, pending := s.pending, free := s.free }

/-- A reset of the module with a source of R445 that keeps the always-on domain. -/
def State.resetFor (s : State) (cause rail : Nat) : State := s.resetTo .boot false cause rail

/-- A commit that is under way (R439). -/
def State.committing (s : State) : Bool := decide (s.pwr.pf = .flushing) || decide (s.pwr.pf = .committing)

/-- RESET_N_LOW (R445, R453): held off while a commit runs. -/
def State.resetLow (s : State) : State :=
  if s.sys.st = .off ∨ s.pwr.held then s
  else if s.committing then s.modPwr (fun p => { p with resetWaits := true })
  else (s.resetFor 1 15).modPwr (fun p => { p with held := true })

/-- RESET_N_RISE (R446). -/
def State.resetRise (s : State) : State := s.modPwr (fun p => { p with held := false, resetWaits := false })

/-- RAIL_FAULT (R435): the always-on rail's is a power-on reset. Rails are numbered from 0 in the order of R434, AFE A and AFE B apart. -/
def State.railFault (s : State) (rail : Nat) : State :=
  if s.sys.st = .off ∨ 9 ≤ rail then s
  else if rail = 0 then s.resetTo .boot true 0 15
  else if s.dark then s
  else s.resetFor 2 rail

/-- A write of PWR_CTL (R445, R455): refused while a trip or fast-route output is asserted. -/
def State.writePwrCtl (s : State) (v : Word) : State × Bool :=
  if bitAt v 0 = false then (s, false)
  else if s.tripAsserted then (s, true)
  else (s.modPwr (fun p => { p with hostReset := true }), false)

/-- HOST_RESET_EFFECT (R445, R446): staged entries and a counter block have been written. -/
def State.hostResetEffect (s : State) : State :=
  if s.pwr.hostReset ∧ s.alive ∧ s.committing = false then ((s.flushRing).writeBlock false).resetFor 3 15 else s

/-- HC_RESTART (R447). -/
def State.hcRestart (s : State) : State :=
  if s.alive then
    ((s.abandonJobs.modPwr (fun p => { p with hcRestarts := satInc 255 p.hcRestarts })).modCap (fun c => { c with written := 0 })).stage 0x0145 2 []
  else s

/-! ### Feeds (R363, R364) -/

/-- Both feeds have been judged out of range (R364). -/
def State.feedsOut (s : State) : Bool := (List.range 2).all (fun f => nth s.pwr.feedWasOut f && !nth s.pwr.feedOk f)

/-- FEED_OUT_OF_RANGE (R363, R364). -/
def State.feedOut (s : State) (f mv : Nat) : State :=
  if s.sys.st = .off ∨ 2 ≤ f ∨ (nth s.pwr.feedOk f = false ∧ nth s.pwr.feedWasOut f) ∨ (5900 ≤ mv ∧ mv ≤ 40500) then s
  else
    let high := decide (40500 < mv)
    let s := s.modPwr (fun p => { p with
      feedOk := p.feedOk.set f false, feedHigh := p.feedHigh.set f high, feedSup := p.feedSup.set f (decide (5500 ≤ mv) && !high), feedWasOut := p.feedWasOut.set f true })
    if s.dark then s
    else
      let s := s.stage 0x0110 1 (b1 f ++ b2 mv)
      if s.feedsOut ∧ s.pwr.pf = .none then s.found 6 else s

/-- The commit is completed at once (R443). -/
def State.completeCommit (s : State) : State :=
  if s.clk.level = 2 ∧ s.clk.ircOk = false then s
  else if s.pwr.pf = .flushing then (s.flushEnd).writeBlock true
  else if s.pwr.pf = .committing then s.writeBlock true
  else s

/-- The ring takes entries again; POWER_RESTORED counts what arrived while it was closed (R443). -/
def State.reopenRing (s : State) : State :=
  { s with ldg := { s.ldg with ring := [], closed := false, lateLost := 0 } }.stage 0x0144 1 (b4 s.ldg.lateLost)

/-- A feed is back before HOLD is spent (R443): the commit completes, HOLD recharges, the ring reopens, POWER_RESTORED counts what arrived in between. -/
def State.powerBack (s : State) : State :=
  let s := s.completeCommit
  let w := s.pwr.resetWaits
  let s := (s.modPwr (fun p => { p with pf := .none, charging := true, restored := true, resetWaits := false })).reopenRing
  if w then (s.resetFor 1 15).modPwr (fun p => { p with held := true }) else s

/-- FEED_IN_RANGE (R363, R364, R443). -/
def State.feedIn (s : State) (f mv : Nat) : State :=
  if s.sys.st = .off ∨ 2 ≤ f ∨ nth s.pwr.feedOk f ∨ mv < 6100 ∨ 39500 < mv then s
  else
    let was := nth s.pwr.feedWasOut f
    let dark := s.dark
    let s := s.modPwr (fun p => { p with
      feedOk := p.feedOk.set f true, feedHigh := p.feedHigh.set f false, feedSup := p.feedSup.set f true, feedWasOut := p.feedWasOut.set f (was && dark) })
    if dark then s.modPwr (fun p => { p with pf := .none })
    else
      let s := s.dropCause 6
      let s := if s.pwr.pf = .none then s else s.powerBack
      if was then s.stage 0x0111 0 (b1 f) else s

/-! ### Power fail (R438-R444) -/

/-- POWER_FAIL_DECLARED (R438). In DORMANT nothing is committed (R451). -/
def State.powerFail (s : State) (mv : Nat) : State :=
  if s.sys.st = .off ∨ s.pwr.pf ≠ .none then s
  else if s.dark then s.modPwr (fun p => { p with pf := .committed, feedSup := [false, false] })
  else
    let s := s.modPwr (fun p => { p with
      pf := .flushing, holdMv := mv % 65536, charging := false, feedSup := [false, false], bootStep := if s.sys.shutting then 14 else p.bootStep, wakeAfter := false })
    let s := { s with sys := { s.sys with shutting := false } }
    ((((s.setNme 2).testsLost.abandonJobs.dropCaptures).closeRing).writeLatches).voidCal

/-- The commit has a clock to run on (R453). -/
def State.commitClock (s : State) : Bool := decide (s.clk.level ≠ 2) || s.clk.ircOk

/-- FLUSH_END (R275). -/
def State.flushOver (s : State) : State :=
  if s.pwr.pf = .flushing ∧ s.commitClock then (s.flushEnd).modPwr (fun p => { p with pf := .committing }) else s

/-- COMMIT_DONE (R439, R453). -/
def State.commitDone (s : State) : State :=
  if s.pwr.pf = .committing ∧ s.commitClock then
    let w := s.pwr.resetWaits
    let s := (s.writeBlock true).modPwr (fun p => { p with pf := .committed, resetWaits := false })
    if w then (s.resetFor 1 15).modPwr (fun p => { p with held := true }) else s
  else s

/-- HOLD_SPENT (R444). -/
def State.holdSpent (s : State) (mv : Nat) : State :=
  if s.sys.st ≠ .off ∧ s.pwr.pf ≠ .none ∧ mv < 5000 then s.resetTo .off true 0 15 else s

/-! ### The hold-up capacitor (R436, R437) -/

/-- HOLD_READY (R436, R437): the rise time in 0.1 ms gives hold_cap. -/
def State.holdReadySet (s : State) (t : Nat) : State :=
  if s.pwr.charging ∧ s.pwr.holdReady = false ∧ s.alive then
    let cap := divRound (2 * t) 5
    let s := s.modPwr (fun p => { p with holdReady := true, capUf := min 65535 cap, tCharge := min 65535 t, holdSmall := decide (cap < 198) })
    if cap < 198 then s.stage 0x0143 2 [] else s
  else s

/-- The condition of a capacitor judgement (R437). -/
def State.holdBad (s : State) (k : HoldJudge) : Bool :=
  match k with
  | .short mv ms => s.pwr.charging && !s.pwr.holdReady && decide (mv < 1000 ∧ 10 ≤ ms)
  | .openCap mv ms => s.pwr.charging && !s.pwr.holdReady && decide (mv < 16000 ∧ 500 ≤ ms)
  | .leakage mv ms => s.pwr.charging && s.pwr.holdReady && decide (mv < 15000 ∧ 1 ≤ ms)

/-- HOLD_FAULT (R437). -/
def State.holdFaultSet (s : State) (k : HoldJudge) : State :=
  if s.alive ∧ s.pwr.pf = .none ∧ s.holdBad k then (s.modPwr (fun p => { p with holdFault := true })).stage 0x0143 2 [] else s

/-! ### Start-up (R448, R449) -/

/-- FEED_RISE (R448 row 1). -/
def State.feedRise (s : State) (f mv : Nat) : State :=
  if s.sys.st = .off ∧ f < 2 ∧ 6000 ≤ mv ∧ mv ≤ 40000 then
    (s.resetTo .boot true 0 15).modPwr (fun p => { p with bootStep := 1, feedSup := p.feedSup.set f true })
  else s

/-- POWER_ON_RESET_RELEASE (R448 row 2). -/
def State.porRelease (s : State) : State :=
  if s.sys.st = .boot ∧ s.host.up = false ∧ s.pwr.held = false ∧ s.pwr.bootStep < 2 then s.modPwr (fun p => { p with bootStep := 2 }) else s

/-- RESTORE_FAIL of a register: the bits that took their fallback and the value in effect (R31). -/
def State.tellRestore (s : State) (a mask : Nat) (v : Word) : State := s.stage 0x0011 1 (b2 a ++ zeros 2 ++ b4 mask ++ b4 v.toNat)

/-- Stored overrides of a register dropped. -/
def State.dropStored (s : State) (a : Nat) : State := { s with nv := { s.nv with ovr := s.nv.ovr.filter (fun p => p.1 % 0x10000 ≠ a) } }

/-- Every stored copy of a register at its fallback. -/
def State.fallStored (s : State) (a : Nat) : State :=
  { s with nv := { s.nv with ovr := (insertKey s.nv.ovr a (regDefault a)).map (fun p => if p.1 % 0x10000 = a then (p.1, regDefault p.1) else p) } }

/-- Every core with a change: a failed restore of calibrated values concerns the stored copy of all of them (log entry 133). -/
def State.mapCores (s : State) (f : ConvCore → ConvCore) : State := { s with afe := { s.afe with cores := s.afe.cores.map f } }

/-- A register with "P" fields whose stored copy fails its check takes the fallbacks of its own description, with RESTORE_FAIL once (R10, R31): the cores' coefficients, the ledger's marks and sequences, the setting group (told when the scheme that names the initial group is chosen), the template and its parameters, the rates, and every other register's stored value. -/
def State.restoreFailed (s : State) (a : Nat) : State :=
  let m := keptMask a
  if m = 0 then s
  else if a = 0x1464 then let s := s.mapCores (fun c => { c with calCount := 0 }); s.tellRestore a m s.coreInfo
  else if a = 0x1468 then (s.mapCores (fun c => { c with offset := 0, gainErr := 0, corr := [] })).tellRestore a m 0
  else if a = 0x3000 then
    let full := b2n s.ldg.firstFull
    let on := !s.ldg.first.isEmpty
    { s with ldg := { s.ldg with commissioned := on } }.tellRestore a 1 (pack [(0, 1, b2n on), (1, 1, full), (2, 1, 1), (4, 10, s.ldg.ring.length)])
  else if a = 0x3004 then { s with ldg := { s.ldg with nextSeq := 1 } }.tellRestore a m 1
  else if a = 0x3008 then s.tellRestore a m (BitVec.ofNat 32 s.oldestSeq)
  else if a = 0x300C then { s with ldg := { s.ldg with floor := 1 } }.tellRestore a m 1
  else if a = 0x2430 then (s.dropStored a).modSch (fun x => { x with groupFail := true })
  else if a = 0x2434 then ((s.fallStored a).modSch (fun x => { x with tpl := 0 })).tellRestore a m (regDefault a)
  else if a = 0x243C then let s := s.modSch (fun x => { x with params := [], paramPend := [] }); s.tellRestore a m s.schParam
  else if a = 0x3024 then let s := s.dropStored a; s.tellRestore a m (pack [(0, 8, (s.rate 0).1), (8, 16, (s.rate 0).2)])
  else (s.fallStored a).tellRestore a m (regDefault a)

/-- PCC (R441): the higher valid copy plus 1 goes to the older copy. -/
def State.incPcc (s : State) : State :=
  let v := fun k : Nat => (s.pwr.pccCopies.getD k none).getD 0
  let lost := s.pwr.pccCopies.all (fun c => c.isNone)
  let n := min 0xFFFFFFFF ((v 0).max (v 1) + 1)
  let k := if v 0 ≤ v 1 then 0 else 1
  let s := s.modPwr (fun p => { p with pcc := n, pccCopies := if s.dm.mramFail then p.pccCopies else p.pccCopies.set k (some n) })
  if lost then s.stage 0x0011 1 (b2 0x0408 ++ zeros 2 ++ b4 0xFFFFFFFF ++ b4 n) else s

/-- OT of a hallmarked slot, 0 for a blank one (R232, R442). -/
def State.slotOt (s : State) (k : Nat) : Nat := if s.hallSet k then field (s.mramGet (hallAt k + 24) 7) 0 7 else 0

/-- OT resumes after a power-on (R442); a start-up's reference keeps its distance. -/
def State.restoreOt (s : State) : State :=
  let go := fun (ot : Nat) (again : Bool) => s.modPwr (fun p => { p with ot := ot % 2 ^ 56, resumed := again, bootOt := (ot : Int) - ((p.ot : Int) - p.bootOt) })
  match s.newBlock with
  | some b => if b.pf then go b.ot false else (go b.ot true).stage 0x0142 1 []
  | none =>
    let maps := s.dm.copies.map (fun c => (c.map (fun d => d.ot)).getD 0)
    let top := (maps ++ [s.slotOt 0, s.slotOt 1]).foldl max 0
    let s := (go top true).stage 0x0142 1 []
    let s := s.stage 0x0011 1 (b2 0x040C ++ zeros 2 ++ b4 0xFFFFFFFF ++ b4 (s.pwr.ot % 2 ^ 32))
    s.stage 0x0011 1 (b2 0x0410 ++ zeros 2 ++ b4 0xFFFFFFFF ++ b4 (s.pwr.ot / 2 ^ 32 + s.otQual false * 2 ^ 24))

/-- The lifetime counts and the next capture number come back (R440). -/
def State.restoreCounts (s : State) : State :=
  let s := s.scanSlots
  let top := s.cap.slots.foldl (fun a k => if k.state = 0 then a else a.max (k.num + 1)) s.cap.nextNum
  let s := s.modCap (fun c => { c with nextNum := top % 2 ^ 32 })
  match s.newBlock with
  | some b => { s with nv := { s.nv with mismatches := b.mismatches, holds := b.holds, corrections := b.corrections } }
  | none => s

/-- The STATE_CHANGE of the entry into BOOT, staged once the recorder can take it (R26, R30). -/
def State.bootEntered (s : State) : State :=
  match s.sys.bootFrom with
  | some old => ({ s with sys := { s.sys with bootFrom := none } }.setIrq 0).stage 0x0010 0 (b1 old ++ b1 1 ++ zeros 6)
  | none => s

/-- The supplies after row 3 of R448; a failed counter word leaves no block. -/
def State.railsOn (s : State) (b : BootIn) : State :=
  let bad := s.dm.mramFail
  s.modPwr (fun p => { p with
    rootStrap := b.chainRoot, charging := decide (p.pf = PfStage.none), pccCopies := if b.pccFail || bad then [none, none] else p.pccCopies,
    blocks := if b.countersFail || bad then [none, none] else p.blocks })

/-- The host port answers; the debug strap is latched; the ring stays closed while a power fail stands (R388, R404, R448). -/
def State.portsOn (s : State) (b : BootIn) : State :=
  { s with host := { s.host with up := true }, key := { s.key with dbgEn := b.dbgEn }, ldg := { s.ldg with closed := decide (s.pwr.pf ≠ PfStage.none) } }

/-- After a power-on reset OT is restored (R442). -/
def State.timeBack (s : State) : State := if s.pwr.cause = 0 then s.restoreOt else s

/-- The register restore (R448 row 3, R31). -/
def State.regsBack (s : State) (b : BootIn) : State :=
  let s := (b.failing.foldl State.restoreFailed s).restoreCounts
  s.nv.ovr.foldl (fun s p => s.setReg p.1 p.2) s

/-- DEBUG_ENABLED and RAIL_FAULT of this start (R404, R435). -/
def State.bootRecords (s : State) (b : BootIn) : State :=
  let s := if b.dbgEn then s.stage 0x0123 2 [] else s
  if s.pwr.cause = 2 then s.stage 0x0147 2 (b1 s.pwr.rail) else s

/-- RAILS_IN_REGULATION (R448 rows 3 and 4): straps are read, the host port answers, HOLD charges, PCC, OT and stored settings come back. -/
def State.railsUp (s : State) (b : BootIn) : State :=
  if s.sys.st ≠ .boot ∨ s.host.up ∨ s.pwr.held ∨ s.pwr.bootStep < 2 then s
  else
    let s := ((s.railsOn b).portsOn b).incPcc.timeBack.bootEntered
    (((s.regsBack b).bootRecords b).auxCalBegin).bootRow 4

/-- PLLS_LOCKED (R448 row 7). -/
def State.pllsLocked (s : State) : State :=
  let ready := if s.clk.level = 2 then decide (s.clk.sysSrc = 1) else decide (s.clk.level = 1) || !s.refEn || s.clk.refStable
  if s.alive ∧ s.sys.st = .boot ∧ s.clk.ircOk ∧ s.clk.sysLock = false ∧ ready then (s.lockAll).bootRow 7 else s

/-- An unrepairable fault at start-up (R449). -/
def State.bootFails (s : State) : State := (s.addCause 12).changeState .failsafe 12

/-- CROSSBAR_FAILURE (R26, R373): it holds from a running state and from FAILSAFE until a reset; in a start-up it is the unrepairable fault of R449. -/
def State.crossbarFailure (s : State) : State :=
  if running s.sys.st ∨ s.sys.st = .failsafe then s.found 8
  else if s.sys.st = .boot ∧ s.alive then (s.addCause 8).bootFails
  else s

/-- The repair map as applied to pairs, cores and lanes (R41, R448 row 9). -/
def State.applyMap (s : State) : State :=
  let s := s.modPe (fun e => { e with roles := (List.range 16).map (fun p => if s.pairGood p then .spare else .mappedOut) })
  (s.assignBank 0).assignBank 1

/-- DEFECT_MAP_READ (R448 rows 8 and 9, R459). -/
def State.mapRead (s : State) (identityOk : Bool) : State :=
  if !s.alive || decide (s.sys.st ≠ .boot) || !s.clk.sysLock || s.pwr.mapRead then s
  else
    let s := s.bootRow 8
    if !identityOk || s.dm.mramFail then s.bootFails
    else
      let s := match s.bestMap with
        | some k => { s with dm := { s.dm with map := ((s.dm.copies.getD k none).map (fun (c : DefCopy) => c.map)).getD {}, copy := k } }
        | none => { s with dm := { s.dm with map := {}, rebuilt := true } }.stage 0x0150 2 []
      ((s.modPwr (fun p => { p with mapRead := true })).applyMap).bootRow 9

/-- SHORT_SELF_TEST_DONE (R448 row 10, R449). -/
def State.selfTested (s : State) (t : SelfTestIn) : State :=
  if !s.alive || decide (s.sys.st ≠ .boot) || !s.pwr.mapRead || s.pwr.tested then s
  else
    let s := (t.pairs.filter (fun p => decide (p < 16))).foldl (fun s p => if s.pairGood p then s.mapOutPair p 0 else s) s
    let s := (t.cores.filter (fun c => decide (c < 18))).foldl (fun s c => if s.coreGood c then s.mapOutCore c else s) s
    let s := (s.writeBothMaps.applyMap).bootRow 10
    let s := s.modPwr (fun p => { p with tested := true })
    if !t.storeOk || !(List.range 16).any s.pairGood then s.bootFails else s

/-- LEDGER_SCAN_DONE (R448 row 11). -/
def State.ledgerScanned (s : State) : State := if s.alive ∧ s.ldg.scanning then (s.scanDone).bootRow 11 else s

/-- SLOT_SELECTION (R448 row 12). -/
def State.slotsSelected (s : State) (latchFail : List Nat) : State :=
  if s.alive ∧ s.sys.st = .boot ∧ s.pwr.tested ∧ s.sch.placed = false then (s.slotSelection latchFail).bootRow 12 else s

/-- AFE_REFERENCE_SETTLED (R77, R448 row 13): the filter chain starts at a routing boundary with B = 6. -/
def State.afeSettled (s : State) : State :=
  if s.alive ∧ s.sys.st = .boot ∧ s.sch.placed ∧ s.clk.convLock ∧ s.flt.running = false then
    ({ s with flt := { s.flt with running := true } }.spoilAll 6).bootRow 13
  else s

/-- FILTER_SETTLED (R77, R448 row 14): BOOT ends in BLOCKED, with POWER_ON. -/
def State.filterSettled (s : State) : State :=
  if s.sys.st = .boot ∧ s.wordsValid then
    let ms := s.bootMs
    let s := (s.bootRow 14).modPwr (fun p => { p with toBlocked := ms })
    (s.autoState .blocked 2).stage 0x0141 0 (b1 s.pwr.cause ++ zeros 1 ++ b2 ms)
  else s

/-- WINDOWS_VALID (R448 row 15): a lone unit whose scheme enables protection enters service for the first time. -/
def State.windowsValid (s : State) : State :=
  if s.serviceDue then s.autoState .inService 2
  else s

/-! ### DORMANT (R450-R452) -/

/-- A wake (R452): BOOT from the third row. -/
def State.wakeUp (s : State) : State := s.resetFor 4 15

/-- DORMANT_ENTRY (R450, R453): captures, ring, latches, a counter block with pf, then the record; a wake that came meanwhile starts BOOT. -/
def State.dormantEntry (s : State) : State :=
  if s.sys.shutting ∧ s.pwr.pf = .none ∧ (s.sys.st = .blocked ∨ s.sys.st = .failsafe) then
    let s := ((s.capFlush.flushRing).writeLatches).writeBlock true
    let s := s.writeRecord (s.entryOf false 0x0146 0 0 []) false
    let w := s.pwr.wakeAfter
    let ot := s.pwr.ot
    let s := (s.resetTo .dormant false s.pwr.cause s.pwr.rail).modPwr (fun p => { p with dormantOt := ot, bootStep := 15 })
    if w then s.wakeUp else s
  else s

/-- PERSISTENCE_WAKE (R451). -/
def State.persistWake (s : State) (ot : Nat) : State :=
  if s.sys.st = .dormant ∧ s.pwr.held = false ∧ s.pwr.pf = .none ∧ s.pwr.ot ≤ ot then (s.modPwr (fun p => { p with ot := ot })).writeBlock false else s

/-- PWR_WAKE. -/
def State.wakeWord (s : State) : Word := s.reg 0x041C

/-- A wake event (R452, R453): in DORMANT it wakes, during the shutdown it is kept. -/
def State.wakeEvent (s : State) (bit : Nat) : State :=
  if bitAt s.wakeWord bit = false ∨ s.pwr.held then s
  else if s.sys.st = .dormant then s.wakeUp
  else if s.sys.shutting then s.modPwr (fun p => { p with wakeAfter := true })
  else s

/-- WAKE_TIMER (R452). -/
def State.wakeTimer (s : State) (ot : Nat) : State :=
  if s.sys.st = .dormant ∧ s.pwr.ot ≤ ot ∧ s.pwr.dormantOt + 1000000 * bitsOf s.wakeWord 31 8 ≤ ot then (s.modPwr (fun p => { p with ot := ot })).wakeEvent 2 else s

/-- FEED_WAKE (R452): a feed that had been out of range is back. -/
def State.feedWake (s : State) (f : Nat) : State :=
  if 2 ≤ f then s
  else if s.dark then
    if nth s.pwr.feedWasOut f then (s.modPwr (fun p => { p with feedOk := p.feedOk.set f true, feedHigh := p.feedHigh.set f false, feedSup := p.feedSup.set f true })).wakeEvent 1
    else s
  else s.wakeEvent 1

/-- A write of PWR_WAKE (R455): tmr_s = 0 leaves that field, the others are written. -/
def State.writeWake (s : State) (v : Word) : State × Bool :=
  if bitsOf v 31 8 = 0 then (s.setStored 0x041C ((v &&& 7#32) ||| (s.wakeWord &&& 0xFFFFFF00#32)), true)
  else (s.setStored 0x041C (v &&& 0xFFFFFF07#32), false)

/-! ### Register views (R455) -/

def State.pwrStat (s : State) : Word :=
  let p := s.pwr
  pack [(0, 1, b2n (nth p.feedOk 0)), (1, 1, b2n (nth p.feedOk 1)), (2, 1, b2n (nth p.feedHigh 0)), (3, 1, b2n (nth p.feedHigh 1)), (4, 1, b2n p.holdReady),
    (5, 1, b2n p.holdSmall), (6, 1, b2n p.holdFault), (7, 1, b2n p.restored), (8, 4, p.bootStep)]

def State.pwrReset (s : State) : Word := pack [(0, 3, s.pwr.cause), (3, 4, s.pwr.rail), (8, 8, s.pwr.hcRestarts)]

/-- PWR_OT_LO_READ (R455). -/
def State.latchOt (s : State) : State := s.modPwr (fun p => { p with otHi := pack [(0, 24, p.ot / 2 ^ 32), (24, 8, s.otQual false)] })

def State.pwrHold (s : State) : Word := pack [(0, 16, s.pwr.capUf), (16, 16, s.pwr.tCharge)]

def State.pwrBoot (s : State) : Word := pack [(0, 16, s.pwr.toBlocked), (16, 16, s.pwr.toService)]

end Sys2Proof.Machine
end

