-- ==== Sys2Proof/Machine/Jobs.lean ====
section
/-! DEFINITION. Jobs: submission, refusal, cancel, the rounds of the HC and what a step of each job does (R61, R115, R182, R235, R265, R282, R290, R348, R398-R403, R464). -/

namespace Sys2Proof.Machine

def State.modJob (s : State) (f : Jobs → Jobs) : State := { s with job := f s.job }

/-! ### The job table (R399) -/

/-- Classes that may submit a job, bit 0 HOST, 1 CHAIN, 2 NET; 0 for a code that is no job. -/
def jobClasses (code : Nat) : Nat :=
  if code ∈ [1, 2, 3, 7, 8, 10] then 3
  else if code ∈ [4, 5, 9, 11] then 1
  else if code = 6 then 7
  else 0

/-- A class has the rights of a mask: DEBUG those of HOST while DBG_EN was high at reset (R393). -/
def State.classIn (s : State) (cls : KeyClass) (mask : Nat) : Bool :=
  mask.testBit (clsIx cls) || (decide (cls = .debug) && s.key.dbgEn && mask.testBit 0)

/-- The argument lies in its range. -/
def State.jobArgOk (s : State) (code arg : Nat) : Bool :=
  if code ∈ [6, 7] then decide (arg < 16)
  else if code = 8 then decide (1 ≤ arg ∧ arg ≤ 3)
  else if code = 9 then decide (arg ≤ 1)
  else if code = 11 then s.sch.cfg.insts.any (fun c => decide (c.num = arg ∧ c.kind = 0x1A))
  else decide (arg = 0)

/-- The module's state forbids the job (R27, R61, R400). -/
def State.jobState (s : State) (code : Nat) : Bool :=
  s.actSpan || (decide (code = 2 ∨ code = 3) && (decide (s.sys.st ≠ .inService ∧ s.sys.st ≠ .blocked) || (decide (s.sys.st = .inService) && s.tripAsserted)))
    || (decide (code = 8) && decide (s.sys.st ≠ .blocked))

/-- A conflicting job is outstanding (R241, R400). -/
def State.jobBusy (s : State) (code arg : Nat) : Bool :=
  (decide (code ≤ 3) && s.schBusy) || (decide (code = 6) && s.job.out.any (fun j => decide (j.code = 6 ∧ j.arg = arg))) ||
    (decide (code = 10 ∨ code = 8) && (s.jobOf code).isSome)

/-- The ring is open for a re-walk: at the sender of marks neither closed nor walking (R348). -/
def State.ringIsOpen (s : State) : Bool := s.chn.sender && decide (s.chn.ring ≠ 1 ∧ s.chn.ring ≠ 3)

/-- The job's own rule refuses it: a load (R235), an activation (R238), a second commission (R265), a pair (R115), a walk (R348). -/
def State.jobRefuses (s : State) (code arg : Nat) : Bool :=
  match code with
  | 1 => decide (s.loadRefusal ≠ 0)
  | 2 => decide (s.actRefusal true ≠ 0)
  | 3 => decide (s.actRefusal false ≠ 0)
  | 4 => s.ldg.commissioned
  | 7 => decide (s.bistCheck arg ≠ 0)
  | 9 => !s.pwr.rootStrap || s.ringIsOpen
  | _ => false

/-- The refusal code of a submission, 0 when it is accepted (R400). -/
def State.jobRefusal (s : State) (cls : KeyClass) (code arg : Nat) : Nat :=
  if code = 0 ∨ 11 < code then 3
  else if !s.classIn cls (jobClasses code) then 2
  else if !s.jobArgOk code arg then 4
  else if 4 ≤ s.job.out.length then 5
  else if s.jobState code then 6
  else if s.jobBusy code arg then 7
  else if s.jobRefuses code arg then 8
  else 0

/-! ### Submission (R398, R400) -/

/-- JOB_TICKET of a class. -/
def State.setTicket (s : State) (cls : KeyClass) (ticket result : Nat) : State :=
  s.modJob (fun j => { j with tickets := j.tickets.set (clsIx cls) (ticket, result) })

/-- What a refusal leaves in the block's own status register (R115, R235, R238, R348, R404). -/
def State.showRefusal (s : State) (code arg r : Nat) : State :=
  match code with
  | 1 => if r = 8 then s.loadRefused else s
  | 2 => if 6 ≤ r ∧ s.actRefusal true ≠ 0 then s.actRefused true else s
  | 3 => if 6 ≤ r ∧ s.actRefusal false ≠ 0 then s.actRefused false else s
  | 7 => if r = 8 then s.bistRefuse arg (s.bistCheck arg) else if r = 4 then s.bistRefuse arg 4 else s
  | 9 => if r = 8 then s.modChn (fun c => { c with walkResult := if s.pwr.rootStrap then 3 else 4 }) else s
  | _ => s

/-- What acceptance does in the job's block: parameters are taken from their registers (R235, R238), a slot is leased (R290), a walk falls due (R348, R354). -/
def State.jobBegins (s : State) (code arg ticket : Nat) : State :=
  match code with
  | 1 => s.loadAccepted
  | 2 => s.actAccepted true ticket
  | 3 => s.actAccepted false ticket
  | 6 => s.modSlot arg (fun k => { k with lease := some ticket })
  | 9 => (s.takeRole).modChn (fun c => { c with walkDue := true, walkMode := arg })
  | _ => s

/-- The ticket after one: 0xFFFF is followed by 1. -/
def ticketNext (n : Nat) : Nat := if n = 0xFFFF then 1 else n + 1

/-- A job joins those outstanding under the next ticket (R398). -/
def State.addJob (s : State) (cls : KeyClass) (code arg : Nat) : State :=
  s.modJob (fun j => { j with out := j.out ++ [{ ticket := j.next, code := code, arg := arg, cls := cls, step := 0 }], next := ticketNext j.next })

/-- A submission: whether it is refused (R398, R400). -/
def State.submit (s : State) (cls : KeyClass) (code arg : Nat) : State × Bool :=
  let r := s.jobRefusal cls code arg
  if r ≠ 0 then ((s.showRefusal code arg r).setTicket cls 0 r, true)
  else
    let t := s.job.next
    (((s.addJob cls code arg).jobBegins code arg t).setTicket cls t 1, false)

/-! ### Cancel (R402) -/

/-- A job that R399 lets be cancelled now: an activation only before its reference tick. -/
def State.cancellable (s : State) (j : Job) : Bool :=
  decide (j.code ∈ [1, 6, 7, 8, 10]) || (decide (j.code = 2 ∨ j.code = 3) && decide (s.sch.act = .accepted))

/-- What a cancelled job leaves behind (R61, R236, R290, R399), and its end. -/
def State.stopJob (s : State) (j : Job) : State :=
  match j.code with
  | 1 => (s.loadCancelled).endJob j.ticket jobCancelled 0
  | 6 => (s.endLease j.ticket).endJob j.ticket jobDone 0
  | 7 => (s.bistCancel j.arg).endJob j.ticket jobCancelled 0
  | 8 => (s.reconnectAll).endJob j.ticket jobCancelled 0
  | 10 => s.endJob j.ticket jobCancelled 0
  | _ => (s.actCancelled).endJob j.ticket jobCancelled 0

/-- A cancel: whether it is refused. A ticket that is not outstanding counts as one that has ended. -/
def State.cancel (s : State) (cls : KeyClass) (ticket : Nat) : State × Bool :=
  match s.job.out.find? (fun j => j.ticket = ticket) with
  | none => (s.setTicket cls ticket 1, false)
  | some j =>
    if !(decide (j.cls = cls) || s.classIn cls 1) then (s.setTicket cls 0 2, true)
    else if !s.cancellable j then (s.setTicket cls 0 8, true)
    else ((s.stopJob j).setTicket cls ticket 1, false)

/-- A write of JOB_SUBMIT: whether the value is refused. -/
def State.writeSubmit (s : State) (cls : KeyClass) (v : Word) : State × Bool :=
  let code := bitsOf v 7 0
  let arg := bitsOf v 23 8
  if code = 0 then (s, false) else if code = 0xFF then s.cancel cls arg else s.submit cls code arg

/-! ### Steps (R401) -/

/-- Module-started jobs in the round: the capture write, the self-test of an isolated pair (R288, R112, R398). -/
def State.moduleJobs (s : State) : List Nat :=
  (if s.cap.writing then [0x10000] else []) ++ (if s.pe.tests.any (fun t => decide (t.2 = TestKind.isolation)) then [0x10001] else [])

/-- The jobs of a round in order. -/
def State.jobOrder (s : State) : List Nat := s.moduleJobs ++ s.job.out.map (fun j => j.ticket)

/-- The job that has the next step, and the round after it. -/
def State.nextStepOf (s : State) : Option (Nat × List Nat) :=
  match s.jobOrder.find? (fun t => t ∉ s.job.round) with
  | some t => some (t, s.job.round ++ [t])
  | none => s.jobOrder.head?.map (fun (t : Nat) => (t, [t]))

/-- Banks that a calibration names. -/
def calBanks (arg : Nat) : List Nat := (List.range 2).filter (fun b => arg.testBit b)

/-- What the next step of a job does in its block; activations and walks go on at their own events. -/
def State.stepJob (s : State) (j : Job) (i : JobIn) : State :=
  match j.code with
  | 1 => s.loadStep j
  | 4 => { s with ldg := { s.ldg with commissioned := true } }.endJob j.ticket jobDone 0
  | 5 => (s.clearLedger).endJob j.ticket jobDone 0
  | 7 => if j.step = 0 then s.bistStart j.arg else s.modPe (fun e => if e.bistPair = j.arg then { e with bistStep := satInc 65535 e.bistStep } else e)
  | 8 =>
    let s := s.foreground (nth (calBanks j.arg) (j.step / calSteps)) (j.step % calSteps) i
    if j.step + 1 < calSteps * (calBanks j.arg).length then s else s.endJob j.ticket jobDone 0
  | 10 =>
    let here := fun o : Nat => decide (o / 1024 = j.step)
    let s := s.mramScrub (i.corrected.filter here) (i.uncorrectable.filter here)
    if j.step + 1 < 16384 then s else s.endJob j.ticket jobDone 0
  | 11 => (s.wearReset j.arg).endJob j.ticket jobDone 0
  | _ => s

/-- One more step of a job has been taken (R401). -/
def State.countStep (s : State) (t : Nat) : State :=
  s.modJob (fun x => { x with out := x.out.map (fun (k : Job) => if k.ticket = t then { k with step := k.step + 1 } else k) })

/-- JOB_STEP (R401): the HC runs, and no power fail stands. -/
def State.jobStep (s : State) (i : JobIn) : State :=
  if s.alive = false ∨ s.pwr.pf ≠ PfStage.none then s
  else
    match s.nextStepOf with
    | none => s
    | some (t, round) =>
      let s := s.modJob (fun j => { j with round := round })
      if t = 0x10000 then s.capStep
      else if t = 0x10001 then s
      else
        match s.job.out.find? (fun j => j.ticket = t) with
        | none => s
        | some j => (s.countStep t).stepJob j i

/-! ### Register views (R406) -/

/-- JOB_TICKET of a class. -/
def State.jobTicket (s : State) (cls : KeyClass) : Word :=
  let t := s.job.tickets.getD (clsIx cls) (0, 0)
  pack [(0, 16, t.1), (16, 8, t.2)]

/-- JOB_STATUS of a class's selected ticket (R403): state and reason. -/
def State.jobStatus (s : State) (cls : KeyClass) : Word :=
  let t := bitsOf (s.reg (bankKey 0x1008 (clsIx cls))) 15 0
  match s.job.out.find? (fun j => j.ticket = t), s.job.hist.find? (fun j => j.ticket = t) with
  | some j, _ => pack [(0, 16, t), (16, 4, if j.step = 0 then 1 else 2)]
  | none, some e => pack [(0, 16, t), (16, 4, e.state), (20, 8, e.reason)]
  | none, none => pack [(0, 16, t)]

/-- JOB_SLOTS: a step is one command, so no ticket's step runs between two commands. -/
def State.jobSlots (s : State) : Word := pack [(0, 3, s.job.out.length), (3, 1, b2n (!s.moduleJobs.isEmpty))]

end Sys2Proof.Machine
end

