-- ==== Sys2Proof/Machine/Regs.lean ====
section
/-! DEFINITION. Registers as transactions see them: the value of every word, the keyway, and the one operation by which a write of a register is judged and applied (R8, R9, R384-R397, R488, and the register tables of every chapter). -/

namespace Sys2Proof.Machine

/-! ### Copies per class (R395) -/

/-- Registers that exist once per class and stand in the register file. -/
def perClass (a : Nat) : Bool := decide (a ∈ [0x0C00, 0x1008, 0x3010, 0x3020, 0x3408])

/-- Key of a register for a class. -/
def regKey (cls : KeyClass) (a : Nat) : Nat := if perClass a then bankKey a (clsIx cls) else a

/-! ### What an address names (R392) -/

/-- A register or one of the windows. -/
inductive Target where
  | reg (r : RegRow)
  | ledgerWin
  | transferWin
  | captureWin
  | probeWin
  deriving DecidableEq, Repr, Inhabited

/-- The target of a word address; none where the address is in no register. -/
def targetOf (a : Nat) : Option Target :=
  if a % 4 ≠ 0 then none
  else if a < 0x8000 then (rowOf a).map Target.reg
  else if a < 0x8100 then some .ledgerWin
  else if 0x9000 ≤ a ∧ a < 0xA000 then some .transferWin
  else if 0xA000 ≤ a ∧ a < 0xB000 then some .captureWin
  else if 0xC000 ≤ a ∧ a < 0x10000 then some .probeWin
  else none

/-- Classes to which the ROM keyway grants reads and writes, as a mask (R394). -/
def romRead : Target → Nat
  | .transferWin => 3
  | _ => 15

def romWrite : Target → Nat
  | .reg r => r.classes
  | .transferWin => 3
  | _ => 0

/-- The word has a writable field. -/
def writable : Target → Bool
  | .reg r => decide (r.mask ≠ 0)
  | .transferWin => true
  | _ => false

/-! ### Keyway (R229, R393-R397) -/

/-- An entry in effect covers an address. -/
def KeyEntry.covers (e : KeyEntry) (a : Nat) : Bool := decide (e.first ≤ a ∧ a ≤ e.last)

/-- A class has a right: the ROM table's, narrowed by every entry that covers the address for the operation (bit 0 of the flags reads, bit 1 writes). -/
def State.may (s : State) (cls : KeyClass) (a rom op : Nat) : Bool :=
  s.classIn cls rom && s.key.entries.all (fun e => !(e.covers a && e.flags.testBit op) || e.mask.testBit (clsIx cls))

/-- The classes in their order. -/
def classes : List KeyClass := [.host, .chain, .net, .debug]

/-- KEY_RIGHTS of an address: no class has a right at an address in no register. -/
def State.rightsOf (s : State) (a : Nat) : Word :=
  match targetOf a with
  | none => pack [(9, 1, 1)]
  | some t => pack [(0, 4, maskOf (classes.map (fun c => s.may c a (romRead t) 0))), (4, 4, maskOf (classes.map (fun c => s.may c a (romWrite t) 1))),
      (8, 1, b2n (s.key.entries.any (fun e => e.covers a)))]

/-! ### Values of the words -/

/-- SYS_LAST. -/
def State.sysLast (s : State) : Word := pack [(0, 8, s.host.lastStatus), (8, 8, s.host.lastCmd), (16, 16, s.host.lastAddr)]

def State.viewSys (s : State) (a : Nat) : Word :=
  if a = 0x0000 then pack [(0, 16, 0x6340), (16, 4, Config.rev), (20, 4, Config.grade), (24, 8, Config.rom)]
  else if a = 0x0004 then s.sysState
  else if a = 0x0008 then s.sysTick
  else if a = 0x000C then BitVec.ofNat 32 s.sys.ticks
  else if a = 0x0010 then s.sys.irq
  else if a = 0x0018 then s.sys.nme
  else if a = 0x0020 then pack [(0, 8, s.host.crcErr), (8, 8, s.host.frameErr), (16, 8, s.host.badCmd)]
  else if a = 0x0024 then s.sysLast
  else if a = 0x0040 then s.defStat
  else if a = 0x0054 then s.defLane
  else if a = 0x0058 then s.defEcc
  else if a = 0x0014 then s.reg a
  else s.defPairTr ((a - 0x0044) / 4)

def State.viewPwr (s : State) (a : Nat) : Word :=
  if a = 0x0400 then s.pwrStat
  else if a = 0x0404 then s.pwrReset
  else if a = 0x0408 then BitVec.ofNat 32 s.pwr.pcc
  else if a = 0x040C then BitVec.ofNat 32 s.pwr.ot
  else if a = 0x0410 then s.pwr.otHi
  else if a = 0x0414 then s.pwrHold
  else if a = 0x041C then s.wakeWord
  else if a = 0x0420 then s.pwrBoot
  else 0

def State.viewClk (s : State) (a : Nat) : Word :=
  if a = 0x0800 then s.reg a &&& 3#32
  else if a = 0x0804 then s.clkStat
  else if a = 0x0808 then s.clkRef
  else if a = 0x080C then s.clkTrim
  else if a = 0x0810 then s.clkOp
  else if a = 0x0814 then s.clkGate
  else if a = 0x0818 then s.clkGateStat
  else if a = 0x0820 then s.clkMeas
  else if a = 0x0824 then BitVec.ofNat 32 s.clk.measCnt
  else s.reg a

def State.viewKey (s : State) (cls : KeyClass) (a : Nat) : Word :=
  if a = 0x0C04 then s.rightsOf (bitsOf (s.reg (regKey cls 0x0C00)) 15 0)
  else if a = 0x0C08 then pack [(0, 1, b2n s.key.dbgEn), (2, 2, clsIx cls), (8, 8, s.key.entries.length)]
  else if a = 0x0C0C then pack ((List.range 4).map (fun i => (8 * i, 8, nth s.key.refused i)))
  else s.reg (regKey cls a)

def State.viewJob (s : State) (cls : KeyClass) (a : Nat) : Word :=
  if a = 0x1004 then s.jobTicket cls
  else if a = 0x1008 then s.jobStatus cls
  else if a = 0x100C then s.jobSlots
  else 0

def State.viewAfe (s : State) (a : Nat) : Word :=
  if a = 0x1448 ∨ a = 0x144C then s.bankStat ((a - 0x1448) / 4)
  else if a = 0x1450 ∨ a = 0x1454 then s.bankMap ((a - 0x1450) / 4)
  else if a = 0x1458 then s.chStat
  else if a = 0x1464 then s.coreInfo
  else if a = 0x1468 then s.coreCal
  else if a = 0x1474 then s.pilotMeas
  else s.regSeen a

def State.viewFlt (s : State) (a : Nat) : Word :=
  if a = 0x1804 then s.fltStat
  else if a = 0x1808 then pack [(0, 23, gdNs s.flt.eff)]
  else if a = 0x180C then s.fltChQ
  else if 0x1840 ≤ a then s.word ((a - 0x1840) / 4)
  else s.reg a

def State.viewAux (s : State) (a : Nat) : Word :=
  if a = 0x1C04 then s.auxStat
  else if a = 0x1C24 then 0
  else if 0x1CE0 ≤ a ∧ a < 0x1D60 then s.auxResult ((a - 0x1CE0) / 4)
  else if 0x1D60 ≤ a then s.injResult ((a - 0x1D60) / 4)
  else s.reg a

def State.viewPe (s : State) (a : Nat) : Word :=
  if a = 0x2000 then s.peStat
  else if a = 0x2004 then s.pairStat
  else if a = 0x2008 then s.peMapLo
  else if a = 0x200C then s.peMapHi
  else if a = 0x2014 then s.peBudget
  else if a = 0x2018 then s.repairCnt
  else if a = 0x201C then s.bistStat
  else if a = 0x2020 then s.peCode
  else if a = 0x2034 then BitVec.ofNat 32 s.pe.probeSeq
  else s.reg a

def State.viewSch (s : State) (a : Nat) : Word :=
  if a = 0x2400 then s.schStat
  else if a = 0x2404 then s.schGen
  else if a = 0x2408 ∨ a = 0x240C then s.schSlotGen ((a - 0x2408) / 4)
  else if a = 0x2410 then s.schSlotStat
  else if a = 0x241C then s.schXferStat
  else if a = 0x2420 then s.schLoadStat
  else if a = 0x2424 then s.schLoadPos
  else if a = 0x242C then s.schActStat
  else if a = 0x2430 then s.schGroup
  else if a = 0x2434 then s.schTplCtl
  else if a = 0x243C then s.schParam
  else s.reg a

def State.viewFst (s : State) (a : Nat) : Word :=
  if a = 0x2810 then s.cmpStat
  else if a = 0x2814 then BitVec.ofNat 32 s.selArrival.sec
  else if a = 0x2818 then pack [(0, 30, s.selArrival.tenths / 10)]
  else if a = 0x281C then s.twQ
  else if a = 0x2820 then s.fstStat
  else if 0x2A80 ≤ a then s.xassert ((a - 0x2A80) / 4)
  else s.regSeen ((s.fastKey a).getD a)

def State.viewFio (s : State) (a : Nat) : Word :=
  if a = 0x2C00 then s.fioStat
  else if a = 0x2C04 then s.fioSupply
  else if a = 0x2C80 then s.diStat
  else if a = 0x2C88 then BitVec.ofNat 32 s.diSel.sec
  else if a = 0x2C8C then s.diTsUs
  else if 0x2D00 ≤ a ∧ a < 0x2D40 then s.doStat ((a - 0x2D00) / 4)
  else if a = 0x2D40 then s.doFault
  else if a = 0x2D48 ∨ a = 0x2D4C then s.tcsReg ((a - 0x2D48) / 4)
  else if a = 0x2D50 then s.couplerReg
  else s.regSeen a

/-- The code that LDG_RATE_SEL of a class selects. -/
def State.rateSel (s : State) (cls : KeyClass) : Nat := bitsOf (s.reg (regKey cls 0x3020)) 10 0

def State.viewLdg (s : State) (cls : KeyClass) (a : Nat) : Word :=
  let c := nth s.ldg.cursors (clsIx cls)
  let w := s.windowBytes cls
  let b := s.bucket (s.rateSel cls)
  let r := s.rate (s.rateSel cls)
  if a = 0x3000 then pack [(0, 1, b2n s.ldg.commissioned), (1, 1, b2n s.ldg.firstFull), (2, 1, b2n s.ldg.scanning),
      (3, 1, b2n (decide (s.ldg.ovLow ≠ 0 ∨ s.ldg.ovHigh ≠ 0))), (4, 10, s.ldg.ring.length)]
  else if a = 0x3004 then BitVec.ofNat 32 s.ldg.nextSeq
  else if a = 0x3008 then BitVec.ofNat 32 s.oldestSeq
  else if a = 0x300C then BitVec.ofNat 32 s.ldg.floor
  else if a = 0x3014 then pack [(4, 3, s.cursorStatus c), (7, 1, b2n (decide (c.op ≠ 0))), (8, 1, b2n c.area)]
  else if a = 0x3018 then BitVec.ofNat 32 (field w 8 4)
  else if a = 0x301C then pack [(0, 9, field w 0 2), (16, 16, field w 2 2)]
  else if a = 0x3024 then pack [(0, 8, r.1), (8, 16, r.2)]
  else if a = 0x3028 then pack [(0, 16, min 65535 b.pending), (16, 16, b.summaries)]
  else if a = 0x302C then pack [(0, 16, s.ldg.lostLow), (16, 16, s.ldg.lostHigh)]
  else s.reg (regKey cls a)

def State.viewCap (s : State) (cls : KeyClass) (a : Nat) : Word :=
  if a = 0x3400 then s.capStat
  else if a = 0x3408 then s.reg (regKey cls a)
  else if a = 0x340C then s.slotInfo cls
  else if a = 0x3410 then s.slotNum cls
  else 0

def State.viewPtp (s : State) (a : Nat) : Word :=
  if a = 0x3800 then s.ptpCtlView
  else if a = 0x3804 then s.ptpStat
  else if a = 0x3808 then BitVec.ofNat 32 s.ptp.latchHi
  else if a = 0x380C then BitVec.ofNat 32 (wallAt s.ptp s.pwr.ot).1
  else if a = 0x3810 then BitVec.ofNat 32 s.ptp.latchNs
  else if a = 0x3814 then BitVec.ofNat 32 s.ptp.latchFrac
  else if a = 0x3818 then sat32 s.ptp.offset
  else if a = 0x381C then s.ptpPath
  else if a = 0x3820 then s.ptpFreq
  else if a = 0x3828 then 0
  else if a = 0x3848 then s.ptpGm
  else s.reg a

def State.viewSvc (s : State) (a : Nat) : Word :=
  if a < 0x3C08 then s.macReg ((a - 0x3C00) / 4)
  else if a = 0x3C08 then s.prpReg
  else if a = 0x3C14 then s.ctxStat
  else if a = 0x3C18 then s.ctxCnt
  else if a = 0x3C1C then s.ctxErr
  else if 0x3C20 ≤ a ∧ a < 0x3C30 then s.pubDelay ((a - 0x3C20) / 4)
  else if 0x3C30 ≤ a then s.ctxValid ((a - 0x3C30) / 4)
  else s.reg a

/-- CHN_XCP_DATA_0 is live; the others are as its latest read latched them (R361). -/
def State.viewChn (s : State) (a : Nat) : Word :=
  if a = 0x4000 then s.chnStat
  else if a = 0x4008 ∨ a = 0x400C then s.chnPort ((a - 0x4008) / 4)
  else if a = 0x4010 ∨ a = 0x4014 then s.chnErr ((a - 0x4010) / 4)
  else if a = 0x4018 then delayReg s.chn.tr s.chn.measured
  else if a = 0x401C then delayReg s.chn.d1 s.chn.measured
  else if a = 0x4020 ∨ a = 0x4024 then s.chnMembers ((a - 0x4020) / 4)
  else if a = 0x4028 then s.chnWalk
  else if a = 0x402C then s.chnXstat
  else if a = 0x4034 then s.rmtCmd
  else if a = 0x4038 then (s.mbox s.mboxSel).data
  else if a = 0x403C then s.rmtStat
  else if a = 0x4050 then s.xcpWord 0
  else if 0x4050 < a then nth s.chn.xcp ((a - 0x4050) / 4)
  else s.reg a

def State.viewHng (s : State) (a : Nat) : Word :=
  if a = 0x4400 then s.hngCtl
  else if a = 0x4404 then s.hngStat
  else if a = 0x4408 then s.hngDigest
  else if a = 0x440C then s.hngPeerDigest
  else if a = 0x4410 then s.hngAnchor
  else s.hngTakeover

/-- The value of a register for a class, before what the read itself does. -/
def State.regView (s : State) (cls : KeyClass) (a : Nat) : Word :=
  match a / 0x400 with
  | 0 => s.viewSys a
  | 1 => s.viewPwr a
  | 2 => s.viewClk a
  | 3 => s.viewKey cls a
  | 4 => s.viewJob cls a
  | 5 => s.viewAfe a
  | 6 => s.viewFlt a
  | 7 => s.viewAux a
  | 8 => s.viewPe a
  | 9 => s.viewSch a
  | 10 => s.viewFst a
  | 11 => s.viewFio a
  | 12 => s.viewLdg cls a
  | 13 => s.viewCap cls a
  | 14 => s.viewPtp a
  | 15 => s.viewSvc a
  | 16 => s.viewChn a
  | _ => s.viewHng a

/-- The value of a word. -/
def State.wordView (s : State) (cls : KeyClass) (a : Nat) : Target → Word
  | .reg _ => s.regView cls a
  | .ledgerWin => BitVec.ofNat 32 (field (s.windowBytes cls) (a - 0x8000) 4)
  | .transferWin => s.windowWord a
  | .captureWin => s.capWindow cls a
  | .probeWin => s.probeWord a

/-- What a read does besides answering: three registers latch others (R323, R361, R455). -/
def State.readEffect (s : State) (a : Nat) : State :=
  if a = 0x380C then s.latchTime
  else if a = 0x4050 then s.latchXcp
  else if a = 0x040C then s.latchOt
  else s

/-! ### Writes that a register's own rule judges -/

/-- AFE_CHn_CFG (R58, R74, R488): pilot_excl at once, the gain at its boundary; refused in an activation's BLOCKED span (R241). -/
def State.writeChan (s : State) (c : Nat) (v : Word) : State × Bool :=
  if s.actSpan then (s, true)
  else
    let a := 0x1400 + 4 * c
    let old := bitAt (s.reg a) 2
    let g := bitsOf v 1 0
    let s := s.setStored a (v &&& 7#32)
    let s := if bitAt v 2 && !old then s.exclude c else s
    (s.modAfeCh c (fun x => { x with gainPend := if g = x.gain then none else some g }), false)

/-- The value of AFE_BANK_CTL keeps its ranges. -/
def bankCtlOk (v : Word) : Bool := decide (bitsOf v 3 0 ≤ 8 ∧ 2 ≤ bitsOf v 15 8 ∧ bitsOf v 15 8 ≤ 100 ∧ 2 ≤ bitsOf v 23 16 ∧ bitsOf v 23 16 ≤ 100)

/-- AFE_BANK_CTL (R241, R488). -/
def State.writeBank (s : State) (a : Nat) (v : Word) : State × Bool :=
  if s.actSpan || !bankCtlOk v then (s, true)
  else
    let v := v &&& 0x00FFFF3F#32
    ((s.deferReg a v).store a v, false)

/-- AUX_CTL: cal_int 0 leaves that field; lp is written. -/
def State.writeAuxCtl (s : State) (v : Word) : State × Bool :=
  let bad := decide (bitsOf v 15 8 = 0)
  let keep := bitsOf (s.reg 0x1C00) 15 8
  (s.setStored 0x1C00 (pack [(0, 1, bitsOf v 0 0), (8, 8, if bad then keep else bitsOf v 15 8)]), bad)

/-- LDG_RATE of the code a class selects: values outside the ranges refuse the whole write; a bucket above the new depth is cut to it. -/
def State.writeRate (s : State) (cls : KeyClass) (v : Word) : State × Bool :=
  let d := bitsOf v 7 0
  let r := bitsOf v 23 8
  if d = 0 ∨ r = 0 ∨ 60000 < r then (s, true)
  else
    let code := s.rateSel cls
    let b := s.bucket code
    let left := (s.rate code).1 - b.lacks
    ((s.setStored (bankKey 0x3024 code) (pack [(0, 8, d), (8, 16, r)])).setBucket code { b with lacks := d - left }, false)

/-- CHN_RMT_CMD and CHN_RMT_DATA: ignored while the mailbox is busy. -/
def State.writeRmt (s : State) (f : Mailbox → Mailbox) : State := if (s.mbox s.mboxSel).busy then s else s.modMbox s.mboxSel f

/-- CHN_RMT_STAT go (R358): a transaction is placed in the next management slot with a new tag; a unit that does not send the marks reads not_root, target 0 or its own address bad_target. -/
def State.remoteGo (s : State) : State :=
  let m := s.mboxSel
  let b := s.mbox m
  if b.busy then s
  else if !s.chn.sender then s.modMbox m (fun x => { x with status := 5 })
  else if b.target = 0 ∨ b.target = s.chn.addr then s.modMbox m (fun x => { x with status := 6 })
  else s.modMbox m (fun x => { x with tag := (x.tag + 1) % 256, busy := true, due := true, age := 0, status := 1 })

/-- A plain register: its writable bits, stored when it is restored from MRAM. -/
def State.writePlain (s : State) (cls : KeyClass) (a : Nat) (v : Word) : State :=
  match rowOf a with
  | none => s
  | some r =>
    let w := v &&& BitVec.ofNat 32 r.mask
    if r.kept ≠ 0 then s.setStored (regKey cls a) w else s.setReg (regKey cls a) w

/-- A plain register whose value must lie in a range. -/
def State.writeIf (s : State) (ok : Bool) (cls : KeyClass) (a : Nat) (v : Word) : State × Bool := if ok then (s.writePlain cls a v, false) else (s, true)

/-- Bits cleared by writing 1 to them. -/
def clearBits (old v : Word) : Word := old &&& ~~~v

/-! ### The write of a register -/

def State.applySys (s : State) (cls : KeyClass) (a : Nat) (v : Word) : State × Bool :=
  if a = 0x0004 then s.writeReq (bitsOf v 7 4)
  else if a = 0x0010 then ({ s with sys := { s.sys with irq := clearBits s.sys.irq v } }, false)
  else if a = 0x0018 then ({ s with sys := { s.sys with nme := clearBits s.sys.nme v } }, false)
  else (s.writePlain cls a v, false)

def State.applyPwr (s : State) (a : Nat) (v : Word) : State × Bool :=
  if a = 0x0400 then (if bitAt v 7 then s.modPwr (fun p => { p with restored := false }) else s, false)
  else if a = 0x0418 then s.writePwrCtl v
  else s.writeWake v

def State.applyClk (s : State) (a : Nat) (v : Word) : State × Bool :=
  if a = 0x0800 then s.writeClkCfg v
  else if a = 0x0804 then (if bitAt v 15 then s.modClk (fun c => { c with muxForced := false }) else s, false)
  else if a = 0x0810 then s.writeOp v
  else if a = 0x0814 then s.writeGate v
  else if a = 0x081C then s.writeClkOut v
  else s.writeMeas v

def State.applyAfe (s : State) (cls : KeyClass) (a : Nat) (v : Word) : State × Bool :=
  if a < 0x1440 then s.writeChan ((a - 0x1400) / 4) v
  else if a = 0x1440 ∨ a = 0x1444 then s.writeBank a v
  else if a = 0x1460 then s.writeIf (decide (bitsOf v 4 0 < 18)) cls a v
  else (s.writePlain cls a v, false)

def State.applyAux (s : State) (cls : KeyClass) (a : Nat) (v : Word) : State × Bool :=
  if a = 0x1C00 then s.writeAuxCtl v
  else if a = 0x1C24 then (if bitAt v 0 then s.injTrigger 2 else s, false)
  else if 0x1C60 ≤ a then s.writeIf (decide (bitsOf v 15 0 ≤ bitsOf v 31 16)) cls a v
  else (s.writePlain cls a v, false)

def State.applySch (s : State) (cls : KeyClass) (a : Nat) (v : Word) : State × Bool :=
  if a = 0x2414 then s.writeLoadCtl v
  else if a = 0x2418 then (s.writeXfer v, false)
  else if a = 0x2428 then s.writeActCtl v
  else if a = 0x2430 then s.writeGroup v
  else if a = 0x2434 then s.writeTplCtl v
  else if a = 0x243C then s.writeParam v
  else (s.writePlain cls a v, false)

def State.applyFst (s : State) (cls : KeyClass) (a : Nat) (v : Word) : State × Bool :=
  if a = 0x2800 then (s.writePlain cls a v, false) else s.writeFast a v

def State.applyFio (s : State) (cls : KeyClass) (a : Nat) (v : Word) : State × Bool :=
  if a = 0x2C84 then (s.writePlain cls a v, false)
  else if a = 0x2D40 then (s.crossClear v, false)
  else s.writeFio a v

def State.applyLdg (s : State) (cls : KeyClass) (a : Nat) (v : Word) : State × Bool :=
  if a = 0x3014 then (s.cursorOp cls (bitsOf v 2 0), false)
  else if a = 0x3020 then s.writeIf (decide (bitsOf v 10 0 < 0x600)) cls a v
  else if a = 0x3024 then s.writeRate cls v
  else (s.writePlain cls a v, false)

def State.applyCap (s : State) (cls : KeyClass) (a : Nat) (v : Word) : State × Bool :=
  if a = 0x3404 then (s.writeCapCtl v, false)
  else if a = 0x3414 then (s.writeSlotCtl cls v, false)
  else (s.writePlain cls a v, false)

def State.applyPtp (s : State) (cls : KeyClass) (a : Nat) (v : Word) : State × Bool :=
  if a = 0x3800 then s.writePtpCtl v
  else if a = 0x3824 then s.writeIf (decide (1 ≤ bitsOf v 19 0 ∧ bitsOf v 19 0 ≤ 1000000)) cls a v
  else if a = 0x3828 then (s.writeForce v, false)
  else if a = 0x3834 then s.writeIf (decide (bitsOf v 29 0 ≤ 999999999)) cls a v
  else (s.writePlain cls a v, false)

def State.applyChn (s : State) (cls : KeyClass) (a : Nat) (v : Word) : State × Bool :=
  if a = 0x4034 then (s.writeRmt (fun x => { x with target := bitsOf v 5 0, command := bitsOf v 15 8, address := bitsOf v 31 16 }), false)
  else if a = 0x4038 then (s.writeRmt (fun x => { x with data := v }), false)
  else if a = 0x403C then (if bitAt v 0 then s.remoteGo else s, false)
  else (s.writePlain cls a v, false)

/-- The effect of a write that the keyway allows on a register with a writable field: whether the value is refused. -/
def State.applyReg (s : State) (cls : KeyClass) (a : Nat) (v : Word) : State × Bool :=
  match a / 0x400 with
  | 0 => s.applySys cls a v
  | 1 => s.applyPwr a v
  | 2 => s.applyClk a v
  | 4 => if a = 0x1000 then s.writeSubmit cls v else (s.writePlain cls a v, false)
  | 5 => s.applyAfe cls a v
  | 6 => s.writeFltCfg v
  | 7 => s.applyAux cls a v
  | 8 => if a = 0x2010 then s.writeIf (decide (bitsOf v 3 0 < 14)) cls a v else (s.writePlain cls a v, false)
  | 9 => s.applySch cls a v
  | 10 => s.applyFst cls a v
  | 11 => s.applyFio cls a v
  | 12 => s.applyLdg cls a v
  | 13 => s.applyCap cls a v
  | 14 => s.applyPtp cls a v
  | 16 => s.applyChn cls a v
  | 17 => s.writeHngCtl v
  | _ => (s.writePlain cls a v, false)

/-- The effect of an allowed write on a word. -/
def State.applyWord (s : State) (cls : KeyClass) (a : Nat) (v : Word) : Target → State × Bool
  | .reg _ => s.applyReg cls a v
  | .transferWin => (s.writeWindow a v, false)
  | _ => (s, false)

end Sys2Proof.Machine
end

