-- ==== Sys2Proof/Machine/Host.lean ====
section
/-! DEFINITION. Transactions: the keyway's judgement of a read and a write, host-port frames and their answers, the debug port and management frames (R309, R382-R397, R404, R405). -/

namespace Sys2Proof.Machine

/-! ### A transaction on a word (R385-R388, R394-R397) -/

/-- The outcome of a transaction: answer code, value_refused, data. -/
structure Reply where
  code : Nat
  refused : Bool
  data : Word
  deriving DecidableEq, Repr, Inhabited

/-- An answer whose code is other than ok carries data 0. -/
def Reply.bad (code : Nat) : Reply := { code := code, refused := false, data := 0 }

/-- A refusal of the keyway is counted and recorded (R396). -/
def State.keyRefused (s : State) (cls : KeyClass) (op a : Nat) (v : Word) : State :=
  ({ s with key := { s.key with refused := modNth s.key.refused (clsIx cls) (satInc 255) } }).stage 0x0120 1 (b1 (clsIx cls) ++ b1 op ++ b2 a ++ b4 v.toNat)

/-- A read of a word. -/
def State.busRead (s : State) (cls : KeyClass) (a : Nat) (v : Word) : State × Reply :=
  match targetOf a with
  | none => (s, .bad 4)
  | some t =>
    if s.may cls a (romRead t) 0 then (s.readEffect a, { code := 0, refused := false, data := s.wordView cls a t })
    else (s.keyRefused cls 0 a v, .bad 1)

/-- Words that BOOT lets be written: SYS_IRQ_STAT, SYS_IRQ_MASK, SYS_NME_STAT (R388). -/
def bootWrites : List Nat := [0x0010, 0x0014, 0x0018]

/-- A write of a word; the answer carries what the word holds after it. -/
def State.busWrite (s : State) (cls : KeyClass) (a : Nat) (v : Word) : State × Reply :=
  match targetOf a with
  | none => (s, .bad 4)
  | some t =>
    if writable t && !s.may cls a (romWrite t) 1 then (s.keyRefused cls 1 a v, .bad 1)
    else if s.sys.st = .boot ∧ a ∉ bootWrites then (s, .bad 5)
    else if writable t then
      let r := s.applyWord cls a v t
      (r.1, { code := 0, refused := r.2, data := r.1.wordView cls a t })
    else (s, { code := 0, refused := false, data := s.wordView cls a t })

/-! ### Frames (R382-R389) -/

/-- What a command byte asks on a path: a write, a read, or nothing known; the debug port knows no quad command (R383, R389). -/
def cmdOp (cls : KeyClass) (c : Nat) : Option Bool :=
  if c = 0x0B then some false
  else if c = 0x02 then some true
  else if c = 0xEB then (if cls = .debug then none else some false)
  else if c = 0x32 then (if cls = .debug then none else some true)
  else none

/-- Fields of a request, most significant byte first (R383, R384). -/
def reqCmd (f : List Byte) : Nat := beNat (slice f 0 1)

def reqAddr (f : List Byte) : Nat := beNat (slice f 1 2)

def reqData (f : List Byte) : Word := BitVec.ofNat 32 (beNat (slice f 3 4))

/-- The CRC of a request holds (R384). -/
def reqCrcOk (f : List Byte) : Bool := decide (beNat (slice f 7 2) = crc16 (slice f 0 7))

/-- HOST_FRAME_ERROR (R405): error 2, 3 or 0x0F; SYS_PORT counts those of the host port (R406). -/
def State.frameError (s : State) (cls : KeyClass) (err : Nat) : State :=
  let h := s.host
  let h := if cls ≠ .host then h
    else if err = 2 then { h with crcErr := satInc 255 h.crcErr }
    else if err = 3 then { h with badCmd := satInc 255 h.badCmd }
    else { h with frameErr := satInc 255 h.frameErr }
  { s with host := h }.stage 0x0121 1 (b1 (clsIx cls) ++ b1 err ++ zeros 6)

/-- The status byte of an answer (R386). -/
def State.statusByte (s : State) (r : Reply) : Nat := r.code + 16 * b2n r.refused + 64 * b2n s.irqOut + 128 * b2n s.nmeOut

/-- An answer's nine bytes (R384, R385). -/
def answerBytes (status a : Nat) (data : Word) : List Byte :=
  let b := b1 status ++ (b2 a).reverse ++ (b4 data.toNat).reverse
  b ++ (b2 (crc16 b)).reverse

/-- Execution of a request whose nine bytes came: its outcome by the order of R387, and whether it was executed. -/
def State.perform (s : State) (cls : KeyClass) (f : List Byte) : State × Reply × Bool :=
  let pf := decide (s.pwr.pf ≠ PfStage.none)
  if !reqCrcOk f then (s.frameError cls 2, .bad (if pf then 6 else 2), false)
  else
    match cmdOp cls (reqCmd f) with
    | none => (s.frameError cls 3, .bad (if pf then 6 else 3), false)
    | some w =>
      if pf then (s, .bad 6, false)
      else
        let r := if w then s.busWrite cls (reqAddr f) (reqData f) else s.busRead cls (reqAddr f) (reqData f)
        (r.1, r.2, true)

/-- SYS_LAST keeps the latest executed host-port request other than a read of SYS_LAST (R387, R406). -/
def State.noteLast (s : State) (cls : KeyClass) (f : List Byte) (status : Nat) (done : Bool) : State :=
  if done ∧ cls = .host ∧ ¬(cmdOp cls (reqCmd f) = some false ∧ reqAddr f = 0x0024) then
    { s with host := { s.host with lastStatus := status, lastCmd := reqCmd f, lastAddr := reqAddr f } }
  else s

/-- A nine-byte request is served: the state after it and the answer. -/
def State.serve (s : State) (cls : KeyClass) (f : List Byte) : State × List Byte :=
  let r := s.perform cls f
  let st := r.1.statusByte r.2.1
  (r.1.noteLast cls f st r.2.2, answerBytes st (reqAddr f) r.2.1.data)

/-- The path carries frames: the port answers from the boot ROM on, the debug port while its leaf runs (R388, R422). -/
def State.pathUp (s : State) (cls : KeyClass) : Bool := s.alive && (decide (cls ≠ .debug) || nth s.clk.leaf 4)

/-- A frame of nine bytes whose command byte is one of a row's; the answer goes back on its path. -/
def State.frame (s : State) (cls : KeyClass) (f : List Byte) (mine : Bool) : State :=
  if s.pathUp cls && decide (f.length = 9) && mine then
    let r := s.serve cls f
    { r.1 with host := { r.1.host with answer := some (cls, r.2) } }
  else s

/-- HOST_READ, HOST_WRITE, HOST_QUAD_READ, HOST_QUAD_WRITE, each for its command byte. -/
def State.frameOf (s : State) (cmd : Nat) (cls : KeyClass) (f : List Byte) : State := s.frame cls f (decide (reqCmd f = cmd))

/-- BAD_COMMAND (R387): a command byte that the path does not know. -/
def State.badFrame (s : State) (cls : KeyClass) (f : List Byte) : State := s.frame cls f (cmdOp cls (reqCmd f)).isNone

/-- FRAME_ENDED_SHORT (R387). -/
def State.shortFrame (s : State) (cls : KeyClass) (n : Nat) : State := if s.pathUp cls ∧ n < 9 then s.frameError cls 0x0F else s

/-! ### Rows that are the write or the read of one register -/

/-- A write of a register as a command of its own: what a frame, a remote transaction or a management frame would execute, without the frame. -/
def State.write (s : State) (cls : KeyClass) (a : Nat) (v : Word) : State :=
  if s.pathUp cls ∧ s.pwr.pf = PfStage.none then (s.busWrite cls a v).1 else s

/-- A read of a register as a command of its own. -/
def State.read (s : State) (cls : KeyClass) (a : Nat) : State :=
  if s.pathUp cls ∧ s.pwr.pf = PfStage.none then (s.busRead cls a 0).1 else s

/-- A job's submission. -/
def State.submitJob (s : State) (cls : KeyClass) (code arg : Nat) : State := s.write cls 0x1000 (pack [(0, 8, code), (8, 16, arg)])

/-! ### Management frames (R309) -/

/-- Transactions served in order with class NET: the state and the answers. -/
def State.serveAll (s : State) : List (List Byte) → State × List (List Byte)
  | [] => (s, [])
  | t :: r =>
    let x := s.serve .net (padTo 9 t)
    let y := x.1.serveAll r
    (y.1, x.2 :: y.2)

/-- MGMT_FRAME (R309): accepted on a MAC that SVC_MGMT admits, with as many transactions as it counts; any other frame is dropped (R307). -/
def State.mgmtFrame (s : State) (m : Nat) (f : MgmtIn) : State :=
  if !(s.macOn m && s.alive) then s
  else if bitAt (s.reg 0x3C0C) m ∧ 1 ≤ f.count ∧ f.count ≤ 32 ∧ f.count = f.txns.length then
    let r := s.serveAll f.txns
    r.1.send [.mgmt m f.src f.seq r.2]
  else s.dropFrame m

end Sys2Proof.Machine
end

