-- ==== Sys2Proof/Machine/Remote.lean ====
section
/-! DEFINITION. The management slot as it passes a unit, and remote register access (R336, R348-R351, R354, R357, R358). -/

namespace Sys2Proof.Machine

/-! ### Entries (R336, R357) -/

/-- Request entry and answer entry m of a management slot. -/
def requestIn (l : List Byte) (m : Nat) : List Byte := slice l (0x30 + 16 * m) 16

def answerIn (l : List Byte) (m : Nat) : List Byte := slice l (0xB0 + 16 * m) 16

/-- An answer entry: source, tag, status byte, a reserved byte, the nine-byte answer, three reserved bytes. -/
def answerEntry (src tag : Nat) (a : List Byte) : List Byte := b1 src ++ b1 tag ++ slice a 0 1 ++ zeros 1 ++ padTo 9 a ++ zeros 3

/-- Bytes of a list replaced from an offset on. -/
def putAt (l : List Byte) (off : Nat) (b : List Byte) : List Byte := l.take off ++ b ++ l.drop (off + b.length)

/-- A management slot with a new CRC. -/
def resealed (l : List Byte) : List Byte :=
  let b := padTo 0x3F4 l
  b ++ b4 (crc32c b)

/-! ### The target (R358) -/

/-- REMOTE_TRANSACTION (R358): the first copy of a request for this unit with a tag new for its entry is executed with class CHAIN; its answer goes into the slots of the next two cycles. -/
def State.remoteTransaction (s : State) (m : Nat) (entry : List Byte) : State :=
  let target := field entry 0 1
  let tag := field entry 1 1
  if 8 ≤ m ∨ s.chn.addr = 0 ∨ target ≠ s.chn.addr ∨ nth s.chn.tags m = tag ∨ s.chn.sender = true ∨ s.alive = false then s
  else
    let r := s.serve .chain (slice entry 4 9)
    r.1.modChn (fun c => { c with
      tags := c.tags.set m tag, answers := c.answers.filter (fun a => a.1 ≠ m) ++ [(m, answerEntry c.addr tag r.2, 3)] })

/-- Answers being written stand in their entries of a slot that passes. -/
def State.putAnswers (s : State) (l : List Byte) : List Byte := s.chn.answers.foldl (fun l a => putAt l (0xB0 + 16 * a.1) a.2.1) l

/-! ### The sender (R358) -/

/-- Status of a mailbox after an answer: done, refused by the target's keyway, or a target error. -/
def remoteStatus (a : List Byte) : Nat :=
  if field a 7 2 ≠ leNat ((b2 (crc16 (slice a 0 7))).reverse) then 7
  else
    match field a 0 1 % 16 with
    | 0 => 2
    | 1 => 3
    | _ => 7

/-- REMOTE_ANSWER (R358): the first answer with the tag of a waiting transaction ends it. -/
def State.remoteAnswer (s : State) (m : Nat) (entry : List Byte) : State :=
  let b := s.mbox m
  if 8 ≤ m ∨ b.busy = false ∨ b.due ∨ field entry 1 1 ≠ b.tag ∨ field entry 0 1 ≠ b.target then s
  else
    let a := slice entry 4 9
    let st := remoteStatus a
    s.modMbox m (fun x => { x with busy := false, status := st, data := if st = 2 then BitVec.ofNat 32 (beNat (slice a 3 4)) else x.data })

/-- REMOTE_TIMEOUT (R358): the eighth cycle from the request's ends without an answer. -/
def State.remoteTimeout (s : State) (m : Nat) : State :=
  let b := s.mbox m
  if m < 8 ∧ b.busy ∧ b.due = false ∧ 8 ≤ b.age then s.modMbox m (fun x => { x with busy := false, status := 4 }) else s

/-! ### The slot passes (R336, R348-R351, R354) -/

/-- The sender's own slot has come round: walk block on CHAIN-A, join request, answers. -/
def State.slotReturned (s : State) (p : Nat) (l : List Byte) : State :=
  let s := if p = 0 then s.walkReturn (walkOf (slice l 0x20 16)) else s
  let s := if (field l 0x15 1).testBit 0 then s.modChn (fun c => { c with walkDue := true }) else s
  (List.range 8).foldl (fun s m => s.remoteAnswer m (answerIn l m)) s

/-- A walk block passes a unit that does not send the marks: the state and the slot with the block as the unit leaves it. -/
def State.walkThrough (s : State) (p : Nat) (l : List Byte) : State × List Byte :=
  let w := walkOf (slice l 0x20 16)
  if p = 0 ∧ (w.pass = 1 ∨ w.pass = 2) then
    let r := s.walkPass w
    (r.1, putAt l 0x20 r.2.bytes)
  else (s, l)

/-- A unit at address 0 that has neither lost a conflict nor been left without an address asks to join (R351). -/
def State.askJoin (s : State) (l : List Byte) : List Byte :=
  if s.chn.addr = 0 ∧ s.chn.conflict = false ∧ s.chn.full = false then putAt l 0x15 [BitVec.ofNat 8 (field l 0x15 1 ||| 1)] else l

/-- A slot of the sender passes another unit, which takes the root block, acts on the walk block and its requests, and forwards the slot. -/
def State.slotPasses (s : State) (p : Nat) (l : List Byte) : State :=
  let r := (s.takeRoot l).walkThrough p l
  let s := (List.range 8).foldl (fun s m => s.remoteTransaction m (requestIn l m)) r.1
  let out := s.putAnswers (s.askJoin r.2)
  s.modChn (fun c => { c with mgmtOut := resealed out })

/-- A good management slot (R336): a local cycle's slot is ignored (R333); then the sender's own, another sender's, or a slot to act on and to forward. -/
def State.takeMgmt (s : State) (p : Nat) (l : List Byte) : State :=
  let a := field l 0x10 1
  if a = 0 ∧ (slice l 0x20 16).all (fun b => b = 0) then s
  else if s.chn.sender then (if a = s.chn.addr ∨ a = 0 then s.slotReturned p l else s.otherSender a)
  else
    let s := s.slotPasses p l
    s.relaySlot p 0 (s.chn.mgmtOut.map RxSym.data)

/-- A management slot that fails its check counts, and goes on with K30.7 in place of what came in error (R329, R344). -/
def State.mgmtBad (s : State) (p : Nat) (l : List RxSym) : State :=
  if s.chn.sender then s.crcFailed p else (s.crcFailed p).relaySlot p 0 l

/-- MANAGEMENT_SLOT_RECEIVED (R336). -/
def State.managementSlot (s : State) (p : Nat) (l : List RxSym) : State :=
  if !s.portUp p then s
  else
    let s := s.countSymbols p l
    match slotBytes l with
    | some b => if b.length ≠ 1016 ∨ field b 0x3F4 4 ≠ crc32c (b.take 0x3F4) then s.mgmtBad p l else s.takeMgmt p b
    | none => s.mgmtBad p l

end Sys2Proof.Machine
end

