-- ==== Sys2Proof/Machine/ExecProtection.lean ====
section
/-! DEFINITION. The meanings of the rows of the tick, the engines and the state logic (R13-R34, R95-R120, R259). -/

namespace Sys2Proof.Machine

/-- TICK (R13). -/
def execTick (i : TickIn) (s : State) : Host.Outcome State Fault Refusal := .next (s.tick i)

/-- OUTPUT_UPDATE (R15). -/
def execOutputUpdate (s : State) : Host.Outcome State Fault Refusal := .next (s.outputUpdate)

/-- PLACEMENT_COMMIT (R102). -/
def execPlacementCommit (pl cycles : Nat) (s : State) : Host.Outcome State Fault Refusal := .next (s.placementCommit pl cycles)

/-- ATTEMPT_OVERRUN (R106). -/
def execAttemptOverrun (pl cycles : Nat) (s : State) : Host.Outcome State Fault Refusal := .next (s.overrun pl cycles)

/-- PAIR_STALL (R108). -/
def execPairStall (pl gap : Nat) (s : State) : Host.Outcome State Fault Refusal := .next (s.stall pl gap)

/-- REEXECUTION_START (R109). -/
def execReexecutionStart (pl : Nat) (s : State) : Host.Outcome State Fault Refusal := .next (s.reexecStart pl)

/-- PAIR_SELFTEST_END (R112). -/
def execPairSelftestEnd (pair : Nat) (pass : Bool) (s : State) : Host.Outcome State Fault Refusal := .next (s.selftestEnd pair pass)

/-- SPARE_SELFTEST_START (R114). -/
def execSpareSelftestStart (pair : Nat) (s : State) : Host.Outcome State Fault Refusal := .next (s.spareTest pair)

/-- SELFTEST_SWAP (R115). -/
def execSelftestSwap (s : State) : Host.Outcome State Fault Refusal := .next (s.selftestSwap)

/-- REQ_BLOCKED (R28). -/
def execReqBlocked (cls : KeyClass) (s : State) : Host.Outcome State Fault Refusal := .next (s.write cls 0x0004 (pack [(4, 4, 2)]))

/-- REQ_IN_SERVICE (R28). -/
def execReqInService (cls : KeyClass) (s : State) : Host.Outcome State Fault Refusal := .next (s.write cls 0x0004 (pack [(4, 4, 3)]))

/-- REQ_TEST (R28). -/
def execReqTest (cls : KeyClass) (s : State) : Host.Outcome State Fault Refusal := .next (s.write cls 0x0004 (pack [(4, 4, 5)]))

/-- REQ_DORMANT (R28). -/
def execReqDormant (cls : KeyClass) (s : State) : Host.Outcome State Fault Refusal := .next (s.write cls 0x0004 (pack [(4, 4, 7)]))

/-- REQ_WITHDRAW (R32). -/
def execReqWithdraw (cls : KeyClass) (s : State) : Host.Outcome State Fault Refusal := .next (s.write cls 0x0004 0)

/-- REQ_BAD_CODE (R32). -/
def execReqBadCode (cls : KeyClass) (code : Nat) (s : State) : Host.Outcome State Fault Refusal := .next (if code ∈ [1, 4, 6, 8, 9, 10, 11, 12, 13, 14, 15] then s.write cls 0x0004 (pack [(4, 4, code)]) else s)

/-- REQUEST_TAKEN (R28). -/
def execRequestTaken (s : State) : Host.Outcome State Fault Refusal := .next (s.requestTaken)

/-- FAILSAFE_ENTRY (R26). -/
def execFailsafeEntry (cause : Nat) (s : State) : Host.Outcome State Fault Refusal := .next (s.failsafeEntry cause)

/-- FAILSAFE_CAUSE_CLEARED (R26). -/
def execFailsafeCauseCleared (cause : Nat) (s : State) : Host.Outcome State Fault Refusal := .next (if cause ∈ s.sys.causes then s else s.causeCleared)

/-- HEALTH_OPEN (R259). -/
def execHealthOpen (s : State) : Host.Outcome State Fault Refusal := .next (s.healthOpen)

/-- CROSSBAR_FAILURE (R26). -/
def execCrossbarFailure (s : State) : Host.Outcome State Fault Refusal := .next (s.crossbarFailure)

end Sys2Proof.Machine
end

