-- ==== Sys2Proof/Machine/ExecAfe.lean ====
section
/-! DEFINITION. The meanings of the rows of the front end, the filter chain and the auxiliary converter (R8, R35-R94). -/

namespace Sys2Proof.Machine

/-- ROTATION_STEP_START (R42). -/
def execRotationStepStart (bank : Nat) (s : State) : Host.Outcome State Fault Refusal := .next (s.rotationStart bank)

/-- HANDOVER (R44). -/
def execHandover (bank : Nat) (m : CompareIn) (s : State) : Host.Outcome State Fault Refusal := .next (s.handover bank m)

/-- CORE_CALIBRATION_END (R45). -/
def execCoreCalibrationEnd (bank : Nat) (c : CalIn) (s : State) : Host.Outcome State Fault Refusal := .next (s.calibrationEnd bank c)

/-- CORE_HARD_FAULT (R49). -/
def execCoreHardFault (core : Nat) (s : State) : Host.Outcome State Fault Refusal := .next (s.hardFault core)

/-- PILOT_WINDOW_END (R55). -/
def execPilotWindowEnd (ch : Nat) (amp ph : Rat) (s : State) : Host.Outcome State Fault Refusal := .next (s.pilotWindow ch amp ph)

/-- SUSPECT_SERVICE_START (R51). -/
def execSuspectServiceStart (bank : Nat) (s : State) : Host.Outcome State Fault Refusal := .next (s.suspectStart bank)

/-- REFDAC_CHECK (R90). -/
def execRefdacCheck (bank point : Nat) (err : Rat) (s : State) : Host.Outcome State Fault Refusal := .next (if point < 5 then s.refdacCheck bank err else s)

/-- REFDAC_RECHECK (R90). -/
def execRefdacRecheck (bank : Nat) (errs : List Rat) (s : State) : Host.Outcome State Fault Refusal := .next (s.refdacRecheck bank errs)

/-- REFDAC_RESUME (R52). -/
def execRefdacResume (bank : Nat) (s : State) : Host.Outcome State Fault Refusal := .next (s.refdacResume bank)

/-- FLT_CFG_WRITE (R65). -/
def execFltCfgWrite (cls : KeyClass) (v : Word) (s : State) : Host.Outcome State Fault Refusal := .next (s.write cls 0x1800 v)

/-- FILTER_BOUNDARY (R78). -/
def execFilterBoundary (s : State) : Host.Outcome State Fault Refusal := .next (s.filterEdge)

/-- GAIN_BOUNDARY (R75). -/
def execGainBoundary (ch : Nat) (s : State) : Host.Outcome State Fault Refusal := .next (s.gainEdge ch)

/-- SETTING_APPLY (R8). -/
def execSettingApply (s : State) : Host.Outcome State Fault Refusal := .next (s.settingApply)

/-- AUX_ENTRY_DONE (R83). -/
def execAuxEntryDone (entry : Nat) (convs : List Rat) (s : State) : Host.Outcome State Fault Refusal := .next (if s.auxSeek.auxEntryGo entry convs then s.auxSeek.auxEntry entry convs else s)

/-- AUX_INJ_TRIG_GO (R85). -/
def execAuxInjTrigGo (cls : KeyClass) (s : State) : Host.Outcome State Fault Refusal := .next (s.write cls 0x1C24 1)

/-- INJECTED_GROUP_START (R85). -/
def execInjectedGroupStart (s : State) : Host.Outcome State Fault Refusal := .next (s.injStart)

/-- INJECTED_GROUP_DONE (R86). -/
def execInjectedGroupDone (convs : List (List Rat)) (s : State) : Host.Outcome State Fault Refusal := .next (if s.injGo convs then s.injDone convs else s)

/-- AUX_CAL_START (R88). -/
def execAuxCalStart (s : State) : Host.Outcome State Fault Refusal := .next (s.auxCalStart)

/-- AUX_CAL_STEP_DONE (R88). -/
def execAuxCalStepDone (offset gainPpm : Int) (s : State) : Host.Outcome State Fault Refusal := .next (s.auxCalStep offset gainPpm)

/-- AUX_CAL_LATE (R89). -/
def execAuxCalLate (s : State) : Host.Outcome State Fault Refusal := .next (s.auxCalLate)

end Sys2Proof.Machine
end

