-- ==== Sys2Proof/Machine/ExecElements.lean ====
section
/-! DEFINITION. The meanings of the rows of the measuring elements and the scheme functions: each acts on the record of its instance between ticks (R121-R186; log entry 11). -/

namespace Sys2Proof.Machine

/-! ### Effects that a tick computes as part of a larger step -/

/-- A definite time that has run out (R127): an overcurrent stage with curve 0, a voltage stage, a residual-voltage stage, a stage of a frequency element. -/
def Env.settleDefinite (v : Env) (c : InstCfg) (e : ElemSt) : ElemSt :=
  let op := fun (t : Rat) => { e with operate := e.operate || (e.started && v.reached e.count t) }
  match c.kind with
  | 0x0A | 0x0B => if v.choice c 3 = 1 then e else op (v.num c 4)
  | 0x0C => op (v.num c 3)
  | 0x0D =>
    let at_ := fun (p : PhaseSt) (t : Rat) => if p.on ∧ v.reached p.cnt t then { p with hold := 1 } else p
    let ph := [at_ (nth e.ph 0) (v.num c 5), at_ (nth e.ph 1) (v.num c 10)]
    { e with ph := ph, operate := ph.any (fun p => decide (p.hold = 1)), own := ph.flatMap (fun p => [NetVal.bin p.on, NetVal.bin (decide (p.hold = 1))]) }
  | _ => if v.choice c 3 = 0 then op (v.num c 5) else e

/-- An integrator that has reached 1 (R135, R148). -/
def Env.settleIntegral (v : Env) (c : InstCfg) (e : ElemSt) : ElemSt :=
  if v.choice c 3 = 0 then e else { e with operate := e.operate || (e.started && decide (1 ≤ e.integ)) }

/-- Kinds that freeze on invalid inputs and reset after inval_tmo (R123). -/
def invalidKinds : List Nat := [3, 4, 5, 6, 7, 8, 9, 0x0A, 0x0B, 0x0C, 0x0D, 0x0E, 0x0F, 0x10, 0x13, 0x15, 0x16, 0x19, 0x1A]

/-- What a reset clears beside start and operate, by kind (R123); thermal memory and breaker wear stay. -/
def resetOf (kind : Nat) (e : ElemSt) : ElemSt :=
  match kind with
  | 7 => { e with ph := [], mode := 0, tcount := 0, hists := [], z := [] }
  | 8 | 9 | 0x0F => { e with ph := [] }
  | 0x0A | 0x0B | 0x0C => voltReset e
  | 0x0D => { e with ph := [], count := 0 }
  | 0x0E | 0x1A => e
  | 0x10 => { e with mode := 0, count := 0, tcount := 0, rcount := 0 }
  | 0x19 => { e with count := 0, mode := 0, rcount := 0 }
  | 0x13 => { e with count := 0, shot := 0, ph := [], mode := 0 }
  | 0x15 => { e with ph := (List.range 3).map (fun _ => ({} : PhaseSt)) ++ e.ph.drop 3 }
  | _ => ocReset e

/-- BF_RETRIP and BF_TRIP: the one timer or the other (R162). -/
def Env.settleRetrip (v : Env) (c : InstCfg) (e : ElemSt) : ElemSt := bfOwn { e with shot := (v.settleBf c e).shot }

def Env.settleBfTrip (v : Env) (c : InstCfg) (e : ElemSt) : ElemSt := bfOwn { e with operate := (v.settleBf c e).operate }

/-- A move of an autoreclose with the nets that follow (R165, R166). -/
def Env.arSettle (f : Env → InstCfg → ElemSt → ElemSt) (v : Env) (c : InstCfg) (e : ElemSt) : ElemSt :=
  let e' := f v c e
  if e' = e then e else v.arView c e'

/-- ZSI_BLOCK_WINDOW_EXPIRY (R176): the window's last period is over with no named group asserted. -/
def Env.settleWindow (v : Env) (c : InstCfg) (e : ElemSt) : ElemSt :=
  if e.tcount ≤ 1 ∧ c.zsiCodes.any (fun x => decide (x ∈ v.s.fst.netX)) = false then v.settleZsi c { e with tcount := 0, z := e.z.map (fun _ => 0) } else e

/-! ### The rows -/

/-- DEFINITE_TIME_EXPIRY (R127). -/
def execDefiniteTimeExpiry (inst : Nat) (s : State) : Host.Outcome State Fault Refusal := .next (s.modInst inst [3, 4, 5, 6, 0x0A, 0x0B, 0x0C, 0x0D] Env.settleDefinite)

/-- CURVE_INTEGRATOR_FULL (R135). -/
def execCurveIntegratorFull (inst : Nat) (s : State) : Host.Outcome State Fault Refusal := .next (s.modInst inst [3, 4, 5, 6, 0x0A, 0x0B] Env.settleIntegral)

/-- RESET_TIME_EXPIRY (R136). -/
def execResetTimeExpiry (inst : Nat) (s : State) : Host.Outcome State Fault Refusal := .next (s.modInst inst [3, 4, 5, 6, 0x16] Env.settleReset)

/-- INVALID_TIMEOUT (R123). -/
def execInvalidTimeout (inst : Nat) (s : State) : Host.Outcome State Fault Refusal := .next (s.modInst inst invalidKinds (fun v c => v.settleInvalid c (resetOf c.kind)))

/-- TRACKING_LOST (R130). -/
def execTrackingLost (s : State) : Host.Outcome State Fault Refusal := .next (s.trackingLost)

/-- DIRECTIONAL_MEMORY_EXPIRY (R144). -/
def execDirectionalMemoryExpiry (inst : Nat) (s : State) : Host.Outcome State Fault Refusal := .next (s.modInst inst [7] Env.settleMemory)

/-- INRUSH_HOLD_EXPIRY (R155). -/
def execInrushHoldExpiry (inst phase : Nat) (s : State) : Host.Outcome State Fault Refusal := .next (s.modInst inst [0x0F] (fun v c => v.settleInrush c phase))

/-- COLD_LOAD_ARM (R156). -/
def execColdLoadArm (inst : Nat) (s : State) : Host.Outcome State Fault Refusal := .next (s.modInst inst [0x10] Env.settleArm)

/-- COLD_LOAD_ACTIVE_END (R156). -/
def execColdLoadActiveEnd (inst : Nat) (s : State) : Host.Outcome State Fault Refusal := .next (s.modInst inst [0x10] Env.settleCold)

/-- TRIP_MIN_PULSE_EXPIRY (R160). -/
def execTripMinPulseExpiry (inst : Nat) (s : State) : Host.Outcome State Fault Refusal := .next (s.modInst inst [0x11] Env.settleTrip)

/-- BF_RETRIP (R162). -/
def execBfRetrip (inst : Nat) (s : State) : Host.Outcome State Fault Refusal := .next (s.modInst inst [0x13] Env.settleRetrip)

/-- BF_TRIP (R162). -/
def execBfTrip (inst : Nat) (s : State) : Host.Outcome State Fault Refusal := .next (s.modInst inst [0x13] Env.settleBfTrip)

/-- AR_READY_TIMER (R165). -/
def execArReadyTimer (inst : Nat) (s : State) : Host.Outcome State Fault Refusal := .next (s.modInst inst [0x14] (Env.arSettle Env.settleReady))

/-- AR_OPEN_TIMEOUT (R165). -/
def execArOpenTimeout (inst : Nat) (s : State) : Host.Outcome State Fault Refusal := .next (s.modInst inst [0x14] (Env.arSettle (fun v c => v.settleWait c arInit)))

/-- AR_DEAD_TIME_EXPIRY (R165). -/
def execArDeadTimeExpiry (inst : Nat) (s : State) : Host.Outcome State Fault Refusal := .next (s.modInst inst [0x14] (Env.arSettle Env.settleDead))

/-- AR_SYNC_TIMEOUT (R165). -/
def execArSyncTimeout (inst : Nat) (s : State) : Host.Outcome State Fault Refusal := .next (s.modInst inst [0x14] (Env.arSettle (fun v c => v.settleWait c arSyncWait)))

/-- AR_CLOSE_PULSE_EXPIRY (R165). -/
def execArClosePulseExpiry (inst : Nat) (s : State) : Host.Outcome State Fault Refusal := .next (s.modInst inst [0x14] (Env.arSettle Env.settleClose))

/-- AR_RECLAIM_EXPIRY (R165). -/
def execArReclaimExpiry (inst : Nat) (s : State) : Host.Outcome State Fault Refusal := .next (s.modInst inst [0x14] (Env.arSettle Env.settleReclaim))

/-- AR_DISCRIMINATION_EXPIRY (R165). -/
def execArDiscriminationExpiry (inst : Nat) (s : State) : Host.Outcome State Fault Refusal := .next (s.modInst inst [0x14] (Env.arSettle Env.settleDisc))

/-- ZONE_HOLDOVER_LIMIT (R173). -/
def execZoneHoldoverLimit (inst : Nat) (s : State) : Host.Outcome State Fault Refusal := .next (s.modInst inst [0x15] Env.settleHoldLimit)

/-- ZSI_TIME_EXPIRY (R176). -/
def execZsiTimeExpiry (inst : Nat) (s : State) : Host.Outcome State Fault Refusal := .next (s.modInst inst [0x16] Env.settleZsi)

/-- ZSI_BLOCK_WINDOW_EXPIRY (R176). -/
def execZsiBlockWindowExpiry (inst : Nat) (s : State) : Host.Outcome State Fault Refusal := .next (s.modInst inst [0x16] Env.settleWindow)

/-- FAULT_LOCATION (R178). -/
def execFaultLocation (inst : Nat) (s : State) : Host.Outcome State Fault Refusal := .next (s.modInst inst [0x17] (fun _ _ => settleLoc))

/-- TW_MATCH_TIMEOUT (R179). -/
def execTwMatchTimeout (inst : Nat) (s : State) : Host.Outcome State Fault Refusal := .next (s.modInst inst [0x17] (fun v _ => v.settleTw))

/-- SYNC_CONFIRM_EXPIRY (R180). -/
def execSyncConfirmExpiry (inst : Nat) (s : State) : Host.Outcome State Fault Refusal := .next (s.modInst inst [0x18] Env.settleSync)

/-- TCS_ALARM_EXPIRY (R181). -/
def execTcsAlarmExpiry (inst : Nat) (s : State) : Host.Outcome State Fault Refusal := .next (s.modInst inst [0x19] Env.settleTcs)

/-- TCS_TRIP_BLANK_EXPIRY (R181). -/
def execTcsTripBlankExpiry (inst : Nat) (s : State) : Host.Outcome State Fault Refusal := .next (s.modInst inst [0x19] (fun v _ => v.settleBlank))

/-- PERSISTENT_LATCH_WRITE (R184). -/
def execPersistentLatchWrite (inst : Nat) (s : State) : Host.Outcome State Fault Refusal := .next (s.latchWrite inst)

/-- LOGIC_TIMER_EXPIRY (R183). -/
def execLogicTimerExpiry (inst : Nat) (s : State) : Host.Outcome State Fault Refusal := .next (s.modInst inst [0x23, 0x24, 0x25] Env.settleTimer)

end Sys2Proof.Machine
end

