-- ==== Sys2Proof/Machine/ExecFast.lean ====
section
/-! DEFINITION. The meanings of the rows of the fast path and express intertrip (R187-R208, R346). -/

namespace Sys2Proof.Machine

/-- COMPARATOR_ASSERT (R189). -/
def execComparatorAssert (c : Nat) (codes : List CodeIn) (light : Bool) (s : State) : Host.Outcome State Fault Refusal := .next (s.cmpAssert c codes light)

/-- COMPARATOR_RELEASE (R190). -/
def execComparatorRelease (c : Nat) (codes : List CodeIn) (s : State) : Host.Outcome State Fault Refusal := .next (s.feed c codes)

/-- ARC_WINDOW_EXPIRY (R192). -/
def execArcWindowExpiry (c : Nat) (light : Bool) (s : State) : Host.Outcome State Fault Refusal := .next (s.arcExpiry c light)

/-- EXPRESS_RECEIVED (R346). -/
def execExpressReceived (p : Nat) (lane0 lane1 : LaneIn) (s : State) : Host.Outcome State Fault Refusal := .next (s.expressIn p lane0 lane1)

/-- EXPRESS_CODE_TIMEOUT (R200). -/
def execExpressCodeTimeout (code : Nat) (s : State) : Host.Outcome State Fault Refusal := .next (s.expressTimeout code)

/-- FAST_CFG_WRITE (R205). -/
def execFastCfgWrite (cls : KeyClass) (addr : Nat) (v : Word) (s : State) : Host.Outcome State Fault Refusal := .next (if isFast addr then s.write cls addr v else s)

end Sys2Proof.Machine
end

