-- ==== Sys2Proof/Machine/ExecScheme.lean ====
section
/-! DEFINITION. The meanings of the rows of the scheme image, templates and setting groups (R209-R243). -/

namespace Sys2Proof.Machine

/-- IMAGE_LOAD (R235). -/
def execImageLoad (cls : KeyClass) (arg : Nat) (s : State) : Host.Outcome State Fault Refusal := .next (s.submitJob cls 1 arg)

/-- CHUNK_COMMIT (R236). -/
def execChunkCommit (cls : KeyClass) (v : Word) (s : State) : Host.Outcome State Fault Refusal := .next (s.write cls 0x2418 (v ||| 0x80000000#32))

/-- IMAGE_ACTIVATION (R238). -/
def execImageActivation (cls : KeyClass) (arg : Nat) (s : State) : Host.Outcome State Fault Refusal := .next (s.submitJob cls 2 arg)

/-- TEMPLATE_ACTIVATION (R238). -/
def execTemplateActivation (cls : KeyClass) (arg : Nat) (s : State) : Host.Outcome State Fault Refusal := .next (s.submitJob cls 3 arg)

/-- ACTIVATION_REFERENCE_TICK (R238). -/
def execActivationReferenceTick (s : State) : Host.Outcome State Fault Refusal := .next (s.actReference)

/-- ACTIVATION_BOUNDARY (R238). -/
def execActivationBoundary (s : State) : Host.Outcome State Fault Refusal := .next (s.actBoundary)

/-- ACTIVATED (R238). -/
def execActivated (s : State) : Host.Outcome State Fault Refusal := .next (s.activated)

/-- SCH_GROUP_WRITE (R237). -/
def execSchGroupWrite (cls : KeyClass) (v : Word) (s : State) : Host.Outcome State Fault Refusal := .next (s.write cls 0x2430 v)

/-- GROUP_SWITCH (R237). -/
def execGroupSwitch (s : State) : Host.Outcome State Fault Refusal := .next (s.groupSwitch)

/-- TEMPLATE_PARAM_WRITE (R211). -/
def execTemplateParamWrite (cls : KeyClass) (v : Word) (s : State) : Host.Outcome State Fault Refusal := .next (s.write cls 0x243C v)

end Sys2Proof.Machine
end

