-- ==== Sys2Proof/Machine/ExecField.lean ====
section
/-! DEFINITION. The meanings of the rows of the field inputs and outputs (R244-R263). -/

namespace Sys2Proof.Machine

/-- COUPLER_FAIL (R244). -/
def execCouplerFail (cpl frames : Nat) (s : State) : Host.Outcome State Fault Refusal := .next (s.whileAlive (fun s => s.couplerFail cpl frames))

/-- COUPLER_OK (R244). -/
def execCouplerOk (cpl frames : Nat) (s : State) : Host.Outcome State Fault Refusal := .next (s.whileAlive (fun s => s.couplerOk cpl frames))

/-- OUTPUT_HOLD_EXPIRY (R246). -/
def execOutputHoldExpiry (out : Nat) (s : State) : Host.Outcome State Fault Refusal := .next (s.holdExpiry out)

/-- INPUT_ACCEPTED (R248). -/
def execInputAccepted (di : Nat) (level : Bool) (count sec us : Nat) (s : State) : Host.Outcome State Fault Refusal := .next (s.whileAlive (fun s => if s.inputGo di count then s.inputAccepted di level sec us else s))

/-- FIELD_SUPPLY_READING (R255). -/
def execFieldSupplyReading (vf tcs0 tcs1 : Nat) (s : State) : Host.Outcome State Fault Refusal := .next (s.whileAlive (fun s => s.supplyReading vf tcs0 tcs1))

/-- FIELD_SAG_END (R255). -/
def execFieldSagEnd (s : State) : Host.Outcome State Fault Refusal := .next (s.whileAlive (fun s => s.sagEnd))

/-- FIELD_BROWNOUT (R255). -/
def execFieldBrownout (s : State) : Host.Outcome State Fault Refusal := .next (s.whileAlive (fun s => s.enterLost))

/-- FIELD_READY (R257). -/
def execFieldReady (s : State) : Host.Outcome State Fault Refusal := .next (s.whileAlive (fun s => s.fieldReady))

/-- STUCK_ON (R258). -/
def execStuckOn (out : Nat) (s : State) : Host.Outcome State Fault Refusal := .next (s.whileAlive (fun s => s.stuckOn out))

/-- OUT_SHORT (R258). -/
def execOutShort (out : Nat) (s : State) : Host.Outcome State Fault Refusal := .next (s.whileAlive (fun s => s.outShort out))

/-- THERMAL_SHUTDOWN (R258). -/
def execThermalShutdown (out : Nat) (s : State) : Host.Outcome State Fault Refusal := .next (s.whileAlive (fun s => s.thermalOff out))

/-- THERMAL_OFF_EXPIRY (R258). -/
def execThermalOffExpiry (out : Nat) (s : State) : Host.Outcome State Fault Refusal := .next (s.thermalRetry out)

/-- CROSS_DRIVE (R258). -/
def execCrossDrive (out by_ : Nat) (s : State) : Host.Outcome State Fault Refusal := .next (s.whileAlive (fun s => s.crossDrive out by_))

/-- OUT_FAIL_OFF (R258). -/
def execOutFailOff (out : Nat) (s : State) : Host.Outcome State Fault Refusal := .next (s.whileAlive (fun s => s.outFailOff out))

/-- OUT_OPEN (R258). -/
def execOutOpen (out cur : Nat) (s : State) : Host.Outcome State Fault Refusal := .next (s.whileAlive (fun s => s.outOpen out cur))

/-- OUT_OVERLOAD (R258). -/
def execOutOverload (out cur : Nat) (s : State) : Host.Outcome State Fault Refusal := .next (s.whileAlive (fun s => s.outOverload out cur))

/-- CROSS_INH_CLEAR (R258). -/
def execCrossInhClear (cls : KeyClass) (v : Word) (s : State) : Host.Outcome State Fault Refusal := .next (s.write cls 0x2D40 v)

/-- FIO_CFG_WRITE (R254). -/
def execFioCfgWrite (cls : KeyClass) (addr : Nat) (v : Word) (s : State) : Host.Outcome State Fault Refusal := .next (if isField addr then s.write cls addr v else s)

/-- TCS_CONTINUITY_CHANGE (R260). -/
def execTcsContinuityChange (n : Nat) (present : Bool) (s : State) : Host.Outcome State Fault Refusal := .next (s.whileAlive (fun s => s.tcsChange n present))

end Sys2Proof.Machine
end

