-- ==== Sys2Proof/Machine/ExecRecorder.lean ====
section
/-! DEFINITION. The meanings of the rows of the ledger and the captures (R264-R293). -/

namespace Sys2Proof.Machine

/-- LEDGER_WRITE (R274). -/
def execLedgerWrite (s : State) : Host.Outcome State Fault Refusal := .next (s.ledgerWrite)

/-- TOKEN_RETURN (R276). -/
def execTokenReturn (code : Nat) (s : State) : Host.Outcome State Fault Refusal := .next (s.tokenReturn code)

/-- CURSOR_SEEK (R280). -/
def execCursorSeek (cls : KeyClass) (s : State) : Host.Outcome State Fault Refusal := .next (s.write cls 0x3014 1)

/-- CURSOR_OLDEST (R280). -/
def execCursorOldest (cls : KeyClass) (s : State) : Host.Outcome State Fault Refusal := .next (s.write cls 0x3014 2)

/-- CURSOR_NEWEST (R280). -/
def execCursorNewest (cls : KeyClass) (s : State) : Host.Outcome State Fault Refusal := .next (s.write cls 0x3014 3)

/-- CURSOR_NEXT (R280). -/
def execCursorNext (cls : KeyClass) (s : State) : Host.Outcome State Fault Refusal := .next (s.write cls 0x3014 4)

/-- CURSOR_PREV (R280). -/
def execCursorPrev (cls : KeyClass) (s : State) : Host.Outcome State Fault Refusal := .next (s.write cls 0x3014 5)

/-- CURSOR_FIRST (R280). -/
def execCursorFirst (cls : KeyClass) (s : State) : Host.Outcome State Fault Refusal := .next (s.write cls 0x3014 6)

/-- CURSOR_MOVE_DONE (R280). -/
def execCursorMoveDone (cls : KeyClass) (s : State) : Host.Outcome State Fault Refusal := .next (s.cursorDone cls)

/-- LEDGER_COMMISSION (R265). -/
def execLedgerCommission (cls : KeyClass) (arg : Nat) (s : State) : Host.Outcome State Fault Refusal := .next (s.submitJob cls 4 arg)

/-- LEDGER_CLEAR (R282). -/
def execLedgerClear (cls : KeyClass) (arg : Nat) (s : State) : Host.Outcome State Fault Refusal := .next (s.submitJob cls 5 arg)

/-- LEDGER_SCAN_DONE (R283). -/
def execLedgerScanDone (s : State) : Host.Outcome State Fault Refusal := .next (s.ledgerScanned)

/-- CAP_TRIG (R284). -/
def execCapTrig (cls : KeyClass) (s : State) : Host.Outcome State Fault Refusal := .next (s.write cls 0x3404 1)

/-- CAPTURE_END (R288). -/
def execCaptureEnd (s : State) : Host.Outcome State Fault Refusal := .next (s.captureEnd)

/-- SLOT_PROTECT (R289). -/
def execSlotProtect (cls : KeyClass) (s : State) : Host.Outcome State Fault Refusal := .next (s.write cls 0x3414 1)

/-- SLOT_UNPROTECT (R289). -/
def execSlotUnprotect (cls : KeyClass) (s : State) : Host.Outcome State Fault Refusal := .next (s.write cls 0x3414 2)

/-- CAPTURE_EXPORT (R290). -/
def execCaptureExport (cls : KeyClass) (arg : Nat) (s : State) : Host.Outcome State Fault Refusal := .next (s.submitJob cls 6 arg)

/-- LEASE_TIMEOUT (R290). -/
def execLeaseTimeout (slot : Nat) (s : State) : Host.Outcome State Fault Refusal := .next (s.leaseTimeout slot)

end Sys2Proof.Machine
end

