-- ==== Sys2Proof/Machine/ExecTime.lean ====
section
/-! DEFINITION. The meanings of the rows of network time and streams (R294-R323). -/

namespace Sys2Proof.Machine

/-- PTP_SYNC (R301). -/
def execPtpSync (p : Nat) (m : SyncIn) (s : State) : Host.Outcome State Fault Refusal := .next (s.ptpSync p m)

/-- PTP_FOLLOW_UP (R301). -/
def execPtpFollowUp (p seq : Nat) (t1 corr : Int) (s : State) : Host.Outcome State Fault Refusal := .next (s.ptpFollowUp p seq t1 corr)

/-- PTP_ANNOUNCE (R298). -/
def execPtpAnnounce (p : Nat) (a : AnnounceIn) (s : State) : Host.Outcome State Fault Refusal := .next (s.announce p a)

/-- PTP_PDELAY_REQ (R298). -/
def execPtpPdelayReq (p seq : Nat) (t2 t3 : Int) (s : State) : Host.Outcome State Fault Refusal := .next (s.pdelayReq p seq t2 t3)

/-- PTP_PDELAY_RESP (R301). -/
def execPtpPdelayResp (p : Nat) (t1p t2p t3p t4 : Int) (s : State) : Host.Outcome State Fault Refusal := .next (s.pdelayResp p t1p t2p t3p t4)

/-- SYNC_TIMEOUT (R302). -/
def execSyncTimeout (s : State) : Host.Outcome State Fault Refusal := .next (s.syncTimeout)

/-- ANNOUNCE_TIMEOUT (R302). -/
def execAnnounceTimeout (p : Nat) (s : State) : Host.Outcome State Fault Refusal := .next (s.announceTimeout p)

/-- TIME_REALIGNED (R306). -/
def execTimeRealigned (s : State) : Host.Outcome State Fault Refusal := .next (s.realigned)

/-- FORCE_ACCEPT_NEXT (R305). -/
def execForceAcceptNext (cls : KeyClass) (s : State) : Host.Outcome State Fault Refusal := .next (s.write cls 0x3828 1)

/-- FORCE_SET (R305). -/
def execForceSet (cls : KeyClass) (s : State) : Host.Outcome State Fault Refusal := .next (s.write cls 0x3828 2)

/-- FORCE_DISARM (R305). -/
def execForceDisarm (cls : KeyClass) (s : State) : Host.Outcome State Fault Refusal := .next (s.write cls 0x3828 4)

/-- PTP_CTL_WRITE (R296). -/
def execPtpCtlWrite (cls : KeyClass) (v : Word) (s : State) : Host.Outcome State Fault Refusal := .next (s.write cls 0x3800 v)

/-- PTP_TIME_SEC_LO_READ (R323). -/
def execPtpTimeSecLoRead (cls : KeyClass) (s : State) : Host.Outcome State Fault Refusal := .next (s.read cls 0x380C)

/-- ETH_LINK (R322). -/
def execEthLink (m : Nat) (up : Bool) (speed : Nat) (s : State) : Host.Outcome State Fault Refusal := .next (s.ethLink m up speed)

/-- PRP_SUPERVISION (R308). -/
def execPrpSupervision (s : State) : Host.Outcome State Fault Refusal := .next (s.supervision)

/-- PRP_LAN_FAULT (R308). -/
def execPrpLanFault (lan : Nat) (s : State) : Host.Outcome State Fault Refusal := .next (s.lanFault lan)

/-- SV_FRAME_RECEIVED (R317). -/
def execSvFrameReceived (m : Nat) (f : SvIn) (s : State) : Host.Outcome State Fault Refusal := .next (s.svFrame m f)

/-- EVENT_MESSAGE_RECEIVED (R320). -/
def execEventMessageReceived (m : Nat) (f : EventIn) (s : State) : Host.Outcome State Fault Refusal := .next (s.eventFrame m f)

/-- MGMT_FRAME (R309). -/
def execMgmtFrame (m : Nat) (f : MgmtIn) (s : State) : Host.Outcome State Fault Refusal := .next (s.mgmtFrame m f)

/-- SV_PUBLISH (R313). -/
def execSvPublish (ctx : Nat) (s : State) : Host.Outcome State Fault Refusal := .next (s.svPublish ctx)

/-- EVENT_MESSAGE_REPEAT (R319). -/
def execEventMessageRepeat (ctx : Nat) (s : State) : Host.Outcome State Fault Refusal := .next (s.eventRepeat ctx)

/-- EVENT_CONTEXT_EXPIRY (R320). -/
def execEventContextExpiry (ctx : Nat) (s : State) : Host.Outcome State Fault Refusal := .next (s.eventExpiry ctx)

end Sys2Proof.Machine
end

