-- ==== Sys2Proof/Machine/ExecChain.lean ====
section
/-! DEFINITION. The meanings of the rows of the chain link (R324-R361). -/

namespace Sys2Proof.Machine

/-- PORT_CLOCK_RECEIVED (R331). -/
def execPortClockReceived (p : Nat) (s : State) : Host.Outcome State Fault Refusal := .next (s.portClock p)

/-- TRAINING_ADVANCE (R331). -/
def execTrainingAdvance (p : Nat) (t : TrainIn) (s : State) : Host.Outcome State Fault Refusal := .next (s.trainAdvance p t)

/-- TRAINING_TIMEOUT (R331). -/
def execTrainingTimeout (p : Nat) (s : State) : Host.Outcome State Fault Refusal := .next (s.trainTimeout p)

/-- RECOVERY_ENTRY (R332). -/
def execRecoveryEntry (p : Nat) (cause : RecoveryCause) (s : State) : Host.Outcome State Fault Refusal := .next (s.recoveryEntry p cause)

/-- RECOVERY_DONE (R332). -/
def execRecoveryDone (p : Nat) (t : TrainIn) (s : State) : Host.Outcome State Fault Refusal := .next (s.recoveryDone p t)

/-- CHAIN_CYCLE (R334). -/
def execChainCycle (s : State) : Host.Outcome State Fault Refusal := .next (s.chainCycle)

/-- CYCLE_MARK_RECEIVED (R355). -/
def execCycleMarkReceived (p : Nat) (arrival : Rat) (second cycle phase : Nat) (s : State) : Host.Outcome State Fault Refusal := .next (s.cycleMark p arrival second cycle phase)

/-- MANAGEMENT_SLOT_RECEIVED (R336). -/
def execManagementSlotReceived (p : Nat) (slot : List RxSym) (s : State) : Host.Outcome State Fault Refusal := .next (s.managementSlot p slot)

/-- UNIT_SLOT_RECEIVED (R339). -/
def execUnitSlotReceived (p pos : Nat) (slot : List RxSym) (s : State) : Host.Outcome State Fault Refusal := .next (s.unitSlot p pos slot)

/-- SLOT_LOSS (R341). -/
def execSlotLoss (addr : Nat) (s : State) : Host.Outcome State Fault Refusal := .next (s.slotLoss addr)

/-- WALK_START (R348). -/
def execWalkStart (s : State) : Host.Outcome State Fault Refusal := .next (s.walkStart)

/-- CHAIN_WALK (R350). -/
def execChainWalk (tr : Nat) (delta : Int) (s : State) : Host.Outcome State Fault Refusal := .next (s.walkEnd tr delta)

/-- CHAIN_REWALK (R348). -/
def execChainRewalk (cls : KeyClass) (arg : Nat) (s : State) : Host.Outcome State Fault Refusal := .next (s.submitJob cls 9 arg)

/-- CHAIN_RING_OPEN (R352). -/
def execChainRingOpen (s : State) : Host.Outcome State Fault Refusal := .next (s.ringOpen)

/-- CHAIN_RING_CLOSED (R352). -/
def execChainRingClosed (s : State) : Host.Outcome State Fault Refusal := .next (s.ringClosed)

/-- CHAIN_DEPUTY_ACTIVE (R354). -/
def execChainDeputyActive (s : State) : Host.Outcome State Fault Refusal := .next (s.deputyActive)

/-- CHAIN_NO_ROOT (R354). -/
def execChainNoRoot (s : State) : Host.Outcome State Fault Refusal := .next (s.noRootFound)

/-- CHAIN_TIME_LOST (R356). -/
def execChainTimeLost (s : State) : Host.Outcome State Fault Refusal := .next (s.chainTimeLost)

/-- REMOTE_GO (R358). -/
def execRemoteGo (cls : KeyClass) (s : State) : Host.Outcome State Fault Refusal := .next (s.write cls 0x403C 1)

/-- REMOTE_TRANSACTION (R358). -/
def execRemoteTransaction (m : Nat) (entry : List Byte) (s : State) : Host.Outcome State Fault Refusal := .next (s.remoteTransaction m entry)

/-- REMOTE_ANSWER (R358). -/
def execRemoteAnswer (m : Nat) (entry : List Byte) (s : State) : Host.Outcome State Fault Refusal := .next (s.remoteAnswer m entry)

/-- REMOTE_TIMEOUT (R358). -/
def execRemoteTimeout (m : Nat) (s : State) : Host.Outcome State Fault Refusal := .next (s.remoteTimeout m)

/-- CHN_XCP_DATA_0_READ (R361). -/
def execChnXcpData0Read (cls : KeyClass) (s : State) : Host.Outcome State Fault Refusal := .next (s.read cls 0x4050)

/-- LOCAL_CYCLE (R333). -/
def execLocalCycle (p : Nat) (s : State) : Host.Outcome State Fault Refusal := .next (s.localCycle p)

end Sys2Proof.Machine
end

