-- ==== Sys2Proof/Machine/ExecHinge.lean ====
section
/-! DEFINITION. The meanings of the rows of hinge pairs and feeds (R362-R381). -/

namespace Sys2Proof.Machine

/-- FEED_OUT_OF_RANGE (R363). -/
def execFeedOutOfRange (f mv : Nat) (s : State) : Host.Outcome State Fault Refusal := .next (s.feedOut f mv)

/-- FEED_IN_RANGE (R363). -/
def execFeedInRange (f mv : Nat) (s : State) : Host.Outcome State Fault Refusal := .next (s.feedIn f mv)

/-- HINGE_PEER_CHANGE (R366). -/
def execHingePeerChange (asserted : Bool) (s : State) : Host.Outcome State Fault Refusal := .next (s.peerChange asserted)

/-- HINGE_CLAIM (R367). -/
def execHingeClaim (s : State) : Host.Outcome State Fault Refusal := .next (s.hingeClaim)

/-- CLAIM_RECHECK (R367). -/
def execClaimRecheck (peer : Bool) (s : State) : Host.Outcome State Fault Refusal := .next (s.claimRecheck peer)

/-- ANCHOR_FRAME_RECEIVED (R369). -/
def execAnchorFrameReceived (words : List Word) (absent : Bool) (s : State) : Host.Outcome State Fault Refusal := .next (s.frameIn words absent)

/-- ANCHOR_ADOPT (R372). -/
def execAnchorAdopt (s : State) : Host.Outcome State Fault Refusal := .next (s.adopt 1)

/-- ACTIVATE_ORDER (R240). -/
def execActivateOrder (gen : Nat) (s : State) : Host.Outcome State Fault Refusal := .next (s.activateOrder gen)

/-- READY_REPORT (R240). -/
def execReadyReport (s : State) : Host.Outcome State Fault Refusal := .next (s.readyReport)

/-- HANDOVER_WRITE (R377). -/
def execHandoverWrite (cls : KeyClass) (v : Word) (s : State) : Host.Outcome State Fault Refusal := .next (s.write cls 0x4400 v)

/-- HANDOVER_REQUEST (R377). -/
def execHandoverRequest (s : State) : Host.Outcome State Fault Refusal := .next (s.handoverIn)

/-- HANDOVER_ACKNOWLEDGE (R377). -/
def execHandoverAcknowledge (s : State) : Host.Outcome State Fault Refusal := .next (s.handoverAck)

/-- HANDOVER_TIMEOUT (R377). -/
def execHandoverTimeout (s : State) : Host.Outcome State Fault Refusal := .next (s.handoverTimeout)

/-- HINGE_STANDBY (R240, R376). -/
def execHingeStandby (s : State) : Host.Outcome State Fault Refusal := .next (s.enterStandby)

/-- HINGE_WIRE_FAULT (R378). -/
def execHingeWireFault (s : State) : Host.Outcome State Fault Refusal := .next (s.wireFaultSet)

/-- WIRE_FAULT_CLEAR (R378). -/
def execWireFaultClear (s : State) : Host.Outcome State Fault Refusal := .next (s.wireFaultClear)

/-- HINGE_CTL_NO_TICK (R366). -/
def execHingeCtlNoTick (s : State) : Host.Outcome State Fault Refusal := .next (s.ctlNoTick)

end Sys2Proof.Machine
end

