-- ==== Sys2Proof/Machine/ExecHost.lean ====
section
/-! DEFINITION. The meanings of the rows of the host port, the keyway and the jobs (R382-R406). -/

namespace Sys2Proof.Machine

/-- HOST_READ (R383). -/
def execHostRead (path : KeyClass) (frame : List Byte) (s : State) : Host.Outcome State Fault Refusal := .next (s.frameOf 0x0B path frame)

/-- HOST_WRITE (R383). -/
def execHostWrite (path : KeyClass) (frame : List Byte) (s : State) : Host.Outcome State Fault Refusal := .next (s.frameOf 0x02 path frame)

/-- HOST_QUAD_READ (R383). -/
def execHostQuadRead (path : KeyClass) (frame : List Byte) (s : State) : Host.Outcome State Fault Refusal := .next (s.frameOf 0xEB path frame)

/-- HOST_QUAD_WRITE (R383). -/
def execHostQuadWrite (path : KeyClass) (frame : List Byte) (s : State) : Host.Outcome State Fault Refusal := .next (s.frameOf 0x32 path frame)

/-- BAD_COMMAND (R387). -/
def execBadCommand (path : KeyClass) (frame : List Byte) (s : State) : Host.Outcome State Fault Refusal := .next (s.badFrame path frame)

/-- FRAME_ENDED_SHORT (R387). -/
def execFrameEndedShort (path : KeyClass) (n : Nat) (s : State) : Host.Outcome State Fault Refusal := .next (s.shortFrame path n)

/-- REGISTER_WRITE (R8). -/
def execRegisterWrite (cls : KeyClass) (addr : Nat) (v : Word) (s : State) : Host.Outcome State Fault Refusal := .next (s.write cls addr v)

/-- IRQ_STAT_CLEAR (R390). -/
def execIrqStatClear (cls : KeyClass) (v : Word) (s : State) : Host.Outcome State Fault Refusal := .next (s.write cls 0x0010 v)

/-- NME_STAT_CLEAR (R391). -/
def execNmeStatClear (cls : KeyClass) (v : Word) (s : State) : Host.Outcome State Fault Refusal := .next (s.write cls 0x0018 v)

/-- PAIR_SELF_TEST (R115). -/
def execPairSelfTest (cls : KeyClass) (arg : Nat) (s : State) : Host.Outcome State Fault Refusal := .next (s.submitJob cls 7 arg)

/-- FOREGROUND_AFE_CALIBRATION (R61). -/
def execForegroundAfeCalibration (cls : KeyClass) (arg : Nat) (s : State) : Host.Outcome State Fault Refusal := .next (s.submitJob cls 8 arg)

/-- MRAM_SCRUB (R399). -/
def execMramScrub (cls : KeyClass) (arg : Nat) (s : State) : Host.Outcome State Fault Refusal := .next (s.submitJob cls 10 arg)

/-- BREAKER_WEAR_RESET (R182). -/
def execBreakerWearReset (cls : KeyClass) (arg : Nat) (s : State) : Host.Outcome State Fault Refusal := .next (s.submitJob cls 11 arg)

/-- JOB_CANCEL (R402). -/
def execJobCancel (cls : KeyClass) (ticket : Nat) (s : State) : Host.Outcome State Fault Refusal := .next (s.submitJob cls 0xFF ticket)

/-- JOB_STEP (R401). -/
def execJobStep (j : JobIn) (s : State) : Host.Outcome State Fault Refusal := .next (s.jobStep j)

end Sys2Proof.Machine
end

