-- ==== Sys2Proof/Machine/ExecClocks.lean ====
section
/-! DEFINITION. The meanings of the rows of the clocks, monitors and operating points (R407-R429). -/

namespace Sys2Proof.Machine

/-- CLOCK_FAILURE (R414). -/
def execClockFailure (c : ClockFail) (s : State) : Host.Outcome State Fault Refusal := .next (s.clockFailure c)

/-- SYS_PLL_RELOCK (R416). -/
def execSysPllRelock (s : State) : Host.Outcome State Fault Refusal := .next (s.sysRelock)

/-- CONV_PLL_LOCK (R416). -/
def execConvPllLock (s : State) : Host.Outcome State Fault Refusal := .next (s.convLocked)

/-- IRC_RESTART (R419). -/
def execIrcRestart (s : State) : Host.Outcome State Fault Refusal := .next (s.ircRestart)

/-- IRC_STABLE (R410). -/
def execIrcStable (s : State) : Host.Outcome State Fault Refusal := .next (s.ircStable)

/-- REFCLK_STABLE (R410). -/
def execRefclkStable (mhz : Nat) (s : State) : Host.Outcome State Fault Refusal := .next (s.refclkStable mhz)

/-- REF_OK (R418). -/
def execRefOk (s : State) : Host.Outcome State Fault Refusal := .next (s.refOkSet)

/-- REF_RETURN (R418). -/
def execRefReturn (cls : KeyClass) (s : State) : Host.Outcome State Fault Refusal := .next (s.write cls 0x0800 (s.reg 0x0800 ||| 4))

/-- REF_EN_WRITE (R418). -/
def execRefEnWrite (cls : KeyClass) (v : Word) (s : State) : Host.Outcome State Fault Refusal := .next (s.write cls 0x0800 v)

/-- LEVEL2_RECOVERY_VALID (R419). -/
def execLevel2RecoveryValid (s : State) : Host.Outcome State Fault Refusal := .next (s.level2Recovered)

/-- TRIM (R411). -/
def execTrim (irc lfo : Nat) (s : State) : Host.Outcome State Fault Refusal := .next (s.trim irc lfo)

/-- MEASUREMENT_GO (R428). -/
def execMeasurementGo (cls : KeyClass) (v : Word) (s : State) : Host.Outcome State Fault Refusal := .next (s.write cls 0x0820 (v ||| 0x10#32))

/-- MEASUREMENT_DONE (R428). -/
def execMeasurementDone (count : Nat) (s : State) : Host.Outcome State Fault Refusal := .next (s.measureDone count)

/-- RAIL_SETTLED (R424). -/
def execRailSettled (s : State) : Host.Outcome State Fault Refusal := .next (s.railSettled)

/-- ENGINE_FREQUENCY_CHANGE (R17). -/
def execEngineFrequencyChange (s : State) : Host.Outcome State Fault Refusal := .next (s.freqChange)

/-- OP_LOWER (R425). -/
def execOpLower (s : State) : Host.Outcome State Fault Refusal := .next (s.opLower)

/-- LEAF_OFF_REQUEST (R423). -/
def execLeafOffRequest (cls : KeyClass) (v : Word) (s : State) : Host.Outcome State Fault Refusal := .next (s.write cls 0x0814 v)

/-- LEAF_GATED (R423). -/
def execLeafGated (leaf : Nat) (s : State) : Host.Outcome State Fault Refusal := .next (s.leafGated leaf)

/-- LEAF_RESTART (R423). -/
def execLeafRestart (cls : KeyClass) (v : Word) (s : State) : Host.Outcome State Fault Refusal := .next (s.write cls 0x0814 v)

/-- GROUP_OFF_REQUEST (R423). -/
def execGroupOffRequest (cls : KeyClass) (v : Word) (s : State) : Host.Outcome State Fault Refusal := .next (s.write cls 0x0814 v)

/-- LFO_STABLE (R414). -/
def execLfoStable (s : State) : Host.Outcome State Fault Refusal := .next (s.lfoStable)

/-- REFCLK_ABSENT (R408). -/
def execRefclkAbsent (s : State) : Host.Outcome State Fault Refusal := .next (s.refclkAbsent)

/-- PLL_HOLD_STOP (R415). -/
def execPllHoldStop (s : State) : Host.Outcome State Fault Refusal := .next (s.pllHoldStop)

end Sys2Proof.Machine
end

