-- ==== Sys2Proof/Machine/ExecPower.lean ====
section
/-! DEFINITION. The meanings of the rows of supplies, reset and start-up (R432-R455). -/

namespace Sys2Proof.Machine

/-- FEED_RISE (R448). -/
def execFeedRise (f mv : Nat) (s : State) : Host.Outcome State Fault Refusal := .next (s.feedRise f mv)

/-- POWER_ON_RESET_RELEASE (R448). -/
def execPowerOnResetRelease (s : State) : Host.Outcome State Fault Refusal := .next (s.porRelease)

/-- RAILS_IN_REGULATION (R448). -/
def execRailsInRegulation (b : BootIn) (s : State) : Host.Outcome State Fault Refusal := .next (s.railsUp b)

/-- PLLS_LOCKED (R448). -/
def execPllsLocked (s : State) : Host.Outcome State Fault Refusal := .next (s.pllsLocked)

/-- DEFECT_MAP_READ (R459). -/
def execDefectMapRead (identityOk : Bool) (s : State) : Host.Outcome State Fault Refusal := .next (s.mapRead identityOk)

/-- SHORT_SELF_TEST_DONE (R449). -/
def execShortSelfTestDone (t : SelfTestIn) (s : State) : Host.Outcome State Fault Refusal := .next (s.selfTested t)

/-- SLOT_SELECTION (R233). -/
def execSlotSelection (latchFail : List Nat) (s : State) : Host.Outcome State Fault Refusal := .next (s.slotsSelected latchFail)

/-- AFE_REFERENCE_SETTLED (R77). -/
def execAfeReferenceSettled (s : State) : Host.Outcome State Fault Refusal := .next (s.afeSettled)

/-- FILTER_SETTLED (R77). -/
def execFilterSettled (s : State) : Host.Outcome State Fault Refusal := .next (s.filterSettled)

/-- WINDOWS_VALID (R448). -/
def execWindowsValid (s : State) : Host.Outcome State Fault Refusal := .next (s.windowsValid)

/-- POWER_FAIL_DECLARED (R438). -/
def execPowerFailDeclared (holdMv : Nat) (s : State) : Host.Outcome State Fault Refusal := .next (s.powerFail holdMv)

/-- FLUSH_END (R275). -/
def execFlushEnd (s : State) : Host.Outcome State Fault Refusal := .next (s.flushOver)

/-- COMMIT_DONE (R439). -/
def execCommitDone (s : State) : Host.Outcome State Fault Refusal := .next (s.commitDone)

/-- HOLD_SPENT (R444). -/
def execHoldSpent (holdMv : Nat) (s : State) : Host.Outcome State Fault Refusal := .next (s.holdSpent holdMv)

/-- HOLD_READY (R436). -/
def execHoldReady (tCharge : Nat) (s : State) : Host.Outcome State Fault Refusal := .next (s.holdReadySet tCharge)

/-- HOLD_FAULT (R437). -/
def execHoldFault (k : HoldJudge) (s : State) : Host.Outcome State Fault Refusal := .next (s.holdFaultSet k)

/-- RAIL_FAULT (R435). -/
def execRailFault (rail : Nat) (s : State) : Host.Outcome State Fault Refusal := .next (s.railFault rail)

/-- RESET_N_LOW (R445). -/
def execResetNLow (s : State) : Host.Outcome State Fault Refusal := .next (s.resetLow)

/-- RESET_N_RISE (R446). -/
def execResetNRise (s : State) : Host.Outcome State Fault Refusal := .next (s.resetRise)

/-- HOST_RESET (R445). -/
def execHostReset (cls : KeyClass) (s : State) : Host.Outcome State Fault Refusal := .next (s.write cls 0x0418 1)

/-- HOST_RESET_EFFECT (R446). -/
def execHostResetEffect (s : State) : Host.Outcome State Fault Refusal := .next (s.hostResetEffect)

/-- HC_RESTART (R447). -/
def execHcRestart (s : State) : Host.Outcome State Fault Refusal := .next (s.hcRestart)

/-- COUNTER_BLOCK_WRITE (R440). -/
def execCounterBlockWrite (ot : Nat) (s : State) : Host.Outcome State Fault Refusal := .next (s.blockDue ot)

/-- DORMANT_ENTRY (R450). -/
def execDormantEntry (s : State) : Host.Outcome State Fault Refusal := .next (s.dormantEntry)

/-- PERSISTENCE_WAKE (R451). -/
def execPersistenceWake (ot : Nat) (s : State) : Host.Outcome State Fault Refusal := .next (s.persistWake ot)

/-- WAKE_PIN (R452). -/
def execWakePin (s : State) : Host.Outcome State Fault Refusal := .next (s.wakeEvent 0)

/-- WAKE_TIMER (R452). -/
def execWakeTimer (ot : Nat) (s : State) : Host.Outcome State Fault Refusal := .next (s.wakeTimer ot)

/-- FEED_WAKE (R452). -/
def execFeedWake (f : Nat) (s : State) : Host.Outcome State Fault Refusal := .next (s.feedWake f)

/-- PWR_OT_LO_READ (R455). -/
def execPwrOtLoRead (cls : KeyClass) (s : State) : Host.Outcome State Fault Refusal := .next (s.read cls 0x040C)

end Sys2Proof.Machine
end

