-- ==== Sys2Proof/Machine/ExecRepair.lean ====
section
/-! DEFINITION. The meanings of the rows of repair and failures (R456-R467). -/

namespace Sys2Proof.Machine

/-- DEFECT_MAP_WRITE (R458). -/
def execDefectMapWrite (s : State) : Host.Outcome State Fault Refusal := .next (s.mapWrite)

/-- SS_ROW_SPARED (R463). -/
def execSsRowSpared (row reason : Nat) (s : State) : Host.Outcome State Fault Refusal := .next (s.ssSpare row reason)

/-- SS_SCRUB (R463). -/
def execSsScrub (corrected : List Nat) (uncorrectable : List Nat) (s : State) : Host.Outcome State Fault Refusal := .next (s.ssScrub corrected uncorrectable)

/-- MRAM_ROW_SPARED (R464). -/
def execMramRowSpared (row : Nat) (uncorrectable : Bool) (s : State) : Host.Outcome State Fault Refusal := .next (s.mramSpare row uncorrectable)

/-- MRAM_SCRUB_STEP (R464). -/
def execMramScrubStep (corrected : List Nat) (uncorrectable : List Nat) (s : State) : Host.Outcome State Fault Refusal := .next (s.mramScrubStep corrected uncorrectable)

/-- MRAM_FAIL (R467). -/
def execMramFail (s : State) : Host.Outcome State Fault Refusal := .next (s.mramFails)

end Sys2Proof.Machine
end

