-- ==== Sys2Proof/Machine/Dispatch.lean ====
section
/-! DEFINITION. The meaning of each command, one arm per row of the table. -/

namespace Sys2Proof.Machine

open Sys2Proof

def exec (i : Instr) (s : State) : Host.Outcome State Fault Refusal :=
  match i with
  | .tick x => Sys2Proof.Machine.execTick x s
  | .outputUpdate => Sys2Proof.Machine.execOutputUpdate s
  | .placementCommit pl cycles => Sys2Proof.Machine.execPlacementCommit pl cycles s
  | .attemptOverrun pl cycles => Sys2Proof.Machine.execAttemptOverrun pl cycles s
  | .pairStall pl gap => Sys2Proof.Machine.execPairStall pl gap s
  | .reexecutionStart pl => Sys2Proof.Machine.execReexecutionStart pl s
  | .pairSelftestEnd pair pass => Sys2Proof.Machine.execPairSelftestEnd pair pass s
  | .spareSelftestStart pair => Sys2Proof.Machine.execSpareSelftestStart pair s
  | .selftestSwap => Sys2Proof.Machine.execSelftestSwap s
  | .reqBlocked cls => Sys2Proof.Machine.execReqBlocked cls s
  | .reqInService cls => Sys2Proof.Machine.execReqInService cls s
  | .reqTest cls => Sys2Proof.Machine.execReqTest cls s
  | .reqDormant cls => Sys2Proof.Machine.execReqDormant cls s
  | .reqWithdraw cls => Sys2Proof.Machine.execReqWithdraw cls s
  | .reqBadCode cls code => Sys2Proof.Machine.execReqBadCode cls code s
  | .requestTaken => Sys2Proof.Machine.execRequestTaken s
  | .failsafeEntry cause => Sys2Proof.Machine.execFailsafeEntry cause s
  | .failsafeCauseCleared cause => Sys2Proof.Machine.execFailsafeCauseCleared cause s
  | .healthOpen => Sys2Proof.Machine.execHealthOpen s
  | .rotationStepStart bank => Sys2Proof.Machine.execRotationStepStart bank s
  | .handover bank m => Sys2Proof.Machine.execHandover bank m s
  | .coreCalibrationEnd bank c => Sys2Proof.Machine.execCoreCalibrationEnd bank c s
  | .coreHardFault core => Sys2Proof.Machine.execCoreHardFault core s
  | .pilotWindowEnd ch amp ph => Sys2Proof.Machine.execPilotWindowEnd ch amp ph s
  | .suspectServiceStart bank => Sys2Proof.Machine.execSuspectServiceStart bank s
  | .refdacCheck bank point err => Sys2Proof.Machine.execRefdacCheck bank point err s
  | .refdacRecheck bank errs => Sys2Proof.Machine.execRefdacRecheck bank errs s
  | .refdacResume bank => Sys2Proof.Machine.execRefdacResume bank s
  | .fltCfgWrite cls v => Sys2Proof.Machine.execFltCfgWrite cls v s
  | .filterBoundary => Sys2Proof.Machine.execFilterBoundary s
  | .gainBoundary ch => Sys2Proof.Machine.execGainBoundary ch s
  | .settingApply => Sys2Proof.Machine.execSettingApply s
  | .auxEntryDone entry convs => Sys2Proof.Machine.execAuxEntryDone entry convs s
  | .auxInjTrigGo cls => Sys2Proof.Machine.execAuxInjTrigGo cls s
  | .injectedGroupStart => Sys2Proof.Machine.execInjectedGroupStart s
  | .injectedGroupDone convs => Sys2Proof.Machine.execInjectedGroupDone convs s
  | .auxCalStart => Sys2Proof.Machine.execAuxCalStart s
  | .auxCalStepDone offset gainPpm => Sys2Proof.Machine.execAuxCalStepDone offset gainPpm s
  | .auxCalLate => Sys2Proof.Machine.execAuxCalLate s
  | .definiteTimeExpiry inst => Sys2Proof.Machine.execDefiniteTimeExpiry inst s
  | .curveIntegratorFull inst => Sys2Proof.Machine.execCurveIntegratorFull inst s
  | .resetTimeExpiry inst => Sys2Proof.Machine.execResetTimeExpiry inst s
  | .invalidTimeout inst => Sys2Proof.Machine.execInvalidTimeout inst s
  | .trackingLost => Sys2Proof.Machine.execTrackingLost s
  | .directionalMemoryExpiry inst => Sys2Proof.Machine.execDirectionalMemoryExpiry inst s
  | .inrushHoldExpiry inst phase => Sys2Proof.Machine.execInrushHoldExpiry inst phase s
  | .coldLoadArm inst => Sys2Proof.Machine.execColdLoadArm inst s
  | .coldLoadActiveEnd inst => Sys2Proof.Machine.execColdLoadActiveEnd inst s
  | .tripMinPulseExpiry inst => Sys2Proof.Machine.execTripMinPulseExpiry inst s
  | .bfRetrip inst => Sys2Proof.Machine.execBfRetrip inst s
  | .bfTrip inst => Sys2Proof.Machine.execBfTrip inst s
  | .arReadyTimer inst => Sys2Proof.Machine.execArReadyTimer inst s
  | .arOpenTimeout inst => Sys2Proof.Machine.execArOpenTimeout inst s
  | .arDeadTimeExpiry inst => Sys2Proof.Machine.execArDeadTimeExpiry inst s
  | .arSyncTimeout inst => Sys2Proof.Machine.execArSyncTimeout inst s
  | .arClosePulseExpiry inst => Sys2Proof.Machine.execArClosePulseExpiry inst s
  | .arReclaimExpiry inst => Sys2Proof.Machine.execArReclaimExpiry inst s
  | .arDiscriminationExpiry inst => Sys2Proof.Machine.execArDiscriminationExpiry inst s
  | .zoneHoldoverLimit inst => Sys2Proof.Machine.execZoneHoldoverLimit inst s
  | .zsiTimeExpiry inst => Sys2Proof.Machine.execZsiTimeExpiry inst s
  | .zsiBlockWindowExpiry inst => Sys2Proof.Machine.execZsiBlockWindowExpiry inst s
  | .faultLocation inst => Sys2Proof.Machine.execFaultLocation inst s
  | .twMatchTimeout inst => Sys2Proof.Machine.execTwMatchTimeout inst s
  | .syncConfirmExpiry inst => Sys2Proof.Machine.execSyncConfirmExpiry inst s
  | .tcsAlarmExpiry inst => Sys2Proof.Machine.execTcsAlarmExpiry inst s
  | .tcsTripBlankExpiry inst => Sys2Proof.Machine.execTcsTripBlankExpiry inst s
  | .persistentLatchWrite inst => Sys2Proof.Machine.execPersistentLatchWrite inst s
  | .logicTimerExpiry inst => Sys2Proof.Machine.execLogicTimerExpiry inst s
  | .comparatorAssert c codes light => Sys2Proof.Machine.execComparatorAssert c codes light s
  | .comparatorRelease c codes => Sys2Proof.Machine.execComparatorRelease c codes s
  | .arcWindowExpiry c light => Sys2Proof.Machine.execArcWindowExpiry c light s
  | .expressReceived p lane0 lane1 => Sys2Proof.Machine.execExpressReceived p lane0 lane1 s
  | .expressCodeTimeout code => Sys2Proof.Machine.execExpressCodeTimeout code s
  | .fastCfgWrite cls addr v => Sys2Proof.Machine.execFastCfgWrite cls addr v s
  | .imageLoad cls arg => Sys2Proof.Machine.execImageLoad cls arg s
  | .chunkCommit cls v => Sys2Proof.Machine.execChunkCommit cls v s
  | .imageActivation cls arg => Sys2Proof.Machine.execImageActivation cls arg s
  | .templateActivation cls arg => Sys2Proof.Machine.execTemplateActivation cls arg s
  | .activationReferenceTick => Sys2Proof.Machine.execActivationReferenceTick s
  | .activationBoundary => Sys2Proof.Machine.execActivationBoundary s
  | .activated => Sys2Proof.Machine.execActivated s
  | .schGroupWrite cls v => Sys2Proof.Machine.execSchGroupWrite cls v s
  | .groupSwitch => Sys2Proof.Machine.execGroupSwitch s
  | .templateParamWrite cls v => Sys2Proof.Machine.execTemplateParamWrite cls v s
  | .couplerFail cpl frames => Sys2Proof.Machine.execCouplerFail cpl frames s
  | .couplerOk cpl frames => Sys2Proof.Machine.execCouplerOk cpl frames s
  | .outputHoldExpiry out => Sys2Proof.Machine.execOutputHoldExpiry out s
  | .inputAccepted di level count sec us => Sys2Proof.Machine.execInputAccepted di level count sec us s
  | .fieldSupplyReading vf tcs0 tcs1 => Sys2Proof.Machine.execFieldSupplyReading vf tcs0 tcs1 s
  | .fieldSagEnd => Sys2Proof.Machine.execFieldSagEnd s
  | .fieldBrownout => Sys2Proof.Machine.execFieldBrownout s
  | .fieldReady => Sys2Proof.Machine.execFieldReady s
  | .stuckOn out => Sys2Proof.Machine.execStuckOn out s
  | .outShort out => Sys2Proof.Machine.execOutShort out s
  | .thermalShutdown out => Sys2Proof.Machine.execThermalShutdown out s
  | .thermalOffExpiry out => Sys2Proof.Machine.execThermalOffExpiry out s
  | .crossDrive out by_ => Sys2Proof.Machine.execCrossDrive out by_ s
  | .outFailOff out => Sys2Proof.Machine.execOutFailOff out s
  | .outOpen out cur => Sys2Proof.Machine.execOutOpen out cur s
  | .outOverload out cur => Sys2Proof.Machine.execOutOverload out cur s
  | .crossInhClear cls v => Sys2Proof.Machine.execCrossInhClear cls v s
  | .fioCfgWrite cls addr v => Sys2Proof.Machine.execFioCfgWrite cls addr v s
  | .tcsContinuityChange n present => Sys2Proof.Machine.execTcsContinuityChange n present s
  | .ledgerWrite => Sys2Proof.Machine.execLedgerWrite s
  | .tokenReturn code => Sys2Proof.Machine.execTokenReturn code s
  | .cursorSeek cls => Sys2Proof.Machine.execCursorSeek cls s
  | .cursorOldest cls => Sys2Proof.Machine.execCursorOldest cls s
  | .cursorNewest cls => Sys2Proof.Machine.execCursorNewest cls s
  | .cursorNext cls => Sys2Proof.Machine.execCursorNext cls s
  | .cursorPrev cls => Sys2Proof.Machine.execCursorPrev cls s
  | .cursorFirst cls => Sys2Proof.Machine.execCursorFirst cls s
  | .cursorMoveDone cls => Sys2Proof.Machine.execCursorMoveDone cls s
  | .ledgerCommission cls arg => Sys2Proof.Machine.execLedgerCommission cls arg s
  | .ledgerClear cls arg => Sys2Proof.Machine.execLedgerClear cls arg s
  | .ledgerScanDone => Sys2Proof.Machine.execLedgerScanDone s
  | .capTrig cls => Sys2Proof.Machine.execCapTrig cls s
  | .captureEnd => Sys2Proof.Machine.execCaptureEnd s
  | .slotProtect cls => Sys2Proof.Machine.execSlotProtect cls s
  | .slotUnprotect cls => Sys2Proof.Machine.execSlotUnprotect cls s
  | .captureExport cls arg => Sys2Proof.Machine.execCaptureExport cls arg s
  | .leaseTimeout slot => Sys2Proof.Machine.execLeaseTimeout slot s
  | .ptpSync p m => Sys2Proof.Machine.execPtpSync p m s
  | .ptpFollowUp p seq t1 corr => Sys2Proof.Machine.execPtpFollowUp p seq t1 corr s
  | .ptpAnnounce p a => Sys2Proof.Machine.execPtpAnnounce p a s
  | .ptpPdelayReq p seq t2 t3 => Sys2Proof.Machine.execPtpPdelayReq p seq t2 t3 s
  | .ptpPdelayResp p t1p t2p t3p t4 => Sys2Proof.Machine.execPtpPdelayResp p t1p t2p t3p t4 s
  | .syncTimeout => Sys2Proof.Machine.execSyncTimeout s
  | .announceTimeout p => Sys2Proof.Machine.execAnnounceTimeout p s
  | .timeRealigned => Sys2Proof.Machine.execTimeRealigned s
  | .forceAcceptNext cls => Sys2Proof.Machine.execForceAcceptNext cls s
  | .forceSet cls => Sys2Proof.Machine.execForceSet cls s
  | .forceDisarm cls => Sys2Proof.Machine.execForceDisarm cls s
  | .ptpCtlWrite cls v => Sys2Proof.Machine.execPtpCtlWrite cls v s
  | .ptpTimeSecLoRead cls => Sys2Proof.Machine.execPtpTimeSecLoRead cls s
  | .ethLink m up speed => Sys2Proof.Machine.execEthLink m up speed s
  | .prpSupervision => Sys2Proof.Machine.execPrpSupervision s
  | .prpLanFault lan => Sys2Proof.Machine.execPrpLanFault lan s
  | .svFrameReceived m f => Sys2Proof.Machine.execSvFrameReceived m f s
  | .eventMessageReceived m f => Sys2Proof.Machine.execEventMessageReceived m f s
  | .mgmtFrame m f => Sys2Proof.Machine.execMgmtFrame m f s
  | .svPublish ctx => Sys2Proof.Machine.execSvPublish ctx s
  | .eventMessageRepeat ctx => Sys2Proof.Machine.execEventMessageRepeat ctx s
  | .eventContextExpiry ctx => Sys2Proof.Machine.execEventContextExpiry ctx s
  | .portClockReceived p => Sys2Proof.Machine.execPortClockReceived p s
  | .trainingAdvance p t => Sys2Proof.Machine.execTrainingAdvance p t s
  | .trainingTimeout p => Sys2Proof.Machine.execTrainingTimeout p s
  | .recoveryEntry p cause => Sys2Proof.Machine.execRecoveryEntry p cause s
  | .recoveryDone p t => Sys2Proof.Machine.execRecoveryDone p t s
  | .chainCycle => Sys2Proof.Machine.execChainCycle s
  | .cycleMarkReceived p arrival second cycle phase => Sys2Proof.Machine.execCycleMarkReceived p arrival second cycle phase s
  | .managementSlotReceived p slot => Sys2Proof.Machine.execManagementSlotReceived p slot s
  | .unitSlotReceived p pos slot => Sys2Proof.Machine.execUnitSlotReceived p pos slot s
  | .slotLoss addr => Sys2Proof.Machine.execSlotLoss addr s
  | .walkStart => Sys2Proof.Machine.execWalkStart s
  | .chainWalk tr delta => Sys2Proof.Machine.execChainWalk tr delta s
  | .chainRewalk cls arg => Sys2Proof.Machine.execChainRewalk cls arg s
  | .chainRingOpen => Sys2Proof.Machine.execChainRingOpen s
  | .chainRingClosed => Sys2Proof.Machine.execChainRingClosed s
  | .chainDeputyActive => Sys2Proof.Machine.execChainDeputyActive s
  | .chainNoRoot => Sys2Proof.Machine.execChainNoRoot s
  | .chainTimeLost => Sys2Proof.Machine.execChainTimeLost s
  | .remoteGo cls => Sys2Proof.Machine.execRemoteGo cls s
  | .remoteTransaction m entry => Sys2Proof.Machine.execRemoteTransaction m entry s
  | .remoteAnswer m entry => Sys2Proof.Machine.execRemoteAnswer m entry s
  | .remoteTimeout m => Sys2Proof.Machine.execRemoteTimeout m s
  | .chnXcpData0Read cls => Sys2Proof.Machine.execChnXcpData0Read cls s
  | .feedOutOfRange f mv => Sys2Proof.Machine.execFeedOutOfRange f mv s
  | .feedInRange f mv => Sys2Proof.Machine.execFeedInRange f mv s
  | .hingePeerChange asserted => Sys2Proof.Machine.execHingePeerChange asserted s
  | .hingeClaim => Sys2Proof.Machine.execHingeClaim s
  | .claimRecheck peer => Sys2Proof.Machine.execClaimRecheck peer s
  | .anchorFrameReceived words absent => Sys2Proof.Machine.execAnchorFrameReceived words absent s
  | .anchorAdopt => Sys2Proof.Machine.execAnchorAdopt s
  | .activateOrder gen => Sys2Proof.Machine.execActivateOrder gen s
  | .readyReport => Sys2Proof.Machine.execReadyReport s
  | .handoverWrite cls v => Sys2Proof.Machine.execHandoverWrite cls v s
  | .handoverRequest => Sys2Proof.Machine.execHandoverRequest s
  | .handoverAcknowledge => Sys2Proof.Machine.execHandoverAcknowledge s
  | .handoverTimeout => Sys2Proof.Machine.execHandoverTimeout s
  | .hingeStandby => Sys2Proof.Machine.execHingeStandby s
  | .hingeWireFault => Sys2Proof.Machine.execHingeWireFault s
  | .wireFaultClear => Sys2Proof.Machine.execWireFaultClear s
  | .hingeCtlNoTick => Sys2Proof.Machine.execHingeCtlNoTick s
  | .hostRead path frame => Sys2Proof.Machine.execHostRead path frame s
  | .hostWrite path frame => Sys2Proof.Machine.execHostWrite path frame s
  | .hostQuadRead path frame => Sys2Proof.Machine.execHostQuadRead path frame s
  | .hostQuadWrite path frame => Sys2Proof.Machine.execHostQuadWrite path frame s
  | .badCommand path frame => Sys2Proof.Machine.execBadCommand path frame s
  | .frameEndedShort path n => Sys2Proof.Machine.execFrameEndedShort path n s
  | .registerWrite cls addr v => Sys2Proof.Machine.execRegisterWrite cls addr v s
  | .irqStatClear cls v => Sys2Proof.Machine.execIrqStatClear cls v s
  | .nmeStatClear cls v => Sys2Proof.Machine.execNmeStatClear cls v s
  | .pairSelfTest cls arg => Sys2Proof.Machine.execPairSelfTest cls arg s
  | .foregroundAfeCalibration cls arg => Sys2Proof.Machine.execForegroundAfeCalibration cls arg s
  | .mramScrub cls arg => Sys2Proof.Machine.execMramScrub cls arg s
  | .breakerWearReset cls arg => Sys2Proof.Machine.execBreakerWearReset cls arg s
  | .jobCancel cls ticket => Sys2Proof.Machine.execJobCancel cls ticket s
  | .jobStep j => Sys2Proof.Machine.execJobStep j s
  | .clockFailure c => Sys2Proof.Machine.execClockFailure c s
  | .sysPllRelock => Sys2Proof.Machine.execSysPllRelock s
  | .convPllLock => Sys2Proof.Machine.execConvPllLock s
  | .ircRestart => Sys2Proof.Machine.execIrcRestart s
  | .ircStable => Sys2Proof.Machine.execIrcStable s
  | .refclkStable mhz => Sys2Proof.Machine.execRefclkStable mhz s
  | .refOk => Sys2Proof.Machine.execRefOk s
  | .refReturn cls => Sys2Proof.Machine.execRefReturn cls s
  | .refEnWrite cls v => Sys2Proof.Machine.execRefEnWrite cls v s
  | .level2RecoveryValid => Sys2Proof.Machine.execLevel2RecoveryValid s
  | .trim irc lfo => Sys2Proof.Machine.execTrim irc lfo s
  | .measurementGo cls v => Sys2Proof.Machine.execMeasurementGo cls v s
  | .measurementDone count => Sys2Proof.Machine.execMeasurementDone count s
  | .railSettled => Sys2Proof.Machine.execRailSettled s
  | .engineFrequencyChange => Sys2Proof.Machine.execEngineFrequencyChange s
  | .opLower => Sys2Proof.Machine.execOpLower s
  | .leafOffRequest cls v => Sys2Proof.Machine.execLeafOffRequest cls v s
  | .leafGated leaf => Sys2Proof.Machine.execLeafGated leaf s
  | .leafRestart cls v => Sys2Proof.Machine.execLeafRestart cls v s
  | .groupOffRequest cls v => Sys2Proof.Machine.execGroupOffRequest cls v s
  | .feedRise f mv => Sys2Proof.Machine.execFeedRise f mv s
  | .powerOnResetRelease => Sys2Proof.Machine.execPowerOnResetRelease s
  | .railsInRegulation b => Sys2Proof.Machine.execRailsInRegulation b s
  | .pllsLocked => Sys2Proof.Machine.execPllsLocked s
  | .defectMapRead identityOk => Sys2Proof.Machine.execDefectMapRead identityOk s
  | .shortSelfTestDone t => Sys2Proof.Machine.execShortSelfTestDone t s
  | .slotSelection latchFail => Sys2Proof.Machine.execSlotSelection latchFail s
  | .afeReferenceSettled => Sys2Proof.Machine.execAfeReferenceSettled s
  | .filterSettled => Sys2Proof.Machine.execFilterSettled s
  | .windowsValid => Sys2Proof.Machine.execWindowsValid s
  | .powerFailDeclared holdMv => Sys2Proof.Machine.execPowerFailDeclared holdMv s
  | .flushEnd => Sys2Proof.Machine.execFlushEnd s
  | .commitDone => Sys2Proof.Machine.execCommitDone s
  | .holdSpent holdMv => Sys2Proof.Machine.execHoldSpent holdMv s
  | .holdReady tCharge => Sys2Proof.Machine.execHoldReady tCharge s
  | .holdFault k => Sys2Proof.Machine.execHoldFault k s
  | .railFault rail => Sys2Proof.Machine.execRailFault rail s
  | .resetNLow => Sys2Proof.Machine.execResetNLow s
  | .resetNRise => Sys2Proof.Machine.execResetNRise s
  | .hostReset cls => Sys2Proof.Machine.execHostReset cls s
  | .hostResetEffect => Sys2Proof.Machine.execHostResetEffect s
  | .hcRestart => Sys2Proof.Machine.execHcRestart s
  | .counterBlockWrite ot => Sys2Proof.Machine.execCounterBlockWrite ot s
  | .dormantEntry => Sys2Proof.Machine.execDormantEntry s
  | .persistenceWake ot => Sys2Proof.Machine.execPersistenceWake ot s
  | .wakePin => Sys2Proof.Machine.execWakePin s
  | .wakeTimer ot => Sys2Proof.Machine.execWakeTimer ot s
  | .feedWake f => Sys2Proof.Machine.execFeedWake f s
  | .pwrOtLoRead cls => Sys2Proof.Machine.execPwrOtLoRead cls s
  | .defectMapWrite => Sys2Proof.Machine.execDefectMapWrite s
  | .ssRowSpared row reason => Sys2Proof.Machine.execSsRowSpared row reason s
  | .ssScrub corrected uncorrectable => Sys2Proof.Machine.execSsScrub corrected uncorrectable s
  | .mramRowSpared row uncorrectable => Sys2Proof.Machine.execMramRowSpared row uncorrectable s
  | .mramScrubStep corrected uncorrectable => Sys2Proof.Machine.execMramScrubStep corrected uncorrectable s
  | .mramFail => Sys2Proof.Machine.execMramFail s
  | .crossbarFailure => Sys2Proof.Machine.execCrossbarFailure s
  | .lfoStable => Sys2Proof.Machine.execLfoStable s
  | .refclkAbsent => Sys2Proof.Machine.execRefclkAbsent s
  | .pllHoldStop => Sys2Proof.Machine.execPllHoldStop s
  | .localCycle p => Sys2Proof.Machine.execLocalCycle p s

end Sys2Proof.Machine
end

