-- ==== Sys2Proof/Machine/Step.lean ====
section
/-! DEFINITION. One step: the command at the front of the queue, or idle time on an empty queue. -/

namespace Sys2Proof.Machine

/-- The state whose queue is what follows the front command. -/
def State.rest (s : State) (cs : List Instr) : State := { s with pending := cs }

/-- One step of the block: the front command's effect on the state with the queue's rest; on an empty queue 1 µs of OT passes (log entry 2). -/
def step (s : State) : Host.Outcome State Fault Refusal :=
  match s.pending with
  | c :: cs => exec c (s.rest cs)
  | [] => .next s.idle

/-- The command that a word spells, put at the front of the queue. The table gives its rows no bits, so no word spells a command. -/
def State.withFetchWord (s : State) (nbits w : Nat) : State :=
  match Sys2Proof.decodeTableWord nbits w with
  | some c => { s with pending := c :: s.pending }
  | none => s

end Sys2Proof.Machine
end

