-- ==== Sys2Proof/Safety.lean ====
section
/-! DEFINITION. What counts as a safe state and a safe step, in the terms that the statements use: the invariant of the stores, the parts of the state that a command may change, the conditions under which a register write takes effect. -/

namespace Sys2Proof.Machine

/-! ### Safe states and steps -/

/-- The staging ring keeps entries in OT order (R273). -/
def Ledger.ordered (l : Ledger) : Prop := l.ring.Pairwise (fun a b => a.ot ≤ b.ot)

/-- A state that keeps what the spec says of its stores: MRAM in canonical form, at most 4 submitted jobs outstanding (R398), at most 512 entries in the staging ring, in OT order (R273). -/
def State.Inv (s : State) : Prop := Memory.wf s.mram = true ∧ s.job.out.length ≤ 4 ∧ s.ldg.ring.length ≤ 512 ∧ s.ldg.ordered

/-- A step that goes on: it neither faults nor is refused. -/
def Goes (o : Host.Outcome State Fault Refusal) : Prop := ∃ t, o = .next t

/-- The state that a step answers, where it goes on. -/
def Leads (o : Host.Outcome State Fault Refusal) (P : State → Prop) : Prop := ∃ t, o = .next t ∧ P t

/-! ### What a command may change -/

/-- The parts of the state, apart from the queue of waiting commands. -/
inductive Part where
  | st | req | due | ticks | causes | health | irq | nme | host | key | job | ring | ledger | cap | trip | clk
  | pwr | dm | nv | afe | flt | aux | pe | trk | sch | fst | fio | ptp | svc | chn | hng | regs | defer | mram | free
  deriving DecidableEq, Repr

/-- Two states agree in a part. -/
def Same (s t : State) : Part → Prop
  | .st => t.sys.st = s.sys.st ∧ t.sys.lastCause = s.sys.lastCause ∧ t.sys.failFrom = s.sys.failFrom ∧ t.sys.autoTick = s.sys.autoTick ∧ t.sys.shutting = s.sys.shutting ∧ t.sys.bootFrom = s.sys.bootFrom
  | .req => t.sys.pend = s.sys.pend ∧ t.sys.reqVal = s.sys.reqVal ∧ t.sys.reqOt = s.sys.reqOt ∧ t.sys.reqResult = s.sys.reqResult
  | .due => t.sys.reqDue = s.sys.reqDue ∧ t.sys.reqHold = s.sys.reqHold ∧ t.sys.autoDue = s.sys.autoDue
  | .ticks => t.sys.ticks = s.sys.ticks
  | .causes => t.sys.causes = s.sys.causes
  | .health => t.sys.health = s.sys.health
  | .irq => t.sys.irq = s.sys.irq
  | .nme => t.sys.nme = s.sys.nme
  | .host => t.host = s.host
  | .key => t.key = s.key
  | .job => t.job = s.job
  | .ring => t.ldg.ring = s.ldg.ring ∧ t.ldg.ovLow = s.ldg.ovLow ∧ t.ldg.ovHigh = s.ldg.ovHigh ∧ t.ldg.lostLow = s.ldg.lostLow ∧ t.ldg.lostHigh = s.ldg.lostHigh ∧ t.ldg.closed = s.ldg.closed ∧ t.ldg.pfLost = s.ldg.pfLost ∧ t.ldg.lateLost = s.ldg.lateLost ∧ t.ldg.buckets = s.ldg.buckets
  | .ledger => t.ldg.scanning = s.ldg.scanning ∧ t.ldg.commissioned = s.ldg.commissioned ∧ t.ldg.firstFull = s.ldg.firstFull ∧ t.ldg.nextSeq = s.ldg.nextSeq ∧ t.ldg.floor = s.ldg.floor ∧ t.ldg.first = s.ldg.first ∧ t.ldg.circ = s.ldg.circ ∧ t.ldg.firstPos = s.ldg.firstPos ∧ t.ldg.circPos = s.ldg.circPos ∧ t.ldg.cursors = s.ldg.cursors
  | .cap => t.cap.buf = s.cap.buf ∧ t.cap.recording = s.cap.recording ∧ t.cap.waiting = s.cap.waiting ∧ t.cap.writing = s.cap.writing ∧ t.cap.written = s.cap.written ∧ t.cap.slots = s.cap.slots ∧ t.cap.lost = s.cap.lost ∧ t.cap.hostTrig = s.cap.hostTrig ∧ t.cap.nextNum = s.cap.nextNum ∧ t.cap.prev = s.cap.prev ∧ t.cap.due = s.cap.due ∧ t.cap.host = s.cap.host
  | .trip => t.cap.trip = s.cap.trip
  | .clk => t.clk = s.clk
  | .pwr => t.pwr = s.pwr
  | .dm => t.dm = s.dm
  | .nv => t.nv = s.nv
  | .afe => t.afe = s.afe
  | .flt => t.flt = s.flt
  | .aux => t.aux = s.aux
  | .pe => t.pe = s.pe
  | .trk => t.trk = s.trk
  | .sch => t.sch = s.sch
  | .fst => t.fst = s.fst
  | .fio => t.fio = s.fio
  | .ptp => t.ptp = s.ptp
  | .svc => t.svc = s.svc
  | .chn => t.chn = s.chn
  | .hng => t.hng = s.hng
  | .regs => t.regs = s.regs
  | .defer => t.defer = s.defer
  | .mram => t.mram = s.mram
  | .free => t.free = s.free

/-- A state has the queue of another one and agrees with it in every part that a list does not name. -/
def SameBut (l : List Part) (s t : State) : Prop := t.pending = s.pending ∧ ∀ p, p ∉ l → Same s t p

/-- The parts that each command may change: what its rule names, what follows at once from that, and, for a write or a read of a register, the count and the record of a refusal by the keyway (R396). -/
def touches : Instr → List Part
  | .tick _ => [.due, .ticks, .causes, .irq, .job, .ring, .cap, .trip, .clk, .pwr, .nv, .afe, .flt, .aux, .pe, .trk, .sch, .fst, .fio, .ptp, .svc, .chn, .hng]
  | .outputUpdate => [.st, .health, .irq, .nme, .job, .ring, .trip, .pwr, .nv, .afe, .flt, .pe, .sch, .fst, .fio, .chn, .hng]
  | .placementCommit _ _ => [.irq, .ring, .trip, .clk, .nv, .aux, .pe, .fst, .svc, .chn]
  | .attemptOverrun _ _ | .pairStall _ _ => [.causes, .irq, .ring, .trip, .clk, .nv, .pe, .fio, .hng]
  | .reexecutionStart _ | .spareSelftestStart _ | .definiteTimeExpiry _ | .curveIntegratorFull _ | .resetTimeExpiry _ | .invalidTimeout _ | .directionalMemoryExpiry _ | .inrushHoldExpiry _ _ | .coldLoadArm _ | .coldLoadActiveEnd _ | .tripMinPulseExpiry _ | .bfRetrip _ | .bfTrip _ | .arReadyTimer _ | .arOpenTimeout _ | .arDeadTimeExpiry _ | .arSyncTimeout _ | .arClosePulseExpiry _ | .arReclaimExpiry _ | .arDiscriminationExpiry _ | .zoneHoldoverLimit _ | .zsiTimeExpiry _ | .zsiBlockWindowExpiry _ | .faultLocation _ | .twMatchTimeout _ | .syncConfirmExpiry _ | .tcsAlarmExpiry _ | .tcsTripBlankExpiry _ | .logicTimerExpiry _ => [.pe]
  | .pairSelftestEnd _ _ => [.causes, .irq, .job, .ring, .trip, .dm, .pe]
  | .selftestSwap => [.irq, .job, .ring, .trip, .pe]
  | .reqBlocked _ | .reqInService _ | .reqTest _ | .reqDormant _ | .reqWithdraw _ | .reqBadCode _ _ => [.req, .due, .irq, .key, .ring, .trip]
  | .requestTaken => [.st, .req, .irq, .nme, .job, .ring, .trip, .pwr, .afe, .flt, .pe, .fst, .fio, .chn, .hng]
  | .failsafeEntry _ | .failsafeCauseCleared _ | .hingePeerChange _ | .hingeClaim | .claimRecheck _ | .filterSettled | .windowsValid => [.st, .irq, .nme, .job, .ring, .trip, .pwr, .afe, .flt, .fst, .fio, .chn, .hng]
  | .healthOpen => [.health]
  | .rotationStepStart _ | .suspectServiceStart _ | .refdacRecheck _ _ | .refdacResume _ => [.afe]
  | .handover _ _ => [.causes, .irq, .ring, .trip, .dm, .afe, .flt]
  | .coreCalibrationEnd _ _ => [.irq, .ring, .trip, .dm, .afe]
  | .coreHardFault _ => [.irq, .ring, .trip, .dm, .afe, .flt]
  | .pilotWindowEnd _ _ _ => [.causes, .irq, .ring, .trip, .afe]
  | .refdacCheck _ _ _ => [.irq, .ring, .trip, .afe]
  | .fltCfgWrite _ _ => [.irq, .key, .ring, .trip, .nv, .flt, .regs]
  | .filterBoundary => [.causes, .irq, .ring, .trip, .clk, .afe, .flt, .fst, .chn]
  | .gainBoundary _ => [.irq, .ring, .trip, .clk, .afe, .flt, .fst, .chn]
  | .settingApply => [.causes, .irq, .ring, .trip, .clk, .afe, .sch, .fst, .fio, .chn, .regs, .defer]
  | .auxEntryDone _ _ | .auxCalStepDone _ _ | .auxCalLate => [.irq, .ring, .trip, .aux]
  | .auxInjTrigGo _ => [.irq, .key, .ring, .trip, .aux]
  | .injectedGroupStart | .injectedGroupDone _ | .auxCalStart => [.aux]
  | .trackingLost => [.trk]
  | .persistentLatchWrite _ => [.nv]
  | .comparatorAssert _ _ _ | .comparatorRelease _ _ => [.irq, .ring, .trip, .clk, .fst, .chn, .free]
  | .arcWindowExpiry _ _ => [.irq, .ring, .trip, .clk, .fst, .chn]
  | .expressReceived _ _ _ | .expressCodeTimeout _ | .localCycle _ => [.irq, .ring, .trip, .fst, .chn]
  | .fastCfgWrite _ _ _ => [.irq, .key, .ring, .trip, .nv, .fst, .regs, .defer]
  | .imageLoad _ _ | .imageActivation _ _ | .templateActivation _ _ | .ledgerCommission _ _ | .ledgerClear _ _ | .captureExport _ _ | .chainRewalk _ _ | .pairSelfTest _ _ | .foregroundAfeCalibration _ _ | .mramScrub _ _ | .breakerWearReset _ _ | .jobCancel _ _ => [.causes, .irq, .key, .job, .ring, .cap, .trip, .clk, .dm, .afe, .flt, .pe, .sch, .ptp, .chn, .hng, .mram]
  | .chunkCommit _ _ => [.irq, .key, .job, .ring, .trip, .sch, .regs]
  | .activationReferenceTick => [.st, .due, .causes, .irq, .nme, .key, .job, .ring, .cap, .trip, .pwr, .nv, .afe, .flt, .pe, .trk, .sch, .fst, .fio, .svc, .chn, .hng, .regs, .defer]
  | .activationBoundary => [.causes, .irq, .ring, .trip, .clk, .afe, .flt, .sch, .fst, .chn]
  | .activated | .hingeStandby => [.st, .irq, .nme, .job, .ring, .trip, .pwr, .afe, .flt, .sch, .fst, .fio, .chn, .hng]
  | .schGroupWrite _ _ => [.irq, .key, .ring, .trip, .nv, .sch]
  | .groupSwitch => [.irq, .ring, .trip, .sch]
  | .templateParamWrite _ _ => [.irq, .key, .ring, .trip, .sch]
  | .couplerFail _ _ | .fieldBrownout => [.health, .irq, .ring, .trip, .clk, .fst, .fio, .chn]
  | .couplerOk _ _ | .inputAccepted _ _ _ _ _ | .fieldReady => [.irq, .ring, .trip, .clk, .fst, .fio, .chn]
  | .outputHoldExpiry _ | .thermalShutdown _ | .thermalOffExpiry _ | .tcsContinuityChange _ _ => [.fio]
  | .fieldSupplyReading _ _ _ | .fieldSagEnd | .outShort _ | .crossDrive _ _ | .outFailOff _ | .outOpen _ _ | .outOverload _ _ => [.irq, .ring, .trip, .fio]
  | .stuckOn _ => [.irq, .nme, .ring, .trip, .fio]
  | .crossInhClear _ _ => [.irq, .key, .ring, .trip, .fio]
  | .fioCfgWrite _ _ _ => [.irq, .key, .ring, .trip, .nv, .fio, .regs, .defer]
  | .ledgerWrite => [.irq, .ring, .ledger, .trip, .dm, .mram]
  | .tokenReturn _ => [.irq, .ring, .trip]
  | .cursorSeek _ | .cursorOldest _ | .cursorNewest _ | .cursorNext _ | .cursorPrev _ | .cursorFirst _ => [.irq, .key, .ring, .ledger, .trip]
  | .cursorMoveDone _ => [.ledger]
  | .ledgerScanDone | .flushEnd => [.irq, .ring, .ledger, .trip, .pwr, .dm, .mram]
  | .capTrig _ => [.irq, .key, .ring, .cap, .trip]
  | .captureEnd => [.cap, .trip]
  | .slotProtect _ | .slotUnprotect _ => [.irq, .key, .ring, .cap, .trip, .dm, .mram]
  | .leaseTimeout _ => [.irq, .job, .ring, .cap, .trip]
  | .ptpSync _ _ | .ptpFollowUp _ _ _ _ | .ethLink _ _ _ => [.irq, .ring, .trip, .clk, .ptp, .svc]
  | .ptpAnnounce _ _ | .syncTimeout | .announceTimeout _ => [.irq, .ring, .trip, .clk, .ptp]
  | .ptpPdelayReq _ _ _ _ | .prpSupervision | .svFrameReceived _ _ | .svPublish _ | .eventMessageRepeat _ => [.svc]
  | .ptpPdelayResp _ _ _ _ _ => [.ptp]
  | .timeRealigned => [.irq, .ring, .trip, .ptp]
  | .forceAcceptNext _ | .forceSet _ | .forceDisarm _ => [.irq, .key, .ring, .trip, .clk, .ptp, .svc]
  | .ptpCtlWrite _ _ => [.irq, .key, .ring, .trip, .clk, .nv, .ptp, .regs]
  | .ptpTimeSecLoRead _ => [.irq, .key, .ring, .trip, .ptp]
  | .prpLanFault _ | .eventMessageReceived _ _ | .eventContextExpiry _ => [.irq, .ring, .trip, .svc]
  | .mgmtFrame _ _ | .managementSlotReceived _ _ | .remoteTransaction _ _ | .hostRead _ _ | .hostWrite _ _ | .hostQuadRead _ _ | .hostQuadWrite _ _ | .badCommand _ _ => [.req, .due, .causes, .irq, .nme, .host, .key, .job, .ring, .ledger, .cap, .trip, .clk, .pwr, .dm, .nv, .afe, .flt, .aux, .pe, .sch, .fst, .fio, .ptp, .svc, .chn, .hng, .regs, .defer, .mram, .free]
  | .portClockReceived _ | .remoteAnswer _ _ | .remoteTimeout _ => [.chn]
  | .trainingAdvance _ _ | .recoveryDone _ _ => [.irq, .ring, .trip, .clk, .dm, .ptp, .chn]
  | .trainingTimeout _ | .chainDeputyActive | .chainTimeLost | .pllHoldStop => [.irq, .ring, .trip, .clk, .ptp, .chn]
  | .recoveryEntry _ _ | .unitSlotReceived _ _ _ | .slotLoss _ | .walkStart | .chainRingClosed | .chainNoRoot => [.irq, .ring, .trip, .chn]
  | .chainCycle => [.st, .irq, .nme, .job, .ring, .trip, .clk, .pwr, .afe, .flt, .fst, .fio, .ptp, .chn, .hng, .free]
  | .cycleMarkReceived _ _ _ _ _ => [.st, .irq, .nme, .job, .ring, .trip, .clk, .pwr, .afe, .flt, .fst, .fio, .ptp, .svc, .chn, .hng]
  | .chainWalk _ _ | .chainRingOpen => [.irq, .job, .ring, .trip, .chn]
  | .remoteGo _ | .chnXcpData0Read _ => [.irq, .key, .ring, .trip, .chn]
  | .feedOutOfRange _ _ => [.causes, .irq, .ring, .trip, .pwr, .fio, .hng]
  | .feedInRange _ _ | .hostResetEffect | .dormantEntry => [.st, .req, .due, .ticks, .causes, .health, .irq, .nme, .host, .key, .job, .ring, .ledger, .cap, .trip, .clk, .pwr, .dm, .nv, .afe, .flt, .aux, .pe, .trk, .sch, .fst, .fio, .ptp, .svc, .chn, .hng, .regs, .defer, .mram]
  | .anchorFrameReceived _ _ | .readyReport | .handoverRequest | .handoverAcknowledge | .handoverTimeout | .wireFaultClear | .hingeCtlNoTick => [.hng]
  | .anchorAdopt => [.pe, .hng]
  | .activateOrder _ => [.sch]
  | .handoverWrite _ _ => [.irq, .key, .ring, .trip, .nv, .hng, .regs, .free]
  | .hingeWireFault => [.irq, .ring, .trip, .hng]
  | .frameEndedShort _ _ => [.irq, .host, .ring, .trip]
  | .registerWrite _ _ _ => [.req, .due, .causes, .irq, .nme, .key, .job, .ring, .ledger, .cap, .trip, .clk, .pwr, .dm, .nv, .afe, .flt, .aux, .pe, .sch, .fst, .fio, .ptp, .svc, .chn, .hng, .regs, .defer, .mram, .free]
  | .irqStatClear _ _ => [.irq, .key, .ring, .trip]
  | .nmeStatClear _ _ => [.irq, .nme, .key, .ring, .trip]
  | .jobStep _ => [.irq, .job, .ring, .ledger, .cap, .trip, .dm, .nv, .afe, .flt, .pe, .sch, .mram]
  | .clockFailure _ => [.st, .due, .causes, .irq, .nme, .job, .ring, .trip, .clk, .pwr, .afe, .flt, .pe, .fst, .fio, .chn, .hng]
  | .sysPllRelock => [.irq, .ring, .trip, .clk, .pe, .fst, .chn]
  | .convPllLock => [.irq, .ring, .trip, .clk, .flt]
  | .ircRestart | .measurementDone _ | .railSettled | .engineFrequencyChange | .opLower | .lfoStable => [.clk]
  | .ircStable | .refclkStable _ | .pllsLocked => [.clk, .pwr]
  | .refOk => [.irq, .ring, .trip, .clk]
  | .refReturn _ | .refEnWrite _ _ => [.irq, .key, .ring, .trip, .clk, .nv, .regs]
  | .level2RecoveryValid | .crossbarFailure => [.st, .causes, .irq, .nme, .job, .ring, .trip, .pwr, .afe, .flt, .fst, .fio, .chn, .hng]
  | .trim _ _ => [.irq, .ring, .trip, .clk, .pwr]
  | .measurementGo _ _ | .leafOffRequest _ _ | .leafRestart _ _ | .groupOffRequest _ _ => [.irq, .key, .ring, .trip, .clk, .regs]
  | .leafGated _ => [.irq, .ring, .trip, .clk, .ptp, .svc, .chn]
  | .feedRise _ _ | .commitDone | .holdSpent _ | .railFault _ | .resetNLow | .wakePin | .wakeTimer _ | .feedWake _ => [.st, .req, .due, .ticks, .causes, .health, .irq, .nme, .host, .key, .job, .ring, .ledger, .cap, .trip, .clk, .pwr, .dm, .nv, .afe, .flt, .aux, .pe, .trk, .sch, .fst, .fio, .ptp, .svc, .chn, .hng, .regs, .defer]
  | .powerOnResetRelease | .resetNRise | .counterBlockWrite _ | .persistenceWake _ => [.pwr]
  | .railsInRegulation _ => [.st, .irq, .host, .key, .ring, .ledger, .cap, .trip, .pwr, .nv, .afe, .aux, .sch, .regs]
  | .defectMapRead _ => [.st, .causes, .irq, .nme, .job, .ring, .trip, .pwr, .dm, .afe, .flt, .pe, .fst, .fio, .chn, .hng]
  | .shortSelfTestDone _ => [.st, .causes, .irq, .nme, .job, .ring, .trip, .pwr, .dm, .afe, .flt, .pe, .fst, .fio, .chn, .hng, .mram]
  | .slotSelection _ => [.causes, .irq, .key, .ring, .trip, .clk, .pwr, .nv, .afe, .flt, .pe, .trk, .sch, .fst, .fio, .svc, .chn, .hng, .regs, .defer]
  | .afeReferenceSettled => [.pwr, .flt]
  | .powerFailDeclared _ => [.st, .causes, .irq, .nme, .job, .ring, .cap, .trip, .pwr, .dm, .nv, .afe, .flt, .pe, .sch, .mram]
  | .holdReady _ | .holdFault _ => [.irq, .ring, .trip, .pwr]
  | .hostReset _ | .pwrOtLoRead _ => [.irq, .key, .ring, .trip, .pwr]
  | .hcRestart => [.causes, .irq, .job, .ring, .cap, .trip, .pwr, .dm, .afe, .flt, .pe, .sch, .mram]
  | .defectMapWrite => [.dm, .mram]
  | .ssRowSpared _ _ | .mramRowSpared _ _ | .mramFail => [.irq, .ring, .trip, .dm]
  | .ssScrub _ _ => [.irq, .ring, .trip, .dm, .nv]
  | .mramScrubStep _ _ => [.irq, .ring, .cap, .trip, .dm, .nv]
  | .refclkAbsent => [.irq, .nme, .ring, .trip, .clk, .pwr]

/-! ### When a register write takes effect -/

/-- The keyway lets a class write an address (R394, R395). -/
def State.grantsWrite (s : State) (cls : KeyClass) (a : Nat) : Prop :=
  match targetOf a with
  | some t => s.may cls a (romWrite t) 1 = true
  | none => False

/-- A write of an address by a class takes effect: its path carries transactions, no power fail runs, the module is past BOOT, and the keyway lets the class write there (R387, R388, R394, R439). -/
def State.mayWrite (s : State) (cls : KeyClass) (a : Nat) : Prop :=
  s.pathUp cls = true ∧ s.pwr.pf = PfStage.none ∧ s.sys.st ≠ OpState.boot ∧ s.grantsWrite cls a

/-- A read of an address by a class is carried out: its path carries transactions, no power fail runs, and the keyway lets the class read there (R387, R394, R439). -/
def State.mayRead (s : State) (cls : KeyClass) (a : Nat) : Prop :=
  s.pathUp cls = true ∧ s.pwr.pf = PfStage.none ∧
    match targetOf a with
    | some t => s.may cls a (romRead t) 0 = true
    | none => False

/-! ### An instance and its record -/

/-- The view that an instance of an attempt has: the stores, and before them what the attempt has written (R98). -/
def State.env (s : State) (a : Attempt) (c : InstCfg) : Env := { s := s, place := c.place, b := a.bnets, a := a.anets, els := a.els }

/-- An instance of given kinds by its number, with its configuration, the attempt that runs for its placement and its record there, while ticks run. -/
def State.holds (s : State) (a : Attempt) (num : Nat) (kinds : List Nat) (c : InstCfg) (e : ElemSt) : Prop :=
  s.ticking = true ∧ s.sch.cfg.insts.find? (fun c => c.num = num) = some c ∧ s.attOf c.place = some a ∧ (a.st = .running ∨ a.st = .reexec) ∧
    a.els.find? (fun e => e.num = num) = some e ∧ c.kind ∈ kinds

/-- A command goes on and gives the record of one instance a new value in its placement's attempt, every other record there as it was; the committed records stay as they are (R98). -/
def Settles (o : Host.Outcome State Fault Refusal) (s : State) (a : Attempt) (e : ElemSt) : Prop :=
  Leads o fun t => t.pe.els = s.pe.els ∧ ∃ x, t.attOf a.pl = some x ∧ x.els = putEls a.els [e]

/-! ### The operating states (R26) -/

/-- The rows of the transition table by the command that carries their trigger: the command, the state it finds, the state it leaves (R26, and R240, R367, R374, R443, R450, R453 for the rows that name their chapters). No other command moves the module. -/
def mayMove (c : Instr) (a b : OpState) : Prop :=
  match c with
  | .feedRise _ _ => a = .off ∧ b = .boot
  | .holdSpent _ => a ≠ .off ∧ b = .off
  | .dormantEntry => a ∈ [.blocked, .failsafe] ∧ b ∈ [.dormant, .boot]
  | .wakePin | .wakeTimer _ | .feedWake _ => a = .dormant ∧ b = .boot
  | .resetNLow | .railFault _ => a ≠ .off ∧ b = .boot
  | .hostResetEffect | .feedInRange _ _ => a ∉ [.off, .dormant] ∧ b = .boot
  | .commitDone => b = .boot
  | .filterSettled => a = .boot ∧ b = .blocked
  | .defectMapRead _ | .shortSelfTestDone _ | .crossbarFailure => a = .boot ∧ b = .failsafe
  | .windowsValid | .hingeClaim | .activated => a = .blocked ∧ b = .inService
  | .claimRecheck _ => a = .inService ∧ b = .blocked
  | .hingePeerChange _ | .chainCycle | .cycleMarkReceived _ _ _ _ _ => a ∈ [.blocked, .standby] ∧ b = .inService
  | .hingeStandby => a ∈ [.blocked, .failsafe] ∧ b = .standby
  | .outputUpdate => a = .inService ∧ b = .standby
  | .activationReferenceTick => a ∈ [.inService, .standby] ∧ b = .blocked
  | .failsafeEntry _ | .clockFailure _ => a ∈ [.blocked, .inService, .standby, .test] ∧ b = .failsafe
  | .failsafeCauseCleared _ | .level2RecoveryValid => a = .failsafe ∧ b ∈ [.inService, .blocked]
  | .requestTaken => (a ∈ [.inService, .standby, .test, .failsafe] ∧ b = .blocked) ∨ (a = .blocked ∧ b ∈ [.inService, .test])
  | _ => False

/-! ### The clock fallback -/

/-- The module has fallen from one state to level 1 with a cause (R415, R416, R417): the SYS domain on the IRC, the CONV PLL and a LANE PLL of its own in hold, uncommitted work discarded, NME_N set, the operating state as before. -/
def FellToOne (k : Nat) (s t : State) : Prop :=
  t.clk.level = 1 ∧ t.clk.cause = k ∧ t.clk.level1 = satInc 255 s.clk.level1 ∧ t.clk.ref = 1 ∧ t.clk.refOk = false ∧ t.clk.sysSrc = 1 ∧ t.clk.sysLock = false ∧ t.clk.muxForced = true ∧
    t.clk.convLock = false ∧ t.clk.convHold = (s.clk.convHold || s.clk.convLock) ∧ t.clk.laneLock = (s.clk.laneLock && !s.localLane) ∧ t.clk.lastRaise = s.pwr.ot ∧
    (s.opPin ≠ 1 → s.pwr.pf = .none → t.clk.railHigh = true) ∧
    t.pe.att = s.pe.att.map (fun a => if a.st = .running ∨ a.st = .reexec then { a with st := .discarded } else a) ∧ t.sys.st = s.sys.st ∧ t.sys.nme = setBit s.sys.nme 1

/-- The module has fallen from one state to level 2 with a cause (R415, R419, R420, R429): the SYS domain on the LFO, no PLL locked, no attempt left, a measurement ended, cause 4 of FAILSAFE holding, and in the running states FAILSAFE at once. -/
def FellToTwo (k : Nat) (s t : State) : Prop :=
  t.clk.level = 2 ∧ t.clk.cause = k ∧ t.clk.level2 = satInc 255 s.clk.level2 ∧ t.clk.ref = 2 ∧ t.clk.refOk = false ∧ t.clk.sysSrc = 2 ∧ t.clk.sysLock = false ∧ t.clk.muxForced = true ∧
    t.clk.convLock = false ∧ t.clk.laneLock = false ∧ t.clk.convHold = (s.clk.convHold || s.clk.convLock) ∧ t.clk.laneHold = (s.clk.laneHold || s.clk.laneLock) ∧ t.clk.measBusy = false ∧
    t.pe.att = [] ∧ 4 ∈ t.sys.causes ∧
    (s.sys.st ∈ [.blocked, .inService, .standby, .test] → s.sys.shutting = false → t.sys.st = .failsafe ∧ t.sys.lastCause = 4 ∧ t.sys.nme = setBit (setBit s.sys.nme 1) 0) ∧
    (s.sys.st ∉ [.blocked, .inService, .standby, .test] → t.sys.st = s.sys.st ∧ t.sys.nme = setBit s.sys.nme 1)

/-! ### After a reset -/

/-- The module right after a reset that keeps the always-on domain (R445, R446, R447): the state and the cause as given; OT, PCC, the counter blocks, the ledger areas, the stored settings, the defect map, the LFO code and MRAM as before; requests, causes, jobs, the staging ring, the ports and the placed work gone; the restart bit of NME set. -/
def WasReset (st : OpState) (cause rail : Nat) (s t : State) : Prop :=
  t.sys.st = st ∧ t.sys.causes = [] ∧ t.sys.pend = none ∧ t.sys.health = false ∧ t.sys.nme = 0x10#32 ∧ t.sys.irq = 0#32 ∧ t.sys.shutting = false ∧
    t.pwr.cause = cause ∧ t.pwr.rail = rail ∧ t.pwr.ot = s.pwr.ot ∧ t.pwr.pcc = s.pwr.pcc ∧ t.pwr.blocks = s.pwr.blocks ∧ t.pwr.feedOk = s.pwr.feedOk ∧
    t.host = {} ∧ t.job = {} ∧ t.ldg.ring = [] ∧ t.ldg.first = s.ldg.first ∧ t.ldg.circ = s.ldg.circ ∧ t.ldg.nextSeq = s.ldg.nextSeq ∧ t.ldg.floor = s.ldg.floor ∧
    t.clk.lfoCode = s.clk.lfoCode ∧ t.clk.sysLock = false ∧ t.clk.convLock = false ∧ t.clk.laneLock = false ∧ t.dm.map = s.dm.map ∧ t.nv.ovr = s.nv.ovr ∧ t.pe.att = [] ∧ t.flt.running = false ∧
    t.fst = {} ∧ t.ptp = {} ∧ t.svc = {} ∧ t.chn = {} ∧ t.hng = {} ∧ t.regs = s.regs.filter (fun p => p.1 = 0x041C) ∧ t.mram = s.mram ∧ t.pending = s.pending

/-! ### What streams and slots carry -/

/-- A received frame that no earlier copy makes a duplicate (R308). -/
def Fresh (s : State) (src : Nat) (t : Option (Nat × Nat)) : Prop :=
  ∀ q l, t = some (q, l) → ∀ p ∈ s.svc.seen, p.1 = src → p.2.1 = q → p.2.2.2 + 400000 < s.pwr.ot

/-- A slot's last four bytes are the CRC-32C of the bytes before them (R336, R337). -/
def SlotSealed (n : Nat) (l : List Byte) : Prop := l.length = n + 4 ∧ field l n 4 = crc32c (l.take n)

end Sys2Proof.Machine
end

