-- ==== Sys2Proof/Certificates/Slice0/Obligations.lean ====
section
/-! DEFINITION. The statements for the provers. Each docstring names the rules of spec/ that the statement rests on. -/

open Sys2Proof Sys2Proof.Machine

/-- A step carries out the command at the front of the queue on the state whose queue is the rest. -/
def Obligations.StepTakesFront : Prop :=
  ∀ (c : Instr) (cs : List Instr) (s : State), s.pending = c :: cs → step s = exec c { s with pending := cs }

/-- With no command waiting, a module that is not OFF lets 1 µs of OT pass: couplers whose closing edge is that old are judged, and nothing else changes. The model's choice (log entry 2). -/
def Obligations.IdleStep : Prop :=
  ∀ s : State, s.pending = [] → (s.sys.st = .off → step s = .next s) ∧
    (s.sys.st ≠ .off → Leads (step s) fun t => t.pwr = { s.pwr with ot := s.pwr.ot + 1 } ∧ SameBut [.irq, .ring, .trip, .pwr, .fio] s t)

/-- The state after reset keeps the invariant of the stores. -/
def Obligations.ResetInv : Prop := State.reset.Inv

/-- Every step keeps the invariant of the stores: MRAM in canonical form, at most 4 jobs outstanding (R398), at most 512 entries in the staging ring and those in OT order (R273). -/
def Obligations.StepKeepsInv : Prop := ∀ s t : State, s.Inv → step s = .next t → t.Inv

/-- Every command answers a next state, and changes no part of the state beyond those that its rules name. -/
def Obligations.CommandsTouch : Prop := ∀ (c : Instr) (s : State), Leads (exec c s) (SameBut (touches c) s)

/-- The registers right after reset: every register whose heading gives a reset value of its own reads that value, to every class; the module is in BOOT, with nothing listed in MRAM and no command waiting (R10, R31). Registers with reset P read the fallback of R10 and are not in the list; AFE_BANK_STAT, PE_STAT and CLK_GATE_STAT read what their fields describe (log entry 97). -/
def Obligations.ResetRegisters : Prop :=
  (∀ p ∈ ([(0x0004, 0x00000001), (0x0008, 0x0159DE01), (0x0014, 0x00000001), (0x0018, 0x00000010), (0x080C, 0x0005DC64), (0x0C04, 0x0000000F), (0x1804, 0x00408100), (0x1808, 0x000132C4), (0x180C, 0xFFFFFFFF), (0x2008, 0xFFFFFFFF), (0x200C, 0x00FFFFFF), (0x2C00, 0x00000002), (0x3000, 0x00000004), (0x3014, 0x00000030), (0x4008, 0x00004040), (0x400C, 0x00004040)] : List (Nat × Nat)), ∀ cls : KeyClass, State.reset.regView cls p.1 = BitVec.ofNat 32 p.2) ∧
  (∀ k, k < 16 → ∀ cls : KeyClass, State.reset.regView cls (0x1840 + 4 * k) = 0x40#32) ∧
  (∀ p ∈ ([(0x000C, 2), (0x0020, 2), (0x0058, 1), (0x0400, 1), (0x0414, 2), (0x0420, 1), (0x0804, 2), (0x0810, 2), (0x081C, 3), (0x0C00, 1), (0x0C0C, 1), (0x1000, 4), (0x1458, 1), (0x1460, 1), (0x1470, 2), (0x1C04, 1), (0x1C24, 1), (0x1CE0, 33), (0x2004, 1), (0x2010, 4), (0x2030, 2), (0x2400, 2), (0x2414, 7), (0x2438, 1), (0x2800, 1), (0x2810, 5), (0x2A80, 1), (0x2C04, 1), (0x2C80, 4), (0x2D00, 12), (0x2D40, 1), (0x2D50, 1), (0x3010, 1), (0x3018, 3), (0x3028, 2), (0x3400, 3), (0x3414, 1), (0x3804, 8), (0x3828, 4), (0x3848, 1), (0x3C00, 1), (0x3C08, 1), (0x3C10, 5), (0x3C30, 1), (0x4000, 1), (0x4010, 13), (0x4050, 1), (0x4404, 5)] : List (Nat × Nat)), ∀ k, k < p.2 → ∀ cls : KeyClass, State.reset.regView cls (p.1 + 4 * k) = 0#32) ∧
  State.reset.sys.st = .boot ∧ State.reset.mram = [] ∧ State.reset.pending = []

/-- The module changes its operating state only by the commands that carry a trigger of R26, and each only between the states of its row. -/
def Obligations.StateMoves : Prop :=
  ∀ (c : Instr) (s t : State), exec c s = .next t → t.sys.st ≠ s.sys.st → mayMove c s.sys.st t.sys.st

/-- Each write of a request code leaves the request pending, a withdrawal ends the one that is pending, and any other code is refused with its result (R28, R30, R32). -/
def Obligations.RequestWrites : Prop :=
  (∀ (cls : KeyClass) (s : State), s.mayWrite cls 0x0004 → s.sys.shutting = false →
    exec (.reqBlocked cls) s = .next { s with sys := { s.sys with reqVal := 2, pend := some 2, reqResult := 1, reqOt := s.pwr.ot, reqDue := false, reqHold := decide (s.clk.level = 2) || s.actSpan } } ∧
    exec (.reqInService cls) s = .next { s with sys := { s.sys with reqVal := 3, pend := some 3, reqResult := 1, reqOt := s.pwr.ot, reqDue := false, reqHold := decide (s.clk.level = 2) || s.actSpan } } ∧
    exec (.reqTest cls) s = .next { s with sys := { s.sys with reqVal := 5, pend := some 5, reqResult := 1, reqOt := s.pwr.ot, reqDue := false, reqHold := decide (s.clk.level = 2) || s.actSpan } } ∧
    exec (.reqDormant cls) s = .next { s with sys := { s.sys with reqVal := 7, pend := some 7, reqResult := 1, reqOt := s.pwr.ot, reqDue := false, reqHold := decide (s.clk.level = 2) || s.actSpan } }) ∧
  (∀ (cls : KeyClass) (s : State), s.mayWrite cls 0x0004 → s.sys.pend.isSome →
    exec (.reqWithdraw cls) s = .next { s with sys := { s.sys with pend := none, reqResult := 9 } }) ∧
  (∀ (cls : KeyClass) (code : Nat) (s : State), s.mayWrite cls 0x0004 → code < 16 → code ∉ [0, 2, 3, 5, 7] →
    exec (.reqBadCode cls code) s = .next { s with sys := { s.sys with reqResult := 8 } })

/-- What a due request does (R26, R27, R28, R32, R450). -/
def Obligations.RequestsTaken : Prop :=
  (∀ (s : State) (code : Nat), s.sys.pend = some code → s.canTake = true → s.outrun = true →
    exec .requestTaken s = .next { s with sys := { s.sys with pend := none, reqResult := 7 } }) ∧
  (∀ (s : State) (code : Nat), s.sys.pend = some code → s.canTake = true → s.outrun = false →
    (stCode s.sys.st = code → exec .requestTaken s = .next { s with sys := { s.sys with pend := none, reqResult := 2 } }) ∧
    (code = 2 → s.sys.st = .inService → s.tripAsserted = true →
      exec .requestTaken s = .next { s with sys := { s.sys with pend := none, reqResult := 4 } }) ∧
    (code = 2 → s.sys.st = .failsafe → s.sys.causes ≠ [] →
      exec .requestTaken s = .next { s with sys := { s.sys with pend := none, reqResult := 6 } }) ∧
    (code = 3 → s.sys.st = .blocked → s.enabled = false →
      exec .requestTaken s = .next { s with sys := { s.sys with pend := none, reqResult := 5 } }) ∧
    (code = 5 → s.sys.st = .inService →
      exec .requestTaken s = .next { s with sys := { s.sys with pend := none, reqResult := 3 } }) ∧
    (code = 3 → s.sys.st = .blocked → s.enabled = true → s.hinged = false →
      Leads (exec .requestTaken s) fun t => t.sys.st = .inService ∧ t.sys.reqResult = 2 ∧ t.sys.lastCause = 1 ∧ t.sys.pend = none) ∧
    (code = 2 → s.sys.st = .standby ∨ s.sys.st = .test ∨ (s.sys.st = .inService ∧ s.tripAsserted = false) ∨ (s.sys.st = .failsafe ∧ s.sys.causes = []) →
      Leads (exec .requestTaken s) fun t => t.sys.st = .blocked ∧ t.sys.reqResult = 2 ∧ t.sys.lastCause = 1 ∧ t.sys.pend = none) ∧
    (code = 5 → s.sys.st = .blocked →
      Leads (exec .requestTaken s) fun t => t.sys.st = .test ∧ t.sys.reqResult = 2 ∧ t.sys.lastCause = 1 ∧ t.sys.pend = none) ∧
    (code = 7 → s.sys.st = .blocked ∨ s.sys.st = .failsafe → s.tripAsserted = false →
      Leads (exec .requestTaken s) fun t => t.sys.shutting = true ∧ t.sys.st = s.sys.st ∧ t.sys.reqResult = 2 ∧ t.sys.lastCause = 1 ∧ t.sys.pend = none ∧ t.pwr.bootStep = 15))

/-- Entry into FAILSAFE and the return from it, the crossbar failure, which in BOOT is an unrepairable fault, and the HEALTH driver (R24, R26, R30, R259, R366, R391, R449). -/
def Obligations.FailsafeMoves : Prop :=
  (∀ (cause : Nat) (s : State), s.sys.st ∈ [.blocked, .inService, .standby, .test] → cause ∈ s.sys.causes → s.sys.shutting = false →
    Leads (exec (.failsafeEntry cause) s) fun t => t.sys.st = .failsafe ∧ t.sys.lastCause = cause ∧ t.sys.failFrom = s.sys.st ∧
      t.sys.nme = setBit s.sys.nme 0 ∧ t.hng.ctl = false ∧ t.sys.autoTick = some s.pe.tickOt) ∧
  (∀ (cause : Nat) (s : State), s.sys.st = .failsafe → s.sys.causes = [] → s.sys.shutting = false →
    (s.sys.failFrom = .inService → s.hinged = false → Leads (exec (.failsafeCauseCleared cause) s) fun t => t.sys.st = .inService ∧ t.sys.lastCause = 0xB) ∧
    (s.sys.failFrom = .blocked ∨ s.sys.failFrom = .test → Leads (exec (.failsafeCauseCleared cause) s) fun t => t.sys.st = .blocked ∧ t.sys.lastCause = 0xB)) ∧
  (∀ s : State,
    (s.sys.st ∈ [.blocked, .inService, .standby, .test, .failsafe] → Leads (exec .crossbarFailure s) fun t => 8 ∈ t.sys.causes ∧ t.sys.st = s.sys.st) ∧
    (s.sys.st = .boot → s.alive = true → Leads (exec .crossbarFailure s) fun t => 8 ∈ t.sys.causes ∧ t.sys.st = .failsafe ∧ t.sys.lastCause = 0xC)) ∧
  (∀ s : State, s.sys.st ∉ [.inService, .standby] → exec .healthOpen s = .next { s with sys := { s.sys with health := false } })

/-- What a protection tick and its output update leave (R12, R13, R15, R102, R110, R120). -/
def Obligations.TickAndUpdate : Prop :=
  (∀ (i : TickIn) (s : State), s.ticking = true →
    Leads (exec (.tick i) s) fun t => t.pwr.ot = i.ot ∧ t.sys.ticks = (if s.sys.st = .boot then s.sys.ticks else (s.sys.ticks + 1) % 2 ^ 32) ∧
      (s.sys.st ≠ .boot → s.sys.shutting = false → s.sch.act = .idle → t.pe.updDue = true)) ∧
  (∀ s : State, s.ticking = true → s.pe.updDue = true →
    Leads (exec .outputUpdate s) fun t => t.pe.updDue = false ∧ t.pe.probeSeq = (s.pe.probeSeq + 1) % 2 ^ 32 ∧ t.pe.probeB = t.pe.bnets ∧ t.pe.probeA = t.pe.anets ∧
      t.pe.els = s.pe.els ∧ (∀ a ∈ t.pe.att, a.st = .committed ∨ a.st = .held) ∧
      (s.hng.hoAck = false → s.hng.readyIn = false → ∀ n < 12, (t.outp n).cmd = s.binRef (bitsOf (s.doCfg n) 15 0)))

/-- The commit gate, a stopped attempt, re-execution and the pairs' self-tests (R99, R102, R106, R108, R109, R112, R114, R115, R462). -/
def Obligations.EngineGate : Prop :=
  (∀ (pl cycles : Nat) (s : State) (a : Attempt), s.attOf pl = some a → a.st = .running ∨ a.st = .reexec → cycles ≤ (nth s.pe.place pl).charge →
    Leads (exec (.placementCommit pl cycles) s) fun t =>
      t.pe.els = putEls s.pe.els a.els ∧ (t.attOf pl).map (fun x => x.st) = some .committed ∧
      (∀ n v, a.bnets.find? (fun p => decide (p.1 = n)) = some (n, v) → n < s.pe.bnets.length → (nth t.pe.bnets n).v = v) ∧
      (pl < s.pe.place.length → (nth t.pe.place pl).peak = (nth s.pe.place pl).peak.max cycles)) ∧
  (∀ (pl cycles : Nat) (s : State) (a : Attempt), s.attOf pl = some a → a.st = .running → (nth s.pe.place pl).charge < cycles → a.pair < 16 → s.pe.roles.length = 16 →
    Leads (exec (.attemptOverrun pl cycles) s) fun t => t.role a.pair = .isolated ∧ t.pe.mismatches = satInc 65535 s.pe.mismatches ∧ (a.pair, TestKind.isolation) ∈ t.pe.tests) ∧
  (∀ (pl gap : Nat) (s : State) (a : Attempt), s.attOf pl = some a → a.st = .running → 64 < gap → a.pair < 16 → s.pe.roles.length = 16 →
    Leads (exec (.pairStall pl gap) s) fun t => t.role a.pair = .isolated ∧ t.pe.mismatches = satInc 65535 s.pe.mismatches ∧ (a.pair, TestKind.isolation) ∈ t.pe.tests) ∧
  (∀ (pl : Nat) (s : State) (a : Attempt), s.attOf pl = some a → a.st = .reexecWait → s.clk.level ≠ 2 → s.clk.sysSrc = 0 → s.clk.op = true →
    exec (.reexecutionStart pl) s = .next (s.modAtt pl (fun x => { x with st := .reexec }))) ∧
  (∀ (p : Nat) (s : State), p < 16 → s.pe.roles.length = 16 → s.dm.map.pairs.length = 16 → s.pe.tests.find? (fun t => t.1 = p) = some (p, .isolation) →
    Leads (exec (.pairSelftestEnd p false) s) fun t => t.role p = .mappedOut ∧ t.pairGood p = false ∧ t.dm.dirty = true) ∧
  (∀ (p : Nat) (s : State), s.pe.tests.find? (fun t => t.1 = p) = some (p, .background) →
    exec (.pairSelftestEnd p true) s = .next (s.modPe (fun e => { e with tests := e.tests.filter (fun t => t.1 ≠ p) }))) ∧
  (∀ (p : Nat) (s : State), p < 16 → s.role p = .spare → (∀ t ∈ s.pe.tests, t.1 ≠ p) →
    exec (.spareSelftestStart p) s = .next (s.modPe (fun e => { e with tests := e.tests ++ [(p, .background)] }))) ∧
  (∀ (p i q : Nat) (u r : List Nat) (s : State), s.pe.swaps = p :: u → s.pe.place.findIdx? (fun x => decide (x.pair = some p)) = some i → s.spares = q :: r → p < 16 → s.pe.roles.length = 16 → s.role p ≠ .spare →
    Leads (exec .selftestSwap s) fun t => (nth t.pe.place i).pair = some q ∧ t.role p = .isolated ∧ t.role q = .placed ∧ (p, TestKind.job) ∈ t.pe.tests ∧ t.pe.swaps = u)

/-- The anneal rotation of a bank: connecting the spare, the handover, the calibration and the loss of a core (R42, R43, R44, R45, R49, R50). -/
def Obligations.AnnealRotation : Prop :=
  (∀ (b sp : Nat) (s : State), b < s.afe.banks.length → coreNo b sp < s.afe.cores.length → (s.bank b).spare = some sp → s.canRotate b = true → (s.bank b).phase = .waiting →
    Leads (exec (.rotationStepStart b) s) fun t =>
      (t.bank b).phase = .compare ∧ (t.bank b).rotCh = s.nextChan b (s.bank b).rotCh ∧ (t.core (coreNo b sp)).role = .comparing ∧ (t.bank b).map = (s.bank b).map ∧
      (t.bank b).shLeft = invalidCount s.flt.eff 6 ∧ (t.bank b).shCmp = 0) ∧
  (∀ (b sp serv : Nat) (m : CompareIn) (s : State), b < s.afe.banks.length → coreNo b sp < s.afe.cores.length → coreNo b serv < s.afe.cores.length → sp ≠ serv →
    (s.bank b).phase = .compare → (s.bank b).kind = .rotation → (s.bank b).restart = false → (s.bank b).refdacFail = false → (s.bank b).shLeft = 0 → 65 ≤ (s.bank b).shCmp → (s.bank b).rotCh < (s.bank b).map.length →
    (s.bank b).spare = some sp → (s.bank b).map.getD (s.bank b).rotCh none = some serv → s.coreGood (coreNo b serv) = true →
    (s.afeCh (8 * b + (s.bank b).rotCh)).suspect = false → coresAgree m (decide ((s.bank b).kEff = 0)) = true →
    Leads (exec (.handover b m) s) fun t =>
      (t.bank b).map = (s.bank b).map.set (s.bank b).rotCh (some sp) ∧ (t.bank b).spare = some serv ∧ (t.bank b).phase = .calibrate ∧ (t.bank b).steps = (s.bank b).steps + 1 ∧
      (t.core (coreNo b sp)).role = .inService ∧ (t.core (coreNo b serv)).role = .calibrating) ∧
  (∀ (b sp : Nat) (m : CalIn) (s : State), b < s.afe.banks.length → coreNo b sp < s.afe.cores.length → (s.bank b).spare = some sp → (s.bank b).phase = .calibrate → (s.bank b).restart = false → (s.bank b).void = false →
    s.coreGood (coreNo b sp) = true → calPasses m = true → bitAt (s.bankCtl b) 5 = true →
    Leads (exec (.coreCalibrationEnd b m) s) fun t =>
      (t.core (coreNo b sp)).role = .idle ∧ (t.core (coreNo b sp)).offset = m.offset ∧ (t.core (coreNo b sp)).gainErr = m.gainPpm ∧ (t.core (coreNo b sp)).corr = m.corr ∧
      (t.bank b).phase = .waiting ∧ (t.bank b).rotCh = ((s.bank b).rotCh + 1) % 8 ∧ (t.bank b).spare = some sp) ∧
  (∀ (c sp j : Nat) (s : State), c / 9 < s.afe.banks.length → c < s.afe.cores.length → c < s.dm.map.cores.length → s.coreGood c = true → (s.bank (c / 9)).spare = some sp →
    (List.range 8).find? (fun j => (s.bank (c / 9)).map.getD j none = some (c % 9)) = some j → coreNo (c / 9) sp ≠ c →
    Leads (exec (.coreHardFault c) s) fun t =>
      (t.bank (c / 9)).map = (s.bank (c / 9)).map.set j (some sp) ∧ (t.bank (c / 9)).spare = none ∧ (t.bank (c / 9)).noSpare = true ∧ (t.core c).role = .mappedOut ∧
      t.coreGood c = false ∧ t.dm.dirty = true)

/-- The pilot's judgement and the reference DAC's (R51, R52, R55, R56, R57, R90). -/
def Obligations.PilotAndRefdac : Prop :=
  (∀ (c : Nat) (amp ph : Rat) (s : State), c < s.afe.ch.length → (s.afeCh c).gain < (s.afeCh c).base.length → s.baseline c = none → (s.bank (c / 8)).kEff ≠ 0 →
    Leads (exec (.pilotWindowEnd c amp ph) s) fun t => t.baseline c = some (amp, ph) ∧ (t.afeCh c).fresh = false ∧ (t.afeCh c).suspect = (s.afeCh c).suspect) ∧
  (∀ (c : Nat) (amp ph : Rat) (p : Rat × Rat) (s : State), c < s.afe.ch.length → s.baseline c = some p → bitAt (s.reg (0x1400 + 4 * c)) 2 = false → (s.bank (c / 8)).kEff ≠ 0 →
    (inWindow (s.bankCtl (c / 8)) p amp ph = false → (s.afeCh c).suspect = false →
      Leads (exec (.pilotWindowEnd c amp ph) s) fun t => (t.afeCh c).suspect = true ∧ (t.afeCh c).served = false) ∧
    (inWindow (s.bankCtl (c / 8)) p amp ph = true → (s.afeCh c).suspect = true → (s.afeCh c).inside < 2 →
      Leads (exec (.pilotWindowEnd c amp ph) s) fun t => (t.afeCh c).suspect = true ∧ (t.afeCh c).inside = (s.afeCh c).inside + 1) ∧
    (inWindow (s.bankCtl (c / 8)) p amp ph = true → (s.afeCh c).suspect = true → (s.afeCh c).inside = 2 →
      Leads (exec (.pilotWindowEnd c amp ph) s) fun t => (t.afeCh c).suspect = false)) ∧
  (∀ (c : Nat) (amp ph : Rat) (s : State), (s.bank (c / 8)).kEff = 0 → exec (.pilotWindowEnd c amp ph) s = .next s) ∧
  (∀ (b i sp : Nat) (s : State), b < s.afe.banks.length → coreNo b sp < s.afe.cores.length → s.suspectCh b = some i → s.canRotate b = true → (s.bank b).phase = .waiting → (s.bank b).spare = some sp →
    Leads (exec (.suspectServiceStart b) s) fun t => (t.bank b).phase = .compare ∧ (t.bank b).kind = .suspect ∧ (t.bank b).rotCh = i ∧ (t.core (coreNo b sp)).role = .comparing) ∧
  (∀ (b pt sp : Nat) (err : Rat) (s : State), b < s.afe.banks.length → coreNo b sp < s.afe.cores.length → pt < 5 → refdacOk err = false → (s.bank b).refdacFail = false → (s.bank b).spare = some sp →
    Leads (exec (.refdacCheck b pt err) s) fun t => (t.bank b).refdacFail = true ∧ ((s.bank b).phase ≠ .compare → (t.bank b).phase = .stopped ∧ (t.core (coreNo b sp)).role = .parked)) ∧
  (∀ (b : Nat) (errs : List Rat) (s : State), (s.bank b).refdacFail = true → errs.length = 5 → (∀ e ∈ errs, refdacOk e = true) →
    exec (.refdacRecheck b errs) s = .next (s.modBank b (fun x => { x with refdacFail := false, resume := true }))) ∧
  (∀ (b sp : Nat) (s : State), (s.bank b).resume = true → (s.bank b).phase = .stopped → (s.bank b).spare = some sp →
    exec (.refdacResume b) s = .next ((s.setRole (coreNo b sp) .calibrating).modBank b (fun x => { x with phase := .calibrate, resume := false })))

/-- Pilot failure of the module (R57): a channel suffers it while its pilot_suspect is set. At the end of every pilot window the FAILSAFE cause stands exactly when more than 2 channels suffer it, and with it the module enters FAILSAFE from every state of R26's row; with 2 or fewer the cause is cleared. -/
def Obligations.PilotFailure : Prop :=
  ∀ (c : Nat) (amp ph : Rat) (s : State), (7 ∈ s.sys.causes ↔ 2 < (s.afe.ch.filter (fun x => x.suspect)).length) →
    Leads (exec (.pilotWindowEnd c amp ph) s) fun t =>
      (7 ∈ t.sys.causes ↔ 2 < (t.afe.ch.filter (fun x => x.suspect)).length) ∧ t.sys.st = s.sys.st ∧
      (2 < (t.afe.ch.filter (fun x => x.suspect)).length → t.sys.st ∈ [.blocked, .inService, .standby, .test] → t.sys.shutting = false →
        Leads (exec (.failsafeEntry 7) t) fun u => u.sys.st = .failsafe ∧ u.sys.lastCause = 7) ∧
      ((t.afe.ch.filter (fun x => x.suspect)).length ≤ 2 → t.sys.causes = s.sys.causes.filter (fun x => x ≠ 7))

/-- Filter settings, gains and deferred writes (R8, R65, R66, R74, R75, R78, R79). -/
def Obligations.BoundarySettings : Prop :=
  (∀ (cls : KeyClass) (v : Word) (f : FltSet) (s : State), s.mayWrite cls 0x1800 → fltOfWord v = some f →
    (fltCheck f ≠ 0 → Leads (exec (.fltCfgWrite cls v) s) fun t => t.flt = { s.flt with result := fltCheck f }) ∧
    (fltCheck f = 0 → f.d1 * f.d2 ≠ s.flt.eff.d1 * s.flt.eff.d2 → Leads (exec (.fltCfgWrite cls v) s) fun t => t.flt = { s.flt with result := 6 }) ∧
    (fltCheck f = 0 → f.d1 * f.d2 = s.flt.eff.d1 * s.flt.eff.d2 → s.actSpan = false → sameFlt f s.flt.eff = false →
      Leads (exec (.fltCfgWrite cls v) s) fun t => t.flt = { s.flt with pend := some f, result := 1 } ∧ t.reg 0x1800 = wordOfFlt f)) ∧
  (∀ (f : FltSet) (s : State), s.ticking = true → s.flt.pend = some f →
    Leads (exec .filterBoundary s) fun t => t.flt.eff = f ∧ t.flt.pend = none ∧ t.flt.result = 2 ∧
      ∀ c < s.flt.ch.length, (nth t.flt.ch c).left = (nth s.flt.ch c).left0.max (invalidCount f (nth s.flt.ch c).nowB)) ∧
  (∀ (c g : Nat) (s : State), s.ticking = true → c < s.afe.ch.length → c < s.flt.ch.length → (s.afeCh c).gainPend = some g → (s.afeCh c).cal = false →
    Leads (exec (.gainBoundary c) s) fun t => (t.afeCh c).gain = g ∧ (t.afeCh c).gainPend = none ∧ (nth t.flt.ch c).left = (nth s.flt.ch c).left0.max (invalidCount s.flt.eff ((nth s.flt.ch c).nowB.max 4))) ∧
  (∀ s : State, s.ticking = true → (s.defer.map Prod.fst).Nodup →
    Leads (exec .settingApply s) fun t => t.defer = [] ∧ ∀ p ∈ s.defer, t.reg p.1 = p.2)

/-- The auxiliary converter: a finished entry, the injected group, the calibration (R83, R85, R86, R87, R88, R89). -/
def Obligations.AuxiliaryConverter : Prop :=
  (∀ (n : Nat) (convs : List Rat) (s : State), s.auxSeek.auxEntryGo n convs = true → n < s.aux.res.length →
    Leads (exec (.auxEntryDone n convs) s) fun t =>
      (t.auxRes n).code = auxMean (convs.map (s.auxSeek.auxConv (s.auxSeek.auxInput n))) ∧ (t.auxRes n).valid = true ∧ t.aux.entry = (s.auxSeek.auxNext n).1 ∧
      t.aux.passes = (if (s.auxSeek.auxNext n).2 then (s.auxSeek.aux.passes + 1) % 65536 else s.auxSeek.aux.passes)) ∧
  (∀ (cls : KeyClass) (s : State), s.mayWrite cls 0x1C24 →
    (s.aux.injPend = false → exec (.auxInjTrigGo cls) s = .next (s.modAux (fun a => { a with injPend := true, injSrc := 2, injAt := s.pwr.ot }))) ∧
    (s.aux.injPend = true → s.injJoins 2 = true → exec (.auxInjTrigGo cls) s = .next (s.modAux (fun a => { a with injSrc := 3 }))) ∧
    (s.aux.injPend = true → s.injJoins 2 = false → Leads (exec (.auxInjTrigGo cls) s) fun t => t.aux = { s.aux with missed := satInc 255 s.aux.missed })) ∧
  (∀ s : State, s.aux.injPend = true → s.aux.injRun = false →
    exec .injectedGroupStart s = .next (s.modAux (fun a => { a with injRun := true, injPend := false }))) ∧
  (∀ (convs : List (List Rat)) (s : State), s.injGo convs = true →
    Leads (exec (.injectedGroupDone convs) s) fun t => t.aux.injRun = false ∧ t.aux.injPend = s.aux.injPend ∧
      ∀ m < 4, t.aux.injRes.getD m none = (((s.injSlots.zip convs).map (fun p => (p.1, auxMean (p.2.map (s.auxConv (s.injInput p.1)))))).find? (fun p => decide (p.1 = m))).map (fun p => p.2)) ∧
  (∀ s : State, s.aux.calBusy = false → s.dark = false → s.aux.calOt + bitsOf (s.reg 0x1C00) 15 8 * 1000000 ≤ s.pwr.ot →
    exec .auxCalStart s = .next (s.modAux (fun a => { a with calBusy := true, calStep := 0, calLate := false, calOt := s.pwr.ot }))) ∧
  (∀ (o g : Int) (s : State), s.aux.calBusy = true → s.aux.injRun = false → s.aux.injPend = false →
    (s.aux.calStep < 3 → exec (.auxCalStepDone o g) s = .next (s.modAux (fun a => { a with calStep := a.calStep + 1 }))) ∧
    (3 ≤ s.aux.calStep → o.natAbs ≤ 64 → g.natAbs ≤ 10000 →
      exec (.auxCalStepDone o g) s = .next (s.modAux (fun a => { a with calBusy := false, calStep := 0, calLate := false, offset := o, gainPpm := g }))) ∧
    (3 ≤ s.aux.calStep → 64 < o.natAbs ∨ 10000 < g.natAbs →
      Leads (exec (.auxCalStepDone o g) s) fun t => t.aux = { s.aux with calStep := 0 })) ∧
  (∀ s : State, s.aux.calBusy = true → s.aux.calLate = false → s.aux.calOt + 60000000 ≤ s.pwr.ot → Leads (exec .auxCalLate s) fun t => t.aux = { s.aux with calLate := true })

/-- The timers of the overcurrent, voltage and frequency stages, of the zone-selective stage, and the invalid timeout (R123, R127, R130, R135, R136, R148, R149, R150, R176). -/
def Obligations.StageTimers : Prop :=
  (∀ (n : Nat) (s : State) (att : Attempt) (c : InstCfg) (e : ElemSt), s.holds att n [3, 4, 5, 6] c e →
    ((s.env att c).choice c 3 = 0 → e.started = true → e.operate = false → (s.env att c).num c 5 ≤ (e.count : Rat) / (s.fp : Rat) →
      Settles (exec (.definiteTimeExpiry n) s) s att { e with operate := true }) ∧
    ((s.env att c).choice c 3 ≠ 0 → e.started = true → e.operate = false → 1 ≤ e.integ →
      Settles (exec (.curveIntegratorFull n) s) s att { e with operate := true })) ∧
  (∀ (n : Nat) (s : State) (att : Attempt) (c : InstCfg) (e : ElemSt), s.holds att n [0x0A, 0x0B] c e → (s.env att c).choice c 3 ≠ 1 →
    e.started = true → e.operate = false → (s.env att c).num c 4 ≤ (e.count : Rat) / (s.fp : Rat) →
      Settles (exec (.definiteTimeExpiry n) s) s att { e with operate := true }) ∧
  (∀ (n : Nat) (s : State) (att : Attempt) (c : InstCfg) (e : ElemSt), s.holds att n [0x0C] c e →
    e.started = true → e.operate = false → (s.env att c).num c 3 ≤ (e.count : Rat) / (s.fp : Rat) →
      Settles (exec (.definiteTimeExpiry n) s) s att { e with operate := true }) ∧
  (∀ (n : Nat) (s : State) (att : Attempt) (c : InstCfg) (e : ElemSt), s.holds att n [0x0D] c e →
    (∃ k < 2, (nth e.ph k).on = true ∧ (nth e.ph k).hold ≠ 1 ∧ (s.env att c).num c (5 + 5 * k) ≤ ((nth e.ph k).cnt : Rat) / (s.fp : Rat)) →
      Settles (exec (.definiteTimeExpiry n) s) s att ((s.env att c).settleDefinite c e) ∧ ((s.env att c).settleDefinite c e).operate = true) ∧
  (∀ (n : Nat) (s : State) (att : Attempt) (c : InstCfg) (e : ElemSt), s.holds att n [3, 4, 5, 6, 0x16] c e →
    e.started = false → (s.env att c).choice c 7 = 1 → (s.env att c).num c 8 ≤ (e.rcount : Rat) / (s.fp : Rat) → e.integ ≠ 0 ∨ e.count ≠ 0 →
      Settles (exec (.resetTimeExpiry n) s) s att { e with integ := 0, count := 0 }) ∧
  (∀ (n : Nat) (s : State) (att : Attempt) (c : InstCfg) (e : ElemSt), s.holds att n invalidKinds c e →
    e.valid = false → e.tout = false → (s.env att c).num c 0 < (e.bad : Rat) / (s.fp : Rat) →
      Settles (exec (.invalidTimeout n) s) s att (timedOut (resetOf c.kind) e)) ∧
  (∀ (n : Nat) (s : State) (att : Attempt) (c : InstCfg) (e : ElemSt), s.holds att n [0x16] c e →
    (e.started = true → e.operate = false → (s.env att c).ocDue c e = true → e.tcount = 0 → (s.env att c).num c 14 ≤ (e.count : Rat) / (s.fp : Rat) →
      (∀ x ∈ c.zsiCodes, s.srcLost (x / 4) = false) →
      Settles (exec (.zsiTimeExpiry n) s) s att { e with operate := true }) ∧
    (e.tcount = 1 → (∀ x ∈ c.zsiCodes, x ∉ s.fst.netX) →
      Settles (exec (.zsiBlockWindowExpiry n) s) s att ((s.env att c).settleZsi c { e with tcount := 0, z := e.z.map (fun _ => 0) }))) ∧
  (∀ s : State, Leads (exec .trackingLost s) fun t => t.trk = s.trk.expire s.fp s.sch.cfg.fn)

/-- The timers of the other protection elements (R144, R155, R156, R160, R162, R180, R181, R183). -/
def Obligations.ElementTimers : Prop :=
  (∀ (n : Nat) (s : State) (att : Attempt) (c : InstCfg) (e : ElemSt), s.holds att n [7] c e → e.mode = 1 → (s.env att c).num c 6 ≤ (e.tcount : Rat) / (s.fp : Rat) →
    ∀ ph, ph = e.ph.map (fun p => { p with dir := if (s.env att c).choice c 7 = 1 ∧ p.on = true then 1 else 0 }) →
      Settles (exec (.directionalMemoryExpiry n) s) s att { e with mode := 2, ph := ph, own := dirOwn ph (ownQ e.own) }) ∧
  (∀ (n i : Nat) (s : State) (att : Attempt) (c : InstCfg) (e : ElemSt), s.holds att n [0x0F] c e → i < e.ph.length →
    ((nth e.ph i).on = true → (nth e.ph i).hold ≠ 0 → (s.env att c).num c 5 ≤ ((nth e.ph i).hold : Rat) / (s.fp : Rat) →
      Settles (exec (.inrushHoldExpiry n i) s) s att ((s.env att c).settleInrush c i e) ∧ (nth ((s.env att c).settleInrush c i e).ph i).on = false ∧
        ∀ j, j ≠ i → nth ((s.env att c).settleInrush c i e).ph j = nth e.ph j) ∧
    ((nth e.ph i).cnt = 1 →
      Settles (exec (.inrushHoldExpiry n i) s) s att ((s.env att c).settleInrush c i e) ∧ (nth ((s.env att c).settleInrush c i e).ph i).cnt = 0)) ∧
  (∀ (n : Nat) (s : State) (att : Attempt) (c : InstCfg) (e : ElemSt), s.holds att n [0x10] c e →
    (e.mode = 0 → e.count ≠ 0 → (s.env att c).num c 2 ≤ (e.count : Rat) / (s.fp : Rat) →
      Settles (exec (.coldLoadArm n) s) s att { e with mode := 1, started := true }) ∧
    (e.mode = 2 → (s.env att c).num c 3 ≤ (e.tcount : Rat) / (s.fp : Rat) ∨ (e.rcount ≠ 0 ∧ (s.env att c).num c 5 ≤ (e.rcount : Rat) / (s.fp : Rat)) →
      Settles (exec (.coldLoadActiveEnd n) s) s att { e with mode := 0, tcount := 0, rcount := 0, started := false, operate := false })) ∧
  (∀ (n : Nat) (s : State) (att : Attempt) (c : InstCfg) (e : ElemSt), s.holds att n [0x11] c e → e.operate = true →
    (∀ r ∈ c.ins.drop 2, (s.env att c).ref r = false) → (s.env att c).num c 2 ≤ (e.count : Rat) / (s.fp : Rat) →
    ((s.env att c).choice c 3 = 0 ∨ (s.env att c).ref (c.inp 1) = false ∨ (s.env att c).ref (c.inp 0) = true) →
    Settles (exec (.tripMinPulseExpiry n) s) s att { e with operate := false, count := 0, flags := e.flags / 8 * 8 }) ∧
  (∀ (n : Nat) (s : State) (att : Attempt) (c : InstCfg) (e : ElemSt), s.holds att n [0x13] c e → e.started = true → e.count ≠ 0 →
    (e.shot ≠ 1 → (s.env att c).num c 4 ≤ (e.count : Rat) / (s.fp : Rat) → Settles (exec (.bfRetrip n) s) s att (bfOwn { e with shot := 1 })) ∧
    (e.operate = false → (s.env att c).num c 5 ≤ (e.count : Rat) / (s.fp : Rat) → Settles (exec (.bfTrip n) s) s att (bfOwn { e with operate := true }))) ∧
  (∀ (n : Nat) (s : State) (att : Attempt) (c : InstCfg) (e : ElemSt), s.holds att n [0x18] c e → e.started = true → (s.env att c).num c 8 ≤ (e.count : Rat) / (s.fp : Rat) →
    e.operate ≠ !(s.env att c).lockedOut c 2 → Settles (exec (.syncConfirmExpiry n) s) s att { e with operate := !(s.env att c).lockedOut c 2 }) ∧
  (∀ (n : Nat) (s : State) (att : Attempt) (c : InstCfg) (e : ElemSt), s.holds att n [0x19] c e →
    (e.started = true → e.operate = false → (s.env att c).num c 2 ≤ (e.count : Rat) / (s.fp : Rat) →
      Settles (exec (.tcsAlarmExpiry n) s) s att { e with operate := true }) ∧
    (e.mode = 1 → 1 ≤ (e.rcount : Rat) / (s.fp : Rat) → Settles (exec (.tcsTripBlankExpiry n) s) s att { e with mode := 0, rcount := 0 })) ∧
  (∀ (n : Nat) (s : State) (att : Attempt) (c : InstCfg) (e : ElemSt), s.holds att n [0x23, 0x24, 0x25] c e → e.count ≠ 0 → (s.env att c).num c 2 ≤ (e.count : Rat) / (s.fp : Rat) →
    (c.kind = 0x23 → e.operate = false → Settles (exec (.logicTimerExpiry n) s) s att { e with operate := true }) ∧
    (c.kind = 0x24 → Settles (exec (.logicTimerExpiry n) s) s att { e with operate := false, count := 0 }) ∧
    (c.kind = 0x25 → Leads (exec (.logicTimerExpiry n) s) fun t => t.pe.els = s.pe.els ∧ t.attOf att.pl = some att))

/-- The timers of the autoreclose (R165, R168). -/
def Obligations.AutorecloseTimers : Prop :=
  ∀ (n : Nat) (s : State) (att : Attempt) (c : InstCfg) (e : ElemSt), s.holds att n [0x14] c e →
    (e.mode = arNotReady → (s.env att c).lockedOut c 7 = false → (s.env att c).num c 11 ≤ (e.rcount : Rat) / (s.fp : Rat) →
      Settles (exec (.arReadyTimer n) s) s att ((s.env att c).arView c { e with mode := arReady, count := 1, shot := 0 })) ∧
    (e.mode = arInit → (s.env att c).num c 13 ≤ (e.count : Rat) / (s.fp : Rat) →
      Settles (exec (.arOpenTimeout n) s) s att ((s.env att c).arView c { e with mode := arLockout, count := 1 })) ∧
    (e.mode = arDead → (s.env att c).deadTime c e ≤ (e.count : Rat) / (s.fp : Rat) →
      Settles (exec (.arDeadTimeExpiry n) s) s att ((s.env att c).arView c { e with mode := if (s.env att c).choice c (14 + (e.shot - 1)) = 1 then arSyncWait else arClosing, count := 1 })) ∧
    (e.mode = arSyncWait → (s.env att c).num c 18 ≤ (e.count : Rat) / (s.fp : Rat) →
      Settles (exec (.arSyncTimeout n) s) s att ((s.env att c).arView c { e with mode := arLockout, count := 1 })) ∧
    (e.mode = arClosing → (s.env att c).ref (c.inp 3) = true → (s.env att c).num c 12 ≤ (e.count : Rat) / (s.fp : Rat) →
      Settles (exec (.arClosePulseExpiry n) s) s att ((s.env att c).arView c { e with mode := arLockout, count := 1 })) ∧
    (e.mode = arReclaim → (s.env att c).num c 11 ≤ (e.count : Rat) / (s.fp : Rat) →
      Settles (exec (.arReclaimExpiry n) s) s att ((s.env att c).arView c { e with mode := arReady, count := 1, shot := 0 })) ∧
    ((nth e.ph 1).on = false → (s.env att c).num c 19 ≠ 0 → (s.env att c).num c 19 < (e.tcount : Rat) / (s.fp : Rat) →
      Settles (exec (.arDiscriminationExpiry n) s) s att ((s.env att c).arView c { e with ph := [nth e.ph 0, { on := true }] }))

/-- The line differential's holdover limit, the fault locator, the values kept across power cycles (R173, R178, R179, R182, R184). -/
def Obligations.ZoneLocatorLatch : Prop :=
  (∀ (n : Nat) (s : State) (att : Attempt) (c : InstCfg) (e : ElemSt), s.holds att n [0x15] c e → e.mode = 0 →
    (∃ k < (s.env att c).ends c, srcKind ((s.env att c).endSrc c k) = 2) → (∃ p ∈ e.ph.drop 3, (s.env att c).num c 7 < (p.cnt : Rat) / (s.fp : Rat)) →
    Settles (exec (.zoneHoldoverLimit n) s) s att { zoneOwn { e with mode := 2 } 0 with valid := false }) ∧
  (∀ (n : Nat) (s : State) (att : Attempt) (c : InstCfg) (e : ElemSt), s.holds att n [0x17] c e →
    (e.mode ≠ 0 → Settles (exec (.faultLocation n) s) s att (locOwn { e with mode := 0, operate := true, shot := e.mode })) ∧
    (e.rcount ≠ 0 → 60 / 1000 ≤ (e.rcount : Rat) / (s.fp : Rat) →
      Settles (exec (.twMatchTimeout n) s) s att (locOwn { e with flags := 0, rcount := 0 }))) ∧
  (∀ (n : Nat) (s : State) (c : InstCfg) (e : ElemSt), n ∈ s.nv.latchDirty → s.dm.mramFail = false →
    s.sch.cfg.insts.find? (fun c => c.num = n) = some c → s.pe.els.find? (fun e => e.num = n) = some e →
    Leads (exec (.persistentLatchWrite n) s) fun t => n ∉ t.nv.latchDirty ∧
      (c.kind = 0x1A → lookupD t.nv.wear c.name ([0, 0, 0], 0) = ((List.range 3).map (fun i => e.z.getD i 0), e.shot) ∧ t.nv.latches = s.nv.latches) ∧
      (c.kind ≠ 0x1A → lookupD t.nv.latches c.name false = e.operate ∧ t.nv.wear = s.nv.wear))

/-- Comparators of the fast path: a code that completes the assert condition, the hold that ends, the two inputs of an arc comparator (R187, R188, R189, R190, R191, R192, R425). -/
def Obligations.Comparators : Prop :=
  (∀ (c : Nat) (k : CodeIn) (light : Bool) (p : List Int) (s : State), c < 64 → c < s.fst.cmp.length → cfgEn (s.cmpCfg c) = true → cfgMode (s.cmpCfg c) ≠ 3 →
    (s.modCmp c (fun x => { x with codeBad := false })).plainReason c = 0 → k.ok = true → k.blanked = false → (s.cmp c).asserted = false →
    p = (if (s.cmp c).ch = cfgCh (s.cmpCfg c) then (s.cmp c).prev else []) → sampleMet (s.cmpCfg c) k.code p (s.thrG c) = true → needed (s.cmpCfg c) ≤ (s.cmp c).count + 1 →
    Leads (exec (.comparatorAssert c [k] light) s) fun t => (t.cmp c).asserted = true ∧ (t.cmp c).seen = true ∧ (t.cmp c).ops = satInc 65535 (s.cmp c).ops ∧
      (t.cmp c).prev = (k.code :: p).take 9 ∧ (t.cmp c).qualified = true ∧ (cfgMode (s.cmpCfg c) = 2 → (t.cmp c).fresh = true ∧ (t.cmp c).arr.isSome = true)) ∧
  (∀ (c : Nat) (k : CodeIn) (p : List Int) (s : State), c < 64 → c < s.fst.cmp.length → cfgEn (s.cmpCfg c) = true → cfgMode (s.cmpCfg c) ≠ 3 →
    (s.modCmp c (fun x => { x with codeBad := false })).plainReason c = 0 → k.ok = true → k.blanked = false → (s.cmp c).asserted = true →
    p = (if (s.cmp c).ch = cfgCh (s.cmpCfg c) then (s.cmp c).prev else []) → sampleMet (s.cmpCfg c) k.code p (s.thrG c) = false →
    Leads (exec (.comparatorRelease c [k]) s) fun t => (t.cmp c).asserted = !decide (s.cmpHold c ≤ (s.cmp c).idle + 1) ∧ (t.cmp c).ops = (s.cmp c).ops ∧
      (t.cmp c).idle = (if s.cmpHold c ≤ (s.cmp c).idle + 1 then 0 else (s.cmp c).idle + 1) ∧ (t.cmp c).count = 0) ∧
  (∀ (c : Nat) (codes : List CodeIn) (s : State), c < 64 → c < s.fst.cmp.length → cfgLight (s.cmpCfg c) < s.fst.lights.length → cfgEn (s.cmpCfg c) = true → cfgMode (s.cmpCfg c) = 3 →
    s.cmpReason c = 0 → (s.cmp c).curWin = true → s.arcWin c ≠ 0 →
    Leads (exec (.comparatorAssert c codes true) s) fun t => (t.cmp c).asserted = true ∧ t.arcLight c = true ∧ (t.cmp c).lightWin = true) ∧
  (∀ (c : Nat) (s : State), c < 64 → c < s.fst.cmp.length → cfgMode (s.cmpCfg c) = 3 →
    (s.arcLight c = false → Leads (exec (.arcWindowExpiry c true) s) fun t => (t.cmp c).asserted = false ∧ (t.cmp c).lightWin = false ∧ (t.cmp c).curWin = (s.cmp c).curWin) ∧
    ((s.cmp (cfgCur (s.cmpCfg c))).asserted = false → Leads (exec (.arcWindowExpiry c false) s) fun t => (t.cmp c).asserted = false ∧ (t.cmp c).curWin = false ∧ (t.cmp c).lightWin = (s.cmp c).lightWin))

/-- Express codes received, forwarded and timed out, and the writes of FAST configuration registers (R199, R200, R205, R346). -/
def Obligations.ExpressAndFastConfig : Prop :=
  (∀ (p code : Nat) (a b : LaneIn) (s : State), p < 2 → (nth s.chn.ports p).st = .up → expressCode a b = some code →
    (code / 4 ≠ s.chn.addr → Leads (exec (.expressReceived p a b) s) fun t => code ∈ t.fst.x ∧ (∀ y ∈ s.fst.x, y ∈ t.fst.x) ∧ t.fst.cmp = s.fst.cmp ∧ lookupD t.fst.xAge code (3, 0) = (0, s.pwr.ot)) ∧
    (code / 4 = s.chn.addr → Leads (exec (.expressReceived p a b) s) fun t => t.fst = s.fst)) ∧
  (∀ (code : Nat) (s : State),
    (s.codeStale code = true → Leads (exec (.expressCodeTimeout code) s) fun t => (∀ y, y ∈ t.fst.x ↔ y ∈ s.fst.x ∧ y ≠ code) ∧ t.fst.cmp = s.fst.cmp) ∧
    (s.codeStale code = false → exec (.expressCodeTimeout code) s = .next s)) ∧
  (∀ (cls : KeyClass) (a key : Nat) (v : Word) (s : State), isFast a = true → s.mayWrite cls a → a ≠ 0x2800 → s.fastKey a = some key →
    (s.fastAsserted a (v &&& BitVec.ofNat 32 (fastMask a)) = true → Leads (exec (.fastCfgWrite cls a v) s) fun t => t.fst.result = 3 ∧ t.defer = s.defer ∧ t.regs = s.regs ∧ t.nv = s.nv) ∧
    (s.fastCheck a (v &&& BitVec.ofNat 32 (fastMask a)) ≠ 0 →
      Leads (exec (.fastCfgWrite cls a v) s) fun t => t.fst.result = s.fastCheck a (v &&& BitVec.ofNat 32 (fastMask a)) ∧ t.defer = s.defer ∧ t.regs = s.regs ∧ t.nv = s.nv) ∧
    (s.fastCheck a (v &&& BitVec.ofNat 32 (fastMask a)) = 0 →
      Leads (exec (.fastCfgWrite cls a v) s) fun t => t.fst = { s.fst with result := 1 } ∧ t.regSeen key = v &&& BitVec.ofNat 32 (fastMask a) ∧ t.regs = s.regs ∧
        (s.dm.mramFail = false → lookupD t.nv.ovr key 0 = v &&& BitVec.ofNat 32 (fastMask a))))

/-- Jobs: a submission that R400 accepts joins the outstanding jobs under the next ticket, with what its block takes at once; one that R400 refuses leaves its reason; a cancel ends a job that R399 lets end (R235, R238, R290, R348, R398, R399, R400, R402). -/
def Obligations.JobSubmission : Prop :=
  (∀ (cls : KeyClass) (arg : Nat) (s : State), s.mayWrite cls 0x1000 → arg < 65536 →
    ∀ p ∈ [(Instr.imageLoad cls arg, 1), (.imageActivation cls arg, 2), (.templateActivation cls arg, 3), (.ledgerCommission cls arg, 4), (.ledgerClear cls arg, 5),
        (.captureExport cls arg, 6), (.pairSelfTest cls arg, 7), (.foregroundAfeCalibration cls arg, 8), (.chainRewalk cls arg, 9), (.mramScrub cls arg, 10), (.breakerWearReset cls arg, 11)],
      (s.jobRefusal cls p.2 arg = 0 → Leads (exec p.1 s) fun t =>
        t.job = { s.job with out := s.job.out ++ [{ ticket := s.job.next, code := p.2, arg := arg, cls := cls, step := 0 }], next := ticketNext s.job.next, tickets := s.job.tickets.set (clsIx cls) (s.job.next, 1) } ∧
        (p.2 = 1 → t.sch.phase = 1 ∧ t.sch.ldSlot = bitsOf (s.reg 0x2414) 24 24 ∧ t.sch.ldLen = bitsOf (s.reg 0x2414) 20 0 ∧ t.sch.chunk = 0) ∧
        (p.2 = 2 ∨ p.2 = 3 → t.sch.act = .accepted ∧ t.sch.actResult = 1 ∧ t.sch.actTicket = s.job.next ∧ t.sch.actImage = decide (p.2 = 2)) ∧
        (p.2 = 6 → arg < s.cap.slots.length → (nth t.cap.slots arg).lease = some s.job.next) ∧
        (p.2 = 9 → t.chn.walkDue = true ∧ t.chn.walkMode = arg)) ∧
      (s.jobRefusal cls p.2 arg ≠ 0 → Leads (exec p.1 s) fun t =>
        t.job = { s.job with tickets := s.job.tickets.set (clsIx cls) (0, s.jobRefusal cls p.2 arg) })) ∧
  (∀ (cls : KeyClass) (n : Nat) (s : State), s.mayWrite cls 0x1000 → n < 65536 →
    (s.job.out.find? (fun j => j.ticket = n) = none → Leads (exec (.jobCancel cls n) s) fun t => t.job = { s.job with tickets := s.job.tickets.set (clsIx cls) (n, 1) }) ∧
    (∀ j, s.job.out.find? (fun j => j.ticket = n) = some j →
      (j.cls ≠ cls → s.classIn cls 1 = false → Leads (exec (.jobCancel cls n) s) fun t => t.job = { s.job with tickets := s.job.tickets.set (clsIx cls) (0, 2) }) ∧
      (j.cls = cls ∨ s.classIn cls 1 = true → s.cancellable j = false → Leads (exec (.jobCancel cls n) s) fun t => t.job = { s.job with tickets := s.job.tickets.set (clsIx cls) (0, 8) }) ∧
      (j.cls = cls ∨ s.classIn cls 1 = true → s.cancellable j = true → Leads (exec (.jobCancel cls n) s) fun t =>
        t.job.out = s.job.out.filter (fun j => j.ticket ≠ n) ∧ t.job.tickets = s.job.tickets.set (clsIx cls) (n, 1) ∧
        t.job.hist = (({ ticket := n, state := if j.code = 6 then jobDone else jobCancelled, reason := 0 } : JobEnd) :: s.job.hist).take 16)))

/-- The scheme: chunks of a load, setting groups, template parameters, the three instants of a structural activation (R211, R236, R237, R238, R239, R241). -/
def Obligations.SchemeCommands : Prop :=
  (∀ (cls : KeyClass) (v : Word) (s : State), s.mayWrite cls 0x2418 →
    (s.loading = false ∨ s.sch.ready = false → Leads (exec (.chunkCommit cls v) s) fun t => t.sch = { s.sch with xferErr := true }) ∧
    (s.loading = true → s.sch.ready = true → bitsOf v 8 0 = s.sch.chunk → Leads (exec (.chunkCommit cls v) s) fun t => t.sch = { s.sch with ready := false, copied := 0 }) ∧
    (s.loading = true → s.sch.ready = true → bitsOf v 8 0 ≠ s.sch.chunk → Leads (exec (.chunkCommit cls v) s) fun t =>
      t.sch.phase = 5 ∧ t.sch.reason = 7 ∧ t.sch.pos = 4096 * bitsOf v 8 0 ∧ t.sch.ready = false ∧ t.sch.slotState = s.sch.slotState.set s.sch.ldSlot 0)) ∧
  (∀ (cls : KeyClass) (v : Word) (s : State), s.mayWrite cls 0x2430 →
    (s.sch.cfg.groupNets ≠ [] ∨ s.sch.cfg.nGroups ≤ bitsOf v 2 0 → Leads (exec (.schGroupWrite cls v) s) fun t => t.sch = { s.sch with groupResult := 2 } ∧ t.nv = s.nv) ∧
    (s.sch.cfg.groupNets = [] → bitsOf v 2 0 < s.sch.cfg.nGroups → s.actSpan = false → Leads (exec (.schGroupWrite cls v) s) fun t => t.sch = { s.sch with groupPend := some (bitsOf v 2 0) })) ∧
  (∀ s : State, s.ticking = true → s.actSpan = false →
    (∀ g, s.sch.groupPend = some g → Leads (exec .groupSwitch s) fun t => t.sch = { s.sch with group := g, groupPend := none, groupResult := 1 }) ∧
    (s.sch.groupPend = none → s.sch.cfg.groupNets ≠ [] →
      Leads (exec .groupSwitch s) fun t => t.sch = { s.sch with group := if s.netGroup < s.sch.cfg.nGroups then s.netGroup else s.sch.group })) ∧
  (∀ (cls : KeyClass) (v : Word) (s : State), s.mayWrite cls 0x243C →
    (paramOk s.parTpl s.parsSeen s.parSel v = true → s.parTpl = s.sch.tpl → Leads (exec (.templateParamWrite cls v) s) fun t =>
      t.sch = { s.sch with paramPend := s.sch.paramPend.filter (fun p => p.1 ≠ s.parSel) ++ [(s.parSel, v)] }) ∧
    (paramOk s.parTpl s.parsSeen s.parSel v = true → s.parTpl ≠ s.sch.tpl → Leads (exec (.templateParamWrite cls v) s) fun t =>
      t.sch = { s.sch with paramNext := insertKey s.sch.paramNext s.parSel v }) ∧
    (paramOk s.parTpl s.parsSeen s.parSel v = false → exec (.templateParamWrite cls v) s = .next s)) ∧
  (∀ s : State, s.actMayStart = true → (s.sys.st = .inService → s.hng.leaving = none → s.tripAsserted = false) → Leads (exec .activationReferenceTick s) fun t =>
    t.sch.act = .blocked ∧ t.sys.st = .blocked ∧ t.sch.actOt = s.pe.tickOt ∧ t.sch.image = s.sch.actImage ∧ t.sch.placed = true ∧
    (s.sch.actImage = true → t.sch.cfg = s.sch.actCfg ∧ t.sch.slot = s.sch.actIx) ∧ (s.sch.actImage = false → t.sch.tpl = s.sch.actIx) ∧
    t.sch.group = t.sch.cfg.initGroup ∧ t.sch.groupPend = none ∧ (s.sch.groupPend.isSome = true → t.sch.groupResult = 3)) ∧
  (∀ s : State, s.actMayStart = true → s.sys.st = .inService → s.hng.leaving = none → s.tripAsserted = true → Leads (exec .activationReferenceTick s) fun t =>
    t.sch.act = .idle ∧ t.sys.st = .inService ∧ t.sch.cfg = s.sch.cfg ∧ t.sch.image = s.sch.image) ∧
  (∀ s : State, s.sch.act = .blocked → s.ticking = true → Leads (exec .activationBoundary s) fun t =>
    t.sch.act = .settling ∧ t.flt.eff = (fltOfWord (s.reg 0x1800)).getD s.flt.eff ∧ t.flt.pend = none ∧ t.flt.result = (if s.flt.pend.isSome then 2 else s.flt.result) ∧
    ∀ c < 16, (t.afeCh c).gain = bitsOf (s.reg (0x1400 + 4 * c)) 1 0) ∧
  (∀ s : State, s.sch.act = .settling → s.sch.actLeft = 0 → s.ticking = true → s.sch.actHinge = false → Leads (exec .activated s) fun t =>
    t.sch.act = .idle ∧ t.sch.actResult = 2 ∧ t.sch.lost = false ∧ t.sch.fallback = false ∧ t.sch.blockedUs = s.pe.tickOt - s.sch.actOt ∧
    t.sys.st = (if s.sys.st = .blocked ∧ (if s.sch.image then s.sch.cfg.enable else decide (s.sch.tpl ≠ 0) && bitAt (s.reg 0x2434) 4) = true ∧ s.hinged = false then .inService else s.sys.st))

/-- Faults and holds of the outputs (R246, R253, R258). -/
def Obligations.OutputFaults : Prop :=
  (∀ (n m cur : Nat) (s : State), s.alive = false → ∀ i ∈ [Instr.stuckOn n, .outShort n, .thermalShutdown n, .outFailOff n, .outOpen n cur, .outOverload n cur, .crossDrive n m], exec i s = .next s) ∧
  (∀ (n : Nat) (s : State), s.alive = true → n < 12 → n < s.fio.dos.length → s.outOn n = false → s.fio.state ≠ 2 → s.cplFailed (16 + n) = false → (s.outp n).stuck = false → (s.outp n).cross = false →
    (s.hinged = false ∨ s.doShared n = false → Leads (exec (.stuckOn n) s) fun t => t.outp n = { s.outp n with stuck := true } ∧ t.sys.nme = setBit s.sys.nme 5 ∧ ∀ m, m ≠ n → t.outp m = s.outp m) ∧
    (s.hinged = true → s.doShared n = true → Leads (exec (.stuckOn n) s) fun t => t.outp n = { s.outp n with peer := true } ∧ t.sys = s.sys ∧ t.ldg = s.ldg)) ∧
  (∀ (n : Nat) (s : State), s.alive = true → n < 12 → n < s.fio.dos.length → s.outOn n = true →
    ((s.outp n).limit = false → Leads (exec (.outShort n) s) fun t => t.outp n = { s.outp n with limit := true } ∧ ∀ m, m ≠ n → t.outp m = s.outp m) ∧
    ((s.outp n).limit = true → Leads (exec (.thermalShutdown n) s) fun t => t.outp n = { s.outp n with thermal := true } ∧ t.outOn n = false) ∧
    ((s.outp n).limit = false → (s.outp n).failOff = false → Leads (exec (.outFailOff n) s) fun t => t.outp n = { s.outp n with failOff := true, stuck := false } ∧ ∀ m, m ≠ n → t.outp m = s.outp m) ∧
    (∀ cur, cur < 10 → (s.outp n).failOff = false → (s.outp n).openLd = false → Leads (exec (.outOpen n cur) s) fun t => t.outp n = { s.outp n with openLd := true, current := cur / 10 } ∧ ∀ m, m ≠ n → t.outp m = s.outp m) ∧
    (∀ cur, s.overLimit n < cur → (s.outp n).overload = false → Leads (exec (.outOverload n cur) s) fun t => t.outp n = { s.outp n with overload := true, current := cur / 10 } ∧ ∀ m, m ≠ n → t.outp m = s.outp m)) ∧
  (∀ (n : Nat) (s : State), n < s.fio.dos.length → (s.outp n).thermal = true →
    Leads (exec (.thermalOffExpiry n) s) fun t => t.outp n = { s.outp n with thermal := false, limit := false } ∧ ∀ m, m ≠ n → t.outp m = s.outp m) ∧
  (∀ (n m : Nat) (s : State), s.alive = true → n < 12 → m < 12 → n ≠ m → n < s.fio.dos.length → s.outOn n = false → s.outOn m = true → s.grouped n m = false → (s.outp n).cross = false →
    Leads (exec (.crossDrive n m) s) fun t => t.outp n = { s.outp n with cross := true } ∧ ∀ k, k ≠ n → t.outp k = s.outp k) ∧
  (∀ (cls : KeyClass) (v : Word) (s : State), s.mayWrite cls 0x2D40 → s.fio.dos.length = 12 →
    Leads (exec (.crossInhClear cls v) s) fun t => ∀ n < 12, (t.outp n).cross = ((s.outp n).cross && !bitAt v n)) ∧
  (∀ (n : Nat) (s : State), n < s.fio.dos.length →
    Leads (exec (.outputHoldExpiry n) s) fun t => (t.outp n).hold = false ∧ (t.outp n).holding = false ∧ ∀ m, m ≠ n → (t.outp m).hold = (s.outp m).hold ∧ (t.outp m).holding = (s.outp m).holding)

/-- Couplers, inputs, the field supply, trip-circuit continuity and the field's configuration (R92, R244, R246, R248, R249, R254, R255, R256, R257, R260). -/
def Obligations.FieldCouplersAndSupply : Prop :=
  (∀ (k frames : Nat) (s : State), s.alive = true → k < 32 → k < s.fio.failed.length →
    (s.cplFailed k = false → 4 ≤ frames → Leads (exec (.couplerFail k frames) s) fun t => t.cplFailed k = true ∧ (∀ j, j ≠ k → t.cplFailed j = s.cplFailed j) ∧ (k = 30 → t.sys.health = false)) ∧
    (s.cplFailed k = true → 1000 ≤ frames → Leads (exec (.couplerOk k frames) s) fun t => t.cplFailed k = false ∧ (∀ j, j ≠ k → t.cplFailed j = s.cplFailed j))) ∧
  (∀ (n : Nat) (level : Bool) (count sec us : Nat) (s : State), s.alive = true → s.inputGo n count = true → n < s.fio.di.length → sec < 2 ^ 32 →
    Leads (exec (.inputAccepted n level count sec us) s) fun t => t.fio = { s.fio with di := modNth s.fio.di n (fun d => { d with level := level, accepted := true, sec := sec, us := us, edge := level, hold := decide (s.ptp.state ≠ 2) }) }) ∧
  (∀ (vf t0 t1 : Nat) (s : State), s.alive = true → s.cplFailed 31 = false → s.fio.state = 0 →
    Leads (exec (.fieldSupplyReading vf t0 t1) s) fun t => t.fio.vf = vf ∧ t.fio.vfRead = true ∧
      t.fio.state = (if vf < 1680 ∧ 1 ≤ s.fio.lows then 1 else if 3020 < vf ∧ 1 ≤ s.fio.highs then 3 else 0)) ∧
  (∀ s : State, s.alive = true → s.fio.state = 1 ∨ s.fio.state = 3 → 100 ≤ s.fio.backs → Leads (exec .fieldSagEnd s) fun t => t.fio = { s.fio with state := 0, lows := 0, highs := 0, backs := 0 }) ∧
  (∀ s : State, s.alive = true → s.fio.state ≠ 2 → Leads (exec .fieldBrownout s) fun t => t.fio.state = 2 ∧ t.sys.health = false ∧ t.fio.lostCount = satInc 255 s.fio.lostCount ∧
    (∀ n < s.fio.dos.length, (t.outp n).hold = false) ∧ t.fio.failed = s.fio.failed) ∧
  (∀ s : State, s.alive = true → s.fio.state = 2 → Leads (exec .fieldReady s) fun t => t.fio.state = 0 ∧ t.fio.ready = true ∧ t.fio.failPend = [] ∧ (∀ d ∈ t.fio.di, d.accepted = false) ∧ t.fio.dos = s.fio.dos) ∧
  (∀ (n : Nat) (present : Bool) (s : State), s.alive = true → s.tcsValid n = true → n < 2 → bitAt (s.reg (0x2D48 + 4 * n)) 0 = true → 20 ≤ (if present then (nth s.fio.tcs n).ups else (nth s.fio.tcs n).downs) →
    exec (.tcsContinuityChange n present) s = .next (s.modFio (fun x => { x with tcs := modNth x.tcs n (fun t => { t with cont := present }) }))) ∧
  (∀ (cls : KeyClass) (a : Nat) (v : Word) (s : State), isField a = true → a ≠ 0x2C84 → a ≠ 0x2D40 → s.mayWrite cls a → (∀ r, targetOf a = some (.reg r) → r.mask ≠ 0) →
    (s.fioCheck a (v &&& BitVec.ofNat 32 (fioMask a)) ≠ 0 →
      Leads (exec (.fioCfgWrite cls a v) s) fun t => t.fio = { s.fio with result := s.fioCheck a (v &&& BitVec.ofNat 32 (fioMask a)) } ∧ t.defer = s.defer ∧ t.regs = s.regs ∧ t.nv = s.nv) ∧
    (s.fioCheck a (v &&& BitVec.ofNat 32 (fioMask a)) = 0 →
      Leads (exec (.fioCfgWrite cls a v) s) fun t => t.fio = { s.fio with result := 1 } ∧ t.regSeen a = v &&& BitVec.ofNat 32 (fioMask a) ∧ t.regs = s.regs ∧
        (s.dm.mramFail = false → lookupD t.nv.ovr a 0 = v &&& BitVec.ofNat 32 (fioMask a))))

/-- The recorder writes the ring's oldest entry whole, with the next sequence, and only there; a returned token is spent on a summary (R264, R265, R269, R270, R271, R274, R276, R277). -/
def Obligations.LedgerWriting : Prop :=
  (∀ (s : State) (e : Entry) (r : List Entry), s.ldg.ring = e :: r → s.canWrite e = true → s.ldg.ovLow = 0 → s.ldg.ovHigh = 0 → Memory.wf s.mram = true →
    (s.ldg.commissioned = true → s.ldg.firstFull = false → s.ldg.firstPos + recLen e ≤ firstSize →
      Leads (exec .ledgerWrite s) fun t => t.ldg.ring = r ∧ t.ldg.nextSeq = seqNext s.ldg.nextSeq ∧ t.ldg.circ = s.ldg.circ ∧
        t.ldg.first = s.ldg.first ++ [{ off := firstBase + s.ldg.firstPos, len := recLen e, seq := s.ldg.nextSeq }] ∧ t.ldg.firstPos = s.ldg.firstPos + recLen e ∧
        t.mramGet (firstBase + s.ldg.firstPos) (recLen e) = recBytes e (e.flags + 16 * b2n (decide (s.pwr.pf = PfStage.flushing)) + 4) s.ldg.nextSeq ∧
        ∀ a, a < firstBase + s.ldg.firstPos ∨ firstBase + s.ldg.firstPos + recLen e ≤ a → memRead t.mram a = memRead s.mram a) ∧
    (s.ldg.commissioned = false ∨ s.ldg.firstFull = true → s.ldg.circPos + recLen e ≤ circSize →
      Leads (exec .ledgerWrite s) fun t => t.ldg.ring = r ∧ t.ldg.nextSeq = seqNext s.ldg.nextSeq ∧ t.ldg.first = s.ldg.first ∧
        t.ldg.circ.getLast? = some { off := circBase + s.ldg.circPos, len := recLen e, seq := s.ldg.nextSeq } ∧ t.ldg.circPos = s.ldg.circPos + recLen e ∧
        t.ldg.circ.dropLast = s.ldg.circ.filter (fun r => !decide (r.off < circBase + s.ldg.circPos + recLen e ∧ circBase + s.ldg.circPos < r.off + r.len)) ∧
        t.mramGet (circBase + s.ldg.circPos) (recLen e) = recBytes e (e.flags + 16 * b2n (decide (s.pwr.pf = PfStage.flushing))) s.ldg.nextSeq ∧
        ∀ a, a < circBase + s.ldg.circPos ∨ circBase + s.ldg.circPos + recLen e ≤ a →
          (∀ r ∈ s.ldg.circ, r.off < circBase + s.ldg.circPos + recLen e → circBase + s.ldg.circPos < r.off + r.len → a < r.off + r.len - 4 ∨ r.off + r.len - 4 + 4 ≤ a) → memRead t.mram a = memRead s.mram a)) ∧
  (∀ (code : Nat) (s : State), s.ldg.ovLow = 0 → s.ldg.ovHigh = 0 → (s.bucket code).lacks ≠ 0 →
    ((s.bucket code).pending = 0 → Leads (exec (.tokenReturn code) s) fun t => t.bucket code = { s.bucket code with lacks := (s.bucket code).lacks - 1 } ∧ t.ldg.ring = s.ldg.ring) ∧
    ((s.bucket code).pending ≠ 0 → Leads (exec (.tokenReturn code) s) fun t =>
      t.bucket code = { s.bucket code with pending := 0, first := 0, last := 0, summaries := satInc 65535 (s.bucket code).summaries } ∧
      (s.ldg.closed = false → s.ldg.ring.length < 480 → ∃ e ∈ t.ldg.ring, e.code = 0x00E0 ∧ e.sev = s.codeSev code ∧ e.ot = s.pwr.ot)))

/-- The reading cursors of the classes, and the scan of the areas at power-on (R279, R280, R283). -/
def Obligations.LedgerReading : Prop :=
  (∀ (cls : KeyClass) (s : State), s.mayWrite cls 0x3014 → clsIx cls < s.ldg.cursors.length →
    ∀ p ∈ [(Instr.cursorSeek cls, 1), (.cursorOldest cls, 2), (.cursorNewest cls, 3), (.cursorNext cls, 4), (.cursorPrev cls, 5), (.cursorFirst cls, 6)],
      Leads (exec p.1 s) fun t =>
        nth t.ldg.cursors (clsIx cls) = { nth s.ldg.cursors (clsIx cls) with op := if (nth s.ldg.cursors (clsIx cls)).op = 0 then p.2 else (nth s.ldg.cursors (clsIx cls)).op } ∧
        ∀ k, k ≠ clsIx cls → nth t.ldg.cursors k = nth s.ldg.cursors k) ∧
  (∀ (cls : KeyClass) (s : State) (c : Cursor), clsIx cls < s.ldg.cursors.length → nth s.ldg.cursors (clsIx cls) = c →
    Leads (exec (.cursorMoveDone cls) s) fun t => (∀ k, k ≠ clsIx cls → nth t.ldg.cursors k = nth s.ldg.cursors k) ∧ t.mram = s.mram ∧
      (nth t.ldg.cursors (clsIx cls)).op = 0 ∧
      (c.op = 1 → ∀ r, s.ldg.circ.find? (fun x => x.seq = (s.reg (bankKey 0x3010 (clsIx cls))).toNat) = some r →
        (seqBelow r.seq s.ldg.floor = false → nth t.ldg.cursors (clsIx cls) = { area := false, ix := some r, status := if s.recValid r then 0 else 1 }) ∧
        (seqBelow r.seq s.ldg.floor = true → nth t.ldg.cursors (clsIx cls) = { c with status := 4, op := 0 })) ∧
      (c.op = 2 → ∀ r, s.oldest = some r → nth t.ldg.cursors (clsIx cls) = { area := false, ix := some r, status := 0 }) ∧
      (c.op = 6 → ∀ r, s.ldg.first.head? = some r → nth t.ldg.cursors (clsIx cls) = { area := true, ix := some r, status := if s.recValid r then 0 else 1 }) ∧
      (c.op = 4 → c.status < 2 → c.area = false → ∀ r r', c.ix = some r → seqBelow r.seq s.ldg.floor = false → nextOf s.ldg.circ r = some r' →
        nth t.ldg.cursors (clsIx cls) = { area := false, ix := some r', status := if s.recValid r' then 0 else 1 }) ∧
      (c.op = 5 → c.status < 2 → c.area = false → ∀ r r', c.ix = some r → seqBelow r.seq s.ldg.floor = false → prevOf s.ldg.circ r = some r' → seqBelow r'.seq s.ldg.floor = false →
        nth t.ldg.cursors (clsIx cls) = { area := false, ix := some r', status := if s.recValid r' then 0 else 1 })) ∧
  (∀ s : State, s.alive = true → s.ldg.scanning = true → Leads (exec .ledgerScanDone s) fun t => t.ldg.scanning = false ∧
    (∃ n, t.ldg.circ = s.ldg.circ.take n ∧ ∀ r ∈ s.ldg.circ.drop n, s.recValid r = false) ∧ (∀ r, t.ldg.circ.getLast? = some r → s.recValid r = true) ∧
    (∃ n, t.ldg.first = s.ldg.first.take n ∧ ∀ r ∈ s.ldg.first.drop n, s.recValid r = false) ∧ (∀ r, t.ldg.first.getLast? = some r → s.recValid r = true))

/-- Captures: the host's trigger, the end of a capture, the protection of a slot and the bytes that carry it, the lapse of a lease (R284, R285, R288, R289, R290). -/
def Obligations.Captures : Prop :=
  (∀ (cls : KeyClass) (s : State), s.mayWrite cls 0x3404 → exec (.capTrig cls) s = .next (s.modCap (fun x => { x with hostTrig := true }))) ∧
  (∀ (s : State) (c : Capture), s.cap.recording = some c → c.want ≤ c.ticks.length →
    Leads (exec .captureEnd s) fun t => t.cap.recording = none ∧ t.cap.waiting = s.cap.waiting ++ [{ c with protect := c.protect || (s.capCfg.protect && protects s.cap.trip c) }] ∧ t.cap.writing = true ∧ t.cap.slots = s.cap.slots) ∧
  (∀ (cls : KeyClass) (s : State), s.mayWrite cls 0x3414 → s.selSlot cls < s.cap.slots.length →
    ((s.capSlot (s.selSlot cls)).state ≠ 1 → exec (.slotProtect cls) s = .next s ∧ exec (.slotUnprotect cls) s = .next s) ∧
    ((s.capSlot (s.selSlot cls)).state = 1 → s.dm.mramFail = false → Memory.wf s.mram = true →
      ∀ p ∈ [(Instr.slotProtect cls, true), (.slotUnprotect cls, false)], Leads (exec p.1 s) fun t =>
        t.capSlot (s.selSlot cls) = { s.capSlot (s.selSlot cls) with prot := p.2 } ∧ (∀ k, k ≠ s.selSlot cls → t.capSlot k = s.capSlot k) ∧
        memRead t.mram (slotBase (s.selSlot cls) + 0x21) = BitVec.ofNat 8 (field (s.mramGet (slotBase (s.selSlot cls) + 0x21) 1) 0 1 / 2 * 2 + b2n p.2) ∧
        field (t.mramGet (slotBase (s.selSlot cls) + 0x1F8) 4) 0 4 = t.slotCrc (s.selSlot cls) ∧
        ∀ a, a ≠ slotBase (s.selSlot cls) + 0x21 → a < slotBase (s.selSlot cls) + 0x1F8 ∨ slotBase (s.selSlot cls) + 0x1FC ≤ a → memRead t.mram a = memRead s.mram a)) ∧
  (∀ (k n : Nat) (s : State) (j : Job), (s.capSlot k).lease = some n → s.job.out.find? (fun j => j.ticket = n) = some j →
    Leads (exec (.leaseTimeout k) s) fun t => (t.capSlot k).lease = none ∧ t.job.out = s.job.out.filter (fun j => j.ticket ≠ n) ∧
      t.job.hist = (({ ticket := n, state := jobDone, reason := 0 } : JobEnd) :: s.job.hist).take 16)

/-- An accepted offset, of a one-step Sync or of a Follow_Up that answers the Sync held: stepped, refused or passed to the servo, and what the time state becomes (R301, R302, R304, R305). -/
def Obligations.OffsetJudged : Prop :=
  ∀ (s : State) (p : Nat) (c : Instr) (o : Rat), s.ptpOn p = true → s.srcEff = 1 → s.ptp.port = p + 1 →
    ((∃ m : SyncIn, c = .ptpSync p m ∧ m.oneStep = true ∧ o = s.offsetOf p m.t1 m.t2 m.corr) ∨
     (∃ (m : SyncIn) (t1 corr : Int), c = .ptpFollowUp p m.seq t1 corr ∧ nth s.ptp.waiting p = some m ∧ o = s.offsetOf p t1 m.t2 (m.corr + corr))) →
    Leads (exec c s) fun t => t.ptp.offset = roundAway o ∧
      (s.ptp.set = false ∨ (s.ptp.armed = true ∧ (20000 ≤ absR o ∨ (s.stepThr : Rat) ≤ absR o)) ∨ (20000 ≤ absR o ∧ absR o < (s.stepThr : Rat)) →
        ptpTotal t.ptp = (((ptpTotal s.ptp : Nat) : Int) - roundAway (o * 65536)).toNat ∧ t.ptp.set = true ∧ t.ptp.realign = true ∧ t.ptp.refused = false ∧
        t.ptp.steps = satInc 65535 s.ptp.steps ∧ (s.ptp.state ≠ 3 → t.ptp.state = 1) ∧ (s.ptp.set = true → t.ptp.armed = false)) ∧
      (s.ptp.set = true → s.ptp.armed = false → (s.stepThr : Rat) ≤ absR o →
        ptpTotal t.ptp = ptpTotal s.ptp ∧ t.ptp.refused = true ∧ t.ptp.steps = s.ptp.steps ∧ (s.ptp.state ∈ [1, 2, 3] → t.ptp.state = 3 ∧ 5 ∈ t.ptp.causes)) ∧
      (s.ptp.set = true → absR o < 20000 → absR o < (s.stepThr : Rat) →
        ptpTotal t.ptp = ptpTotal s.ptp ∧ t.ptp.refused = false ∧ t.ptp.steps = s.ptp.steps ∧ t.ptp.armed = s.ptp.armed ∧ -500000 ≤ t.ptp.adj ∧ t.ptp.adj ≤ 500000 ∧
        (s.ptp.state = 1 → (t.ptp.state = 2 ↔ absR o ≤ 100 ∧ s.ptp.realign = false ∧ 15 ≤ s.ptp.good)) ∧
        (s.ptp.state = 2 → (t.ptp.state = 1 ↔ 1000 < absR o ∧ 3 ≤ s.ptp.bad)))

/-- PTP messages other than an accepted offset, the loss of Sync and of Announce, the end of a realignment (R298, R299, R301, R302, R306). -/
def Obligations.PtpMessages : Prop :=
  (∀ (p : Nat) (m : SyncIn) (s : State), s.ptpOn p = true → s.srcEff = 1 → s.ptp.port = p + 1 → m.oneStep = false →
    exec (.ptpSync p m) s = .next (s.modPtp (fun x => { x with waiting := x.waiting.set p (some m) }))) ∧
  (∀ (p : Nat) (s : State), s.ptpOn p = false → (∀ m, exec (.ptpSync p m) s = .next s) ∧ (∀ a, exec (.ptpAnnounce p a) s = .next s) ∧
    (∀ q t2 t3, exec (.ptpPdelayReq p q t2 t3) s = .next s) ∧ ∀ a b c d, exec (.ptpPdelayResp p a b c d) s = .next s) ∧
  (∀ (p q : Nat) (t2 t3 : Int) (s : State), s.ptpOn p = true →
    exec (.ptpPdelayReq p q t2 t3) s = .next { s with svc := { s.svc with sent := [.pdelayResp p q (t2 - s.ingress p) (t3 + s.egress p)] } }) ∧
  (∀ (p : Nat) (t1 t2 t3 t4 : Int) (s : State), s.ptpOn p = true → p < s.ptp.delays.length →
    Leads (exec (.ptpPdelayResp p t1 t2 t3 t4) s) fun t =>
      nth t.ptp.delays p = (((((t4 - s.ingress p) - (t1 + s.egress p) - (t3 - t2) : Int) : Rat) / 2) :: nth s.ptp.delays p).take 8 ∧
      ∀ k, k ≠ p → nth t.ptp.delays k = nth s.ptp.delays k) ∧
  (∀ (p : Nat) (a : AnnounceIn) (s : State), s.ptpOn p = true → a.domain = bitsOf s.ptpCtl 15 8 → p < s.ptp.masters.length →
    (nth s.ptp.masters p = none → Leads (exec (.ptpAnnounce p a) s) fun t => nth t.ptp.masters p = some a ∧ t.ptp.port ≠ 0 ∧ t.ptp.gm.isSome = true) ∧
    (∀ o, nth s.ptp.masters p = some o → o.gm ≠ a.gm → better (masterKey a) (masterKey o) = false → Leads (exec (.ptpAnnounce p a) s) fun t => t.ptp.masters = s.ptp.masters ∧ t.ptp.port = s.ptp.port ∧ t.ptp.gm = s.ptp.gm)) ∧
  (∀ (s : State), (s.srcEff ≠ 1 → exec .syncTimeout s = .next s) ∧
    (s.srcEff = 1 → s.ptp.state = 1 ∨ s.ptp.state = 2 → Leads (exec .syncTimeout s) fun t => t.ptp.state = 3 ∧ 1 ∈ t.ptp.causes ∧ t.ptp.hoOt = s.pwr.ot ∧ t.ptp.adj = s.heldAdj)) ∧
  (∀ (p : Nat) (a : AnnounceIn) (s : State), p < 2 → s.ptp.masters.length = 2 → nth s.ptp.masters p = some a → nth s.ptp.masters (1 - p) = none → s.ptp.port = p + 1 → s.srcEff = 1 →
    s.ptp.state = 1 ∨ s.ptp.state = 2 → Leads (exec (.announceTimeout p) s) fun t => t.ptp.state = 3 ∧ 2 ∈ t.ptp.causes ∧ t.ptp.port = 0 ∧ nth t.ptp.masters p = none) ∧
  (∀ (s : State), (s.ptp.realign = true → Leads (exec .timeRealigned s) fun t => t.ptp = { s.ptp with realign := false, good := 0 }) ∧ (s.ptp.realign = false → exec .timeRealigned s = .next s))

/-- The registers of time: forces armed, disarmed and set, the control register, the latched time (R296, R302, R305, R306, R323). -/
def Obligations.TimeRegisters : Prop :=
  (∀ (cls : KeyClass) (s : State), s.mayWrite cls 0x3828 →
    exec (.forceAcceptNext cls) s = .next (s.modPtp (fun p => { p with armed := true })) ∧
    exec (.forceDisarm cls) s = .next (s.modPtp (fun p => { p with armed := false })) ∧
    Leads (exec (.forceSet cls) s) fun t =>
      t.ptp.sec = (s.reg 0x382C).toNat * 2 ^ 32 + (s.reg 0x3830).toNat ∧ t.ptp.ns = (s.reg 0x3834).toNat ∧ t.ptp.frac = 0 ∧ t.ptp.set = true ∧ t.ptp.armed = false ∧
      t.ptp.realign = true ∧ t.ptp.steps = satInc 65535 s.ptp.steps ∧ t.ptp.adj = s.ptp.adj ∧
      (s.ptp.set = false → t.ptp.state = if s.srcEff = 0 then 4 else 1) ∧ (s.ptp.set = true → t.ptp.state = if s.ptp.state = 2 then 1 else s.ptp.state)) ∧
  (∀ (cls : KeyClass) (v : Word) (s : State), s.mayWrite cls 0x3800 →
    (bitsOf v 1 0 = 3 ∨ bitsOf v 3 2 = 3 → exec (.ptpCtlWrite cls v) s = .next s) ∧
    (bitsOf v 1 0 ≠ 3 → bitsOf v 3 2 ≠ 3 → Leads (exec (.ptpCtlWrite cls v) s) fun t => t.reg 0x3800 = v &&& 0xFF3F#32 ∧
      (s.dm.mramFail = false → lookupD t.nv.ovr 0x3800 0 = v &&& 0xFF3F#32) ∧
      (s.follower = false → bitsOf v 3 2 = 0 → s.srcEff ≠ 0 → s.ptp.state ≠ 0 → t.ptp.state = 4) ∧
      (s.follower = false → bitsOf v 3 2 ≠ 0 → s.srcEff = 0 → s.ptp.state = 4 → t.ptp.state = 1))) ∧
  (∀ (cls : KeyClass) (s : State), s.mayRead cls 0x380C →
    exec (.ptpTimeSecLoRead cls) s = .next (s.modPtp (fun p => { p with latchHi := (wallAt s.ptp s.pwr.ot).1 / 2 ^ 32, latchNs := (wallAt s.ptp s.pwr.ot).2, latchFrac := s.ptp.frac })))

/-- Links and redundant LANs, the frames that the module sends on its own, management frames (R302, R307, R308, R309, R322). -/
def Obligations.LinksAndManagement : Prop :=
  (∀ (m : Nat) (up : Bool) (v : Nat) (s : State), m < 2 → m < s.svc.mac.length → v < 4 →
    Leads (exec (.ethLink m up v) s) fun t => (nth t.svc.mac m).link = up ∧ (up = true → (nth t.svc.mac m).speed = v) ∧ (∀ k, k ≠ m → nth t.svc.mac k = nth s.svc.mac k) ∧ t.svc.ctx = s.svc.ctx ∧
      ((nth s.svc.mac m).link = true → up = false → (∀ k, k < 2 → k ≠ m → s.portEn k = true → (nth s.svc.mac k).link = false) → s.srcEff = 1 → s.ptp.state = 1 ∨ s.ptp.state = 2 → t.ptp.state = 3 ∧ 3 ∈ t.ptp.causes) ∧
      (up = true → t.ptp = s.ptp)) ∧
  (∀ (s : State), s.macOn 0 = true ∨ s.macOn 1 = true → exec .prpSupervision s = .next { s with svc := { s.svc with sent := [.supervision] } }) ∧
  (∀ (l : Nat) (s : State), l < 2 → l < s.svc.mac.length →
    Leads (exec (.prpLanFault l) s) fun t => nth t.svc.mac l = { nth s.svc.mac l with fault := true } ∧ (∀ k, k ≠ l → nth t.svc.mac k = nth s.svc.mac k) ∧ t.svc.ctx = s.svc.ctx) ∧
  (∀ (m : Nat) (f : MgmtIn) (s : State), s.macOn m = true → s.alive = true →
    (bitAt (s.reg 0x3C0C) m = true → 1 ≤ f.count → f.count ≤ 32 → f.count = f.txns.length →
      Leads (exec (.mgmtFrame m f) s) fun t => t = { (s.serveAll f.txns).1 with svc := { (s.serveAll f.txns).1.svc with sent := [.mgmt m f.src f.seq (s.serveAll f.txns).2] } } ∧ (s.serveAll f.txns).2.length = f.count) ∧
    (bitAt (s.reg 0x3C0C) m = false ∨ f.count = 0 ∨ 32 < f.count ∨ f.count ≠ f.txns.length →
      exec (.mgmtFrame m f) s = .next { s with svc := { s.svc with mac := modNth s.svc.mac m (fun k => { k with dropped := satInc 65535 k.dropped }) } }))

/-- Subscribed streams: duplicates of a LAN pair, frames of no context, samples and event messages judged and kept, the expiry of an event context (R308, R310, R317, R320, R322). -/
def Obligations.SubscribedStreams : Prop :=
  (∀ (m q l : Nat) (s : State) (p : Nat × Nat × Nat × Nat), s.macOn m = true → p ∈ s.svc.seen → p.2.1 = q → s.pwr.ot ≤ p.2.2.2 + 400000 →
    ∀ c ∈ [Instr.svFrameReceived m { (default : SvIn) with src := p.1, trailer := some (q, l) }, .eventMessageReceived m { (default : EventIn) with src := p.1, trailer := some (q, l) }],
      Leads (exec c s) fun t => t.svc.ctx = s.svc.ctx ∧ t.svc.dups = satInc 65535 s.svc.dups) ∧
  (∀ (m : Nat) (f : SvIn) (s : State), s.macOn m = true → m < s.svc.mac.length → Fresh s f.src f.trailer → s.matchCtx 0 m f.mac f.appid f.hash = none →
    Leads (exec (.svFrameReceived m f) s) fun t => t.svc.ctx = s.svc.ctx ∧ (nth t.svc.mac m).dropped = satInc 65535 (nth s.svc.mac m).dropped) ∧
  (∀ (m i : Nat) (f : SvIn) (c : StreamCfg) (s : State), s.macOn m = true → Fresh s f.src f.trailer → s.matchCtx 0 m f.mac f.appid f.hash = some i → s.ctxCfg i = some c → i < s.svc.ctx.length →
    Leads (exec (.svFrameReceived m f) s) fun t => (∀ k, k ≠ i → t.ctx k = s.ctx k) ∧
      (f.rate ≠ s.fp → t.ctx i = { s.ctx i with rate := satInc 255 (s.ctx i).rate }) ∧
      (f.rate = s.fp → f.items.length ≠ c.count → t.ctx i = { s.ctx i with format := satInc 255 (s.ctx i).format }) ∧
      (f.rate = s.fp → f.items.length = c.count →
        ((∃ h ∈ (s.ctx i).held, h.at_ = s.readAt f.smpCnt c.delay) ∨ ((s.ctx i).started = true ∧ (s.ctx i).last = f.smpCnt) → t.ctx i = { s.ctx i with dups := satInc 255 (s.ctx i).dups }) ∧
        ((∀ h ∈ (s.ctx i).held, h.at_ ≠ s.readAt f.smpCnt c.delay) → ((s.ctx i).started = true → (s.ctx i).last ≠ f.smpCnt) →
          (t.ctx i).frames = ((s.ctx i).frames + 1) % 65536 ∧ (t.ctx i).last = f.smpCnt ∧ (t.ctx i).started = true ∧
          (s.tickNear < s.readAt f.smpCnt c.delay → (t.ctx i).held = (s.ctx i).held ++ [{ at_ := s.readAt f.smpCnt c.delay, cnt := f.smpCnt, synch := f.smpSynch, items := f.items }] ∧ (t.ctx i).late = (s.ctx i).late) ∧
          (s.readAt f.smpCnt c.delay ≤ s.tickNear → (t.ctx i).held = (s.ctx i).held ∧ (t.ctx i).late = satInc 255 (s.ctx i).late)))) ∧
  (∀ (m i : Nat) (f : EventIn) (c : StreamCfg) (s : State), s.macOn m = true → Fresh s f.src f.trailer → s.matchCtx 1 m f.mac f.appid f.hash = some i → s.ctxCfg i = some c → i < s.svc.ctx.length →
    f.members.length = c.count → (∀ b ∈ f.members, b ≠ none) → ((s.ctx i).started = true → (s.ctx i).last = f.stNum → (s.ctx i).sq ≠ f.sqNum) →
    Leads (exec (.eventMessageReceived m f) s) fun t => (∀ k, k ≠ i → t.ctx k = s.ctx k) ∧ (t.ctx i).last = f.stNum ∧ (t.ctx i).sq = f.sqNum ∧ (t.ctx i).ttl = f.ttl ∧ (t.ctx i).got = s.pwr.ot ∧
      (f.ndsCom = true ∨ f.sim = true ∨ (f.test = true ∧ s.sys.st ≠ .test) → (t.ctx i).valid = false ∧ (t.ctx i).bits = (s.ctx i).bits) ∧
      (f.ndsCom = false → f.sim = false → (f.test = true → s.sys.st = .test) → (t.ctx i).valid = true ∧ (t.ctx i).lost = false ∧ (t.ctx i).bits = f.members.map (fun b => b.getD false))) ∧
  (∀ (i : Nat) (c : StreamCfg) (s : State), s.ctxCfg i = some c → c.kind = 1 → (s.ctx i).valid = true → i < s.svc.ctx.length →
    Leads (exec (.eventContextExpiry i) s) fun t => t.ctx i = { s.ctx i with stands := false, valid := false, lost := true } ∧ ∀ k, k ≠ i → t.ctx k = s.ctx k)

/-- Published streams: a sampled-value frame once per group, an event message repeated at doubling intervals, nothing outside the publishing states (R23, R313, R316, R319). -/
def Obligations.PublishedStreams : Prop :=
  (∀ (i : Nat) (c : StreamCfg) (s : State), s.ctxCfg i = some c → c.kind = 2 → s.publishes = true → s.canSend c = true → i < s.svc.ctx.length →
    ((s.ctx i).started = true → (s.ctx i).last = (s.pubFrame c).1 → exec (.svPublish i) s = .next s) ∧
    (((s.ctx i).started = true → (s.ctx i).last ≠ (s.pubFrame c).1) → Leads (exec (.svPublish i) s) fun t =>
      t.svc.sent = [.sv i (s.pubFrame c).1 s.smpSynch (s.pubFrame c).2 (decide (s.sys.st = .test))] ∧ (∀ k, k ≠ i → t.ctx k = s.ctx k) ∧
      (t.ctx i).last = (s.pubFrame c).1 ∧ (t.ctx i).started = true ∧ (t.ctx i).frames = ((s.ctx i).frames + 1) % 65536) ∧
    (c.code = 0 → (s.pubFrame c).1 = s.tickNear % s.fp ∧ (s.pubFrame c).2.length = c.chans.length) ∧
    (c.code = 1 → (s.pubFrame c).1 < 4800 ∧ (s.pubFrame c).2.length = 2 * c.chans.length) ∧
    (c.code = 2 → (s.pubFrame c).1 < 14400 ∧ (s.pubFrame c).2.length = 6 * c.chans.length)) ∧
  (∀ (i : Nat) (c : StreamCfg) (s : State), s.ctxCfg i = some c → c.kind = 3 → s.publishes = true → s.canSend c = true → (s.ctx i).started = true → i < s.svc.ctx.length →
    Leads (exec (.eventMessageRepeat i) s) fun t => (∀ k, k ≠ i → t.ctx k = s.ctx k) ∧ (t.ctx i).sq = (s.ctx i).sq + 1 ∧ (t.ctx i).last = (s.ctx i).last ∧
      (t.ctx i).ival = min (2 * (s.ctx i).ival) (250 * 2 ^ (c.rate % 8)) ∧ (t.ctx i).ttl = 2 * (t.ctx i).ival ∧
      t.svc.sent = [.event i (s.ctx i).last ((s.ctx i).sq + 1) (t.ctx i).ttl (s.ctx i).bits (decide (s.sys.st = .test))]) ∧
  (∀ (i : Nat) (s : State), s.publishes = false → exec (.svPublish i) s = .next s ∧ exec (.eventMessageRepeat i) s = .next s)

/-- The ports of the chain: clock received, the steps of training and their timeouts, recovery (R331, R332). -/
def Obligations.PortTraining : Prop :=
  (∀ (p : Nat) (s : State), s.portMay p = true → (s.port p).st = .down →
    exec (.portClockReceived p) s = .next (s.modChn (fun x => { x with ports := modNth x.ports p (fun y => { y with st := .clock, trainings := satInc 255 y.trainings }) }))) ∧
  (∀ (p : Nat) (x : TrainIn) (s : State), s.portMay p = true → p < s.chn.ports.length →
    Leads (exec (.trainingAdvance p x) s) fun t => (∀ k, k ≠ p → t.port k = s.port k) ∧
      ((s.port p).st = .clock → (t.port p).st = if 8 ≤ x.windows then .align else .clock) ∧
      ((s.port p).st = .align → (t.port p).st = if 4 ≤ countIf x.markers (fun n => 8 ≤ n) then .deskew else .align) ∧
      ((s.port p).st = .deskew → (t.port p).st = if x.aligned then .spare else .deskew) ∧
      ((s.port p).st = .spare → (t.port p).st = if 4 ≤ ((List.range 5).filter (fun l => x.goodLanes.testBit l && !s.laneOut p l)).length then .switch else .spare) ∧
      ((s.port p).st = .switch → (t.port p).st = if x.farSpare = true ∧ 4 ≤ x.k285 then .up else .switch) ∧
      ((s.port p).st ∈ [PortState.down, .up, .recovery] → t = s)) ∧
  (∀ (p : Nat) (s : State), p < s.chn.ports.length →
    ((s.port p).st ∈ [PortState.clock, .align, .deskew, .spare, .switch] → Leads (exec (.trainingTimeout p) s) fun t => (t.port p).st = .down ∧ ∀ k, k ≠ p → t.port k = s.port k) ∧
    ((s.port p).st ∈ [PortState.down, .up, .recovery] → exec (.trainingTimeout p) s = .next s)) ∧
  (∀ (p : Nat) (c : RecoveryCause) (s : State), p < s.chn.ports.length → s.portUp p = true →
    (recoveryDue c = true → Leads (exec (.recoveryEntry p c) s) fun t => (t.port p).st = .recovery ∧ (t.port p).recoveries = satInc 255 (s.port p).recoveries ∧ ∀ k, k ≠ p → t.port k = s.port k) ∧
    (recoveryDue c = false → exec (.recoveryEntry p c) s = .next s)) ∧
  (∀ (p : Nat) (x : TrainIn) (s : State), p < s.chn.ports.length → (s.port p).st = .recovery →
    Leads (exec (.recoveryDone p x) s) fun t => (∀ k, k ≠ p → t.port k = s.port k) ∧
      (t.port p).st = if 4 ≤ ((s.judgeLanes p x.goodLanes).serving p x.goodLanes).length ∧ 4 ≤ countIf x.markers (fun n => 8 ≤ n) ∧ x.aligned = true ∧ x.farSpare = true ∧ 4 ≤ x.k285 then .up else .down)

/-- Ring, line, walk and the loss of the root (R348, R350, R351, R352, R354, R355, R356, R359). -/
def Obligations.RingAndWalk : Prop :=
  (∀ (s : State), s.chn.sender = true → s.pwr.rootStrap = true → s.chn.ring = 1 ∨ s.chn.ring = 3 → (∃ p ∈ s.chn.ports, 2 ≤ p.missed) →
    Leads (exec .chainRingOpen s) fun t => t.chn = { s.chn with ring := 2, pass := 0, walkResult := if s.chn.ring = 3 then 3 else s.chn.walkResult, measured := s.chn.measured && !decide (s.chn.ring = 3) } ∧
      (s.chn.ring = 3 → ∀ j, s.jobOf 9 = some j → ∃ r, t.job.hist = (({ ticket := j.ticket, state := jobFailed, reason := r } : JobEnd) :: s.job.hist).take 16)) ∧
  (∀ (s : State), s.chn.sender = true → s.pwr.rootStrap = true → s.chn.ring = 2 → (∀ p ∈ s.chn.ports, 8 ≤ p.back) →
    Leads (exec .chainRingClosed s) fun t => t.chn = { s.chn with ring := 1, walkDue := true }) ∧
  (∀ (s : State), s.chn.sender = true → s.pwr.rootStrap = true → s.chn.ring = 1 → s.portUp 0 = true → s.portUp 1 = true → s.chn.walkDue = true →
    Leads (exec .walkStart s) fun t => t.chn.ring = 3 ∧ t.chn.walk = (s.chn.walk + 1) % 65536 ∧ t.chn.walkResult = 1 ∧ t.chn.pass = 1 ∧ t.chn.walkDue = false ∧
      (bitsOf (s.reg 0x4004) 5 0 ≠ 0 → t.chn.addr = bitsOf (s.reg 0x4004) 5 0 ∧ t.chn.taken = 2 ^ bitsOf (s.reg 0x4004) 5 0)) ∧
  (∀ (tr : Nat) (d : Int) (s : State), (s.chn.ring ≠ 3 → exec (.chainWalk tr d) s = .next s) ∧
    (s.chn.ring = 3 → s.chn.sender = true → s.chn.pass ≠ 4 → exec (.chainWalk tr d) s = .next s) ∧
    (s.chn.ring = 3 → s.chn.sender = true → s.chn.pass = 4 →
      Leads (exec (.chainWalk tr d) s) fun t => t.chn.ring = 1 ∧ t.chn.tr = some tr ∧ t.chn.measured = true ∧ t.chn.walkResult = 2 ∧ t.chn.addr = s.chn.addr ∧ t.chn.senderAddr = s.chn.addr ∧
        t.chn.members = ((List.range 64).filter (fun a => a ≠ 0 ∧ s.chn.taken.testBit a)).length ∧
        ∀ j, s.jobOf 9 = some j → ∃ r, t.job.hist = (({ ticket := j.ticket, state := jobDone, reason := r } : JobEnd) :: s.job.hist).take 16) ∧
    (s.chn.ring = 3 → s.chn.sender = false →
      Leads (exec (.chainWalk tr d) s) fun t => t.chn = { s.chn with tr := some tr, d1 := some (((tr : Int) + d) / 2).toNat, measured := true, ring := 1, pass := 0 })) ∧
  (∀ (s : State), s.chn.addr ≠ 0 → s.chn.deputy = s.chn.addr → s.chn.sender = false → s.anyUp = true → s.chn.upstream.isSome = true →
    Leads (exec .chainDeputyActive s) fun t => t.chn = { s.chn with sender := true, deputyActs := true, senderAddr := s.chn.addr, marksLost := true } ∧
      (s.ptp.state = 1 ∨ s.ptp.state = 2 → t.ptp.state = 3 ∧ 4 ∈ t.ptp.causes)) ∧
  (∀ (s : State), s.chn.sender = false → s.chn.noRoot = false → s.anyUp = true →
    (s.chn.marksLost = true ∨ ∃ p ∈ [0, 1], s.portUp p = true ∧ (s.port p).marks = false ∧ (s.port p).upOt + 5000 ≤ s.pwr.ot) →
    Leads (exec .chainNoRoot s) fun t => t.chn.noRoot = true ∧ t.chn.ports = s.chn.ports ∧ (s.chn.marksLost = true → t.chn.ring = 0)) ∧
  (∀ (s : State), s.follower = true → s.chn.sender = false → s.chn.upstream.isSome = true → s.chn.marksLost = false →
    Leads (exec .chainTimeLost s) fun t => t.chn = { s.chn with marksLost := true } ∧ (s.ptp.state = 1 ∨ s.ptp.state = 2 → t.ptp.state = 3 ∧ 4 ∈ t.ptp.causes))

/-- The slots of units and the local cycle: a good copy is kept, a bad one counted, an absent one lost; every other unit's slot goes on, with K30.7 in place of a symbol in error (R329, R333, R337, R339, R341). -/
def Obligations.UnitSlots : Prop :=
  (∀ (p n : Nat) (l : List RxSym) (s : State), s.portUp p = true → 1 ≤ n → n ≤ 63 → l.all (fun b => b = .data 0) = false → p < s.chn.ports.length →
    Leads (exec (.unitSlotReceived p n l) s) fun t => t.chn.addr = s.chn.addr ∧
      (t.port p).violations = satAdd 65535 (s.port p).violations (countIf l (fun y => y = .violation)) ∧
      (t.port p).k307 = satAdd 255 (s.port p).k307 (countIf l (fun y => y = .error)) ∧
      (n ≠ s.chn.addr → s.portUp (1 - p) = true → 1 - p < s.chn.ports.length → lookupD (t.port (1 - p)).relay n [] = l.map (fun y => if y = .violation then .error else y)) ∧
      ((∀ b, l = b.map RxSym.data → ¬ SlotSealed 0xE4 b) → (t.port p).crc = satInc 255 (s.port p).crc ∧ t.chn.src = s.chn.src) ∧
      (∀ b, l = b.map RxSym.data → SlotSealed 0xE4 b → (t.port p).crc = (s.port p).crc ∧
        (n = s.chn.addr ∨ field b 0 1 ≠ n ∨ (s.src n).taken = true → t.chn.src = s.chn.src) ∧
        (n ≠ s.chn.addr → field b 0 1 = n → (s.src n).taken = false →
          (t.src n).taken = true ∧ (t.src n).lost = false ∧ (t.src n).flags = field b 1 1 ∧ (t.src n).inNets = slice b 0x1C 64 ∧ (t.src n).inXcp = slice b 0x5C 128 ∧
          (t.src n).digests.head? = some (field b 2 2, field b 0xDC 4) ∧ (∀ a, a ≠ n → t.src a = s.src a)))) ∧
  (∀ (a : Nat) (s : State), (∃ q ∈ s.chn.src, q.1 = a) → (s.src a).lost = false → 3 ≤ (s.src a).absent ∨ ((s.src a).taken = false ∧ (s.chn.marksLost = true ∨ s.anyUp = false)) →
    Leads (exec (.slotLoss a) s) fun t => t.src a = { s.src a with present := false, lost := true, nets := [], xcp := [] } ∧ (∀ b, b ≠ a → t.src b = s.src b) ∧ ∀ i, (t.src a).net i = false) ∧
  (∀ (p : Nat) (s : State), s.portUp p = true → s.chn.sender = false → (s.port (1 - p)).marks = false ∨ s.chn.marksLost = true →
    Leads (exec (.localCycle p) s) fun t => t.chn.slotOut = zeros 232 ∧ SlotSealed 0x3F4 t.chn.mgmtOut ∧ (∀ k < 0x3F4, nth t.chn.mgmtOut k = 0) ∧ t.chn.src = s.chn.src ∧ t.chn.addr = s.chn.addr ∧
      (s.chn.upstream.isSome = true → s.chn.marksLost = false → (p < s.chn.ports.length → (t.port p).pairs = 0) ∧ ∀ q, q ≠ p → t.port q = s.port q))

/-- The cycle of the chain: the sender's marks and slot, a mark that arrives, a management slot that arrives (R327, R333, R334, R336, R352, R354, R355). -/
def Obligations.ChainCycles : Prop :=
  (∀ (s : State), (s.maySend = false → exec .chainCycle s = .next s) ∧
    (s.maySend = true → Leads (exec .chainCycle s) fun t => t.chn.sender = true ∧ t.chn.senderAddr = s.chn.addr ∧ t.chn.second * 76800 + t.chn.cycle = s.nextCycle ∧ t.chn.cycle < 76800 ∧
      t.chn.noRoot = false ∧ t.chn.marksLost = false ∧ (s.chn.ring ≠ 0 → t.chn.ring = s.chn.ring) ∧ (s.chn.ring = 0 → t.chn.ring = if s.portUp 0 = true ∧ s.portUp 1 = true then 1 else 2) ∧
      (∀ m ∈ t.chn.mbox, m.due = false) ∧ SlotSealed 0x3F4 t.chn.mgmtOut)) ∧
  (∀ (p : Nat) (arr : Rat) (sec cyc ph : Nat) (s : State),
    (s.portUp p = false → exec (.cycleMarkReceived p arr sec cyc ph) s = .next s) ∧
    (s.portUp p = true → p < s.chn.ports.length → s.chn.sender = true → Leads (exec (.cycleMarkReceived p arr sec cyc ph) s) fun t =>
      t.port p = { s.port p with marks := true, seen := (s.port p).seen || decide (s.chn.second = sec ∧ s.chn.cycle = cyc) } ∧ ∀ k, k ≠ p → t.port k = s.port k) ∧
    (s.portUp p = true → p < s.chn.ports.length → s.chn.sender = false → s.chn.second = sec → s.chn.cycle = cyc → s.chn.upstream.isSome = true →
      Leads (exec (.cycleMarkReceived p arr sec cyc ph) s) fun t => t.port p = { s.port p with marks := true, seen := true } ∧ (∀ k, k ≠ p → t.port k = s.port k) ∧ t.ptp = s.ptp ∧ t.chn.upstream = s.chn.upstream) ∧
    (s.portUp p = true → p < s.chn.ports.length → s.chn.sender = false → s.chn.second ≠ sec ∨ s.chn.cycle ≠ cyc ∨ s.chn.upstream = none →
      Leads (exec (.cycleMarkReceived p arr sec cyc ph) s) fun t => t.chn.second = sec ∧ t.chn.cycle = cyc ∧ t.chn.upstream = some p ∧ t.chn.marksLost = false ∧ t.chn.noRoot = false ∧ t.chn.sender = false ∧
        (s.chn.ring = 0 → t.chn.ring = 2) ∧ (s.chn.ring ≠ 0 → t.chn.ring = s.chn.ring))) ∧
  (∀ (p : Nat) (l : List RxSym) (s : State), (s.portUp p = false → exec (.managementSlotReceived p l) s = .next s) ∧
    (s.portUp p = true → p < s.chn.ports.length → (∀ b, l = b.map RxSym.data → ¬ SlotSealed 0x3F4 b) →
      Leads (exec (.managementSlotReceived p l) s) fun t => t.chn = { s.chn with ports := t.chn.ports } ∧ (t.port p).crc = satInc 255 (s.port p).crc ∧
        (s.chn.sender = false → s.portUp (1 - p) = true → 1 - p < s.chn.ports.length → lookupD (t.port (1 - p)).relay 0 [] = l.map (fun y => if y = .violation then .error else y))) ∧
    (∀ b, s.portUp p = true → l = b.map RxSym.data → SlotSealed 0x3F4 b →
      (field b 0x10 1 = 0 → (∀ x ∈ slice b 0x20 16, x = 0) → Leads (exec (.managementSlotReceived p l) s) fun t => t.chn = { s.chn with ports := t.chn.ports } ∧ t.ptp = s.ptp) ∧
      (field b 0x10 1 ≠ 0 → s.chn.sender = false → Leads (exec (.managementSlotReceived p l) s) fun t => SlotSealed 0x3F4 t.chn.mgmtOut) ∧
      (field b 0x10 1 ≠ 0 → s.chn.sender = true → field b 0x10 1 ≠ s.chn.addr →
        (s.chn.deputyActs = true → Leads (exec (.managementSlotReceived p l) s) fun t => t.chn = { s.chn with sender := false, deputyActs := false, ports := t.chn.ports }) ∧
        (s.chn.deputyActs = false → field b 0x10 1 ≠ s.chn.deputy → Leads (exec (.managementSlotReceived p l) s) fun t => t.chn = { s.chn with sender := false, stopped := true, ring := 0, ports := t.chn.ports }) ∧
        (s.chn.deputyActs = false → field b 0x10 1 = s.chn.deputy → Leads (exec (.managementSlotReceived p l) s) fun t => t.chn = { s.chn with ports := t.chn.ports }))))

/-- Remote register access: a transaction sent, executed at its target, answered or timed out; the latched excerpt (R357, R358, R361). -/
def Obligations.RemoteAccess : Prop :=
  (∀ (cls : KeyClass) (s : State), s.mayWrite cls 0x403C → s.mboxSel < s.chn.mbox.length →
    ((s.mbox s.mboxSel).busy = true → exec (.remoteGo cls) s = .next s) ∧
    ((s.mbox s.mboxSel).busy = false → Leads (exec (.remoteGo cls) s) fun t => (∀ k, k ≠ s.mboxSel → t.mbox k = s.mbox k) ∧
      (s.chn.sender = false → t.mbox s.mboxSel = { s.mbox s.mboxSel with status := 5 }) ∧
      (s.chn.sender = true → (s.mbox s.mboxSel).target = 0 ∨ (s.mbox s.mboxSel).target = s.chn.addr → t.mbox s.mboxSel = { s.mbox s.mboxSel with status := 6 }) ∧
      (s.chn.sender = true → (s.mbox s.mboxSel).target ≠ 0 → (s.mbox s.mboxSel).target ≠ s.chn.addr →
        t.mbox s.mboxSel = { s.mbox s.mboxSel with tag := ((s.mbox s.mboxSel).tag + 1) % 256, busy := true, due := true, age := 0, status := 1 }))) ∧
  (∀ (m : Nat) (e : List Byte) (s : State),
    (field e 0 1 ≠ s.chn.addr ∨ nth s.chn.tags m = field e 1 1 ∨ s.chn.sender = true → exec (.remoteTransaction m e) s = .next s) ∧
    (m < 8 → s.chn.addr ≠ 0 → field e 0 1 = s.chn.addr → nth s.chn.tags m ≠ field e 1 1 → s.chn.sender = false → s.alive = true →
      Leads (exec (.remoteTransaction m e) s) fun t => t.regs = (s.serve .chain (slice e 4 9)).1.regs ∧ t.chn.tags = (s.serve .chain (slice e 4 9)).1.chn.tags.set m (field e 1 1) ∧
        ∃ a, (m, answerEntry a (field e 1 1) (s.serve .chain (slice e 4 9)).2, 3) ∈ t.chn.answers)) ∧
  (∀ (m : Nat) (e : List Byte) (s : State), m < 8 → m < s.chn.mbox.length → (s.mbox m).busy = true → (s.mbox m).due = false → field e 1 1 = (s.mbox m).tag → field e 0 1 = (s.mbox m).target →
    Leads (exec (.remoteAnswer m e) s) fun t => (t.mbox m).busy = false ∧ (t.mbox m).status = remoteStatus (slice e 4 9) ∧ (∀ k, k ≠ m → t.mbox k = s.mbox k) ∧
      (remoteStatus (slice e 4 9) = 2 → (t.mbox m).data = BitVec.ofNat 32 (beNat (slice (slice e 4 9) 3 4))) ∧ (remoteStatus (slice e 4 9) ≠ 2 → (t.mbox m).data = (s.mbox m).data)) ∧
  (∀ (m : Nat) (s : State), m < 8 → m < s.chn.mbox.length → (s.mbox m).busy = true → (s.mbox m).due = false →
    (8 ≤ (s.mbox m).age → Leads (exec (.remoteTimeout m) s) fun t => t.mbox m = { s.mbox m with busy := false, status := 4 } ∧ ∀ k, k ≠ m → t.mbox k = s.mbox k) ∧
    ((s.mbox m).age < 8 → exec (.remoteTimeout m) s = .next s)) ∧
  (∀ (cls : KeyClass) (s : State), s.mayRead cls 0x4050 → exec (.chnXcpData0Read cls) s = .next { s with chn := { s.chn with xcp := (List.range 8).map s.xcpWord } })

/-- The roles of a hinge pair: peer seen, takeover, claim and its second look, the entry into STANDBY (R366, R367, R374, R376, R378). -/
def Obligations.HingeRoles : Prop :=
  (∀ (s : State), exec (.hingePeerChange true) s = .next { s with hng := { s.hng with peer := true } }) ∧
  (∀ (s : State), (s.standsBy = false ∨ s.hng.wireFault = true → exec (.hingePeerChange false) s = .next { s with hng := { s.hng with peer := false, freeOt := s.pwr.ot } }) ∧
    (s.standsBy = true → s.hng.wireFault = false → Leads (exec (.hingePeerChange false) s) fun t =>
      t.sys.st = .inService ∧ t.sys.lastCause = 9 ∧ t.hng.ctl = true ∧ t.hng.peer = false ∧ t.hng.takeovers = satInc 65535 s.hng.takeovers ∧ t.hng.seenOt = some s.pwr.ot)) ∧
  (∀ (s : State), s.hinged = true → s.sys.st = .blocked → s.enabled = true → s.ticking = true → s.hng.peer = false → s.actSpan = false → s.sys.shutting = false →
    (s.preferred = true ∨ s.hng.freeOt + 200000 ≤ s.pwr.ot → Leads (exec .hingeClaim s) fun t => t.sys.st = .inService ∧ t.sys.lastCause = 2 ∧ t.hng.ctl = true ∧ t.hng.claimed = true) ∧
    (s.preferred = false → s.pwr.ot < s.hng.freeOt + 200000 → exec .hingeClaim s = .next s)) ∧
  (∀ (s : State), s.hinged = false ∨ s.sys.st ≠ .blocked ∨ s.hng.peer = true → exec .hingeClaim s = .next s) ∧
  (∀ (b : Bool) (s : State), (s.hng.claimed = false ∨ s.sys.st ≠ .inService → exec (.claimRecheck b) s = .next s) ∧
    (s.hng.claimed = true → s.sys.st = .inService → Leads (exec (.claimRecheck b) s) fun t => t.hng.claimed = false ∧ t.hng.peer = (s.hng.peer || b) ∧
      (b = false ∨ s.preferred = true → t.sys.st = s.sys.st ∧ t.hng.ctl = s.hng.ctl) ∧ (b = true → s.preferred = false → t.sys.st = .blocked ∧ t.sys.lastCause = 2 ∧ t.hng.ctl = false))) ∧
  (∀ (s : State), (s.standbyDue = false → exec .hingeStandby s = .next s) ∧
    (s.standbyDue = true → Leads (exec .hingeStandby s) fun t => t.sys.st = .standby ∧ t.sys.lastCause = (if s.sys.st = .failsafe then 0xB else if s.sch.actHinge then 3 else 2) ∧ t.hng.ctl = false ∧
      (s.sch.actHinge = true → s.sch.act = .idle → t.sch.actHinge = false ∧ t.sch.actTicket = 0 ∧ t.sch.actResult = 2)))

/-- Anchor frames, the hinge activation's messages, manual handover and wire faults (R240, R366, R369, R372, R377, R378, R381). -/
def Obligations.AnchorsAndHandover : Prop :=
  (∀ (l : List Word) (a : Bool) (s : State), (s.hinged = false → exec (.anchorFrameReceived l a) s = .next s) ∧
    (s.hinged = true → a = true ∨ frameOk l = false → exec (.anchorFrameReceived l a) s = .next { s with hng := { s.hng with crcFail := satInc 255 s.hng.crcFail } }) ∧
    (s.hinged = true → a = false → frameOk l = true → bitsOf (nth l 0) 23 16 = 1 → s.takesAnchors = true → exec (.anchorFrameReceived l a) s = .next { s with hng := { s.hng with frame := some l } })) ∧
  (∀ (s : State), (s.hng.frame = none → exec .anchorAdopt s = .next s) ∧
    (s.hng.frame ≠ none → s.takesAnchors = false → exec .anchorAdopt s = .next { s with hng := { s.hng with frame := none } }) ∧
    (s.hng.frame ≠ none → s.takesAnchors = true → Leads (exec .anchorAdopt s) fun t => t.hng = { s.hng with frame := none, anchors := (s.hng.anchors + 1) % 65536, adopted := some s.pwr.ot } ∧
      t.pe.els.length = s.pe.els.length ∧ ∀ k, k < s.pe.els.length → (∀ c ∈ s.sch.cfg.insts, c.num ≠ (nth s.pe.els k).num) → nth t.pe.els k = nth s.pe.els k)) ∧
  (∀ (g : Nat) (s : State), s.hinged = false ∨ s.sys.st ≠ .standby ∨ s.sch.act ≠ .idle → exec (.activateOrder g) s = .next s) ∧
  (∀ (g k : Nat) (s : State), s.hinged = true → s.sys.st = .standby → s.sch.act = .idle →
    (List.range 2).find? (fun k => s.hallSet k && s.hallOk k && decide (field (s.slotImage k) 0x10 4 = g) && (s.checkImage (s.slotImage k) (s.slotLen k)).isNone) = some k →
    Leads (exec (.activateOrder g) s) fun t => t.sch = { s.sch with act := .accepted, actCfg := schemeOf (s.slotImage k), actImage := true, actIx := k, actTicket := 0, actHinge := true, actResult := 1 } ∧ t.sys = s.sys) ∧
  (∀ (s : State), (s.sch.actHinge = true → s.sys.st = .inService → exec .readyReport s = .next { s with hng := { s.hng with readyIn := true } }) ∧
    (s.sch.actHinge = false ∨ s.sys.st ≠ .inService → exec .readyReport s = .next s)) ∧
  (∀ (cls : KeyClass) (v : Word) (s : State), s.mayWrite cls 0x4400 → (s.hinged = false → exec (.handoverWrite cls v) s = .next s) ∧
    (s.hinged = true → Leads (exec (.handoverWrite cls v) s) fun t =>
      (bitsOf v 17 8 = 0 → t.regs = s.regs ∧ t.nv = s.nv) ∧ (bitsOf v 17 8 ≠ 0 → t.reg 0x4400 = pack [(8, 10, bitsOf v 17 8)]) ∧
      (bitAt v 0 = false → t.hng = s.hng) ∧
      (bitAt v 0 = true → s.sys.st ≠ .inService ∨ s.hng.leaving ≠ none → t.hng = { s.hng with hoResult := 5 }) ∧
      (bitAt v 0 = true → s.sys.st = .inService → s.hng.leaving = none → s.tripAsserted = true → t.hng = { s.hng with hoResult := 3 }) ∧
      (bitAt v 0 = true → s.sys.st = .inService → s.hng.leaving = none → s.tripAsserted = false → s.peerSrc.present = false ∨ s.peerSrc.state ≠ 4 → t.hng = { s.hng with hoResult := 4 }))) ∧
  (∀ (s : State), (s.hinged = true → s.sys.st = .standby → exec .handoverRequest s = .next (s.pushFrame 5 [])) ∧ (s.sys.st ≠ .standby → exec .handoverRequest s = .next s) ∧
    (s.hng.hoResult = 1 → exec .handoverAcknowledge s = .next { s with hng := { s.hng with hoAck := true } }) ∧ (s.hng.hoResult ≠ 1 → exec .handoverAcknowledge s = .next s) ∧
    (s.hng.hoResult = 1 → s.hng.hoAck = false → exec .handoverTimeout s = .next { s with hng := { s.hng with hoResult := 6 } }) ∧ (s.hng.hoResult ≠ 1 ∨ s.hng.hoAck = true → exec .handoverTimeout s = .next s)) ∧
  (∀ (s : State), s.hinged = true → s.sys.st = .standby → 3 ≤ s.hng.differ → Leads (exec .hingeWireFault s) fun t => t.hng = { s.hng with wireFault := true } ∧ t.sys.st = .standby) ∧
  (∀ (s : State), s.hng.differ < 3 → exec .hingeWireFault s = .next s) ∧
  (∀ (s : State), (s.hng.differ = 0 → exec .wireFaultClear s = .next { s with hng := { s.hng with wireFault := false } }) ∧ (s.hng.differ ≠ 0 → exec .wireFaultClear s = .next s)) ∧
  (∀ (s : State), exec .hingeCtlNoTick s = .next { s with hng := { s.hng with ctl := false } })

/-- Frames of nine bytes on the host and debug ports: another path, length or command byte leaves the module alone; a bad CRC, an unknown command and a power fail are answered without execution; every other frame is executed once, its answer carries the code of its outcome, value_refused, the two event lines and the word, and SYS_LAST keeps it (R383, R384, R386, R387, R388, R389, R396). -/
def Obligations.HostFrames : Prop :=
  ∀ p ∈ [((fun (cls : KeyClass) (f : List Byte) => Instr.hostRead cls f), 0x0B, false), (fun cls f => .hostWrite cls f, 0x02, true), (fun cls f => .hostQuadRead cls f, 0xEB, false), (fun cls f => .hostQuadWrite cls f, 0x32, true)],
    ∀ (cls : KeyClass) (f : List Byte) (s : State),
    (s.pathUp cls = false ∨ f.length ≠ 9 ∨ reqCmd f ≠ p.2.1 → exec (p.1 cls f) s = .next s) ∧
    (s.pathUp cls = true → f.length = 9 → reqCmd f = p.2.1 →
      (reqCrcOk f = false → Leads (exec (p.1 cls f) s) fun t => SameBut [.irq, .host, .ring, .trip] s t ∧
        t.host = { s.host with crcErr := if cls = .host then satInc 255 s.host.crcErr else s.host.crcErr, answer := some (cls, answerBytes ((if s.pwr.pf = .none then 2 else 6) + 64 * b2n t.irqOut + 128 * b2n s.nmeOut) (reqAddr f) 0) }) ∧
      (reqCrcOk f = true → cls = .debug → p.2.1 = 0xEB ∨ p.2.1 = 0x32 → Leads (exec (p.1 cls f) s) fun t => SameBut [.irq, .host, .ring, .trip] s t ∧
        t.host = { s.host with answer := some (cls, answerBytes ((if s.pwr.pf = .none then 3 else 6) + 64 * b2n t.irqOut + 128 * b2n s.nmeOut) (reqAddr f) 0) }) ∧
      (reqCrcOk f = true → cls ≠ .debug ∨ p.2.1 = 0x0B ∨ p.2.1 = 0x02 →
        (s.pwr.pf ≠ .none → exec (p.1 cls f) s = .next { s with host := { s.host with answer := some (cls, answerBytes (6 + 64 * b2n s.irqOut + 128 * b2n s.nmeOut) (reqAddr f) 0) } }) ∧
        (s.pwr.pf = .none → ∀ (u : State) (code : Nat) (vr : Bool) (d : Word),
          ((targetOf (reqAddr f) = none ∧ u = s ∧ code = 4 ∧ vr = false ∧ d = 0) ∨
            (∃ g, targetOf (reqAddr f) = some g ∧
              ((p.2.2 = false ∧ s.may cls (reqAddr f) (romRead g) 0 = true ∧ u = s.readEffect (reqAddr f) ∧ code = 0 ∧ vr = false ∧ d = s.wordView cls (reqAddr f) g) ∨
                (p.2.2 = false ∧ s.may cls (reqAddr f) (romRead g) 0 = false ∧ u = s.keyRefused cls 0 (reqAddr f) (reqData f) ∧ code = 1 ∧ vr = false ∧ d = 0) ∨
                (p.2.2 = true ∧ writable g = true ∧ s.may cls (reqAddr f) (romWrite g) 1 = false ∧ u = s.keyRefused cls 1 (reqAddr f) (reqData f) ∧ code = 1 ∧ vr = false ∧ d = 0) ∨
                (p.2.2 = true ∧ (writable g = true → s.may cls (reqAddr f) (romWrite g) 1 = true) ∧ s.sys.st = .boot ∧ reqAddr f ∉ [0x0010, 0x0014, 0x0018] ∧ u = s ∧ code = 5 ∧ vr = false ∧ d = 0) ∨
                (p.2.2 = true ∧ writable g = true ∧ s.may cls (reqAddr f) (romWrite g) 1 = true ∧ (s.sys.st ≠ .boot ∨ reqAddr f ∈ [0x0010, 0x0014, 0x0018]) ∧
                  (u, vr) = s.applyWord cls (reqAddr f) (reqData f) g ∧ code = 0 ∧ d = u.wordView cls (reqAddr f) g) ∨
                (p.2.2 = true ∧ writable g = false ∧ (s.sys.st ≠ .boot ∨ reqAddr f ∈ [0x0010, 0x0014, 0x0018]) ∧ u = s ∧ code = 0 ∧ vr = false ∧ d = s.wordView cls (reqAddr f) g)))) →
          let status := code + 16 * b2n vr + 64 * b2n u.irqOut + 128 * b2n u.nmeOut
          let kept := cls = .host ∧ ¬(p.2.2 = false ∧ reqAddr f = 0x0024)
          Leads (exec (p.1 cls f) s) fun t => SameBut [.host] u t ∧
            t.host = { u.host with answer := some (cls, answerBytes status (reqAddr f) d), lastStatus := if kept then status else u.host.lastStatus, lastCmd := if kept then p.2.1 else u.host.lastCmd, lastAddr := if kept then reqAddr f else u.host.lastAddr })))

/-- Broken frames and writes of one register: a command byte that a path does not know is answered with bad_command and counted, a frame that ends short is counted and not answered; a write that the keyway lets through has the register's effect, one that it refuses is counted, one that no path carries does nothing; the two status words clear the bits written as 1, in BOOT too (R8, R387, R388, R389, R390, R391, R396). -/
def Obligations.BrokenFramesAndWrites : Prop :=
  (∀ (cls : KeyClass) (f : List Byte) (s : State),
    (s.pathUp cls = false ∨ f.length ≠ 9 ∨ reqCmd f = 0x0B ∨ reqCmd f = 0x02 ∨ (cls ≠ .debug ∧ (reqCmd f = 0xEB ∨ reqCmd f = 0x32)) → exec (.badCommand cls f) s = .next s) ∧
    (s.pathUp cls = true → f.length = 9 → reqCmd f ≠ 0x0B → reqCmd f ≠ 0x02 → cls = .debug ∨ (reqCmd f ≠ 0xEB ∧ reqCmd f ≠ 0x32) → Leads (exec (.badCommand cls f) s) fun t => SameBut [.irq, .host, .ring, .trip] s t ∧
      (reqCrcOk f = true → t.host = { s.host with badCmd := if cls = .host then satInc 255 s.host.badCmd else s.host.badCmd, answer := some (cls, answerBytes ((if s.pwr.pf = .none then 3 else 6) + 64 * b2n t.irqOut + 128 * b2n s.nmeOut) (reqAddr f) 0) }) ∧
      (reqCrcOk f = false → t.host = { s.host with crcErr := if cls = .host then satInc 255 s.host.crcErr else s.host.crcErr, answer := some (cls, answerBytes ((if s.pwr.pf = .none then 2 else 6) + 64 * b2n t.irqOut + 128 * b2n s.nmeOut) (reqAddr f) 0) }))) ∧
  (∀ (cls : KeyClass) (n : Nat) (s : State), (s.pathUp cls = false ∨ 9 ≤ n → exec (.frameEndedShort cls n) s = .next s) ∧
    (s.pathUp cls = true → n < 9 → Leads (exec (.frameEndedShort cls n) s) fun t => SameBut [.irq, .host, .ring, .trip] s t ∧
      t.host = { s.host with frameErr := if cls = .host then satInc 255 s.host.frameErr else s.host.frameErr })) ∧
  (∀ (cls : KeyClass) (a : Nat) (v : Word) (s : State),
    (s.pathUp cls = false ∨ s.pwr.pf ≠ .none ∨ targetOf a = none → exec (.registerWrite cls a v) s = .next s) ∧
    (∀ g, targetOf a = some g → s.pathUp cls = true → s.pwr.pf = .none →
      (writable g = false ∨ (s.may cls a (romWrite g) 1 = true ∧ s.sys.st = .boot ∧ a ∉ [0x0010, 0x0014, 0x0018]) → exec (.registerWrite cls a v) s = .next s) ∧
      (writable g = true → s.may cls a (romWrite g) 1 = true → s.sys.st ≠ .boot ∨ a ∈ [0x0010, 0x0014, 0x0018] → exec (.registerWrite cls a v) s = .next (s.applyWord cls a v g).1) ∧
      (writable g = true → s.may cls a (romWrite g) 1 = false → Leads (exec (.registerWrite cls a v) s) fun t => SameBut [.irq, .key, .ring, .trip] s t ∧
        t.key = { s.key with refused := modNth s.key.refused (clsIx cls) (satInc 255) }))) ∧
  (∀ (cls : KeyClass) (v : Word) (s : State), s.pathUp cls = true → s.pwr.pf = .none →
    (s.grantsWrite cls 0x0010 → exec (.irqStatClear cls v) s = .next { s with sys := { s.sys with irq := s.sys.irq &&& ~~~v } }) ∧
    (s.grantsWrite cls 0x0018 → exec (.nmeStatClear cls v) s = .next { s with sys := { s.sys with nme := s.sys.nme &&& ~~~v } }))

/-- The ROM keyway table (R394), while no scheme's entry narrows it: which classes may write each register that has a writable field, range by range, the transfer window, and the reads, which every class may make except in the transfer window; DEBUG has the rights of HOST too while DBG_EN was high at reset (R393). A write to a word without a writable field is answered ok with the word's unchanged value: nothing is counted, recorded or changed. -/
def Obligations.KeywayTable : Prop :=
  (∀ p ∈ ([(0x0000, 0x000F, [.host, .chain]), (0x0010, 0x03FF, [.host]), (0x0400, 0x07FF, [.host]), (0x0800, 0x0BFF, [.host, .chain]), (0x0C00, 0x0FFF, [.host, .chain, .net, .debug]),
      (0x1000, 0x1003, [.host, .chain, .net]), (0x1004, 0x13FF, [.host, .chain, .net, .debug]), (0x1400, 0x145F, [.host, .chain]), (0x1460, 0x1463, [.host, .chain, .net, .debug]), (0x1464, 0x146F, [.host, .chain]), (0x1470, 0x1473, [.host, .chain, .net, .debug]), (0x1474, 0x17FF, [.host, .chain]), (0x1800, 0x1BFF, [.host, .chain]),
      (0x1C00, 0x1C23, [.host, .chain]), (0x1C24, 0x1C27, [.host, .chain, .net]), (0x1C28, 0x1FFF, [.host, .chain]), (0x2000, 0x23FF, [.host, .chain, .net, .debug]),
      (0x2400, 0x242F, [.host, .chain]), (0x2430, 0x2433, [.host, .chain, .net]), (0x2434, 0x2437, [.host, .chain]), (0x2438, 0x243B, [.host, .chain, .net, .debug]), (0x243C, 0x27FF, [.host, .chain]),
      (0x2800, 0x2803, [.host, .chain, .net, .debug]), (0x2804, 0x2BFF, [.host, .chain]), (0x2C00, 0x2C83, [.host, .chain]), (0x2C84, 0x2C87, [.host, .chain, .net, .debug]), (0x2C88, 0x2FFF, [.host, .chain]),
      (0x3000, 0x3023, [.host, .chain, .net, .debug]), (0x3024, 0x33FF, [.host, .chain]), (0x3400, 0x3407, [.host, .chain]), (0x3408, 0x340B, [.host, .chain, .net, .debug]), (0x340C, 0x37FF, [.host]),
      (0x3800, 0x3827, [.host, .chain]), (0x3828, 0x3837, [.host]), (0x3838, 0x3BFF, [.host, .chain]), (0x3C00, 0x3C0F, [.host]), (0x3C10, 0x3FFF, [.host, .chain, .net, .debug]),
      (0x4000, 0x402F, [.host, .chain]), (0x4030, 0x403F, [.host]), (0x4040, 0x43FF, [.host, .chain, .net, .debug]), (0x4400, 0x47FF, [.host, .chain]), (0x9000, 0x9FFF, [.host, .chain])] : List (Nat × Nat × List KeyClass)),
    ∀ (a : Nat) (g : Target), p.1 ≤ a → a ≤ p.2.1 → targetOf a = some g → writable g = true → ∀ (cls : KeyClass) (s : State), s.key.entries = [] →
      (s.may cls a (romWrite g) 1 = true ↔ cls ∈ p.2.2 ∨ (cls = .debug ∧ s.key.dbgEn = true ∧ .host ∈ p.2.2))) ∧
  (∀ (a : Nat) (g : Target) (cls : KeyClass) (s : State), targetOf a = some g → s.key.entries = [] →
    (s.may cls a (romRead g) 0 = true ↔ g ≠ .transferWin ∨ cls = .host ∨ cls = .chain ∨ (cls = .debug ∧ s.key.dbgEn = true))) ∧
  (∀ (a : Nat) (g : Target), targetOf a = some g → g = .ledgerWin ∨ g = .captureWin ∨ g = .probeWin → writable g = false) ∧
  (∀ (cls : KeyClass) (f : List Byte) (g : Target) (s : State), s.pathUp cls = true → f.length = 9 → reqCmd f = 0x02 → reqCrcOk f = true → s.pwr.pf = .none → s.sys.st ≠ .boot →
    targetOf (reqAddr f) = some g → writable g = false → Leads (exec (.hostWrite cls f) s) fun t => SameBut [.host] s t ∧
      t.host.answer = some (cls, answerBytes (64 * b2n s.irqOut + 128 * b2n s.nmeOut) (reqAddr f) (s.wordView cls (reqAddr f) g)))

/-- A request that the keyway refuses (R396): answered keyway_refused with data 0, nothing changed beyond the answer, the class's count, and the staged KEYWAY_REFUSED with class, operation, address and the data offered; the count does not depend on the record's rate. -/
def Obligations.KeywayRefusal : Prop :=
  ∀ p ∈ [((fun (cls : KeyClass) (f : List Byte) => Instr.hostRead cls f), 0x0B, 0), (fun cls f => .hostWrite cls f, 0x02, 1), (fun cls f => .hostQuadRead cls f, 0xEB, 0), (fun cls f => .hostQuadWrite cls f, 0x32, 1)],
    ∀ (cls : KeyClass) (f : List Byte) (g : Target) (s : State), s.pathUp cls = true → f.length = 9 → reqCmd f = p.2.1 → reqCrcOk f = true → s.pwr.pf = .none → (cls = .debug → p.2.1 = 0x0B ∨ p.2.1 = 0x02) →
      targetOf (reqAddr f) = some g → (p.2.2 = 0 → s.may cls (reqAddr f) (romRead g) 0 = false) → (p.2.2 = 1 → writable g = true ∧ s.may cls (reqAddr f) (romWrite g) 1 = false) →
      Leads (exec (p.1 cls f) s) fun t =>
        t.host.answer = some (cls, answerBytes (1 + 64 * b2n t.irqOut + 128 * b2n s.nmeOut) (reqAddr f) 0) ∧ SameBut [.irq, .key, .ring, .trip, .host] s t ∧
        t.key = { s.key with refused := modNth s.key.refused (clsIx cls) (fun n => min 255 (n + 1)) } ∧
        SameBut [.host] (({ s with key := t.key } : State).stage 0x0120 1 (b1 (clsIx cls) ++ b1 p.2.2 ++ b2 (reqAddr f) ++ b4 (reqData f).toNat)) t

/-- A job step: the jobs take their steps in rounds, the module's own first and then in ticket order, one each; commissioning, clearing and the wear reset are done in one step and end, a scrub and a calibration end with their last step, a capture write goes on with its next piece, and jobs that go on at their own events only count the step (R61, R182, R265, R282, R398, R401, R403, R464). -/
def Obligations.JobSteps : Prop :=
  ∀ (i : JobIn) (s : State), (s.alive = false ∨ s.pwr.pf ≠ .none ∨ (s.cap.writing = false ∧ s.pe.tests.any (fun t => decide (t.2 = TestKind.isolation)) = false ∧ s.job.out = []) → exec (.jobStep i) s = .next s) ∧
    (s.alive = true → s.pwr.pf = .none → s.jobOrder ≠ [] → Goes (exec (.jobStep i) s)) ∧
    (s.alive = true → s.pwr.pf = .none → ∀ (t : Nat) (round : List Nat),
      ((∃ a b, s.jobOrder = a ++ t :: b ∧ (∀ x ∈ a, x ∈ s.job.round) ∧ t ∉ s.job.round ∧ round = s.job.round ++ [t]) ∨ ((∀ x ∈ s.jobOrder, x ∈ s.job.round) ∧ s.jobOrder.head? = some t ∧ round = [t])) →
      (t = 0x10000 → Leads (exec (.jobStep i) s) fun u => SameBut [.irq, .job, .ring, .cap, .trip, .dm, .mram] s u ∧ u.job = { s.job with round := round } ∧
        (∀ c cs, s.cap.waiting = c :: cs → s.cap.writing = true → s.dm.mramFail = false → s.cap.written < (capPieces c).length → u.cap.written = s.cap.written + 1 ∧ (c.slot < s.cap.slots.length → (nth u.cap.slots c.slot).state = 2))) ∧
      (t = 0x10001 → exec (.jobStep i) s = .next { s with job := { s.job with round := round } }) ∧
      (∀ j, t ≠ 0x10000 → t ≠ 0x10001 → s.job.out.find? (fun x => x.ticket = t) = some j → Leads (exec (.jobStep i) s) fun u =>
        let counted := { s.job with round := round, out := s.job.out.map (fun (k : Job) => if k.ticket = t then { k with step := k.step + 1 } else k) }
        let ended : Jobs := { s.job with round := round.filter (fun x => x ≠ t), out := s.job.out.filter (fun x => x.ticket ≠ t), hist := (({ ticket := t, state := jobDone, reason := 0 } : JobEnd) :: s.job.hist).take 16 }
        (j.code = 4 → u.ldg.commissioned = true ∧ u.job = ended ∧ SameBut [.irq, .job, .ring, .ledger, .trip] s u) ∧
        (j.code = 5 → u.ldg.floor = s.ldg.nextSeq ∧ u.job = ended ∧ SameBut [.irq, .job, .ring, .ledger, .trip] s u) ∧
        (j.code = 11 → u.pe.els = s.pe.els.map (fun x => if x.num = j.arg then { x with z := [0, 0, 0] ++ x.z.drop 3, shot := 0, operate := false } else x) ∧ u.job = ended ∧ SameBut [.irq, .job, .ring, .trip, .nv, .pe] s u) ∧
        (j.code = 10 → u.job = (if j.step + 1 < 16384 then counted else ended) ∧ SameBut [.irq, .job, .ring, .cap, .trip, .dm, .nv] s u) ∧
        (j.code = 8 → u.job = (if j.step + 1 < calSteps * (calBanks j.arg).length then counted else ended) ∧ SameBut [.irq, .job, .ring, .trip, .dm, .afe, .flt] s u) ∧
        (j.code = 7 → j.step ≠ 0 → u.pe = (if s.pe.bistPair = j.arg then { s.pe with bistStep := satInc 65535 s.pe.bistStep } else s.pe) ∧ u.job = counted) ∧
        (j.code = 2 ∨ j.code = 3 ∨ j.code = 6 ∨ j.code = 9 → u.job = counted ∧ SameBut [.job] s u)))

/-- Clock failures: a failed reference or SYS PLL leads to level 1 on a judged IRC and to level 2 otherwise, a failed IRC to level 2 where it is the only reference, a failed LFO to no other level (R26, R408, R414, R415, R416, R417, R419, R420, R429). -/
def Obligations.ClockFallback : Prop :=
  (∀ (c : ClockFail) (s : State), s.alive = false → exec (.clockFailure c) s = .next s) ∧
  (∀ (s : State), s.alive = true → ∀ p ∈ [(ClockFail.refStopped, 1, false), (.refFreq, 2, true)],
    (s.clk.refStable = false ∨ (p.2.2 = true ∧ s.clk.ircOk = false) → exec (.clockFailure p.1) s = .next s) ∧
    (s.clk.refStable = true → p.2.2 = false ∨ s.clk.ircOk = true →
      (s.clk.level ≠ 0 ∨ s.clk.ref ≠ 0 → exec (.clockFailure p.1) s = .next { s with clk := { s.clk with refStable := false, refOk := false, freq := 0 } }) ∧
      (s.clk.level = 0 → s.clk.ref = 0 → s.clk.ircOk = true → Leads (exec (.clockFailure p.1) s) fun t => FellToOne p.2.1 s t ∧ t.clk.refStable = false ∧ t.clk.freq = 0) ∧
      (s.clk.level = 0 → s.clk.ref = 0 → s.clk.ircOk = false → Leads (exec (.clockFailure p.1) s) fun t => FellToTwo p.2.1 s t ∧ t.clk.refStable = false ∧ t.clk.freq = 0))) ∧
  (∀ (s : State), s.alive = true → ∀ p ∈ [(ClockFail.sysStopped, false), (.sysFreq, true)],
    (s.clk.sysLock = false ∨ s.clk.sysSrc ≠ 0 ∨ (p.2 = true ∧ s.clk.ircOk = false) → exec (.clockFailure p.1) s = .next s) ∧
    (s.clk.sysLock = true → s.clk.sysSrc = 0 → s.clk.ircOk = true → Leads (exec (.clockFailure p.1) s) fun t => FellToOne 3 s t ∧ t.clk.refStable = s.clk.refStable) ∧
    (s.clk.sysLock = true → s.clk.sysSrc = 0 → p.2 = false → s.clk.ircOk = false → Leads (exec (.clockFailure p.1) s) fun t => FellToTwo 3 s t ∧ t.clk.refStable = s.clk.refStable)) ∧
  (∀ (s : State), s.alive = true → ∀ c ∈ [ClockFail.ircStopped, .ircFreq],
    (s.clk.ircOk = false → exec (.clockFailure c) s = .next s) ∧
    (s.clk.ircOk = true → s.clk.level = 0 → s.clk.ref ≠ 1 → Leads (exec (.clockFailure c) s) fun t => SameBut [.irq, .ring, .trip, .clk] s t ∧ t.clk = { s.clk with ircOk := false }) ∧
    (s.clk.ircOk = true → s.clk.level = 1 ∨ (s.clk.level = 0 ∧ s.clk.ref = 1) → Leads (exec (.clockFailure c) s) fun t => FellToTwo 4 s t ∧ t.clk.ircOk = false)) ∧
  (∀ (s : State), s.alive = true → ∀ c ∈ [ClockFail.lfoStopped, .lfoFreq],
    (s.clk.lfoFail = true → exec (.clockFailure c) s = .next s) ∧
    (s.clk.lfoFail = false → Leads (exec (.clockFailure c) s) fun t => SameBut [.irq, .ring, .trip, .clk] s t ∧ t.clk = { s.clk with lfoFail := true })) ∧
  (∀ (s : State), (s.alive = true → s.sys.st = .boot → s.clk.ircOk = true → s.refEn = true → s.clk.refStable = false → s.clk.level = 0 → s.clk.sysLock = false →
      Leads (exec .refclkAbsent s) fun t => t.clk = { s.clk with level := 1, cause := 5, level1 := satInc 255 s.clk.level1, ref := 1 } ∧ t.sys.st = .boot ∧ t.pwr.bootStep = s.pwr.bootStep.max 6 ∧ t.sys.nme = setBit s.sys.nme 1) ∧
    (s.alive = false ∨ s.sys.st ≠ .boot ∨ s.clk.ircOk = false ∨ s.refEn = false ∨ s.clk.refStable = true ∨ s.clk.level ≠ 0 ∨ s.clk.sysLock = true → exec .refclkAbsent s = .next s))

/-- Back from a fallback: the relock of the SYS PLL and the CONV PLL, the judging of the oscillators and of REFCLK, the returns to level 0, the end of the level 2 cause, and the stop of PLLs in hold (R26, R352, R408, R409, R410, R415, R416, R417, R418, R419). -/
def Obligations.ClockRecovery : Prop :=
  (∀ (s : State), (s.clk.level = 1 → s.clk.sysSrc = 1 → s.clk.ircOk = true → Leads (exec .sysPllRelock s) fun t => t.clk = { s.clk with sysSrc := 0, sysLock := true, lastRaise := t.clk.lastRaise, railHigh := t.clk.railHigh, ramping := t.clk.ramping, settled := t.clk.settled, raises := t.clk.raises } ∧ t.sys.st = s.sys.st ∧
      t.pe.att = s.pe.att.map (fun a => if a.st = .discarded then { a with st := .running } else a)) ∧
    (s.clk.level ≠ 1 ∨ s.clk.sysSrc ≠ 1 ∨ s.clk.ircOk = false → exec .sysPllRelock s = .next s)) ∧
  (∀ (s : State), (s.alive = false ∨ s.clk.ircOk = false ∨ (s.clk.level = 1 ∧ s.clk.convHold = false) ∨ s.clk.level = 0 ∨ (s.clk.level = 2 ∧ s.clk.sysSrc ≠ 1) → exec .convPllLock s = .next s) ∧
    (s.alive = true → s.clk.ircOk = true → s.clk.level = 1 → s.clk.convHold = true →
      let held := { s.clk with convLock := true, convHold := false, laneLock := s.clk.laneLock || s.clk.laneHold, laneHold := false }
      (s.refEn = true ∨ s.clk.sysLock = false → exec .convPllLock s = .next { s with clk := held }) ∧
      (s.refEn = false → s.clk.sysLock = true → Leads (exec .convPllLock s) fun t => SameBut [.irq, .ring, .trip, .clk] s t ∧ t.clk = { held with level := 0, ref := 1, refOk := false })) ∧
    (s.alive = true → s.clk.ircOk = true → s.clk.level = 2 → s.clk.sysSrc = 1 → Leads (exec .convPllLock s) fun t => SameBut [.clk, .flt] s t ∧
      t.clk.sysLock = true ∧ t.clk.convLock = true ∧ t.clk.laneLock = true ∧ t.clk.convHold = false ∧ t.clk.laneHold = false ∧ t.clk.sysSrc = 0 ∧
      (s.refEn = true → s.clk.refStable = true → t.clk.level = 0 ∧ t.clk.ref = 0) ∧ (s.refEn = true → s.clk.refStable = false → t.clk.level = 1 ∧ t.clk.ref = 1) ∧ (s.refEn = false → t.clk.level = 0 ∧ t.clk.ref = 1) ∧
      t.flt.ch = s.flt.ch.map (fun x => { x with nowB := x.nowB.max 6, left := x.left0.max (invalidCount s.flt.eff (x.nowB.max 6)), blank := x.blank.max 6 }))) ∧
  (∀ (s : State), (s.alive = true → s.clk.level = 2 → s.clk.ircOk = false → exec .ircRestart s = .next { s with clk := { s.clk with ircTries := s.clk.ircTries + 1 } }) ∧
    (s.alive = false ∨ s.clk.level ≠ 2 ∨ s.clk.ircOk = true → exec .ircRestart s = .next s)) ∧
  (∀ (s : State), (s.alive = true → s.clk.ircOk = false → exec .ircStable s = .next { s with clk := { s.clk with ircOk := true, ircTries := 0, sysSrc := if s.clk.level = 2 then 1 else s.clk.sysSrc }, pwr := if s.sys.st = .boot then { s.pwr with bootStep := s.pwr.bootStep.max 5 } else s.pwr }) ∧
    (s.alive = false ∨ s.clk.ircOk = true → exec .ircStable s = .next s)) ∧
  (∀ (f : Nat) (s : State), (∀ p ∈ [(10, 1), (20, 2), (25, 3)], s.alive = true → s.clk.ircOk = true → 95 * p.1 ≤ 100 * f → 100 * f ≤ 105 * p.1 →
      exec (.refclkStable f) s = .next { s with clk := { s.clk with refStable := true, freq := p.2 }, pwr := if s.sys.st = .boot then { s.pwr with bootStep := s.pwr.bootStep.max 6 } else s.pwr }) ∧
    (s.alive = false ∨ s.clk.ircOk = false ∨ (∀ n ∈ [10, 20, 25], 100 * f < 95 * n ∨ 105 * n < 100 * f) → exec (.refclkStable f) s = .next s)) ∧
  (∀ (s : State), (s.alive = true → s.refEn = true → s.clk.refStable = true → s.clk.ref = 1 → s.clk.level ≤ 1 → s.clk.sysLock = true → s.clk.convLock = true →
      (s.clk.level = 0 → exec .refOk s = .next { s with clk := { s.clk with level := 0, ref := 0, refOk := true } }) ∧
      (s.clk.level = 1 → s.autoReturn = false → exec .refOk s = .next { s with clk := { s.clk with refOk := true } }) ∧
      (s.clk.level = 1 → s.autoReturn = true → Leads (exec .refOk s) fun t => SameBut [.irq, .ring, .trip, .clk] s t ∧ t.clk = { s.clk with level := 0, ref := 0, refOk := true })) ∧
    (s.alive = false ∨ s.refEn = false ∨ s.clk.refStable = false ∨ s.clk.ref ≠ 1 ∨ 1 < s.clk.level ∨ s.clk.sysLock = false ∨ s.clk.convLock = false → exec .refOk s = .next s)) ∧
  (∀ (cls : KeyClass) (v : Word) (s : State), s.mayWrite cls 0x0800 →
    ∀ p ∈ [(Instr.refEnWrite cls v, v), (.refReturn cls, s.reg 0x0800 ||| 4)],
    (bitAt p.2 2 = true → s.refGood = false → exec p.1 s = .next s) ∧
    (bitAt p.2 2 = false ∨ s.refGood = true → Leads (exec p.1 s) fun t => SameBut [.irq, .ring, .trip, .clk, .regs, .nv, .dm] s t ∧ t.reg 0x0800 = p.2 &&& 3#32 ∧
      (bitAt p.2 0 = true → bitAt p.2 2 = true → s.clk.level = 1 → t.clk = { s.clk with level := 0, ref := 0, refOk := true }) ∧
      (bitAt p.2 0 = true → bitAt p.2 2 = false ∨ s.clk.level ≠ 1 → t.clk = s.clk) ∧
      (bitAt p.2 0 = false → s.clk.level = 0 → s.clk.ref = 0 → s.clk.ircOk = true → t.clk = { s.clk with ref := 1, refOk := false }) ∧
      (bitAt p.2 0 = false → s.clk.level = 1 → s.clk.sysLock = true → s.clk.convLock = true → t.clk = { s.clk with level := 0, ref := 1, refOk := false }) ∧
      (bitAt p.2 0 = false → s.clk.level = 1 → s.clk.sysLock = false ∨ s.clk.convLock = false → t.clk = s.clk) ∧
      (bitAt p.2 0 = false → s.clk.level = 2 → t.clk = s.clk))) ∧
  (∀ (s : State), (4 ∈ s.sys.causes → s.clk.level ≠ 2 → s.wordsValid = true ∨ (s.sys.st = .boot ∧ s.flt.running = false) → Leads (exec .level2RecoveryValid s) fun t => t.sys.causes = s.sys.causes.filter (fun x => x ≠ 4) ∧ t.clk = s.clk ∧
      (s.sys.st ≠ .failsafe ∨ (∃ c ∈ s.sys.causes, c ≠ 4) ∨ s.sys.shutting = true → t.sys.st = s.sys.st) ∧
      (s.sys.st = .failsafe → (∀ c ∈ s.sys.causes, c = 4) → s.sys.shutting = false →
        (s.sys.failFrom = .inService → s.hinged = false → t.sys.st = .inService) ∧ (s.sys.failFrom = .inService → s.hinged = true → t.sys.st = .failsafe) ∧ (s.sys.failFrom = .blocked ∨ s.sys.failFrom = .test → t.sys.st = .blocked))) ∧
    (4 ∉ s.sys.causes ∨ s.clk.level = 2 ∨ (s.wordsValid = false ∧ (s.sys.st ≠ .boot ∨ s.flt.running = true)) → exec .level2RecoveryValid s = .next s)) ∧
  (∀ (s : State), (s.clk.level = 2 → s.clk.convHold = true ∨ s.clk.laneHold = true → Leads (exec .pllHoldStop s) fun t => t.clk.convHold = false ∧ t.clk.laneHold = false ∧ ∀ p, p < 2 → p < s.chn.ports.length → (t.port p).st = .down) ∧
    (s.clk.level ≠ 2 ∨ (s.clk.convHold = false ∧ s.clk.laneHold = false) → exec .pllHoldStop s = .next s))

/-- Trimming, the measurement counter, the operating point and the gates: one step per trim while the IRC is the reference, a count of one gate, the engine clock up only over a settled rail with the engines asleep and down only when R425 allows it, a leaf that goes off after its work and a group only after both its leaves (R17, R411, R414, R422, R423, R424, R425, R426, R428, R429). -/
def Obligations.TrimsGatesAndOperatingPoint : Prop :=
  (∀ (s : State), (s.clk.lfoFail = true → s.clk.ircOk = true → exec .lfoStable s = .next { s with clk := { s.clk with lfoFail := false } }) ∧ (s.clk.lfoFail = false ∨ s.clk.ircOk = false → exec .lfoStable s = .next s)) ∧
  (∀ (i l : Nat) (s : State), (s.alive = false ∨ s.trimSrc = 0 ∨ s.clk.ircOk = false → exec (.trim i l) s = .next s) ∧
    (s.alive = true → s.trimSrc ≠ 0 → s.clk.ircOk = true → Leads (exec (.trim i l) s) fun t => SameBut [.irq, .ring, .trip, .clk, .pwr] s t ∧
      (s.clk.ref ≠ 1 → t.clk.ircCode = min i 200) ∧ (s.clk.ref = 1 → t.clk.ircCode = (if s.clk.ircCode < min i 200 then s.clk.ircCode + 1 else if min i 200 < s.clk.ircCode then s.clk.ircCode - 1 else s.clk.ircCode)) ∧
      (s.clk.lfoFail = false → t.clk.lfoCode = min l 3000 ∧ t.clk.lfoTrimmed = true ∧ t.pwr = { s.pwr with untrimmed := false }) ∧
      (s.clk.lfoFail = true → t.clk.lfoCode = s.clk.lfoCode ∧ t.clk.lfoTrimmed = s.clk.lfoTrimmed ∧ t.pwr = s.pwr) ∧ t.clk.ircTrimmed = true ∧ t.clk.level = s.clk.level ∧ t.clk.cause = s.clk.cause)) ∧
  (∀ (cls : KeyClass) (v : Word) (s : State), s.mayWrite cls 0x0820 → (6 ≤ bitsOf v 2 0 → exec (.measurementGo cls v) s = .next s) ∧
    (bitsOf v 2 0 < 6 → Leads (exec (.measurementGo cls v) s) fun t => SameBut [.regs, .clk] s t ∧ t.reg 0x0820 = v &&& 0xF#32 ∧
      t.clk = if s.clk.measBusy then s.clk else { s.clk with measBusy := true, measDone := false, measUnlocked := false })) ∧
  (∀ (n : Nat) (s : State), (s.clk.measBusy = true → exec (.measurementDone n) s = .next { s with clk := { s.clk with measBusy := false, measDone := true, measCnt := n % 2 ^ 32 } }) ∧ (s.clk.measBusy = false → exec (.measurementDone n) s = .next s)) ∧
  (∀ (s : State), (s.clk.ramping = true → exec .railSettled s = .next { s with clk := { s.clk with ramping := false, settled := true } }) ∧ (s.clk.ramping = false → exec .railSettled s = .next s)) ∧
  (∀ (s : State), (s.clk.railHigh = true → s.clk.settled = true → s.clk.op = false → s.asleep = true → s.clk.sysLock = true → s.clk.sysSrc = 0 → exec .engineFrequencyChange s = .next { s with clk := { s.clk with op := true } }) ∧
    (s.clk.railHigh = false ∨ s.clk.settled = false ∨ s.clk.op = true ∨ s.asleep = false ∨ s.clk.sysLock = false ∨ s.clk.sysSrc ≠ 0 → exec .engineFrequencyChange s = .next s)) ∧
  (∀ (s : State), let lower := exec .opLower s = .next { s with clk := { s.clk with op := false, railHigh := false, ramping := true, settled := false } }
    (s.clk.railHigh = true → s.asleep = true → s.opPin = 1 → lower) ∧
    (s.clk.railHigh = true → s.asleep = true → s.opPin ≠ 2 → (∀ e ∈ s.pe.els, e.started = false ∧ e.operate = false) → (∀ c ∈ s.fst.cmp, c.asserted = false) → s.ldg.ring = [] → s.clk.lastRaise + 2000000 ≤ s.pwr.ot → lower) ∧
    (s.clk.railHigh = false ∨ s.asleep = false ∨ s.opPin = 2 ∨ (s.opPin ≠ 1 ∧ ((∃ e ∈ s.pe.els, e.started = true ∨ e.operate = true) ∨ (∃ c ∈ s.fst.cmp, c.asserted = true) ∨ s.ldg.ring ≠ [] ∨ s.pwr.ot < s.clk.lastRaise + 2000000)) → exec .opLower s = .next s)) ∧
  (∀ (cls : KeyClass) (v : Word) (s : State), s.mayWrite cls 0x0814 → ∀ i ∈ [Instr.leafOffRequest cls v, .leafRestart cls v, .groupOffRequest cls v],
    (bitAt v 2 = true → s.leafRuns 0 = true ∨ s.leafRuns 1 = true → exec i s = .next { s with clk := { s.clk with cgRefused := 4 } }) ∧
    (bitAt v 2 = false ∨ (s.leafRuns 0 = false ∧ s.leafRuns 1 = false) → bitAt v 5 = true → s.leafRuns 2 = true ∨ s.leafRuns 3 = true → exec i s = .next { s with clk := { s.clk with cgRefused := 5 } }) ∧
    (bitAt v 2 = false ∨ (s.leafRuns 0 = false ∧ s.leafRuns 1 = false) → bitAt v 5 = false ∨ (s.leafRuns 2 = false ∧ s.leafRuns 3 = false) → Leads (exec i s) fun t => SameBut [.regs, .clk] s t ∧ t.reg 0x0814 = v &&& 0x7F#32 ∧
      t.clk.cgRefused = s.clk.cgRefused ∧
      ∀ p ∈ [(0, 0, bitAt v 2), (1, 1, bitAt v 2), (2, 3, bitAt v 5), (3, 4, bitAt v 5), (4, 6, false)],
        (s.leafRuns p.1 = true → t.leafRuns p.1 = true) ∧ (s.leafRuns p.1 = false → t.leafRuns p.1 = (!bitAt v p.2.1 && !p.2.2)))) ∧
  (∀ (n b : Nat) (s : State), (n, b) ∈ [(0, 0), (1, 1), (2, 3), (3, 4), (4, 6)] → n < s.clk.leaf.length →
    (s.leafRuns n = false ∨ bitAt (s.reg 0x0814) b = false → exec (.leafGated n) s = .next s) ∧
    (s.leafRuns n = true → bitAt (s.reg 0x0814) b = true → Leads (exec (.leafGated n) s) fun t => t.leafRuns n = false ∧ (∀ k, k ≠ n → t.leafRuns k = s.leafRuns k) ∧
      (n < 2 → n < s.chn.ports.length → (t.port n).st = .down) ∧ (n = 2 ∨ n = 3 → n - 2 < s.svc.mac.length → (nth t.svc.mac (n - 2)).link = false) ∧ (n = 4 → SameBut [.clk] s t))) ∧
  (∀ (n : Nat) (s : State), 5 ≤ n → exec (.leafGated n) s = .next s)

/-- Resets: RESET_N holds the module in reset until it rises and waits for a running commit; a rail fault resets except that of the always-on rail, which is a power-on reset; a host reset is refused while a trip output is asserted and waits for its flush; an HC restart ends the jobs and touches nothing else (R435, R439, R440, R445, R446, R447, R453, R455). -/
def Obligations.Resets : Prop :=
  (∀ (s : State), (s.sys.st = .off ∨ s.pwr.held = true → exec .resetNLow s = .next s) ∧
    (s.sys.st ≠ .off → s.pwr.held = false → s.pwr.pf = .flushing ∨ s.pwr.pf = .committing → exec .resetNLow s = .next { s with pwr := { s.pwr with resetWaits := true } }) ∧
    (s.sys.st ≠ .off → s.pwr.held = false → s.pwr.pf = .none ∨ s.pwr.pf = .committed → Leads (exec .resetNLow s) fun t => WasReset .boot 1 15 s t ∧ t.pwr.held = true ∧ t.pwr.bootStep = 3 ∧
      t.sys.bootFrom = if s.sys.st = .boot then s.sys.bootFrom else some (stCode s.sys.st))) ∧
  (∀ (s : State), exec .resetNRise s = .next { s with pwr := { s.pwr with held := false, resetWaits := false } }) ∧
  (∀ (r : Nat) (s : State), (s.sys.st = .off ∨ 9 ≤ r → exec (.railFault r) s = .next s) ∧
    (s.sys.st ≠ .off → r = 0 → Leads (exec (.railFault r) s) fun t => t.sys.st = .boot ∧ t.pwr = { pccCopies := s.pwr.pccCopies, blocks := s.pwr.blocks, newest := s.pwr.newest } ∧ t.clk = {} ∧ t.regs = [] ∧ t.host = {} ∧ t.job = {} ∧
      t.ldg.first = s.ldg.first ∧ t.ldg.circ = s.ldg.circ ∧ t.nv.ovr = s.nv.ovr ∧ t.dm.map = s.dm.map ∧ t.mram = s.mram) ∧
    (s.sys.st ≠ .off → 1 ≤ r → r < 9 → s.sys.st = .dormant ∨ s.pwr.held = true → exec (.railFault r) s = .next s) ∧
    (s.sys.st ≠ .off → 1 ≤ r → r < 9 → s.sys.st ≠ .dormant → s.pwr.held = false → Leads (exec (.railFault r) s) fun t => WasReset .boot 2 r s t ∧ t.pwr.bootStep = 3)) ∧
  (∀ (cls : KeyClass) (s : State), s.mayWrite cls 0x0418 → (s.tripAsserted = true → exec (.hostReset cls) s = .next s) ∧
    (s.tripAsserted = false → exec (.hostReset cls) s = .next { s with pwr := { s.pwr with hostReset := true } })) ∧
  (∀ (s : State), (s.pwr.hostReset = false ∨ s.alive = false ∨ s.pwr.pf = .flushing ∨ s.pwr.pf = .committing → exec .hostResetEffect s = .next s) ∧
    (s.pwr.hostReset = true → s.alive = true → s.pwr.pf = .none ∨ s.pwr.pf = .committed → Leads (exec .hostResetEffect s) fun t =>
      ∃ u, SameBut [.irq, .ring, .ledger, .trip, .dm, .mram, .pwr] s u ∧ (s.dm.mramFail = false → u.dm.mramFail = false → u.pwr.newest = 1 - s.pwr.newest) ∧ u.pwr.ot = s.pwr.ot ∧ WasReset .boot 3 15 u t)) ∧
  (∀ (s : State), (s.alive = false → exec .hcRestart s = .next s) ∧
    (s.alive = true → Leads (exec .hcRestart s) fun t => SameBut [.causes, .irq, .job, .ring, .cap, .trip, .dm, .afe, .flt, .pe, .sch, .mram, .pwr] s t ∧ t.job.out = [] ∧ t.job.next = 1 ∧ t.pwr = { s.pwr with hcRestarts := satInc 255 s.pwr.hcRestarts } ∧ t.cap.written = 0)) ∧
  (∀ (ot : Nat) (s : State), (s.alive = false ∨ s.pwr.pf ≠ .none ∨ ot < s.pwr.ot → exec (.counterBlockWrite ot) s = .next s) ∧
    (s.alive = true → s.pwr.pf = .none → s.pwr.ot ≤ ot → Leads (exec (.counterBlockWrite ot) s) fun t => SameBut [.pwr] s t ∧ t.pwr.ot = ot ∧
      (s.dm.mramFail = true → t.pwr = { s.pwr with ot := ot }) ∧
      (s.dm.mramFail = false → t.pwr = { s.pwr with ot := ot, newest := 1 - s.pwr.newest, blocks := s.pwr.blocks.set (1 - s.pwr.newest) (some { ot := ot, qual := s.otQual false, pcc := s.pwr.pcc, pos := s.ldg.circPos, nextSeq := s.ldg.nextSeq, capNum := s.cap.nextNum, mismatches := s.nv.mismatches, holds := s.nv.holds, corrections := s.nv.corrections, pf := false }) })))

/-- Feeds, the power-fail commit and the hold-up capacitor: a feed judged out of range, FAILSAFE cause 6 while both are, and the end of both judgements; the declaration and what it abandons, the flush, the counter block with pf, the return of a feed without a reset, and OFF once HOLD is spent (R363, R364, R436, R437, R438, R439, R440, R443, R444, R453). -/
def Obligations.FeedsAndPowerFail : Prop :=
  (∀ (f mv : Nat) (s : State), (s.sys.st = .off ∨ 2 ≤ f ∨ (nth s.pwr.feedOk f = false ∧ nth s.pwr.feedWasOut f = true) ∨ (5900 ≤ mv ∧ mv ≤ 40500) → exec (.feedOutOfRange f mv) s = .next s) ∧
    (s.sys.st ≠ .off → f < 2 → nth s.pwr.feedOk f = true ∨ nth s.pwr.feedWasOut f = false → mv < 5900 ∨ 40500 < mv →
      let p := { s.pwr with feedOk := s.pwr.feedOk.set f false, feedHigh := s.pwr.feedHigh.set f (decide (40500 < mv)), feedSup := s.pwr.feedSup.set f (decide (5500 ≤ mv) && !decide (40500 < mv)), feedWasOut := s.pwr.feedWasOut.set f true }
      let both := ∀ k, k < 2 → nth p.feedWasOut k = true ∧ nth p.feedOk k = false
      (s.sys.st = .dormant ∨ s.pwr.held = true → exec (.feedOutOfRange f mv) s = .next { s with pwr := p }) ∧
      (s.sys.st ≠ .dormant → s.pwr.held = false → Leads (exec (.feedOutOfRange f mv) s) fun t => t.pwr = p ∧ t.sys.st = s.sys.st ∧
        (¬ both ∨ s.pwr.pf ≠ .none → SameBut [.irq, .ring, .trip, .pwr] s t) ∧
        (both → s.pwr.pf = .none → 6 ∈ t.sys.causes ∧ SameBut [.causes, .irq, .ring, .trip, .fio, .hng, .pwr] s t)))) ∧
  (∀ (f mv : Nat) (s : State), (s.sys.st = .off ∨ 2 ≤ f ∨ nth s.pwr.feedOk f = true ∨ mv < 6100 ∨ 39500 < mv → exec (.feedInRange f mv) s = .next s) ∧
    (s.sys.st ≠ .off → f < 2 → nth s.pwr.feedOk f = false → 6100 ≤ mv → mv ≤ 39500 →
      let p := { s.pwr with feedOk := s.pwr.feedOk.set f true, feedHigh := s.pwr.feedHigh.set f false, feedSup := s.pwr.feedSup.set f true, feedWasOut := s.pwr.feedWasOut.set f (nth s.pwr.feedWasOut f && s.dark) }
      (s.sys.st = .dormant ∨ s.pwr.held = true → exec (.feedInRange f mv) s = .next { s with pwr := { p with pf := .none } }) ∧
      (s.sys.st ≠ .dormant → s.pwr.held = false → s.pwr.pf = .none → Leads (exec (.feedInRange f mv) s) fun t => SameBut [.causes, .irq, .ring, .trip, .pwr] s t ∧ t.pwr = p ∧ t.sys.causes = s.sys.causes.filter (fun x => x ≠ 6)) ∧
      (s.sys.st ≠ .dormant → s.pwr.held = false → s.pwr.pf = .committed → s.pwr.resetWaits = false → Leads (exec (.feedInRange f mv) s) fun t => SameBut [.causes, .irq, .ring, .trip, .pwr] s t ∧
        t.pwr = { p with pf := .none, charging := true, restored := true, resetWaits := false } ∧ t.sys.causes = s.sys.causes.filter (fun x => x ≠ 6) ∧ t.ldg.closed = false) ∧
      (s.sys.st ≠ .dormant → s.pwr.held = false → s.pwr.pf = .committing → s.pwr.resetWaits = false → s.clk.level ≠ 2 ∨ s.clk.ircOk = true → s.dm.mramFail = false → Leads (exec (.feedInRange f mv) s) fun t => SameBut [.causes, .irq, .ring, .trip, .pwr] s t ∧
        t.pwr.pf = .none ∧ t.pwr.charging = true ∧ t.pwr.restored = true ∧ t.pwr.newest = 1 - s.pwr.newest ∧ (∃ b : CounterBlock, b.pf = true ∧ b.ot = s.pwr.ot ∧ t.pwr.blocks = s.pwr.blocks.set (1 - s.pwr.newest) (some b)) ∧ t.ldg.closed = false))) ∧
  (∀ (mv : Nat) (s : State), (s.sys.st = .off ∨ s.pwr.pf ≠ .none → exec (.powerFailDeclared mv) s = .next s) ∧
    (s.sys.st = .dormant ∨ s.pwr.held = true → s.sys.st ≠ .off → s.pwr.pf = .none → exec (.powerFailDeclared mv) s = .next { s with pwr := { s.pwr with pf := .committed, feedSup := [false, false] } }) ∧
    (s.sys.st ≠ .off → s.sys.st ≠ .dormant → s.pwr.held = false → s.pwr.pf = .none → Leads (exec (.powerFailDeclared mv) s) fun t =>
      t.pwr.pf = .flushing ∧ t.pwr.holdMv = mv % 65536 ∧ t.pwr.charging = false ∧ t.pwr.feedSup = [false, false] ∧ t.sys.nme = setBit s.sys.nme 2 ∧ t.sys.st = s.sys.st ∧ t.sys.shutting = false ∧
      t.job.out = [] ∧ t.cap.waiting = [] ∧ t.cap.writing = false ∧ t.ldg.closed = true ∧ t.fio = s.fio ∧ t.fst = s.fst ∧ t.chn = s.chn ∧ t.svc = s.svc)) ∧
  (∀ (s : State), (s.pwr.pf ≠ .flushing ∨ (s.clk.level = 2 ∧ s.clk.ircOk = false) → exec .flushEnd s = .next s) ∧
    (s.pwr.pf = .flushing → s.clk.level ≠ 2 ∨ s.clk.ircOk = true → Leads (exec .flushEnd s) fun t => SameBut [.irq, .ring, .ledger, .trip, .dm, .mram, .pwr] s t ∧ t.pwr = { s.pwr with pf := .committing } ∧ (s.ldg.closed = true → t.ldg.ring = []) ∧ s.ldg.pfLost + s.ldg.ring.length ≤ t.ldg.pfLost)) ∧
  (∀ (s : State), (s.pwr.pf ≠ .committing ∨ (s.clk.level = 2 ∧ s.clk.ircOk = false) → exec .commitDone s = .next s) ∧
    (s.pwr.pf = .committing → s.clk.level ≠ 2 ∨ s.clk.ircOk = true → Leads (exec .commitDone s) fun t => ∃ u, SameBut [.pwr] s u ∧ u.pwr.pf = .committed ∧ u.pwr.resetWaits = false ∧ u.pwr.ot = s.pwr.ot ∧
      (s.dm.mramFail = false → u.pwr.newest = 1 - s.pwr.newest ∧ ∃ b : CounterBlock, b.pf = true ∧ b.ot = s.pwr.ot ∧ u.pwr.blocks = s.pwr.blocks.set (1 - s.pwr.newest) (some b)) ∧
      (s.pwr.resetWaits = false → t = u) ∧ (s.pwr.resetWaits = true → WasReset .boot 1 15 u t ∧ t.pwr.held = true))) ∧
  (∀ (mv : Nat) (s : State), (s.sys.st = .off ∨ s.pwr.pf = .none ∨ 5000 ≤ mv → exec (.holdSpent mv) s = .next s) ∧
    (s.sys.st ≠ .off → s.pwr.pf ≠ .none → mv < 5000 → Leads (exec (.holdSpent mv) s) fun t => t.sys.st = .off ∧ t.pwr = { pccCopies := s.pwr.pccCopies, blocks := s.pwr.blocks, newest := s.pwr.newest } ∧ t.clk = {} ∧ t.host = {} ∧ t.job = {} ∧ t.regs = [] ∧
      t.nv.ovr = s.nv.ovr ∧ t.ldg.circ = s.ldg.circ ∧ t.ldg.first = s.ldg.first ∧ t.dm.map = s.dm.map ∧ t.mram = s.mram)) ∧
  (∀ (d : Nat) (s : State), (s.pwr.charging = false ∨ s.pwr.holdReady = true ∨ s.alive = false → exec (.holdReady d) s = .next s) ∧
    (s.pwr.charging = true → s.pwr.holdReady = false → s.alive = true → Leads (exec (.holdReady d) s) fun t => SameBut [.irq, .ring, .trip, .pwr] s t ∧
      t.pwr = { s.pwr with holdReady := true, capUf := min 65535 ((4 * d + 5) / 10), tCharge := min 65535 d, holdSmall := decide ((4 * d + 5) / 10 < 198) })) ∧
  (∀ (k : HoldJudge) (s : State), (s.alive = true → s.pwr.pf = .none → s.holdBad k = true → Leads (exec (.holdFault k) s) fun t => SameBut [.irq, .ring, .trip, .pwr] s t ∧ t.pwr = { s.pwr with holdFault := true }) ∧
    (s.alive = false ∨ s.pwr.pf ≠ .none ∨ s.holdBad k = false → exec (.holdFault k) s = .next s)) ∧
  (∀ (mv ms : Nat) (s : State), s.pwr.charging = true → (s.holdBad (.short mv ms) = true ↔ s.pwr.holdReady = false ∧ mv < 1000 ∧ 10 ≤ ms) ∧ (s.holdBad (.openCap mv ms) = true ↔ s.pwr.holdReady = false ∧ mv < 16000 ∧ 500 ≤ ms) ∧
    (s.holdBad (.leakage mv ms) = true ↔ s.pwr.holdReady = true ∧ mv < 15000 ∧ 1 ≤ ms))

/-- The start-up up to the defect map: the first feed, the release of the power-on reset, the rails with the straps, PCC and OT, and the locks (R10, R388, R393, R408, R436, R441, R442, R448). -/
def Obligations.StartUpSupplies : Prop :=
  (∀ (f mv : Nat) (s : State), (s.sys.st ≠ .off ∨ 2 ≤ f ∨ mv < 6000 ∨ 40000 < mv → exec (.feedRise f mv) s = .next s) ∧
    (s.sys.st = .off → f < 2 → 6000 ≤ mv → mv ≤ 40000 → Leads (exec (.feedRise f mv) s) fun t => t.sys.st = .boot ∧ t.sys.bootFrom = some (stCode .off) ∧
      t.pwr = { pccCopies := s.pwr.pccCopies, blocks := s.pwr.blocks, newest := s.pwr.newest, bootStep := 1, feedSup := [false, false].set f true } ∧ t.clk = {} ∧ t.host = {} ∧ t.job = {} ∧ t.regs = [] ∧ t.mram = s.mram ∧
      t.ldg.circ = s.ldg.circ ∧ t.ldg.first = s.ldg.first ∧ t.dm.map = s.dm.map ∧ t.nv.ovr = s.nv.ovr)) ∧
  (∀ (s : State), (s.sys.st = .boot → s.host.up = false → s.pwr.held = false → s.pwr.bootStep < 2 → exec .powerOnResetRelease s = .next { s with pwr := { s.pwr with bootStep := 2 } }) ∧
    (s.sys.st ≠ .boot ∨ s.host.up = true ∨ s.pwr.held = true ∨ 2 ≤ s.pwr.bootStep → exec .powerOnResetRelease s = .next s)) ∧
  (∀ (b : BootIn) (s : State), (s.sys.st ≠ .boot ∨ s.host.up = true ∨ s.pwr.held = true ∨ s.pwr.bootStep < 2 → exec (.railsInRegulation b) s = .next s) ∧
    (s.sys.st = .boot → s.host.up = false → s.pwr.held = false → 2 ≤ s.pwr.bootStep → Leads (exec (.railsInRegulation b) s) fun t =>
      SameBut [.st, .irq, .host, .key, .ring, .ledger, .cap, .trip, .pwr, .nv, .afe, .aux, .sch, .regs] s t ∧ t.sys.st = .boot ∧ t.sys.bootFrom = none ∧ t.host = { s.host with up := true } ∧ t.key = { s.key with dbgEn := b.dbgEn } ∧ t.ldg.closed = decide (s.pwr.pf ≠ .none) ∧
      t.pwr.rootStrap = b.chainRoot ∧ t.pwr.charging = decide (s.pwr.pf = .none) ∧ t.pwr.pf = s.pwr.pf ∧ t.pwr.cause = s.pwr.cause ∧ t.pwr.bootStep = s.pwr.bootStep.max 4 ∧
      (∀ x y, s.pwr.pccCopies = [some x, some y] → b.pccFail = false → s.dm.mramFail = false → t.pwr.pcc = min 0xFFFFFFFF (x.max y + 1) ∧ t.pwr.pccCopies = s.pwr.pccCopies.set (if x ≤ y then 0 else 1) (some t.pwr.pcc)) ∧
      (b.pccFail = true → t.pwr.pcc = 1) ∧
      (s.pwr.cause ≠ 0 → t.pwr.ot = s.pwr.ot) ∧
      (s.pwr.cause = 0 → b.countersFail = false → s.dm.mramFail = false → ∀ k, s.pwr.blocks.getD s.pwr.newest none = some k → t.pwr.ot = k.ot % 2 ^ 56 ∧ t.pwr.resumed = !k.pf))) ∧
  (∀ (s : State), let ready := (s.clk.level = 2 ∧ s.clk.sysSrc = 1) ∨ s.clk.level = 1 ∨ (s.clk.level ≠ 2 ∧ (s.refEn = false ∨ s.clk.refStable = true))
    (s.alive = true → s.sys.st = .boot → s.clk.ircOk = true → s.clk.sysLock = false → ready → Leads (exec .pllsLocked s) fun t => SameBut [.clk, .pwr] s t ∧ t.pwr = { s.pwr with bootStep := s.pwr.bootStep.max 7 } ∧
      t.clk.sysLock = true ∧ t.clk.convLock = true ∧ t.clk.laneLock = true ∧ t.clk.sysSrc = 0 ∧ (s.clk.level ≠ 2 → t.clk.level = s.clk.level) ∧ (s.refEn = true → t.clk.level = 0 → t.clk.ref = 0) ∧ (s.refEn = false ∨ t.clk.level ≠ 0 → t.clk.ref = 1)) ∧
    (s.alive = false ∨ s.sys.st ≠ .boot ∨ s.clk.ircOk = false ∨ s.clk.sysLock = true ∨ ¬ ready → exec .pllsLocked s = .next s))

/-- DORMANT: the shutdown writes what waits and leaves only the always-on domain, a wake event that PWR_WAKE enables leads to BOOT and one during the shutdown waits for its end, a persistence wake writes a counter block, and a read of PWR_OT_LO latches the upper bits of OT (R34, R440, R450, R451, R452, R453, R455). -/
def Obligations.DormantAndWake : Prop :=
  (∀ (s : State), (s.sys.shutting = false ∨ s.pwr.pf ≠ .none ∨ (s.sys.st ≠ .blocked ∧ s.sys.st ≠ .failsafe) → exec .dormantEntry s = .next s) ∧
    (s.sys.shutting = true → s.pwr.pf = .none → s.sys.st = .blocked ∨ s.sys.st = .failsafe → Leads (exec .dormantEntry s) fun t =>
      ∃ u v, SameBut [.irq, .ring, .ledger, .cap, .trip, .dm, .nv, .pwr, .mram] s u ∧ u.pwr.ot = s.pwr.ot ∧ WasReset .dormant s.pwr.cause s.pwr.rail u v ∧ v.pwr.dormantOt = s.pwr.ot ∧ v.pwr.bootStep = 15 ∧ v.sys.lastCause = s.sys.lastCause ∧
        (s.pwr.wakeAfter = false → t = v) ∧ (s.pwr.wakeAfter = true → WasReset .boot 4 15 v t ∧ t.pwr.bootStep = 3))) ∧
  (∀ (ot : Nat) (s : State), (s.sys.st ≠ .dormant ∨ s.pwr.held = true ∨ s.pwr.pf ≠ .none ∨ ot < s.pwr.ot → exec (.persistenceWake ot) s = .next s) ∧
    (s.sys.st = .dormant → s.pwr.held = false → s.pwr.pf = .none → s.pwr.ot ≤ ot → Leads (exec (.persistenceWake ot) s) fun t => SameBut [.pwr] s t ∧ t.pwr.ot = ot ∧
      (s.dm.mramFail = false → t.pwr.newest = 1 - s.pwr.newest ∧ ∃ b : CounterBlock, t.pwr.blocks = s.pwr.blocks.set (1 - s.pwr.newest) (some b) ∧ b.pf = false ∧ b.ot = ot ∧ b.pcc = s.pwr.pcc))) ∧
  (∀ (s : State), (bitAt (s.reg 0x041C) 0 = false ∨ s.pwr.held = true ∨ (s.sys.st ≠ .dormant ∧ s.sys.shutting = false) → exec .wakePin s = .next s) ∧
    (bitAt (s.reg 0x041C) 0 = true → s.pwr.held = false → s.sys.st = .dormant → Leads (exec .wakePin s) fun t => WasReset .boot 4 15 s t ∧ t.pwr.bootStep = 3) ∧
    (bitAt (s.reg 0x041C) 0 = true → s.pwr.held = false → s.sys.st ≠ .dormant → s.sys.shutting = true → exec .wakePin s = .next { s with pwr := { s.pwr with wakeAfter := true } })) ∧
  (∀ (ot : Nat) (s : State), (s.sys.st ≠ .dormant ∨ ot < s.pwr.ot ∨ ot < s.pwr.dormantOt + 1000000 * bitsOf (s.reg 0x041C) 31 8 → exec (.wakeTimer ot) s = .next s) ∧
    (s.sys.st = .dormant → s.pwr.ot ≤ ot → s.pwr.dormantOt + 1000000 * bitsOf (s.reg 0x041C) 31 8 ≤ ot →
      (bitAt (s.reg 0x041C) 2 = true → s.pwr.held = false → Leads (exec (.wakeTimer ot) s) fun t => WasReset .boot 4 15 { s with pwr := { s.pwr with ot := ot } } t) ∧
      (bitAt (s.reg 0x041C) 2 = false ∨ s.pwr.held = true → exec (.wakeTimer ot) s = .next { s with pwr := { s.pwr with ot := ot } }))) ∧
  (∀ (f : Nat) (s : State), (2 ≤ f → exec (.feedWake f) s = .next s) ∧
    (f < 2 → s.sys.st = .dormant → s.pwr.held = false → nth s.pwr.feedWasOut f = false → exec (.feedWake f) s = .next s) ∧
    (f < 2 → s.sys.st = .dormant → s.pwr.held = false → nth s.pwr.feedWasOut f = true →
      let back := { s with pwr := { s.pwr with feedOk := s.pwr.feedOk.set f true, feedHigh := s.pwr.feedHigh.set f false, feedSup := s.pwr.feedSup.set f true } }
      (bitAt (s.reg 0x041C) 1 = true → Leads (exec (.feedWake f) s) fun t => WasReset .boot 4 15 back t ∧ t.pwr.bootStep = 3) ∧
      (bitAt (s.reg 0x041C) 1 = false → exec (.feedWake f) s = .next back)) ∧
    (f < 2 → s.sys.st ≠ .off → s.sys.st ≠ .dormant → s.pwr.held = false →
      (s.sys.shutting = true → bitAt (s.reg 0x041C) 1 = true → exec (.feedWake f) s = .next { s with pwr := { s.pwr with wakeAfter := true } }) ∧
      (s.sys.shutting = false ∨ bitAt (s.reg 0x041C) 1 = false → exec (.feedWake f) s = .next s))) ∧
  (∀ (cls : KeyClass) (s : State), s.mayRead cls 0x040C →
    exec (.pwrOtLoRead cls) s = .next { s with pwr := { s.pwr with otHi := pack [(0, 24, s.pwr.ot / 2 ^ 32), (24, 8, 2 * b2n s.pwr.resumed + 4 * b2n s.pwr.untrimmed)] } })

/-- The start-up from the defect map on: the map read or rebuilt and applied to the pairs, the short self-test, the choice of the scheme, the filter chain, BLOCKED with POWER_ON and the first entry into IN_SERVICE; a fault that no repair meets ends it in FAILSAFE with last_cause 0xC (R26, R41, R77, R233, R448, R449, R459). -/
def Obligations.StartUpTests : Prop :=
  (∀ (ok : Bool) (s : State), (s.alive = false ∨ s.sys.st ≠ .boot ∨ s.clk.sysLock = false ∨ s.pwr.mapRead = true → exec (.defectMapRead ok) s = .next s) ∧
    (s.alive = true → s.sys.st = .boot → s.clk.sysLock = true → s.pwr.mapRead = false →
      (ok = false ∨ s.dm.mramFail = true → Leads (exec (.defectMapRead ok) s) fun t => t.sys.st = .failsafe ∧ t.sys.lastCause = 12 ∧ 12 ∈ t.sys.causes ∧ t.pwr.bootStep = s.pwr.bootStep.max 8) ∧
      (ok = true → s.dm.mramFail = false → Leads (exec (.defectMapRead ok) s) fun t => t.sys.st = .boot ∧ t.pwr.mapRead = true ∧ t.pwr.bootStep = (s.pwr.bootStep.max 8).max 9 ∧
        (∀ p, p < 16 → t.role p = if t.pairGood p then .spare else .mappedOut) ∧
        (∀ k c, s.bestMap = some k → s.dm.copies.getD k none = some c → t.dm.map = c.map ∧ t.dm.copy = k) ∧
        (s.bestMap = none → t.dm.map = {} ∧ t.dm.rebuilt = true)))) ∧
  (∀ (x : SelfTestIn) (s : State), (s.alive = false ∨ s.sys.st ≠ .boot ∨ s.pwr.mapRead = false ∨ s.pwr.tested = true → exec (.shortSelfTestDone x) s = .next s) ∧
    (s.alive = true → s.sys.st = .boot → s.pwr.mapRead = true → s.pwr.tested = false → s.dm.map.pairs.length = 16 → s.dm.map.cores.length = 18 → Leads (exec (.shortSelfTestDone x) s) fun t =>
      (∀ p, p < 16 → t.pairGood p = (s.pairGood p && decide (p ∉ x.pairs))) ∧ (∀ c, c < 18 → t.coreGood c = (s.coreGood c && decide (c ∉ x.cores))) ∧ t.pwr.tested = true ∧ t.pwr.bootStep = s.pwr.bootStep.max 10 ∧
      (x.storeOk = true → (∃ p, p < 16 ∧ s.pairGood p = true ∧ p ∉ x.pairs) → t.sys.st = .boot) ∧
      (x.storeOk = false ∨ (∀ p, p < 16 → s.pairGood p = true → p ∈ x.pairs) → t.sys.st = .failsafe ∧ t.sys.lastCause = 12 ∧ 12 ∈ t.sys.causes))) ∧
  (∀ (l : List Nat) (s : State), (s.alive = false ∨ s.sys.st ≠ .boot ∨ s.pwr.tested = false ∨ s.sch.placed = true → exec (.slotSelection l) s = .next s) ∧
    (s.alive = true → s.sys.st = .boot → s.pwr.tested = true → s.sch.placed = false → Leads (exec (.slotSelection l) s) fun t => t.sys.st = .boot ∧ t.sch.placed = true ∧ t.pwr.bootStep = s.pwr.bootStep.max 12 ∧
      (s.hallSet 0 = false → s.hallSet 1 = false → t.sch.image = false ∧ t.sch.lost = false) ∧
      (s.hallSet 0 = true ∨ s.hallSet 1 = true → (∀ k, k < 2 → s.hallSet k = true → s.slotBad k ≠ none) → t.sch.image = false ∧ t.sch.lost = true) ∧
      (∀ k, k < 2 → s.hallSet k = true → s.slotBad k = none → s.hallSet (1 - k) = false → t.sch.image = true ∧ t.sch.slot = k ∧ t.sch.fallback = false ∧ t.sch.cfg = schemeOf (s.slotImage k)) ∧
      (s.hallSet 0 = true → s.hallSet 1 = true → s.slotBad 0 = none → s.slotBad 1 = none → ∀ k, k = (if field (s.mramGet (hallAt 0 + 4) 4) 0 4 < field (s.mramGet (hallAt 1 + 4) 4) 0 4 then 1 else 0) →
        t.sch.image = true ∧ t.sch.slot = k ∧ t.sch.fallback = false ∧ t.sch.cfg = schemeOf (s.slotImage k)))) ∧
  (∀ (s : State), (s.alive = true → s.sys.st = .boot → s.sch.placed = true → s.clk.convLock = true → s.flt.running = false → exec .afeReferenceSettled s = .next { s with pwr := { s.pwr with bootStep := s.pwr.bootStep.max 13 }, flt := { s.flt with running := true, ch := s.flt.ch.map (fun x => { x with nowB := x.nowB.max 6, left := x.left0.max (invalidCount s.flt.eff (x.nowB.max 6)), blank := x.blank.max 6 }) } }) ∧
    (s.alive = false ∨ s.sys.st ≠ .boot ∨ s.sch.placed = false ∨ s.clk.convLock = false ∨ s.flt.running = true → exec .afeReferenceSettled s = .next s)) ∧
  (∀ (s : State), (s.sys.st = .boot → s.wordsValid = true → Leads (exec .filterSettled s) fun t => t.sys.st = .blocked ∧ t.sys.lastCause = 2 ∧ t.pwr.toBlocked = s.bootMs ∧ t.pwr.bootStep = s.pwr.bootStep.max 14) ∧
    (s.sys.st ≠ .boot ∨ s.wordsValid = false → exec .filterSettled s = .next s)) ∧
  (∀ (s : State), let may := s.sys.st = .blocked ∧ s.sys.lastCause = 2 ∧ s.pwr.toService = 0 ∧ s.enabled = true ∧ s.hinged = false ∧ s.actSpan = false ∧ s.sys.shutting = false ∧ s.wordsValid = true ∧ ceilDiv s.fp s.sch.cfg.fn ≤ s.sys.ticks
    (may → Leads (exec .windowsValid s) fun t => t.sys.st = .inService ∧ t.sys.lastCause = 2) ∧ (¬ may → exec .windowsValid s = .next s))

/-- Self-repair of memory rows: the defect map written into the older copy, spare rows taken for state-store and MRAM rows in ascending order, and what a scrub counts and marks (R458, R463, R464). -/
def Obligations.RepairRows : Prop :=
  (∀ (s : State), (s.dm.dirty = false ∨ s.alive = false ∨ s.pwr.mapRead = false ∨ s.dm.mramFail = true → exec .defectMapWrite s = .next s) ∧
    (s.dm.dirty = true → s.alive = true → s.pwr.mapRead = true → s.dm.mramFail = false → s.dm.copies.length = 2 → s.dm.map.pairs.length = 16 → s.dm.map.cores.length = 18 → s.dm.map.lanes.length = 10 → s.dm.map.ssRows.length = 16 → s.dm.map.mramRows.length = 64 → Memory.wf s.mram = true →
      ∀ (k u : Nat), (match s.mapCount 0, s.mapCount 1 with
        | some a, some b => (k = if a ≤ b then 0 else 1) ∧ u = max a b + 1
        | some a, none => k = 1 ∧ u = a + 1
        | none, some b => k = 0 ∧ u = b + 1
        | none, none => k = 0 ∧ u = 1) →
      Leads (exec .defectMapWrite s) fun t => t.dm.dirty = false ∧ t.dm.copy = k ∧ t.dm.map = s.dm.map ∧ t.dm.copies = s.dm.copies.set k (some { update := u, pcc := s.pwr.pcc, ot := s.pwr.ot, map := s.dm.map }) ∧
        t.mramGet (mapBase k) 4 = b4 0x4D44585A ∧
        t.mramGet (mapBase k + 4) 4088 = mapBody u s.pwr.pcc (s.pwr.ot + s.otQual false * 2 ^ 56) s.dm.map ∧
        t.mramGet (mapBase k + 4092) 4 = b4 (crc32c (mapBody u s.pwr.pcc (s.pwr.ot + s.otQual false * 2 ^ 56) s.dm.map)) ∧
        ∀ y n, y + n ≤ mapBase k ∨ mapBase k + 4096 ≤ y → t.mramGet y n = s.mramGet y n)) ∧
  (∀ (row reason : Nat) (s : State),
    let may := s.alive = true ∧ s.pe.updDue = false ∧ row < 512 ∧ ((reason = 1 ∧ ∀ d ∈ s.dm.ssDue, d.2 = 1 → row ≤ d.1) ∨ (reason = 2 ∧ (row, 2) ∈ s.dm.ssDue ∧ ∀ d ∈ s.dm.ssDue, d.2 = 2 ∧ row ≤ d.1))
    (¬ may → exec (.ssRowSpared row reason) s = .next s) ∧
    (may → ∀ k, k < s.dm.map.ssRows.length → s.dm.map.ssRows.getD k none = none → (∀ j, j < k → s.dm.map.ssRows.getD j none ≠ none) →
      exec (.ssRowSpared row reason) s = .next ({ s with dm := { s.dm with map := { s.dm.map with ssRows := s.dm.map.ssRows.set k (some (row, reason)) }, dirty := true, ssDue := s.dm.ssDue.filter (fun x => x.1 ≠ row), ssLog := s.dm.ssLog.filter (fun e => e.1 / 256 ≠ row) } }.stage 0x0151 1 (b2 row ++ b1 reason))) ∧
    (may → (∀ r ∈ s.dm.map.ssRows, r ≠ none) → exec (.ssRowSpared row reason) s = .next (if s.dm.ssNoSpare then s else { s with dm := { s.dm with ssNoSpare := true } }.stage 0x0152 2 []))) ∧
  (∀ (l m : List Nat) (s : State), (s.alive = false ∨ s.asleep = false → exec (.ssScrub l m) s = .next s) ∧
    (s.alive = true → s.asleep = true → Leads (exec (.ssScrub l m) s) fun t => t.dm.map = s.dm.map ∧ t.nv.corrections = s.nv.corrections + l.length ∧ (s.dm.ssCorr ≤ 65535 → t.dm.ssCorr = min 65535 (s.dm.ssCorr + l.length)) ∧
      ((∃ r ∈ s.dm.map.ssRows, r = none) → (∀ w ∈ m, (w / 256, 1) ∈ t.dm.ssDue) ∧
        (∀ w, l = [w] → m = [] → (w / 256, 2) ∈ t.dm.ssDue ∨ (t.dm.ssDue = s.dm.ssDue ∧ ((w, s.pwr.ot, 1) ∈ t.dm.ssLog ∨ ∃ e ∈ s.dm.ssLog, e.1 = w ∧ e.2.2 < 7 ∧ (w, s.pwr.ot, e.2.2 + 1) ∈ t.dm.ssLog) ∧ ∀ e ∈ s.dm.ssLog, e.1 ≠ w → e.1 / 256 = w / 256 → e.2.1 + 86400000000 < s.pwr.ot))))) ∧
  (∀ (row : Nat) (b : Bool) (s : State),
    let may := s.alive = true ∧ s.dm.mramFail = false ∧ row < 16384 ∧ (b = true ∨ (row, 2) ∈ s.dm.mramDue)
    (¬ may → exec (.mramRowSpared row b) s = .next s) ∧
    (may → Leads (exec (.mramRowSpared row b) s) fun t => (∀ d ∈ t.dm.mramDue, d.1 ≠ row ∧ d ∈ s.dm.mramDue) ∧
      (∀ k, k < s.dm.map.mramRows.length → s.dm.map.mramRows.getD k none = none → (∀ j, j < k → s.dm.map.mramRows.getD j none ≠ none) → t.dm.map = { s.dm.map with mramRows := s.dm.map.mramRows.set k (some (row, if b then 1 else 2)) } ∧ t.dm.dirty = true) ∧
      ((∀ r ∈ s.dm.map.mramRows, r ≠ none) → t.dm.map = s.dm.map ∧ t.dm.mramNoSpare = true))) ∧
  (∀ (l m : List Nat) (s : State), (s.alive = false ∨ s.dm.mramFail = true → exec (.mramScrubStep l m) s = .next s) ∧
    (s.alive = true → s.dm.mramFail = false → Leads (exec (.mramScrubStep l m) s) fun t => t.dm.scrub = (s.dm.scrub + 1) % 16384 ∧ t.mram = s.mram ∧ t.dm.map = s.dm.map ∧
      (∀ o ∈ m, o < mramSize → o / 8 * 8 ∈ t.dm.mramBad ∧ (o / 1024, 1) ∈ t.dm.mramDue ∧ ∀ x n, x ≤ o → o < x + n → t.mramGood x n = false) ∧
      (∀ o, l = [o] → m = [] → o < mramSize → t.nv.corrections = s.nv.corrections + 1 ∧ o / 8 * 8 ∈ t.dm.mramSeen ∧ (o / 8 * 8 ∈ s.dm.mramSeen → (o / 1024, 2) ∈ t.dm.mramDue))))

/-- The loss of the tracking sources: when no source has qualified for 2 s, ft steps to fn, its history starts again and trk_lost sets; before that, and once it is set, TRACKING_LOST changes nothing (R130). -/
def Obligations.TrackingLoss : Prop :=
  ∀ s : State,
    (2 * s.fp ≤ s.trk.hold → s.trk.lost = false → exec .trackingLost s = .next { s with trk := { s.trk with ft := s.sch.cfg.fn, fm := [], lost := true, back := 0 } }) ∧
    (s.trk.hold < 2 * s.fp ∨ s.trk.lost = true → exec .trackingLost s = .next s)

/-- The recorder's steps where nothing is to be written and where the first area is full: with an empty ring, or an oldest entry that may not be written yet, LEDGER_WRITE changes nothing; the first record that no longer fits in the first area goes to the circulating area, closes the first area for good and stages FIRST_AREA_FULL. A token that returns to a full bucket changes nothing, one that returns with nothing pending fills the bucket by one, and one that returns with a count pending is spent on the summary of that count (R265, R274, R276, R277). -/
def Obligations.RecorderSteps : Prop :=
  (∀ s : State, s.ldg.ring = [] → exec .ledgerWrite s = .next s) ∧
  (∀ (s : State) (e : Entry) (r : List Entry), s.ldg.ring = e :: r →
    (s.canWrite e = false → exec .ledgerWrite s = .next s) ∧
    (s.canWrite e = true → s.ldg.ovLow = 0 → s.ldg.ovHigh = 0 → s.ldg.commissioned = true → s.ldg.firstFull = false → firstSize < s.ldg.firstPos + recLen e →
      Leads (exec .ledgerWrite s) fun t => t.ldg.firstFull = true ∧ t.ldg.first = s.ldg.first ∧ t.ldg.firstPos = s.ldg.firstPos ∧ t.ldg.nextSeq = seqNext s.ldg.nextSeq ∧
        t.ldg.circ.getLast? = some { off := circBase + (if s.ldg.circPos + recLen e ≤ circSize then s.ldg.circPos else 0), len := recLen e, seq := s.ldg.nextSeq } ∧
        (s.ldg.closed = false → r.length < 480 → ∃ x ∈ t.ldg.ring, x.code = 0x00E8 ∧ x.sev = 0 ∧ x.ot = s.pwr.ot))) ∧
  (∀ (code : Nat) (s : State), s.ldg.ovLow = 0 → s.ldg.ovHigh = 0 →
    ((s.bucket code).lacks = 0 → exec (.tokenReturn code) s = .next s) ∧
    ((s.bucket code).lacks ≠ 0 → (s.bucket code).pending = 0 → exec (.tokenReturn code) s = .next (s.setBucket code { s.bucket code with lacks := (s.bucket code).lacks - 1 })) ∧
    ((s.bucket code).lacks ≠ 0 → (s.bucket code).pending ≠ 0 → s.ldg.closed = false → s.ldg.ring.length < 480 → Leads (exec (.tokenReturn code) s) fun t =>
      SameBut [.irq, .ring, .trip] s t ∧ (t.bucket code).pending = 0 ∧ (t.bucket code).lacks = (s.bucket code).lacks ∧
      ∃ e ∈ t.ldg.ring, e.code = 0x00E0 ∧ e.sev = s.codeSev code ∧ e.ot = s.pwr.ot ∧
        e.body = b2 code ++ zeros 2 ++ b4 (s.bucket code).pending ++ b8 (s.bucket code).first ++ b8 (s.bucket code).last))

/-- One register written or read, and frames that carry no transaction. On a path that carries transactions, outside a power fail: a force is armed and disarmed, the set loads seconds and nanoseconds from its registers, PTP_CTL takes a legal value, the read of the seconds latches the time, a write of SYS_IRQ_MASK replaces the mask, the two status words clear the bits written as 1, a command byte that the path does not know is counted and answered with bad_command, and a frame that ends short is counted. Each leaves every other part of the state as it was (R8, R305, R323, R387, R388, R389, R390). -/
def Obligations.SingleWrites : Prop :=
  ∀ (cls : KeyClass) (s : State), s.pathUp cls = true → s.pwr.pf = PfStage.none →
    (s.sys.st ≠ .boot → s.grantsWrite cls 0x3828 →
      exec (.forceAcceptNext cls) s = .next { s with ptp := { s.ptp with armed := true } } ∧
      exec (.forceDisarm cls) s = .next { s with ptp := { s.ptp with armed := false } } ∧
      Leads (exec (.forceSet cls) s) fun t => SameBut [.irq, .key, .ring, .trip, .clk, .ptp, .svc] s t ∧
        t.ptp.sec = (s.reg 0x382C).toNat * 2 ^ 32 + (s.reg 0x3830).toNat ∧ t.ptp.ns = (s.reg 0x3834).toNat ∧ t.ptp.frac = 0 ∧ t.ptp.set = true ∧ t.ptp.armed = false) ∧
    (s.sys.st ≠ .boot → s.grantsWrite cls 0x3800 → ∀ v : Word, bitsOf v 1 0 ≠ 3 → bitsOf v 3 2 ≠ 3 →
      Leads (exec (.ptpCtlWrite cls v) s) fun t => SameBut [.irq, .key, .ring, .trip, .clk, .nv, .ptp, .regs] s t ∧ t.reg 0x3800 = v &&& 0xFF3F#32) ∧
    (s.mayRead cls 0x380C → exec (.ptpTimeSecLoRead cls) s =
      .next { s with ptp := { s.ptp with latchHi := (wallAt s.ptp s.pwr.ot).1 / 2 ^ 32, latchNs := (wallAt s.ptp s.pwr.ot).2, latchFrac := s.ptp.frac } }) ∧
    (s.grantsWrite cls 0x0014 → ∀ v : Word, exec (.registerWrite cls 0x0014 v) s = .next (s.setReg 0x0014 (v &&& 0x3FFFF#32))) ∧
    (s.grantsWrite cls 0x0010 → ∀ v : Word, exec (.irqStatClear cls v) s = .next { s with sys := { s.sys with irq := s.sys.irq &&& ~~~v } }) ∧
    (s.grantsWrite cls 0x0018 → ∀ v : Word, exec (.nmeStatClear cls v) s = .next { s with sys := { s.sys with nme := s.sys.nme &&& ~~~v } }) ∧
    (∀ f : List Byte, f.length = 9 → reqCmd f ≠ 0x0B → reqCmd f ≠ 0x02 → (cls = .debug ∨ (reqCmd f ≠ 0xEB ∧ reqCmd f ≠ 0x32)) → reqCrcOk f = true →
      Leads (exec (.badCommand cls f) s) fun t => SameBut [.irq, .host, .ring, .trip] s t ∧
        t.host = { s.host with badCmd := if cls = .host then satInc 255 s.host.badCmd else s.host.badCmd, answer := some (cls, answerBytes (3 + 64 * b2n t.irqOut + 128 * b2n s.nmeOut) (reqAddr f) 0) }) ∧
    (∀ n : Nat, n < 9 → Leads (exec (.frameEndedShort cls n) s) fun t => SameBut [.irq, .host, .ring, .trip] s t ∧
      t.host = { s.host with frameErr := if cls = .host then satInc 255 s.host.frameErr else s.host.frameErr })
end

