-- ==== Sys2Proof/Laws/Keeps.lean ====
section
/-! SUPPORT. What it is for an operation to keep the invariant and to change only the parts it names, and how that carries over the ways operations are put together. -/

namespace Sys2Proof.Machine

set_option linter.all false

/-- What every operation of the model leaves: the queue and the parts it does not name, and the invariant of the stores. -/
def Keeps (l : List Part) (o s : State) : Prop := SameBut l o s ∧ (o.Inv → s.Inv)

/-- Every part of one list is in another. -/
def Within (a b : List Part) : Prop := a.all (fun p => b.contains p) = true

theorem Within.up {a b c : List Part} (g : Within b c) (h : Within a b) : Within a c := by
  simp only [Within, List.all_eq_true, List.contains_eq_mem, decide_eq_true_eq] at *
  exact fun p hp => g p (h p hp)

theorem Within.mem {a b : List Part} {p : Part} (h : Within a b) (hp : a.contains p = true) : p ∈ b := by
  simp only [Within, List.all_eq_true, List.contains_eq_mem, decide_eq_true_eq] at *
  exact h p hp

/-- A part that the list does not name is unchanged. -/
theorem Keeps.same {l : List Part} {o s : State} (h : Keeps l o s) {p : Part} (hp : p ∉ l) : Same o s p := h.1.2 p hp

theorem Keeps.refl (l : List Part) (s : State) : Keeps l s s := ⟨⟨rfl, fun p _ => by cases p <;> simp [Same]⟩, fun h => h⟩

theorem Keeps.setSt {l : List Part} {o s : State} {x} (hm : .st ∈ l) (h : Keeps l o s) (e : x = { s.sys with st := x.st, lastCause := x.lastCause, failFrom := x.failFrom, autoTick := x.autoTick, shutting := x.shutting, bootFrom := x.bootFrom }) : Keeps l o { s with sys := x } := by
  refine ⟨⟨h.1.1, fun p hp => ?_⟩, h.2⟩
  have g := h.1.2 p hp
  rw [e]
  cases p <;> first | exact g | exact absurd hm hp

theorem Keeps.setReq {l : List Part} {o s : State} {x} (hm : .req ∈ l) (h : Keeps l o s) (e : x = { s.sys with pend := x.pend, reqVal := x.reqVal, reqOt := x.reqOt, reqResult := x.reqResult }) : Keeps l o { s with sys := x } := by
  refine ⟨⟨h.1.1, fun p hp => ?_⟩, h.2⟩
  have g := h.1.2 p hp
  rw [e]
  cases p <;> first | exact g | exact absurd hm hp

theorem Keeps.setDue {l : List Part} {o s : State} {x} (hm : .due ∈ l) (h : Keeps l o s) (e : x = { s.sys with reqDue := x.reqDue, reqHold := x.reqHold, autoDue := x.autoDue }) : Keeps l o { s with sys := x } := by
  refine ⟨⟨h.1.1, fun p hp => ?_⟩, h.2⟩
  have g := h.1.2 p hp
  rw [e]
  cases p <;> first | exact g | exact absurd hm hp

theorem Keeps.setTicks {l : List Part} {o s : State} {x} (hm : .ticks ∈ l) (h : Keeps l o s) (e : x = { s.sys with ticks := x.ticks }) : Keeps l o { s with sys := x } := by
  refine ⟨⟨h.1.1, fun p hp => ?_⟩, h.2⟩
  have g := h.1.2 p hp
  rw [e]
  cases p <;> first | exact g | exact absurd hm hp

theorem Keeps.setCauses {l : List Part} {o s : State} {x} (hm : .causes ∈ l) (h : Keeps l o s) (e : x = { s.sys with causes := x.causes }) : Keeps l o { s with sys := x } := by
  refine ⟨⟨h.1.1, fun p hp => ?_⟩, h.2⟩
  have g := h.1.2 p hp
  rw [e]
  cases p <;> first | exact g | exact absurd hm hp

theorem Keeps.setHealth {l : List Part} {o s : State} {x} (hm : .health ∈ l) (h : Keeps l o s) (e : x = { s.sys with health := x.health }) : Keeps l o { s with sys := x } := by
  refine ⟨⟨h.1.1, fun p hp => ?_⟩, h.2⟩
  have g := h.1.2 p hp
  rw [e]
  cases p <;> first | exact g | exact absurd hm hp

theorem Keeps.setIrq {l : List Part} {o s : State} {x} (hm : .irq ∈ l) (h : Keeps l o s) (e : x = { s.sys with irq := x.irq }) : Keeps l o { s with sys := x } := by
  refine ⟨⟨h.1.1, fun p hp => ?_⟩, h.2⟩
  have g := h.1.2 p hp
  rw [e]
  cases p <;> first | exact g | exact absurd hm hp

theorem Keeps.setNme {l : List Part} {o s : State} {x} (hm : .nme ∈ l) (h : Keeps l o s) (e : x = { s.sys with nme := x.nme }) : Keeps l o { s with sys := x } := by
  refine ⟨⟨h.1.1, fun p hp => ?_⟩, h.2⟩
  have g := h.1.2 p hp
  rw [e]
  cases p <;> first | exact g | exact absurd hm hp

theorem Keeps.setHost {l : List Part} {o s : State} {x} (hm : .host ∈ l) (h : Keeps l o s) : Keeps l o { s with host := x } := by
  refine ⟨⟨h.1.1, fun p hp => ?_⟩, h.2⟩
  have g := h.1.2 p hp
  cases p <;> first | exact g | exact absurd hm hp

theorem Keeps.setKey {l : List Part} {o s : State} {x} (hm : .key ∈ l) (h : Keeps l o s) : Keeps l o { s with key := x } := by
  refine ⟨⟨h.1.1, fun p hp => ?_⟩, h.2⟩
  have g := h.1.2 p hp
  cases p <;> first | exact g | exact absurd hm hp

theorem Keeps.setCap {l : List Part} {o s : State} {x} (hm : .cap ∈ l) (h : Keeps l o s) (e : x = { s.cap with buf := x.buf, recording := x.recording, waiting := x.waiting, writing := x.writing, written := x.written, slots := x.slots, lost := x.lost, hostTrig := x.hostTrig, nextNum := x.nextNum, prev := x.prev, due := x.due, host := x.host }) : Keeps l o { s with cap := x } := by
  refine ⟨⟨h.1.1, fun p hp => ?_⟩, h.2⟩
  have g := h.1.2 p hp
  rw [e]
  cases p <;> first | exact g | exact absurd hm hp

theorem Keeps.setTrip {l : List Part} {o s : State} {x} (hm : .trip ∈ l) (h : Keeps l o s) (e : x = { s.cap with trip := x.trip }) : Keeps l o { s with cap := x } := by
  refine ⟨⟨h.1.1, fun p hp => ?_⟩, h.2⟩
  have g := h.1.2 p hp
  rw [e]
  cases p <;> first | exact g | exact absurd hm hp

theorem Keeps.setClk {l : List Part} {o s : State} {x} (hm : .clk ∈ l) (h : Keeps l o s) : Keeps l o { s with clk := x } := by
  refine ⟨⟨h.1.1, fun p hp => ?_⟩, h.2⟩
  have g := h.1.2 p hp
  cases p <;> first | exact g | exact absurd hm hp

theorem Keeps.setPwr {l : List Part} {o s : State} {x} (hm : .pwr ∈ l) (h : Keeps l o s) : Keeps l o { s with pwr := x } := by
  refine ⟨⟨h.1.1, fun p hp => ?_⟩, h.2⟩
  have g := h.1.2 p hp
  cases p <;> first | exact g | exact absurd hm hp

theorem Keeps.setDm {l : List Part} {o s : State} {x} (hm : .dm ∈ l) (h : Keeps l o s) : Keeps l o { s with dm := x } := by
  refine ⟨⟨h.1.1, fun p hp => ?_⟩, h.2⟩
  have g := h.1.2 p hp
  cases p <;> first | exact g | exact absurd hm hp

theorem Keeps.setNv {l : List Part} {o s : State} {x} (hm : .nv ∈ l) (h : Keeps l o s) : Keeps l o { s with nv := x } := by
  refine ⟨⟨h.1.1, fun p hp => ?_⟩, h.2⟩
  have g := h.1.2 p hp
  cases p <;> first | exact g | exact absurd hm hp

theorem Keeps.setAfe {l : List Part} {o s : State} {x} (hm : .afe ∈ l) (h : Keeps l o s) : Keeps l o { s with afe := x } := by
  refine ⟨⟨h.1.1, fun p hp => ?_⟩, h.2⟩
  have g := h.1.2 p hp
  cases p <;> first | exact g | exact absurd hm hp

theorem Keeps.setFlt {l : List Part} {o s : State} {x} (hm : .flt ∈ l) (h : Keeps l o s) : Keeps l o { s with flt := x } := by
  refine ⟨⟨h.1.1, fun p hp => ?_⟩, h.2⟩
  have g := h.1.2 p hp
  cases p <;> first | exact g | exact absurd hm hp

theorem Keeps.setAux {l : List Part} {o s : State} {x} (hm : .aux ∈ l) (h : Keeps l o s) : Keeps l o { s with aux := x } := by
  refine ⟨⟨h.1.1, fun p hp => ?_⟩, h.2⟩
  have g := h.1.2 p hp
  cases p <;> first | exact g | exact absurd hm hp

theorem Keeps.setPe {l : List Part} {o s : State} {x} (hm : .pe ∈ l) (h : Keeps l o s) : Keeps l o { s with pe := x } := by
  refine ⟨⟨h.1.1, fun p hp => ?_⟩, h.2⟩
  have g := h.1.2 p hp
  cases p <;> first | exact g | exact absurd hm hp

theorem Keeps.setTrk {l : List Part} {o s : State} {x} (hm : .trk ∈ l) (h : Keeps l o s) : Keeps l o { s with trk := x } := by
  refine ⟨⟨h.1.1, fun p hp => ?_⟩, h.2⟩
  have g := h.1.2 p hp
  cases p <;> first | exact g | exact absurd hm hp

theorem Keeps.setSch {l : List Part} {o s : State} {x} (hm : .sch ∈ l) (h : Keeps l o s) : Keeps l o { s with sch := x } := by
  refine ⟨⟨h.1.1, fun p hp => ?_⟩, h.2⟩
  have g := h.1.2 p hp
  cases p <;> first | exact g | exact absurd hm hp

theorem Keeps.setFst {l : List Part} {o s : State} {x} (hm : .fst ∈ l) (h : Keeps l o s) : Keeps l o { s with fst := x } := by
  refine ⟨⟨h.1.1, fun p hp => ?_⟩, h.2⟩
  have g := h.1.2 p hp
  cases p <;> first | exact g | exact absurd hm hp

theorem Keeps.setFio {l : List Part} {o s : State} {x} (hm : .fio ∈ l) (h : Keeps l o s) : Keeps l o { s with fio := x } := by
  refine ⟨⟨h.1.1, fun p hp => ?_⟩, h.2⟩
  have g := h.1.2 p hp
  cases p <;> first | exact g | exact absurd hm hp

theorem Keeps.setPtp {l : List Part} {o s : State} {x} (hm : .ptp ∈ l) (h : Keeps l o s) : Keeps l o { s with ptp := x } := by
  refine ⟨⟨h.1.1, fun p hp => ?_⟩, h.2⟩
  have g := h.1.2 p hp
  cases p <;> first | exact g | exact absurd hm hp

theorem Keeps.setSvc {l : List Part} {o s : State} {x} (hm : .svc ∈ l) (h : Keeps l o s) : Keeps l o { s with svc := x } := by
  refine ⟨⟨h.1.1, fun p hp => ?_⟩, h.2⟩
  have g := h.1.2 p hp
  cases p <;> first | exact g | exact absurd hm hp

theorem Keeps.setChn {l : List Part} {o s : State} {x} (hm : .chn ∈ l) (h : Keeps l o s) : Keeps l o { s with chn := x } := by
  refine ⟨⟨h.1.1, fun p hp => ?_⟩, h.2⟩
  have g := h.1.2 p hp
  cases p <;> first | exact g | exact absurd hm hp

theorem Keeps.setHng {l : List Part} {o s : State} {x} (hm : .hng ∈ l) (h : Keeps l o s) : Keeps l o { s with hng := x } := by
  refine ⟨⟨h.1.1, fun p hp => ?_⟩, h.2⟩
  have g := h.1.2 p hp
  cases p <;> first | exact g | exact absurd hm hp

theorem Keeps.setRegs {l : List Part} {o s : State} {x} (hm : .regs ∈ l) (h : Keeps l o s) : Keeps l o { s with regs := x } := by
  refine ⟨⟨h.1.1, fun p hp => ?_⟩, h.2⟩
  have g := h.1.2 p hp
  cases p <;> first | exact g | exact absurd hm hp

theorem Keeps.setDefer {l : List Part} {o s : State} {x} (hm : .defer ∈ l) (h : Keeps l o s) : Keeps l o { s with defer := x } := by
  refine ⟨⟨h.1.1, fun p hp => ?_⟩, h.2⟩
  have g := h.1.2 p hp
  cases p <;> first | exact g | exact absurd hm hp

theorem Keeps.setFree {l : List Part} {o s : State} {x} (hm : .free ∈ l) (h : Keeps l o s) : Keeps l o { s with free := x } := by
  refine ⟨⟨h.1.1, fun p hp => ?_⟩, h.2⟩
  have g := h.1.2 p hp
  cases p <;> first | exact g | exact absurd hm hp

theorem Keeps.setJob {l : List Part} {o s : State} {x : Jobs} (hm : .job ∈ l) (h : Keeps l o s) (hx : x.out.length ≤ s.job.out.length ∨ x.out.length ≤ 4) : Keeps l o { s with job := x } := by
  refine ⟨⟨h.1.1, fun p hp => ?_⟩, fun v => ⟨(h.2 v).1, ?_, (h.2 v).2.2⟩⟩
  · have g := h.1.2 p hp
    cases p <;> first | exact g | exact absurd hm hp
  · have g := (h.2 v).2.1
    show x.out.length ≤ 4
    omega

theorem Keeps.setLedger {l : List Part} {o s : State} {x : Ledger} (hm : .ledger ∈ l) (h : Keeps l o s) (e : x = { s.ldg with scanning := x.scanning, commissioned := x.commissioned, firstFull := x.firstFull, nextSeq := x.nextSeq, floor := x.floor, first := x.first, circ := x.circ, firstPos := x.firstPos, circPos := x.circPos, cursors := x.cursors }) : Keeps l o { s with ldg := x } := by
  have r : x.ring = s.ldg.ring := by rw [e]
  refine ⟨⟨h.1.1, fun p hp => ?_⟩, fun v => ⟨(h.2 v).1, (h.2 v).2.1, ?_, ?_⟩⟩
  · have g := h.1.2 p hp
    rw [e]
    cases p <;> first | exact g | exact absurd hm hp
  · show x.ring.length ≤ 512
    rw [r]
    exact (h.2 v).2.2.1
  · show x.ring.Pairwise _
    rw [r]
    exact (h.2 v).2.2.2

/-- The ring's part may change when what stays in the ring stood in it, in the same order. -/
theorem Keeps.setRing {l : List Part} {o s : State} {x : Ledger} (hm : .ring ∈ l) (h : Keeps l o s) (e : x = { s.ldg with ring := x.ring, ovLow := x.ovLow, ovHigh := x.ovHigh, lostLow := x.lostLow, lostHigh := x.lostHigh, closed := x.closed, pfLost := x.pfLost, lateLost := x.lateLost, buckets := x.buckets }) (hx : x.ring.Sublist s.ldg.ring) : Keeps l o { s with ldg := x } := by
  refine ⟨⟨h.1.1, fun p hp => ?_⟩, fun v => ⟨(h.2 v).1, (h.2 v).2.1, hx.length_le.trans (h.2 v).2.2.1, (h.2 v).2.2.2.sublist hx⟩⟩
  have g := h.1.2 p hp
  rw [e]
  cases p <;> first | exact g | exact absurd hm hp

theorem Keeps.setMram {l : List Part} {o s : State} {x : List Host.Cell} (hm : .mram ∈ l) (h : Keeps l o s) (hx : Memory.wf s.mram = true → Memory.wf x = true) : Keeps l o { s with mram := x } := by
  refine ⟨⟨h.1.1, fun p hp => ?_⟩, fun v => ⟨hx (h.2 v).1, (h.2 v).2⟩⟩
  have g := h.1.2 p hp
  cases p <;> first | exact g | exact absurd hm hp

theorem Keeps.ite {l : List Part} {o a b : State} {c : Prop} [Decidable c] (ha : c → Keeps l o a) (hb : ¬c → Keeps l o b) : Keeps l o (if c then a else b) := by
  split
  · exact ha ‹_›
  · exact hb ‹_›

theorem Keeps.opt {l : List Part} {o a b : State} {c : Prop} [Decidable c] (ha : Keeps l o a) (hb : Keeps l o b) : Keeps l o (if c then a else b) := by
  split
  · exact ha
  · exact hb

theorem Keeps.iteF {α : Type} {l : List Part} {o : State} {a b : State × α} {c : Prop} [Decidable c] (ha : c → Keeps l o a.1) (hb : ¬c → Keeps l o b.1) : Keeps l o (if c then a else b).1 := by
  split
  · exact ha ‹_›
  · exact hb ‹_›

theorem Keeps.iteS {α : Type} {l : List Part} {o : State} {a b : α × State} {c : Prop} [Decidable c] (ha : c → Keeps l o a.2) (hb : ¬c → Keeps l o b.2) : Keeps l o (if c then a else b).2 := by
  split
  · exact ha ‹_›
  · exact hb ‹_›

theorem Keeps.foldl {α : Type} {l : List Part} {o : State} {r : List α} {f : State → α → State} {s : State} (h : Keeps l o s) (hf : ∀ t a, Keeps l o t → Keeps l o (f t a)) : Keeps l o (r.foldl f s) := by
  induction r generalizing s with
  | nil => exact h
  | cons a t ih => exact ih (hf s a h)

/-- A value bound to a name, once it is known to keep what it must. -/
theorem Keeps.cut {l : List Part} {o x a : State} {p : Prop} (hx : x = a) (ha : Keeps l o a) (hp : Keeps l o x → p) : p := hp (hx ▸ ha)

theorem Keeps.cutP {α : Type} {l : List Part} {o : State} {x a : State × α} {p : Prop} (hx : x = a) (ha : Keeps l o a.1) (hp : Keeps l o x.1 → p) : p := hp (hx ▸ ha)
theorem Keeps.setAfeFlt {l : List Part} {o s : State} {x0 x1} (hx0 : .afe ∈ l) (hx1 : .flt ∈ l) (h : Keeps l o s) : Keeps l o { s with afe := x0, flt := x1 } :=
  Keeps.setFlt (s := { s with afe := x0 }) (x := x1) hx1 (Keeps.setAfe (x := x0) hx0 h)

theorem Keeps.setDmMram {l : List Part} {o s : State} {x0 x1} (hx0 : .dm ∈ l) (hx1 : .mram ∈ l) (h : Keeps l o s) (ex1 : Memory.wf s.mram = true → Memory.wf x1 = true) : Keeps l o { s with dm := x0, mram := x1 } :=
  Keeps.setMram (s := { s with dm := x0 }) (x := x1) hx1 (Keeps.setDm (x := x0) hx0 h) ex1

theorem Keeps.setHostKeyRing {l : List Part} {o s : State} {x0 x1 x2} (hx0 : .host ∈ l) (hx1 : .key ∈ l) (hx2 : .ring ∈ l) (h : Keeps l o s) (ex2 : x2 = { s.ldg with ring := x2.ring, ovLow := x2.ovLow, ovHigh := x2.ovHigh, lostLow := x2.lostLow, lostHigh := x2.lostHigh, closed := x2.closed, pfLost := x2.pfLost, lateLost := x2.lateLost, buckets := x2.buckets }) (kx2 : x2.ring.Sublist s.ldg.ring) : Keeps l o { s with host := x0, key := x1, ldg := x2 } :=
  Keeps.setRing (s := { s with host := x0, key := x1 }) (x := x2) hx2 (Keeps.setKey (s := { s with host := x0 }) (x := x1) hx1 (Keeps.setHost (x := x0) hx0 h)) ex2 kx2

theorem Keeps.setNvDefer {l : List Part} {o s : State} {x0 x1} (hx0 : .nv ∈ l) (hx1 : .defer ∈ l) (h : Keeps l o s) : Keeps l o { s with nv := x0, defer := x1 } :=
  Keeps.setDefer (s := { s with nv := x0 }) (x := x1) hx1 (Keeps.setNv (x := x0) hx0 h)

theorem Keeps.setNvRegs {l : List Part} {o s : State} {x0 x1} (hx0 : .nv ∈ l) (hx1 : .regs ∈ l) (h : Keeps l o s) : Keeps l o { s with nv := x0, regs := x1 } :=
  Keeps.setRegs (s := { s with nv := x0 }) (x := x1) hx1 (Keeps.setNv (x := x0) hx0 h)

theorem Keeps.setRingTrip {l : List Part} {o s : State} {x0 x1} (hx0 : .ring ∈ l) (hx1 : .trip ∈ l) (h : Keeps l o s) (ex0 : x0 = { s.ldg with ring := x0.ring, ovLow := x0.ovLow, ovHigh := x0.ovHigh, lostLow := x0.lostLow, lostHigh := x0.lostHigh, closed := x0.closed, pfLost := x0.pfLost, lateLost := x0.lateLost, buckets := x0.buckets }) (kx0 : x0.ring.Sublist s.ldg.ring) (ex1 : x1 = { s.cap with trip := x1.trip }) : Keeps l o { s with ldg := x0, cap := x1 } :=
  Keeps.setTrip (s := { s with ldg := x0 }) (x := x1) hx1 (Keeps.setRing (x := x0) hx0 h ex0 kx0) ex1

theorem Keeps.setStHng {l : List Part} {o s : State} {x0 x1} (hx0 : .st ∈ l) (hx1 : .hng ∈ l) (h : Keeps l o s) (ex0 : x0 = { s.sys with st := x0.st, lastCause := x0.lastCause, failFrom := x0.failFrom, autoTick := x0.autoTick, shutting := x0.shutting, bootFrom := x0.bootFrom }) : Keeps l o { s with sys := x0, hng := x1 } :=
  Keeps.setHng (s := { s with sys := x0 }) (x := x1) hx1 (Keeps.setSt (x := x0) hx0 h ex0)

theorem Keeps.setStPwrPe {l : List Part} {o s : State} {x0 x1 x2} (hx0 : .st ∈ l) (hx1 : .pwr ∈ l) (hx2 : .pe ∈ l) (h : Keeps l o s) (ex0 : x0 = { s.sys with st := x0.st, lastCause := x0.lastCause, failFrom := x0.failFrom, autoTick := x0.autoTick, shutting := x0.shutting, bootFrom := x0.bootFrom }) : Keeps l o { s with sys := x0, pwr := x1, pe := x2 } :=
  Keeps.setPe (s := { s with sys := x0, pwr := x1 }) (x := x2) hx2 (Keeps.setPwr (s := { s with sys := x0 }) (x := x1) hx1 (Keeps.setSt (x := x0) hx0 h ex0))

theorem Keeps.setTicksPwrPe {l : List Part} {o s : State} {x0 x1 x2} (hx0 : .ticks ∈ l) (hx1 : .pwr ∈ l) (hx2 : .pe ∈ l) (h : Keeps l o s) (ex0 : x0 = { s.sys with ticks := x0.ticks }) : Keeps l o { s with sys := x0, pwr := x1, pe := x2 } :=
  Keeps.setPe (s := { s with sys := x0, pwr := x1 }) (x := x2) hx2 (Keeps.setPwr (s := { s with sys := x0 }) (x := x1) hx1 (Keeps.setTicks (x := x0) hx0 h ex0))

end Sys2Proof.Machine
end

