-- ==== Sys2Proof/Laws/KeepsFrontEnd.lean ====
section
/-! SUPPORT. One lemma for each operation of the front end, the filter banks, the recorder and the operating point: the parts of the state it may change, and that it keeps the invariant of the stores. -/

namespace Sys2Proof.Machine

set_option linter.all false

/-! ### Ops -/

theorem memSorted_mono {k j : Nat} {m : List Host.Cell} (hk : k ≤ j) (hj : memSorted j m = true) : memSorted k m = true := by
  cases m with
  | nil => rfl
  | cons q t =>
    simp only [memSorted, Bool.and_eq_true, decide_eq_true_eq] at hj ⊢
    exact ⟨⟨⟨hk.trans hj.1.1.1, hj.1.1.2⟩, hj.1.2⟩, hj.2⟩

/-- Writing a byte keeps the canonical form. -/
theorem memSorted_write {m : List Host.Cell} {lo x : Nat} {v : Byte} (h : memSorted lo m = true) (hl : lo ≤ x) (hx : x < mramSize) : memSorted lo (memWrite m x v) = true := by
  induction m generalizing lo with
  | nil =>
    unfold memWrite
    split
    · rfl
    · simp [memSorted, *]
  | cons p r ih =>
    obtain ⟨a, b⟩ := p
    simp only [memSorted, Bool.and_eq_true, decide_eq_true_eq] at h
    obtain ⟨⟨⟨h1, h2⟩, h3⟩, h4⟩ := h
    unfold memWrite
    split
    · split
      · simp [memSorted, h1, h2, h3, h4]
      · have : x + 1 ≤ a := by omega
        simp [memSorted, *]
    · split
      · split
        · exact memSorted_mono (by omega) h4
        · simp [memSorted, *]
      · have : a + 1 ≤ x := by omega
        simp [memSorted, h1, h2, h3, ih h4 this]

/-- Writing bytes inside MRAM keeps the canonical form. -/
theorem memWf_bytes {m : List Host.Cell} {x : Nat} {l : List Byte} (h : Memory.wf m = true) (hl : x + l.length ≤ mramSize ∨ l = []) : Memory.wf (memWriteBytes m x l) = true := by
  induction l generalizing m x with
  | nil => exact h
  | cons b r ih =>
    have hx : x + (r.length + 1) ≤ mramSize := by simpa using hl
    exact ih (memSorted_write h (Nat.zero_le x) (by omega)) (Or.inl (by omega))

theorem keeps_mramPut {K : List Part} {o s : State} (off : Nat) (l : List Byte) (hM : Within [.dm, .mram] K) (h : Keeps K o s) : Keeps K o (s.mramPut off l) := by
  unfold State.mramPut
  split
  · exact h
  · refine Keeps.setDm (hM.mem rfl) (Keeps.setMram (hM.mem rfl) h (fun g => memWf_bytes g ?_))
    by_cases ho : off ≤ mramSize
    · left; rw [List.length_take]; omega
    · right; rw [show mramSize - off = 0 by omega]; rfl

theorem keeps_setReg {K : List Part} {o s : State} (key : Nat) (v : Word) (hM : Within [.regs] K) (h : Keeps K o s) : Keeps K o (s.setReg key v) := by
  unfold State.setReg
  repeat' first | with_reducible assumption | (with_reducible refine Keeps.setRegs (hM.mem rfl) ?_; with_reducible assumption)

theorem keeps_deferReg {K : List Part} {o s : State} (key : Nat) (v : Word) (hM : Within [.defer] K) (h : Keeps K o s) : Keeps K o (s.deferReg key v) := by
  unfold State.deferReg
  repeat' first | with_reducible assumption | (with_reducible refine Keeps.setDefer (hM.mem rfl) ?_; with_reducible assumption)

theorem keeps_store {K : List Part} {o s : State} (key : Nat) (v : Word) (hM : Within [.nv] K) (h : Keeps K o s) : Keeps K o (s.store key v) := by
  unfold State.store
  repeat' first | with_reducible assumption | intro _ | (with_reducible refine Keeps.setNv (hM.mem rfl) ?_; with_reducible assumption) | with_reducible apply Keeps.ite

theorem keeps_setStored {K : List Part} {o s : State} (key : Nat) (v : Word) (hM : Within [.nv, .regs] K) (h : Keeps K o s) : Keeps K o (s.setStored key v) := by
  unfold State.setStored
  repeat' first | with_reducible assumption | exact hM.up rfl | with_reducible apply keeps_store | with_reducible apply keeps_setReg

/-! ### Flags -/

theorem keeps_setIrq {K : List Part} {o s : State} (b : Nat) (hM : Within [.irq] K) (h : Keeps K o s) : Keeps K o (s.setIrq b) := by
  unfold State.setIrq
  repeat' first | with_reducible assumption | (with_reducible refine Keeps.setIrq (hM.mem rfl) ?_ rfl; with_reducible assumption)

theorem keeps_setNme {K : List Part} {o s : State} (b : Nat) (hM : Within [.nme] K) (h : Keeps K o s) : Keeps K o (s.setNme b) := by
  unfold State.setNme
  repeat' first | with_reducible assumption | (with_reducible refine Keeps.setNme (hM.mem rfl) ?_ rfl; with_reducible assumption)

theorem keeps_addCause {K : List Part} {o s : State} (c : Nat) (hM : Within [.causes] K) (h : Keeps K o s) : Keeps K o (s.addCause c) := by
  unfold State.addCause
  repeat' first | with_reducible assumption | (with_reducible refine Keeps.setCauses (hM.mem rfl) ?_ rfl; with_reducible assumption)

theorem keeps_dropCause {K : List Part} {o s : State} (c : Nat) (hM : Within [.causes] K) (h : Keeps K o s) : Keeps K o (s.dropCause c) := by
  unfold State.dropCause
  repeat' first | with_reducible assumption | intro _ | (with_reducible refine Keeps.setCauses (hM.mem rfl) ?_ rfl; with_reducible assumption) | with_reducible apply Keeps.ite

/-! ### Recorder -/

theorem keeps_setBucket {K : List Part} {o s : State} (code : Nat) (b : Bucket) (hM : Within [.ring] K) (h : Keeps K o s) : Keeps K o (s.setBucket code b) := by
  unfold State.setBucket
  repeat' first | with_reducible assumption | (with_reducible refine Keeps.setRing (hM.mem rfl) ?_ rfl (List.Sublist.refl _); with_reducible assumption)

theorem keeps_loseEntry {K : List Part} {o s : State} (sev n : Nat) (full : Bool) (hM : Within [.ring] K) (h : Keeps K o s) : Keeps K o (s.loseEntry sev n full) := by
  unfold State.loseEntry
  refine Keeps.setRing (hM.mem rfl) h ?_ ?_
  · split <;> split <;> try split
    all_goals rfl
  · split <;> split <;> try split
    all_goals exact List.Sublist.refl _

theorem ringInsert_perm (l : List Entry) (e : Entry) : (ringInsert l e).Perm (e :: l) := by
  induction l with
  | nil => exact List.Perm.refl _
  | cons a r ih =>
    unfold ringInsert
    split
    · exact List.Perm.refl _
    · exact (List.Perm.cons a ih).trans (List.Perm.swap e a r)

/-- A new entry keeps the ring in OT order (R273). -/
theorem ringInsert_ordered {l : List Entry} (e : Entry) (h : l.Pairwise (fun a b => a.ot ≤ b.ot)) : (ringInsert l e).Pairwise (fun a b => a.ot ≤ b.ot) := by
  induction l with
  | nil => simp [ringInsert]
  | cons a r ih =>
    obtain ⟨h1, h2⟩ := List.pairwise_cons.mp h
    unfold ringInsert
    split
    · refine List.pairwise_cons.mpr ⟨fun b hb => ?_, h⟩
      cases hb with
      | head => omega
      | tail _ hb => have := h1 b hb; omega
    · refine List.pairwise_cons.mpr ⟨fun b hb => ?_, ih h2⟩
      have := (ringInsert_perm r e).mem_iff.mp hb
      cases this with
      | head => omega
      | tail _ hb => exact h1 b hb

/-- The ring takes an entry while it has room for its severity. -/
theorem keeps_ring {K : List Part} {o s : State} (e : Entry) (hm : .ring ∈ K) (h : Keeps K o s) (hr : s.ldg.ring.length < ringRoom e.sev) : Keeps K o { s with ldg := { s.ldg with ring := ringInsert s.ldg.ring e } } := by
  refine ⟨⟨h.1.1, fun p hp => ?_⟩, fun v => ?_⟩
  · have g := h.1.2 p hp
    cases p <;> first | exact g | exact absurd hm hp
  · obtain ⟨g1, g2, _, g4⟩ := h.2 v
    refine ⟨g1, g2, ?_, ringInsert_ordered e g4⟩
    show (ringInsert s.ldg.ring e).length ≤ 512
    rw [(ringInsert_perm s.ldg.ring e).length_eq, List.length_cons]
    unfold ringRoom at hr
    split at hr <;> omega

theorem keeps_offer {K : List Part} {o s : State} (e : Entry) (hM : Within [.irq, .ring, .trip] K) (h : Keeps K o s) : Keeps K o (s.offer e) := by
  unfold State.offer
  split
  · exact keeps_loseEntry _ _ _ (hM := hM.up rfl) h
  · split
    · rename_i hr
      have k : ∀ c, Keeps K o { s with ldg := { s.ldg with ring := ringInsert s.ldg.ring e }, cap := { s.cap with trip := c } } :=
        fun c => Keeps.setTrip (hM.mem rfl) (keeps_ring e (hM.mem rfl) h hr) rfl
      split
      · exact Keeps.opt (keeps_setIrq _ (hM := hM.up rfl) (k _)) (k _)
      · exact Keeps.opt (keeps_setIrq _ (hM := hM.up rfl) (k s.cap.trip)) (k s.cap.trip)
    · exact keeps_loseEntry _ _ _ (hM := hM.up rfl) h

theorem keeps_overflow {K : List Part} {o s : State} (hM : Within [.irq, .ring, .trip] K) (h : Keeps K o s) : Keeps K o s.overflow := by
  unfold State.overflow
  repeat' first | with_reducible assumption | exact hM.up rfl | intro _ | (with_reducible refine Keeps.setRing (hM.mem rfl) ?_ rfl (List.Sublist.refl _); with_reducible assumption) | with_reducible apply keeps_offer | with_reducible apply Keeps.ite

theorem keeps_stageWith {K : List Part} {o s : State} (tick : Bool) (code sev : Nat) (body : List Byte) (hM : Within [.irq, .ring, .trip] K) (h : Keeps K o s) : Keeps K o (s.stageWith tick code sev body) := by
  unfold State.stageWith
  repeat' first | with_reducible assumption | intro _ | exact hM.up rfl | with_reducible apply keeps_overflow | with_reducible apply keeps_offer | with_reducible apply keeps_setBucket | with_reducible apply Keeps.ite

theorem keeps_stage {K : List Part} {o s : State} (code sev : Nat) (body : List Byte) (hM : Within [.irq, .ring, .trip] K) (h : Keeps K o s) : Keeps K o (s.stage code sev body) := by
  unfold State.stage
  repeat' first | with_reducible assumption | exact hM.up rfl | with_reducible apply keeps_stageWith

theorem keeps_stageTick {K : List Part} {o s : State} (code sev : Nat) (body : List Byte) (hM : Within [.irq, .ring, .trip] K) (h : Keeps K o s) : Keeps K o (s.stageTick code sev body) := by
  unfold State.stageTick
  repeat' first | with_reducible assumption | exact hM.up rfl | with_reducible apply keeps_stageWith

theorem keeps_summary {K : List Part} {o s : State} (code : Nat) (hM : Within [.irq, .ring, .trip] K) (h : Keeps K o s) : Keeps K o (s.summary code) := by
  unfold State.summary
  repeat' first | with_reducible assumption | exact hM.up rfl | with_reducible apply keeps_offer | with_reducible apply keeps_setBucket

theorem keeps_tokenReturn {K : List Part} {o s : State} (code : Nat) (hM : Within [.irq, .ring, .trip] K) (h : Keeps K o s) : Keeps K o (s.tokenReturn code) := by
  unfold State.tokenReturn
  repeat' first | with_reducible assumption | intro _ | exact hM.up rfl | with_reducible apply keeps_overflow | with_reducible apply keeps_summary | with_reducible apply keeps_setBucket | with_reducible apply Keeps.ite

theorem keeps_refillBuckets {K : List Part} {o s : State} (hM : Within [.irq, .ring, .trip] K) (h : Keeps K o s) : Keeps K o s.refillBuckets := by
  unfold State.refillBuckets
  repeat' first | with_reducible assumption | intro _ | exact hM.up rfl | with_reducible apply keeps_summary | with_reducible apply keeps_setBucket | with_reducible apply Keeps.ite | with_reducible apply Keeps.foldl

theorem keeps_invalidate {K : List Part} {o s : State} (r : RecIx) (hM : Within [.dm, .mram] K) (h : Keeps K o s) : Keeps K o (s.invalidate r) := by
  unfold State.invalidate
  repeat' first | with_reducible assumption | exact hM.up rfl | with_reducible apply keeps_mramPut

theorem keeps_overwrite {K : List Part} {o s : State} (off n : Nat) (hM : Within [.ledger, .dm, .mram] K) (h : Keeps K o s) : Keeps K o (s.overwrite off n) := by
  unfold State.overwrite
  repeat' first | with_reducible assumption | intro _ | exact hM.up rfl | (with_reducible refine Keeps.setLedger (hM.mem rfl) ?_ rfl; with_reducible assumption) | (extract_lets +onlyGivenNames x; clear_value (hx : x = _); refine Keeps.cut (l := K) (o := o) hx ?_ ?_) | (extract_lets +onlyGivenNames x; subst x) | with_reducible apply keeps_invalidate | with_reducible apply Keeps.foldl

theorem keeps_writeCirc {K : List Part} {o s : State} (e : Entry) (fl : Nat) (hM : Within [.ledger, .dm, .mram] K) (h : Keeps K o s) : Keeps K o (s.writeCirc e fl) := by
  unfold State.writeCirc
  repeat' first | with_reducible assumption | intro _ | exact hM.up rfl | (with_reducible refine Keeps.setLedger (hM.mem rfl) ?_ rfl; with_reducible assumption) | (extract_lets +onlyGivenNames x; clear_value (hx : x = _); refine Keeps.cut (l := K) (o := o) hx ?_ ?_) | (extract_lets +onlyGivenNames x; subst x) | with_reducible apply keeps_mramPut | with_reducible apply keeps_overwrite | with_reducible apply Keeps.ite

theorem keeps_writeFirst {K : List Part} {o s : State} (e : Entry) (fl : Nat) (hM : Within [.ledger, .dm, .mram] K) (h : Keeps K o s) : Keeps K o (s.writeFirst e fl) := by
  unfold State.writeFirst
  repeat' first | with_reducible assumption | intro _ | exact hM.up rfl | (with_reducible refine Keeps.setLedger (hM.mem rfl) ?_ rfl; with_reducible assumption) | (extract_lets +onlyGivenNames x; clear_value (hx : x = _); refine Keeps.cut (l := K) (o := o) hx ?_ ?_) | (extract_lets +onlyGivenNames x; subst x) | with_reducible apply keeps_mramPut

theorem keeps_writeRecord {K : List Part} {o s : State} (e : Entry) (pf : Bool) (hM : Within [.irq, .ring, .ledger, .trip, .dm, .mram] K) (h : Keeps K o s) : Keeps K o (s.writeRecord e pf) := by
  unfold State.writeRecord
  repeat' first | with_reducible assumption | intro _ | exact hM.up rfl | (with_reducible refine Keeps.setLedger (hM.mem rfl) ?_ rfl; with_reducible assumption) | (extract_lets +onlyGivenNames x; clear_value (hx : x = _); refine Keeps.cut (l := K) (o := o) hx ?_ ?_) | with_reducible apply keeps_writeFirst | with_reducible apply keeps_writeCirc | with_reducible apply keeps_stage | with_reducible apply Keeps.ite

theorem keeps_ledgerWrite {K : List Part} {o s : State} (hM : Within [.irq, .ring, .ledger, .trip, .dm, .mram] K) (h : Keeps K o s) : Keeps K o s.ledgerWrite := by
  unfold State.ledgerWrite
  split
  · exact h
  · rename_i e r hr
    split
    · exact keeps_overflow (hM := hM.up rfl) (keeps_writeRecord _ _ (hM := hM.up rfl)
        (Keeps.setRing (hM.mem rfl) h rfl (by rw [hr]; exact List.sublist_cons_self _ _)))
    · exact h

theorem keeps_flushRing {K : List Part} {o s : State} (hM : Within [.irq, .ring, .ledger, .trip, .dm, .mram] K) (h : Keeps K o s) : Keeps K o s.flushRing := by
  unfold State.flushRing
  exact Keeps.foldl (Keeps.setRing (hM.mem rfl) h rfl (List.nil_sublist _)) (fun t a ht => keeps_writeRecord a false (hM := hM.up rfl) ht)

theorem dropBefore_sublist (l : List Entry) : (dropBefore l).Sublist l := by
  induction l with
  | nil => exact List.Sublist.slnil
  | cons a r ih =>
    unfold dropBefore
    split
    · exact ih.cons a
    · exact ih.cons₂ a

theorem keeps_closeRing {K : List Part} {o s : State} (hM : Within [.ring] K) (h : Keeps K o s) : Keeps K o s.closeRing := by
  unfold State.closeRing
  exact Keeps.setRing (hM.mem rfl) h rfl (dropBefore_sublist _)

theorem keeps_flushEnd {K : List Part} {o s : State} (hM : Within [.irq, .ring, .ledger, .trip, .dm, .mram] K) (h : Keeps K o s) : Keeps K o s.flushEnd := by
  unfold State.flushEnd
  exact keeps_setIrq _ (hM := hM.up rfl) (keeps_writeRecord _ _ (hM := hM.up rfl) (Keeps.setRing (hM.mem rfl) h rfl (List.nil_sublist _)))

theorem keeps_cursorOp {K : List Part} {o s : State} (cls : KeyClass) (op : Nat) (hM : Within [.ledger] K) (h : Keeps K o s) : Keeps K o (s.cursorOp cls op) := by
  unfold State.cursorOp
  repeat' first | with_reducible assumption | (with_reducible refine Keeps.setLedger (hM.mem rfl) ?_ rfl; with_reducible assumption)

theorem keeps_cursorDone {K : List Part} {o s : State} (cls : KeyClass) (hM : Within [.ledger] K) (h : Keeps K o s) : Keeps K o (s.cursorDone cls) := by
  unfold State.cursorDone
  repeat' first | with_reducible assumption | (with_reducible refine Keeps.setLedger (hM.mem rfl) ?_ rfl; with_reducible assumption)

theorem keeps_clearLedger {K : List Part} {o s : State} (hM : Within [.irq, .ring, .ledger, .trip] K) (h : Keeps K o s) : Keeps K o s.clearLedger := by
  unfold State.clearLedger
  repeat' first | with_reducible assumption | exact hM.up rfl | (with_reducible refine Keeps.setLedger (hM.mem rfl) ?_ rfl; with_reducible assumption) | with_reducible apply keeps_stage

theorem keeps_scanDone {K : List Part} {o s : State} (hM : Within [.irq, .ring, .ledger, .trip, .pwr, .dm, .mram] K) (h : Keeps K o s) : Keeps K o s.scanDone := by
  unfold State.scanDone
  dsimp only
  generalize hg : List.foldl State.invalidate s _ = t
  have ht : Keeps K o t := hg ▸ Keeps.foldl h (fun t a ht => keeps_invalidate a (hM := hM.up rfl) ht)
  have hx : ∀ (x : Ledger) (p : Power), x = { t.ldg with scanning := x.scanning, commissioned := x.commissioned, firstFull := x.firstFull, nextSeq := x.nextSeq, floor := x.floor, first := x.first, circ := x.circ, firstPos := x.firstPos, circPos := x.circPos, cursors := x.cursors } → Keeps K o { t with ldg := x, pwr := p } :=
    fun x p e => Keeps.setPwr (hM.mem rfl) (Keeps.setLedger (hM.mem rfl) ht e)
  split
  · apply keeps_stage (hM := hM.up rfl)
    split
    · exact hx _ _ rfl
    · exact hx _ t.pwr rfl
  · split
    · exact hx _ _ rfl
    · exact hx _ t.pwr rfl

/-! ### Filter -/

theorem keeps_modFltCh {K : List Part} {o s : State} (c : Nat) (f : FltCh → FltCh) (hM : Within [.flt] K) (h : Keeps K o s) : Keeps K o (s.modFltCh c f) := by
  unfold State.modFltCh
  repeat' first | with_reducible assumption | (with_reducible refine Keeps.setFlt (hM.mem rfl) ?_; with_reducible assumption)

theorem keeps_spoil {K : List Part} {o s : State} (c b : Nat) (hM : Within [.flt] K) (h : Keeps K o s) : Keeps K o (s.spoil c b) := by
  unfold State.spoil
  repeat' first | with_reducible assumption | exact hM.up rfl | with_reducible apply keeps_modFltCh

theorem keeps_spoilAll {K : List Part} {o s : State} (b : Nat) (hM : Within [.flt] K) (h : Keeps K o s) : Keeps K o (s.spoilAll b) := by
  unfold State.spoilAll
  repeat' first | with_reducible assumption | (with_reducible refine Keeps.setFlt (hM.mem rfl) ?_; with_reducible assumption)

theorem keeps_spoilFor {K : List Part} {o s : State} (c n : Nat) (hM : Within [.flt] K) (h : Keeps K o s) : Keeps K o (s.spoilFor c n) := by
  unfold State.spoilFor
  repeat' first | with_reducible assumption | intro _ | exact hM.up rfl | (extract_lets +onlyGivenNames x; clear_value (hx : x = _); refine Keeps.cut (l := K) (o := o) hx ?_ ?_) | (extract_lets +onlyGivenNames x; clear_value (hx : x = _); refine Keeps.cutP (l := K) (o := o) hx ?_ ?_) | (extract_lets +onlyGivenNames x; subst x) | with_reducible apply keeps_modFltCh | with_reducible apply Keeps.ite | with_reducible apply Keeps.iteF | with_reducible apply Keeps.iteS | with_reducible apply Keeps.foldl | split

theorem keeps_latchWords {K : List Part} {o s : State} (codes : List (List Int)) (hM : Within [.flt] K) (h : Keeps K o s) : Keeps K o (s.latchWords codes) := by
  unfold State.latchWords
  repeat' first | with_reducible assumption | (with_reducible refine Keeps.setFlt (hM.mem rfl) ?_; with_reducible assumption)

theorem keeps_refuseFlt {K : List Part} {o s : State} (code : Nat) (hM : Within [.irq, .ring, .trip, .flt] K) (h : Keeps K o s) : Keeps K o (s.refuseFlt code) := by
  unfold State.refuseFlt
  repeat' first | with_reducible assumption | exact hM.up rfl | (with_reducible refine Keeps.setFlt (hM.mem rfl) ?_; with_reducible assumption) | with_reducible apply keeps_stage

theorem keeps_writeFltCfg {K : List Part} {o s : State} (w : Word) (hM : Within [.irq, .ring, .trip, .nv, .flt, .regs] K) (h : Keeps K o s) : Keeps K o (s.writeFltCfg w).1 := by
  unfold State.writeFltCfg
  repeat' first | with_reducible assumption | intro _ | exact hM.up rfl | (with_reducible refine Keeps.setFlt (hM.mem rfl) ?_; with_reducible assumption) | (extract_lets +onlyGivenNames x; clear_value (hx : x = _); refine Keeps.cut (l := K) (o := o) hx ?_ ?_) | with_reducible apply keeps_refuseFlt | with_reducible apply keeps_setStored | with_reducible apply Keeps.iteF | split

/-! ### Afe -/

theorem keeps_modBank {K : List Part} {o s : State} (b : Nat) (f : Bank → Bank) (hM : Within [.afe] K) (h : Keeps K o s) : Keeps K o (s.modBank b f) := by
  unfold State.modBank
  repeat' first | with_reducible assumption | (with_reducible refine Keeps.setAfe (hM.mem rfl) ?_; with_reducible assumption)

theorem keeps_modCore {K : List Part} {o s : State} (c : Nat) (f : ConvCore → ConvCore) (hM : Within [.afe] K) (h : Keeps K o s) : Keeps K o (s.modCore c f) := by
  unfold State.modCore
  repeat' first | with_reducible assumption | (with_reducible refine Keeps.setAfe (hM.mem rfl) ?_; with_reducible assumption)

theorem keeps_setRole {K : List Part} {o s : State} (c : Nat) (r : CoreRole) (hM : Within [.afe] K) (h : Keeps K o s) : Keeps K o (s.setRole c r) := by
  unfold State.setRole
  repeat' first | with_reducible assumption | exact hM.up rfl | with_reducible apply keeps_modCore

theorem keeps_modAfeCh {K : List Part} {o s : State} (c : Nat) (f : AfeCh → AfeCh) (hM : Within [.afe] K) (h : Keeps K o s) : Keeps K o (s.modAfeCh c f) := by
  unfold State.modAfeCh
  repeat' first | with_reducible assumption | (with_reducible refine Keeps.setAfe (hM.mem rfl) ?_; with_reducible assumption)

theorem keeps_restartCorr {K : List Part} {o s : State} (c : Nat) (hM : Within [.afe] K) (h : Keeps K o s) : Keeps K o (s.restartCorr c) := by
  unfold State.restartCorr
  repeat' first | with_reducible assumption | exact hM.up rfl | with_reducible apply keeps_modAfeCh

theorem keeps_judgePilots {K : List Part} {o s : State} (hM : Within [.causes] K) (h : Keeps K o s) : Keeps K o s.judgePilots := by
  unfold State.judgePilots
  repeat' first | with_reducible assumption | exact hM.up rfl | intro _ | with_reducible apply keeps_addCause | with_reducible apply keeps_dropCause | with_reducible apply Keeps.ite

theorem keeps_clearSuspects {K : List Part} {o s : State} (b : Nat) (hM : Within [.causes, .afe] K) (h : Keeps K o s) : Keeps K o (s.clearSuspects b) := by
  unfold State.clearSuspects
  repeat' first | with_reducible assumption | intro _ | exact hM.up rfl | with_reducible apply keeps_judgePilots | with_reducible apply keeps_modAfeCh | with_reducible apply Keeps.foldl

theorem keeps_evalPilot {K : List Part} {o s : State} (b : Nat) (hM : Within [.causes, .irq, .ring, .trip, .afe] K) (h : Keeps K o s) : Keeps K o (s.evalPilot b) := by
  unfold State.evalPilot
  repeat' first | with_reducible assumption | intro _ | exact hM.up rfl | with_reducible apply keeps_modBank | with_reducible apply keeps_stage | with_reducible apply keeps_clearSuspects | with_reducible apply Keeps.ite

theorem keeps_retunePilots {K : List Part} {o s : State} (hM : Within [.causes, .irq, .ring, .trip, .afe] K) (h : Keeps K o s) : Keeps K o s.retunePilots := by
  unfold State.retunePilots
  repeat' first | with_reducible assumption | intro _ | exact hM.up rfl | with_reducible apply keeps_restartCorr | with_reducible apply keeps_evalPilot | with_reducible apply Keeps.foldl

theorem keeps_pilotWindow {K : List Part} {o s : State} (c : Nat) (amp ph : Rat) (hM : Within [.causes, .irq, .ring, .trip, .afe] K) (h : Keeps K o s) : Keeps K o (s.pilotWindow c amp ph) := by
  unfold State.pilotWindow
  repeat' first | with_reducible assumption | intro _ | exact hM.up rfl | with_reducible apply keeps_modAfeCh | with_reducible apply keeps_stage | with_reducible apply keeps_judgePilots | with_reducible apply Keeps.ite | split

theorem keeps_exclude {K : List Part} {o s : State} (c : Nat) (hM : Within [.causes, .irq, .ring, .trip, .afe] K) (h : Keeps K o s) : Keeps K o (s.exclude c) := by
  unfold State.exclude
  repeat' first | with_reducible assumption | intro _ | exact hM.up rfl | with_reducible apply keeps_judgePilots | with_reducible apply keeps_stage | with_reducible apply keeps_modAfeCh | with_reducible apply Keeps.ite

theorem keeps_bankNoSpare {K : List Part} {o s : State} (b : Nat) (hM : Within [.irq, .ring, .trip, .afe] K) (h : Keeps K o s) : Keeps K o (s.bankNoSpare b) := by
  unfold State.bankNoSpare
  repeat' first | with_reducible assumption | exact hM.up rfl | with_reducible apply keeps_modBank | with_reducible apply keeps_stage

theorem keeps_mapOutCore {K : List Part} {o s : State} (c : Nat) (hM : Within [.irq, .ring, .trip, .dm, .afe] K) (h : Keeps K o s) : Keeps K o (s.mapOutCore c) := by
  unfold State.mapOutCore
  repeat' first | with_reducible assumption | intro _ | exact hM.up rfl | (with_reducible refine Keeps.setDm (hM.mem rfl) ?_; with_reducible assumption) | (extract_lets +onlyGivenNames x; clear_value (hx : x = _); refine Keeps.cut (l := K) (o := o) hx ?_ ?_) | with_reducible apply keeps_setRole | with_reducible apply keeps_stage

theorem keeps_setFails {K : List Part} {o s : State} (c n : Nat) (hM : Within [.dm] K) (h : Keeps K o s) : Keeps K o (s.setFails c n) := by
  unfold State.setFails
  repeat' first | with_reducible assumption | intro _ | (with_reducible refine Keeps.setDm (hM.mem rfl) ?_; with_reducible assumption) | with_reducible apply Keeps.ite

theorem keeps_failCore {K : List Part} {o s : State} (c : Nat) (hM : Within [.irq, .ring, .trip, .dm, .afe] K) (h : Keeps K o s) : Keeps K o (s.failCore c) := by
  unfold State.failCore
  repeat' first | with_reducible assumption | intro _ | exact hM.up rfl | with_reducible apply keeps_setFails | with_reducible apply keeps_mapOutCore | with_reducible apply Keeps.ite

theorem keeps_assignBank {K : List Part} {o s : State} (b : Nat) (hM : Within [.irq, .ring, .trip, .afe] K) (h : Keeps K o s) : Keeps K o (s.assignBank b) := by
  unfold State.assignBank
  repeat' first | with_reducible assumption | intro _ | exact hM.up rfl | with_reducible apply keeps_setRole | with_reducible apply keeps_modBank | with_reducible apply keeps_stage | with_reducible apply Keeps.ite | with_reducible apply Keeps.foldl

theorem keeps_startStep {K : List Part} {o s : State} (b ch : Nat) (k : StepKind) (hM : Within [.afe] K) (h : Keeps K o s) : Keeps K o (s.startStep b ch k) := by
  unfold State.startStep
  repeat' first | with_reducible assumption | exact hM.up rfl | with_reducible apply keeps_setRole | with_reducible apply keeps_modBank | split

theorem keeps_shadowTick {K : List Part} {o s : State} (hM : Within [.afe] K) (h : Keeps K o s) : Keeps K o s.shadowTick := by
  unfold State.shadowTick
  repeat' first | with_reducible assumption | intro _ | exact hM.up rfl | (with_reducible refine Keeps.setAfe (hM.mem rfl) ?_; with_reducible assumption) | (extract_lets +onlyGivenNames x; clear_value (hx : x = _); refine Keeps.cut (l := K) (o := o) hx ?_ ?_) | (extract_lets +onlyGivenNames x; clear_value (hx : x = _); refine Keeps.cutP (l := K) (o := o) hx ?_ ?_) | (extract_lets +onlyGivenNames x; subst x) | with_reducible apply Keeps.ite | with_reducible apply Keeps.iteF | with_reducible apply Keeps.iteS | with_reducible apply Keeps.foldl | (with_reducible refine Keeps.setAfe (hM.mem rfl) (Keeps.setAfe (hM.mem rfl) ?_); with_reducible assumption) | split

theorem keeps_rotationStart {K : List Part} {o s : State} (b : Nat) (hM : Within [.afe] K) (h : Keeps K o s) : Keeps K o (s.rotationStart b) := by
  unfold State.rotationStart
  repeat' first | with_reducible assumption | exact hM.up rfl | intro _ | with_reducible apply keeps_startStep | with_reducible apply Keeps.ite

theorem keeps_suspectStart {K : List Part} {o s : State} (b : Nat) (hM : Within [.afe] K) (h : Keeps K o s) : Keeps K o (s.suspectStart b) := by
  unfold State.suspectStart
  repeat' first | with_reducible assumption | exact hM.up rfl | with_reducible apply keeps_modBank | with_reducible apply keeps_startStep | split

theorem keeps_swapCores {K : List Part} {o s : State} (b : Nat) (hM : Within [.afe] K) (h : Keeps K o s) : Keeps K o (s.swapCores b) := by
  unfold State.swapCores
  repeat' first | with_reducible assumption | exact hM.up rfl | (extract_lets +onlyGivenNames x; subst x) | with_reducible apply keeps_setRole | with_reducible apply keeps_modBank | split

theorem keeps_afterHandover {K : List Part} {o s : State} (b steps : Nat) (hM : Within [.irq, .ring, .trip, .afe] K) (h : Keeps K o s) : Keeps K o (s.afterHandover b steps) := by
  unfold State.afterHandover
  repeat' first | with_reducible assumption | exact hM.up rfl | with_reducible apply keeps_bankNoSpare | with_reducible apply keeps_modBank | with_reducible apply keeps_setRole | split

theorem keeps_blameSpare {K : List Part} {o s : State} (b : Nat) (hM : Within [.irq, .ring, .trip, .dm, .afe] K) (h : Keeps K o s) : Keeps K o (s.blameSpare b) := by
  unfold State.blameSpare
  repeat' first | with_reducible assumption | intro _ | exact hM.up rfl | with_reducible apply keeps_failCore | with_reducible apply keeps_bankNoSpare | with_reducible apply keeps_modBank | with_reducible apply keeps_setRole | with_reducible apply Keeps.ite | split

theorem keeps_coreLost {K : List Part} {o s : State} (c : Nat) (hM : Within [.irq, .ring, .trip, .afe, .flt] K) (h : Keeps K o s) : Keeps K o (s.coreLost c) := by
  unfold State.coreLost
  repeat' first | with_reducible assumption | intro _ | exact hM.up rfl | (extract_lets +onlyGivenNames x; clear_value (hx : x = _); refine Keeps.cut (l := K) (o := o) hx ?_ ?_) | (extract_lets +onlyGivenNames x; clear_value (hx : x = _); refine Keeps.cutP (l := K) (o := o) hx ?_ ?_) | (extract_lets +onlyGivenNames x; subst x) | with_reducible apply keeps_modBank | with_reducible apply keeps_setRole | with_reducible apply keeps_spoilFor | with_reducible apply keeps_bankNoSpare | with_reducible apply keeps_stage | with_reducible apply Keeps.ite | with_reducible apply Keeps.iteF | with_reducible apply Keeps.iteS | with_reducible apply Keeps.foldl | split

theorem keeps_blameServing {K : List Part} {o s : State} (b : Nat) (hM : Within [.irq, .ring, .trip, .dm, .afe, .flt] K) (h : Keeps K o s) : Keeps K o (s.blameServing b) := by
  unfold State.blameServing
  repeat' first | with_reducible assumption | intro _ | exact hM.up rfl | (extract_lets +onlyGivenNames x; clear_value (hx : x = _); refine Keeps.cut (l := K) (o := o) hx ?_ ?_) | (extract_lets +onlyGivenNames x; clear_value (hx : x = _); refine Keeps.cutP (l := K) (o := o) hx ?_ ?_) | (extract_lets +onlyGivenNames x; subst x) | with_reducible apply keeps_failCore | with_reducible apply keeps_modBank | with_reducible apply keeps_setRole | with_reducible apply keeps_coreLost | with_reducible apply Keeps.ite | with_reducible apply Keeps.iteF | with_reducible apply Keeps.iteS | with_reducible apply Keeps.foldl | split

theorem keeps_disagree {K : List Part} {o s : State} (spare serv blamed : Nat) (hM : Within [.irq, .ring, .trip] K) (h : Keeps K o s) : Keeps K o (s.disagree spare serv blamed) := by
  unfold State.disagree
  repeat' first | with_reducible assumption | exact hM.up rfl | with_reducible apply keeps_stage

theorem keeps_handover {K : List Part} {o s : State} (b : Nat) (m : CompareIn) (hM : Within [.causes, .irq, .ring, .trip, .dm, .afe, .flt] K) (h : Keeps K o s) : Keeps K o (s.handover b m) := by
  unfold State.handover
  repeat' first | with_reducible assumption | intro _ | exact hM.up rfl | (extract_lets +onlyGivenNames x; clear_value (hx : x = _); refine Keeps.cut (l := K) (o := o) hx ?_ ?_) | (extract_lets +onlyGivenNames x; clear_value (hx : x = _); refine Keeps.cutP (l := K) (o := o) hx ?_ ?_) | (extract_lets +onlyGivenNames x; subst x) | with_reducible apply keeps_modAfeCh | with_reducible apply keeps_swapCores | with_reducible apply keeps_afterHandover | with_reducible apply keeps_judgePilots | with_reducible apply keeps_stage | with_reducible apply keeps_modBank | with_reducible apply keeps_blameSpare | with_reducible apply keeps_disagree | with_reducible apply keeps_blameServing | with_reducible apply keeps_failCore | with_reducible apply Keeps.ite | with_reducible apply Keeps.iteF | with_reducible apply Keeps.iteS | with_reducible apply Keeps.foldl | split

theorem keeps_calResult {K : List Part} {o s : State} (c : Nat) (m : CalIn) (hM : Within [.irq, .ring, .trip, .dm, .afe] K) (h : Keeps K o s) : Keeps K o (s.calResult c m) := by
  unfold State.calResult
  repeat' first | with_reducible assumption | intro _ | exact hM.up rfl | with_reducible apply keeps_setFails | with_reducible apply keeps_modCore | with_reducible apply keeps_failCore | with_reducible apply keeps_stage | with_reducible apply Keeps.ite

theorem keeps_nextStep {K : List Part} {o s : State} (b : Nat) (hM : Within [.afe] K) (h : Keeps K o s) : Keeps K o (s.nextStep b) := by
  unfold State.nextStep
  repeat' first | with_reducible assumption | exact hM.up rfl | intro _ | with_reducible apply keeps_modBank | with_reducible apply keeps_rotationStart | with_reducible apply Keeps.ite

theorem keeps_voidCal {K : List Part} {o s : State} (hM : Within [.afe] K) (h : Keeps K o s) : Keeps K o s.voidCal := by
  unfold State.voidCal
  repeat' first | with_reducible assumption | intro _ | exact hM.up rfl | (with_reducible refine Keeps.setAfe (hM.mem rfl) ?_; with_reducible assumption) | (extract_lets +onlyGivenNames x; clear_value (hx : x = _); refine Keeps.cut (l := K) (o := o) hx ?_ ?_) | (extract_lets +onlyGivenNames x; clear_value (hx : x = _); refine Keeps.cutP (l := K) (o := o) hx ?_ ?_) | (extract_lets +onlyGivenNames x; subst x) | with_reducible apply Keeps.ite | with_reducible apply Keeps.iteF | with_reducible apply Keeps.iteS | with_reducible apply Keeps.foldl | (with_reducible refine Keeps.setAfe (hM.mem rfl) (Keeps.setAfe (hM.mem rfl) ?_); with_reducible assumption) | split

theorem keeps_calibrationEnd {K : List Part} {o s : State} (b : Nat) (m : CalIn) (hM : Within [.irq, .ring, .trip, .dm, .afe] K) (h : Keeps K o s) : Keeps K o (s.calibrationEnd b m) := by
  unfold State.calibrationEnd
  repeat' first | with_reducible assumption | intro _ | exact hM.up rfl | (extract_lets +onlyGivenNames x; clear_value (hx : x = _); refine Keeps.cut (l := K) (o := o) hx ?_ ?_) | (extract_lets +onlyGivenNames x; clear_value (hx : x = _); refine Keeps.cutP (l := K) (o := o) hx ?_ ?_) | (extract_lets +onlyGivenNames x; subst x) | with_reducible apply keeps_modBank | with_reducible apply keeps_calResult | with_reducible apply keeps_bankNoSpare | with_reducible apply keeps_nextStep | with_reducible apply keeps_setRole | with_reducible apply Keeps.ite | with_reducible apply Keeps.iteF | with_reducible apply Keeps.iteS | with_reducible apply Keeps.foldl | split

theorem keeps_hardFault {K : List Part} {o s : State} (c : Nat) (hM : Within [.irq, .ring, .trip, .dm, .afe, .flt] K) (h : Keeps K o s) : Keeps K o (s.hardFault c) := by
  unfold State.hardFault
  repeat' first | with_reducible assumption | intro _ | exact hM.up rfl | with_reducible apply keeps_coreLost | with_reducible apply keeps_mapOutCore | with_reducible apply keeps_stage | with_reducible apply Keeps.ite

theorem keeps_abandonCompare {K : List Part} {o s : State} (c : Nat) (hM : Within [.afe] K) (h : Keeps K o s) : Keeps K o (s.abandonCompare c) := by
  unfold State.abandonCompare
  repeat' first | with_reducible assumption | exact hM.up rfl | with_reducible apply keeps_modBank

theorem keeps_abandonAll {K : List Part} {o s : State} (hM : Within [.afe] K) (h : Keeps K o s) : Keeps K o s.abandonAll := by
  unfold State.abandonAll
  repeat' first | with_reducible assumption | exact hM.up rfl | with_reducible apply keeps_modBank

theorem keeps_refdacCheck {K : List Part} {o s : State} (b : Nat) (err : Rat) (hM : Within [.irq, .ring, .trip, .afe] K) (h : Keeps K o s) : Keeps K o (s.refdacCheck b err) := by
  unfold State.refdacCheck
  repeat' first | with_reducible assumption | intro _ | exact hM.up rfl | with_reducible apply keeps_modBank | with_reducible apply keeps_setRole | with_reducible apply keeps_stage | with_reducible apply Keeps.ite | split

theorem keeps_refdacRecheck {K : List Part} {o s : State} (b : Nat) (errs : List Rat) (hM : Within [.afe] K) (h : Keeps K o s) : Keeps K o (s.refdacRecheck b errs) := by
  unfold State.refdacRecheck
  repeat' first | with_reducible assumption | exact hM.up rfl | intro _ | with_reducible apply keeps_modBank | with_reducible apply Keeps.ite

theorem keeps_refdacResume {K : List Part} {o s : State} (b : Nat) (hM : Within [.afe] K) (h : Keeps K o s) : Keeps K o (s.refdacResume b) := by
  unfold State.refdacResume
  repeat' first | with_reducible assumption | exact hM.up rfl | with_reducible apply keeps_modBank | with_reducible apply keeps_setRole | split

theorem keeps_gainBoundary {K : List Part} {o s : State} (c : Nat) (hM : Within [.afe, .flt] K) (h : Keeps K o s) : Keeps K o (s.gainBoundary c) := by
  unfold State.gainBoundary
  repeat' first | with_reducible assumption | exact hM.up rfl | with_reducible apply keeps_modAfeCh | with_reducible apply keeps_spoil | with_reducible apply keeps_abandonCompare | with_reducible apply keeps_restartCorr | split

theorem keeps_filterApplied {K : List Part} {o s : State} (o' f : FltSet) (hM : Within [.irq, .ring, .trip] K) (h : Keeps K o s) : Keeps K o (s.filterApplied o' f) := by
  unfold State.filterApplied
  repeat' first | with_reducible assumption | exact hM.up rfl | with_reducible apply keeps_stage

theorem keeps_filterBoundary {K : List Part} {o s : State} (hM : Within [.causes, .irq, .ring, .trip, .afe, .flt] K) (h : Keeps K o s) : Keeps K o s.filterBoundary := by
  unfold State.filterBoundary
  repeat' first | with_reducible assumption | exact hM.up rfl | (with_reducible refine Keeps.setFlt (hM.mem rfl) ?_; with_reducible assumption) | with_reducible apply keeps_retunePilots | with_reducible apply keeps_abandonAll | with_reducible apply keeps_spoilAll | with_reducible apply keeps_filterApplied | split

theorem keeps_reconnect {K : List Part} {o s : State} (c : Nat) (hM : Within [.afe, .flt] K) (h : Keeps K o s) : Keeps K o (s.reconnect c) := by
  unfold State.reconnect
  repeat' first | with_reducible assumption | intro _ | exact hM.up rfl | (extract_lets +onlyGivenNames x; clear_value (hx : x = _); refine Keeps.cut (l := K) (o := o) hx ?_ ?_) | (extract_lets +onlyGivenNames x; clear_value (hx : x = _); refine Keeps.cutP (l := K) (o := o) hx ?_ ?_) | (extract_lets +onlyGivenNames x; subst x) | with_reducible apply keeps_spoil | with_reducible apply keeps_abandonCompare | with_reducible apply keeps_modAfeCh | with_reducible apply Keeps.ite | with_reducible apply Keeps.iteF | with_reducible apply Keeps.iteS | with_reducible apply Keeps.foldl | split

theorem keeps_reconnectAll {K : List Part} {o s : State} (hM : Within [.afe, .flt] K) (h : Keeps K o s) : Keeps K o s.reconnectAll := by
  unfold State.reconnectAll
  repeat' first | with_reducible assumption | exact hM.up rfl | intro _ | with_reducible apply keeps_reconnect | with_reducible apply Keeps.foldl

theorem keeps_foreground {K : List Part} {o s : State} (b n : Nat) (j : JobIn) (hM : Within [.irq, .ring, .trip, .dm, .afe, .flt] K) (h : Keeps K o s) : Keeps K o (s.foreground b n j) := by
  unfold State.foreground
  repeat' first | with_reducible assumption | intro _ | exact hM.up rfl | with_reducible apply keeps_modAfeCh | with_reducible apply keeps_reconnect | with_reducible apply keeps_calResult | with_reducible apply keeps_coreLost | with_reducible apply Keeps.ite

/-! ### AuxConv -/

theorem keeps_modAux {K : List Part} {o s : State} (f : Aux → Aux) (hM : Within [.aux] K) (h : Keeps K o s) : Keeps K o (s.modAux f) := by
  unfold State.modAux
  repeat' first | with_reducible assumption | (with_reducible refine Keeps.setAux (hM.mem rfl) ?_; with_reducible assumption)

theorem keeps_refJudge {K : List Part} {o s : State} (ok : Bool) (set : Aux → Bool → Aux) (hM : Within [.irq, .ring, .trip, .aux] K) (h : Keeps K o s) : Keeps K o (s.refJudge ok set) := by
  unfold State.refJudge
  repeat' first | with_reducible assumption | intro _ | exact hM.up rfl | with_reducible apply keeps_modAux | with_reducible apply keeps_stage | with_reducible apply Keeps.ite

theorem keeps_auxRefs {K : List Part} {o s : State} (n code : Nat) (hM : Within [.irq, .ring, .trip, .aux] K) (h : Keeps K o s) : Keeps K o (s.auxRefs n code) := by
  unfold State.auxRefs
  repeat' first | with_reducible assumption | exact hM.up rfl | intro _ | with_reducible apply keeps_refJudge | with_reducible apply Keeps.ite

theorem keeps_auxAdvance {K : List Part} {o s : State} (n : Nat) (hM : Within [.aux] K) (h : Keeps K o s) : Keeps K o (s.auxAdvance n) := by
  unfold State.auxAdvance
  repeat' first | with_reducible assumption | exact hM.up rfl | with_reducible apply keeps_modAux

theorem keeps_auxSeek {K : List Part} {o s : State} (hM : Within [.aux] K) (h : Keeps K o s) : Keeps K o s.auxSeek := by
  unfold State.auxSeek
  repeat' first | with_reducible assumption | intro _ | exact hM.up rfl | (extract_lets +onlyGivenNames x; clear_value (hx : x = _); refine Keeps.cut (l := K) (o := o) hx ?_ ?_) | (extract_lets +onlyGivenNames x; clear_value (hx : x = _); refine Keeps.cutP (l := K) (o := o) hx ?_ ?_) | (extract_lets +onlyGivenNames x; subst x) | with_reducible apply keeps_auxAdvance | with_reducible apply Keeps.ite | with_reducible apply Keeps.iteF | with_reducible apply Keeps.iteS | with_reducible apply Keeps.foldl | split

theorem keeps_auxEntry {K : List Part} {o s : State} (n : Nat) (convs : List Rat) (hM : Within [.irq, .ring, .trip, .aux] K) (h : Keeps K o s) : Keeps K o (s.auxEntry n convs) := by
  unfold State.auxEntry
  repeat' first | with_reducible assumption | intro _ | exact hM.up rfl | with_reducible apply keeps_modAux | with_reducible apply keeps_stage | with_reducible apply keeps_auxAdvance | with_reducible apply keeps_auxRefs | with_reducible apply Keeps.ite

theorem keeps_injLatch {K : List Part} {o s : State} (hM : Within [.aux] K) (h : Keeps K o s) : Keeps K o s.injLatch := by
  unfold State.injLatch
  repeat' first | with_reducible assumption | intro _ | exact hM.up rfl | (extract_lets +onlyGivenNames x; clear_value (hx : x = _); refine Keeps.cut (l := K) (o := o) hx ?_ ?_) | (extract_lets +onlyGivenNames x; clear_value (hx : x = _); refine Keeps.cutP (l := K) (o := o) hx ?_ ?_) | (extract_lets +onlyGivenNames x; subst x) | with_reducible apply keeps_modAux | with_reducible apply Keeps.ite | with_reducible apply Keeps.iteF | with_reducible apply Keeps.iteS | with_reducible apply Keeps.foldl | split

theorem keeps_injTrigger {K : List Part} {o s : State} (src : Nat) (hM : Within [.irq, .ring, .trip, .aux] K) (h : Keeps K o s) : Keeps K o (s.injTrigger src) := by
  unfold State.injTrigger
  repeat' first | with_reducible assumption | intro _ | exact hM.up rfl | with_reducible apply keeps_stage | with_reducible apply keeps_modAux | with_reducible apply Keeps.ite

theorem keeps_injStart {K : List Part} {o s : State} (hM : Within [.aux] K) (h : Keeps K o s) : Keeps K o s.injStart := by
  unfold State.injStart
  repeat' first | with_reducible assumption | exact hM.up rfl | intro _ | with_reducible apply keeps_modAux | with_reducible apply Keeps.ite

theorem keeps_injDone {K : List Part} {o s : State} (convs : List (List Rat)) (hM : Within [.aux] K) (h : Keeps K o s) : Keeps K o (s.injDone convs) := by
  unfold State.injDone
  repeat' first | with_reducible assumption | exact hM.up rfl | with_reducible apply keeps_modAux

theorem keeps_auxCalBegin {K : List Part} {o s : State} (hM : Within [.aux] K) (h : Keeps K o s) : Keeps K o s.auxCalBegin := by
  unfold State.auxCalBegin
  repeat' first | with_reducible assumption | intro _ | exact hM.up rfl | (extract_lets +onlyGivenNames x; clear_value (hx : x = _); refine Keeps.cut (l := K) (o := o) hx ?_ ?_) | (extract_lets +onlyGivenNames x; clear_value (hx : x = _); refine Keeps.cutP (l := K) (o := o) hx ?_ ?_) | (extract_lets +onlyGivenNames x; subst x) | with_reducible apply keeps_modAux | with_reducible apply Keeps.ite | with_reducible apply Keeps.iteF | with_reducible apply Keeps.iteS | with_reducible apply Keeps.foldl | split

theorem keeps_auxCalStart {K : List Part} {o s : State} (hM : Within [.aux] K) (h : Keeps K o s) : Keeps K o s.auxCalStart := by
  unfold State.auxCalStart
  repeat' first | with_reducible assumption | intro _ | exact hM.up rfl | (extract_lets +onlyGivenNames x; clear_value (hx : x = _); refine Keeps.cut (l := K) (o := o) hx ?_ ?_) | (extract_lets +onlyGivenNames x; clear_value (hx : x = _); refine Keeps.cutP (l := K) (o := o) hx ?_ ?_) | (extract_lets +onlyGivenNames x; subst x) | with_reducible apply keeps_auxCalBegin | with_reducible apply Keeps.ite | with_reducible apply Keeps.iteF | with_reducible apply Keeps.iteS | with_reducible apply Keeps.foldl | split

theorem keeps_auxCalStep {K : List Part} {o s : State} (offset gainPpm : Int) (hM : Within [.irq, .ring, .trip, .aux] K) (h : Keeps K o s) : Keeps K o (s.auxCalStep offset gainPpm) := by
  unfold State.auxCalStep
  repeat' first | with_reducible assumption | intro _ | exact hM.up rfl | with_reducible apply keeps_modAux | with_reducible apply keeps_stage | with_reducible apply Keeps.ite

theorem keeps_auxCalLate {K : List Part} {o s : State} (hM : Within [.irq, .ring, .trip, .aux] K) (h : Keeps K o s) : Keeps K o s.auxCalLate := by
  unfold State.auxCalLate
  repeat' first | with_reducible assumption | intro _ | exact hM.up rfl | with_reducible apply keeps_stage | with_reducible apply keeps_modAux | with_reducible apply Keeps.ite

/-! ### OpPoint -/

theorem keeps_railUp {K : List Part} {o s : State} (hM : Within [.clk] K) (h : Keeps K o s) : Keeps K o s.railUp := by
  unfold State.railUp
  repeat' first | with_reducible assumption | intro _ | (with_reducible refine Keeps.setClk (hM.mem rfl) ?_; with_reducible assumption) | with_reducible apply Keeps.ite

theorem keeps_raiseOp {K : List Part} {o s : State} (hM : Within [.clk] K) (h : Keeps K o s) : Keeps K o s.raiseOp := by
  unfold State.raiseOp
  repeat' first | with_reducible assumption | exact hM.up rfl | intro _ | (with_reducible refine Keeps.setClk (hM.mem rfl) ?_; with_reducible assumption) | with_reducible apply keeps_railUp | with_reducible apply Keeps.ite

theorem keeps_railSettled {K : List Part} {o s : State} (hM : Within [.clk] K) (h : Keeps K o s) : Keeps K o s.railSettled := by
  unfold State.railSettled
  repeat' first | with_reducible assumption | intro _ | (with_reducible refine Keeps.setClk (hM.mem rfl) ?_; with_reducible assumption) | with_reducible apply Keeps.ite

theorem keeps_freqChange {K : List Part} {o s : State} (hM : Within [.clk] K) (h : Keeps K o s) : Keeps K o s.freqChange := by
  unfold State.freqChange
  repeat' first | with_reducible assumption | intro _ | (with_reducible refine Keeps.setClk (hM.mem rfl) ?_; with_reducible assumption) | with_reducible apply Keeps.ite

theorem keeps_opLower {K : List Part} {o s : State} (hM : Within [.clk] K) (h : Keeps K o s) : Keeps K o s.opLower := by
  unfold State.opLower
  repeat' first | with_reducible assumption | intro _ | (with_reducible refine Keeps.setClk (hM.mem rfl) ?_; with_reducible assumption) | with_reducible apply Keeps.ite

theorem keeps_opPinned {K : List Part} {o s : State} (hM : Within [.clk] K) (h : Keeps K o s) : Keeps K o s.opPinned := by
  unfold State.opPinned
  repeat' first | with_reducible assumption | exact hM.up rfl | intro _ | with_reducible apply keeps_railUp | with_reducible apply Keeps.ite

end Sys2Proof.Machine
end

