-- ==== Sys2Proof/Laws/State.lean ====
section
/-! SUPPORT. Updates of the state: what each one gives in its own field, and that it leaves every other field; elements of lists changed in place; MRAM read back. -/

namespace Sys2Proof.Machine

/-! ### Lists -/

/-- The element that was changed. -/
theorem nth_modNth_self {α : Type} [Inhabited α] {l : List α} {i : Nat} {f : α → α} (h : i < l.length) : nth (modNth l i f) i = f (nth l i) := by
  simp [nth, modNth, List.getD_eq_getElem?_getD, h]

/-- Any other element. -/
theorem nth_modNth_ne {α : Type} [Inhabited α] {l : List α} {i j : Nat} {f : α → α} (h : i ≠ j) : nth (modNth l i f) j = nth l j := by
  simp [nth, modNth, List.getD_eq_getElem?_getD, h]

@[simp] theorem length_modNth {α : Type} {l : List α} {i : Nat} {f : α → α} : (modNth l i f).length = l.length := by simp [modNth]

theorem nth_set_self {α : Type} [Inhabited α] {l : List α} {i : Nat} {x : α} (h : i < l.length) : nth (l.set i x) i = x := by
  simp [nth, List.getD_eq_getElem?_getD, h]

theorem nth_set_ne {α : Type} [Inhabited α] {l : List α} {i j : Nat} {x : α} (h : i ≠ j) : nth (l.set i x) j = nth l j := by
  simp [nth, List.getD_eq_getElem?_getD, h]

/-- An association list read back. -/
theorem lookupD_insertKey {α : Type} (l : List (Nat × α)) (k j : Nat) (v d : α) : lookupD (insertKey l k v) j d = if k = j then v else lookupD l j d := by
  induction l with
  | nil => simp [insertKey, lookupD]
  | cons p r ih =>
    obtain ⟨a, w⟩ := p
    unfold insertKey
    split
    · simp only [lookupD]
    · split
      · rename_i h1 h2
        subst h2
        simp only [lookupD]
        split <;> rfl
      · rename_i h1 h2
        simp only [lookupD, ih]
        split
        · rename_i h3
          rw [if_neg (by omega)]
        · rfl

/-! ### MRAM -/

/-- A byte of MRAM read after a write of one byte. -/
theorem memRead_write (m : List Host.Cell) (x y : Nat) (v : Byte) (lo : Nat) (h : memSorted lo m = true) : memRead (memWrite m x v) y = if x = y then v else memRead m y := by
  induction m generalizing lo with
  | nil =>
    unfold memWrite
    split
    · rename_i hv
      simp [memRead, hv]
    · simp [memRead]
  | cons p r ih =>
    obtain ⟨a, b⟩ := p
    simp only [memSorted, Bool.and_eq_true, decide_eq_true_eq] at h
    have low : ∀ (l : List Host.Cell) (k z : Nat), memSorted k l = true → z < k → memRead l z = mramBlank := by
      intro l
      induction l with
      | nil => exact fun _ _ _ _ => rfl
      | cons q t it =>
        intro k z hk hz
        obtain ⟨c, d⟩ := q
        simp only [memSorted, Bool.and_eq_true, decide_eq_true_eq] at hk
        simp only [memRead]
        rw [if_neg (by omega)]
        exact it (c + 1) z hk.2 (by omega)
    unfold memWrite
    split
    · rename_i hx
      split
      · rename_i hv
        split
        · rename_i e
          subst e
          rw [hv]
          simp only [memRead]
          rw [if_neg (by omega)]
          exact low r (a + 1) x h.2 (by omega)
        · rfl
      · simp only [memRead]
    · split
      · rename_i hx
        subst hx
        split
        · rename_i hv
          by_cases e : x = y
          · subst e
            rw [if_pos rfl, hv]
            exact low r (x + 1) x h.2 (by omega)
          · simp only [memRead, if_neg e]
        · simp only [memRead]
          split <;> rfl
      · rename_i h1 h2
        simp only [memRead, ih (a + 1) h.2]
        split
        · rename_i e
          rw [if_neg (by omega)]
        · rfl

/-! ### Fields -/

@[simp] theorem modCap_cap (s : State) (f : Caps → Caps) : (s.modCap f).cap = f s.cap := rfl

@[simp] theorem modCap_sys (s : State) (f : Caps → Caps) : (s.modCap f).sys = s.sys := rfl

@[simp] theorem modCap_host (s : State) (f : Caps → Caps) : (s.modCap f).host = s.host := rfl

@[simp] theorem modCap_key (s : State) (f : Caps → Caps) : (s.modCap f).key = s.key := rfl

@[simp] theorem modCap_job (s : State) (f : Caps → Caps) : (s.modCap f).job = s.job := rfl

@[simp] theorem modCap_ldg (s : State) (f : Caps → Caps) : (s.modCap f).ldg = s.ldg := rfl

@[simp] theorem modCap_clk (s : State) (f : Caps → Caps) : (s.modCap f).clk = s.clk := rfl

@[simp] theorem modCap_pwr (s : State) (f : Caps → Caps) : (s.modCap f).pwr = s.pwr := rfl

@[simp] theorem modCap_dm (s : State) (f : Caps → Caps) : (s.modCap f).dm = s.dm := rfl

@[simp] theorem modCap_nv (s : State) (f : Caps → Caps) : (s.modCap f).nv = s.nv := rfl

@[simp] theorem modCap_afe (s : State) (f : Caps → Caps) : (s.modCap f).afe = s.afe := rfl

@[simp] theorem modCap_flt (s : State) (f : Caps → Caps) : (s.modCap f).flt = s.flt := rfl

@[simp] theorem modCap_aux (s : State) (f : Caps → Caps) : (s.modCap f).aux = s.aux := rfl

@[simp] theorem modCap_pe (s : State) (f : Caps → Caps) : (s.modCap f).pe = s.pe := rfl

@[simp] theorem modCap_trk (s : State) (f : Caps → Caps) : (s.modCap f).trk = s.trk := rfl

@[simp] theorem modCap_sch (s : State) (f : Caps → Caps) : (s.modCap f).sch = s.sch := rfl

@[simp] theorem modCap_fst (s : State) (f : Caps → Caps) : (s.modCap f).fst = s.fst := rfl

@[simp] theorem modCap_fio (s : State) (f : Caps → Caps) : (s.modCap f).fio = s.fio := rfl

@[simp] theorem modCap_ptp (s : State) (f : Caps → Caps) : (s.modCap f).ptp = s.ptp := rfl

@[simp] theorem modCap_svc (s : State) (f : Caps → Caps) : (s.modCap f).svc = s.svc := rfl

@[simp] theorem modCap_chn (s : State) (f : Caps → Caps) : (s.modCap f).chn = s.chn := rfl

@[simp] theorem modCap_hng (s : State) (f : Caps → Caps) : (s.modCap f).hng = s.hng := rfl

@[simp] theorem modCap_regs (s : State) (f : Caps → Caps) : (s.modCap f).regs = s.regs := rfl

@[simp] theorem modCap_defer (s : State) (f : Caps → Caps) : (s.modCap f).defer = s.defer := rfl

@[simp] theorem modCap_mram (s : State) (f : Caps → Caps) : (s.modCap f).mram = s.mram := rfl

@[simp] theorem modCap_pending (s : State) (f : Caps → Caps) : (s.modCap f).pending = s.pending := rfl

@[simp] theorem modCap_free (s : State) (f : Caps → Caps) : (s.modCap f).free = s.free := rfl

@[simp] theorem modClk_clk (s : State) (f : Clocks → Clocks) : (s.modClk f).clk = f s.clk := rfl

@[simp] theorem modClk_sys (s : State) (f : Clocks → Clocks) : (s.modClk f).sys = s.sys := rfl

@[simp] theorem modClk_host (s : State) (f : Clocks → Clocks) : (s.modClk f).host = s.host := rfl

@[simp] theorem modClk_key (s : State) (f : Clocks → Clocks) : (s.modClk f).key = s.key := rfl

@[simp] theorem modClk_job (s : State) (f : Clocks → Clocks) : (s.modClk f).job = s.job := rfl

@[simp] theorem modClk_ldg (s : State) (f : Clocks → Clocks) : (s.modClk f).ldg = s.ldg := rfl

@[simp] theorem modClk_cap (s : State) (f : Clocks → Clocks) : (s.modClk f).cap = s.cap := rfl

@[simp] theorem modClk_pwr (s : State) (f : Clocks → Clocks) : (s.modClk f).pwr = s.pwr := rfl

@[simp] theorem modClk_dm (s : State) (f : Clocks → Clocks) : (s.modClk f).dm = s.dm := rfl

@[simp] theorem modClk_nv (s : State) (f : Clocks → Clocks) : (s.modClk f).nv = s.nv := rfl

@[simp] theorem modClk_afe (s : State) (f : Clocks → Clocks) : (s.modClk f).afe = s.afe := rfl

@[simp] theorem modClk_flt (s : State) (f : Clocks → Clocks) : (s.modClk f).flt = s.flt := rfl

@[simp] theorem modClk_aux (s : State) (f : Clocks → Clocks) : (s.modClk f).aux = s.aux := rfl

@[simp] theorem modClk_pe (s : State) (f : Clocks → Clocks) : (s.modClk f).pe = s.pe := rfl

@[simp] theorem modClk_trk (s : State) (f : Clocks → Clocks) : (s.modClk f).trk = s.trk := rfl

@[simp] theorem modClk_sch (s : State) (f : Clocks → Clocks) : (s.modClk f).sch = s.sch := rfl

@[simp] theorem modClk_fst (s : State) (f : Clocks → Clocks) : (s.modClk f).fst = s.fst := rfl

@[simp] theorem modClk_fio (s : State) (f : Clocks → Clocks) : (s.modClk f).fio = s.fio := rfl

@[simp] theorem modClk_ptp (s : State) (f : Clocks → Clocks) : (s.modClk f).ptp = s.ptp := rfl

@[simp] theorem modClk_svc (s : State) (f : Clocks → Clocks) : (s.modClk f).svc = s.svc := rfl

@[simp] theorem modClk_chn (s : State) (f : Clocks → Clocks) : (s.modClk f).chn = s.chn := rfl

@[simp] theorem modClk_hng (s : State) (f : Clocks → Clocks) : (s.modClk f).hng = s.hng := rfl

@[simp] theorem modClk_regs (s : State) (f : Clocks → Clocks) : (s.modClk f).regs = s.regs := rfl

@[simp] theorem modClk_defer (s : State) (f : Clocks → Clocks) : (s.modClk f).defer = s.defer := rfl

@[simp] theorem modClk_mram (s : State) (f : Clocks → Clocks) : (s.modClk f).mram = s.mram := rfl

@[simp] theorem modClk_pending (s : State) (f : Clocks → Clocks) : (s.modClk f).pending = s.pending := rfl

@[simp] theorem modClk_free (s : State) (f : Clocks → Clocks) : (s.modClk f).free = s.free := rfl

@[simp] theorem modPwr_pwr (s : State) (f : Power → Power) : (s.modPwr f).pwr = f s.pwr := rfl

@[simp] theorem modPwr_sys (s : State) (f : Power → Power) : (s.modPwr f).sys = s.sys := rfl

@[simp] theorem modPwr_host (s : State) (f : Power → Power) : (s.modPwr f).host = s.host := rfl

@[simp] theorem modPwr_key (s : State) (f : Power → Power) : (s.modPwr f).key = s.key := rfl

@[simp] theorem modPwr_job (s : State) (f : Power → Power) : (s.modPwr f).job = s.job := rfl

@[simp] theorem modPwr_ldg (s : State) (f : Power → Power) : (s.modPwr f).ldg = s.ldg := rfl

@[simp] theorem modPwr_cap (s : State) (f : Power → Power) : (s.modPwr f).cap = s.cap := rfl

@[simp] theorem modPwr_clk (s : State) (f : Power → Power) : (s.modPwr f).clk = s.clk := rfl

@[simp] theorem modPwr_dm (s : State) (f : Power → Power) : (s.modPwr f).dm = s.dm := rfl

@[simp] theorem modPwr_nv (s : State) (f : Power → Power) : (s.modPwr f).nv = s.nv := rfl

@[simp] theorem modPwr_afe (s : State) (f : Power → Power) : (s.modPwr f).afe = s.afe := rfl

@[simp] theorem modPwr_flt (s : State) (f : Power → Power) : (s.modPwr f).flt = s.flt := rfl

@[simp] theorem modPwr_aux (s : State) (f : Power → Power) : (s.modPwr f).aux = s.aux := rfl

@[simp] theorem modPwr_pe (s : State) (f : Power → Power) : (s.modPwr f).pe = s.pe := rfl

@[simp] theorem modPwr_trk (s : State) (f : Power → Power) : (s.modPwr f).trk = s.trk := rfl

@[simp] theorem modPwr_sch (s : State) (f : Power → Power) : (s.modPwr f).sch = s.sch := rfl

@[simp] theorem modPwr_fst (s : State) (f : Power → Power) : (s.modPwr f).fst = s.fst := rfl

@[simp] theorem modPwr_fio (s : State) (f : Power → Power) : (s.modPwr f).fio = s.fio := rfl

@[simp] theorem modPwr_ptp (s : State) (f : Power → Power) : (s.modPwr f).ptp = s.ptp := rfl

@[simp] theorem modPwr_svc (s : State) (f : Power → Power) : (s.modPwr f).svc = s.svc := rfl

@[simp] theorem modPwr_chn (s : State) (f : Power → Power) : (s.modPwr f).chn = s.chn := rfl

@[simp] theorem modPwr_hng (s : State) (f : Power → Power) : (s.modPwr f).hng = s.hng := rfl

@[simp] theorem modPwr_regs (s : State) (f : Power → Power) : (s.modPwr f).regs = s.regs := rfl

@[simp] theorem modPwr_defer (s : State) (f : Power → Power) : (s.modPwr f).defer = s.defer := rfl

@[simp] theorem modPwr_mram (s : State) (f : Power → Power) : (s.modPwr f).mram = s.mram := rfl

@[simp] theorem modPwr_pending (s : State) (f : Power → Power) : (s.modPwr f).pending = s.pending := rfl

@[simp] theorem modPwr_free (s : State) (f : Power → Power) : (s.modPwr f).free = s.free := rfl

@[simp] theorem modDm_dm (s : State) (f : Defects → Defects) : (s.modDm f).dm = f s.dm := rfl

@[simp] theorem modDm_sys (s : State) (f : Defects → Defects) : (s.modDm f).sys = s.sys := rfl

@[simp] theorem modDm_host (s : State) (f : Defects → Defects) : (s.modDm f).host = s.host := rfl

@[simp] theorem modDm_key (s : State) (f : Defects → Defects) : (s.modDm f).key = s.key := rfl

@[simp] theorem modDm_job (s : State) (f : Defects → Defects) : (s.modDm f).job = s.job := rfl

@[simp] theorem modDm_ldg (s : State) (f : Defects → Defects) : (s.modDm f).ldg = s.ldg := rfl

@[simp] theorem modDm_cap (s : State) (f : Defects → Defects) : (s.modDm f).cap = s.cap := rfl

@[simp] theorem modDm_clk (s : State) (f : Defects → Defects) : (s.modDm f).clk = s.clk := rfl

@[simp] theorem modDm_pwr (s : State) (f : Defects → Defects) : (s.modDm f).pwr = s.pwr := rfl

@[simp] theorem modDm_nv (s : State) (f : Defects → Defects) : (s.modDm f).nv = s.nv := rfl

@[simp] theorem modDm_afe (s : State) (f : Defects → Defects) : (s.modDm f).afe = s.afe := rfl

@[simp] theorem modDm_flt (s : State) (f : Defects → Defects) : (s.modDm f).flt = s.flt := rfl

@[simp] theorem modDm_aux (s : State) (f : Defects → Defects) : (s.modDm f).aux = s.aux := rfl

@[simp] theorem modDm_pe (s : State) (f : Defects → Defects) : (s.modDm f).pe = s.pe := rfl

@[simp] theorem modDm_trk (s : State) (f : Defects → Defects) : (s.modDm f).trk = s.trk := rfl

@[simp] theorem modDm_sch (s : State) (f : Defects → Defects) : (s.modDm f).sch = s.sch := rfl

@[simp] theorem modDm_fst (s : State) (f : Defects → Defects) : (s.modDm f).fst = s.fst := rfl

@[simp] theorem modDm_fio (s : State) (f : Defects → Defects) : (s.modDm f).fio = s.fio := rfl

@[simp] theorem modDm_ptp (s : State) (f : Defects → Defects) : (s.modDm f).ptp = s.ptp := rfl

@[simp] theorem modDm_svc (s : State) (f : Defects → Defects) : (s.modDm f).svc = s.svc := rfl

@[simp] theorem modDm_chn (s : State) (f : Defects → Defects) : (s.modDm f).chn = s.chn := rfl

@[simp] theorem modDm_hng (s : State) (f : Defects → Defects) : (s.modDm f).hng = s.hng := rfl

@[simp] theorem modDm_regs (s : State) (f : Defects → Defects) : (s.modDm f).regs = s.regs := rfl

@[simp] theorem modDm_defer (s : State) (f : Defects → Defects) : (s.modDm f).defer = s.defer := rfl

@[simp] theorem modDm_mram (s : State) (f : Defects → Defects) : (s.modDm f).mram = s.mram := rfl

@[simp] theorem modDm_pending (s : State) (f : Defects → Defects) : (s.modDm f).pending = s.pending := rfl

@[simp] theorem modDm_free (s : State) (f : Defects → Defects) : (s.modDm f).free = s.free := rfl

@[simp] theorem modAux_aux (s : State) (f : Aux → Aux) : (s.modAux f).aux = f s.aux := rfl

@[simp] theorem modAux_sys (s : State) (f : Aux → Aux) : (s.modAux f).sys = s.sys := rfl

@[simp] theorem modAux_host (s : State) (f : Aux → Aux) : (s.modAux f).host = s.host := rfl

@[simp] theorem modAux_key (s : State) (f : Aux → Aux) : (s.modAux f).key = s.key := rfl

@[simp] theorem modAux_job (s : State) (f : Aux → Aux) : (s.modAux f).job = s.job := rfl

@[simp] theorem modAux_ldg (s : State) (f : Aux → Aux) : (s.modAux f).ldg = s.ldg := rfl

@[simp] theorem modAux_cap (s : State) (f : Aux → Aux) : (s.modAux f).cap = s.cap := rfl

@[simp] theorem modAux_clk (s : State) (f : Aux → Aux) : (s.modAux f).clk = s.clk := rfl

@[simp] theorem modAux_pwr (s : State) (f : Aux → Aux) : (s.modAux f).pwr = s.pwr := rfl

@[simp] theorem modAux_dm (s : State) (f : Aux → Aux) : (s.modAux f).dm = s.dm := rfl

@[simp] theorem modAux_nv (s : State) (f : Aux → Aux) : (s.modAux f).nv = s.nv := rfl

@[simp] theorem modAux_afe (s : State) (f : Aux → Aux) : (s.modAux f).afe = s.afe := rfl

@[simp] theorem modAux_flt (s : State) (f : Aux → Aux) : (s.modAux f).flt = s.flt := rfl

@[simp] theorem modAux_pe (s : State) (f : Aux → Aux) : (s.modAux f).pe = s.pe := rfl

@[simp] theorem modAux_trk (s : State) (f : Aux → Aux) : (s.modAux f).trk = s.trk := rfl

@[simp] theorem modAux_sch (s : State) (f : Aux → Aux) : (s.modAux f).sch = s.sch := rfl

@[simp] theorem modAux_fst (s : State) (f : Aux → Aux) : (s.modAux f).fst = s.fst := rfl

@[simp] theorem modAux_fio (s : State) (f : Aux → Aux) : (s.modAux f).fio = s.fio := rfl

@[simp] theorem modAux_ptp (s : State) (f : Aux → Aux) : (s.modAux f).ptp = s.ptp := rfl

@[simp] theorem modAux_svc (s : State) (f : Aux → Aux) : (s.modAux f).svc = s.svc := rfl

@[simp] theorem modAux_chn (s : State) (f : Aux → Aux) : (s.modAux f).chn = s.chn := rfl

@[simp] theorem modAux_hng (s : State) (f : Aux → Aux) : (s.modAux f).hng = s.hng := rfl

@[simp] theorem modAux_regs (s : State) (f : Aux → Aux) : (s.modAux f).regs = s.regs := rfl

@[simp] theorem modAux_defer (s : State) (f : Aux → Aux) : (s.modAux f).defer = s.defer := rfl

@[simp] theorem modAux_mram (s : State) (f : Aux → Aux) : (s.modAux f).mram = s.mram := rfl

@[simp] theorem modAux_pending (s : State) (f : Aux → Aux) : (s.modAux f).pending = s.pending := rfl

@[simp] theorem modAux_free (s : State) (f : Aux → Aux) : (s.modAux f).free = s.free := rfl

@[simp] theorem modPe_pe (s : State) (f : Engines → Engines) : (s.modPe f).pe = f s.pe := rfl

@[simp] theorem modPe_sys (s : State) (f : Engines → Engines) : (s.modPe f).sys = s.sys := rfl

@[simp] theorem modPe_host (s : State) (f : Engines → Engines) : (s.modPe f).host = s.host := rfl

@[simp] theorem modPe_key (s : State) (f : Engines → Engines) : (s.modPe f).key = s.key := rfl

@[simp] theorem modPe_job (s : State) (f : Engines → Engines) : (s.modPe f).job = s.job := rfl

@[simp] theorem modPe_ldg (s : State) (f : Engines → Engines) : (s.modPe f).ldg = s.ldg := rfl

@[simp] theorem modPe_cap (s : State) (f : Engines → Engines) : (s.modPe f).cap = s.cap := rfl

@[simp] theorem modPe_clk (s : State) (f : Engines → Engines) : (s.modPe f).clk = s.clk := rfl

@[simp] theorem modPe_pwr (s : State) (f : Engines → Engines) : (s.modPe f).pwr = s.pwr := rfl

@[simp] theorem modPe_dm (s : State) (f : Engines → Engines) : (s.modPe f).dm = s.dm := rfl

@[simp] theorem modPe_nv (s : State) (f : Engines → Engines) : (s.modPe f).nv = s.nv := rfl

@[simp] theorem modPe_afe (s : State) (f : Engines → Engines) : (s.modPe f).afe = s.afe := rfl

@[simp] theorem modPe_flt (s : State) (f : Engines → Engines) : (s.modPe f).flt = s.flt := rfl

@[simp] theorem modPe_aux (s : State) (f : Engines → Engines) : (s.modPe f).aux = s.aux := rfl

@[simp] theorem modPe_trk (s : State) (f : Engines → Engines) : (s.modPe f).trk = s.trk := rfl

@[simp] theorem modPe_sch (s : State) (f : Engines → Engines) : (s.modPe f).sch = s.sch := rfl

@[simp] theorem modPe_fst (s : State) (f : Engines → Engines) : (s.modPe f).fst = s.fst := rfl

@[simp] theorem modPe_fio (s : State) (f : Engines → Engines) : (s.modPe f).fio = s.fio := rfl

@[simp] theorem modPe_ptp (s : State) (f : Engines → Engines) : (s.modPe f).ptp = s.ptp := rfl

@[simp] theorem modPe_svc (s : State) (f : Engines → Engines) : (s.modPe f).svc = s.svc := rfl

@[simp] theorem modPe_chn (s : State) (f : Engines → Engines) : (s.modPe f).chn = s.chn := rfl

@[simp] theorem modPe_hng (s : State) (f : Engines → Engines) : (s.modPe f).hng = s.hng := rfl

@[simp] theorem modPe_regs (s : State) (f : Engines → Engines) : (s.modPe f).regs = s.regs := rfl

@[simp] theorem modPe_defer (s : State) (f : Engines → Engines) : (s.modPe f).defer = s.defer := rfl

@[simp] theorem modPe_mram (s : State) (f : Engines → Engines) : (s.modPe f).mram = s.mram := rfl

@[simp] theorem modPe_pending (s : State) (f : Engines → Engines) : (s.modPe f).pending = s.pending := rfl

@[simp] theorem modPe_free (s : State) (f : Engines → Engines) : (s.modPe f).free = s.free := rfl

@[simp] theorem modSch_sch (s : State) (f : Scheme → Scheme) : (s.modSch f).sch = f s.sch := rfl

@[simp] theorem modSch_sys (s : State) (f : Scheme → Scheme) : (s.modSch f).sys = s.sys := rfl

@[simp] theorem modSch_host (s : State) (f : Scheme → Scheme) : (s.modSch f).host = s.host := rfl

@[simp] theorem modSch_key (s : State) (f : Scheme → Scheme) : (s.modSch f).key = s.key := rfl

@[simp] theorem modSch_job (s : State) (f : Scheme → Scheme) : (s.modSch f).job = s.job := rfl

@[simp] theorem modSch_ldg (s : State) (f : Scheme → Scheme) : (s.modSch f).ldg = s.ldg := rfl

@[simp] theorem modSch_cap (s : State) (f : Scheme → Scheme) : (s.modSch f).cap = s.cap := rfl

@[simp] theorem modSch_clk (s : State) (f : Scheme → Scheme) : (s.modSch f).clk = s.clk := rfl

@[simp] theorem modSch_pwr (s : State) (f : Scheme → Scheme) : (s.modSch f).pwr = s.pwr := rfl

@[simp] theorem modSch_dm (s : State) (f : Scheme → Scheme) : (s.modSch f).dm = s.dm := rfl

@[simp] theorem modSch_nv (s : State) (f : Scheme → Scheme) : (s.modSch f).nv = s.nv := rfl

@[simp] theorem modSch_afe (s : State) (f : Scheme → Scheme) : (s.modSch f).afe = s.afe := rfl

@[simp] theorem modSch_flt (s : State) (f : Scheme → Scheme) : (s.modSch f).flt = s.flt := rfl

@[simp] theorem modSch_aux (s : State) (f : Scheme → Scheme) : (s.modSch f).aux = s.aux := rfl

@[simp] theorem modSch_pe (s : State) (f : Scheme → Scheme) : (s.modSch f).pe = s.pe := rfl

@[simp] theorem modSch_trk (s : State) (f : Scheme → Scheme) : (s.modSch f).trk = s.trk := rfl

@[simp] theorem modSch_fst (s : State) (f : Scheme → Scheme) : (s.modSch f).fst = s.fst := rfl

@[simp] theorem modSch_fio (s : State) (f : Scheme → Scheme) : (s.modSch f).fio = s.fio := rfl

@[simp] theorem modSch_ptp (s : State) (f : Scheme → Scheme) : (s.modSch f).ptp = s.ptp := rfl

@[simp] theorem modSch_svc (s : State) (f : Scheme → Scheme) : (s.modSch f).svc = s.svc := rfl

@[simp] theorem modSch_chn (s : State) (f : Scheme → Scheme) : (s.modSch f).chn = s.chn := rfl

@[simp] theorem modSch_hng (s : State) (f : Scheme → Scheme) : (s.modSch f).hng = s.hng := rfl

@[simp] theorem modSch_regs (s : State) (f : Scheme → Scheme) : (s.modSch f).regs = s.regs := rfl

@[simp] theorem modSch_defer (s : State) (f : Scheme → Scheme) : (s.modSch f).defer = s.defer := rfl

@[simp] theorem modSch_mram (s : State) (f : Scheme → Scheme) : (s.modSch f).mram = s.mram := rfl

@[simp] theorem modSch_pending (s : State) (f : Scheme → Scheme) : (s.modSch f).pending = s.pending := rfl

@[simp] theorem modSch_free (s : State) (f : Scheme → Scheme) : (s.modSch f).free = s.free := rfl

@[simp] theorem modFst_fst (s : State) (f : Fast → Fast) : (s.modFst f).fst = f s.fst := rfl

@[simp] theorem modFst_sys (s : State) (f : Fast → Fast) : (s.modFst f).sys = s.sys := rfl

@[simp] theorem modFst_host (s : State) (f : Fast → Fast) : (s.modFst f).host = s.host := rfl

@[simp] theorem modFst_key (s : State) (f : Fast → Fast) : (s.modFst f).key = s.key := rfl

@[simp] theorem modFst_job (s : State) (f : Fast → Fast) : (s.modFst f).job = s.job := rfl

@[simp] theorem modFst_ldg (s : State) (f : Fast → Fast) : (s.modFst f).ldg = s.ldg := rfl

@[simp] theorem modFst_cap (s : State) (f : Fast → Fast) : (s.modFst f).cap = s.cap := rfl

@[simp] theorem modFst_clk (s : State) (f : Fast → Fast) : (s.modFst f).clk = s.clk := rfl

@[simp] theorem modFst_pwr (s : State) (f : Fast → Fast) : (s.modFst f).pwr = s.pwr := rfl

@[simp] theorem modFst_dm (s : State) (f : Fast → Fast) : (s.modFst f).dm = s.dm := rfl

@[simp] theorem modFst_nv (s : State) (f : Fast → Fast) : (s.modFst f).nv = s.nv := rfl

@[simp] theorem modFst_afe (s : State) (f : Fast → Fast) : (s.modFst f).afe = s.afe := rfl

@[simp] theorem modFst_flt (s : State) (f : Fast → Fast) : (s.modFst f).flt = s.flt := rfl

@[simp] theorem modFst_aux (s : State) (f : Fast → Fast) : (s.modFst f).aux = s.aux := rfl

@[simp] theorem modFst_pe (s : State) (f : Fast → Fast) : (s.modFst f).pe = s.pe := rfl

@[simp] theorem modFst_trk (s : State) (f : Fast → Fast) : (s.modFst f).trk = s.trk := rfl

@[simp] theorem modFst_sch (s : State) (f : Fast → Fast) : (s.modFst f).sch = s.sch := rfl

@[simp] theorem modFst_fio (s : State) (f : Fast → Fast) : (s.modFst f).fio = s.fio := rfl

@[simp] theorem modFst_ptp (s : State) (f : Fast → Fast) : (s.modFst f).ptp = s.ptp := rfl

@[simp] theorem modFst_svc (s : State) (f : Fast → Fast) : (s.modFst f).svc = s.svc := rfl

@[simp] theorem modFst_chn (s : State) (f : Fast → Fast) : (s.modFst f).chn = s.chn := rfl

@[simp] theorem modFst_hng (s : State) (f : Fast → Fast) : (s.modFst f).hng = s.hng := rfl

@[simp] theorem modFst_regs (s : State) (f : Fast → Fast) : (s.modFst f).regs = s.regs := rfl

@[simp] theorem modFst_defer (s : State) (f : Fast → Fast) : (s.modFst f).defer = s.defer := rfl

@[simp] theorem modFst_mram (s : State) (f : Fast → Fast) : (s.modFst f).mram = s.mram := rfl

@[simp] theorem modFst_pending (s : State) (f : Fast → Fast) : (s.modFst f).pending = s.pending := rfl

@[simp] theorem modFst_free (s : State) (f : Fast → Fast) : (s.modFst f).free = s.free := rfl

@[simp] theorem modFio_fio (s : State) (f : Field → Field) : (s.modFio f).fio = f s.fio := rfl

@[simp] theorem modFio_sys (s : State) (f : Field → Field) : (s.modFio f).sys = s.sys := rfl

@[simp] theorem modFio_host (s : State) (f : Field → Field) : (s.modFio f).host = s.host := rfl

@[simp] theorem modFio_key (s : State) (f : Field → Field) : (s.modFio f).key = s.key := rfl

@[simp] theorem modFio_job (s : State) (f : Field → Field) : (s.modFio f).job = s.job := rfl

@[simp] theorem modFio_ldg (s : State) (f : Field → Field) : (s.modFio f).ldg = s.ldg := rfl

@[simp] theorem modFio_cap (s : State) (f : Field → Field) : (s.modFio f).cap = s.cap := rfl

@[simp] theorem modFio_clk (s : State) (f : Field → Field) : (s.modFio f).clk = s.clk := rfl

@[simp] theorem modFio_pwr (s : State) (f : Field → Field) : (s.modFio f).pwr = s.pwr := rfl

@[simp] theorem modFio_dm (s : State) (f : Field → Field) : (s.modFio f).dm = s.dm := rfl

@[simp] theorem modFio_nv (s : State) (f : Field → Field) : (s.modFio f).nv = s.nv := rfl

@[simp] theorem modFio_afe (s : State) (f : Field → Field) : (s.modFio f).afe = s.afe := rfl

@[simp] theorem modFio_flt (s : State) (f : Field → Field) : (s.modFio f).flt = s.flt := rfl

@[simp] theorem modFio_aux (s : State) (f : Field → Field) : (s.modFio f).aux = s.aux := rfl

@[simp] theorem modFio_pe (s : State) (f : Field → Field) : (s.modFio f).pe = s.pe := rfl

@[simp] theorem modFio_trk (s : State) (f : Field → Field) : (s.modFio f).trk = s.trk := rfl

@[simp] theorem modFio_sch (s : State) (f : Field → Field) : (s.modFio f).sch = s.sch := rfl

@[simp] theorem modFio_fst (s : State) (f : Field → Field) : (s.modFio f).fst = s.fst := rfl

@[simp] theorem modFio_ptp (s : State) (f : Field → Field) : (s.modFio f).ptp = s.ptp := rfl

@[simp] theorem modFio_svc (s : State) (f : Field → Field) : (s.modFio f).svc = s.svc := rfl

@[simp] theorem modFio_chn (s : State) (f : Field → Field) : (s.modFio f).chn = s.chn := rfl

@[simp] theorem modFio_hng (s : State) (f : Field → Field) : (s.modFio f).hng = s.hng := rfl

@[simp] theorem modFio_regs (s : State) (f : Field → Field) : (s.modFio f).regs = s.regs := rfl

@[simp] theorem modFio_defer (s : State) (f : Field → Field) : (s.modFio f).defer = s.defer := rfl

@[simp] theorem modFio_mram (s : State) (f : Field → Field) : (s.modFio f).mram = s.mram := rfl

@[simp] theorem modFio_pending (s : State) (f : Field → Field) : (s.modFio f).pending = s.pending := rfl

@[simp] theorem modFio_free (s : State) (f : Field → Field) : (s.modFio f).free = s.free := rfl

@[simp] theorem modPtp_ptp (s : State) (f : Ptp → Ptp) : (s.modPtp f).ptp = f s.ptp := rfl

@[simp] theorem modPtp_sys (s : State) (f : Ptp → Ptp) : (s.modPtp f).sys = s.sys := rfl

@[simp] theorem modPtp_host (s : State) (f : Ptp → Ptp) : (s.modPtp f).host = s.host := rfl

@[simp] theorem modPtp_key (s : State) (f : Ptp → Ptp) : (s.modPtp f).key = s.key := rfl

@[simp] theorem modPtp_job (s : State) (f : Ptp → Ptp) : (s.modPtp f).job = s.job := rfl

@[simp] theorem modPtp_ldg (s : State) (f : Ptp → Ptp) : (s.modPtp f).ldg = s.ldg := rfl

@[simp] theorem modPtp_cap (s : State) (f : Ptp → Ptp) : (s.modPtp f).cap = s.cap := rfl

@[simp] theorem modPtp_clk (s : State) (f : Ptp → Ptp) : (s.modPtp f).clk = s.clk := rfl

@[simp] theorem modPtp_pwr (s : State) (f : Ptp → Ptp) : (s.modPtp f).pwr = s.pwr := rfl

@[simp] theorem modPtp_dm (s : State) (f : Ptp → Ptp) : (s.modPtp f).dm = s.dm := rfl

@[simp] theorem modPtp_nv (s : State) (f : Ptp → Ptp) : (s.modPtp f).nv = s.nv := rfl

@[simp] theorem modPtp_afe (s : State) (f : Ptp → Ptp) : (s.modPtp f).afe = s.afe := rfl

@[simp] theorem modPtp_flt (s : State) (f : Ptp → Ptp) : (s.modPtp f).flt = s.flt := rfl

@[simp] theorem modPtp_aux (s : State) (f : Ptp → Ptp) : (s.modPtp f).aux = s.aux := rfl

@[simp] theorem modPtp_pe (s : State) (f : Ptp → Ptp) : (s.modPtp f).pe = s.pe := rfl

@[simp] theorem modPtp_trk (s : State) (f : Ptp → Ptp) : (s.modPtp f).trk = s.trk := rfl

@[simp] theorem modPtp_sch (s : State) (f : Ptp → Ptp) : (s.modPtp f).sch = s.sch := rfl

@[simp] theorem modPtp_fst (s : State) (f : Ptp → Ptp) : (s.modPtp f).fst = s.fst := rfl

@[simp] theorem modPtp_fio (s : State) (f : Ptp → Ptp) : (s.modPtp f).fio = s.fio := rfl

@[simp] theorem modPtp_svc (s : State) (f : Ptp → Ptp) : (s.modPtp f).svc = s.svc := rfl

@[simp] theorem modPtp_chn (s : State) (f : Ptp → Ptp) : (s.modPtp f).chn = s.chn := rfl

@[simp] theorem modPtp_hng (s : State) (f : Ptp → Ptp) : (s.modPtp f).hng = s.hng := rfl

@[simp] theorem modPtp_regs (s : State) (f : Ptp → Ptp) : (s.modPtp f).regs = s.regs := rfl

@[simp] theorem modPtp_defer (s : State) (f : Ptp → Ptp) : (s.modPtp f).defer = s.defer := rfl

@[simp] theorem modPtp_mram (s : State) (f : Ptp → Ptp) : (s.modPtp f).mram = s.mram := rfl

@[simp] theorem modPtp_pending (s : State) (f : Ptp → Ptp) : (s.modPtp f).pending = s.pending := rfl

@[simp] theorem modPtp_free (s : State) (f : Ptp → Ptp) : (s.modPtp f).free = s.free := rfl

@[simp] theorem modSvc_svc (s : State) (f : Svc → Svc) : (s.modSvc f).svc = f s.svc := rfl

@[simp] theorem modSvc_sys (s : State) (f : Svc → Svc) : (s.modSvc f).sys = s.sys := rfl

@[simp] theorem modSvc_host (s : State) (f : Svc → Svc) : (s.modSvc f).host = s.host := rfl

@[simp] theorem modSvc_key (s : State) (f : Svc → Svc) : (s.modSvc f).key = s.key := rfl

@[simp] theorem modSvc_job (s : State) (f : Svc → Svc) : (s.modSvc f).job = s.job := rfl

@[simp] theorem modSvc_ldg (s : State) (f : Svc → Svc) : (s.modSvc f).ldg = s.ldg := rfl

@[simp] theorem modSvc_cap (s : State) (f : Svc → Svc) : (s.modSvc f).cap = s.cap := rfl

@[simp] theorem modSvc_clk (s : State) (f : Svc → Svc) : (s.modSvc f).clk = s.clk := rfl

@[simp] theorem modSvc_pwr (s : State) (f : Svc → Svc) : (s.modSvc f).pwr = s.pwr := rfl

@[simp] theorem modSvc_dm (s : State) (f : Svc → Svc) : (s.modSvc f).dm = s.dm := rfl

@[simp] theorem modSvc_nv (s : State) (f : Svc → Svc) : (s.modSvc f).nv = s.nv := rfl

@[simp] theorem modSvc_afe (s : State) (f : Svc → Svc) : (s.modSvc f).afe = s.afe := rfl

@[simp] theorem modSvc_flt (s : State) (f : Svc → Svc) : (s.modSvc f).flt = s.flt := rfl

@[simp] theorem modSvc_aux (s : State) (f : Svc → Svc) : (s.modSvc f).aux = s.aux := rfl

@[simp] theorem modSvc_pe (s : State) (f : Svc → Svc) : (s.modSvc f).pe = s.pe := rfl

@[simp] theorem modSvc_trk (s : State) (f : Svc → Svc) : (s.modSvc f).trk = s.trk := rfl

@[simp] theorem modSvc_sch (s : State) (f : Svc → Svc) : (s.modSvc f).sch = s.sch := rfl

@[simp] theorem modSvc_fst (s : State) (f : Svc → Svc) : (s.modSvc f).fst = s.fst := rfl

@[simp] theorem modSvc_fio (s : State) (f : Svc → Svc) : (s.modSvc f).fio = s.fio := rfl

@[simp] theorem modSvc_ptp (s : State) (f : Svc → Svc) : (s.modSvc f).ptp = s.ptp := rfl

@[simp] theorem modSvc_chn (s : State) (f : Svc → Svc) : (s.modSvc f).chn = s.chn := rfl

@[simp] theorem modSvc_hng (s : State) (f : Svc → Svc) : (s.modSvc f).hng = s.hng := rfl

@[simp] theorem modSvc_regs (s : State) (f : Svc → Svc) : (s.modSvc f).regs = s.regs := rfl

@[simp] theorem modSvc_defer (s : State) (f : Svc → Svc) : (s.modSvc f).defer = s.defer := rfl

@[simp] theorem modSvc_mram (s : State) (f : Svc → Svc) : (s.modSvc f).mram = s.mram := rfl

@[simp] theorem modSvc_pending (s : State) (f : Svc → Svc) : (s.modSvc f).pending = s.pending := rfl

@[simp] theorem modSvc_free (s : State) (f : Svc → Svc) : (s.modSvc f).free = s.free := rfl

@[simp] theorem modChn_chn (s : State) (f : Chain → Chain) : (s.modChn f).chn = f s.chn := rfl

@[simp] theorem modChn_sys (s : State) (f : Chain → Chain) : (s.modChn f).sys = s.sys := rfl

@[simp] theorem modChn_host (s : State) (f : Chain → Chain) : (s.modChn f).host = s.host := rfl

@[simp] theorem modChn_key (s : State) (f : Chain → Chain) : (s.modChn f).key = s.key := rfl

@[simp] theorem modChn_job (s : State) (f : Chain → Chain) : (s.modChn f).job = s.job := rfl

@[simp] theorem modChn_ldg (s : State) (f : Chain → Chain) : (s.modChn f).ldg = s.ldg := rfl

@[simp] theorem modChn_cap (s : State) (f : Chain → Chain) : (s.modChn f).cap = s.cap := rfl

@[simp] theorem modChn_clk (s : State) (f : Chain → Chain) : (s.modChn f).clk = s.clk := rfl

@[simp] theorem modChn_pwr (s : State) (f : Chain → Chain) : (s.modChn f).pwr = s.pwr := rfl

@[simp] theorem modChn_dm (s : State) (f : Chain → Chain) : (s.modChn f).dm = s.dm := rfl

@[simp] theorem modChn_nv (s : State) (f : Chain → Chain) : (s.modChn f).nv = s.nv := rfl

@[simp] theorem modChn_afe (s : State) (f : Chain → Chain) : (s.modChn f).afe = s.afe := rfl

@[simp] theorem modChn_flt (s : State) (f : Chain → Chain) : (s.modChn f).flt = s.flt := rfl

@[simp] theorem modChn_aux (s : State) (f : Chain → Chain) : (s.modChn f).aux = s.aux := rfl

@[simp] theorem modChn_pe (s : State) (f : Chain → Chain) : (s.modChn f).pe = s.pe := rfl

@[simp] theorem modChn_trk (s : State) (f : Chain → Chain) : (s.modChn f).trk = s.trk := rfl

@[simp] theorem modChn_sch (s : State) (f : Chain → Chain) : (s.modChn f).sch = s.sch := rfl

@[simp] theorem modChn_fst (s : State) (f : Chain → Chain) : (s.modChn f).fst = s.fst := rfl

@[simp] theorem modChn_fio (s : State) (f : Chain → Chain) : (s.modChn f).fio = s.fio := rfl

@[simp] theorem modChn_ptp (s : State) (f : Chain → Chain) : (s.modChn f).ptp = s.ptp := rfl

@[simp] theorem modChn_svc (s : State) (f : Chain → Chain) : (s.modChn f).svc = s.svc := rfl

@[simp] theorem modChn_hng (s : State) (f : Chain → Chain) : (s.modChn f).hng = s.hng := rfl

@[simp] theorem modChn_regs (s : State) (f : Chain → Chain) : (s.modChn f).regs = s.regs := rfl

@[simp] theorem modChn_defer (s : State) (f : Chain → Chain) : (s.modChn f).defer = s.defer := rfl

@[simp] theorem modChn_mram (s : State) (f : Chain → Chain) : (s.modChn f).mram = s.mram := rfl

@[simp] theorem modChn_pending (s : State) (f : Chain → Chain) : (s.modChn f).pending = s.pending := rfl

@[simp] theorem modChn_free (s : State) (f : Chain → Chain) : (s.modChn f).free = s.free := rfl

@[simp] theorem modHng_hng (s : State) (f : Hinge → Hinge) : (s.modHng f).hng = f s.hng := rfl

@[simp] theorem modHng_sys (s : State) (f : Hinge → Hinge) : (s.modHng f).sys = s.sys := rfl

@[simp] theorem modHng_host (s : State) (f : Hinge → Hinge) : (s.modHng f).host = s.host := rfl

@[simp] theorem modHng_key (s : State) (f : Hinge → Hinge) : (s.modHng f).key = s.key := rfl

@[simp] theorem modHng_job (s : State) (f : Hinge → Hinge) : (s.modHng f).job = s.job := rfl

@[simp] theorem modHng_ldg (s : State) (f : Hinge → Hinge) : (s.modHng f).ldg = s.ldg := rfl

@[simp] theorem modHng_cap (s : State) (f : Hinge → Hinge) : (s.modHng f).cap = s.cap := rfl

@[simp] theorem modHng_clk (s : State) (f : Hinge → Hinge) : (s.modHng f).clk = s.clk := rfl

@[simp] theorem modHng_pwr (s : State) (f : Hinge → Hinge) : (s.modHng f).pwr = s.pwr := rfl

@[simp] theorem modHng_dm (s : State) (f : Hinge → Hinge) : (s.modHng f).dm = s.dm := rfl

@[simp] theorem modHng_nv (s : State) (f : Hinge → Hinge) : (s.modHng f).nv = s.nv := rfl

@[simp] theorem modHng_afe (s : State) (f : Hinge → Hinge) : (s.modHng f).afe = s.afe := rfl

@[simp] theorem modHng_flt (s : State) (f : Hinge → Hinge) : (s.modHng f).flt = s.flt := rfl

@[simp] theorem modHng_aux (s : State) (f : Hinge → Hinge) : (s.modHng f).aux = s.aux := rfl

@[simp] theorem modHng_pe (s : State) (f : Hinge → Hinge) : (s.modHng f).pe = s.pe := rfl

@[simp] theorem modHng_trk (s : State) (f : Hinge → Hinge) : (s.modHng f).trk = s.trk := rfl

@[simp] theorem modHng_sch (s : State) (f : Hinge → Hinge) : (s.modHng f).sch = s.sch := rfl

@[simp] theorem modHng_fst (s : State) (f : Hinge → Hinge) : (s.modHng f).fst = s.fst := rfl

@[simp] theorem modHng_fio (s : State) (f : Hinge → Hinge) : (s.modHng f).fio = s.fio := rfl

@[simp] theorem modHng_ptp (s : State) (f : Hinge → Hinge) : (s.modHng f).ptp = s.ptp := rfl

@[simp] theorem modHng_svc (s : State) (f : Hinge → Hinge) : (s.modHng f).svc = s.svc := rfl

@[simp] theorem modHng_chn (s : State) (f : Hinge → Hinge) : (s.modHng f).chn = s.chn := rfl

@[simp] theorem modHng_regs (s : State) (f : Hinge → Hinge) : (s.modHng f).regs = s.regs := rfl

@[simp] theorem modHng_defer (s : State) (f : Hinge → Hinge) : (s.modHng f).defer = s.defer := rfl

@[simp] theorem modHng_mram (s : State) (f : Hinge → Hinge) : (s.modHng f).mram = s.mram := rfl

@[simp] theorem modHng_pending (s : State) (f : Hinge → Hinge) : (s.modHng f).pending = s.pending := rfl

@[simp] theorem modHng_free (s : State) (f : Hinge → Hinge) : (s.modHng f).free = s.free := rfl

@[simp] theorem modJob_job (s : State) (f : Jobs → Jobs) : (s.modJob f).job = f s.job := rfl

@[simp] theorem modJob_sys (s : State) (f : Jobs → Jobs) : (s.modJob f).sys = s.sys := rfl

@[simp] theorem modJob_host (s : State) (f : Jobs → Jobs) : (s.modJob f).host = s.host := rfl

@[simp] theorem modJob_key (s : State) (f : Jobs → Jobs) : (s.modJob f).key = s.key := rfl

@[simp] theorem modJob_ldg (s : State) (f : Jobs → Jobs) : (s.modJob f).ldg = s.ldg := rfl

@[simp] theorem modJob_cap (s : State) (f : Jobs → Jobs) : (s.modJob f).cap = s.cap := rfl

@[simp] theorem modJob_clk (s : State) (f : Jobs → Jobs) : (s.modJob f).clk = s.clk := rfl

@[simp] theorem modJob_pwr (s : State) (f : Jobs → Jobs) : (s.modJob f).pwr = s.pwr := rfl

@[simp] theorem modJob_dm (s : State) (f : Jobs → Jobs) : (s.modJob f).dm = s.dm := rfl

@[simp] theorem modJob_nv (s : State) (f : Jobs → Jobs) : (s.modJob f).nv = s.nv := rfl

@[simp] theorem modJob_afe (s : State) (f : Jobs → Jobs) : (s.modJob f).afe = s.afe := rfl

@[simp] theorem modJob_flt (s : State) (f : Jobs → Jobs) : (s.modJob f).flt = s.flt := rfl

@[simp] theorem modJob_aux (s : State) (f : Jobs → Jobs) : (s.modJob f).aux = s.aux := rfl

@[simp] theorem modJob_pe (s : State) (f : Jobs → Jobs) : (s.modJob f).pe = s.pe := rfl

@[simp] theorem modJob_trk (s : State) (f : Jobs → Jobs) : (s.modJob f).trk = s.trk := rfl

@[simp] theorem modJob_sch (s : State) (f : Jobs → Jobs) : (s.modJob f).sch = s.sch := rfl

@[simp] theorem modJob_fst (s : State) (f : Jobs → Jobs) : (s.modJob f).fst = s.fst := rfl

@[simp] theorem modJob_fio (s : State) (f : Jobs → Jobs) : (s.modJob f).fio = s.fio := rfl

@[simp] theorem modJob_ptp (s : State) (f : Jobs → Jobs) : (s.modJob f).ptp = s.ptp := rfl

@[simp] theorem modJob_svc (s : State) (f : Jobs → Jobs) : (s.modJob f).svc = s.svc := rfl

@[simp] theorem modJob_chn (s : State) (f : Jobs → Jobs) : (s.modJob f).chn = s.chn := rfl

@[simp] theorem modJob_hng (s : State) (f : Jobs → Jobs) : (s.modJob f).hng = s.hng := rfl

@[simp] theorem modJob_regs (s : State) (f : Jobs → Jobs) : (s.modJob f).regs = s.regs := rfl

@[simp] theorem modJob_defer (s : State) (f : Jobs → Jobs) : (s.modJob f).defer = s.defer := rfl

@[simp] theorem modJob_mram (s : State) (f : Jobs → Jobs) : (s.modJob f).mram = s.mram := rfl

@[simp] theorem modJob_pending (s : State) (f : Jobs → Jobs) : (s.modJob f).pending = s.pending := rfl

@[simp] theorem modJob_free (s : State) (f : Jobs → Jobs) : (s.modJob f).free = s.free := rfl

/-! ### Elements -/

theorem bank_modBank (s : State) (i : Nat) (f : Bank → Bank) (h : i < s.afe.banks.length) : (s.modBank i f).bank i = f (s.bank i) := nth_modNth_self h

theorem bank_modBank_ne (s : State) (i j : Nat) (f : Bank → Bank) (h : i ≠ j) : (s.modBank i f).bank j = s.bank j := nth_modNth_ne h

theorem core_modCore (s : State) (i : Nat) (f : ConvCore → ConvCore) (h : i < s.afe.cores.length) : (s.modCore i f).core i = f (s.core i) := nth_modNth_self h

theorem core_modCore_ne (s : State) (i j : Nat) (f : ConvCore → ConvCore) (h : i ≠ j) : (s.modCore i f).core j = s.core j := nth_modNth_ne h

theorem afeCh_modAfeCh (s : State) (i : Nat) (f : AfeCh → AfeCh) (h : i < s.afe.ch.length) : (s.modAfeCh i f).afeCh i = f (s.afeCh i) := nth_modNth_self h

theorem afeCh_modAfeCh_ne (s : State) (i j : Nat) (f : AfeCh → AfeCh) (h : i ≠ j) : (s.modAfeCh i f).afeCh j = s.afeCh j := nth_modNth_ne h

theorem outp_modDo (s : State) (i : Nat) (f : DoSt → DoSt) (h : i < s.fio.dos.length) : (s.modDo i f).outp i = f (s.outp i) := nth_modNth_self h

theorem outp_modDo_ne (s : State) (i j : Nat) (f : DoSt → DoSt) (h : i ≠ j) : (s.modDo i f).outp j = s.outp j := nth_modNth_ne h

theorem cmp_modCmp (s : State) (i : Nat) (f : CmpSt → CmpSt) (h : i < s.fst.cmp.length) : (s.modCmp i f).cmp i = f (s.cmp i) := nth_modNth_self h

theorem cmp_modCmp_ne (s : State) (i j : Nat) (f : CmpSt → CmpSt) (h : i ≠ j) : (s.modCmp i f).cmp j = s.cmp j := nth_modNth_ne h

theorem mbox_modMbox (s : State) (i : Nat) (f : Mailbox → Mailbox) (h : i < s.chn.mbox.length) : (s.modMbox i f).mbox i = f (s.mbox i) := nth_modNth_self h

theorem mbox_modMbox_ne (s : State) (i j : Nat) (f : Mailbox → Mailbox) (h : i ≠ j) : (s.modMbox i f).mbox j = s.mbox j := nth_modNth_ne h

theorem port_modPort (s : State) (i : Nat) (f : ChnPort → ChnPort) (h : i < s.chn.ports.length) : (s.modPort i f).port i = f (s.port i) := nth_modNth_self h

theorem port_modPort_ne (s : State) (i j : Nat) (f : ChnPort → ChnPort) (h : i ≠ j) : (s.modPort i f).port j = s.port j := nth_modNth_ne h

theorem ctx_modCtx (s : State) (i : Nat) (f : CtxSt → CtxSt) (h : i < s.svc.ctx.length) : (s.modCtx i f).ctx i = f (s.ctx i) := nth_modNth_self h

theorem ctx_modCtx_ne (s : State) (i j : Nat) (f : CtxSt → CtxSt) (h : i ≠ j) : (s.modCtx i f).ctx j = s.ctx j := nth_modNth_ne h

@[simp] theorem modBank_sys (s : State) (i : Nat) (f : Bank → Bank) : (s.modBank i f).sys = s.sys := rfl

@[simp] theorem modBank_host (s : State) (i : Nat) (f : Bank → Bank) : (s.modBank i f).host = s.host := rfl

@[simp] theorem modBank_key (s : State) (i : Nat) (f : Bank → Bank) : (s.modBank i f).key = s.key := rfl

@[simp] theorem modBank_job (s : State) (i : Nat) (f : Bank → Bank) : (s.modBank i f).job = s.job := rfl

@[simp] theorem modBank_ldg (s : State) (i : Nat) (f : Bank → Bank) : (s.modBank i f).ldg = s.ldg := rfl

@[simp] theorem modBank_cap (s : State) (i : Nat) (f : Bank → Bank) : (s.modBank i f).cap = s.cap := rfl

@[simp] theorem modBank_clk (s : State) (i : Nat) (f : Bank → Bank) : (s.modBank i f).clk = s.clk := rfl

@[simp] theorem modBank_pwr (s : State) (i : Nat) (f : Bank → Bank) : (s.modBank i f).pwr = s.pwr := rfl

@[simp] theorem modBank_dm (s : State) (i : Nat) (f : Bank → Bank) : (s.modBank i f).dm = s.dm := rfl

@[simp] theorem modBank_nv (s : State) (i : Nat) (f : Bank → Bank) : (s.modBank i f).nv = s.nv := rfl

@[simp] theorem modBank_flt (s : State) (i : Nat) (f : Bank → Bank) : (s.modBank i f).flt = s.flt := rfl

@[simp] theorem modBank_aux (s : State) (i : Nat) (f : Bank → Bank) : (s.modBank i f).aux = s.aux := rfl

@[simp] theorem modBank_pe (s : State) (i : Nat) (f : Bank → Bank) : (s.modBank i f).pe = s.pe := rfl

@[simp] theorem modBank_trk (s : State) (i : Nat) (f : Bank → Bank) : (s.modBank i f).trk = s.trk := rfl

@[simp] theorem modBank_sch (s : State) (i : Nat) (f : Bank → Bank) : (s.modBank i f).sch = s.sch := rfl

@[simp] theorem modBank_fst (s : State) (i : Nat) (f : Bank → Bank) : (s.modBank i f).fst = s.fst := rfl

@[simp] theorem modBank_fio (s : State) (i : Nat) (f : Bank → Bank) : (s.modBank i f).fio = s.fio := rfl

@[simp] theorem modBank_ptp (s : State) (i : Nat) (f : Bank → Bank) : (s.modBank i f).ptp = s.ptp := rfl

@[simp] theorem modBank_svc (s : State) (i : Nat) (f : Bank → Bank) : (s.modBank i f).svc = s.svc := rfl

@[simp] theorem modBank_chn (s : State) (i : Nat) (f : Bank → Bank) : (s.modBank i f).chn = s.chn := rfl

@[simp] theorem modBank_hng (s : State) (i : Nat) (f : Bank → Bank) : (s.modBank i f).hng = s.hng := rfl

@[simp] theorem modBank_regs (s : State) (i : Nat) (f : Bank → Bank) : (s.modBank i f).regs = s.regs := rfl

@[simp] theorem modBank_defer (s : State) (i : Nat) (f : Bank → Bank) : (s.modBank i f).defer = s.defer := rfl

@[simp] theorem modBank_mram (s : State) (i : Nat) (f : Bank → Bank) : (s.modBank i f).mram = s.mram := rfl

@[simp] theorem modBank_pending (s : State) (i : Nat) (f : Bank → Bank) : (s.modBank i f).pending = s.pending := rfl

@[simp] theorem modBank_free (s : State) (i : Nat) (f : Bank → Bank) : (s.modBank i f).free = s.free := rfl

@[simp] theorem modCore_sys (s : State) (i : Nat) (f : ConvCore → ConvCore) : (s.modCore i f).sys = s.sys := rfl

@[simp] theorem modCore_host (s : State) (i : Nat) (f : ConvCore → ConvCore) : (s.modCore i f).host = s.host := rfl

@[simp] theorem modCore_key (s : State) (i : Nat) (f : ConvCore → ConvCore) : (s.modCore i f).key = s.key := rfl

@[simp] theorem modCore_job (s : State) (i : Nat) (f : ConvCore → ConvCore) : (s.modCore i f).job = s.job := rfl

@[simp] theorem modCore_ldg (s : State) (i : Nat) (f : ConvCore → ConvCore) : (s.modCore i f).ldg = s.ldg := rfl

@[simp] theorem modCore_cap (s : State) (i : Nat) (f : ConvCore → ConvCore) : (s.modCore i f).cap = s.cap := rfl

@[simp] theorem modCore_clk (s : State) (i : Nat) (f : ConvCore → ConvCore) : (s.modCore i f).clk = s.clk := rfl

@[simp] theorem modCore_pwr (s : State) (i : Nat) (f : ConvCore → ConvCore) : (s.modCore i f).pwr = s.pwr := rfl

@[simp] theorem modCore_dm (s : State) (i : Nat) (f : ConvCore → ConvCore) : (s.modCore i f).dm = s.dm := rfl

@[simp] theorem modCore_nv (s : State) (i : Nat) (f : ConvCore → ConvCore) : (s.modCore i f).nv = s.nv := rfl

@[simp] theorem modCore_flt (s : State) (i : Nat) (f : ConvCore → ConvCore) : (s.modCore i f).flt = s.flt := rfl

@[simp] theorem modCore_aux (s : State) (i : Nat) (f : ConvCore → ConvCore) : (s.modCore i f).aux = s.aux := rfl

@[simp] theorem modCore_pe (s : State) (i : Nat) (f : ConvCore → ConvCore) : (s.modCore i f).pe = s.pe := rfl

@[simp] theorem modCore_trk (s : State) (i : Nat) (f : ConvCore → ConvCore) : (s.modCore i f).trk = s.trk := rfl

@[simp] theorem modCore_sch (s : State) (i : Nat) (f : ConvCore → ConvCore) : (s.modCore i f).sch = s.sch := rfl

@[simp] theorem modCore_fst (s : State) (i : Nat) (f : ConvCore → ConvCore) : (s.modCore i f).fst = s.fst := rfl

@[simp] theorem modCore_fio (s : State) (i : Nat) (f : ConvCore → ConvCore) : (s.modCore i f).fio = s.fio := rfl

@[simp] theorem modCore_ptp (s : State) (i : Nat) (f : ConvCore → ConvCore) : (s.modCore i f).ptp = s.ptp := rfl

@[simp] theorem modCore_svc (s : State) (i : Nat) (f : ConvCore → ConvCore) : (s.modCore i f).svc = s.svc := rfl

@[simp] theorem modCore_chn (s : State) (i : Nat) (f : ConvCore → ConvCore) : (s.modCore i f).chn = s.chn := rfl

@[simp] theorem modCore_hng (s : State) (i : Nat) (f : ConvCore → ConvCore) : (s.modCore i f).hng = s.hng := rfl

@[simp] theorem modCore_regs (s : State) (i : Nat) (f : ConvCore → ConvCore) : (s.modCore i f).regs = s.regs := rfl

@[simp] theorem modCore_defer (s : State) (i : Nat) (f : ConvCore → ConvCore) : (s.modCore i f).defer = s.defer := rfl

@[simp] theorem modCore_mram (s : State) (i : Nat) (f : ConvCore → ConvCore) : (s.modCore i f).mram = s.mram := rfl

@[simp] theorem modCore_pending (s : State) (i : Nat) (f : ConvCore → ConvCore) : (s.modCore i f).pending = s.pending := rfl

@[simp] theorem modCore_free (s : State) (i : Nat) (f : ConvCore → ConvCore) : (s.modCore i f).free = s.free := rfl

@[simp] theorem modAfeCh_sys (s : State) (i : Nat) (f : AfeCh → AfeCh) : (s.modAfeCh i f).sys = s.sys := rfl

@[simp] theorem modAfeCh_host (s : State) (i : Nat) (f : AfeCh → AfeCh) : (s.modAfeCh i f).host = s.host := rfl

@[simp] theorem modAfeCh_key (s : State) (i : Nat) (f : AfeCh → AfeCh) : (s.modAfeCh i f).key = s.key := rfl

@[simp] theorem modAfeCh_job (s : State) (i : Nat) (f : AfeCh → AfeCh) : (s.modAfeCh i f).job = s.job := rfl

@[simp] theorem modAfeCh_ldg (s : State) (i : Nat) (f : AfeCh → AfeCh) : (s.modAfeCh i f).ldg = s.ldg := rfl

@[simp] theorem modAfeCh_cap (s : State) (i : Nat) (f : AfeCh → AfeCh) : (s.modAfeCh i f).cap = s.cap := rfl

@[simp] theorem modAfeCh_clk (s : State) (i : Nat) (f : AfeCh → AfeCh) : (s.modAfeCh i f).clk = s.clk := rfl

@[simp] theorem modAfeCh_pwr (s : State) (i : Nat) (f : AfeCh → AfeCh) : (s.modAfeCh i f).pwr = s.pwr := rfl

@[simp] theorem modAfeCh_dm (s : State) (i : Nat) (f : AfeCh → AfeCh) : (s.modAfeCh i f).dm = s.dm := rfl

@[simp] theorem modAfeCh_nv (s : State) (i : Nat) (f : AfeCh → AfeCh) : (s.modAfeCh i f).nv = s.nv := rfl

@[simp] theorem modAfeCh_flt (s : State) (i : Nat) (f : AfeCh → AfeCh) : (s.modAfeCh i f).flt = s.flt := rfl

@[simp] theorem modAfeCh_aux (s : State) (i : Nat) (f : AfeCh → AfeCh) : (s.modAfeCh i f).aux = s.aux := rfl

@[simp] theorem modAfeCh_pe (s : State) (i : Nat) (f : AfeCh → AfeCh) : (s.modAfeCh i f).pe = s.pe := rfl

@[simp] theorem modAfeCh_trk (s : State) (i : Nat) (f : AfeCh → AfeCh) : (s.modAfeCh i f).trk = s.trk := rfl

@[simp] theorem modAfeCh_sch (s : State) (i : Nat) (f : AfeCh → AfeCh) : (s.modAfeCh i f).sch = s.sch := rfl

@[simp] theorem modAfeCh_fst (s : State) (i : Nat) (f : AfeCh → AfeCh) : (s.modAfeCh i f).fst = s.fst := rfl

@[simp] theorem modAfeCh_fio (s : State) (i : Nat) (f : AfeCh → AfeCh) : (s.modAfeCh i f).fio = s.fio := rfl

@[simp] theorem modAfeCh_ptp (s : State) (i : Nat) (f : AfeCh → AfeCh) : (s.modAfeCh i f).ptp = s.ptp := rfl

@[simp] theorem modAfeCh_svc (s : State) (i : Nat) (f : AfeCh → AfeCh) : (s.modAfeCh i f).svc = s.svc := rfl

@[simp] theorem modAfeCh_chn (s : State) (i : Nat) (f : AfeCh → AfeCh) : (s.modAfeCh i f).chn = s.chn := rfl

@[simp] theorem modAfeCh_hng (s : State) (i : Nat) (f : AfeCh → AfeCh) : (s.modAfeCh i f).hng = s.hng := rfl

@[simp] theorem modAfeCh_regs (s : State) (i : Nat) (f : AfeCh → AfeCh) : (s.modAfeCh i f).regs = s.regs := rfl

@[simp] theorem modAfeCh_defer (s : State) (i : Nat) (f : AfeCh → AfeCh) : (s.modAfeCh i f).defer = s.defer := rfl

@[simp] theorem modAfeCh_mram (s : State) (i : Nat) (f : AfeCh → AfeCh) : (s.modAfeCh i f).mram = s.mram := rfl

@[simp] theorem modAfeCh_pending (s : State) (i : Nat) (f : AfeCh → AfeCh) : (s.modAfeCh i f).pending = s.pending := rfl

@[simp] theorem modAfeCh_free (s : State) (i : Nat) (f : AfeCh → AfeCh) : (s.modAfeCh i f).free = s.free := rfl

@[simp] theorem modBank_afe_cores (s : State) (i : Nat) (f : Bank → Bank) : (s.modBank i f).afe.cores = s.afe.cores := rfl

@[simp] theorem modBank_afe_ch (s : State) (i : Nat) (f : Bank → Bank) : (s.modBank i f).afe.ch = s.afe.ch := rfl

@[simp] theorem modBank_afe_banks (s : State) (i : Nat) (f : Bank → Bank) : (s.modBank i f).afe.banks = modNth s.afe.banks i f := rfl

@[simp] theorem modCore_afe_banks (s : State) (i : Nat) (f : ConvCore → ConvCore) : (s.modCore i f).afe.banks = s.afe.banks := rfl

@[simp] theorem modCore_afe_ch (s : State) (i : Nat) (f : ConvCore → ConvCore) : (s.modCore i f).afe.ch = s.afe.ch := rfl

@[simp] theorem modCore_afe_cores (s : State) (i : Nat) (f : ConvCore → ConvCore) : (s.modCore i f).afe.cores = modNth s.afe.cores i f := rfl

@[simp] theorem modAfeCh_afe_cores (s : State) (i : Nat) (f : AfeCh → AfeCh) : (s.modAfeCh i f).afe.cores = s.afe.cores := rfl

@[simp] theorem modAfeCh_afe_banks (s : State) (i : Nat) (f : AfeCh → AfeCh) : (s.modAfeCh i f).afe.banks = s.afe.banks := rfl

@[simp] theorem modAfeCh_afe_ch (s : State) (i : Nat) (f : AfeCh → AfeCh) : (s.modAfeCh i f).afe.ch = modNth s.afe.ch i f := rfl

/-! ### The register file -/

theorem reg_setReg (s : State) (k j : Nat) (v : Word) : (s.setReg k v).reg j = if k = j then v else s.reg j := by
  unfold State.setReg State.reg
  dsimp only
  split
  · rename_i hv
    subst hv
    have er : ∀ l : List (Nat × Word), lookupD (eraseKey l k) j (regDefault j) = if k = j then regDefault j else lookupD l j (regDefault j) := by
      intro l
      unfold eraseKey
      induction l with
      | nil => simp [lookupD]
      | cons p r ih =>
        obtain ⟨a, w⟩ := p
        by_cases e : a = k
        · subst e
          simp only [List.filter, ne_eq, not_true_eq_false, decide_false, ih, lookupD]
          split <;> rfl
        · simp only [List.filter, ne_eq, e, not_false_eq_true, decide_true, lookupD, ih]
          split
          · rename_i h
            rw [if_neg (by omega)]
          · rfl
    rw [er]
    split
    · rename_i h
      rw [h]
    · rfl
  · exact lookupD_insertKey _ _ _ _ _

@[simp] theorem setReg_sys (s : State) (k : Nat) (v : Word) : (s.setReg k v).sys = s.sys := rfl

@[simp] theorem deferReg_sys (s : State) (k : Nat) (v : Word) : (s.deferReg k v).sys = s.sys := rfl

@[simp] theorem store_sys (s : State) (k : Nat) (v : Word) : (s.store k v).sys = s.sys := by
  unfold State.store
  split <;> rfl

@[simp] theorem setStored_sys (s : State) (k : Nat) (v : Word) : (s.setStored k v).sys = s.sys := by
  unfold State.setStored
  rw [store_sys]
  rfl

@[simp] theorem setReg_host (s : State) (k : Nat) (v : Word) : (s.setReg k v).host = s.host := rfl

@[simp] theorem deferReg_host (s : State) (k : Nat) (v : Word) : (s.deferReg k v).host = s.host := rfl

@[simp] theorem store_host (s : State) (k : Nat) (v : Word) : (s.store k v).host = s.host := by
  unfold State.store
  split <;> rfl

@[simp] theorem setStored_host (s : State) (k : Nat) (v : Word) : (s.setStored k v).host = s.host := by
  unfold State.setStored
  rw [store_host]
  rfl

@[simp] theorem setReg_key (s : State) (k : Nat) (v : Word) : (s.setReg k v).key = s.key := rfl

@[simp] theorem deferReg_key (s : State) (k : Nat) (v : Word) : (s.deferReg k v).key = s.key := rfl

@[simp] theorem store_key (s : State) (k : Nat) (v : Word) : (s.store k v).key = s.key := by
  unfold State.store
  split <;> rfl

@[simp] theorem setStored_key (s : State) (k : Nat) (v : Word) : (s.setStored k v).key = s.key := by
  unfold State.setStored
  rw [store_key]
  rfl

@[simp] theorem setReg_job (s : State) (k : Nat) (v : Word) : (s.setReg k v).job = s.job := rfl

@[simp] theorem deferReg_job (s : State) (k : Nat) (v : Word) : (s.deferReg k v).job = s.job := rfl

@[simp] theorem store_job (s : State) (k : Nat) (v : Word) : (s.store k v).job = s.job := by
  unfold State.store
  split <;> rfl

@[simp] theorem setStored_job (s : State) (k : Nat) (v : Word) : (s.setStored k v).job = s.job := by
  unfold State.setStored
  rw [store_job]
  rfl

@[simp] theorem setReg_ldg (s : State) (k : Nat) (v : Word) : (s.setReg k v).ldg = s.ldg := rfl

@[simp] theorem deferReg_ldg (s : State) (k : Nat) (v : Word) : (s.deferReg k v).ldg = s.ldg := rfl

@[simp] theorem store_ldg (s : State) (k : Nat) (v : Word) : (s.store k v).ldg = s.ldg := by
  unfold State.store
  split <;> rfl

@[simp] theorem setStored_ldg (s : State) (k : Nat) (v : Word) : (s.setStored k v).ldg = s.ldg := by
  unfold State.setStored
  rw [store_ldg]
  rfl

@[simp] theorem setReg_cap (s : State) (k : Nat) (v : Word) : (s.setReg k v).cap = s.cap := rfl

@[simp] theorem deferReg_cap (s : State) (k : Nat) (v : Word) : (s.deferReg k v).cap = s.cap := rfl

@[simp] theorem store_cap (s : State) (k : Nat) (v : Word) : (s.store k v).cap = s.cap := by
  unfold State.store
  split <;> rfl

@[simp] theorem setStored_cap (s : State) (k : Nat) (v : Word) : (s.setStored k v).cap = s.cap := by
  unfold State.setStored
  rw [store_cap]
  rfl

@[simp] theorem setReg_clk (s : State) (k : Nat) (v : Word) : (s.setReg k v).clk = s.clk := rfl

@[simp] theorem deferReg_clk (s : State) (k : Nat) (v : Word) : (s.deferReg k v).clk = s.clk := rfl

@[simp] theorem store_clk (s : State) (k : Nat) (v : Word) : (s.store k v).clk = s.clk := by
  unfold State.store
  split <;> rfl

@[simp] theorem setStored_clk (s : State) (k : Nat) (v : Word) : (s.setStored k v).clk = s.clk := by
  unfold State.setStored
  rw [store_clk]
  rfl

@[simp] theorem setReg_pwr (s : State) (k : Nat) (v : Word) : (s.setReg k v).pwr = s.pwr := rfl

@[simp] theorem deferReg_pwr (s : State) (k : Nat) (v : Word) : (s.deferReg k v).pwr = s.pwr := rfl

@[simp] theorem store_pwr (s : State) (k : Nat) (v : Word) : (s.store k v).pwr = s.pwr := by
  unfold State.store
  split <;> rfl

@[simp] theorem setStored_pwr (s : State) (k : Nat) (v : Word) : (s.setStored k v).pwr = s.pwr := by
  unfold State.setStored
  rw [store_pwr]
  rfl

@[simp] theorem setReg_dm (s : State) (k : Nat) (v : Word) : (s.setReg k v).dm = s.dm := rfl

@[simp] theorem deferReg_dm (s : State) (k : Nat) (v : Word) : (s.deferReg k v).dm = s.dm := rfl

@[simp] theorem store_dm (s : State) (k : Nat) (v : Word) : (s.store k v).dm = s.dm := by
  unfold State.store
  split <;> rfl

@[simp] theorem setStored_dm (s : State) (k : Nat) (v : Word) : (s.setStored k v).dm = s.dm := by
  unfold State.setStored
  rw [store_dm]
  rfl

@[simp] theorem setReg_nv (s : State) (k : Nat) (v : Word) : (s.setReg k v).nv = s.nv := rfl

@[simp] theorem deferReg_nv (s : State) (k : Nat) (v : Word) : (s.deferReg k v).nv = s.nv := rfl

@[simp] theorem setReg_afe (s : State) (k : Nat) (v : Word) : (s.setReg k v).afe = s.afe := rfl

@[simp] theorem deferReg_afe (s : State) (k : Nat) (v : Word) : (s.deferReg k v).afe = s.afe := rfl

@[simp] theorem store_afe (s : State) (k : Nat) (v : Word) : (s.store k v).afe = s.afe := by
  unfold State.store
  split <;> rfl

@[simp] theorem setStored_afe (s : State) (k : Nat) (v : Word) : (s.setStored k v).afe = s.afe := by
  unfold State.setStored
  rw [store_afe]
  rfl

@[simp] theorem setReg_flt (s : State) (k : Nat) (v : Word) : (s.setReg k v).flt = s.flt := rfl

@[simp] theorem deferReg_flt (s : State) (k : Nat) (v : Word) : (s.deferReg k v).flt = s.flt := rfl

@[simp] theorem store_flt (s : State) (k : Nat) (v : Word) : (s.store k v).flt = s.flt := by
  unfold State.store
  split <;> rfl

@[simp] theorem setStored_flt (s : State) (k : Nat) (v : Word) : (s.setStored k v).flt = s.flt := by
  unfold State.setStored
  rw [store_flt]
  rfl

@[simp] theorem setReg_aux (s : State) (k : Nat) (v : Word) : (s.setReg k v).aux = s.aux := rfl

@[simp] theorem deferReg_aux (s : State) (k : Nat) (v : Word) : (s.deferReg k v).aux = s.aux := rfl

@[simp] theorem store_aux (s : State) (k : Nat) (v : Word) : (s.store k v).aux = s.aux := by
  unfold State.store
  split <;> rfl

@[simp] theorem setStored_aux (s : State) (k : Nat) (v : Word) : (s.setStored k v).aux = s.aux := by
  unfold State.setStored
  rw [store_aux]
  rfl

@[simp] theorem setReg_pe (s : State) (k : Nat) (v : Word) : (s.setReg k v).pe = s.pe := rfl

@[simp] theorem deferReg_pe (s : State) (k : Nat) (v : Word) : (s.deferReg k v).pe = s.pe := rfl

@[simp] theorem store_pe (s : State) (k : Nat) (v : Word) : (s.store k v).pe = s.pe := by
  unfold State.store
  split <;> rfl

@[simp] theorem setStored_pe (s : State) (k : Nat) (v : Word) : (s.setStored k v).pe = s.pe := by
  unfold State.setStored
  rw [store_pe]
  rfl

@[simp] theorem setReg_trk (s : State) (k : Nat) (v : Word) : (s.setReg k v).trk = s.trk := rfl

@[simp] theorem deferReg_trk (s : State) (k : Nat) (v : Word) : (s.deferReg k v).trk = s.trk := rfl

@[simp] theorem store_trk (s : State) (k : Nat) (v : Word) : (s.store k v).trk = s.trk := by
  unfold State.store
  split <;> rfl

@[simp] theorem setStored_trk (s : State) (k : Nat) (v : Word) : (s.setStored k v).trk = s.trk := by
  unfold State.setStored
  rw [store_trk]
  rfl

@[simp] theorem setReg_sch (s : State) (k : Nat) (v : Word) : (s.setReg k v).sch = s.sch := rfl

@[simp] theorem deferReg_sch (s : State) (k : Nat) (v : Word) : (s.deferReg k v).sch = s.sch := rfl

@[simp] theorem store_sch (s : State) (k : Nat) (v : Word) : (s.store k v).sch = s.sch := by
  unfold State.store
  split <;> rfl

@[simp] theorem setStored_sch (s : State) (k : Nat) (v : Word) : (s.setStored k v).sch = s.sch := by
  unfold State.setStored
  rw [store_sch]
  rfl

@[simp] theorem setReg_fst (s : State) (k : Nat) (v : Word) : (s.setReg k v).fst = s.fst := rfl

@[simp] theorem deferReg_fst (s : State) (k : Nat) (v : Word) : (s.deferReg k v).fst = s.fst := rfl

@[simp] theorem store_fst (s : State) (k : Nat) (v : Word) : (s.store k v).fst = s.fst := by
  unfold State.store
  split <;> rfl

@[simp] theorem setStored_fst (s : State) (k : Nat) (v : Word) : (s.setStored k v).fst = s.fst := by
  unfold State.setStored
  rw [store_fst]
  rfl

@[simp] theorem setReg_fio (s : State) (k : Nat) (v : Word) : (s.setReg k v).fio = s.fio := rfl

@[simp] theorem deferReg_fio (s : State) (k : Nat) (v : Word) : (s.deferReg k v).fio = s.fio := rfl

@[simp] theorem store_fio (s : State) (k : Nat) (v : Word) : (s.store k v).fio = s.fio := by
  unfold State.store
  split <;> rfl

@[simp] theorem setStored_fio (s : State) (k : Nat) (v : Word) : (s.setStored k v).fio = s.fio := by
  unfold State.setStored
  rw [store_fio]
  rfl

@[simp] theorem setReg_ptp (s : State) (k : Nat) (v : Word) : (s.setReg k v).ptp = s.ptp := rfl

@[simp] theorem deferReg_ptp (s : State) (k : Nat) (v : Word) : (s.deferReg k v).ptp = s.ptp := rfl

@[simp] theorem store_ptp (s : State) (k : Nat) (v : Word) : (s.store k v).ptp = s.ptp := by
  unfold State.store
  split <;> rfl

@[simp] theorem setStored_ptp (s : State) (k : Nat) (v : Word) : (s.setStored k v).ptp = s.ptp := by
  unfold State.setStored
  rw [store_ptp]
  rfl

@[simp] theorem setReg_svc (s : State) (k : Nat) (v : Word) : (s.setReg k v).svc = s.svc := rfl

@[simp] theorem deferReg_svc (s : State) (k : Nat) (v : Word) : (s.deferReg k v).svc = s.svc := rfl

@[simp] theorem store_svc (s : State) (k : Nat) (v : Word) : (s.store k v).svc = s.svc := by
  unfold State.store
  split <;> rfl

@[simp] theorem setStored_svc (s : State) (k : Nat) (v : Word) : (s.setStored k v).svc = s.svc := by
  unfold State.setStored
  rw [store_svc]
  rfl

@[simp] theorem setReg_chn (s : State) (k : Nat) (v : Word) : (s.setReg k v).chn = s.chn := rfl

@[simp] theorem deferReg_chn (s : State) (k : Nat) (v : Word) : (s.deferReg k v).chn = s.chn := rfl

@[simp] theorem store_chn (s : State) (k : Nat) (v : Word) : (s.store k v).chn = s.chn := by
  unfold State.store
  split <;> rfl

@[simp] theorem setStored_chn (s : State) (k : Nat) (v : Word) : (s.setStored k v).chn = s.chn := by
  unfold State.setStored
  rw [store_chn]
  rfl

@[simp] theorem setReg_hng (s : State) (k : Nat) (v : Word) : (s.setReg k v).hng = s.hng := rfl

@[simp] theorem deferReg_hng (s : State) (k : Nat) (v : Word) : (s.deferReg k v).hng = s.hng := rfl

@[simp] theorem store_hng (s : State) (k : Nat) (v : Word) : (s.store k v).hng = s.hng := by
  unfold State.store
  split <;> rfl

@[simp] theorem setStored_hng (s : State) (k : Nat) (v : Word) : (s.setStored k v).hng = s.hng := by
  unfold State.setStored
  rw [store_hng]
  rfl

@[simp] theorem deferReg_regs (s : State) (k : Nat) (v : Word) : (s.deferReg k v).regs = s.regs := rfl

@[simp] theorem store_regs (s : State) (k : Nat) (v : Word) : (s.store k v).regs = s.regs := by
  unfold State.store
  split <;> rfl

@[simp] theorem setReg_defer (s : State) (k : Nat) (v : Word) : (s.setReg k v).defer = s.defer := rfl

@[simp] theorem store_defer (s : State) (k : Nat) (v : Word) : (s.store k v).defer = s.defer := by
  unfold State.store
  split <;> rfl

@[simp] theorem setStored_defer (s : State) (k : Nat) (v : Word) : (s.setStored k v).defer = s.defer := by
  unfold State.setStored
  rw [store_defer]
  rfl

@[simp] theorem setReg_mram (s : State) (k : Nat) (v : Word) : (s.setReg k v).mram = s.mram := rfl

@[simp] theorem deferReg_mram (s : State) (k : Nat) (v : Word) : (s.deferReg k v).mram = s.mram := rfl

@[simp] theorem store_mram (s : State) (k : Nat) (v : Word) : (s.store k v).mram = s.mram := by
  unfold State.store
  split <;> rfl

@[simp] theorem setStored_mram (s : State) (k : Nat) (v : Word) : (s.setStored k v).mram = s.mram := by
  unfold State.setStored
  rw [store_mram]
  rfl

@[simp] theorem setReg_pending (s : State) (k : Nat) (v : Word) : (s.setReg k v).pending = s.pending := rfl

@[simp] theorem deferReg_pending (s : State) (k : Nat) (v : Word) : (s.deferReg k v).pending = s.pending := rfl

@[simp] theorem store_pending (s : State) (k : Nat) (v : Word) : (s.store k v).pending = s.pending := by
  unfold State.store
  split <;> rfl

@[simp] theorem setStored_pending (s : State) (k : Nat) (v : Word) : (s.setStored k v).pending = s.pending := by
  unfold State.setStored
  rw [store_pending]
  rfl

@[simp] theorem setReg_free (s : State) (k : Nat) (v : Word) : (s.setReg k v).free = s.free := rfl

@[simp] theorem deferReg_free (s : State) (k : Nat) (v : Word) : (s.deferReg k v).free = s.free := rfl

@[simp] theorem store_free (s : State) (k : Nat) (v : Word) : (s.store k v).free = s.free := by
  unfold State.store
  split <;> rfl

@[simp] theorem setStored_free (s : State) (k : Nat) (v : Word) : (s.setStored k v).free = s.free := by
  unfold State.setStored
  rw [store_free]
  rfl

theorem reg_setStored (s : State) (k j : Nat) (v : Word) : (s.setStored k v).reg j = if k = j then v else s.reg j := by
  have h := reg_setReg s k j v
  unfold State.reg at h ⊢
  unfold State.setStored
  rw [store_regs]
  exact h

theorem rest_pending (s : State) (l : List Instr) : ({ s with pending := l } : State).pending = l := rfl

end Sys2Proof.Machine
end

