-- ==== Sys2Proof/Laws/Memory.lean ====
section
/-! SUPPORT. What a write of bytes to MRAM leaves at every address. -/

namespace Sys2Proof.Machine

/-- A byte of MRAM after a write of bytes. -/
theorem memRead_writeBytes (l : List Byte) (m : List Host.Cell) (x y : Nat) (h : Memory.wf m = true) (hl : x + l.length ≤ mramSize) :
    memRead (memWriteBytes m x l) y = if x ≤ y ∧ y < x + l.length then l.getD (y - x) 0 else memRead m y := by
  induction l generalizing m x with
  | nil => rw [if_neg (by simp)]; rfl
  | cons b r ih =>
    have hl' : x + (r.length + 1) ≤ mramSize := by simpa using hl
    have w : Memory.wf (memWrite m x b) = true := memSorted_write h (Nat.zero_le x) (by omega)
    show memRead (memWriteBytes (memWrite m x b) (x + 1) r) y = _
    rw [ih (memWrite m x b) (x + 1) w (by omega), memRead_write m x y b 0 h]
    simp only [List.length_cons]
    by_cases hy : x = y
    · subst hy
      rw [if_neg (by omega), if_pos rfl, if_pos (by omega)]; simp
    · rw [if_neg hy]
      by_cases hh : x + 1 ≤ y ∧ y < x + 1 + r.length
      · rw [if_pos hh, if_pos (by omega)]
        rw [show y - x = (y - (x + 1)) + 1 by omega]; simp
      · rw [if_neg hh, if_neg (by omega)]

/-- Bytes of MRAM, each by its address. -/
theorem memReadBytes_getElem? (m : List Host.Cell) (n x i : Nat) : (memReadBytes m x n)[i]? = if i < n then some (memRead m (x + i)) else none := by
  induction n generalizing x i with
  | zero => simp [memReadBytes]
  | succ k ih =>
    cases i with
    | zero => simp [memReadBytes]
    | succ j =>
      simp only [memReadBytes, List.getElem?_cons_succ, ih]
      by_cases h : j < k
      · rw [if_pos h, if_pos (by omega), show x + 1 + j = x + (j + 1) by omega]
      · rw [if_neg h, if_neg (by omega)]

/-- Bytes read back where they have just been written. -/
theorem memReadBytes_self (l : List Byte) (m : List Host.Cell) (x : Nat) (h : Memory.wf m = true) (hl : x + l.length ≤ mramSize) : memReadBytes (memWriteBytes m x l) x l.length = l := by
  apply List.ext_getElem?
  intro i
  rw [memReadBytes_getElem?]
  by_cases hi : i < l.length
  · rw [if_pos hi, memRead_writeBytes l m x _ h hl, if_pos (by omega), List.getElem?_eq_getElem hi]
    simp [List.getD_eq_getElem?_getD, hi]
  · rw [if_neg hi, List.getElem?_eq_none (by omega)]

/-- Bytes that a write does not reach. -/
theorem memReadBytes_ne (l : List Byte) (m : List Host.Cell) (x y n : Nat) (h : Memory.wf m = true) (hl : x + l.length ≤ mramSize) (hd : y + n ≤ x ∨ x + l.length ≤ y) :
    memReadBytes (memWriteBytes m x l) y n = memReadBytes m y n := by
  apply List.ext_getElem?
  intro i
  rw [memReadBytes_getElem?, memReadBytes_getElem?]
  by_cases hi : i < n
  · rw [if_pos hi, if_pos hi, memRead_writeBytes l m x _ h hl, if_neg (by omega)]
  · rw [if_neg hi, if_neg hi]

/-- MRAM after a write that the interface carries out. -/
theorem mramPut_mram (s : State) (off : Nat) (l : List Byte) (hf : s.dm.mramFail = false) (hl : off + l.length ≤ mramSize) : (s.mramPut off l).mram = memWriteBytes s.mram off l := by
  unfold State.mramPut
  rw [if_neg (by simp [hf])]
  show memWriteBytes s.mram off (l.take (mramSize - off)) = _
  rw [List.take_of_length_le (by omega)]

/-! ### Lengths -/

@[simp] theorem length_leBytes (n v : Nat) : (leBytes n v).length = n := by
  induction n generalizing v with
  | zero => rfl
  | succ k ih => simp [leBytes, ih]

@[simp] theorem length_padTo (n : Nat) (l : List Byte) : (padTo n l).length = n := by
  simp [padTo, zeros]; omega

/-- The bytes of a record are as many as its length field says (R266, R267). -/
theorem length_recBytes (e : Entry) (fl seq : Nat) : (recBytes e fl seq).length = recLen e := by
  unfold recBytes recHead recLen
  cases e.annex <;> simp [b1, b2, b4, b8, zeros] <;> omega

end Sys2Proof.Machine
end

