-- ==== Sys2Proof/Laws/KeepsProtection.lean ====
section
/-! SUPPORT. One lemma for each operation of the signals, the protection engine, the FAST path, field input and output and the time unit: the parts of the state it may change, and that it keeps the invariant of the stores. -/

namespace Sys2Proof.Machine

set_option linter.all false

/-! ### FastPath -/

theorem keeps_modFst {K : List Part} {o s : State} (f : Fast → Fast) (hM : Within [.fst] K) (h : Keeps K o s) : Keeps K o (s.modFst f) := by
  unfold State.modFst
  repeat' first | with_reducible assumption | (with_reducible refine Keeps.setFst (hM.mem rfl) ?_; with_reducible assumption)

theorem keeps_modCmp {K : List Part} {o s : State} (c : Nat) (f : CmpSt → CmpSt) (hM : Within [.fst] K) (h : Keeps K o s) : Keeps K o (s.modCmp c f) := by
  unfold State.modCmp
  repeat' first | with_reducible assumption | exact hM.up rfl | with_reducible apply keeps_modFst

theorem keeps_qualify {K : List Part} {o s : State} (c reason : Nat) (hM : Within [.irq, .ring, .trip, .fst] K) (h : Keeps K o s) : Keeps K o (s.qualify c reason) := by
  unfold State.qualify
  repeat' first | with_reducible assumption | intro _ | exact hM.up rfl | with_reducible apply keeps_modCmp | with_reducible apply keeps_stageTick | with_reducible apply Keeps.ite

theorem keeps_insertPair {K : List Part} {o s : State} (on : List Nat) (code : Nat) (again : Bool) (hM : Within [.irq, .ring, .trip, .chn] K) (h : Keeps K o s) : Keeps K o (s.insertPair on code again) := by
  unfold State.insertPair
  repeat' first | with_reducible assumption | intro _ | exact hM.up rfl | (with_reducible refine Keeps.setChn (hM.mem rfl) ?_; with_reducible assumption) | with_reducible apply keeps_stage | with_reducible apply Keeps.ite

theorem keeps_sendGroup {K : List Part} {o s : State} (on : List Nat) (g : Nat) (again : Bool) (hM : Within [.irq, .ring, .trip, .fst, .chn] K) (h : Keeps K o s) : Keeps K o (s.sendGroup on g again) := by
  unfold State.sendGroup
  repeat' first | with_reducible assumption | intro _ | exact hM.up rfl | with_reducible apply keeps_stageTick | with_reducible apply keeps_modFst | with_reducible apply keeps_insertPair | with_reducible apply Keeps.ite

theorem keeps_sendGroups {K : List Part} {o s : State} (hM : Within [.irq, .ring, .trip, .fst, .chn] K) (h : Keeps K o s) : Keeps K o s.sendGroups := by
  unfold State.sendGroups
  repeat' first | with_reducible assumption | intro _ | exact hM.up rfl | with_reducible apply keeps_modFst | with_reducible apply keeps_sendGroup | with_reducible apply Keeps.ite | with_reducible apply Keeps.foldl

theorem keeps_repeatGroups {K : List Part} {o s : State} (on : List Nat) (hM : Within [.irq, .ring, .trip, .fst, .chn] K) (h : Keeps K o s) : Keeps K o (s.repeatGroups on) := by
  unfold State.repeatGroups
  repeat' first | with_reducible assumption | exact hM.up rfl | intro _ | with_reducible apply keeps_sendGroup | with_reducible apply Keeps.ite | with_reducible apply Keeps.foldl

theorem keeps_fastOperate {K : List Part} {o s : State} (kind ix mask : Nat) (hM : Within [.irq, .ring, .trip] K) (h : Keeps K o s) : Keeps K o (s.fastOperate kind ix mask) := by
  unfold State.fastOperate
  repeat' first | with_reducible assumption | exact hM.up rfl | with_reducible apply keeps_stageTick

theorem keeps_fastSettle {K : List Part} {o s : State} (hM : Within [.irq, .ring, .trip, .fst, .chn] K) (h : Keeps K o s) : Keeps K o s.fastSettle := by
  unfold State.fastSettle
  repeat' first | with_reducible assumption | intro _ | exact hM.up rfl | with_reducible apply keeps_modFst | with_reducible apply keeps_fastOperate | with_reducible apply keeps_sendGroups | with_reducible apply Keeps.ite | with_reducible apply Keeps.foldl

theorem keeps_capture {K : List Part} {o s : State} (c : Nat) (x' : Int) (t : Nat) (hM : Within [.irq, .ring, .trip, .fst, .free] K) (h : Keeps K o s) : Keeps K o (s.capture c x' t) := by
  unfold State.capture
  repeat' first | with_reducible assumption | intro _ | exact hM.up rfl | (with_reducible refine Keeps.setFree (hM.mem rfl) ?_; with_reducible assumption) | (extract_lets +onlyGivenNames x; clear_value (hx : x = _); refine Keeps.cut (l := K) (o := o) hx ?_ ?_) | with_reducible apply keeps_modCmp | with_reducible apply keeps_stageTick

theorem keeps_arcEval {K : List Part} {o s : State} (c : Nat) (hM : Within [.clk, .fst] K) (h : Keeps K o s) : Keeps K o (s.arcEval c) := by
  unfold State.arcEval
  repeat' first | with_reducible assumption | intro _ | exact hM.up rfl | with_reducible apply keeps_modCmp | with_reducible apply keeps_raiseOp | with_reducible apply Keeps.ite

theorem keeps_arcJudge {K : List Part} {o s : State} (a : Nat) (hM : Within [.irq, .ring, .trip, .clk, .fst] K) (h : Keeps K o s) : Keeps K o (s.arcJudge a) := by
  unfold State.arcJudge
  repeat' first | with_reducible assumption | intro _ | exact hM.up rfl | (extract_lets +onlyGivenNames x; clear_value (hx : x = _); refine Keeps.cut (l := K) (o := o) hx ?_ ?_) | (extract_lets +onlyGivenNames x; clear_value (hx : x = _); refine Keeps.cutP (l := K) (o := o) hx ?_ ?_) | (extract_lets +onlyGivenNames x; subst x) | with_reducible apply keeps_qualify | with_reducible apply keeps_arcEval | with_reducible apply keeps_modCmp | with_reducible apply Keeps.ite | with_reducible apply Keeps.iteF | with_reducible apply Keeps.iteS | with_reducible apply Keeps.foldl | split

theorem keeps_arcFollow {K : List Part} {o s : State} (c : Nat) (hM : Within [.irq, .ring, .trip, .clk, .fst] K) (h : Keeps K o s) : Keeps K o (s.arcFollow c) := by
  unfold State.arcFollow
  repeat' first | with_reducible assumption | intro _ | exact hM.up rfl | (extract_lets +onlyGivenNames x; clear_value (hx : x = _); refine Keeps.cut (l := K) (o := o) hx ?_ ?_) | (extract_lets +onlyGivenNames x; clear_value (hx : x = _); refine Keeps.cutP (l := K) (o := o) hx ?_ ?_) | (extract_lets +onlyGivenNames x; subst x) | with_reducible apply keeps_arcJudge | with_reducible apply Keeps.ite | with_reducible apply Keeps.iteF | with_reducible apply Keeps.iteS | with_reducible apply Keeps.foldl | split

theorem keeps_fastQual {K : List Part} {o s : State} (hM : Within [.irq, .ring, .trip, .clk, .fst, .chn] K) (h : Keeps K o s) : Keeps K o s.fastQual := by
  unfold State.fastQual
  repeat' first | with_reducible assumption | intro _ | exact hM.up rfl | (extract_lets +onlyGivenNames x; clear_value (hx : x = _); refine Keeps.cut (l := K) (o := o) hx ?_ ?_) | (extract_lets +onlyGivenNames x; clear_value (hx : x = _); refine Keeps.cutP (l := K) (o := o) hx ?_ ?_) | (extract_lets +onlyGivenNames x; subst x) | with_reducible apply keeps_modCmp | with_reducible apply keeps_qualify | with_reducible apply keeps_fastSettle | with_reducible apply keeps_arcJudge | with_reducible apply Keeps.ite | with_reducible apply Keeps.iteF | with_reducible apply Keeps.iteS | with_reducible apply Keeps.foldl | split

theorem keeps_feedCode {K : List Part} {o s : State} (c : Nat) (k : CodeIn) (hM : Within [.irq, .ring, .trip, .clk, .fst, .free] K) (h : Keeps K o s) : Keeps K o (s.feedCode c k) := by
  unfold State.feedCode
  repeat' first | with_reducible assumption | intro _ | exact hM.up rfl | with_reducible apply keeps_qualify | with_reducible apply keeps_capture | with_reducible apply keeps_modCmp | with_reducible apply keeps_raiseOp | with_reducible apply keeps_arcFollow | with_reducible apply Keeps.ite

theorem keeps_feedChannel {K : List Part} {o s : State} (ch : Nat) (k : CodeIn) (hM : Within [.irq, .ring, .trip, .clk, .fst, .chn, .free] K) (h : Keeps K o s) : Keeps K o (s.feedChannel ch k) := by
  unfold State.feedChannel
  repeat' first | with_reducible assumption | intro _ | exact hM.up rfl | (extract_lets +onlyGivenNames x; clear_value (hx : x = _); refine Keeps.cut (l := K) (o := o) hx ?_ ?_) | (extract_lets +onlyGivenNames x; clear_value (hx : x = _); refine Keeps.cutP (l := K) (o := o) hx ?_ ?_) | (extract_lets +onlyGivenNames x; subst x) | with_reducible apply keeps_modFst | with_reducible apply keeps_feedCode | with_reducible apply keeps_fastSettle | with_reducible apply Keeps.ite | with_reducible apply Keeps.iteF | with_reducible apply Keeps.iteS | with_reducible apply Keeps.foldl | split

theorem keeps_feed {K : List Part} {o s : State} (c : Nat) (codes : List CodeIn) (hM : Within [.irq, .ring, .trip, .clk, .fst, .chn, .free] K) (h : Keeps K o s) : Keeps K o (s.feed c codes) := by
  unfold State.feed
  repeat' first | with_reducible assumption | intro _ | exact hM.up rfl | (extract_lets +onlyGivenNames x; clear_value (hx : x = _); refine Keeps.cut (l := K) (o := o) hx ?_ ?_) | (extract_lets +onlyGivenNames x; clear_value (hx : x = _); refine Keeps.cutP (l := K) (o := o) hx ?_ ?_) | (extract_lets +onlyGivenNames x; subst x) | with_reducible apply keeps_feedChannel | with_reducible apply Keeps.ite | with_reducible apply Keeps.iteF | with_reducible apply Keeps.iteS | with_reducible apply Keeps.foldl | split

theorem keeps_seenNow {K : List Part} {o s : State} (hM : Within [.fst] K) (h : Keeps K o s) : Keeps K o s.seenNow := by
  unfold State.seenNow
  repeat' first | with_reducible assumption | intro _ | exact hM.up rfl | (extract_lets +onlyGivenNames x; clear_value (hx : x = _); refine Keeps.cut (l := K) (o := o) hx ?_ ?_) | (extract_lets +onlyGivenNames x; clear_value (hx : x = _); refine Keeps.cutP (l := K) (o := o) hx ?_ ?_) | (extract_lets +onlyGivenNames x; subst x) | with_reducible apply keeps_modFst | with_reducible apply Keeps.ite | with_reducible apply Keeps.iteF | with_reducible apply Keeps.iteS | with_reducible apply Keeps.foldl | split

theorem keeps_lightLevel {K : List Part} {o s : State} (c : Nat) (on : Bool) (hM : Within [.irq, .ring, .trip, .clk, .fst, .chn] K) (h : Keeps K o s) : Keeps K o (s.lightLevel c on) := by
  unfold State.lightLevel
  repeat' first | with_reducible assumption | intro _ | exact hM.up rfl | (extract_lets +onlyGivenNames x; clear_value (hx : x = _); refine Keeps.cut (l := K) (o := o) hx ?_ ?_) | (extract_lets +onlyGivenNames x; clear_value (hx : x = _); refine Keeps.cutP (l := K) (o := o) hx ?_ ?_) | (extract_lets +onlyGivenNames x; subst x) | with_reducible apply keeps_modFst | with_reducible apply keeps_seenNow | with_reducible apply keeps_fastSettle | with_reducible apply keeps_arcJudge | with_reducible apply Keeps.ite | with_reducible apply Keeps.iteF | with_reducible apply Keeps.iteS | with_reducible apply Keeps.foldl | split

theorem keeps_cmpAssert {K : List Part} {o s : State} (c : Nat) (codes : List CodeIn) (light : Bool) (hM : Within [.irq, .ring, .trip, .clk, .fst, .chn, .free] K) (h : Keeps K o s) : Keeps K o (s.cmpAssert c codes light) := by
  unfold State.cmpAssert
  repeat' first | with_reducible assumption | intro _ | exact hM.up rfl | with_reducible apply keeps_lightLevel | with_reducible apply keeps_feed | with_reducible apply Keeps.ite

theorem keeps_arcExpiry {K : List Part} {o s : State} (c : Nat) (light : Bool) (hM : Within [.irq, .ring, .trip, .clk, .fst, .chn] K) (h : Keeps K o s) : Keeps K o (s.arcExpiry c light) := by
  unfold State.arcExpiry
  repeat' first | with_reducible assumption | intro _ | exact hM.up rfl | (extract_lets +onlyGivenNames x; clear_value (hx : x = _); refine Keeps.cut (l := K) (o := o) hx ?_ ?_) | (extract_lets +onlyGivenNames x; clear_value (hx : x = _); refine Keeps.cutP (l := K) (o := o) hx ?_ ?_) | (extract_lets +onlyGivenNames x; subst x) | with_reducible apply keeps_fastSettle | with_reducible apply keeps_arcEval | with_reducible apply keeps_modCmp | with_reducible apply keeps_seenNow | with_reducible apply Keeps.ite | with_reducible apply Keeps.iteF | with_reducible apply Keeps.iteS | with_reducible apply Keeps.foldl | split

theorem keeps_relayPair {K : List Part} {o s : State} (p : Nat) (a b : LaneIn) (hM : Within [.chn] K) (h : Keeps K o s) : Keeps K o (s.relayPair p a b) := by
  unfold State.relayPair
  repeat' first | with_reducible assumption | intro _ | exact hM.up rfl | (with_reducible refine Keeps.setChn (hM.mem rfl) ?_; with_reducible assumption) | (extract_lets +onlyGivenNames x; clear_value (hx : x = _); refine Keeps.cut (l := K) (o := o) hx ?_ ?_) | (extract_lets +onlyGivenNames x; clear_value (hx : x = _); refine Keeps.cutP (l := K) (o := o) hx ?_ ?_) | (extract_lets +onlyGivenNames x; subst x) | with_reducible apply Keeps.ite | with_reducible apply Keeps.iteF | with_reducible apply Keeps.iteS | with_reducible apply Keeps.foldl | (with_reducible refine Keeps.setChn (hM.mem rfl) (Keeps.setChn (hM.mem rfl) ?_); with_reducible assumption) | split

theorem keeps_countPair {K : List Part} {o s : State} (p : Nat) (a b : LaneIn) (hM : Within [.chn] K) (h : Keeps K o s) : Keeps K o (s.countPair p a b) := by
  unfold State.countPair
  repeat' first | with_reducible assumption | intro _ | exact hM.up rfl | (with_reducible refine Keeps.setChn (hM.mem rfl) ?_; with_reducible assumption) | (extract_lets +onlyGivenNames x; clear_value (hx : x = _); refine Keeps.cut (l := K) (o := o) hx ?_ ?_) | (extract_lets +onlyGivenNames x; clear_value (hx : x = _); refine Keeps.cutP (l := K) (o := o) hx ?_ ?_) | (extract_lets +onlyGivenNames x; subst x) | with_reducible apply Keeps.ite | with_reducible apply Keeps.iteF | with_reducible apply Keeps.iteS | with_reducible apply Keeps.foldl | (with_reducible refine Keeps.setChn (hM.mem rfl) (Keeps.setChn (hM.mem rfl) ?_); with_reducible assumption) | split

theorem keeps_copyCame {K : List Part} {o s : State} (code : Nat) (hM : Within [.fst] K) (h : Keeps K o s) : Keeps K o (s.copyCame code) := by
  unfold State.copyCame
  repeat' first | with_reducible assumption | intro _ | exact hM.up rfl | (extract_lets +onlyGivenNames x; clear_value (hx : x = _); refine Keeps.cut (l := K) (o := o) hx ?_ ?_) | (extract_lets +onlyGivenNames x; clear_value (hx : x = _); refine Keeps.cutP (l := K) (o := o) hx ?_ ?_) | (extract_lets +onlyGivenNames x; subst x) | with_reducible apply keeps_modFst | with_reducible apply Keeps.ite | with_reducible apply Keeps.iteF | with_reducible apply Keeps.iteS | with_reducible apply Keeps.foldl | split

theorem keeps_ageCodes {K : List Part} {o s : State} (hM : Within [.fst] K) (h : Keeps K o s) : Keeps K o s.ageCodes := by
  unfold State.ageCodes
  repeat' first | with_reducible assumption | intro _ | exact hM.up rfl | (extract_lets +onlyGivenNames x; clear_value (hx : x = _); refine Keeps.cut (l := K) (o := o) hx ?_ ?_) | (extract_lets +onlyGivenNames x; clear_value (hx : x = _); refine Keeps.cutP (l := K) (o := o) hx ?_ ?_) | (extract_lets +onlyGivenNames x; subst x) | with_reducible apply keeps_modFst | with_reducible apply Keeps.ite | with_reducible apply Keeps.iteF | with_reducible apply Keeps.iteS | with_reducible apply Keeps.foldl | split

theorem keeps_expressIn {K : List Part} {o s : State} (p : Nat) (a b : LaneIn) (hM : Within [.irq, .ring, .trip, .fst, .chn] K) (h : Keeps K o s) : Keeps K o (s.expressIn p a b) := by
  unfold State.expressIn
  repeat' first | with_reducible assumption | intro _ | exact hM.up rfl | (extract_lets +onlyGivenNames x; clear_value (hx : x = _); refine Keeps.cut (l := K) (o := o) hx ?_ ?_) | (extract_lets +onlyGivenNames x; clear_value (hx : x = _); refine Keeps.cutP (l := K) (o := o) hx ?_ ?_) | (extract_lets +onlyGivenNames x; subst x) | with_reducible apply keeps_relayPair | with_reducible apply keeps_countPair | with_reducible apply keeps_copyCame | with_reducible apply keeps_fastOperate | with_reducible apply keeps_fastSettle | with_reducible apply Keeps.ite | with_reducible apply Keeps.iteF | with_reducible apply Keeps.iteS | with_reducible apply Keeps.foldl | split

theorem keeps_expressTimeout {K : List Part} {o s : State} (code : Nat) (hM : Within [.irq, .ring, .trip, .fst, .chn] K) (h : Keeps K o s) : Keeps K o (s.expressTimeout code) := by
  unfold State.expressTimeout
  repeat' first | with_reducible assumption | intro _ | exact hM.up rfl | (extract_lets +onlyGivenNames x; clear_value (hx : x = _); refine Keeps.cut (l := K) (o := o) hx ?_ ?_) | (extract_lets +onlyGivenNames x; clear_value (hx : x = _); refine Keeps.cutP (l := K) (o := o) hx ?_ ?_) | (extract_lets +onlyGivenNames x; subst x) | with_reducible apply keeps_fastSettle | with_reducible apply keeps_modFst | with_reducible apply Keeps.ite | with_reducible apply Keeps.iteF | with_reducible apply Keeps.iteS | with_reducible apply Keeps.foldl | split

theorem keeps_fastLatch {K : List Part} {o s : State} (hM : Within [.fst] K) (h : Keeps K o s) : Keeps K o s.fastLatch := by
  unfold State.fastLatch
  repeat' first | with_reducible assumption | exact hM.up rfl | with_reducible apply keeps_modFst

theorem keeps_fastFloors {K : List Part} {o s : State} (hM : Within [.irq, .ring, .trip, .clk, .fst, .chn] K) (h : Keeps K o s) : Keeps K o s.fastFloors := by
  unfold State.fastFloors
  repeat' first | with_reducible assumption | intro _ | exact hM.up rfl | with_reducible apply keeps_fastQual | with_reducible apply keeps_modCmp | with_reducible apply keeps_stageTick | with_reducible apply Keeps.ite | with_reducible apply Keeps.foldl

theorem keeps_writeFast {K : List Part} {o s : State} (addr : Nat) (v : Word) (hM : Within [.irq, .ring, .trip, .nv, .fst, .defer] K) (h : Keeps K o s) : Keeps K o (s.writeFast addr v).1 := by
  unfold State.writeFast
  repeat' first | with_reducible assumption | intro _ | exact hM.up rfl | with_reducible apply keeps_stageTick | with_reducible apply keeps_modFst | with_reducible apply keeps_store | with_reducible apply keeps_deferReg | with_reducible apply Keeps.iteF | split

/-! ### FieldIO -/

theorem keeps_whileAlive {K : List Part} {o s : State} {f : State → State} (hM : Within [] K) (h : Keeps K o s) (hf : Keeps K o (f s)) : Keeps K o (s.whileAlive f) :=
  Keeps.opt hf h

theorem keeps_modFio {K : List Part} {o s : State} (f : Field → Field) (hM : Within [.fio] K) (h : Keeps K o s) : Keeps K o (s.modFio f) := by
  unfold State.modFio
  repeat' first | with_reducible assumption | (with_reducible refine Keeps.setFio (hM.mem rfl) ?_; with_reducible assumption)

theorem keeps_modDi {K : List Part} {o s : State} (n : Nat) (f : DiSt → DiSt) (hM : Within [.fio] K) (h : Keeps K o s) : Keeps K o (s.modDi n f) := by
  unfold State.modDi
  repeat' first | with_reducible assumption | exact hM.up rfl | with_reducible apply keeps_modFio

theorem keeps_modDo {K : List Part} {o s : State} (n : Nat) (f : DoSt → DoSt) (hM : Within [.fio] K) (h : Keeps K o s) : Keeps K o (s.modDo n f) := by
  unfold State.modDo
  repeat' first | with_reducible assumption | exact hM.up rfl | with_reducible apply keeps_modFio

theorem keeps_followOutputs {K : List Part} {o s : State} (hM : Within [.fio] K) (h : Keeps K o s) : Keeps K o s.followOutputs := by
  unfold State.followOutputs
  repeat' first | with_reducible assumption | exact hM.up rfl | intro _ | with_reducible apply keeps_modDo | with_reducible apply Keeps.ite | with_reducible apply Keeps.foldl

theorem keeps_holdOutputs {K : List Part} {o s : State} (hM : Within [.fio] K) (h : Keeps K o s) : Keeps K o s.holdOutputs := by
  unfold State.holdOutputs
  repeat' first | with_reducible assumption | exact hM.up rfl | with_reducible apply keeps_modFio

theorem keeps_holdExpiry {K : List Part} {o s : State} (n : Nat) (hM : Within [.fio] K) (h : Keeps K o s) : Keeps K o (s.holdExpiry n) := by
  unfold State.holdExpiry
  repeat' first | with_reducible assumption | exact hM.up rfl | with_reducible apply keeps_followOutputs | with_reducible apply keeps_modDo

theorem keeps_couplerFlush {K : List Part} {o s : State} (hM : Within [.irq, .ring, .trip, .fio] K) (h : Keeps K o s) : Keeps K o s.couplerFlush := by
  unfold State.couplerFlush
  repeat' first | with_reducible assumption | intro _ | exact hM.up rfl | with_reducible apply keeps_stage | with_reducible apply keeps_modFio | with_reducible apply Keeps.ite | with_reducible apply Keeps.foldl

theorem keeps_enterLost {K : List Part} {o s : State} (hM : Within [.health, .irq, .ring, .trip, .clk, .fst, .fio, .chn] K) (h : Keeps K o s) : Keeps K o s.enterLost := by
  unfold State.enterLost
  repeat' first | with_reducible assumption | intro _ | exact hM.up rfl | (with_reducible refine Keeps.setHealth (hM.mem rfl) ?_ rfl; with_reducible assumption) | (extract_lets +onlyGivenNames x; clear_value (hx : x = _); refine Keeps.cut (l := K) (o := o) hx ?_ ?_) | with_reducible apply keeps_modFio | with_reducible apply keeps_fastQual | with_reducible apply Keeps.ite

theorem keeps_judgeLost {K : List Part} {o s : State} (hM : Within [.health, .irq, .ring, .trip, .clk, .fst, .fio, .chn] K) (h : Keeps K o s) : Keeps K o s.judgeLost := by
  unfold State.judgeLost
  repeat' first | with_reducible assumption | intro _ | exact hM.up rfl | with_reducible apply keeps_enterLost | with_reducible apply keeps_stage | with_reducible apply keeps_modFio | with_reducible apply Keeps.ite

theorem keeps_couplerFail {K : List Part} {o s : State} (k frames : Nat) (hM : Within [.health, .irq, .ring, .trip, .clk, .fst, .fio, .chn] K) (h : Keeps K o s) : Keeps K o (s.couplerFail k frames) := by
  unfold State.couplerFail
  repeat' first | with_reducible assumption | intro _ | exact hM.up rfl | (with_reducible refine Keeps.setHealth (hM.mem rfl) ?_ rfl; with_reducible assumption) | (extract_lets +onlyGivenNames x; clear_value (hx : x = _); refine Keeps.cut (l := K) (o := o) hx ?_ ?_) | (extract_lets +onlyGivenNames x; subst x) | with_reducible apply keeps_couplerFlush | with_reducible apply keeps_modDo | with_reducible apply keeps_modFio | with_reducible apply keeps_fastQual | with_reducible apply keeps_judgeLost | with_reducible apply Keeps.ite

theorem keeps_couplerOk {K : List Part} {o s : State} (k frames : Nat) (hM : Within [.irq, .ring, .trip, .clk, .fst, .fio, .chn] K) (h : Keeps K o s) : Keeps K o (s.couplerOk k frames) := by
  unfold State.couplerOk
  repeat' first | with_reducible assumption | intro _ | exact hM.up rfl | with_reducible apply keeps_couplerFlush | with_reducible apply keeps_modFio | with_reducible apply keeps_modDo | with_reducible apply keeps_followOutputs | with_reducible apply keeps_fastQual | with_reducible apply keeps_stage | with_reducible apply Keeps.ite

theorem keeps_inputAccepted {K : List Part} {o s : State} (n : Nat) (level : Bool) (sec us : Nat) (hM : Within [.irq, .ring, .trip, .clk, .fst, .fio, .chn] K) (h : Keeps K o s) : Keeps K o (s.inputAccepted n level sec us) := by
  unfold State.inputAccepted
  repeat' first | with_reducible assumption | exact hM.up rfl | with_reducible apply keeps_fastQual | with_reducible apply keeps_modDi

theorem keeps_restartInput {K : List Part} {o s : State} (n : Nat) (hM : Within [.fio] K) (h : Keeps K o s) : Keeps K o (s.restartInput n) := by
  unfold State.restartInput
  repeat' first | with_reducible assumption | exact hM.up rfl | with_reducible apply keeps_modDi

theorem keeps_fieldLatch {K : List Part} {o s : State} (hM : Within [.fio] K) (h : Keeps K o s) : Keeps K o s.fieldLatch := by
  unfold State.fieldLatch
  repeat' first | with_reducible assumption | exact hM.up rfl | with_reducible apply keeps_modFio

theorem keeps_tcsChange {K : List Part} {o s : State} (n : Nat) (present : Bool) (hM : Within [.fio] K) (h : Keeps K o s) : Keeps K o (s.tcsChange n present) := by
  unfold State.tcsChange
  repeat' first | with_reducible assumption | exact hM.up rfl | intro _ | with_reducible apply keeps_modFio | with_reducible apply Keeps.ite

theorem keeps_supplyReading {K : List Part} {o s : State} (vf t0 t1 : Nat) (hM : Within [.irq, .ring, .trip, .fio] K) (h : Keeps K o s) : Keeps K o (s.supplyReading vf t0 t1) := by
  unfold State.supplyReading
  repeat' first | with_reducible assumption | intro _ | exact hM.up rfl | with_reducible apply keeps_modFio | with_reducible apply keeps_stage | with_reducible apply Keeps.ite

theorem keeps_sagEnd {K : List Part} {o s : State} (hM : Within [.irq, .ring, .trip, .fio] K) (h : Keeps K o s) : Keeps K o s.sagEnd := by
  unfold State.sagEnd
  repeat' first | with_reducible assumption | intro _ | exact hM.up rfl | with_reducible apply keeps_stage | with_reducible apply keeps_modFio | with_reducible apply Keeps.ite

theorem keeps_fieldReady {K : List Part} {o s : State} (hM : Within [.irq, .ring, .trip, .clk, .fst, .fio, .chn] K) (h : Keeps K o s) : Keeps K o s.fieldReady := by
  unfold State.fieldReady
  repeat' first | with_reducible assumption | intro _ | exact hM.up rfl | with_reducible apply keeps_fastQual | with_reducible apply keeps_modFio | with_reducible apply Keeps.ite

theorem keeps_updateOutputs {K : List Part} {o s : State} (hM : Within [.health, .irq, .ring, .trip, .fio] K) (h : Keeps K o s) : Keeps K o s.updateOutputs := by
  unfold State.updateOutputs
  repeat' first | with_reducible assumption | intro _ | exact hM.up rfl | (with_reducible refine Keeps.setHealth (hM.mem rfl) ?_ rfl; with_reducible assumption) | (extract_lets +onlyGivenNames x; clear_value (hx : x = _); refine Keeps.cut (l := K) (o := o) hx ?_ ?_) | (extract_lets +onlyGivenNames x; subst x) | with_reducible apply keeps_modFio | with_reducible apply keeps_stage | with_reducible apply keeps_followOutputs | with_reducible apply Keeps.ite

theorem keeps_healthOpen {K : List Part} {o s : State} (hM : Within [.health] K) (h : Keeps K o s) : Keeps K o s.healthOpen := by
  unfold State.healthOpen
  repeat' first | with_reducible assumption | intro _ | (with_reducible refine Keeps.setHealth (hM.mem rfl) ?_ rfl; with_reducible assumption) | with_reducible apply Keeps.ite

theorem keeps_stuckOn {K : List Part} {o s : State} (n : Nat) (hM : Within [.irq, .nme, .ring, .trip, .fio] K) (h : Keeps K o s) : Keeps K o (s.stuckOn n) := by
  unfold State.stuckOn
  repeat' first | with_reducible assumption | intro _ | exact hM.up rfl | with_reducible apply keeps_modDo | with_reducible apply keeps_stage | with_reducible apply keeps_setNme | with_reducible apply Keeps.ite

theorem keeps_outShort {K : List Part} {o s : State} (n : Nat) (hM : Within [.irq, .ring, .trip, .fio] K) (h : Keeps K o s) : Keeps K o (s.outShort n) := by
  unfold State.outShort
  repeat' first | with_reducible assumption | intro _ | exact hM.up rfl | with_reducible apply keeps_stage | with_reducible apply keeps_modDo | with_reducible apply Keeps.ite

theorem keeps_thermalOff {K : List Part} {o s : State} (n : Nat) (hM : Within [.fio] K) (h : Keeps K o s) : Keeps K o (s.thermalOff n) := by
  unfold State.thermalOff
  repeat' first | with_reducible assumption | exact hM.up rfl | intro _ | with_reducible apply keeps_modDo | with_reducible apply Keeps.ite

theorem keeps_thermalRetry {K : List Part} {o s : State} (n : Nat) (hM : Within [.fio] K) (h : Keeps K o s) : Keeps K o (s.thermalRetry n) := by
  unfold State.thermalRetry
  repeat' first | with_reducible assumption | exact hM.up rfl | intro _ | with_reducible apply keeps_modDo | with_reducible apply Keeps.ite

theorem keeps_crossDrive {K : List Part} {o s : State} (n by_ : Nat) (hM : Within [.irq, .ring, .trip, .fio] K) (h : Keeps K o s) : Keeps K o (s.crossDrive n by_) := by
  unfold State.crossDrive
  repeat' first | with_reducible assumption | intro _ | exact hM.up rfl | with_reducible apply keeps_stage | with_reducible apply keeps_modDo | with_reducible apply Keeps.ite

theorem keeps_outFailOff {K : List Part} {o s : State} (n : Nat) (hM : Within [.irq, .ring, .trip, .fio] K) (h : Keeps K o s) : Keeps K o (s.outFailOff n) := by
  unfold State.outFailOff
  repeat' first | with_reducible assumption | intro _ | exact hM.up rfl | with_reducible apply keeps_stage | with_reducible apply keeps_modDo | with_reducible apply Keeps.ite

theorem keeps_outOpen {K : List Part} {o s : State} (n cur : Nat) (hM : Within [.irq, .ring, .trip, .fio] K) (h : Keeps K o s) : Keeps K o (s.outOpen n cur) := by
  unfold State.outOpen
  repeat' first | with_reducible assumption | intro _ | exact hM.up rfl | with_reducible apply keeps_stage | with_reducible apply keeps_modDo | with_reducible apply Keeps.ite

theorem keeps_outOverload {K : List Part} {o s : State} (n cur : Nat) (hM : Within [.irq, .ring, .trip, .fio] K) (h : Keeps K o s) : Keeps K o (s.outOverload n cur) := by
  unfold State.outOverload
  repeat' first | with_reducible assumption | intro _ | exact hM.up rfl | with_reducible apply keeps_stage | with_reducible apply keeps_modDo | with_reducible apply Keeps.ite

theorem keeps_crossClear {K : List Part} {o s : State} (v : Word) (hM : Within [.fio] K) (h : Keeps K o s) : Keeps K o (s.crossClear v) := by
  unfold State.crossClear
  repeat' first | with_reducible assumption | exact hM.up rfl | with_reducible apply keeps_followOutputs | with_reducible apply keeps_modFio

theorem keeps_writeFio {K : List Part} {o s : State} (addr : Nat) (v : Word) (hM : Within [.irq, .ring, .trip, .nv, .fio, .defer] K) (h : Keeps K o s) : Keeps K o (s.writeFio addr v).1 := by
  unfold State.writeFio
  repeat' first | with_reducible assumption | intro _ | exact hM.up rfl | with_reducible apply keeps_modFio | with_reducible apply keeps_stage | with_reducible apply keeps_store | with_reducible apply keeps_deferReg | with_reducible apply Keeps.ite | with_reducible apply Keeps.iteF

/-! ### SysState -/

theorem keeps_endJob {K : List Part} {o s : State} (ticket state reason : Nat) (hM : Within [.irq, .job, .ring, .trip] K) (h : Keeps K o s) : Keeps K o (s.endJob ticket state reason) := by
  unfold State.endJob
  split
  · exact h
  · exact keeps_stage _ _ _ (hM := hM.up rfl) (keeps_setIrq _ (hM := hM.up rfl) (Keeps.setJob (hM.mem rfl) h (Or.inl (List.length_filter_le _ _))))

theorem keeps_dropJobs {K : List Part} {o s : State} (hM : Within [.job] K) (h : Keeps K o s) : Keeps K o s.dropJobs := by
  unfold State.dropJobs
  exact Keeps.setJob (hM.mem rfl) h (Or.inr (by simp))

theorem keeps_endForeground {K : List Part} {o s : State} (hM : Within [.irq, .job, .ring, .trip, .afe, .flt] K) (h : Keeps K o s) : Keeps K o s.endForeground := by
  unfold State.endForeground
  repeat' first | with_reducible assumption | exact hM.up rfl | with_reducible apply keeps_endJob | with_reducible apply keeps_reconnectAll | split

theorem keeps_markTest {K : List Part} {o s : State} (on : Bool) (hM : Within [.flt] K) (h : Keeps K o s) : Keeps K o (s.markTest on) := by
  unfold State.markTest
  repeat' first | with_reducible assumption | intro _ | exact hM.up rfl | (with_reducible refine Keeps.setFlt (hM.mem rfl) ?_; with_reducible assumption) | (extract_lets +onlyGivenNames x; clear_value (hx : x = _); refine Keeps.cut (l := K) (o := o) hx ?_ ?_) | (extract_lets +onlyGivenNames x; clear_value (hx : x = _); refine Keeps.cutP (l := K) (o := o) hx ?_ ?_) | (extract_lets +onlyGivenNames x; subst x) | with_reducible apply Keeps.ite | with_reducible apply Keeps.iteF | with_reducible apply Keeps.iteS | with_reducible apply Keeps.foldl | (with_reducible refine Keeps.setFlt (hM.mem rfl) (Keeps.setFlt (hM.mem rfl) ?_); with_reducible assumption) | split

theorem keeps_applyState {K : List Part} {o s : State} (new : OpState) (hM : Within [.st, .irq, .ring, .trip, .flt, .fst, .fio, .chn, .hng] K) (h : Keeps K o s) : Keeps K o (s.applyState new) := by
  unfold State.applyState
  repeat' first | with_reducible assumption | intro _ | exact hM.up rfl | (with_reducible refine Keeps.setStHng (hM.mem rfl) (hM.mem rfl) ?_ rfl; with_reducible assumption) | (extract_lets +onlyGivenNames x; clear_value (hx : x = _); refine Keeps.cut (l := K) (o := o) hx ?_ ?_) | (extract_lets +onlyGivenNames x; clear_value (hx : x = _); refine Keeps.cutP (l := K) (o := o) hx ?_ ?_) | (extract_lets +onlyGivenNames x; subst x) | with_reducible apply keeps_holdOutputs | with_reducible apply keeps_markTest | with_reducible apply keeps_modFio | with_reducible apply keeps_followOutputs | with_reducible apply keeps_fastSettle | with_reducible apply Keeps.ite | with_reducible apply Keeps.iteF | with_reducible apply Keeps.iteS | with_reducible apply Keeps.foldl | (with_reducible refine Keeps.setStHng (hM.mem rfl) (hM.mem rfl) (Keeps.setStHng (hM.mem rfl) (hM.mem rfl) ?_ rfl) rfl; with_reducible assumption) | split

theorem keeps_timeService {K : List Part} {o s : State} (new : OpState) (hM : Within [.pwr] K) (h : Keeps K o s) : Keeps K o (s.timeService new) := by
  unfold State.timeService
  repeat' first | with_reducible assumption | intro _ | (with_reducible refine Keeps.setPwr (hM.mem rfl) ?_; with_reducible assumption) | with_reducible apply Keeps.ite

theorem keeps_changeState {K : List Part} {o s : State} (new : OpState) (cause : Nat) (hM : Within [.st, .irq, .nme, .job, .ring, .trip, .pwr, .afe, .flt, .fst, .fio, .chn, .hng] K) (h : Keeps K o s) : Keeps K o (s.changeState new cause) := by
  unfold State.changeState
  repeat' first | with_reducible assumption | intro _ | exact hM.up rfl | (with_reducible refine Keeps.setSt (hM.mem rfl) ?_ rfl; with_reducible assumption) | (extract_lets +onlyGivenNames x; clear_value (hx : x = _); refine Keeps.cut (l := K) (o := o) hx ?_ ?_) | (extract_lets +onlyGivenNames x; subst x) | with_reducible apply keeps_endForeground | with_reducible apply keeps_applyState | with_reducible apply keeps_timeService | with_reducible apply keeps_setNme | with_reducible apply keeps_stage | with_reducible apply keeps_setIrq | with_reducible apply Keeps.ite

theorem keeps_autoState {K : List Part} {o s : State} (new : OpState) (cause : Nat) (hM : Within [.st, .irq, .nme, .job, .ring, .trip, .pwr, .afe, .flt, .fst, .fio, .chn, .hng] K) (h : Keeps K o s) : Keeps K o (s.autoState new cause) := by
  unfold State.autoState
  exact Keeps.setSt (hM.mem rfl) (keeps_changeState _ _ (hM := hM.up rfl) h) rfl

theorem keeps_relinquish {K : List Part} {o s : State} (cause : Nat) (hM : Within [.irq, .ring, .trip, .fio, .hng] K) (h : Keeps K o s) : Keeps K o (s.relinquish cause) := by
  unfold State.relinquish
  repeat' first | with_reducible assumption | intro _ | exact hM.up rfl | (with_reducible refine Keeps.setHng (hM.mem rfl) ?_; with_reducible assumption) | (extract_lets +onlyGivenNames x; clear_value (hx : x = _); refine Keeps.cut (l := K) (o := o) hx ?_ ?_) | with_reducible apply keeps_holdOutputs | with_reducible apply keeps_stage | with_reducible apply Keeps.ite

theorem keeps_checkCauses {K : List Part} {o s : State} (hM : Within [.irq, .ring, .trip, .fio, .hng] K) (h : Keeps K o s) : Keeps K o s.checkCauses := by
  unfold State.checkCauses
  repeat' first | with_reducible assumption | exact hM.up rfl | with_reducible apply keeps_relinquish | split

theorem keeps_found {K : List Part} {o s : State} (cause : Nat) (hM : Within [.causes, .irq, .ring, .trip, .fio, .hng] K) (h : Keeps K o s) : Keeps K o (s.found cause) := by
  unfold State.found
  repeat' first | with_reducible assumption | exact hM.up rfl | with_reducible apply keeps_checkCauses | with_reducible apply keeps_addCause

theorem keeps_failsafeEntry {K : List Part} {o s : State} (cause : Nat) (hM : Within [.st, .irq, .nme, .job, .ring, .trip, .pwr, .afe, .flt, .fst, .fio, .chn, .hng] K) (h : Keeps K o s) : Keeps K o (s.failsafeEntry cause) := by
  unfold State.failsafeEntry
  repeat' first | with_reducible assumption | exact hM.up rfl | intro _ | (with_reducible refine Keeps.setHng (hM.mem rfl) ?_; with_reducible assumption) | (extract_lets +onlyGivenNames x; clear_value (hx : x = _); refine Keeps.cut (l := K) (o := o) hx ?_ ?_) | with_reducible apply keeps_autoState | with_reducible apply Keeps.ite

theorem keeps_causeCleared {K : List Part} {o s : State} (hM : Within [.st, .irq, .nme, .job, .ring, .trip, .pwr, .afe, .flt, .fst, .fio, .chn, .hng] K) (h : Keeps K o s) : Keeps K o s.causeCleared := by
  unfold State.causeCleared
  repeat' first | with_reducible assumption | exact hM.up rfl | with_reducible apply keeps_autoState | split

theorem keeps_writeReq {K : List Part} {o s : State} (code : Nat) (hM : Within [.req, .due] K) (h : Keeps K o s) : Keeps K o (s.writeReq code).1 := by
  unfold State.writeReq
  have k : ∀ x : Sys, x = { s.sys with pend := x.pend, reqVal := x.reqVal, reqOt := x.reqOt, reqResult := x.reqResult, reqDue := x.reqDue, reqHold := x.reqHold, autoDue := x.autoDue } → Keeps K o { s with sys := x } := by
    intro x e
    refine ⟨⟨h.1.1, fun p hp => ?_⟩, h.2⟩
    have g := h.1.2 p hp
    rw [e]
    cases p <;> first | exact g | exact absurd (hM.mem rfl) hp
  repeat' first | exact h | exact k _ rfl | split

theorem keeps_startShutdown {K : List Part} {o s : State} (hM : Within [.st, .irq, .ring, .trip, .pwr, .pe] K) (h : Keeps K o s) : Keeps K o s.startShutdown := by
  unfold State.startShutdown
  repeat' first | with_reducible assumption | exact hM.up rfl | (with_reducible refine Keeps.setStPwrPe (hM.mem rfl) (hM.mem rfl) (hM.mem rfl) ?_ rfl; with_reducible assumption) | with_reducible apply keeps_stage | with_reducible apply keeps_setIrq

theorem keeps_carryOut {K : List Part} {o s : State} (code : Nat) (hM : Within [.st, .irq, .nme, .job, .ring, .trip, .pwr, .afe, .flt, .pe, .fst, .fio, .chn, .hng] K) (h : Keeps K o s) : Keeps K o (s.carryOut code) := by
  unfold State.carryOut
  repeat' first | with_reducible assumption | intro _ | exact hM.up rfl | with_reducible apply keeps_startShutdown | with_reducible apply keeps_changeState | with_reducible apply keeps_relinquish | with_reducible apply Keeps.ite

/-! ### Time -/

theorem keeps_modPtp {K : List Part} {o s : State} (f : Ptp → Ptp) (hM : Within [.ptp] K) (h : Keeps K o s) : Keeps K o (s.modPtp f) := by
  unfold State.modPtp
  repeat' first | with_reducible assumption | (with_reducible refine Keeps.setPtp (hM.mem rfl) ?_; with_reducible assumption)

theorem keeps_ptpTick {K : List Part} {o s : State} (ot : Nat) (hM : Within [.ptp] K) (h : Keeps K o s) : Keeps K o (s.ptpTick ot) := by
  unfold State.ptpTick
  repeat' first | with_reducible assumption | exact hM.up rfl | with_reducible apply keeps_modPtp

theorem keeps_latchTime {K : List Part} {o s : State} (hM : Within [.ptp] K) (h : Keeps K o s) : Keeps K o s.latchTime := by
  unfold State.latchTime
  repeat' first | with_reducible assumption | exact hM.up rfl | with_reducible apply keeps_modPtp

theorem keeps_leaveLock {K : List Part} {o s : State} (hM : Within [.clk] K) (h : Keeps K o s) : Keeps K o s.leaveLock := by
  unfold State.leaveLock
  repeat' first | with_reducible assumption | intro _ | (with_reducible refine Keeps.setClk (hM.mem rfl) ?_; with_reducible assumption) | with_reducible apply Keeps.ite

theorem keeps_toAcquiring {K : List Part} {o s : State} (hM : Within [.clk, .ptp] K) (h : Keeps K o s) : Keeps K o s.toAcquiring := by
  unfold State.toAcquiring
  repeat' first | with_reducible assumption | exact hM.up rfl | with_reducible apply keeps_modPtp | with_reducible apply keeps_leaveLock

theorem keeps_toLocked {K : List Part} {o s : State} (hM : Within [.irq, .ring, .trip, .ptp] K) (h : Keeps K o s) : Keeps K o s.toLocked := by
  unfold State.toLocked
  repeat' first | with_reducible assumption | exact hM.up rfl | with_reducible apply keeps_stage | with_reducible apply keeps_modPtp

theorem keeps_holdover {K : List Part} {o s : State} (cause : Nat) (hM : Within [.irq, .ring, .trip, .clk, .ptp] K) (h : Keeps K o s) : Keeps K o (s.holdover cause) := by
  unfold State.holdover
  repeat' first | with_reducible assumption | intro _ | exact hM.up rfl | with_reducible apply keeps_stage | with_reducible apply keeps_modPtp | with_reducible apply keeps_leaveLock | with_reducible apply Keeps.ite

theorem keeps_endHoldover {K : List Part} {o s : State} (hM : Within [.clk, .ptp] K) (h : Keeps K o s) : Keeps K o s.endHoldover := by
  unfold State.endHoldover
  repeat' first | with_reducible assumption | exact hM.up rfl | intro _ | with_reducible apply keeps_toAcquiring | with_reducible apply Keeps.ite

theorem keeps_dropHold {K : List Part} {o s : State} (gone : List Nat) (hM : Within [.ptp] K) (h : Keeps K o s) : Keeps K o (s.dropHold gone) := by
  unfold State.dropHold
  repeat' first | with_reducible assumption | exact hM.up rfl | with_reducible apply keeps_modPtp

theorem keeps_srcMoved {K : List Part} {o s : State} (old : Nat) (hM : Within [.clk, .ptp] K) (h : Keeps K o s) : Keeps K o (s.srcMoved old) := by
  unfold State.srcMoved
  repeat' first | with_reducible assumption | intro _ | exact hM.up rfl | with_reducible apply keeps_modPtp | with_reducible apply keeps_leaveLock | with_reducible apply keeps_toAcquiring | with_reducible apply keeps_endHoldover | with_reducible apply Keeps.ite

theorem keeps_flushStreams {K : List Part} {o s : State} (hM : Within [.svc] K) (h : Keeps K o s) : Keeps K o s.flushStreams := by
  unfold State.flushStreams
  repeat' first | with_reducible assumption | (with_reducible refine Keeps.setSvc (hM.mem rfl) ?_; with_reducible assumption)

theorem keeps_afterStep {K : List Part} {o s : State} (old : Nat × Nat) (source : Nat) (hM : Within [.irq, .ring, .trip, .ptp, .svc] K) (h : Keeps K o s) : Keeps K o (s.afterStep old source) := by
  unfold State.afterStep
  repeat' first | with_reducible assumption | exact hM.up rfl | with_reducible apply keeps_modPtp | with_reducible apply keeps_stageTick | with_reducible apply keeps_flushStreams

theorem keeps_stepBy {K : List Part} {o s : State} (o' : Rat) (source : Nat) (hM : Within [.irq, .ring, .trip, .clk, .ptp, .svc] K) (h : Keeps K o s) : Keeps K o (s.stepBy o' source) := by
  unfold State.stepBy
  repeat' first | with_reducible assumption | intro _ | exact hM.up rfl | with_reducible apply keeps_modPtp | with_reducible apply keeps_afterStep | with_reducible apply keeps_dropHold | with_reducible apply keeps_endHoldover | with_reducible apply keeps_toAcquiring | with_reducible apply Keeps.ite

theorem keeps_refuseStep {K : List Part} {o s : State} (o' : Rat) (hM : Within [.irq, .ring, .trip, .clk, .ptp] K) (h : Keeps K o s) : Keeps K o (s.refuseStep o') := by
  unfold State.refuseStep
  repeat' first | with_reducible assumption | intro _ | exact hM.up rfl | with_reducible apply keeps_modPtp | with_reducible apply keeps_stage | with_reducible apply keeps_holdover | with_reducible apply Keeps.ite

theorem keeps_servo {K : List Part} {o s : State} (o' : Rat) (hM : Within [.ptp] K) (h : Keeps K o s) : Keeps K o (s.servo o') := by
  unfold State.servo
  repeat' first | with_reducible assumption | exact hM.up rfl | with_reducible apply keeps_modPtp

theorem keeps_lockJudge {K : List Part} {o s : State} (o' : Rat) (may : Bool) (hM : Within [.irq, .ring, .trip, .clk, .ptp] K) (h : Keeps K o s) : Keeps K o (s.lockJudge o' may) := by
  unfold State.lockJudge
  repeat' first | with_reducible assumption | exact hM.up rfl | (extract_lets +onlyGivenNames x; subst x) | with_reducible apply keeps_modPtp | with_reducible apply keeps_toLocked | with_reducible apply keeps_toAcquiring | split

theorem keeps_takeOffset {K : List Part} {o s : State} (o' : Rat) (may : Bool) (hM : Within [.irq, .ring, .trip, .clk, .ptp] K) (h : Keeps K o s) : Keeps K o (s.takeOffset o' may) := by
  unfold State.takeOffset
  repeat' first | with_reducible assumption | exact hM.up rfl | with_reducible apply keeps_servo | with_reducible apply keeps_endHoldover | with_reducible apply keeps_dropHold | with_reducible apply keeps_modPtp | with_reducible apply keeps_lockJudge

theorem keeps_judgeOffset {K : List Part} {o s : State} (o' : Rat) (may : Bool) (hM : Within [.irq, .ring, .trip, .clk, .ptp, .svc] K) (h : Keeps K o s) : Keeps K o (s.judgeOffset o' may) := by
  unfold State.judgeOffset
  repeat' first | with_reducible assumption | intro _ | exact hM.up rfl | with_reducible apply keeps_modPtp | with_reducible apply keeps_stepBy | with_reducible apply keeps_refuseStep | with_reducible apply keeps_takeOffset | with_reducible apply Keeps.ite

theorem keeps_writeForce {K : List Part} {o s : State} (v : Word) (hM : Within [.irq, .ring, .trip, .clk, .ptp, .svc] K) (h : Keeps K o s) : Keeps K o (s.writeForce v) := by
  unfold State.writeForce
  repeat' first | with_reducible assumption | intro _ | exact hM.up rfl | with_reducible apply keeps_modPtp | with_reducible apply keeps_afterStep | with_reducible apply keeps_toAcquiring | with_reducible apply Keeps.ite | split

theorem keeps_realigned {K : List Part} {o s : State} (hM : Within [.irq, .ring, .trip, .ptp] K) (h : Keeps K o s) : Keeps K o s.realigned := by
  unfold State.realigned
  repeat' first | with_reducible assumption | intro _ | exact hM.up rfl | with_reducible apply keeps_stage | with_reducible apply keeps_modPtp | with_reducible apply Keeps.ite

theorem keeps_reselect {K : List Part} {o s : State} (hM : Within [.irq, .ring, .trip, .ptp] K) (h : Keeps K o s) : Keeps K o s.reselect := by
  unfold State.reselect
  repeat' first | with_reducible assumption | exact hM.up rfl | (extract_lets +onlyGivenNames x; subst x) | with_reducible apply keeps_modPtp | with_reducible apply keeps_stage | split

theorem keeps_announce {K : List Part} {o s : State} (p : Nat) (a : AnnounceIn) (hM : Within [.irq, .ring, .trip, .clk, .ptp] K) (h : Keeps K o s) : Keeps K o (s.announce p a) := by
  unfold State.announce
  repeat' first | with_reducible assumption | intro _ | exact hM.up rfl | with_reducible apply keeps_reselect | with_reducible apply keeps_modPtp | with_reducible apply keeps_endHoldover | with_reducible apply keeps_dropHold | with_reducible apply Keeps.ite

theorem keeps_announceTimeout {K : List Part} {o s : State} (p : Nat) (hM : Within [.irq, .ring, .trip, .clk, .ptp] K) (h : Keeps K o s) : Keeps K o (s.announceTimeout p) := by
  unfold State.announceTimeout
  repeat' first | with_reducible assumption | intro _ | exact hM.up rfl | with_reducible apply keeps_reselect | with_reducible apply keeps_modPtp | with_reducible apply keeps_holdover | with_reducible apply Keeps.ite

theorem keeps_syncTimeout {K : List Part} {o s : State} (hM : Within [.irq, .ring, .trip, .clk, .ptp] K) (h : Keeps K o s) : Keeps K o s.syncTimeout := by
  unfold State.syncTimeout
  repeat' first | with_reducible assumption | exact hM.up rfl | intro _ | with_reducible apply keeps_holdover | with_reducible apply Keeps.ite

theorem keeps_syncOffset {K : List Part} {o s : State} (p : Nat) (t1 t2 corr : Int) (hM : Within [.irq, .ring, .trip, .clk, .ptp, .svc] K) (h : Keeps K o s) : Keeps K o (s.syncOffset p t1 t2 corr) := by
  unfold State.syncOffset
  repeat' first | with_reducible assumption | exact hM.up rfl | with_reducible apply keeps_endHoldover | with_reducible apply keeps_judgeOffset | with_reducible apply keeps_dropHold

theorem keeps_ptpSync {K : List Part} {o s : State} (p : Nat) (m : SyncIn) (hM : Within [.irq, .ring, .trip, .clk, .ptp, .svc] K) (h : Keeps K o s) : Keeps K o (s.ptpSync p m) := by
  unfold State.ptpSync
  repeat' first | with_reducible assumption | intro _ | exact hM.up rfl | with_reducible apply keeps_syncOffset | with_reducible apply keeps_modPtp | with_reducible apply Keeps.ite

theorem keeps_ptpFollowUp {K : List Part} {o s : State} (p seq : Nat) (t1 corr : Int) (hM : Within [.irq, .ring, .trip, .clk, .ptp, .svc] K) (h : Keeps K o s) : Keeps K o (s.ptpFollowUp p seq t1 corr) := by
  unfold State.ptpFollowUp
  repeat' first | with_reducible assumption | exact hM.up rfl | with_reducible apply keeps_syncOffset | with_reducible apply keeps_modPtp | split

theorem keeps_send {K : List Part} {o s : State} (l : List NetOut) (hM : Within [.svc] K) (h : Keeps K o s) : Keeps K o (s.send l) := by
  unfold State.send
  repeat' first | with_reducible assumption | (with_reducible refine Keeps.setSvc (hM.mem rfl) ?_; with_reducible assumption)

theorem keeps_pdelayReq {K : List Part} {o s : State} (p seq : Nat) (t2 t3 : Int) (hM : Within [.svc] K) (h : Keeps K o s) : Keeps K o (s.pdelayReq p seq t2 t3) := by
  unfold State.pdelayReq
  repeat' first | with_reducible assumption | exact hM.up rfl | intro _ | with_reducible apply keeps_send | with_reducible apply Keeps.ite

theorem keeps_pdelayResp {K : List Part} {o s : State} (p : Nat) (t1p t2p t3p t4 : Int) (hM : Within [.ptp] K) (h : Keeps K o s) : Keeps K o (s.pdelayResp p t1p t2p t3p t4) := by
  unfold State.pdelayResp
  repeat' first | with_reducible assumption | exact hM.up rfl | intro _ | with_reducible apply keeps_modPtp | with_reducible apply Keeps.ite

theorem keeps_writePtpCtl {K : List Part} {o s : State} (v : Word) (hM : Within [.irq, .ring, .trip, .clk, .nv, .ptp, .regs] K) (h : Keeps K o s) : Keeps K o (s.writePtpCtl v).1 := by
  unfold State.writePtpCtl
  repeat' first | with_reducible assumption | exact hM.up rfl | with_reducible apply keeps_setStored | with_reducible apply keeps_modPtp | with_reducible apply keeps_srcMoved | with_reducible apply keeps_reselect | split

theorem keeps_ethLink {K : List Part} {o s : State} (m : Nat) (up : Bool) (speed : Nat) (hM : Within [.irq, .ring, .trip, .clk, .ptp, .svc] K) (h : Keeps K o s) : Keeps K o (s.ethLink m up speed) := by
  unfold State.ethLink
  repeat' first | with_reducible assumption | intro _ | exact hM.up rfl | (with_reducible refine Keeps.setSvc (hM.mem rfl) ?_; with_reducible assumption) | with_reducible apply keeps_stage | with_reducible apply keeps_holdover | with_reducible apply Keeps.ite

/-! ### Signals -/

theorem keeps_trackingLost {K : List Part} {o s : State} (hM : Within [.trk] K) (h : Keeps K o s) : Keeps K o s.trackingLost := by
  unfold State.trackingLost
  repeat' first | with_reducible assumption | (with_reducible refine Keeps.setTrk (hM.mem rfl) ?_; with_reducible assumption)

/-! ### Engine -/

theorem keeps_modPe {K : List Part} {o s : State} (f : Engines → Engines) (hM : Within [.pe] K) (h : Keeps K o s) : Keeps K o (s.modPe f) := by
  unfold State.modPe
  repeat' first | with_reducible assumption | (with_reducible refine Keeps.setPe (hM.mem rfl) ?_; with_reducible assumption)

theorem keeps_setPair {K : List Part} {o s : State} (p : Nat) (r : PairRole) (hM : Within [.pe] K) (h : Keeps K o s) : Keeps K o (s.setPair p r) := by
  unfold State.setPair
  repeat' first | with_reducible assumption | exact hM.up rfl | with_reducible apply keeps_modPe

theorem keeps_poolCheck {K : List Part} {o s : State} (hM : Within [.irq, .ring, .trip, .pe] K) (h : Keeps K o s) : Keeps K o s.poolCheck := by
  unfold State.poolCheck
  repeat' first | with_reducible assumption | intro _ | exact hM.up rfl | with_reducible apply keeps_modPe | with_reducible apply keeps_stage | with_reducible apply Keeps.ite

theorem keeps_placesCheck {K : List Part} {o s : State} (hM : Within [.causes, .irq, .ring, .trip, .fio, .hng] K) (h : Keeps K o s) : Keeps K o s.placesCheck := by
  unfold State.placesCheck
  repeat' first | with_reducible assumption | intro _ | exact hM.up rfl | (extract_lets +onlyGivenNames x; clear_value (hx : x = _); refine Keeps.cut (l := K) (o := o) hx ?_ ?_) | (extract_lets +onlyGivenNames x; clear_value (hx : x = _); refine Keeps.cutP (l := K) (o := o) hx ?_ ?_) | (extract_lets +onlyGivenNames x; subst x) | with_reducible apply keeps_found | with_reducible apply keeps_dropCause | with_reducible apply Keeps.ite | with_reducible apply Keeps.iteF | with_reducible apply Keeps.iteS | with_reducible apply Keeps.foldl | split

theorem keeps_takeSpare {K : List Part} {o s : State} (p : Nat) (hM : Within [.pe] K) (h : Keeps K o s) : Keeps K o (s.takeSpare p) := by
  unfold State.takeSpare
  repeat' first | with_reducible assumption | exact hM.up rfl | with_reducible apply keeps_modPe | with_reducible apply keeps_setPair

theorem keeps_assignPlaces {K : List Part} {o s : State} (hM : Within [.causes, .irq, .ring, .trip, .pe, .fio, .hng] K) (h : Keeps K o s) : Keeps K o s.assignPlaces := by
  unfold State.assignPlaces
  repeat' first | with_reducible assumption | intro _ | exact hM.up rfl | (extract_lets +onlyGivenNames x; clear_value (hx : x = _); refine Keeps.cut (l := K) (o := o) hx ?_ ?_) | (extract_lets +onlyGivenNames x; clear_value (hx : x = _); refine Keeps.cutP (l := K) (o := o) hx ?_ ?_) | (extract_lets +onlyGivenNames x; subst x) | with_reducible apply keeps_modPe | with_reducible apply keeps_placesCheck | with_reducible apply keeps_poolCheck | with_reducible apply Keeps.ite | with_reducible apply Keeps.iteF | with_reducible apply Keeps.iteS | with_reducible apply Keeps.foldl | split

theorem keeps_initStore {K : List Part} {o s : State} (hM : Within [.pe] K) (h : Keeps K o s) : Keeps K o s.initStore := by
  unfold State.initStore
  repeat' first | with_reducible assumption | exact hM.up rfl | with_reducible apply keeps_modPe

theorem keeps_wake {K : List Part} {o s : State} (ecc : List Nat) (hM : Within [.pe] K) (h : Keeps K o s) : Keeps K o (s.wake ecc) := by
  unfold State.wake
  repeat' first | with_reducible assumption | exact hM.up rfl | with_reducible apply keeps_modPe

theorem keeps_markHeld {K : List Part} {o s : State} (pl : Nat) (h' : Bool) (hM : Within [.pe] K) (h : Keeps K o s) : Keeps K o (s.markHeld pl h') := by
  unfold State.markHeld
  repeat' first | with_reducible assumption | exact hM.up rfl | intro _ | with_reducible apply keeps_modPe | with_reducible apply Keeps.ite | with_reducible apply Keeps.foldl

theorem keeps_writeNets {K : List Part} {o s : State} (b : List (Nat × Bool)) (a : List (Nat × ANet)) (hM : Within [.pe] K) (h : Keeps K o s) : Keeps K o (s.writeNets b a) := by
  unfold State.writeNets
  repeat' first | with_reducible assumption | exact hM.up rfl | with_reducible apply keeps_modPe

theorem keeps_markLatches {K : List Part} {o s : State} (els : List ElemSt) (hM : Within [.nv] K) (h : Keeps K o s) : Keeps K o (s.markLatches els) := by
  unfold State.markLatches
  repeat' first | with_reducible assumption | (with_reducible refine Keeps.setNv (hM.mem rfl) ?_; with_reducible assumption)

theorem keeps_injEdge {K : List Part} {o s : State} (hM : Within [.irq, .ring, .trip, .aux] K) (h : Keeps K o s) : Keeps K o s.injEdge := by
  unfold State.injEdge
  repeat' first | with_reducible assumption | intro _ | exact hM.up rfl | (extract_lets +onlyGivenNames x; clear_value (hx : x = _); refine Keeps.cut (l := K) (o := o) hx ?_ ?_) | (extract_lets +onlyGivenNames x; clear_value (hx : x = _); refine Keeps.cutP (l := K) (o := o) hx ?_ ?_) | (extract_lets +onlyGivenNames x; subst x) | with_reducible apply keeps_modAux | with_reducible apply keeps_injTrigger | with_reducible apply Keeps.ite | with_reducible apply Keeps.iteF | with_reducible apply Keeps.iteS | with_reducible apply Keeps.foldl | split

theorem keeps_applyWrites {K : List Part} {o s : State} (b : List (Nat × Bool)) (a : List (Nat × ANet)) (els : List ElemSt) (evs : List Ev) (hM : Within [.irq, .ring, .trip, .clk, .nv, .aux, .pe, .fst, .chn] K) (h : Keeps K o s) : Keeps K o (s.applyWrites b a els evs) := by
  unfold State.applyWrites
  repeat' first | with_reducible assumption | intro _ | exact hM.up rfl | (extract_lets +onlyGivenNames x; clear_value (hx : x = _); refine Keeps.cut (l := K) (o := o) hx ?_ ?_) | (extract_lets +onlyGivenNames x; clear_value (hx : x = _); refine Keeps.cutP (l := K) (o := o) hx ?_ ?_) | (extract_lets +onlyGivenNames x; subst x) | with_reducible apply keeps_writeNets | with_reducible apply keeps_modPe | with_reducible apply keeps_stageTick | with_reducible apply keeps_markLatches | with_reducible apply keeps_raiseOp | with_reducible apply keeps_sendGroups | with_reducible apply keeps_injEdge | with_reducible apply Keeps.ite | with_reducible apply Keeps.iteF | with_reducible apply Keeps.iteS | with_reducible apply Keeps.foldl | split

theorem keeps_modAtt {K : List Part} {o s : State} (pl : Nat) (f : Attempt → Attempt) (hM : Within [.pe] K) (h : Keeps K o s) : Keeps K o (s.modAtt pl f) := by
  unfold State.modAtt
  repeat' first | with_reducible assumption | exact hM.up rfl | with_reducible apply keeps_modPe

theorem keeps_modPlace {K : List Part} {o s : State} (pl : Nat) (f : Placement → Placement) (hM : Within [.pe] K) (h : Keeps K o s) : Keeps K o (s.modPlace pl f) := by
  unfold State.modPlace
  repeat' first | with_reducible assumption | exact hM.up rfl | with_reducible apply keeps_modPe

theorem keeps_commit {K : List Part} {o s : State} (pl cycles : Nat) (hM : Within [.irq, .ring, .trip, .clk, .nv, .aux, .pe, .fst, .chn] K) (h : Keeps K o s) : Keeps K o (s.commit pl cycles) := by
  unfold State.commit
  repeat' first | with_reducible assumption | exact hM.up rfl | with_reducible apply keeps_applyWrites | with_reducible apply keeps_markHeld | with_reducible apply keeps_modAtt | with_reducible apply keeps_modPlace | with_reducible apply keeps_stageTick | split

theorem keeps_strand {K : List Part} {o s : State} (pl : Nat) (hM : Within [.causes, .irq, .ring, .trip, .pe, .fio, .hng] K) (h : Keeps K o s) : Keeps K o (s.strand pl) := by
  unfold State.strand
  repeat' first | with_reducible assumption | exact hM.up rfl | with_reducible apply keeps_found | with_reducible apply keeps_modPlace | with_reducible apply keeps_modAtt

theorem keeps_isolate {K : List Part} {o s : State} (pair pl cause : Nat) (hM : Within [.irq, .ring, .trip, .nv, .pe] K) (h : Keeps K o s) : Keeps K o (s.isolate pair pl cause) := by
  unfold State.isolate
  repeat' first | with_reducible assumption | intro _ | exact hM.up rfl | (with_reducible refine Keeps.setNv (hM.mem rfl) ?_; with_reducible assumption) | (extract_lets +onlyGivenNames x; clear_value (hx : x = _); refine Keeps.cut (l := K) (o := o) hx ?_ ?_) | with_reducible apply keeps_stageTick | with_reducible apply keeps_modPe | with_reducible apply keeps_setPair

theorem keeps_mismatch {K : List Part} {o s : State} (pl cause : Nat) (hM : Within [.causes, .irq, .ring, .trip, .clk, .nv, .pe, .fio, .hng] K) (h : Keeps K o s) : Keeps K o (s.mismatch pl cause) := by
  unfold State.mismatch
  repeat' first | with_reducible assumption | exact hM.up rfl | (extract_lets +onlyGivenNames x; subst x) | with_reducible apply keeps_raiseOp | with_reducible apply keeps_isolate | with_reducible apply keeps_strand | with_reducible apply keeps_poolCheck | with_reducible apply keeps_modPlace | with_reducible apply keeps_modAtt | with_reducible apply keeps_takeSpare | split

theorem keeps_overrun {K : List Part} {o s : State} (pl cycles : Nat) (hM : Within [.causes, .irq, .ring, .trip, .clk, .nv, .pe, .fio, .hng] K) (h : Keeps K o s) : Keeps K o (s.overrun pl cycles) := by
  unfold State.overrun
  repeat' first | with_reducible assumption | exact hM.up rfl | intro _ | with_reducible apply keeps_mismatch | with_reducible apply Keeps.ite

theorem keeps_stall {K : List Part} {o s : State} (pl gap : Nat) (hM : Within [.causes, .irq, .ring, .trip, .clk, .nv, .pe, .fio, .hng] K) (h : Keeps K o s) : Keeps K o (s.stall pl gap) := by
  unfold State.stall
  repeat' first | with_reducible assumption | exact hM.up rfl | intro _ | with_reducible apply keeps_mismatch | with_reducible apply Keeps.ite

theorem keeps_reexecStart {K : List Part} {o s : State} (pl : Nat) (hM : Within [.pe] K) (h : Keeps K o s) : Keeps K o (s.reexecStart pl) := by
  unfold State.reexecStart
  repeat' first | with_reducible assumption | exact hM.up rfl | with_reducible apply keeps_modAtt | split

theorem keeps_modDefPair {K : List Part} {o s : State} (p : Nat) (f : DefPair → DefPair) (hM : Within [.dm] K) (h : Keeps K o s) : Keeps K o (s.modDefPair p f) := by
  unfold State.modDefPair
  repeat' first | with_reducible assumption | (with_reducible refine Keeps.setDm (hM.mem rfl) ?_; with_reducible assumption)

theorem keeps_mapOutPair {K : List Part} {o s : State} (p reason : Nat) (hM : Within [.irq, .ring, .trip, .dm, .pe] K) (h : Keeps K o s) : Keeps K o (s.mapOutPair p reason) := by
  unfold State.mapOutPair
  repeat' first | with_reducible assumption | exact hM.up rfl | with_reducible apply keeps_stage | with_reducible apply keeps_setPair | with_reducible apply keeps_modDefPair

theorem keeps_joinPool {K : List Part} {o s : State} (p : Nat) (hM : Within [.causes, .irq, .ring, .trip, .pe] K) (h : Keeps K o s) : Keeps K o (s.joinPool p) := by
  unfold State.joinPool
  repeat' first | with_reducible assumption | intro _ | exact hM.up rfl | with_reducible apply keeps_modPlace | with_reducible apply keeps_setPair | with_reducible apply keeps_dropCause | with_reducible apply keeps_poolCheck | with_reducible apply Keeps.ite | split

theorem keeps_transient {K : List Part} {o s : State} (p : Nat) (hM : Within [.causes, .irq, .ring, .trip, .dm, .pe] K) (h : Keeps K o s) : Keeps K o (s.transient p) := by
  unfold State.transient
  repeat' first | with_reducible assumption | intro _ | exact hM.up rfl | with_reducible apply keeps_modDefPair | with_reducible apply keeps_stage | with_reducible apply keeps_mapOutPair | with_reducible apply keeps_joinPool | with_reducible apply Keeps.ite

theorem keeps_showBist {K : List Part} {o s : State} (p result reason : Nat) (hM : Within [.pe] K) (h : Keeps K o s) : Keeps K o (s.showBist p result reason) := by
  unfold State.showBist
  repeat' first | with_reducible assumption | intro _ | exact hM.up rfl | (extract_lets +onlyGivenNames x; clear_value (hx : x = _); refine Keeps.cut (l := K) (o := o) hx ?_ ?_) | (extract_lets +onlyGivenNames x; clear_value (hx : x = _); refine Keeps.cutP (l := K) (o := o) hx ?_ ?_) | (extract_lets +onlyGivenNames x; subst x) | with_reducible apply keeps_modPe | with_reducible apply Keeps.ite | with_reducible apply Keeps.iteF | with_reducible apply Keeps.iteS | with_reducible apply Keeps.foldl | split

theorem keeps_bistTold {K : List Part} {o s : State} (p result reason : Nat) (hM : Within [.irq, .ring, .trip, .pe] K) (h : Keeps K o s) : Keeps K o (s.bistTold p result reason) := by
  unfold State.bistTold
  repeat' first | with_reducible assumption | intro _ | exact hM.up rfl | (extract_lets +onlyGivenNames x; clear_value (hx : x = _); refine Keeps.cut (l := K) (o := o) hx ?_ ?_) | (extract_lets +onlyGivenNames x; clear_value (hx : x = _); refine Keeps.cutP (l := K) (o := o) hx ?_ ?_) | (extract_lets +onlyGivenNames x; subst x) | with_reducible apply keeps_stage | with_reducible apply keeps_showBist | with_reducible apply Keeps.ite | with_reducible apply Keeps.iteF | with_reducible apply Keeps.iteS | with_reducible apply Keeps.foldl | split

theorem keeps_endBist {K : List Part} {o s : State} (p state reason : Nat) (hM : Within [.irq, .job, .ring, .trip] K) (h : Keeps K o s) : Keeps K o (s.endBist p state reason) := by
  unfold State.endBist
  repeat' first | with_reducible assumption | intro _ | exact hM.up rfl | (extract_lets +onlyGivenNames x; clear_value (hx : x = _); refine Keeps.cut (l := K) (o := o) hx ?_ ?_) | (extract_lets +onlyGivenNames x; clear_value (hx : x = _); refine Keeps.cutP (l := K) (o := o) hx ?_ ?_) | (extract_lets +onlyGivenNames x; subst x) | with_reducible apply keeps_endJob | with_reducible apply Keeps.ite | with_reducible apply Keeps.iteF | with_reducible apply Keeps.iteS | with_reducible apply Keeps.foldl | split

theorem keeps_bistEnd {K : List Part} {o s : State} (p : Nat) (pass : Bool) (hM : Within [.irq, .job, .ring, .trip, .pe] K) (h : Keeps K o s) : Keeps K o (s.bistEnd p pass) := by
  unfold State.bistEnd
  repeat' first | with_reducible assumption | intro _ | exact hM.up rfl | (extract_lets +onlyGivenNames x; clear_value (hx : x = _); refine Keeps.cut (l := K) (o := o) hx ?_ ?_) | (extract_lets +onlyGivenNames x; clear_value (hx : x = _); refine Keeps.cutP (l := K) (o := o) hx ?_ ?_) | (extract_lets +onlyGivenNames x; subst x) | with_reducible apply keeps_endBist | with_reducible apply keeps_bistTold | with_reducible apply Keeps.ite | with_reducible apply Keeps.iteF | with_reducible apply Keeps.iteS | with_reducible apply Keeps.foldl | split

theorem keeps_bistFail {K : List Part} {o s : State} (p reason : Nat) (hM : Within [.irq, .job, .ring, .trip, .pe] K) (h : Keeps K o s) : Keeps K o (s.bistFail p reason) := by
  unfold State.bistFail
  repeat' first | with_reducible assumption | intro _ | exact hM.up rfl | (extract_lets +onlyGivenNames x; clear_value (hx : x = _); refine Keeps.cut (l := K) (o := o) hx ?_ ?_) | (extract_lets +onlyGivenNames x; clear_value (hx : x = _); refine Keeps.cutP (l := K) (o := o) hx ?_ ?_) | (extract_lets +onlyGivenNames x; subst x) | with_reducible apply keeps_endBist | with_reducible apply keeps_bistTold | with_reducible apply Keeps.ite | with_reducible apply Keeps.iteF | with_reducible apply Keeps.iteS | with_reducible apply Keeps.foldl | split

theorem keeps_selftestEnd {K : List Part} {o s : State} (p : Nat) (pass : Bool) (hM : Within [.causes, .irq, .job, .ring, .trip, .dm, .pe] K) (h : Keeps K o s) : Keeps K o (s.selftestEnd p pass) := by
  unfold State.selftestEnd
  repeat' first | with_reducible assumption | exact hM.up rfl | with_reducible apply keeps_modPe | with_reducible apply keeps_transient | with_reducible apply keeps_mapOutPair | with_reducible apply keeps_bistEnd | with_reducible apply keeps_joinPool | with_reducible apply keeps_poolCheck | split

theorem keeps_spareTest {K : List Part} {o s : State} (p : Nat) (hM : Within [.pe] K) (h : Keeps K o s) : Keeps K o (s.spareTest p) := by
  unfold State.spareTest
  repeat' first | with_reducible assumption | exact hM.up rfl | intro _ | with_reducible apply keeps_modPe | with_reducible apply Keeps.ite

theorem keeps_bistRefuse {K : List Part} {o s : State} (p r : Nat) (hM : Within [.pe] K) (h : Keeps K o s) : Keeps K o (s.bistRefuse p r) := by
  unfold State.bistRefuse
  repeat' first | with_reducible assumption | intro _ | exact hM.up rfl | (extract_lets +onlyGivenNames x; clear_value (hx : x = _); refine Keeps.cut (l := K) (o := o) hx ?_ ?_) | (extract_lets +onlyGivenNames x; clear_value (hx : x = _); refine Keeps.cutP (l := K) (o := o) hx ?_ ?_) | (extract_lets +onlyGivenNames x; subst x) | with_reducible apply keeps_modPe | with_reducible apply keeps_showBist | with_reducible apply Keeps.ite | with_reducible apply Keeps.iteF | with_reducible apply Keeps.iteS | with_reducible apply Keeps.foldl | split

theorem keeps_bistStart {K : List Part} {o s : State} (p : Nat) (hM : Within [.irq, .job, .ring, .trip, .pe] K) (h : Keeps K o s) : Keeps K o (s.bistStart p) := by
  unfold State.bistStart
  repeat' first | with_reducible assumption | intro _ | exact hM.up rfl | (extract_lets +onlyGivenNames x; clear_value (hx : x = _); refine Keeps.cut (l := K) (o := o) hx ?_ ?_) | (extract_lets +onlyGivenNames x; clear_value (hx : x = _); refine Keeps.cutP (l := K) (o := o) hx ?_ ?_) | (extract_lets +onlyGivenNames x; subst x) | with_reducible apply keeps_bistFail | with_reducible apply keeps_modPe | with_reducible apply keeps_showBist | with_reducible apply keeps_poolCheck | with_reducible apply keeps_setPair | with_reducible apply Keeps.ite | with_reducible apply Keeps.iteF | with_reducible apply Keeps.iteS | with_reducible apply Keeps.foldl | split

theorem keeps_selftestSwap {K : List Part} {o s : State} (hM : Within [.irq, .job, .ring, .trip, .pe] K) (h : Keeps K o s) : Keeps K o s.selftestSwap := by
  unfold State.selftestSwap
  repeat' first | with_reducible assumption | intro _ | exact hM.up rfl | (extract_lets +onlyGivenNames x; clear_value (hx : x = _); refine Keeps.cut (l := K) (o := o) hx ?_ ?_) | (extract_lets +onlyGivenNames x; clear_value (hx : x = _); refine Keeps.cutP (l := K) (o := o) hx ?_ ?_) | (extract_lets +onlyGivenNames x; subst x) | with_reducible apply keeps_modPe | with_reducible apply keeps_bistFail | with_reducible apply keeps_setPair | with_reducible apply keeps_modPlace | with_reducible apply keeps_takeSpare | with_reducible apply keeps_poolCheck | with_reducible apply Keeps.ite | with_reducible apply Keeps.iteF | with_reducible apply Keeps.iteS | with_reducible apply Keeps.foldl | split

theorem keeps_bistRelease {K : List Part} {o s : State} (p : Nat) (hM : Within [.causes, .irq, .ring, .trip, .pe] K) (h : Keeps K o s) : Keeps K o (s.bistRelease p) := by
  unfold State.bistRelease
  repeat' first | with_reducible assumption | intro _ | exact hM.up rfl | (extract_lets +onlyGivenNames x; clear_value (hx : x = _); refine Keeps.cut (l := K) (o := o) hx ?_ ?_) | (extract_lets +onlyGivenNames x; clear_value (hx : x = _); refine Keeps.cutP (l := K) (o := o) hx ?_ ?_) | (extract_lets +onlyGivenNames x; subst x) | with_reducible apply keeps_modPe | with_reducible apply keeps_joinPool | with_reducible apply Keeps.ite | with_reducible apply Keeps.iteF | with_reducible apply Keeps.iteS | with_reducible apply Keeps.foldl | split

theorem keeps_bistCancel {K : List Part} {o s : State} (p : Nat) (hM : Within [.causes, .irq, .ring, .trip, .pe] K) (h : Keeps K o s) : Keeps K o (s.bistCancel p) := by
  unfold State.bistCancel
  repeat' first | with_reducible assumption | intro _ | exact hM.up rfl | (extract_lets +onlyGivenNames x; clear_value (hx : x = _); refine Keeps.cut (l := K) (o := o) hx ?_ ?_) | (extract_lets +onlyGivenNames x; clear_value (hx : x = _); refine Keeps.cutP (l := K) (o := o) hx ?_ ?_) | (extract_lets +onlyGivenNames x; subst x) | with_reducible apply keeps_bistTold | with_reducible apply keeps_bistRelease | with_reducible apply Keeps.ite | with_reducible apply Keeps.iteF | with_reducible apply Keeps.iteS | with_reducible apply Keeps.foldl | split

theorem keeps_testsLost {K : List Part} {o s : State} (hM : Within [.pe] K) (h : Keeps K o s) : Keeps K o s.testsLost := by
  unfold State.testsLost
  repeat' first | with_reducible assumption | intro _ | exact hM.up rfl | (extract_lets +onlyGivenNames x; clear_value (hx : x = _); refine Keeps.cut (l := K) (o := o) hx ?_ ?_) | (extract_lets +onlyGivenNames x; clear_value (hx : x = _); refine Keeps.cutP (l := K) (o := o) hx ?_ ?_) | (extract_lets +onlyGivenNames x; subst x) | with_reducible apply keeps_modPe | with_reducible apply Keeps.ite | with_reducible apply Keeps.iteF | with_reducible apply Keeps.iteS | with_reducible apply Keeps.foldl | split

theorem keeps_holdPlace {K : List Part} {o s : State} (pl : Nat) (hM : Within [.irq, .ring, .trip, .nv, .pe] K) (h : Keeps K o s) : Keeps K o (s.holdPlace pl) := by
  unfold State.holdPlace
  repeat' first | with_reducible assumption | intro _ | exact hM.up rfl | (with_reducible refine Keeps.setNv (hM.mem rfl) ?_; with_reducible assumption) | (extract_lets +onlyGivenNames x; clear_value (hx : x = _); refine Keeps.cut (l := K) (o := o) hx ?_ ?_) | (extract_lets +onlyGivenNames x; subst x) | with_reducible apply keeps_markHeld | with_reducible apply keeps_modPlace | with_reducible apply keeps_modPe | with_reducible apply keeps_stageTick | with_reducible apply Keeps.ite

theorem keeps_holdLate {K : List Part} {o s : State} (hM : Within [.irq, .ring, .trip, .nv, .pe] K) (h : Keeps K o s) : Keeps K o s.holdLate := by
  unfold State.holdLate
  repeat' first | with_reducible assumption | intro _ | exact hM.up rfl | with_reducible apply keeps_modPe | with_reducible apply keeps_holdPlace | with_reducible apply Keeps.foldl

theorem keeps_probe {K : List Part} {o s : State} (hM : Within [.pe] K) (h : Keeps K o s) : Keeps K o s.probe := by
  unfold State.probe
  repeat' first | with_reducible assumption | exact hM.up rfl | with_reducible apply keeps_modPe

theorem keeps_engineUpdate {K : List Part} {o s : State} (hM : Within [.health, .irq, .ring, .trip, .nv, .pe, .fio] K) (h : Keeps K o s) : Keeps K o s.engineUpdate := by
  unfold State.engineUpdate
  repeat' first | with_reducible assumption | exact hM.up rfl | with_reducible apply keeps_probe | with_reducible apply keeps_updateOutputs | with_reducible apply keeps_holdLate | with_reducible apply keeps_modPe

theorem keeps_modInst {K : List Part} {o s : State} (num : Nat) (kinds : List Nat) (f : Env → InstCfg → ElemSt → ElemSt) (hM : Within [.pe] K) (h : Keeps K o s) : Keeps K o (s.modInst num kinds f) := by
  unfold State.modInst
  repeat' first | with_reducible assumption | intro _ | exact hM.up rfl | (extract_lets +onlyGivenNames x; clear_value (hx : x = _); refine Keeps.cut (l := K) (o := o) hx ?_ ?_) | (extract_lets +onlyGivenNames x; clear_value (hx : x = _); refine Keeps.cutP (l := K) (o := o) hx ?_ ?_) | (extract_lets +onlyGivenNames x; subst x) | with_reducible apply keeps_modAtt | with_reducible apply Keeps.ite | with_reducible apply Keeps.iteF | with_reducible apply Keeps.iteS | with_reducible apply Keeps.foldl | split

theorem keeps_latchWrite {K : List Part} {o s : State} (num : Nat) (hM : Within [.nv] K) (h : Keeps K o s) : Keeps K o (s.latchWrite num) := by
  unfold State.latchWrite
  repeat' first | with_reducible assumption | (with_reducible refine Keeps.setNv (hM.mem rfl) ?_; with_reducible assumption) | split

theorem keeps_writeLatches {K : List Part} {o s : State} (hM : Within [.nv] K) (h : Keeps K o s) : Keeps K o s.writeLatches := by
  unfold State.writeLatches
  repeat' first | with_reducible assumption | exact hM.up rfl | intro _ | with_reducible apply keeps_latchWrite | with_reducible apply Keeps.foldl

theorem keeps_wearReset {K : List Part} {o s : State} (num : Nat) (hM : Within [.irq, .ring, .trip, .nv, .pe] K) (h : Keeps K o s) : Keeps K o (s.wearReset num) := by
  unfold State.wearReset
  repeat' first | with_reducible assumption | intro _ | exact hM.up rfl | (with_reducible refine Keeps.setNv (hM.mem rfl) ?_; with_reducible assumption) | (extract_lets +onlyGivenNames x; clear_value (hx : x = _); refine Keeps.cut (l := K) (o := o) hx ?_ ?_) | with_reducible apply keeps_modPe | with_reducible apply keeps_stage

end Sys2Proof.Machine
end

