-- ==== Sys2Proof/Laws/KeepsScheme.lean ====
section
/-! SUPPORT. One lemma for each operation of the captures, the streams, the chain, the hinge, the scheme and the tick: the parts of the state it may change, and that it keeps the invariant of the stores. -/

namespace Sys2Proof.Machine

set_option linter.all false

/-! ### Captures -/

theorem keeps_modCap {K : List Part} {o s : State} (f : Caps → Caps) (hM : Within [.cap, .trip] K) (h : Keeps K o s) : Keeps K o (s.modCap f) := by
  unfold State.modCap
  refine ⟨⟨h.1.1, fun p hp => ?_⟩, h.2⟩
  have g := h.1.2 p hp
  cases p <;> first | exact g | exact absurd (hM.mem rfl) hp

theorem keeps_modSlot {K : List Part} {o s : State} (k : Nat) (f : CapSlot → CapSlot) (hM : Within [.cap, .trip] K) (h : Keeps K o s) : Keeps K o (s.modSlot k f) := by
  unfold State.modSlot
  repeat' first | with_reducible assumption | exact hM.up rfl | with_reducible apply keeps_modCap

theorem keeps_scanSlots {K : List Part} {o s : State} (hM : Within [.cap, .trip] K) (h : Keeps K o s) : Keeps K o s.scanSlots := by
  unfold State.scanSlots
  repeat' first | with_reducible assumption | exact hM.up rfl | with_reducible apply keeps_modCap

theorem keeps_capLost {K : List Part} {o s : State} (hM : Within [.irq, .ring, .cap, .trip] K) (h : Keeps K o s) : Keeps K o s.capLost := by
  unfold State.capLost
  repeat' first | with_reducible assumption | exact hM.up rfl | with_reducible apply keeps_stage | with_reducible apply keeps_modCap

theorem keeps_trigger {K : List Part} {o s : State} (r : TickRec) (trigs : List Nat) (hM : Within [.irq, .ring, .cap, .trip, .clk] K) (h : Keeps K o s) : Keeps K o (s.trigger r trigs) := by
  unfold State.trigger
  repeat' first | with_reducible assumption | exact hM.up rfl | (extract_lets +onlyGivenNames x; subst x) | with_reducible apply keeps_raiseOp | with_reducible apply keeps_modCap | with_reducible apply keeps_capLost | split

theorem keeps_endCapture {K : List Part} {o s : State} (hM : Within [.cap, .trip] K) (h : Keeps K o s) : Keeps K o s.endCapture := by
  unfold State.endCapture
  repeat' first | with_reducible assumption | exact hM.up rfl | with_reducible apply keeps_modCap | split

theorem keeps_captureEnd {K : List Part} {o s : State} (hM : Within [.cap, .trip] K) (h : Keeps K o s) : Keeps K o s.captureEnd := by
  unfold State.captureEnd
  repeat' first | with_reducible assumption | exact hM.up rfl | with_reducible apply keeps_endCapture | split

theorem keeps_captureActivated {K : List Part} {o s : State} (hM : Within [.cap, .trip] K) (h : Keeps K o s) : Keeps K o s.captureActivated := by
  unfold State.captureActivated
  repeat' first | with_reducible assumption | intro _ | exact hM.up rfl | (extract_lets +onlyGivenNames x; clear_value (hx : x = _); refine Keeps.cut (l := K) (o := o) hx ?_ ?_) | (extract_lets +onlyGivenNames x; clear_value (hx : x = _); refine Keeps.cutP (l := K) (o := o) hx ?_ ?_) | (extract_lets +onlyGivenNames x; subst x) | with_reducible apply keeps_modCap | with_reducible apply keeps_endCapture | with_reducible apply Keeps.ite | with_reducible apply Keeps.iteF | with_reducible apply Keeps.iteS | with_reducible apply Keeps.foldl | split

theorem keeps_captureTick {K : List Part} {o s : State} (hM : Within [.irq, .ring, .cap, .trip, .clk] K) (h : Keeps K o s) : Keeps K o s.captureTick := by
  unfold State.captureTick
  repeat' first | with_reducible assumption | intro _ | exact hM.up rfl | (extract_lets +onlyGivenNames x; clear_value (hx : x = _); refine Keeps.cut (l := K) (o := o) hx ?_ ?_) | (extract_lets +onlyGivenNames x; clear_value (hx : x = _); refine Keeps.cutP (l := K) (o := o) hx ?_ ?_) | (extract_lets +onlyGivenNames x; subst x) | with_reducible apply keeps_captureEnd | with_reducible apply keeps_modCap | with_reducible apply keeps_trigger | with_reducible apply Keeps.ite | with_reducible apply Keeps.iteF | with_reducible apply Keeps.iteS | with_reducible apply Keeps.foldl | split

theorem keeps_captureDue {K : List Part} {o s : State} (hM : Within [.cap, .trip] K) (h : Keeps K o s) : Keeps K o s.captureDue := by
  unfold State.captureDue
  repeat' first | with_reducible assumption | exact hM.up rfl | with_reducible apply keeps_modCap

theorem keeps_capStep {K : List Part} {o s : State} (hM : Within [.irq, .ring, .cap, .trip, .dm, .mram] K) (h : Keeps K o s) : Keeps K o s.capStep := by
  unfold State.capStep
  repeat' first | with_reducible assumption | intro _ | exact hM.up rfl | with_reducible apply keeps_modSlot | with_reducible apply keeps_modCap | with_reducible apply keeps_mramPut | with_reducible apply keeps_stage | with_reducible apply Keeps.ite | split

theorem keeps_capFlush {K : List Part} {o s : State} (hM : Within [.irq, .ring, .cap, .trip, .dm, .mram] K) (h : Keeps K o s) : Keeps K o s.capFlush := by
  unfold State.capFlush
  repeat' first | with_reducible assumption | exact hM.up rfl | intro _ | with_reducible apply keeps_capStep | with_reducible apply Keeps.foldl

theorem keeps_dropCaptures {K : List Part} {o s : State} (hM : Within [.cap, .trip] K) (h : Keeps K o s) : Keeps K o s.dropCaptures := by
  unfold State.dropCaptures
  repeat' first | with_reducible assumption | exact hM.up rfl | with_reducible apply keeps_modCap

theorem keeps_setProt {K : List Part} {o s : State} (k : Nat) (p : Bool) (hM : Within [.cap, .trip, .dm, .mram] K) (h : Keeps K o s) : Keeps K o (s.setProt k p) := by
  unfold State.setProt
  repeat' first | with_reducible assumption | intro _ | exact hM.up rfl | with_reducible apply keeps_mramPut | with_reducible apply keeps_modSlot | with_reducible apply Keeps.ite

theorem keeps_writeSlotCtl {K : List Part} {o s : State} (cls : KeyClass) (v : Word) (hM : Within [.cap, .trip, .dm, .mram] K) (h : Keeps K o s) : Keeps K o (s.writeSlotCtl cls v) := by
  unfold State.writeSlotCtl
  repeat' first | with_reducible assumption | exact hM.up rfl | with_reducible apply keeps_setProt | split

theorem keeps_writeCapCtl {K : List Part} {o s : State} (v : Word) (hM : Within [.cap, .trip] K) (h : Keeps K o s) : Keeps K o (s.writeCapCtl v) := by
  unfold State.writeCapCtl
  repeat' first | with_reducible assumption | exact hM.up rfl | intro _ | with_reducible apply keeps_modCap | with_reducible apply Keeps.ite

theorem keeps_endLease {K : List Part} {o s : State} (ticket : Nat) (hM : Within [.cap, .trip] K) (h : Keeps K o s) : Keeps K o (s.endLease ticket) := by
  unfold State.endLease
  repeat' first | with_reducible assumption | exact hM.up rfl | with_reducible apply keeps_modCap

theorem keeps_leaseTimeout {K : List Part} {o s : State} (k : Nat) (hM : Within [.irq, .job, .ring, .cap, .trip] K) (h : Keeps K o s) : Keeps K o (s.leaseTimeout k) := by
  unfold State.leaseTimeout
  repeat' first | with_reducible assumption | exact hM.up rfl | with_reducible apply keeps_endJob | with_reducible apply keeps_endLease | split

/-! ### Streams -/

theorem keeps_modSvc {K : List Part} {o s : State} (f : Svc → Svc) (hM : Within [.svc] K) (h : Keeps K o s) : Keeps K o (s.modSvc f) := by
  unfold State.modSvc
  repeat' first | with_reducible assumption | (with_reducible refine Keeps.setSvc (hM.mem rfl) ?_; with_reducible assumption)

theorem keeps_modCtx {K : List Part} {o s : State} (i : Nat) (f : CtxSt → CtxSt) (hM : Within [.svc] K) (h : Keeps K o s) : Keeps K o (s.modCtx i f) := by
  unfold State.modCtx
  repeat' first | with_reducible assumption | exact hM.up rfl | with_reducible apply keeps_modSvc

theorem keeps_dropFrame {K : List Part} {o s : State} (m : Nat) (hM : Within [.svc] K) (h : Keeps K o s) : Keeps K o (s.dropFrame m) := by
  unfold State.dropFrame
  repeat' first | with_reducible assumption | exact hM.up rfl | with_reducible apply keeps_modSvc

theorem keeps_prp {K : List Part} {o s : State} (m src : Nat) (t : Option (Nat × Nat)) (hM : Within [.svc] K) (h : Keeps K o s) : Keeps K o (s.prp m src t).1 := by
  unfold State.prp
  repeat' first | with_reducible assumption | exact hM.up rfl | with_reducible apply keeps_modSvc | split

theorem keeps_supervision {K : List Part} {o s : State} (hM : Within [.svc] K) (h : Keeps K o s) : Keeps K o s.supervision := by
  unfold State.supervision
  repeat' first | with_reducible assumption | exact hM.up rfl | intro _ | with_reducible apply keeps_send | with_reducible apply Keeps.ite

theorem keeps_lanFault {K : List Part} {o s : State} (lan : Nat) (hM : Within [.irq, .ring, .trip, .svc] K) (h : Keeps K o s) : Keeps K o (s.lanFault lan) := by
  unfold State.lanFault
  repeat' first | with_reducible assumption | intro _ | exact hM.up rfl | with_reducible apply keeps_stage | with_reducible apply keeps_modSvc | with_reducible apply Keeps.ite

theorem keeps_svFrame {K : List Part} {o s : State} (m : Nat) (f : SvIn) (hM : Within [.svc] K) (h : Keeps K o s) : Keeps K o (s.svFrame m f) := by
  unfold State.svFrame
  repeat' first | with_reducible assumption | exact hM.up rfl | intro _ | with_reducible apply keeps_prp | with_reducible apply keeps_dropFrame | with_reducible apply keeps_modCtx | with_reducible apply Keeps.ite | split

theorem keeps_writeBits {K : List Part} {o s : State} (b : List (Nat × Bool)) (hM : Within [.irq, .ring, .trip, .pe] K) (h : Keeps K o s) : Keeps K o (s.writeBits b) := by
  unfold State.writeBits
  repeat' first | with_reducible assumption | intro _ | exact hM.up rfl | with_reducible apply keeps_stageTick | with_reducible apply keeps_writeNets | with_reducible apply Keeps.foldl

theorem keeps_ctxLost {K : List Part} {o s : State} (i : Nat) (hM : Within [.irq, .ring, .trip, .svc] K) (h : Keeps K o s) : Keeps K o (s.ctxLost i) := by
  unfold State.ctxLost
  repeat' first | with_reducible assumption | exact hM.up rfl | with_reducible apply keeps_stage | with_reducible apply keeps_modCtx

theorem keeps_ctxBack {K : List Part} {o s : State} (i : Nat) (hM : Within [.irq, .ring, .trip, .svc] K) (h : Keeps K o s) : Keeps K o (s.ctxBack i) := by
  unfold State.ctxBack
  repeat' first | with_reducible assumption | intro _ | exact hM.up rfl | with_reducible apply keeps_modCtx | with_reducible apply keeps_stage | with_reducible apply Keeps.ite

theorem keeps_svTake {K : List Part} {o s : State} (i : Nat) (c : StreamCfg) (hM : Within [.irq, .ring, .trip, .pe, .svc] K) (h : Keeps K o s) : Keeps K o (s.svTake i c) := by
  unfold State.svTake
  repeat' first | with_reducible assumption | intro _ | exact hM.up rfl | with_reducible apply keeps_modCtx | with_reducible apply keeps_writeNets | with_reducible apply keeps_ctxBack | with_reducible apply keeps_ctxLost | with_reducible apply Keeps.ite

theorem keeps_eventGood {K : List Part} {o s : State} (i : Nat) (hM : Within [.irq, .ring, .trip, .svc] K) (h : Keeps K o s) : Keeps K o (s.eventGood i) := by
  unfold State.eventGood
  repeat' first | with_reducible assumption | intro _ | exact hM.up rfl | (extract_lets +onlyGivenNames x; clear_value (hx : x = _); refine Keeps.cut (l := K) (o := o) hx ?_ ?_) | (extract_lets +onlyGivenNames x; clear_value (hx : x = _); refine Keeps.cutP (l := K) (o := o) hx ?_ ?_) | (extract_lets +onlyGivenNames x; subst x) | with_reducible apply keeps_ctxBack | with_reducible apply keeps_modCtx | with_reducible apply Keeps.ite | with_reducible apply Keeps.iteF | with_reducible apply Keeps.iteS | with_reducible apply Keeps.foldl | split

theorem keeps_eventJudge {K : List Part} {o s : State} (i : Nat) (hM : Within [.irq, .ring, .trip, .svc] K) (h : Keeps K o s) : Keeps K o (s.eventJudge i) := by
  unfold State.eventJudge
  repeat' first | with_reducible assumption | intro _ | exact hM.up rfl | (extract_lets +onlyGivenNames x; clear_value (hx : x = _); refine Keeps.cut (l := K) (o := o) hx ?_ ?_) | (extract_lets +onlyGivenNames x; clear_value (hx : x = _); refine Keeps.cutP (l := K) (o := o) hx ?_ ?_) | (extract_lets +onlyGivenNames x; subst x) | with_reducible apply keeps_eventGood | with_reducible apply keeps_ctxLost | with_reducible apply Keeps.ite | with_reducible apply Keeps.iteF | with_reducible apply Keeps.iteS | with_reducible apply Keeps.foldl | split

theorem keeps_eventFrame {K : List Part} {o s : State} (m : Nat) (f : EventIn) (hM : Within [.irq, .ring, .trip, .svc] K) (h : Keeps K o s) : Keeps K o (s.eventFrame m f) := by
  unfold State.eventFrame
  repeat' first | with_reducible assumption | intro _ | exact hM.up rfl | (extract_lets +onlyGivenNames x; clear_value (hx : x = _); refine Keeps.cut (l := K) (o := o) hx ?_ ?_) | (extract_lets +onlyGivenNames x; clear_value (hx : x = _); refine Keeps.cutP (l := K) (o := o) hx ?_ ?_) | (extract_lets +onlyGivenNames x; subst x) | with_reducible apply keeps_prp | with_reducible apply keeps_dropFrame | with_reducible apply keeps_modCtx | with_reducible apply keeps_ctxLost | with_reducible apply keeps_eventGood | with_reducible apply Keeps.ite | with_reducible apply Keeps.iteF | with_reducible apply Keeps.iteS | with_reducible apply Keeps.foldl | split

theorem keeps_eventExpiry {K : List Part} {o s : State} (i : Nat) (hM : Within [.irq, .ring, .trip, .svc] K) (h : Keeps K o s) : Keeps K o (s.eventExpiry i) := by
  unfold State.eventExpiry
  repeat' first | with_reducible assumption | intro _ | exact hM.up rfl | (extract_lets +onlyGivenNames x; clear_value (hx : x = _); refine Keeps.cut (l := K) (o := o) hx ?_ ?_) | (extract_lets +onlyGivenNames x; clear_value (hx : x = _); refine Keeps.cutP (l := K) (o := o) hx ?_ ?_) | (extract_lets +onlyGivenNames x; subst x) | with_reducible apply keeps_modCtx | with_reducible apply keeps_ctxLost | with_reducible apply Keeps.ite | with_reducible apply Keeps.iteF | with_reducible apply Keeps.iteS | with_reducible apply Keeps.foldl | split

theorem keeps_eventTake {K : List Part} {o s : State} (i : Nat) (c : StreamCfg) (hM : Within [.irq, .ring, .trip, .pe, .svc] K) (h : Keeps K o s) : Keeps K o (s.eventTake i c) := by
  unfold State.eventTake
  repeat' first | with_reducible assumption | intro _ | exact hM.up rfl | (extract_lets +onlyGivenNames x; clear_value (hx : x = _); refine Keeps.cut (l := K) (o := o) hx ?_ ?_) | (extract_lets +onlyGivenNames x; clear_value (hx : x = _); refine Keeps.cutP (l := K) (o := o) hx ?_ ?_) | (extract_lets +onlyGivenNames x; subst x) | with_reducible apply keeps_eventJudge | with_reducible apply keeps_writeBits | with_reducible apply Keeps.ite | with_reducible apply Keeps.iteF | with_reducible apply Keeps.iteS | with_reducible apply Keeps.foldl | split

theorem keeps_streamTick {K : List Part} {o s : State} (hM : Within [.irq, .ring, .trip, .pe, .svc] K) (h : Keeps K o s) : Keeps K o s.streamTick := by
  unfold State.streamTick
  repeat' first | with_reducible assumption | intro _ | exact hM.up rfl | with_reducible apply keeps_svTake | with_reducible apply keeps_eventTake | with_reducible apply Keeps.foldl | split

theorem keeps_svPublish {K : List Part} {o s : State} (i : Nat) (hM : Within [.svc] K) (h : Keeps K o s) : Keeps K o (s.svPublish i) := by
  unfold State.svPublish
  repeat' first | with_reducible assumption | exact hM.up rfl | intro _ | with_reducible apply keeps_modCtx | with_reducible apply keeps_send | with_reducible apply Keeps.ite | split

theorem keeps_publishEvents {K : List Part} {o s : State} (hM : Within [.svc] K) (h : Keeps K o s) : Keeps K o s.publishEvents := by
  unfold State.publishEvents
  repeat' first | with_reducible assumption | exact hM.up rfl | intro _ | with_reducible apply keeps_modCtx | with_reducible apply keeps_send | with_reducible apply Keeps.ite | with_reducible apply Keeps.foldl

theorem keeps_eventRepeat {K : List Part} {o s : State} (i : Nat) (hM : Within [.svc] K) (h : Keeps K o s) : Keeps K o (s.eventRepeat i) := by
  unfold State.eventRepeat
  repeat' first | with_reducible assumption | exact hM.up rfl | with_reducible apply keeps_modCtx | with_reducible apply keeps_send | split

theorem keeps_rebuildCtx {K : List Part} {o s : State} (hM : Within [.svc] K) (h : Keeps K o s) : Keeps K o s.rebuildCtx := by
  unfold State.rebuildCtx
  repeat' first | with_reducible assumption | exact hM.up rfl | with_reducible apply keeps_modSvc

/-! ### Chain -/

theorem keeps_modChn {K : List Part} {o s : State} (f : Chain → Chain) (hM : Within [.chn] K) (h : Keeps K o s) : Keeps K o (s.modChn f) := by
  unfold State.modChn
  repeat' first | with_reducible assumption | (with_reducible refine Keeps.setChn (hM.mem rfl) ?_; with_reducible assumption)

theorem keeps_modPort {K : List Part} {o s : State} (p : Nat) (f : ChnPort → ChnPort) (hM : Within [.chn] K) (h : Keeps K o s) : Keeps K o (s.modPort p f) := by
  unfold State.modPort
  repeat' first | with_reducible assumption | exact hM.up rfl | with_reducible apply keeps_modChn

theorem keeps_modSrc {K : List Part} {o s : State} (a : Nat) (f : ChnSrc → ChnSrc) (hM : Within [.chn] K) (h : Keeps K o s) : Keeps K o (s.modSrc a f) := by
  unfold State.modSrc
  repeat' first | with_reducible assumption | exact hM.up rfl | with_reducible apply keeps_modChn

theorem keeps_moveTime {K : List Part} {o s : State} {f : State → State} (hM : Within [.clk, .ptp] K) (h : Keeps K o (f s)) : Keeps K o (s.moveTime f) := by
  unfold State.moveTime
  exact keeps_srcMoved _ (hM := hM.up rfl) h

theorem keeps_portClock {K : List Part} {o s : State} (p : Nat) (hM : Within [.chn] K) (h : Keeps K o s) : Keeps K o (s.portClock p) := by
  unfold State.portClock
  repeat' first | with_reducible assumption | exact hM.up rfl | intro _ | with_reducible apply keeps_modPort | with_reducible apply Keeps.ite

theorem keeps_portDown {K : List Part} {o s : State} (p : Nat) (hM : Within [.irq, .ring, .trip, .clk, .ptp, .chn] K) (h : Keeps K o s) : Keeps K o (s.portDown p) := by
  unfold State.portDown
  repeat' first | with_reducible assumption | intro _ | exact hM.up rfl | with_reducible apply keeps_moveTime | with_reducible apply keeps_modPort | with_reducible apply keeps_modChn | with_reducible apply keeps_stage | with_reducible apply Keeps.ite

theorem keeps_toUp {K : List Part} {o s : State} (p : Nat) (hM : Within [.irq, .ring, .trip, .clk, .ptp, .chn] K) (h : Keeps K o s) : Keeps K o (s.toUp p) := by
  unfold State.toUp
  repeat' first | with_reducible assumption | exact hM.up rfl | with_reducible apply keeps_stage | with_reducible apply keeps_moveTime | with_reducible apply keeps_modPort

theorem keeps_judgeLane {K : List Part} {o s : State} (p good l : Nat) (hM : Within [.irq, .ring, .trip, .dm] K) (h : Keeps K o s) : Keeps K o (s.judgeLane p good l) := by
  unfold State.judgeLane
  repeat' first | with_reducible assumption | intro _ | exact hM.up rfl | (with_reducible refine Keeps.setDm (hM.mem rfl) ?_; with_reducible assumption) | with_reducible apply keeps_stage | with_reducible apply Keeps.ite

theorem keeps_judgeLanes {K : List Part} {o s : State} (p good : Nat) (hM : Within [.irq, .ring, .trip, .dm, .chn] K) (h : Keeps K o s) : Keeps K o (s.judgeLanes p good) := by
  unfold State.judgeLanes
  repeat' first | with_reducible assumption | intro _ | exact hM.up rfl | with_reducible apply keeps_judgeLane | with_reducible apply keeps_modPort | with_reducible apply Keeps.foldl

theorem keeps_farLanes {K : List Part} {o s : State} (p failed : Nat) (hM : Within [.chn] K) (h : Keeps K o s) : Keeps K o (s.farLanes p failed) := by
  unfold State.farLanes
  repeat' first | with_reducible assumption | exact hM.up rfl | with_reducible apply keeps_modPort

theorem keeps_trainAdvance {K : List Part} {o s : State} (p : Nat) (t : TrainIn) (hM : Within [.irq, .ring, .trip, .clk, .dm, .ptp, .chn] K) (h : Keeps K o s) : Keeps K o (s.trainAdvance p t) := by
  unfold State.trainAdvance
  repeat' first | with_reducible assumption | exact hM.up rfl | with_reducible apply keeps_modPort | with_reducible apply keeps_judgeLanes | with_reducible apply keeps_toUp | with_reducible apply keeps_farLanes | split

theorem keeps_trainTimeout {K : List Part} {o s : State} (p : Nat) (hM : Within [.irq, .ring, .trip, .clk, .ptp, .chn] K) (h : Keeps K o s) : Keeps K o (s.trainTimeout p) := by
  unfold State.trainTimeout
  repeat' first | with_reducible assumption | exact hM.up rfl | with_reducible apply keeps_portDown | split

theorem keeps_recoveryEntry {K : List Part} {o s : State} (p : Nat) (c : RecoveryCause) (hM : Within [.irq, .ring, .trip, .chn] K) (h : Keeps K o s) : Keeps K o (s.recoveryEntry p c) := by
  unfold State.recoveryEntry
  repeat' first | with_reducible assumption | intro _ | exact hM.up rfl | with_reducible apply keeps_stage | with_reducible apply keeps_modPort | with_reducible apply Keeps.ite

theorem keeps_recoveryDone {K : List Part} {o s : State} (p : Nat) (t : TrainIn) (hM : Within [.irq, .ring, .trip, .clk, .dm, .ptp, .chn] K) (h : Keeps K o s) : Keeps K o (s.recoveryDone p t) := by
  unfold State.recoveryDone
  repeat' first | with_reducible assumption | intro _ | exact hM.up rfl | with_reducible apply keeps_judgeLanes | with_reducible apply keeps_toUp | with_reducible apply keeps_farLanes | with_reducible apply keeps_stage | with_reducible apply keeps_portDown | with_reducible apply Keeps.ite

theorem keeps_popAnchor {K : List Part} {o s : State} (hM : Within [.hng] K) (h : Keeps K o s) : Keeps K o (s.popAnchor).2 := by
  unfold State.popAnchor
  repeat' first | with_reducible assumption | (with_reducible refine Keeps.setHng (hM.mem rfl) (Keeps.setHng (hM.mem rfl) ?_); with_reducible assumption) | split

theorem keeps_sendSlot {K : List Part} {o s : State} (hM : Within [.chn, .hng] K) (h : Keeps K o s) : Keeps K o s.sendSlot := by
  unfold State.sendSlot
  repeat' first | with_reducible assumption | intro _ | exact hM.up rfl | with_reducible apply keeps_modChn | with_reducible apply keeps_popAnchor | with_reducible apply Keeps.ite

theorem keeps_fpCheck {K : List Part} {o s : State} (a : Nat) (hM : Within [.irq, .ring, .trip, .chn] K) (h : Keeps K o s) : Keeps K o (s.fpCheck a) := by
  unfold State.fpCheck
  repeat' first | with_reducible assumption | exact hM.up rfl | (extract_lets +onlyGivenNames x; subst x) | with_reducible apply keeps_stage | with_reducible apply keeps_modSrc | split

theorem keeps_countSymbols {K : List Part} {o s : State} (p : Nat) (l : List RxSym) (hM : Within [.chn] K) (h : Keeps K o s) : Keeps K o (s.countSymbols p l) := by
  unfold State.countSymbols
  repeat' first | with_reducible assumption | intro _ | exact hM.up rfl | (extract_lets +onlyGivenNames x; clear_value (hx : x = _); refine Keeps.cut (l := K) (o := o) hx ?_ ?_) | (extract_lets +onlyGivenNames x; clear_value (hx : x = _); refine Keeps.cutP (l := K) (o := o) hx ?_ ?_) | (extract_lets +onlyGivenNames x; subst x) | with_reducible apply keeps_modPort | with_reducible apply Keeps.ite | with_reducible apply Keeps.iteF | with_reducible apply Keeps.iteS | with_reducible apply Keeps.foldl | split

theorem keeps_relaySlot {K : List Part} {o s : State} (p pos : Nat) (l : List RxSym) (hM : Within [.chn] K) (h : Keeps K o s) : Keeps K o (s.relaySlot p pos l) := by
  unfold State.relaySlot
  repeat' first | with_reducible assumption | intro _ | exact hM.up rfl | (extract_lets +onlyGivenNames x; clear_value (hx : x = _); refine Keeps.cut (l := K) (o := o) hx ?_ ?_) | (extract_lets +onlyGivenNames x; clear_value (hx : x = _); refine Keeps.cutP (l := K) (o := o) hx ?_ ?_) | (extract_lets +onlyGivenNames x; subst x) | with_reducible apply keeps_modPort | with_reducible apply Keeps.ite | with_reducible apply Keeps.iteF | with_reducible apply Keeps.iteS | with_reducible apply Keeps.foldl | split

theorem keeps_crcFailed {K : List Part} {o s : State} (p : Nat) (hM : Within [.chn] K) (h : Keeps K o s) : Keeps K o (s.crcFailed p) := by
  unfold State.crcFailed
  repeat' first | with_reducible assumption | intro _ | exact hM.up rfl | (extract_lets +onlyGivenNames x; clear_value (hx : x = _); refine Keeps.cut (l := K) (o := o) hx ?_ ?_) | (extract_lets +onlyGivenNames x; clear_value (hx : x = _); refine Keeps.cutP (l := K) (o := o) hx ?_ ?_) | (extract_lets +onlyGivenNames x; subst x) | with_reducible apply keeps_modPort | with_reducible apply Keeps.ite | with_reducible apply Keeps.iteF | with_reducible apply Keeps.iteS | with_reducible apply Keeps.foldl | split

theorem keeps_takeSlot {K : List Part} {o s : State} (p pos : Nat) (l : List Byte) (hM : Within [.irq, .ring, .trip, .chn] K) (h : Keeps K o s) : Keeps K o (s.takeSlot p pos l) := by
  unfold State.takeSlot
  repeat' first | with_reducible assumption | intro _ | exact hM.up rfl | (extract_lets +onlyGivenNames x; clear_value (hx : x = _); refine Keeps.cut (l := K) (o := o) hx ?_ ?_) | (extract_lets +onlyGivenNames x; clear_value (hx : x = _); refine Keeps.cutP (l := K) (o := o) hx ?_ ?_) | (extract_lets +onlyGivenNames x; subst x) | with_reducible apply keeps_crcFailed | with_reducible apply keeps_fpCheck | with_reducible apply keeps_modSrc | with_reducible apply Keeps.ite | with_reducible apply Keeps.iteF | with_reducible apply Keeps.iteS | with_reducible apply Keeps.foldl | split

theorem keeps_unitSlot {K : List Part} {o s : State} (p pos : Nat) (l : List RxSym) (hM : Within [.irq, .ring, .trip, .chn] K) (h : Keeps K o s) : Keeps K o (s.unitSlot p pos l) := by
  unfold State.unitSlot
  repeat' first | with_reducible assumption | intro _ | exact hM.up rfl | (extract_lets +onlyGivenNames x; clear_value (hx : x = _); refine Keeps.cut (l := K) (o := o) hx ?_ ?_) | (extract_lets +onlyGivenNames x; clear_value (hx : x = _); refine Keeps.cutP (l := K) (o := o) hx ?_ ?_) | (extract_lets +onlyGivenNames x; subst x) | with_reducible apply keeps_countSymbols | with_reducible apply keeps_relaySlot | with_reducible apply keeps_takeSlot | with_reducible apply keeps_crcFailed | with_reducible apply Keeps.ite | with_reducible apply Keeps.iteF | with_reducible apply Keeps.iteS | with_reducible apply Keeps.foldl | split

theorem keeps_slotLoss {K : List Part} {o s : State} (a : Nat) (hM : Within [.irq, .ring, .trip, .chn] K) (h : Keeps K o s) : Keeps K o (s.slotLoss a) := by
  unfold State.slotLoss
  repeat' first | with_reducible assumption | intro _ | exact hM.up rfl | with_reducible apply keeps_stage | with_reducible apply keeps_modSrc | with_reducible apply Keeps.ite

theorem keeps_importNets {K : List Part} {o s : State} (hM : Within [.irq, .ring, .trip, .pe] K) (h : Keeps K o s) : Keeps K o s.importNets := by
  unfold State.importNets
  repeat' first | with_reducible assumption | exact hM.up rfl | with_reducible apply keeps_writeBits | split

theorem keeps_chainTick {K : List Part} {o s : State} (hM : Within [.irq, .ring, .trip, .pe, .chn] K) (h : Keeps K o s) : Keeps K o s.chainTick := by
  unfold State.chainTick
  repeat' first | with_reducible assumption | intro _ | exact hM.up rfl | with_reducible apply keeps_modChn | with_reducible apply keeps_importNets | with_reducible apply keeps_fpCheck | with_reducible apply Keeps.foldl

theorem keeps_checkAddr {K : List Part} {o s : State} (hM : Within [.irq, .ring, .trip, .chn] K) (h : Keeps K o s) : Keeps K o s.checkAddr := by
  unfold State.checkAddr
  repeat' first | with_reducible assumption | intro _ | exact hM.up rfl | with_reducible apply keeps_modChn | with_reducible apply keeps_stage | with_reducible apply Keeps.ite

theorem keeps_latchXcp {K : List Part} {o s : State} (hM : Within [.chn] K) (h : Keeps K o s) : Keeps K o s.latchXcp := by
  unfold State.latchXcp
  repeat' first | with_reducible assumption | exact hM.up rfl | with_reducible apply keeps_modChn

theorem keeps_modMbox {K : List Part} {o s : State} (m : Nat) (f : Mailbox → Mailbox) (hM : Within [.chn] K) (h : Keeps K o s) : Keeps K o (s.modMbox m f) := by
  unfold State.modMbox
  repeat' first | with_reducible assumption | exact hM.up rfl | with_reducible apply keeps_modChn

/-! ### Hinge -/

theorem keeps_modHng {K : List Part} {o s : State} (f : Hinge → Hinge) (hM : Within [.hng] K) (h : Keeps K o s) : Keeps K o (s.modHng f) := by
  unfold State.modHng
  repeat' first | with_reducible assumption | (with_reducible refine Keeps.setHng (hM.mem rfl) ?_; with_reducible assumption)

theorem keeps_keepDigest {K : List Part} {o s : State} (hM : Within [.hng] K) (h : Keeps K o s) : Keeps K o s.keepDigest := by
  unfold State.keepDigest
  repeat' first | with_reducible assumption | exact hM.up rfl | with_reducible apply keeps_modHng

theorem keeps_compareDigest {K : List Part} {o s : State} (hM : Within [.irq, .ring, .trip, .hng] K) (h : Keeps K o s) : Keeps K o s.compareDigest := by
  unfold State.compareDigest
  repeat' first | with_reducible assumption | intro _ | exact hM.up rfl | with_reducible apply keeps_modHng | with_reducible apply keeps_stageTick | with_reducible apply Keeps.ite

theorem keeps_digestTick {K : List Part} {o s : State} (hM : Within [.irq, .ring, .trip, .hng] K) (h : Keeps K o s) : Keeps K o s.digestTick := by
  unfold State.digestTick
  repeat' first | with_reducible assumption | intro _ | exact hM.up rfl | with_reducible apply keeps_modHng | with_reducible apply keeps_compareDigest | with_reducible apply Keeps.ite

theorem keeps_pushFrame {K : List Part} {o s : State} (kind : Nat) (body : List Word) (hM : Within [.hng] K) (h : Keeps K o s) : Keeps K o (s.pushFrame kind body) := by
  unfold State.pushFrame
  repeat' first | with_reducible assumption | exact hM.up rfl | with_reducible apply keeps_modHng

theorem keeps_pushAnchor {K : List Part} {o s : State} (hM : Within [.hng] K) (h : Keeps K o s) : Keeps K o s.pushAnchor := by
  unfold State.pushAnchor
  repeat' first | with_reducible assumption | exact hM.up rfl | with_reducible apply keeps_pushFrame

theorem keeps_anchorUpdate {K : List Part} {o s : State} (hM : Within [.hng] K) (h : Keeps K o s) : Keeps K o s.anchorUpdate := by
  unfold State.anchorUpdate
  repeat' first | with_reducible assumption | exact hM.up rfl | intro _ | with_reducible apply keeps_modHng | with_reducible apply keeps_pushAnchor | with_reducible apply Keeps.ite

theorem keeps_frameIn {K : List Part} {o s : State} (l : List Word) (absent : Bool) (hM : Within [.hng] K) (h : Keeps K o s) : Keeps K o (s.frameIn l absent) := by
  unfold State.frameIn
  repeat' first | with_reducible assumption | exact hM.up rfl | intro _ | with_reducible apply keeps_modHng | with_reducible apply Keeps.ite

theorem keeps_adoptItem {K : List Part} {o s : State} (name kind k : Nat) (part : List Word) (hM : Within [.pe] K) (h : Keeps K o s) : Keeps K o (s.adoptItem name kind k part) := by
  unfold State.adoptItem
  repeat' first | with_reducible assumption | exact hM.up rfl | with_reducible apply keeps_modPe | split

theorem keeps_adoptItems {K : List Part} {o s : State} (k n : Nat) (l : List Word) (hM : Within [.pe] K) (h : Keeps K o s) : Keeps K o (s.adoptItems k n l) := by
  induction n generalizing s l with
  | zero => exact h
  | succ n ih =>
    unfold State.adoptItems
    split
    · contradiction
    · rename_i e
      cases e
      exact ih _ (keeps_adoptItem _ _ _ _ (hM := hM.up rfl) h)
    · exact h

theorem keeps_adopt {K : List Part} {o s : State} (later : Nat) (hM : Within [.pe, .hng] K) (h : Keeps K o s) : Keeps K o (s.adopt later) := by
  unfold State.adopt
  repeat' first | with_reducible assumption | intro _ | exact hM.up rfl | with_reducible apply keeps_modHng | with_reducible apply keeps_adoptItems | with_reducible apply Keeps.ite | split

theorem keeps_hingeClaim {K : List Part} {o s : State} (hM : Within [.st, .irq, .nme, .job, .ring, .trip, .pwr, .afe, .flt, .fst, .fio, .chn, .hng] K) (h : Keeps K o s) : Keeps K o s.hingeClaim := by
  unfold State.hingeClaim
  repeat' first | with_reducible assumption | intro _ | exact hM.up rfl | with_reducible apply keeps_modHng | with_reducible apply keeps_autoState | with_reducible apply Keeps.ite

theorem keeps_claimRecheck {K : List Part} {o s : State} (peer : Bool) (hM : Within [.st, .irq, .nme, .job, .ring, .trip, .pwr, .afe, .flt, .fst, .fio, .chn, .hng] K) (h : Keeps K o s) : Keeps K o (s.claimRecheck peer) := by
  unfold State.claimRecheck
  repeat' first | with_reducible assumption | intro _ | exact hM.up rfl | with_reducible apply keeps_modHng | with_reducible apply keeps_stage | with_reducible apply keeps_changeState | with_reducible apply Keeps.ite

theorem keeps_takeover {K : List Part} {o s : State} (hM : Within [.st, .irq, .nme, .job, .ring, .trip, .pwr, .afe, .flt, .fst, .fio, .chn, .hng] K) (h : Keeps K o s) : Keeps K o s.takeover := by
  unfold State.takeover
  repeat' first | with_reducible assumption | exact hM.up rfl | with_reducible apply keeps_setNme | with_reducible apply keeps_changeState | with_reducible apply keeps_modHng | with_reducible apply keeps_stage

theorem keeps_peerChange {K : List Part} {o s : State} (asserted : Bool) (hM : Within [.st, .irq, .nme, .job, .ring, .trip, .pwr, .afe, .flt, .fst, .fio, .chn, .hng] K) (h : Keeps K o s) : Keeps K o (s.peerChange asserted) := by
  unfold State.peerChange
  repeat' first | with_reducible assumption | intro _ | exact hM.up rfl | with_reducible apply keeps_modHng | with_reducible apply keeps_takeover | with_reducible apply Keeps.ite

theorem fillGap_ots (g : Nat) (l : List Entry) : (fillGap g l).map (fun e => e.ot) = l.map (fun e => e.ot) := by
  induction l with
  | nil => rfl
  | cons e r ih =>
    unfold fillGap
    split
    · rfl
    · simp [ih]

/-- The gap of HINGE_TAKEOVER changes a body in the ring, no order. -/
theorem keeps_fillGap {K : List Part} {o s : State} (g : Nat) (hm : .ring ∈ K) (h : Keeps K o s) : Keeps K o { s with ldg := { s.ldg with ring := fillGap g s.ldg.ring } } := by
  refine ⟨⟨h.1.1, fun p hp => ?_⟩, fun v => ?_⟩
  · have e := h.1.2 p hp
    cases p <;> first | exact e | exact absurd hm hp
  · obtain ⟨g1, g2, g3, g4⟩ := h.2 v
    refine ⟨g1, g2, ?_, ?_⟩
    · have := congrArg List.length (fillGap_ots g s.ldg.ring)
      simp only [List.length_map] at this
      show (fillGap g s.ldg.ring).length ≤ 512
      omega
    · have p : (s.ldg.ring.map (fun e => e.ot)).Pairwise (· ≤ ·) := List.pairwise_map.mpr g4
      rw [← fillGap_ots g] at p
      exact List.pairwise_map.mp p

theorem keeps_firstDriven {K : List Part} {o s : State} (hM : Within [.ring, .hng] K) (h : Keeps K o s) : Keeps K o s.firstDriven := by
  unfold State.firstDriven
  split
  · split
    · exact keeps_fillGap _ (hM.mem rfl) (keeps_modHng _ (hM := hM.up rfl) h)
    · exact keeps_modHng _ (hM := hM.up rfl) h
  · exact h

theorem keeps_ctlNoTick {K : List Part} {o s : State} (hM : Within [.hng] K) (h : Keeps K o s) : Keeps K o s.ctlNoTick := by
  unfold State.ctlNoTick
  repeat' first | with_reducible assumption | exact hM.up rfl | with_reducible apply keeps_modHng

theorem keeps_ctlTick {K : List Part} {o s : State} (hM : Within [.hng] K) (h : Keeps K o s) : Keeps K o s.ctlTick := by
  unfold State.ctlTick
  repeat' first | with_reducible assumption | exact hM.up rfl | with_reducible apply keeps_modHng

theorem keeps_hingeStandby {K : List Part} {o s : State} (hM : Within [.st, .irq, .nme, .job, .ring, .trip, .pwr, .afe, .flt, .fst, .fio, .chn, .hng] K) (h : Keeps K o s) : Keeps K o s.hingeStandby := by
  unfold State.hingeStandby
  repeat' first | with_reducible assumption | intro _ | exact hM.up rfl | with_reducible apply keeps_stageTick | with_reducible apply keeps_autoState | with_reducible apply Keeps.ite

theorem keeps_requestHandover {K : List Part} {o s : State} (hM : Within [.hng, .free] K) (h : Keeps K o s) : Keeps K o s.requestHandover := by
  unfold State.requestHandover
  repeat' first | with_reducible assumption | intro _ | exact hM.up rfl | (with_reducible refine Keeps.setFree (hM.mem rfl) ?_; with_reducible assumption) | (extract_lets +onlyGivenNames x; clear_value (hx : x = _); refine Keeps.cut (l := K) (o := o) hx ?_ ?_) | with_reducible apply keeps_modHng | with_reducible apply keeps_pushFrame | with_reducible apply Keeps.ite

theorem keeps_writeHngCtl {K : List Part} {o s : State} (v : Word) (hM : Within [.nv, .hng, .regs, .free] K) (h : Keeps K o s) : Keeps K o (s.writeHngCtl v).1 := by
  unfold State.writeHngCtl
  repeat' first | with_reducible assumption | intro _ | exact hM.up rfl | with_reducible apply keeps_setStored | with_reducible apply keeps_requestHandover | with_reducible apply Keeps.ite | split

theorem keeps_handoverIn {K : List Part} {o s : State} (hM : Within [.hng] K) (h : Keeps K o s) : Keeps K o s.handoverIn := by
  unfold State.handoverIn
  repeat' first | with_reducible assumption | exact hM.up rfl | intro _ | with_reducible apply keeps_pushFrame | with_reducible apply Keeps.ite

theorem keeps_handoverAck {K : List Part} {o s : State} (hM : Within [.hng] K) (h : Keeps K o s) : Keeps K o s.handoverAck := by
  unfold State.handoverAck
  repeat' first | with_reducible assumption | exact hM.up rfl | intro _ | with_reducible apply keeps_modHng | with_reducible apply Keeps.ite

theorem keeps_handoverTimeout {K : List Part} {o s : State} (hM : Within [.hng] K) (h : Keeps K o s) : Keeps K o s.handoverTimeout := by
  unfold State.handoverTimeout
  repeat' first | with_reducible assumption | exact hM.up rfl | intro _ | with_reducible apply keeps_modHng | with_reducible apply Keeps.ite

theorem keeps_readyReport {K : List Part} {o s : State} (hM : Within [.hng] K) (h : Keeps K o s) : Keeps K o s.readyReport := by
  unfold State.readyReport
  repeat' first | with_reducible assumption | exact hM.up rfl | intro _ | with_reducible apply keeps_modHng | with_reducible apply Keeps.ite

theorem keeps_actTripped {K : List Part} {o s : State} (hM : Within [.irq, .job, .ring, .trip, .sch] K) (h : Keeps K o s) : Keeps K o s.actTripped := by
  unfold State.actTripped
  repeat' first | with_reducible assumption | intro _ | exact hM.up rfl | (with_reducible refine Keeps.setSch (hM.mem rfl) ?_; with_reducible assumption) | (extract_lets +onlyGivenNames x; clear_value (hx : x = _); refine Keeps.cut (l := K) (o := o) hx ?_ ?_) | (extract_lets +onlyGivenNames x; clear_value (hx : x = _); refine Keeps.cutP (l := K) (o := o) hx ?_ ?_) | (extract_lets +onlyGivenNames x; subst x) | with_reducible apply keeps_stage | with_reducible apply keeps_endJob | with_reducible apply Keeps.ite | with_reducible apply Keeps.iteF | with_reducible apply Keeps.iteS | with_reducible apply Keeps.foldl | (with_reducible refine Keeps.setSch (hM.mem rfl) (Keeps.setSch (hM.mem rfl) ?_); with_reducible assumption) | split

theorem keeps_releaseAtUpdate {K : List Part} {o s : State} (hM : Within [.st, .irq, .nme, .job, .ring, .trip, .pwr, .afe, .flt, .sch, .fst, .fio, .chn, .hng] K) (h : Keeps K o s) : Keeps K o s.releaseAtUpdate := by
  unfold State.releaseAtUpdate
  repeat' first | with_reducible assumption | intro _ | exact hM.up rfl | (extract_lets +onlyGivenNames x; clear_value (hx : x = _); refine Keeps.cut (l := K) (o := o) hx ?_ ?_) | (extract_lets +onlyGivenNames x; clear_value (hx : x = _); refine Keeps.cutP (l := K) (o := o) hx ?_ ?_) | (extract_lets +onlyGivenNames x; subst x) | with_reducible apply keeps_modHng | with_reducible apply keeps_holdOutputs | with_reducible apply keeps_stage | with_reducible apply keeps_changeState | with_reducible apply keeps_actTripped | with_reducible apply keeps_relinquish | with_reducible apply Keeps.ite | with_reducible apply Keeps.iteF | with_reducible apply Keeps.iteS | with_reducible apply Keeps.foldl | split

theorem keeps_hingeCycle {K : List Part} {o s : State} (hM : Within [.st, .irq, .nme, .job, .ring, .trip, .pwr, .afe, .flt, .fst, .fio, .chn, .hng] K) (h : Keeps K o s) : Keeps K o s.hingeCycle := by
  unfold State.hingeCycle
  repeat' first | with_reducible assumption | intro _ | exact hM.up rfl | with_reducible apply keeps_modHng | with_reducible apply keeps_takeover | with_reducible apply Keeps.ite

theorem keeps_wireFaultSet {K : List Part} {o s : State} (hM : Within [.irq, .ring, .trip, .hng] K) (h : Keeps K o s) : Keeps K o s.wireFaultSet := by
  unfold State.wireFaultSet
  repeat' first | with_reducible assumption | intro _ | exact hM.up rfl | with_reducible apply keeps_stage | with_reducible apply keeps_modHng | with_reducible apply Keeps.ite

theorem keeps_wireFaultClear {K : List Part} {o s : State} (hM : Within [.hng] K) (h : Keeps K o s) : Keeps K o s.wireFaultClear := by
  unfold State.wireFaultClear
  repeat' first | with_reducible assumption | exact hM.up rfl | intro _ | with_reducible apply keeps_modHng | with_reducible apply Keeps.ite

/-! ### Cycle -/

theorem keeps_newCycle {K : List Part} {o s : State} (hM : Within [.st, .irq, .nme, .job, .ring, .trip, .pwr, .afe, .flt, .fst, .fio, .chn, .hng] K) (h : Keeps K o s) : Keeps K o s.newCycle := by
  unfold State.newCycle
  repeat' first | with_reducible assumption | intro _ | exact hM.up rfl | (extract_lets +onlyGivenNames x; clear_value (hx : x = _); refine Keeps.cut (l := K) (o := o) hx ?_ ?_) | (extract_lets +onlyGivenNames x; clear_value (hx : x = _); refine Keeps.cutP (l := K) (o := o) hx ?_ ?_) | (extract_lets +onlyGivenNames x; subst x) | with_reducible apply keeps_modChn | with_reducible apply keeps_sendSlot | with_reducible apply keeps_repeatGroups | with_reducible apply keeps_hingeCycle | with_reducible apply keeps_ageCodes | with_reducible apply Keeps.ite | with_reducible apply Keeps.iteF | with_reducible apply Keeps.iteS | with_reducible apply Keeps.foldl | split

theorem keeps_sendMgmt {K : List Part} {o s : State} (hM : Within [.chn, .free] K) (h : Keeps K o s) : Keeps K o s.sendMgmt := by
  unfold State.sendMgmt
  repeat' first | with_reducible assumption | intro _ | exact hM.up rfl | (with_reducible refine Keeps.setFree (hM.mem rfl) ?_; with_reducible assumption) | (extract_lets +onlyGivenNames x; clear_value (hx : x = _); refine Keeps.cut (l := K) (o := o) hx ?_ ?_) | (extract_lets +onlyGivenNames x; subst x) | with_reducible apply keeps_modChn

theorem keeps_chainCycle {K : List Part} {o s : State} (hM : Within [.st, .irq, .nme, .job, .ring, .trip, .clk, .pwr, .afe, .flt, .fst, .fio, .ptp, .chn, .hng, .free] K) (h : Keeps K o s) : Keeps K o s.chainCycle := by
  unfold State.chainCycle
  repeat' first | with_reducible assumption | intro _ | exact hM.up rfl | with_reducible apply keeps_moveTime | with_reducible apply keeps_modChn | with_reducible apply keeps_sendMgmt | with_reducible apply keeps_newCycle | with_reducible apply Keeps.ite

theorem keeps_ringOpen {K : List Part} {o s : State} (hM : Within [.irq, .job, .ring, .trip, .chn] K) (h : Keeps K o s) : Keeps K o s.ringOpen := by
  unfold State.ringOpen
  repeat' first | with_reducible assumption | exact hM.up rfl | (extract_lets +onlyGivenNames x; subst x) | with_reducible apply keeps_modChn | with_reducible apply keeps_stage | with_reducible apply keeps_endJob | split

theorem keeps_ringClosed {K : List Part} {o s : State} (hM : Within [.irq, .ring, .trip, .chn] K) (h : Keeps K o s) : Keeps K o s.ringClosed := by
  unfold State.ringClosed
  repeat' first | with_reducible assumption | intro _ | exact hM.up rfl | with_reducible apply keeps_stage | with_reducible apply keeps_modChn | with_reducible apply Keeps.ite

theorem keeps_setAddr {K : List Part} {o s : State} (a : Nat) (conflict full : Bool) (hM : Within [.irq, .ring, .trip, .chn] K) (h : Keeps K o s) : Keeps K o (s.setAddr a conflict full) := by
  unfold State.setAddr
  repeat' first | with_reducible assumption | exact hM.up rfl | with_reducible apply keeps_checkAddr | with_reducible apply keeps_modChn

theorem keeps_walkPass1 {K : List Part} {o s : State} (w : WalkBlock) (hM : Within [.irq, .ring, .trip, .chn] K) (h : Keeps K o s) : Keeps K o (s.walkPass1 w).1 := by
  unfold State.walkPass1
  repeat' first | with_reducible assumption | intro _ | exact hM.up rfl | with_reducible apply keeps_stage | with_reducible apply keeps_setAddr | with_reducible apply Keeps.iteF

theorem keeps_walkPass2 {K : List Part} {o s : State} (w : WalkBlock) (hM : Within [.irq, .ring, .trip, .chn] K) (h : Keeps K o s) : Keeps K o (s.walkPass2 w).1 := by
  unfold State.walkPass2
  repeat' first | with_reducible assumption | exact hM.up rfl | intro _ | with_reducible apply keeps_setAddr | with_reducible apply Keeps.iteF | split

theorem keeps_walkPass {K : List Part} {o s : State} (w : WalkBlock) (hM : Within [.irq, .ring, .trip, .chn] K) (h : Keeps K o s) : Keeps K o (s.walkPass w).1 := by
  unfold State.walkPass
  repeat' first | with_reducible assumption | exact hM.up rfl | with_reducible apply keeps_modChn | with_reducible apply keeps_walkPass1 | with_reducible apply keeps_walkPass2 | split

theorem keeps_walkStart {K : List Part} {o s : State} (hM : Within [.irq, .ring, .trip, .chn] K) (h : Keeps K o s) : Keeps K o s.walkStart := by
  unfold State.walkStart
  repeat' first | with_reducible assumption | intro _ | exact hM.up rfl | with_reducible apply keeps_modChn | with_reducible apply keeps_setAddr | with_reducible apply Keeps.ite

theorem keeps_walkReturn {K : List Part} {o s : State} (w : WalkBlock) (hM : Within [.irq, .ring, .trip, .chn] K) (h : Keeps K o s) : Keeps K o (s.walkReturn w) := by
  unfold State.walkReturn
  repeat' first | with_reducible assumption | intro _ | exact hM.up rfl | with_reducible apply keeps_modChn | with_reducible apply keeps_walkPass2 | with_reducible apply Keeps.ite

theorem keeps_walkEnd {K : List Part} {o s : State} (tr : Nat) (delta : Int) (hM : Within [.irq, .job, .ring, .trip, .chn] K) (h : Keeps K o s) : Keeps K o (s.walkEnd tr delta) := by
  unfold State.walkEnd
  repeat' first | with_reducible assumption | exact hM.up rfl | (extract_lets +onlyGivenNames x; subst x) | with_reducible apply keeps_modChn | with_reducible apply keeps_stage | with_reducible apply keeps_endJob | split

theorem keeps_setByMark {K : List Part} {o s : State} (o' : Rat) (hM : Within [.ptp] K) (h : Keeps K o s) : Keeps K o (s.setByMark o') := by
  unfold State.setByMark
  repeat' first | with_reducible assumption | exact hM.up rfl | with_reducible apply keeps_modPtp

theorem keeps_markTime {K : List Part} {o s : State} (o' : Rat) (hM : Within [.irq, .ring, .trip, .clk, .ptp, .svc] K) (h : Keeps K o s) : Keeps K o (s.markTime o') := by
  unfold State.markTime
  repeat' first | with_reducible assumption | intro _ | exact hM.up rfl | with_reducible apply keeps_endHoldover | with_reducible apply keeps_judgeOffset | with_reducible apply keeps_dropHold | with_reducible apply keeps_setByMark | with_reducible apply Keeps.ite

theorem keeps_markNew {K : List Part} {o s : State} (p second cycle : Nat) (hM : Within [.st, .irq, .nme, .job, .ring, .trip, .clk, .pwr, .afe, .flt, .fst, .fio, .ptp, .chn, .hng] K) (h : Keeps K o s) : Keeps K o (s.markNew p second cycle) := by
  unfold State.markNew
  repeat' first | with_reducible assumption | exact hM.up rfl | with_reducible apply keeps_moveTime | with_reducible apply keeps_modChn | with_reducible apply keeps_newCycle

theorem keeps_cycleMark {K : List Part} {o s : State} (p : Nat) (arrival : Rat) (second cycle phase : Nat) (hM : Within [.st, .irq, .nme, .job, .ring, .trip, .clk, .pwr, .afe, .flt, .fst, .fio, .ptp, .svc, .chn, .hng] K) (h : Keeps K o s) : Keeps K o (s.cycleMark p arrival second cycle phase) := by
  unfold State.cycleMark
  repeat' first | with_reducible assumption | intro _ | exact hM.up rfl | with_reducible apply keeps_modPort | with_reducible apply keeps_markTime | with_reducible apply keeps_markNew | with_reducible apply Keeps.ite

theorem keeps_chainTimeLost {K : List Part} {o s : State} (hM : Within [.irq, .ring, .trip, .clk, .ptp, .chn] K) (h : Keeps K o s) : Keeps K o s.chainTimeLost := by
  unfold State.chainTimeLost
  repeat' first | with_reducible assumption | intro _ | exact hM.up rfl | with_reducible apply keeps_holdover | with_reducible apply keeps_modChn | with_reducible apply Keeps.ite

theorem keeps_deputyActive {K : List Part} {o s : State} (hM : Within [.irq, .ring, .trip, .clk, .ptp, .chn] K) (h : Keeps K o s) : Keeps K o s.deputyActive := by
  unfold State.deputyActive
  repeat' first | with_reducible assumption | intro _ | exact hM.up rfl | with_reducible apply keeps_modChn | with_reducible apply keeps_holdover | with_reducible apply keeps_stage | with_reducible apply Keeps.ite

theorem keeps_noRootFound {K : List Part} {o s : State} (hM : Within [.irq, .ring, .trip, .chn] K) (h : Keeps K o s) : Keeps K o s.noRootFound := by
  unfold State.noRootFound
  repeat' first | with_reducible assumption | intro _ | exact hM.up rfl | with_reducible apply keeps_stage | with_reducible apply keeps_modChn | with_reducible apply Keeps.ite

theorem keeps_localCycle {K : List Part} {o s : State} (p : Nat) (hM : Within [.irq, .ring, .trip, .fst, .chn] K) (h : Keeps K o s) : Keeps K o (s.localCycle p) := by
  unfold State.localCycle
  repeat' first | with_reducible assumption | intro _ | exact hM.up rfl | (extract_lets +onlyGivenNames x; clear_value (hx : x = _); refine Keeps.cut (l := K) (o := o) hx ?_ ?_) | (extract_lets +onlyGivenNames x; clear_value (hx : x = _); refine Keeps.cutP (l := K) (o := o) hx ?_ ?_) | (extract_lets +onlyGivenNames x; subst x) | with_reducible apply keeps_modChn | with_reducible apply keeps_repeatGroups | with_reducible apply Keeps.ite | with_reducible apply Keeps.iteF | with_reducible apply Keeps.iteS | with_reducible apply Keeps.foldl | split

theorem keeps_takeRoot {K : List Part} {o s : State} (l : List Byte) (hM : Within [.ptp, .chn] K) (h : Keeps K o s) : Keeps K o (s.takeRoot l) := by
  unfold State.takeRoot
  repeat' first | with_reducible assumption | exact hM.up rfl | with_reducible apply keeps_modChn | with_reducible apply keeps_modPtp

theorem keeps_otherSender {K : List Part} {o s : State} (addr : Nat) (hM : Within [.irq, .ring, .trip, .clk, .ptp, .chn] K) (h : Keeps K o s) : Keeps K o (s.otherSender addr) := by
  unfold State.otherSender
  repeat' first | with_reducible assumption | intro _ | exact hM.up rfl | with_reducible apply keeps_moveTime | with_reducible apply keeps_modChn | with_reducible apply keeps_stage | with_reducible apply Keeps.ite

theorem keeps_takeRole {K : List Part} {o s : State} (hM : Within [.clk, .ptp, .chn] K) (h : Keeps K o s) : Keeps K o s.takeRole := by
  unfold State.takeRole
  repeat' first | with_reducible assumption | intro _ | exact hM.up rfl | with_reducible apply keeps_moveTime | with_reducible apply keeps_modChn | with_reducible apply Keeps.ite

/-! ### Scheme -/

theorem keeps_modSch {K : List Part} {o s : State} (f : Scheme → Scheme) (hM : Within [.sch] K) (h : Keeps K o s) : Keeps K o (s.modSch f) := by
  unfold State.modSch
  repeat' first | with_reducible assumption | (with_reducible refine Keeps.setSch (hM.mem rfl) ?_; with_reducible assumption)

theorem keeps_setSlotSt {K : List Part} {o s : State} (k st gen : Nat) (hM : Within [.sch] K) (h : Keeps K o s) : Keeps K o (s.setSlotSt k st gen) := by
  unfold State.setSlotSt
  repeat' first | with_reducible assumption | exact hM.up rfl | with_reducible apply keeps_modSch

theorem keeps_scanSlot {K : List Part} {o s : State} (k : Nat) (hM : Within [.sch] K) (h : Keeps K o s) : Keeps K o (s.scanSlot k) := by
  unfold State.scanSlot
  repeat' first | with_reducible assumption | exact hM.up rfl | with_reducible apply keeps_setSlotSt | with_reducible apply keeps_modSch | split

theorem keeps_refuseLoad {K : List Part} {o s : State} (b : Bad) (hM : Within [.irq, .job, .ring, .trip, .sch] K) (h : Keeps K o s) : Keeps K o (s.refuseLoad b) := by
  unfold State.refuseLoad
  repeat' first | with_reducible assumption | exact hM.up rfl | (extract_lets +onlyGivenNames x; subst x) | with_reducible apply keeps_modSch | with_reducible apply keeps_setSlotSt | with_reducible apply keeps_stage | with_reducible apply keeps_endJob | split

theorem keeps_loadRefused {K : List Part} {o s : State} (hM : Within [.sch] K) (h : Keeps K o s) : Keeps K o s.loadRefused := by
  unfold State.loadRefused
  repeat' first | with_reducible assumption | exact hM.up rfl | with_reducible apply keeps_modSch

theorem keeps_loadAccepted {K : List Part} {o s : State} (hM : Within [.sch] K) (h : Keeps K o s) : Keeps K o s.loadAccepted := by
  unfold State.loadAccepted
  repeat' first | with_reducible assumption | exact hM.up rfl | with_reducible apply keeps_modSch | with_reducible apply keeps_setSlotSt

theorem keeps_copyStep {K : List Part} {o s : State} (hM : Within [.dm, .sch, .mram] K) (h : Keeps K o s) : Keeps K o s.copyStep := by
  unfold State.copyStep
  repeat' first | with_reducible assumption | intro _ | exact hM.up rfl | with_reducible apply keeps_mramPut | with_reducible apply keeps_modSch | with_reducible apply Keeps.ite

theorem keeps_loadCheck {K : List Part} {o s : State} (hM : Within [.irq, .job, .ring, .trip, .sch] K) (h : Keeps K o s) : Keeps K o s.loadCheck := by
  unfold State.loadCheck
  repeat' first | with_reducible assumption | exact hM.up rfl | (extract_lets +onlyGivenNames x; subst x) | with_reducible apply keeps_refuseLoad | with_reducible apply keeps_modSch | split

theorem keeps_writeHallmark {K : List Part} {o s : State} (hM : Within [.dm, .mram] K) (h : Keeps K o s) : Keeps K o s.writeHallmark := by
  unfold State.writeHallmark
  repeat' first | with_reducible assumption | exact hM.up rfl | with_reducible apply keeps_mramPut

theorem keeps_loadDone {K : List Part} {o s : State} (hM : Within [.irq, .job, .ring, .trip, .dm, .sch, .mram] K) (h : Keeps K o s) : Keeps K o s.loadDone := by
  unfold State.loadDone
  repeat' first | with_reducible assumption | exact hM.up rfl | (extract_lets +onlyGivenNames x; subst x) | with_reducible apply keeps_modSch | with_reducible apply keeps_setSlotSt | with_reducible apply keeps_writeHallmark | with_reducible apply keeps_stage | with_reducible apply keeps_endJob | split

theorem keeps_loadStep {K : List Part} {o s : State} (j : Job) (hM : Within [.irq, .job, .ring, .trip, .dm, .sch, .mram] K) (h : Keeps K o s) : Keeps K o (s.loadStep j) := by
  unfold State.loadStep
  repeat' first | with_reducible assumption | exact hM.up rfl | with_reducible apply keeps_modSch | with_reducible apply keeps_mramPut | with_reducible apply keeps_copyStep | with_reducible apply keeps_loadCheck | with_reducible apply keeps_loadDone | split

theorem keeps_loadCancelled {K : List Part} {o s : State} (hM : Within [.dm, .sch, .mram] K) (h : Keeps K o s) : Keeps K o s.loadCancelled := by
  unfold State.loadCancelled
  repeat' first | with_reducible assumption | exact hM.up rfl | with_reducible apply keeps_mramPut | with_reducible apply keeps_modSch | with_reducible apply keeps_setSlotSt

theorem keeps_writeXfer {K : List Part} {o s : State} (v : Word) (hM : Within [.irq, .job, .ring, .trip, .sch, .regs] K) (h : Keeps K o s) : Keeps K o (s.writeXfer v) := by
  unfold State.writeXfer
  repeat' first | with_reducible assumption | intro _ | exact hM.up rfl | with_reducible apply keeps_setReg | with_reducible apply keeps_modSch | with_reducible apply keeps_refuseLoad | with_reducible apply Keeps.ite

theorem keeps_writeWindow {K : List Part} {o s : State} (addr : Nat) (v : Word) (hM : Within [.sch] K) (h : Keeps K o s) : Keeps K o (s.writeWindow addr v) := by
  unfold State.writeWindow
  repeat' first | with_reducible assumption | exact hM.up rfl | intro _ | with_reducible apply keeps_modSch | with_reducible apply Keeps.ite

theorem keeps_restoreRegs {K : List Part} {o s : State} (clear : Bool) (hM : Within [.nv, .regs, .defer] K) (h : Keeps K o s) : Keeps K o (s.restoreRegs clear) := by
  unfold State.restoreRegs
  repeat' first | with_reducible assumption | intro _ | exact hM.up rfl | (with_reducible refine Keeps.setNvDefer (hM.mem rfl) (hM.mem rfl) ?_; with_reducible assumption) | with_reducible apply keeps_setReg | with_reducible apply Keeps.foldl

theorem keeps_restoreRates {K : List Part} {o s : State} (clear : Bool) (hM : Within [.nv, .regs] K) (h : Keeps K o s) : Keeps K o (s.restoreRates clear) := by
  unfold State.restoreRates
  repeat' first | with_reducible assumption | intro _ | (with_reducible refine Keeps.setNvRegs (hM.mem rfl) (hM.mem rfl) ?_; with_reducible assumption) | with_reducible apply Keeps.ite

theorem keeps_restartFast {K : List Part} {o s : State} (hM : Within [.irq, .ring, .trip, .fst, .chn] K) (h : Keeps K o s) : Keeps K o s.restartFast := by
  unfold State.restartFast
  repeat' first | with_reducible assumption | exact hM.up rfl | with_reducible apply keeps_fastSettle | with_reducible apply keeps_modFst

theorem keeps_keepLatches {K : List Part} {o s : State} (hM : Within [.nv] K) (h : Keeps K o s) : Keeps K o s.keepLatches := by
  unfold State.keepLatches
  repeat' first | with_reducible assumption | (with_reducible refine Keeps.setNv (hM.mem rfl) ?_; with_reducible assumption)

theorem keeps_applyKeyway {K : List Part} {o s : State} (hM : Within [.key] K) (h : Keeps K o s) : Keeps K o s.applyKeyway := by
  unfold State.applyKeyway
  repeat' first | with_reducible assumption | (with_reducible refine Keeps.setKey (hM.mem rfl) ?_; with_reducible assumption)

theorem keeps_placeScheme {K : List Part} {o s : State} (clear : Bool) (hM : Within [.causes, .irq, .key, .ring, .trip, .nv, .afe, .pe, .trk, .sch, .fst, .fio, .svc, .chn, .hng, .regs, .defer] K) (h : Keeps K o s) : Keeps K o (s.placeScheme clear) := by
  unfold State.placeScheme
  repeat' first | with_reducible assumption | intro _ | exact hM.up rfl | (with_reducible refine Keeps.setTrk (hM.mem rfl) ?_; with_reducible assumption) | (extract_lets +onlyGivenNames x; clear_value (hx : x = _); refine Keeps.cut (l := K) (o := o) hx ?_ ?_) | (extract_lets +onlyGivenNames x; clear_value (hx : x = _); refine Keeps.cutP (l := K) (o := o) hx ?_ ?_) | (extract_lets +onlyGivenNames x; subst x) | with_reducible apply keeps_applyKeyway | with_reducible apply keeps_restoreRates | with_reducible apply keeps_restoreRegs | with_reducible apply keeps_modSch | with_reducible apply keeps_initStore | with_reducible apply keeps_assignPlaces | with_reducible apply keeps_exclude | with_reducible apply keeps_checkAddr | with_reducible apply keeps_refillBuckets | with_reducible apply keeps_rebuildCtx | with_reducible apply keeps_modFio | with_reducible apply keeps_followOutputs | with_reducible apply keeps_restartFast | with_reducible apply Keeps.ite | with_reducible apply Keeps.iteF | with_reducible apply Keeps.iteS | with_reducible apply Keeps.foldl | (with_reducible refine Keeps.setTrk (hM.mem rfl) (Keeps.setTrk (hM.mem rfl) ?_); with_reducible assumption) | split

theorem keeps_applyScheme {K : List Part} {o s : State} (hM : Within [.causes, .irq, .key, .ring, .cap, .trip, .nv, .afe, .pe, .trk, .sch, .fst, .fio, .svc, .chn, .hng, .regs, .defer] K) (h : Keeps K o s) : Keeps K o s.applyScheme := by
  unfold State.applyScheme
  repeat' first | with_reducible assumption | intro _ | exact hM.up rfl | (with_reducible refine Keeps.setNv (hM.mem rfl) ?_; with_reducible assumption) | (extract_lets +onlyGivenNames x; clear_value (hx : x = _); refine Keeps.cut (l := K) (o := o) hx ?_ ?_) | (extract_lets +onlyGivenNames x; clear_value (hx : x = _); refine Keeps.cutP (l := K) (o := o) hx ?_ ?_) | (extract_lets +onlyGivenNames x; subst x) | with_reducible apply keeps_writeLatches | with_reducible apply keeps_captureActivated | with_reducible apply keeps_modSch | with_reducible apply keeps_placeScheme | with_reducible apply keeps_keepLatches | with_reducible apply Keeps.ite | with_reducible apply Keeps.iteF | with_reducible apply Keeps.iteS | with_reducible apply Keeps.foldl | (with_reducible refine Keeps.setNv (hM.mem rfl) (Keeps.setNv (hM.mem rfl) ?_); with_reducible assumption) | split

theorem keeps_latchFailed {K : List Part} {o s : State} (num : Nat) (hM : Within [.irq, .ring, .trip, .nv, .pe] K) (h : Keeps K o s) : Keeps K o (s.latchFailed num) := by
  unfold State.latchFailed
  repeat' first | with_reducible assumption | intro _ | exact hM.up rfl | (with_reducible refine Keeps.setNv (hM.mem rfl) ?_; with_reducible assumption) | (extract_lets +onlyGivenNames x; clear_value (hx : x = _); refine Keeps.cut (l := K) (o := o) hx ?_ ?_) | with_reducible apply keeps_modPe | with_reducible apply keeps_stage | split

theorem keeps_bootScheme {K : List Part} {o s : State} (latchFail : List Nat) (hM : Within [.causes, .irq, .key, .ring, .trip, .clk, .nv, .afe, .flt, .pe, .trk, .sch, .fst, .fio, .svc, .chn, .hng, .regs, .defer] K) (h : Keeps K o s) : Keeps K o (s.bootScheme latchFail) := by
  unfold State.bootScheme
  repeat' first | with_reducible assumption | intro _ | exact hM.up rfl | (with_reducible refine Keeps.setFlt (hM.mem rfl) ?_; with_reducible assumption) | (with_reducible refine Keeps.setAfe (hM.mem rfl) ?_; with_reducible assumption) | (extract_lets +onlyGivenNames x; clear_value (hx : x = _); refine Keeps.cut (l := K) (o := o) hx ?_ ?_) | (extract_lets +onlyGivenNames x; clear_value (hx : x = _); refine Keeps.cutP (l := K) (o := o) hx ?_ ?_) | (extract_lets +onlyGivenNames x; subst x) | with_reducible apply keeps_placeScheme | with_reducible apply keeps_modSch | with_reducible apply keeps_fastFloors | with_reducible apply keeps_evalPilot | with_reducible apply keeps_latchFailed | with_reducible apply Keeps.ite | with_reducible apply Keeps.iteF | with_reducible apply Keeps.iteS | with_reducible apply Keeps.foldl | (with_reducible refine Keeps.setFlt (hM.mem rfl) (Keeps.setFlt (hM.mem rfl) ?_); with_reducible assumption) | (with_reducible refine Keeps.setAfe (hM.mem rfl) (Keeps.setAfe (hM.mem rfl) ?_); with_reducible assumption) | (with_reducible refine Keeps.setFlt (hM.mem rfl) (Keeps.setAfe (hM.mem rfl) ?_); with_reducible assumption) | (with_reducible refine Keeps.setAfe (hM.mem rfl) (Keeps.setFlt (hM.mem rfl) ?_); with_reducible assumption) | split

theorem keeps_bootSlot {K : List Part} {o s : State} (k : Nat) (fallback : Bool) (hM : Within [.irq, .ring, .trip, .sch] K) (h : Keeps K o s) : Keeps K o (s.bootSlot k fallback) := by
  unfold State.bootSlot
  repeat' first | with_reducible assumption | intro _ | exact hM.up rfl | with_reducible apply keeps_modSch | with_reducible apply keeps_stage | with_reducible apply Keeps.ite

theorem keeps_bootTemplate {K : List Part} {o s : State} (lost : Bool) (hM : Within [.irq, .ring, .trip, .sch] K) (h : Keeps K o s) : Keeps K o (s.bootTemplate lost) := by
  unfold State.bootTemplate
  repeat' first | with_reducible assumption | intro _ | exact hM.up rfl | with_reducible apply keeps_modSch | with_reducible apply keeps_stage | with_reducible apply Keeps.ite

theorem keeps_chooseScheme {K : List Part} {o s : State} (hM : Within [.irq, .ring, .trip, .sch] K) (h : Keeps K o s) : Keeps K o s.chooseScheme := by
  unfold State.chooseScheme
  repeat' first | with_reducible assumption | exact hM.up rfl | (extract_lets +onlyGivenNames x; subst x) | with_reducible apply keeps_bootSlot | with_reducible apply keeps_bootTemplate | split

theorem keeps_tellGroup {K : List Part} {o s : State} (hM : Within [.irq, .ring, .trip] K) (h : Keeps K o s) : Keeps K o s.tellGroup := by
  unfold State.tellGroup
  repeat' first | with_reducible assumption | intro _ | exact hM.up rfl | (extract_lets +onlyGivenNames x; clear_value (hx : x = _); refine Keeps.cut (l := K) (o := o) hx ?_ ?_) | (extract_lets +onlyGivenNames x; clear_value (hx : x = _); refine Keeps.cutP (l := K) (o := o) hx ?_ ?_) | (extract_lets +onlyGivenNames x; subst x) | with_reducible apply keeps_stage | with_reducible apply Keeps.ite | with_reducible apply Keeps.iteF | with_reducible apply Keeps.iteS | with_reducible apply Keeps.foldl | split

theorem keeps_slotSelection {K : List Part} {o s : State} (latchFail : List Nat) (hM : Within [.causes, .irq, .key, .ring, .trip, .clk, .nv, .afe, .flt, .pe, .trk, .sch, .fst, .fio, .svc, .chn, .hng, .regs, .defer] K) (h : Keeps K o s) : Keeps K o (s.slotSelection latchFail) := by
  unfold State.slotSelection
  repeat' first | with_reducible assumption | intro _ | exact hM.up rfl | (extract_lets +onlyGivenNames x; clear_value (hx : x = _); refine Keeps.cut (l := K) (o := o) hx ?_ ?_) | (extract_lets +onlyGivenNames x; clear_value (hx : x = _); refine Keeps.cutP (l := K) (o := o) hx ?_ ?_) | (extract_lets +onlyGivenNames x; subst x) | with_reducible apply keeps_bootScheme | with_reducible apply keeps_tellGroup | with_reducible apply keeps_chooseScheme | with_reducible apply keeps_scanSlot | with_reducible apply keeps_modSch | with_reducible apply Keeps.ite | with_reducible apply Keeps.iteF | with_reducible apply Keeps.iteS | with_reducible apply Keeps.foldl | split

theorem keeps_actRefused {K : List Part} {o s : State} (img : Bool) (hM : Within [.irq, .ring, .trip, .sch] K) (h : Keeps K o s) : Keeps K o (s.actRefused img) := by
  unfold State.actRefused
  repeat' first | with_reducible assumption | exact hM.up rfl | with_reducible apply keeps_modSch | with_reducible apply keeps_stage | split

theorem keeps_actAccepted {K : List Part} {o s : State} (img : Bool) (ticket : Nat) (hM : Within [.sch, .hng] K) (h : Keeps K o s) : Keeps K o (s.actAccepted img ticket) := by
  unfold State.actAccepted
  repeat' first | with_reducible assumption | intro _ | exact hM.up rfl | with_reducible apply keeps_modSch | with_reducible apply keeps_pushFrame | with_reducible apply Keeps.ite

theorem keeps_activateOrder {K : List Part} {o s : State} (gen : Nat) (hM : Within [.sch] K) (h : Keeps K o s) : Keeps K o (s.activateOrder gen) := by
  unfold State.activateOrder
  repeat' first | with_reducible assumption | exact hM.up rfl | with_reducible apply keeps_modSch | split

theorem keeps_endAct {K : List Part} {o s : State} (state reason : Nat) (hM : Within [.irq, .job, .ring, .trip] K) (h : Keeps K o s) : Keeps K o (s.endAct state reason) := by
  unfold State.endAct
  repeat' first | with_reducible assumption | exact hM.up rfl | intro _ | with_reducible apply keeps_endJob | with_reducible apply Keeps.ite

theorem keeps_hingeActLost {K : List Part} {o s : State} (hM : Within [.irq, .job, .ring, .trip, .sch] K) (h : Keeps K o s) : Keeps K o s.hingeActLost := by
  unfold State.hingeActLost
  repeat' first | with_reducible assumption | intro _ | exact hM.up rfl | with_reducible apply keeps_endAct | with_reducible apply keeps_modSch | with_reducible apply Keeps.ite

theorem keeps_actReference {K : List Part} {o s : State} (hM : Within [.st, .due, .causes, .irq, .nme, .key, .job, .ring, .cap, .trip, .pwr, .nv, .afe, .flt, .pe, .trk, .sch, .fst, .fio, .svc, .chn, .hng, .regs, .defer] K) (h : Keeps K o s) : Keeps K o s.actReference := by
  unfold State.actReference
  repeat' first | with_reducible assumption | intro _ | exact hM.up rfl | (with_reducible refine Keeps.setDue (hM.mem rfl) ?_ rfl; with_reducible assumption) | (extract_lets +onlyGivenNames x; clear_value (hx : x = _); refine Keeps.cut (l := K) (o := o) hx ?_ ?_) | (extract_lets +onlyGivenNames x; clear_value (hx : x = _); refine Keeps.cutP (l := K) (o := o) hx ?_ ?_) | (extract_lets +onlyGivenNames x; subst x) | with_reducible apply keeps_actTripped | with_reducible apply keeps_autoState | with_reducible apply keeps_modSch | with_reducible apply keeps_applyScheme | with_reducible apply Keeps.ite | with_reducible apply Keeps.iteF | with_reducible apply Keeps.iteS | with_reducible apply Keeps.foldl | (with_reducible refine Keeps.setDue (hM.mem rfl) (Keeps.setDue (hM.mem rfl) ?_ rfl) rfl; with_reducible assumption) | split

theorem keeps_actAfe {K : List Part} {o s : State} (hM : Within [.afe, .flt] K) (h : Keeps K o s) : Keeps K o s.actAfe := by
  unfold State.actAfe
  repeat' first | with_reducible assumption | intro _ | exact hM.up rfl | (with_reducible refine Keeps.setAfeFlt (hM.mem rfl) (hM.mem rfl) ?_; with_reducible assumption) | (extract_lets +onlyGivenNames x; clear_value (hx : x = _); refine Keeps.cut (l := K) (o := o) hx ?_ ?_) | (extract_lets +onlyGivenNames x; clear_value (hx : x = _); refine Keeps.cutP (l := K) (o := o) hx ?_ ?_) | (extract_lets +onlyGivenNames x; subst x) | with_reducible apply Keeps.ite | with_reducible apply Keeps.iteF | with_reducible apply Keeps.iteS | with_reducible apply Keeps.foldl | (with_reducible refine Keeps.setAfeFlt (hM.mem rfl) (hM.mem rfl) (Keeps.setAfeFlt (hM.mem rfl) (hM.mem rfl) ?_); with_reducible assumption) | split

theorem keeps_actBoundary {K : List Part} {o s : State} (hM : Within [.causes, .irq, .ring, .trip, .clk, .afe, .flt, .sch, .fst, .chn] K) (h : Keeps K o s) : Keeps K o s.actBoundary := by
  unfold State.actBoundary
  repeat' first | with_reducible assumption | intro _ | exact hM.up rfl | (extract_lets +onlyGivenNames x; clear_value (hx : x = _); refine Keeps.cut (l := K) (o := o) hx ?_ ?_) | (extract_lets +onlyGivenNames x; clear_value (hx : x = _); refine Keeps.cutP (l := K) (o := o) hx ?_ ?_) | (extract_lets +onlyGivenNames x; subst x) | with_reducible apply keeps_actAfe | with_reducible apply keeps_abandonAll | with_reducible apply keeps_spoilAll | with_reducible apply keeps_fastFloors | with_reducible apply keeps_retunePilots | with_reducible apply keeps_filterApplied | with_reducible apply keeps_modSch | with_reducible apply Keeps.ite | with_reducible apply Keeps.iteF | with_reducible apply Keeps.iteS | with_reducible apply Keeps.foldl | split

theorem keeps_finishAct {K : List Part} {o s : State} (hM : Within [.irq, .job, .ring, .trip, .sch] K) (h : Keeps K o s) : Keeps K o s.finishAct := by
  unfold State.finishAct
  repeat' first | with_reducible assumption | exact hM.up rfl | with_reducible apply keeps_endAct | with_reducible apply keeps_modSch | with_reducible apply keeps_stageTick

theorem keeps_standbyActivated {K : List Part} {o s : State} (hM : Within [.st, .irq, .nme, .job, .ring, .trip, .pwr, .afe, .flt, .sch, .fst, .fio, .chn, .hng] K) (h : Keeps K o s) : Keeps K o s.standbyActivated := by
  unfold State.standbyActivated
  repeat' first | with_reducible assumption | intro _ | exact hM.up rfl | with_reducible apply keeps_finishAct | with_reducible apply keeps_modHng | with_reducible apply keeps_pushFrame | with_reducible apply keeps_takeover | with_reducible apply Keeps.ite

theorem keeps_activated {K : List Part} {o s : State} (hM : Within [.st, .irq, .nme, .job, .ring, .trip, .pwr, .afe, .flt, .sch, .fst, .fio, .chn, .hng] K) (h : Keeps K o s) : Keeps K o s.activated := by
  unfold State.activated
  repeat' first | with_reducible assumption | intro _ | exact hM.up rfl | with_reducible apply keeps_standbyActivated | with_reducible apply keeps_modSch | with_reducible apply keeps_finishAct | with_reducible apply keeps_autoState | with_reducible apply Keeps.ite

theorem keeps_enterStandby {K : List Part} {o s : State} (hM : Within [.st, .irq, .nme, .job, .ring, .trip, .pwr, .afe, .flt, .sch, .fst, .fio, .chn, .hng] K) (h : Keeps K o s) : Keeps K o s.enterStandby := by
  unfold State.enterStandby
  repeat' first | with_reducible assumption | intro _ | exact hM.up rfl | with_reducible apply keeps_hingeStandby | with_reducible apply keeps_finishAct | with_reducible apply Keeps.ite

theorem keeps_actCancelled {K : List Part} {o s : State} (hM : Within [.sch] K) (h : Keeps K o s) : Keeps K o s.actCancelled := by
  unfold State.actCancelled
  repeat' first | with_reducible assumption | exact hM.up rfl | with_reducible apply keeps_modSch

theorem keeps_writeGroup {K : List Part} {o s : State} (v : Word) (hM : Within [.nv, .sch] K) (h : Keeps K o s) : Keeps K o (s.writeGroup v).1 := by
  unfold State.writeGroup
  repeat' first | with_reducible assumption | intro _ | exact hM.up rfl | with_reducible apply keeps_modSch | with_reducible apply keeps_store | with_reducible apply Keeps.iteF

theorem keeps_setGroup {K : List Part} {o s : State} (g : Nat) (hM : Within [.irq, .ring, .trip, .sch] K) (h : Keeps K o s) : Keeps K o (s.setGroup g) := by
  unfold State.setGroup
  repeat' first | with_reducible assumption | intro _ | exact hM.up rfl | with_reducible apply keeps_stageTick | with_reducible apply keeps_modSch | with_reducible apply Keeps.ite

theorem keeps_groupTick {K : List Part} {o s : State} (hM : Within [.irq, .ring, .trip, .sch] K) (h : Keeps K o s) : Keeps K o s.groupTick := by
  unfold State.groupTick
  repeat' first | with_reducible assumption | exact hM.up rfl | intro _ | with_reducible apply keeps_setGroup | with_reducible apply Keeps.ite

theorem keeps_groupSwitch {K : List Part} {o s : State} (hM : Within [.irq, .ring, .trip, .sch] K) (h : Keeps K o s) : Keeps K o s.groupSwitch := by
  unfold State.groupSwitch
  repeat' first | with_reducible assumption | exact hM.up rfl | with_reducible apply keeps_setGroup | with_reducible apply keeps_modSch | with_reducible apply keeps_groupTick | split

theorem keeps_writeParam {K : List Part} {o s : State} (v : Word) (hM : Within [.sch] K) (h : Keeps K o s) : Keeps K o (s.writeParam v).1 := by
  unfold State.writeParam
  repeat' first | with_reducible assumption | exact hM.up rfl | with_reducible apply keeps_modSch | split

theorem keeps_applyParams {K : List Part} {o s : State} (hM : Within [.sch] K) (h : Keeps K o s) : Keeps K o s.applyParams := by
  unfold State.applyParams
  repeat' first | with_reducible assumption | exact hM.up rfl | intro _ | with_reducible apply keeps_modSch | with_reducible apply Keeps.ite

theorem keeps_writeTplCtl {K : List Part} {o s : State} (v : Word) (hM : Within [.nv, .regs, .defer] K) (h : Keeps K o s) : Keeps K o (s.writeTplCtl v).1 := by
  unfold State.writeTplCtl
  repeat' first | with_reducible assumption | exact hM.up rfl | with_reducible apply keeps_setReg | with_reducible apply keeps_store | with_reducible apply keeps_deferReg

theorem keeps_writeLoadCtl {K : List Part} {o s : State} (v : Word) (hM : Within [.regs] K) (h : Keeps K o s) : Keeps K o (s.writeLoadCtl v).1 := by
  unfold State.writeLoadCtl
  repeat' first | with_reducible assumption | exact hM.up rfl | with_reducible apply keeps_setReg | split

theorem keeps_writeActCtl {K : List Part} {o s : State} (v : Word) (hM : Within [.regs] K) (h : Keeps K o s) : Keeps K o (s.writeActCtl v).1 := by
  unfold State.writeActCtl
  repeat' first | with_reducible assumption | exact hM.up rfl | with_reducible apply keeps_setReg | split

/-! ### Tick -/

theorem keeps_tickTime {K : List Part} {o s : State} (ot : Nat) (hM : Within [.ticks, .pwr, .pe, .ptp] K) (h : Keeps K o s) : Keeps K o (s.tickTime ot) := by
  unfold State.tickTime
  repeat' first | with_reducible assumption | intro _ | exact hM.up rfl | (with_reducible refine Keeps.setTicksPwrPe (hM.mem rfl) (hM.mem rfl) (hM.mem rfl) ?_ rfl; with_reducible assumption) | (extract_lets +onlyGivenNames x; clear_value (hx : x = _); refine Keeps.cut (l := K) (o := o) hx ?_ ?_) | with_reducible apply keeps_ptpTick

theorem keeps_actTick {K : List Part} {o s : State} (hM : Within [.irq, .job, .ring, .trip, .sch] K) (h : Keeps K o s) : Keeps K o s.actTick := by
  unfold State.actTick
  repeat' first | with_reducible assumption | intro _ | exact hM.up rfl | with_reducible apply keeps_hingeActLost | with_reducible apply keeps_modSch | with_reducible apply Keeps.ite

theorem keeps_latchAll {K : List Part} {o s : State} (codes : List (List Int)) (hM : Within [.irq, .ring, .trip, .clk, .afe, .flt, .aux, .pe, .fst, .fio, .svc, .chn] K) (h : Keeps K o s) : Keeps K o (s.latchAll codes) := by
  unfold State.latchAll
  repeat' first | with_reducible assumption | intro _ | exact hM.up rfl | (extract_lets +onlyGivenNames x; clear_value (hx : x = _); refine Keeps.cut (l := K) (o := o) hx ?_ ?_) | (extract_lets +onlyGivenNames x; clear_value (hx : x = _); refine Keeps.cutP (l := K) (o := o) hx ?_ ?_) | (extract_lets +onlyGivenNames x; subst x) | with_reducible apply keeps_injLatch | with_reducible apply keeps_chainTick | with_reducible apply keeps_streamTick | with_reducible apply keeps_fastQual | with_reducible apply keeps_fieldLatch | with_reducible apply keeps_fastLatch | with_reducible apply keeps_shadowTick | with_reducible apply keeps_latchWords | with_reducible apply Keeps.ite | with_reducible apply Keeps.iteF | with_reducible apply Keeps.iteS | with_reducible apply Keeps.foldl | split

theorem keeps_wakeAll {K : List Part} {o s : State} (ecc : List Nat) (mm : List (Nat × Nat)) (hM : Within [.causes, .irq, .ring, .trip, .clk, .nv, .pe, .trk, .fio, .hng] K) (h : Keeps K o s) : Keeps K o (s.wakeAll ecc mm) := by
  unfold State.wakeAll
  repeat' first | with_reducible assumption | intro _ | exact hM.up rfl | (with_reducible refine Keeps.setTrk (hM.mem rfl) ?_; with_reducible assumption) | with_reducible apply keeps_mismatch | with_reducible apply keeps_wake | with_reducible apply Keeps.ite | with_reducible apply Keeps.foldl

theorem keeps_reqTick {K : List Part} {o s : State} (auto : Bool) (hM : Within [.due] K) (h : Keeps K o s) : Keeps K o (s.reqTick auto) := by
  unfold State.reqTick
  repeat' first | with_reducible assumption | intro _ | exact hM.up rfl | (with_reducible refine Keeps.setDue (hM.mem rfl) ?_ rfl; with_reducible assumption) | (extract_lets +onlyGivenNames x; clear_value (hx : x = _); refine Keeps.cut (l := K) (o := o) hx ?_ ?_) | (extract_lets +onlyGivenNames x; clear_value (hx : x = _); refine Keeps.cutP (l := K) (o := o) hx ?_ ?_) | (extract_lets +onlyGivenNames x; subst x) | with_reducible apply Keeps.ite | with_reducible apply Keeps.iteF | with_reducible apply Keeps.iteS | with_reducible apply Keeps.foldl | (with_reducible refine Keeps.setDue (hM.mem rfl) (Keeps.setDue (hM.mem rfl) ?_ rfl) rfl; with_reducible assumption) | split

theorem keeps_tick {K : List Part} {o s : State} (i : TickIn) (hM : Within [.due, .ticks, .causes, .irq, .job, .ring, .cap, .trip, .clk, .pwr, .nv, .afe, .flt, .aux, .pe, .trk, .sch, .fst, .fio, .ptp, .svc, .chn, .hng] K) (h : Keeps K o s) : Keeps K o (s.tick i) := by
  unfold State.tick
  repeat' first | with_reducible assumption | intro _ | exact hM.up rfl | (extract_lets +onlyGivenNames x; clear_value (hx : x = _); refine Keeps.cut (l := K) (o := o) hx ?_ ?_) | (extract_lets +onlyGivenNames x; clear_value (hx : x = _); refine Keeps.cutP (l := K) (o := o) hx ?_ ?_) | (extract_lets +onlyGivenNames x; subst x) | with_reducible apply keeps_actTick | with_reducible apply keeps_tickTime | with_reducible apply keeps_captureTick | with_reducible apply keeps_latchAll | with_reducible apply keeps_groupTick | with_reducible apply keeps_adopt | with_reducible apply keeps_ctlTick | with_reducible apply keeps_digestTick | with_reducible apply keeps_reqTick | with_reducible apply keeps_injEdge | with_reducible apply keeps_couplerFlush | with_reducible apply keeps_captureDue | with_reducible apply keeps_wakeAll | with_reducible apply Keeps.ite | with_reducible apply Keeps.iteF | with_reducible apply Keeps.iteS | with_reducible apply Keeps.foldl | split

theorem keeps_requestTaken {K : List Part} {o s : State} (hM : Within [.st, .req, .irq, .nme, .job, .ring, .trip, .pwr, .afe, .flt, .pe, .fst, .fio, .chn, .hng] K) (h : Keeps K o s) : Keeps K o s.requestTaken := by
  unfold State.requestTaken
  repeat' first | with_reducible assumption | exact hM.up rfl | intro _ | with_reducible apply keeps_carryOut | with_reducible apply Keeps.ite | (with_reducible refine Keeps.setReq (hM.mem rfl) ?_ rfl; with_reducible assumption) | (with_reducible refine Keeps.setReq (hM.mem rfl) (Keeps.setReq (hM.mem rfl) ?_ rfl) rfl; with_reducible assumption) | split

theorem keeps_afterUpdate {K : List Part} {o s : State} (hM : Within [.ring, .hng] K) (h : Keeps K o s) : Keeps K o s.afterUpdate := by
  unfold State.afterUpdate
  repeat' first | with_reducible assumption | intro _ | exact hM.up rfl | with_reducible apply keeps_firstDriven | with_reducible apply keeps_anchorUpdate | with_reducible apply keeps_keepDigest | with_reducible apply Keeps.ite

theorem keeps_outputUpdate {K : List Part} {o s : State} (hM : Within [.st, .health, .irq, .nme, .job, .ring, .trip, .pwr, .nv, .afe, .flt, .pe, .sch, .fst, .fio, .chn, .hng] K) (h : Keeps K o s) : Keeps K o s.outputUpdate := by
  unfold State.outputUpdate
  repeat' first | with_reducible assumption | intro _ | exact hM.up rfl | with_reducible apply keeps_afterUpdate | with_reducible apply keeps_engineUpdate | with_reducible apply keeps_releaseAtUpdate | with_reducible apply Keeps.ite

theorem keeps_placementCommit {K : List Part} {o s : State} (pl cycles : Nat) (hM : Within [.irq, .ring, .trip, .clk, .nv, .aux, .pe, .fst, .svc, .chn] K) (h : Keeps K o s) : Keeps K o (s.placementCommit pl cycles) := by
  unfold State.placementCommit
  repeat' first | with_reducible assumption | exact hM.up rfl | with_reducible apply keeps_publishEvents | with_reducible apply keeps_commit

theorem keeps_settled {K : List Part} {o s : State} (k : Nat) (hM : Within [.causes, .irq, .ring, .trip, .afe, .fio] K) (h : Keeps K o s) : Keeps K o (s.settled k) := by
  unfold State.settled
  repeat' first | with_reducible assumption | intro _ | exact hM.up rfl | with_reducible apply keeps_evalPilot | with_reducible apply keeps_restartInput | with_reducible apply Keeps.ite

theorem keeps_applyOne {K : List Part} {o s : State} (p : Nat × Word) (hM : Within [.causes, .irq, .ring, .trip, .afe, .fio, .regs] K) (h : Keeps K o s) : Keeps K o (s.applyOne p) := by
  unfold State.applyOne
  repeat' first | with_reducible assumption | intro _ | exact hM.up rfl | with_reducible apply keeps_settled | with_reducible apply keeps_setReg | with_reducible apply Keeps.ite

theorem keeps_settingApply {K : List Part} {o s : State} (hM : Within [.causes, .irq, .ring, .trip, .clk, .afe, .sch, .fst, .fio, .chn, .regs, .defer] K) (h : Keeps K o s) : Keeps K o s.settingApply := by
  unfold State.settingApply
  repeat' first | with_reducible assumption | intro _ | exact hM.up rfl | (with_reducible refine Keeps.setDefer (hM.mem rfl) ?_; with_reducible assumption) | with_reducible apply keeps_applyOne | with_reducible apply keeps_modFst | with_reducible apply keeps_modFio | with_reducible apply keeps_followOutputs | with_reducible apply keeps_fastSettle | with_reducible apply keeps_fastFloors | with_reducible apply keeps_applyParams | with_reducible apply Keeps.ite | with_reducible apply Keeps.foldl

theorem keeps_filterEdge {K : List Part} {o s : State} (hM : Within [.causes, .irq, .ring, .trip, .clk, .afe, .flt, .fst, .chn] K) (h : Keeps K o s) : Keeps K o s.filterEdge := by
  unfold State.filterEdge
  repeat' first | with_reducible assumption | intro _ | exact hM.up rfl | with_reducible apply keeps_fastFloors | with_reducible apply keeps_filterBoundary | with_reducible apply Keeps.ite

theorem keeps_gainEdge {K : List Part} {o s : State} (c : Nat) (hM : Within [.irq, .ring, .trip, .clk, .afe, .flt, .fst, .chn] K) (h : Keeps K o s) : Keeps K o (s.gainEdge c) := by
  unfold State.gainEdge
  repeat' first | with_reducible assumption | intro _ | exact hM.up rfl | with_reducible apply keeps_fastFloors | with_reducible apply keeps_gainBoundary | with_reducible apply Keeps.ite

theorem keeps_idle {K : List Part} {o s : State} (hM : Within [.irq, .ring, .trip, .pwr, .fio] K) (h : Keeps K o s) : Keeps K o s.idle := by
  unfold State.idle
  repeat' first | with_reducible assumption | intro _ | exact hM.up rfl | (with_reducible refine Keeps.setPwr (hM.mem rfl) ?_; with_reducible assumption) | with_reducible apply keeps_couplerFlush | with_reducible apply Keeps.ite

end Sys2Proof.Machine
end

