-- ==== Sys2Proof/Laws/KeepsHost.lean ====
section
/-! SUPPORT. One lemma for each operation of the clocks, the repairs, the power sequence, the jobs, the registers, the host link and the remote reads: the parts of the state it may change, and that it keeps the invariant of the stores. -/

namespace Sys2Proof.Machine

set_option linter.all false

/-! ### Clocks -/

theorem keeps_modClk {K : List Part} {o s : State} (f : Clocks → Clocks) (hM : Within [.clk] K) (h : Keeps K o s) : Keeps K o (s.modClk f) := by
  unfold State.modClk
  repeat' first | with_reducible assumption | (with_reducible refine Keeps.setClk (hM.mem rfl) ?_; with_reducible assumption)

theorem keeps_gateEngines {K : List Part} {o s : State} (hM : Within [.pe] K) (h : Keeps K o s) : Keeps K o s.gateEngines := by
  unfold State.gateEngines
  repeat' first | with_reducible assumption | exact hM.up rfl | with_reducible apply keeps_modPe

theorem keeps_enterLevel1 {K : List Part} {o s : State} (cause : Nat) (hM : Within [.irq, .nme, .ring, .trip, .clk, .pe, .fst, .chn] K) (h : Keeps K o s) : Keeps K o (s.enterLevel1 cause) := by
  unfold State.enterLevel1
  repeat' first | with_reducible assumption | exact hM.up rfl | with_reducible apply keeps_modClk | with_reducible apply keeps_gateEngines | with_reducible apply keeps_stage | with_reducible apply keeps_setNme | with_reducible apply keeps_raiseOp | with_reducible apply keeps_fastSettle | with_reducible apply keeps_fastQual

theorem keeps_abortMeasure {K : List Part} {o s : State} (hM : Within [.clk] K) (h : Keeps K o s) : Keeps K o s.abortMeasure := by
  unfold State.abortMeasure
  repeat' first | with_reducible assumption | exact hM.up rfl | with_reducible apply keeps_modClk

theorem keeps_enterLevel2 {K : List Part} {o s : State} (cause : Nat) (hM : Within [.st, .due, .causes, .irq, .nme, .job, .ring, .trip, .clk, .pwr, .afe, .flt, .pe, .fst, .fio, .chn, .hng] K) (h : Keeps K o s) : Keeps K o (s.enterLevel2 cause) := by
  unfold State.enterLevel2
  repeat' first | with_reducible assumption | intro _ | exact hM.up rfl | (with_reducible refine Keeps.setDue (hM.mem rfl) ?_ rfl; with_reducible assumption) | (extract_lets +onlyGivenNames x; clear_value (hx : x = _); refine Keeps.cut (l := K) (o := o) hx ?_ ?_) | (extract_lets +onlyGivenNames x; clear_value (hx : x = _); refine Keeps.cutP (l := K) (o := o) hx ?_ ?_) | (extract_lets +onlyGivenNames x; subst x) | with_reducible apply keeps_modClk | with_reducible apply keeps_modPe | with_reducible apply keeps_abortMeasure | with_reducible apply keeps_stage | with_reducible apply keeps_setNme | with_reducible apply keeps_failsafeEntry | with_reducible apply keeps_found | with_reducible apply keeps_fastQual | with_reducible apply Keeps.ite | with_reducible apply Keeps.iteF | with_reducible apply Keeps.iteS | with_reducible apply Keeps.foldl | (with_reducible refine Keeps.setDue (hM.mem rfl) (Keeps.setDue (hM.mem rfl) ?_ rfl) rfl; with_reducible assumption) | split

theorem keeps_fallBack {K : List Part} {o s : State} (cause : Nat) (hM : Within [.st, .due, .causes, .irq, .nme, .job, .ring, .trip, .clk, .pwr, .afe, .flt, .pe, .fst, .fio, .chn, .hng] K) (h : Keeps K o s) : Keeps K o (s.fallBack cause) := by
  unfold State.fallBack
  repeat' first | with_reducible assumption | intro _ | exact hM.up rfl | with_reducible apply keeps_enterLevel1 | with_reducible apply keeps_enterLevel2 | with_reducible apply Keeps.ite

theorem keeps_refFails {K : List Part} {o s : State} (cause : Nat) (hM : Within [.st, .due, .causes, .irq, .nme, .job, .ring, .trip, .clk, .pwr, .afe, .flt, .pe, .fst, .fio, .chn, .hng] K) (h : Keeps K o s) : Keeps K o (s.refFails cause) := by
  unfold State.refFails
  repeat' first | with_reducible assumption | intro _ | exact hM.up rfl | with_reducible apply keeps_modClk | with_reducible apply keeps_fallBack | with_reducible apply Keeps.ite

theorem keeps_ircFails {K : List Part} {o s : State} (hM : Within [.st, .due, .causes, .irq, .nme, .job, .ring, .trip, .clk, .pwr, .afe, .flt, .pe, .fst, .fio, .chn, .hng] K) (h : Keeps K o s) : Keeps K o s.ircFails := by
  unfold State.ircFails
  repeat' first | with_reducible assumption | intro _ | exact hM.up rfl | with_reducible apply keeps_stage | with_reducible apply keeps_modClk | with_reducible apply keeps_enterLevel2 | with_reducible apply Keeps.ite

theorem keeps_lfoFails {K : List Part} {o s : State} (hM : Within [.irq, .ring, .trip, .clk] K) (h : Keeps K o s) : Keeps K o s.lfoFails := by
  unfold State.lfoFails
  repeat' first | with_reducible assumption | exact hM.up rfl | with_reducible apply keeps_stage | with_reducible apply keeps_modClk

theorem keeps_clockFailure {K : List Part} {o s : State} (c : ClockFail) (hM : Within [.st, .due, .causes, .irq, .nme, .job, .ring, .trip, .clk, .pwr, .afe, .flt, .pe, .fst, .fio, .chn, .hng] K) (h : Keeps K o s) : Keeps K o (s.clockFailure c) := by
  unfold State.clockFailure
  repeat' first | with_reducible assumption | exact hM.up rfl | with_reducible apply keeps_refFails | with_reducible apply keeps_fallBack | with_reducible apply keeps_ircFails | with_reducible apply keeps_lfoFails | split

theorem keeps_lfoStable {K : List Part} {o s : State} (hM : Within [.clk] K) (h : Keeps K o s) : Keeps K o s.lfoStable := by
  unfold State.lfoStable
  repeat' first | with_reducible assumption | exact hM.up rfl | intro _ | with_reducible apply keeps_modClk | with_reducible apply Keeps.ite

theorem keeps_sysRelock {K : List Part} {o s : State} (hM : Within [.irq, .ring, .trip, .clk, .pe, .fst, .chn] K) (h : Keeps K o s) : Keeps K o s.sysRelock := by
  unfold State.sysRelock
  repeat' first | with_reducible assumption | intro _ | exact hM.up rfl | with_reducible apply keeps_modClk | with_reducible apply keeps_modPe | with_reducible apply keeps_stageTick | with_reducible apply keeps_fastSettle | with_reducible apply keeps_fastQual | with_reducible apply Keeps.ite

theorem keeps_clkRestored {K : List Part} {o s : State} (hM : Within [.irq, .ring, .trip] K) (h : Keeps K o s) : Keeps K o s.clkRestored := by
  unfold State.clkRestored
  repeat' first | with_reducible assumption | exact hM.up rfl | with_reducible apply keeps_stage

theorem keeps_returnIrc {K : List Part} {o s : State} (hM : Within [.irq, .ring, .trip, .clk] K) (h : Keeps K o s) : Keeps K o s.returnIrc := by
  unfold State.returnIrc
  repeat' first | with_reducible assumption | intro _ | exact hM.up rfl | with_reducible apply keeps_clkRestored | with_reducible apply keeps_modClk | with_reducible apply Keeps.ite

theorem keeps_returnRef {K : List Part} {o s : State} (hM : Within [.irq, .ring, .trip, .clk] K) (h : Keeps K o s) : Keeps K o s.returnRef := by
  unfold State.returnRef
  repeat' first | with_reducible assumption | intro _ | exact hM.up rfl | with_reducible apply keeps_modClk | with_reducible apply keeps_clkRestored | with_reducible apply Keeps.ite

theorem keeps_lockAll {K : List Part} {o s : State} (hM : Within [.clk] K) (h : Keeps K o s) : Keeps K o s.lockAll := by
  unfold State.lockAll
  repeat' first | with_reducible assumption | exact hM.up rfl | with_reducible apply keeps_modClk

theorem keeps_convLocked {K : List Part} {o s : State} (hM : Within [.irq, .ring, .trip, .clk, .flt] K) (h : Keeps K o s) : Keeps K o s.convLocked := by
  unfold State.convLocked
  repeat' first | with_reducible assumption | intro _ | exact hM.up rfl | with_reducible apply keeps_returnIrc | with_reducible apply keeps_modClk | with_reducible apply keeps_spoilAll | with_reducible apply keeps_lockAll | with_reducible apply Keeps.ite

theorem keeps_ircRestart {K : List Part} {o s : State} (hM : Within [.clk] K) (h : Keeps K o s) : Keeps K o s.ircRestart := by
  unfold State.ircRestart
  repeat' first | with_reducible assumption | exact hM.up rfl | intro _ | with_reducible apply keeps_modClk | with_reducible apply Keeps.ite

theorem keeps_bootRow {K : List Part} {o s : State} (n : Nat) (hM : Within [.pwr] K) (h : Keeps K o s) : Keeps K o (s.bootRow n) := by
  unfold State.bootRow
  repeat' first | with_reducible assumption | intro _ | (with_reducible refine Keeps.setPwr (hM.mem rfl) ?_; with_reducible assumption) | with_reducible apply Keeps.ite

theorem keeps_ircStable {K : List Part} {o s : State} (hM : Within [.clk, .pwr] K) (h : Keeps K o s) : Keeps K o s.ircStable := by
  unfold State.ircStable
  repeat' first | with_reducible assumption | intro _ | exact hM.up rfl | with_reducible apply keeps_bootRow | with_reducible apply keeps_modClk | with_reducible apply Keeps.ite

theorem keeps_refclkStable {K : List Part} {o s : State} (mhz : Nat) (hM : Within [.clk, .pwr] K) (h : Keeps K o s) : Keeps K o (s.refclkStable mhz) := by
  unfold State.refclkStable
  repeat' first | with_reducible assumption | intro _ | exact hM.up rfl | with_reducible apply keeps_bootRow | with_reducible apply keeps_modClk | with_reducible apply Keeps.ite

theorem keeps_refclkAbsent {K : List Part} {o s : State} (hM : Within [.irq, .nme, .ring, .trip, .clk, .pwr] K) (h : Keeps K o s) : Keeps K o s.refclkAbsent := by
  unfold State.refclkAbsent
  repeat' first | with_reducible assumption | intro _ | exact hM.up rfl | with_reducible apply keeps_modClk | with_reducible apply keeps_bootRow | with_reducible apply keeps_stage | with_reducible apply keeps_setNme | with_reducible apply Keeps.ite

theorem keeps_refOkSet {K : List Part} {o s : State} (hM : Within [.irq, .ring, .trip, .clk] K) (h : Keeps K o s) : Keeps K o s.refOkSet := by
  unfold State.refOkSet
  repeat' first | with_reducible assumption | intro _ | exact hM.up rfl | with_reducible apply keeps_modClk | with_reducible apply keeps_returnRef | with_reducible apply Keeps.ite

theorem keeps_level2Recovered {K : List Part} {o s : State} (hM : Within [.st, .causes, .irq, .nme, .job, .ring, .trip, .pwr, .afe, .flt, .fst, .fio, .chn, .hng] K) (h : Keeps K o s) : Keeps K o s.level2Recovered := by
  unfold State.level2Recovered
  repeat' first | with_reducible assumption | intro _ | exact hM.up rfl | with_reducible apply keeps_causeCleared | with_reducible apply keeps_clkRestored | with_reducible apply keeps_dropCause | with_reducible apply Keeps.ite

theorem keeps_pllHoldStop {K : List Part} {o s : State} (hM : Within [.irq, .ring, .trip, .clk, .ptp, .chn] K) (h : Keeps K o s) : Keeps K o s.pllHoldStop := by
  unfold State.pllHoldStop
  repeat' first | with_reducible assumption | intro _ | exact hM.up rfl | with_reducible apply keeps_portDown | with_reducible apply keeps_modClk | with_reducible apply Keeps.ite

theorem keeps_trimLimit {K : List Part} {o s : State} (osc old new top : Nat) (hM : Within [.irq, .ring, .trip] K) (h : Keeps K o s) : Keeps K o (s.trimLimit osc old new top) := by
  unfold State.trimLimit
  repeat' first | with_reducible assumption | exact hM.up rfl | intro _ | with_reducible apply keeps_stage | with_reducible apply Keeps.ite

theorem keeps_trim {K : List Part} {o s : State} (irc lfo : Nat) (hM : Within [.irq, .ring, .trip, .clk, .pwr] K) (h : Keeps K o s) : Keeps K o (s.trim irc lfo) := by
  unfold State.trim
  repeat' first | with_reducible assumption | intro _ | exact hM.up rfl | (with_reducible refine Keeps.setPwr (hM.mem rfl) ?_; with_reducible assumption) | (extract_lets +onlyGivenNames x; clear_value (hx : x = _); refine Keeps.cut (l := K) (o := o) hx ?_ ?_) | (extract_lets +onlyGivenNames x; subst x) | with_reducible apply keeps_modClk | with_reducible apply keeps_trimLimit | with_reducible apply Keeps.ite

theorem keeps_writeMeas {K : List Part} {o s : State} (v : Word) (hM : Within [.clk, .regs] K) (h : Keeps K o s) : Keeps K o (s.writeMeas v).1 := by
  unfold State.writeMeas
  repeat' first | with_reducible assumption | intro _ | exact hM.up rfl | with_reducible apply keeps_setReg | with_reducible apply keeps_modClk | with_reducible apply Keeps.ite | split

theorem keeps_measureDone {K : List Part} {o s : State} (count : Nat) (hM : Within [.clk] K) (h : Keeps K o s) : Keeps K o (s.measureDone count) := by
  unfold State.measureDone
  repeat' first | with_reducible assumption | exact hM.up rfl | intro _ | with_reducible apply keeps_modClk | with_reducible apply Keeps.ite

theorem keeps_writeClkCfg {K : List Part} {o s : State} (v : Word) (hM : Within [.irq, .ring, .trip, .clk, .nv, .regs] K) (h : Keeps K o s) : Keeps K o (s.writeClkCfg v).1 := by
  unfold State.writeClkCfg
  repeat' first | with_reducible assumption | intro _ | exact hM.up rfl | with_reducible apply keeps_setStored | with_reducible apply keeps_modClk | with_reducible apply keeps_returnIrc | with_reducible apply keeps_returnRef | with_reducible apply Keeps.ite | split

theorem keeps_writeOp {K : List Part} {o s : State} (v : Word) (hM : Within [.clk, .regs] K) (h : Keeps K o s) : Keeps K o (s.writeOp v).1 := by
  unfold State.writeOp
  repeat' first | with_reducible assumption | exact hM.up rfl | with_reducible apply keeps_opPinned | with_reducible apply keeps_setReg | split

theorem keeps_writeClkOut {K : List Part} {o s : State} (v : Word) (hM : Within [.regs] K) (h : Keeps K o s) : Keeps K o (s.writeClkOut v).1 := by
  unfold State.writeClkOut
  repeat' first | with_reducible assumption | exact hM.up rfl | with_reducible apply keeps_setReg | split

theorem keeps_writeGate {K : List Part} {o s : State} (v : Word) (hM : Within [.clk, .regs] K) (h : Keeps K o s) : Keeps K o (s.writeGate v).1 := by
  unfold State.writeGate
  repeat' first | with_reducible assumption | exact hM.up rfl | with_reducible apply keeps_modClk | with_reducible apply keeps_setReg | split

theorem keeps_leafGated {K : List Part} {o s : State} (n : Nat) (hM : Within [.irq, .ring, .trip, .clk, .ptp, .svc, .chn] K) (h : Keeps K o s) : Keeps K o (s.leafGated n) := by
  unfold State.leafGated
  repeat' first | with_reducible assumption | intro _ | exact hM.up rfl | with_reducible apply keeps_modClk | with_reducible apply keeps_portDown | with_reducible apply keeps_announceTimeout | with_reducible apply keeps_ethLink | with_reducible apply Keeps.ite

/-! ### Repair -/

theorem keeps_modDm {K : List Part} {o s : State} (f : Defects → Defects) (hM : Within [.dm] K) (h : Keeps K o s) : Keeps K o (s.modDm f) := by
  unfold State.modDm
  repeat' first | with_reducible assumption | (with_reducible refine Keeps.setDm (hM.mem rfl) ?_; with_reducible assumption)

theorem keeps_writeMap {K : List Part} {o s : State} (k update : Nat) (hM : Within [.dm, .mram] K) (h : Keeps K o s) : Keeps K o (s.writeMap k update) := by
  unfold State.writeMap
  repeat' first | with_reducible assumption | intro _ | exact hM.up rfl | with_reducible apply keeps_mramPut | with_reducible apply keeps_modDm | with_reducible apply Keeps.ite

theorem keeps_mapWrite {K : List Part} {o s : State} (hM : Within [.dm, .mram] K) (h : Keeps K o s) : Keeps K o s.mapWrite := by
  unfold State.mapWrite
  repeat' first | with_reducible assumption | exact hM.up rfl | intro _ | with_reducible apply keeps_writeMap | with_reducible apply Keeps.ite

theorem keeps_writeBothMaps {K : List Part} {o s : State} (hM : Within [.dm, .mram] K) (h : Keeps K o s) : Keeps K o s.writeBothMaps := by
  unfold State.writeBothMaps
  repeat' first | with_reducible assumption | exact hM.up rfl | intro _ | with_reducible apply keeps_writeMap | with_reducible apply Keeps.ite

theorem keeps_ssNeeds {K : List Part} {o s : State} (row reason : Nat) (hM : Within [.irq, .ring, .trip, .dm] K) (h : Keeps K o s) : Keeps K o (s.ssNeeds row reason) := by
  unfold State.ssNeeds
  repeat' first | with_reducible assumption | intro _ | exact hM.up rfl | with_reducible apply keeps_modDm | with_reducible apply keeps_stage | with_reducible apply Keeps.ite

theorem keeps_ssCorrected {K : List Part} {o s : State} (w : Nat) (hM : Within [.irq, .ring, .trip, .dm, .nv] K) (h : Keeps K o s) : Keeps K o (s.ssCorrected w) := by
  unfold State.ssCorrected
  repeat' first | with_reducible assumption | intro _ | exact hM.up rfl | (with_reducible refine Keeps.setNv (hM.mem rfl) ?_; with_reducible assumption) | (extract_lets +onlyGivenNames x; clear_value (hx : x = _); refine Keeps.cut (l := K) (o := o) hx ?_ ?_) | (extract_lets +onlyGivenNames x; subst x) | with_reducible apply keeps_modDm | with_reducible apply keeps_ssNeeds | with_reducible apply Keeps.ite

theorem keeps_ssScrub {K : List Part} {o s : State} (corrected uncorrectable : List Nat) (hM : Within [.irq, .ring, .trip, .dm, .nv] K) (h : Keeps K o s) : Keeps K o (s.ssScrub corrected uncorrectable) := by
  unfold State.ssScrub
  repeat' first | with_reducible assumption | intro _ | exact hM.up rfl | with_reducible apply keeps_ssCorrected | with_reducible apply keeps_ssNeeds | with_reducible apply Keeps.ite | with_reducible apply Keeps.foldl

theorem keeps_ssSpare {K : List Part} {o s : State} (row reason : Nat) (hM : Within [.irq, .ring, .trip, .dm] K) (h : Keeps K o s) : Keeps K o (s.ssSpare row reason) := by
  unfold State.ssSpare
  repeat' first | with_reducible assumption | exact hM.up rfl | with_reducible apply keeps_ssNeeds | with_reducible apply keeps_modDm | with_reducible apply keeps_stage | split

theorem keeps_mramNeeds {K : List Part} {o s : State} (row reason : Nat) (hM : Within [.dm] K) (h : Keeps K o s) : Keeps K o (s.mramNeeds row reason) := by
  unfold State.mramNeeds
  repeat' first | with_reducible assumption | exact hM.up rfl | with_reducible apply keeps_modDm

theorem keeps_mramCorrected {K : List Part} {o s : State} (off : Nat) (hM : Within [.dm, .nv] K) (h : Keeps K o s) : Keeps K o (s.mramCorrected off) := by
  unfold State.mramCorrected
  repeat' first | with_reducible assumption | intro _ | exact hM.up rfl | (with_reducible refine Keeps.setNv (hM.mem rfl) ?_; with_reducible assumption) | (extract_lets +onlyGivenNames x; clear_value (hx : x = _); refine Keeps.cut (l := K) (o := o) hx ?_ ?_) | (extract_lets +onlyGivenNames x; subst x) | with_reducible apply keeps_modDm | with_reducible apply keeps_mramNeeds | with_reducible apply Keeps.ite

theorem keeps_mramLostWord {K : List Part} {o s : State} (off : Nat) (hM : Within [.irq, .ring, .cap, .trip, .dm] K) (h : Keeps K o s) : Keeps K o (s.mramLostWord off) := by
  unfold State.mramLostWord
  repeat' first | with_reducible assumption | intro _ | exact hM.up rfl | with_reducible apply keeps_mramNeeds | with_reducible apply keeps_modDm | with_reducible apply keeps_modSlot | with_reducible apply keeps_stage | with_reducible apply Keeps.ite

theorem keeps_mramScrub {K : List Part} {o s : State} (corrected uncorrectable : List Nat) (hM : Within [.irq, .ring, .cap, .trip, .dm, .nv] K) (h : Keeps K o s) : Keeps K o (s.mramScrub corrected uncorrectable) := by
  unfold State.mramScrub
  repeat' first | with_reducible assumption | intro _ | exact hM.up rfl | with_reducible apply keeps_mramCorrected | with_reducible apply keeps_mramLostWord | with_reducible apply Keeps.ite | with_reducible apply Keeps.foldl

theorem keeps_mramScrubStep {K : List Part} {o s : State} (corrected uncorrectable : List Nat) (hM : Within [.irq, .ring, .cap, .trip, .dm, .nv] K) (h : Keeps K o s) : Keeps K o (s.mramScrubStep corrected uncorrectable) := by
  unfold State.mramScrubStep
  repeat' first | with_reducible assumption | intro _ | exact hM.up rfl | with_reducible apply keeps_modDm | with_reducible apply keeps_mramScrub | with_reducible apply Keeps.ite

theorem keeps_mramSpare {K : List Part} {o s : State} (row : Nat) (uncorrectable : Bool) (hM : Within [.irq, .ring, .trip, .dm] K) (h : Keeps K o s) : Keeps K o (s.mramSpare row uncorrectable) := by
  unfold State.mramSpare
  repeat' first | with_reducible assumption | exact hM.up rfl | (extract_lets +onlyGivenNames x; subst x) | with_reducible apply keeps_modDm | with_reducible apply keeps_stage | split

theorem keeps_mramFails {K : List Part} {o s : State} (hM : Within [.irq, .ring, .trip, .dm] K) (h : Keeps K o s) : Keeps K o s.mramFails := by
  unfold State.mramFails
  repeat' first | with_reducible assumption | intro _ | exact hM.up rfl | with_reducible apply keeps_stage | with_reducible apply keeps_modDm | with_reducible apply Keeps.ite

/-! ### Power -/

theorem keeps_modPwr {K : List Part} {o s : State} (f : Power → Power) (hM : Within [.pwr] K) (h : Keeps K o s) : Keeps K o (s.modPwr f) := by
  unfold State.modPwr
  repeat' first | with_reducible assumption | (with_reducible refine Keeps.setPwr (hM.mem rfl) ?_; with_reducible assumption)

theorem keeps_writeBlock {K : List Part} {o s : State} (pf : Bool) (hM : Within [.pwr] K) (h : Keeps K o s) : Keeps K o (s.writeBlock pf) := by
  unfold State.writeBlock
  repeat' first | with_reducible assumption | exact hM.up rfl | intro _ | with_reducible apply keeps_modPwr | with_reducible apply Keeps.ite

theorem keeps_blockDue {K : List Part} {o s : State} (ot : Nat) (hM : Within [.pwr] K) (h : Keeps K o s) : Keeps K o (s.blockDue ot) := by
  unfold State.blockDue
  repeat' first | with_reducible assumption | exact hM.up rfl | intro _ | with_reducible apply keeps_writeBlock | with_reducible apply keeps_modPwr | with_reducible apply Keeps.ite

theorem keeps_abandonJobs {K : List Part} {o s : State} (hM : Within [.causes, .irq, .job, .ring, .cap, .trip, .dm, .afe, .flt, .pe, .sch, .mram] K) (h : Keeps K o s) : Keeps K o s.abandonJobs := by
  unfold State.abandonJobs
  repeat' first | with_reducible assumption | intro _ | exact hM.up rfl | (extract_lets +onlyGivenNames x; clear_value (hx : x = _); refine Keeps.cut (l := K) (o := o) hx ?_ ?_) | (extract_lets +onlyGivenNames x; clear_value (hx : x = _); refine Keeps.cutP (l := K) (o := o) hx ?_ ?_) | (extract_lets +onlyGivenNames x; subst x) | with_reducible apply keeps_loadCancelled | with_reducible apply keeps_actCancelled | with_reducible apply keeps_modSch | with_reducible apply keeps_modCap | with_reducible apply keeps_bistRelease | with_reducible apply keeps_reconnectAll | with_reducible apply keeps_dropJobs | with_reducible apply Keeps.ite | with_reducible apply Keeps.iteF | with_reducible apply Keeps.iteS | with_reducible apply Keeps.foldl | split

theorem keeps_resetTo {K : List Part} {o s : State} (st : OpState) (cold : Bool) (cause rail : Nat) (hM : Within [.st, .req, .due, .ticks, .causes, .health, .irq, .nme, .host, .key, .job, .ring, .ledger, .cap, .trip, .clk, .pwr, .dm, .nv, .afe, .flt, .aux, .pe, .trk, .sch, .fst, .fio, .ptp, .svc, .chn, .hng, .regs, .defer] K) (h : Keeps K o s) : Keeps K o (s.resetTo st cold cause rail) := by
  unfold State.resetTo
  refine ⟨⟨h.1.1, fun p hp => ?_⟩, fun v => ⟨(h.2 v).1, Nat.zero_le _, Nat.zero_le _, List.Pairwise.nil⟩⟩
  have g := h.1.2 p hp
  cases p <;> first | exact g | exact absurd (hM.mem rfl) hp

theorem keeps_resetFor {K : List Part} {o s : State} (cause rail : Nat) (hM : Within [.st, .req, .due, .ticks, .causes, .health, .irq, .nme, .host, .key, .job, .ring, .ledger, .cap, .trip, .clk, .pwr, .dm, .nv, .afe, .flt, .aux, .pe, .trk, .sch, .fst, .fio, .ptp, .svc, .chn, .hng, .regs, .defer] K) (h : Keeps K o s) : Keeps K o (s.resetFor cause rail) := by
  unfold State.resetFor
  repeat' first | with_reducible assumption | exact hM.up rfl | with_reducible apply keeps_resetTo

theorem keeps_resetLow {K : List Part} {o s : State} (hM : Within [.st, .req, .due, .ticks, .causes, .health, .irq, .nme, .host, .key, .job, .ring, .ledger, .cap, .trip, .clk, .pwr, .dm, .nv, .afe, .flt, .aux, .pe, .trk, .sch, .fst, .fio, .ptp, .svc, .chn, .hng, .regs, .defer] K) (h : Keeps K o s) : Keeps K o s.resetLow := by
  unfold State.resetLow
  repeat' first | with_reducible assumption | intro _ | exact hM.up rfl | with_reducible apply keeps_modPwr | with_reducible apply keeps_resetFor | with_reducible apply Keeps.ite

theorem keeps_resetRise {K : List Part} {o s : State} (hM : Within [.pwr] K) (h : Keeps K o s) : Keeps K o s.resetRise := by
  unfold State.resetRise
  repeat' first | with_reducible assumption | exact hM.up rfl | with_reducible apply keeps_modPwr

theorem keeps_railFault {K : List Part} {o s : State} (rail : Nat) (hM : Within [.st, .req, .due, .ticks, .causes, .health, .irq, .nme, .host, .key, .job, .ring, .ledger, .cap, .trip, .clk, .pwr, .dm, .nv, .afe, .flt, .aux, .pe, .trk, .sch, .fst, .fio, .ptp, .svc, .chn, .hng, .regs, .defer] K) (h : Keeps K o s) : Keeps K o (s.railFault rail) := by
  unfold State.railFault
  repeat' first | with_reducible assumption | exact hM.up rfl | intro _ | with_reducible apply keeps_resetTo | with_reducible apply keeps_resetFor | with_reducible apply Keeps.ite

theorem keeps_writePwrCtl {K : List Part} {o s : State} (v : Word) (hM : Within [.pwr] K) (h : Keeps K o s) : Keeps K o (s.writePwrCtl v).1 := by
  unfold State.writePwrCtl
  repeat' first | with_reducible assumption | exact hM.up rfl | with_reducible apply keeps_modPwr | split

theorem keeps_hostResetEffect {K : List Part} {o s : State} (hM : Within [.st, .req, .due, .ticks, .causes, .health, .irq, .nme, .host, .key, .job, .ring, .ledger, .cap, .trip, .clk, .pwr, .dm, .nv, .afe, .flt, .aux, .pe, .trk, .sch, .fst, .fio, .ptp, .svc, .chn, .hng, .regs, .defer, .mram] K) (h : Keeps K o s) : Keeps K o s.hostResetEffect := by
  unfold State.hostResetEffect
  repeat' first | with_reducible assumption | intro _ | exact hM.up rfl | with_reducible apply keeps_resetFor | with_reducible apply keeps_writeBlock | with_reducible apply keeps_flushRing | with_reducible apply Keeps.ite

theorem keeps_hcRestart {K : List Part} {o s : State} (hM : Within [.causes, .irq, .job, .ring, .cap, .trip, .pwr, .dm, .afe, .flt, .pe, .sch, .mram] K) (h : Keeps K o s) : Keeps K o s.hcRestart := by
  unfold State.hcRestart
  repeat' first | with_reducible assumption | intro _ | exact hM.up rfl | with_reducible apply keeps_stage | with_reducible apply keeps_modCap | with_reducible apply keeps_modPwr | with_reducible apply keeps_abandonJobs | with_reducible apply Keeps.ite

theorem keeps_feedOut {K : List Part} {o s : State} (f mv : Nat) (hM : Within [.causes, .irq, .ring, .trip, .pwr, .fio, .hng] K) (h : Keeps K o s) : Keeps K o (s.feedOut f mv) := by
  unfold State.feedOut
  repeat' first | with_reducible assumption | intro _ | exact hM.up rfl | with_reducible apply keeps_modPwr | with_reducible apply keeps_stage | with_reducible apply keeps_found | with_reducible apply Keeps.ite

theorem keeps_completeCommit {K : List Part} {o s : State} (hM : Within [.irq, .ring, .ledger, .trip, .pwr, .dm, .mram] K) (h : Keeps K o s) : Keeps K o s.completeCommit := by
  unfold State.completeCommit
  repeat' first | with_reducible assumption | intro _ | exact hM.up rfl | with_reducible apply keeps_writeBlock | with_reducible apply keeps_flushEnd | with_reducible apply Keeps.ite

theorem keeps_reopenRing {K : List Part} {o s : State} (hM : Within [.irq, .ring, .trip] K) (h : Keeps K o s) : Keeps K o s.reopenRing := by
  unfold State.reopenRing
  exact keeps_stage _ _ _ (hM := hM.up rfl) (Keeps.setRing (hM.mem rfl) h rfl (List.nil_sublist _))

theorem keeps_powerBack {K : List Part} {o s : State} (hM : Within [.st, .req, .due, .ticks, .causes, .health, .irq, .nme, .host, .key, .job, .ring, .ledger, .cap, .trip, .clk, .pwr, .dm, .nv, .afe, .flt, .aux, .pe, .trk, .sch, .fst, .fio, .ptp, .svc, .chn, .hng, .regs, .defer, .mram] K) (h : Keeps K o s) : Keeps K o s.powerBack := by
  unfold State.powerBack
  repeat' first | with_reducible assumption | intro _ | exact hM.up rfl | with_reducible apply keeps_completeCommit | with_reducible apply keeps_reopenRing | with_reducible apply keeps_modPwr | with_reducible apply keeps_resetFor | with_reducible apply Keeps.ite

theorem keeps_feedIn {K : List Part} {o s : State} (f mv : Nat) (hM : Within [.st, .req, .due, .ticks, .causes, .health, .irq, .nme, .host, .key, .job, .ring, .ledger, .cap, .trip, .clk, .pwr, .dm, .nv, .afe, .flt, .aux, .pe, .trk, .sch, .fst, .fio, .ptp, .svc, .chn, .hng, .regs, .defer, .mram] K) (h : Keeps K o s) : Keeps K o (s.feedIn f mv) := by
  unfold State.feedIn
  repeat' first | with_reducible assumption | intro _ | exact hM.up rfl | with_reducible apply keeps_modPwr | with_reducible apply keeps_dropCause | with_reducible apply keeps_powerBack | with_reducible apply keeps_stage | with_reducible apply Keeps.ite

theorem keeps_powerFail {K : List Part} {o s : State} (mv : Nat) (hM : Within [.st, .causes, .irq, .nme, .job, .ring, .cap, .trip, .pwr, .dm, .nv, .afe, .flt, .pe, .sch, .mram] K) (h : Keeps K o s) : Keeps K o (s.powerFail mv) := by
  unfold State.powerFail
  repeat' first | with_reducible assumption | intro _ | exact hM.up rfl | (with_reducible refine Keeps.setSt (hM.mem rfl) ?_ rfl; with_reducible assumption) | (extract_lets +onlyGivenNames x; clear_value (hx : x = _); refine Keeps.cut (l := K) (o := o) hx ?_ ?_) | (extract_lets +onlyGivenNames x; clear_value (hx : x = _); refine Keeps.cutP (l := K) (o := o) hx ?_ ?_) | (extract_lets +onlyGivenNames x; subst x) | with_reducible apply keeps_modPwr | with_reducible apply keeps_voidCal | with_reducible apply keeps_writeLatches | with_reducible apply keeps_closeRing | with_reducible apply keeps_dropCaptures | with_reducible apply keeps_abandonJobs | with_reducible apply keeps_testsLost | with_reducible apply keeps_setNme | with_reducible apply Keeps.ite | with_reducible apply Keeps.iteF | with_reducible apply Keeps.iteS | with_reducible apply Keeps.foldl | (with_reducible refine Keeps.setSt (hM.mem rfl) (Keeps.setSt (hM.mem rfl) ?_ rfl) rfl; with_reducible assumption) | split

theorem keeps_flushOver {K : List Part} {o s : State} (hM : Within [.irq, .ring, .ledger, .trip, .pwr, .dm, .mram] K) (h : Keeps K o s) : Keeps K o s.flushOver := by
  unfold State.flushOver
  repeat' first | with_reducible assumption | intro _ | exact hM.up rfl | with_reducible apply keeps_modPwr | with_reducible apply keeps_flushEnd | with_reducible apply Keeps.ite

theorem keeps_commitDone {K : List Part} {o s : State} (hM : Within [.st, .req, .due, .ticks, .causes, .health, .irq, .nme, .host, .key, .job, .ring, .ledger, .cap, .trip, .clk, .pwr, .dm, .nv, .afe, .flt, .aux, .pe, .trk, .sch, .fst, .fio, .ptp, .svc, .chn, .hng, .regs, .defer] K) (h : Keeps K o s) : Keeps K o s.commitDone := by
  unfold State.commitDone
  repeat' first | with_reducible assumption | intro _ | exact hM.up rfl | with_reducible apply keeps_modPwr | with_reducible apply keeps_writeBlock | with_reducible apply keeps_resetFor | with_reducible apply Keeps.ite

theorem keeps_holdSpent {K : List Part} {o s : State} (mv : Nat) (hM : Within [.st, .req, .due, .ticks, .causes, .health, .irq, .nme, .host, .key, .job, .ring, .ledger, .cap, .trip, .clk, .pwr, .dm, .nv, .afe, .flt, .aux, .pe, .trk, .sch, .fst, .fio, .ptp, .svc, .chn, .hng, .regs, .defer] K) (h : Keeps K o s) : Keeps K o (s.holdSpent mv) := by
  unfold State.holdSpent
  repeat' first | with_reducible assumption | exact hM.up rfl | intro _ | with_reducible apply keeps_resetTo | with_reducible apply Keeps.ite

theorem keeps_holdReadySet {K : List Part} {o s : State} (t : Nat) (hM : Within [.irq, .ring, .trip, .pwr] K) (h : Keeps K o s) : Keeps K o (s.holdReadySet t) := by
  unfold State.holdReadySet
  repeat' first | with_reducible assumption | intro _ | exact hM.up rfl | with_reducible apply keeps_modPwr | with_reducible apply keeps_stage | with_reducible apply Keeps.ite

theorem keeps_holdFaultSet {K : List Part} {o s : State} (k : HoldJudge) (hM : Within [.irq, .ring, .trip, .pwr] K) (h : Keeps K o s) : Keeps K o (s.holdFaultSet k) := by
  unfold State.holdFaultSet
  repeat' first | with_reducible assumption | intro _ | exact hM.up rfl | with_reducible apply keeps_stage | with_reducible apply keeps_modPwr | with_reducible apply Keeps.ite

theorem keeps_feedRise {K : List Part} {o s : State} (f mv : Nat) (hM : Within [.st, .req, .due, .ticks, .causes, .health, .irq, .nme, .host, .key, .job, .ring, .ledger, .cap, .trip, .clk, .pwr, .dm, .nv, .afe, .flt, .aux, .pe, .trk, .sch, .fst, .fio, .ptp, .svc, .chn, .hng, .regs, .defer] K) (h : Keeps K o s) : Keeps K o (s.feedRise f mv) := by
  unfold State.feedRise
  repeat' first | with_reducible assumption | intro _ | exact hM.up rfl | with_reducible apply keeps_modPwr | with_reducible apply keeps_resetTo | with_reducible apply Keeps.ite

theorem keeps_porRelease {K : List Part} {o s : State} (hM : Within [.pwr] K) (h : Keeps K o s) : Keeps K o s.porRelease := by
  unfold State.porRelease
  repeat' first | with_reducible assumption | exact hM.up rfl | intro _ | with_reducible apply keeps_modPwr | with_reducible apply Keeps.ite

theorem keeps_tellRestore {K : List Part} {o s : State} (a mask : Nat) (v : Word) (hM : Within [.irq, .ring, .trip] K) (h : Keeps K o s) : Keeps K o (s.tellRestore a mask v) := by
  unfold State.tellRestore
  repeat' first | with_reducible assumption | intro _ | exact hM.up rfl | (extract_lets +onlyGivenNames x; clear_value (hx : x = _); refine Keeps.cut (l := K) (o := o) hx ?_ ?_) | (extract_lets +onlyGivenNames x; clear_value (hx : x = _); refine Keeps.cutP (l := K) (o := o) hx ?_ ?_) | (extract_lets +onlyGivenNames x; subst x) | with_reducible apply keeps_stage | with_reducible apply Keeps.ite | with_reducible apply Keeps.iteF | with_reducible apply Keeps.iteS | with_reducible apply Keeps.foldl | split

theorem keeps_dropStored {K : List Part} {o s : State} (a : Nat) (hM : Within [.nv] K) (h : Keeps K o s) : Keeps K o (s.dropStored a) := by
  unfold State.dropStored
  repeat' first | with_reducible assumption | intro _ | exact hM.up rfl | (with_reducible refine Keeps.setNv (hM.mem rfl) ?_; with_reducible assumption) | (extract_lets +onlyGivenNames x; clear_value (hx : x = _); refine Keeps.cut (l := K) (o := o) hx ?_ ?_) | (extract_lets +onlyGivenNames x; clear_value (hx : x = _); refine Keeps.cutP (l := K) (o := o) hx ?_ ?_) | (extract_lets +onlyGivenNames x; subst x) | with_reducible apply Keeps.ite | with_reducible apply Keeps.iteF | with_reducible apply Keeps.iteS | with_reducible apply Keeps.foldl | (with_reducible refine Keeps.setNv (hM.mem rfl) (Keeps.setNv (hM.mem rfl) ?_); with_reducible assumption) | split

theorem keeps_fallStored {K : List Part} {o s : State} (a : Nat) (hM : Within [.nv] K) (h : Keeps K o s) : Keeps K o (s.fallStored a) := by
  unfold State.fallStored
  repeat' first | with_reducible assumption | intro _ | exact hM.up rfl | (with_reducible refine Keeps.setNv (hM.mem rfl) ?_; with_reducible assumption) | (extract_lets +onlyGivenNames x; clear_value (hx : x = _); refine Keeps.cut (l := K) (o := o) hx ?_ ?_) | (extract_lets +onlyGivenNames x; clear_value (hx : x = _); refine Keeps.cutP (l := K) (o := o) hx ?_ ?_) | (extract_lets +onlyGivenNames x; subst x) | with_reducible apply Keeps.ite | with_reducible apply Keeps.iteF | with_reducible apply Keeps.iteS | with_reducible apply Keeps.foldl | (with_reducible refine Keeps.setNv (hM.mem rfl) (Keeps.setNv (hM.mem rfl) ?_); with_reducible assumption) | split

theorem keeps_mapCores {K : List Part} {o s : State} (f : ConvCore → ConvCore) (hM : Within [.afe] K) (h : Keeps K o s) : Keeps K o (s.mapCores f) := by
  unfold State.mapCores
  repeat' first | with_reducible assumption | intro _ | exact hM.up rfl | (with_reducible refine Keeps.setAfe (hM.mem rfl) ?_; with_reducible assumption) | (extract_lets +onlyGivenNames x; clear_value (hx : x = _); refine Keeps.cut (l := K) (o := o) hx ?_ ?_) | (extract_lets +onlyGivenNames x; clear_value (hx : x = _); refine Keeps.cutP (l := K) (o := o) hx ?_ ?_) | (extract_lets +onlyGivenNames x; subst x) | with_reducible apply Keeps.ite | with_reducible apply Keeps.iteF | with_reducible apply Keeps.iteS | with_reducible apply Keeps.foldl | (with_reducible refine Keeps.setAfe (hM.mem rfl) (Keeps.setAfe (hM.mem rfl) ?_); with_reducible assumption) | split

theorem keeps_restoreFailed {K : List Part} {o s : State} (a : Nat) (hM : Within [.irq, .ring, .ledger, .trip, .nv, .afe, .sch] K) (h : Keeps K o s) : Keeps K o (s.restoreFailed a) := by
  unfold State.restoreFailed
  repeat' first | with_reducible assumption | intro _ | exact hM.up rfl | (with_reducible refine Keeps.setLedger (hM.mem rfl) ?_ rfl; with_reducible assumption) | (extract_lets +onlyGivenNames x; clear_value (hx : x = _); refine Keeps.cut (l := K) (o := o) hx ?_ ?_) | (extract_lets +onlyGivenNames x; clear_value (hx : x = _); refine Keeps.cutP (l := K) (o := o) hx ?_ ?_) | (extract_lets +onlyGivenNames x; subst x) | with_reducible apply keeps_mapCores | with_reducible apply keeps_tellRestore | with_reducible apply keeps_modSch | with_reducible apply keeps_dropStored | with_reducible apply keeps_fallStored | with_reducible apply Keeps.ite | with_reducible apply Keeps.iteF | with_reducible apply Keeps.iteS | with_reducible apply Keeps.foldl | (with_reducible refine Keeps.setLedger (hM.mem rfl) (Keeps.setLedger (hM.mem rfl) ?_ rfl) rfl; with_reducible assumption) | split

theorem keeps_incPcc {K : List Part} {o s : State} (hM : Within [.irq, .ring, .trip, .pwr] K) (h : Keeps K o s) : Keeps K o s.incPcc := by
  unfold State.incPcc
  repeat' first | with_reducible assumption | intro _ | exact hM.up rfl | with_reducible apply keeps_modPwr | with_reducible apply keeps_stage | with_reducible apply Keeps.ite

theorem keeps_restoreOt {K : List Part} {o s : State} (hM : Within [.irq, .ring, .trip, .pwr] K) (h : Keeps K o s) : Keeps K o s.restoreOt := by
  unfold State.restoreOt
  repeat' first | with_reducible assumption | exact hM.up rfl | with_reducible apply keeps_modPwr | with_reducible apply keeps_stage | split

theorem keeps_restoreCounts {K : List Part} {o s : State} (hM : Within [.cap, .trip, .nv] K) (h : Keeps K o s) : Keeps K o s.restoreCounts := by
  unfold State.restoreCounts
  repeat' first | with_reducible assumption | intro _ | exact hM.up rfl | (with_reducible refine Keeps.setNv (hM.mem rfl) ?_; with_reducible assumption) | (extract_lets +onlyGivenNames x; clear_value (hx : x = _); refine Keeps.cut (l := K) (o := o) hx ?_ ?_) | (extract_lets +onlyGivenNames x; subst x) | with_reducible apply keeps_scanSlots | with_reducible apply keeps_modCap | split

theorem keeps_bootEntered {K : List Part} {o s : State} (hM : Within [.st, .irq, .ring, .trip] K) (h : Keeps K o s) : Keeps K o s.bootEntered := by
  unfold State.bootEntered
  repeat' first | with_reducible assumption | exact hM.up rfl | (with_reducible refine Keeps.setSt (hM.mem rfl) ?_ rfl; with_reducible assumption) | with_reducible apply keeps_stage | with_reducible apply keeps_setIrq | split

theorem keeps_railsOn {K : List Part} {o s : State} (b : BootIn) (hM : Within [.pwr] K) (h : Keeps K o s) : Keeps K o (s.railsOn b) := by
  unfold State.railsOn
  repeat' first | with_reducible assumption | exact hM.up rfl | with_reducible apply keeps_modPwr

theorem keeps_portsOn {K : List Part} {o s : State} (b : BootIn) (hM : Within [.host, .key, .ring] K) (h : Keeps K o s) : Keeps K o (s.portsOn b) := by
  unfold State.portsOn
  repeat' first | with_reducible assumption | (with_reducible refine Keeps.setHostKeyRing (hM.mem rfl) (hM.mem rfl) (hM.mem rfl) ?_ rfl (List.Sublist.refl _); with_reducible assumption)

theorem keeps_timeBack {K : List Part} {o s : State} (hM : Within [.irq, .ring, .trip, .pwr] K) (h : Keeps K o s) : Keeps K o s.timeBack := by
  unfold State.timeBack
  repeat' first | with_reducible assumption | exact hM.up rfl | intro _ | with_reducible apply keeps_restoreOt | with_reducible apply Keeps.ite

theorem keeps_regsBack {K : List Part} {o s : State} (b : BootIn) (hM : Within [.irq, .ring, .ledger, .cap, .trip, .nv, .afe, .sch, .regs] K) (h : Keeps K o s) : Keeps K o (s.regsBack b) := by
  unfold State.regsBack
  repeat' first | with_reducible assumption | intro _ | exact hM.up rfl | with_reducible apply keeps_restoreCounts | with_reducible apply keeps_restoreFailed | with_reducible apply keeps_setReg | with_reducible apply Keeps.foldl

theorem keeps_bootRecords {K : List Part} {o s : State} (b : BootIn) (hM : Within [.irq, .ring, .trip] K) (h : Keeps K o s) : Keeps K o (s.bootRecords b) := by
  unfold State.bootRecords
  repeat' first | with_reducible assumption | exact hM.up rfl | intro _ | with_reducible apply keeps_stage | with_reducible apply Keeps.ite

theorem keeps_railsUp {K : List Part} {o s : State} (b : BootIn) (hM : Within [.st, .irq, .host, .key, .ring, .ledger, .cap, .trip, .pwr, .nv, .afe, .aux, .sch, .regs] K) (h : Keeps K o s) : Keeps K o (s.railsUp b) := by
  unfold State.railsUp
  repeat' first | with_reducible assumption | intro _ | exact hM.up rfl | (extract_lets +onlyGivenNames x; clear_value (hx : x = _); refine Keeps.cut (l := K) (o := o) hx ?_ ?_) | (extract_lets +onlyGivenNames x; clear_value (hx : x = _); refine Keeps.cutP (l := K) (o := o) hx ?_ ?_) | (extract_lets +onlyGivenNames x; subst x) | with_reducible apply keeps_bootEntered | with_reducible apply keeps_timeBack | with_reducible apply keeps_incPcc | with_reducible apply keeps_portsOn | with_reducible apply keeps_railsOn | with_reducible apply keeps_bootRow | with_reducible apply keeps_auxCalBegin | with_reducible apply keeps_bootRecords | with_reducible apply keeps_regsBack | with_reducible apply Keeps.ite | with_reducible apply Keeps.iteF | with_reducible apply Keeps.iteS | with_reducible apply Keeps.foldl | split

theorem keeps_pllsLocked {K : List Part} {o s : State} (hM : Within [.clk, .pwr] K) (h : Keeps K o s) : Keeps K o s.pllsLocked := by
  unfold State.pllsLocked
  repeat' first | with_reducible assumption | intro _ | exact hM.up rfl | with_reducible apply keeps_bootRow | with_reducible apply keeps_lockAll | with_reducible apply Keeps.ite

theorem keeps_bootFails {K : List Part} {o s : State} (hM : Within [.st, .causes, .irq, .nme, .job, .ring, .trip, .pwr, .afe, .flt, .fst, .fio, .chn, .hng] K) (h : Keeps K o s) : Keeps K o s.bootFails := by
  unfold State.bootFails
  repeat' first | with_reducible assumption | exact hM.up rfl | with_reducible apply keeps_changeState | with_reducible apply keeps_addCause

theorem keeps_crossbarFailure {K : List Part} {o s : State} (hM : Within [.st, .causes, .irq, .nme, .job, .ring, .trip, .pwr, .afe, .flt, .fst, .fio, .chn, .hng] K) (h : Keeps K o s) : Keeps K o s.crossbarFailure := by
  unfold State.crossbarFailure
  repeat' first | with_reducible assumption | intro _ | exact hM.up rfl | (extract_lets +onlyGivenNames x; clear_value (hx : x = _); refine Keeps.cut (l := K) (o := o) hx ?_ ?_) | (extract_lets +onlyGivenNames x; clear_value (hx : x = _); refine Keeps.cutP (l := K) (o := o) hx ?_ ?_) | (extract_lets +onlyGivenNames x; subst x) | with_reducible apply keeps_found | with_reducible apply keeps_bootFails | with_reducible apply keeps_addCause | with_reducible apply Keeps.ite | with_reducible apply Keeps.iteF | with_reducible apply Keeps.iteS | with_reducible apply Keeps.foldl | split

theorem keeps_applyMap {K : List Part} {o s : State} (hM : Within [.irq, .ring, .trip, .afe, .pe] K) (h : Keeps K o s) : Keeps K o s.applyMap := by
  unfold State.applyMap
  repeat' first | with_reducible assumption | exact hM.up rfl | with_reducible apply keeps_modPe | with_reducible apply keeps_assignBank

theorem keeps_mapRead {K : List Part} {o s : State} (identityOk : Bool) (hM : Within [.st, .causes, .irq, .nme, .job, .ring, .trip, .pwr, .dm, .afe, .flt, .pe, .fst, .fio, .chn, .hng] K) (h : Keeps K o s) : Keeps K o (s.mapRead identityOk) := by
  unfold State.mapRead
  repeat' first | with_reducible assumption | intro _ | exact hM.up rfl | (with_reducible refine Keeps.setDm (hM.mem rfl) ?_; with_reducible assumption) | (extract_lets +onlyGivenNames x; clear_value (hx : x = _); refine Keeps.cut (l := K) (o := o) hx ?_ ?_) | (extract_lets +onlyGivenNames x; clear_value (hx : x = _); refine Keeps.cutP (l := K) (o := o) hx ?_ ?_) | (extract_lets +onlyGivenNames x; subst x) | with_reducible apply keeps_bootRow | with_reducible apply keeps_bootFails | with_reducible apply keeps_stage | with_reducible apply keeps_applyMap | with_reducible apply keeps_modPwr | with_reducible apply Keeps.ite | with_reducible apply Keeps.iteF | with_reducible apply Keeps.iteS | with_reducible apply Keeps.foldl | (with_reducible refine Keeps.setDm (hM.mem rfl) (Keeps.setDm (hM.mem rfl) ?_); with_reducible assumption) | split

theorem keeps_selfTested {K : List Part} {o s : State} (t : SelfTestIn) (hM : Within [.st, .causes, .irq, .nme, .job, .ring, .trip, .pwr, .dm, .afe, .flt, .pe, .fst, .fio, .chn, .hng, .mram] K) (h : Keeps K o s) : Keeps K o (s.selfTested t) := by
  unfold State.selfTested
  repeat' first | with_reducible assumption | intro _ | exact hM.up rfl | with_reducible apply keeps_mapOutPair | with_reducible apply keeps_mapOutCore | with_reducible apply keeps_bootRow | with_reducible apply keeps_applyMap | with_reducible apply keeps_writeBothMaps | with_reducible apply keeps_modPwr | with_reducible apply keeps_bootFails | with_reducible apply Keeps.ite | with_reducible apply Keeps.foldl

theorem keeps_ledgerScanned {K : List Part} {o s : State} (hM : Within [.irq, .ring, .ledger, .trip, .pwr, .dm, .mram] K) (h : Keeps K o s) : Keeps K o s.ledgerScanned := by
  unfold State.ledgerScanned
  repeat' first | with_reducible assumption | intro _ | exact hM.up rfl | with_reducible apply keeps_bootRow | with_reducible apply keeps_scanDone | with_reducible apply Keeps.ite

theorem keeps_slotsSelected {K : List Part} {o s : State} (latchFail : List Nat) (hM : Within [.causes, .irq, .key, .ring, .trip, .clk, .pwr, .nv, .afe, .flt, .pe, .trk, .sch, .fst, .fio, .svc, .chn, .hng, .regs, .defer] K) (h : Keeps K o s) : Keeps K o (s.slotsSelected latchFail) := by
  unfold State.slotsSelected
  repeat' first | with_reducible assumption | intro _ | exact hM.up rfl | with_reducible apply keeps_bootRow | with_reducible apply keeps_slotSelection | with_reducible apply Keeps.ite

theorem keeps_afeSettled {K : List Part} {o s : State} (hM : Within [.pwr, .flt] K) (h : Keeps K o s) : Keeps K o s.afeSettled := by
  unfold State.afeSettled
  repeat' first | with_reducible assumption | intro _ | exact hM.up rfl | (with_reducible refine Keeps.setFlt (hM.mem rfl) ?_; with_reducible assumption) | with_reducible apply keeps_bootRow | with_reducible apply keeps_spoilAll | with_reducible apply Keeps.ite

theorem keeps_filterSettled {K : List Part} {o s : State} (hM : Within [.st, .irq, .nme, .job, .ring, .trip, .pwr, .afe, .flt, .fst, .fio, .chn, .hng] K) (h : Keeps K o s) : Keeps K o s.filterSettled := by
  unfold State.filterSettled
  repeat' first | with_reducible assumption | intro _ | exact hM.up rfl | (extract_lets +onlyGivenNames x; clear_value (hx : x = _); refine Keeps.cut (l := K) (o := o) hx ?_ ?_) | (extract_lets +onlyGivenNames x; clear_value (hx : x = _); refine Keeps.cutP (l := K) (o := o) hx ?_ ?_) | (extract_lets +onlyGivenNames x; subst x) | with_reducible apply keeps_modPwr | with_reducible apply keeps_bootRow | with_reducible apply keeps_stage | with_reducible apply keeps_autoState | with_reducible apply Keeps.ite | with_reducible apply Keeps.iteF | with_reducible apply Keeps.iteS | with_reducible apply Keeps.foldl | split

theorem keeps_windowsValid {K : List Part} {o s : State} (hM : Within [.st, .irq, .nme, .job, .ring, .trip, .pwr, .afe, .flt, .fst, .fio, .chn, .hng] K) (h : Keeps K o s) : Keeps K o s.windowsValid := by
  unfold State.windowsValid
  repeat' first | with_reducible assumption | exact hM.up rfl | intro _ | with_reducible apply keeps_autoState | with_reducible apply Keeps.ite

theorem keeps_wakeUp {K : List Part} {o s : State} (hM : Within [.st, .req, .due, .ticks, .causes, .health, .irq, .nme, .host, .key, .job, .ring, .ledger, .cap, .trip, .clk, .pwr, .dm, .nv, .afe, .flt, .aux, .pe, .trk, .sch, .fst, .fio, .ptp, .svc, .chn, .hng, .regs, .defer] K) (h : Keeps K o s) : Keeps K o s.wakeUp := by
  unfold State.wakeUp
  repeat' first | with_reducible assumption | intro _ | exact hM.up rfl | (extract_lets +onlyGivenNames x; clear_value (hx : x = _); refine Keeps.cut (l := K) (o := o) hx ?_ ?_) | (extract_lets +onlyGivenNames x; clear_value (hx : x = _); refine Keeps.cutP (l := K) (o := o) hx ?_ ?_) | (extract_lets +onlyGivenNames x; subst x) | with_reducible apply keeps_resetFor | with_reducible apply Keeps.ite | with_reducible apply Keeps.iteF | with_reducible apply Keeps.iteS | with_reducible apply Keeps.foldl | split

theorem keeps_dormantEntry {K : List Part} {o s : State} (hM : Within [.st, .req, .due, .ticks, .causes, .health, .irq, .nme, .host, .key, .job, .ring, .ledger, .cap, .trip, .clk, .pwr, .dm, .nv, .afe, .flt, .aux, .pe, .trk, .sch, .fst, .fio, .ptp, .svc, .chn, .hng, .regs, .defer, .mram] K) (h : Keeps K o s) : Keeps K o s.dormantEntry := by
  unfold State.dormantEntry
  repeat' first | with_reducible assumption | intro _ | exact hM.up rfl | (extract_lets +onlyGivenNames x; clear_value (hx : x = _); refine Keeps.cut (l := K) (o := o) hx ?_ ?_) | (extract_lets +onlyGivenNames x; clear_value (hx : x = _); refine Keeps.cutP (l := K) (o := o) hx ?_ ?_) | (extract_lets +onlyGivenNames x; subst x) | with_reducible apply keeps_writeBlock | with_reducible apply keeps_writeLatches | with_reducible apply keeps_flushRing | with_reducible apply keeps_capFlush | with_reducible apply keeps_writeRecord | with_reducible apply keeps_modPwr | with_reducible apply keeps_resetTo | with_reducible apply keeps_wakeUp | with_reducible apply Keeps.ite | with_reducible apply Keeps.iteF | with_reducible apply Keeps.iteS | with_reducible apply Keeps.foldl | split

theorem keeps_persistWake {K : List Part} {o s : State} (ot : Nat) (hM : Within [.pwr] K) (h : Keeps K o s) : Keeps K o (s.persistWake ot) := by
  unfold State.persistWake
  repeat' first | with_reducible assumption | intro _ | exact hM.up rfl | (extract_lets +onlyGivenNames x; clear_value (hx : x = _); refine Keeps.cut (l := K) (o := o) hx ?_ ?_) | (extract_lets +onlyGivenNames x; clear_value (hx : x = _); refine Keeps.cutP (l := K) (o := o) hx ?_ ?_) | (extract_lets +onlyGivenNames x; subst x) | with_reducible apply keeps_writeBlock | with_reducible apply keeps_modPwr | with_reducible apply Keeps.ite | with_reducible apply Keeps.iteF | with_reducible apply Keeps.iteS | with_reducible apply Keeps.foldl | split

theorem keeps_wakeEvent {K : List Part} {o s : State} (bit : Nat) (hM : Within [.st, .req, .due, .ticks, .causes, .health, .irq, .nme, .host, .key, .job, .ring, .ledger, .cap, .trip, .clk, .pwr, .dm, .nv, .afe, .flt, .aux, .pe, .trk, .sch, .fst, .fio, .ptp, .svc, .chn, .hng, .regs, .defer] K) (h : Keeps K o s) : Keeps K o (s.wakeEvent bit) := by
  unfold State.wakeEvent
  repeat' first | with_reducible assumption | intro _ | exact hM.up rfl | with_reducible apply keeps_wakeUp | with_reducible apply keeps_modPwr | with_reducible apply Keeps.ite

theorem keeps_wakeTimer {K : List Part} {o s : State} (ot : Nat) (hM : Within [.st, .req, .due, .ticks, .causes, .health, .irq, .nme, .host, .key, .job, .ring, .ledger, .cap, .trip, .clk, .pwr, .dm, .nv, .afe, .flt, .aux, .pe, .trk, .sch, .fst, .fio, .ptp, .svc, .chn, .hng, .regs, .defer] K) (h : Keeps K o s) : Keeps K o (s.wakeTimer ot) := by
  unfold State.wakeTimer
  repeat' first | with_reducible assumption | intro _ | exact hM.up rfl | (extract_lets +onlyGivenNames x; clear_value (hx : x = _); refine Keeps.cut (l := K) (o := o) hx ?_ ?_) | (extract_lets +onlyGivenNames x; clear_value (hx : x = _); refine Keeps.cutP (l := K) (o := o) hx ?_ ?_) | (extract_lets +onlyGivenNames x; subst x) | with_reducible apply keeps_wakeEvent | with_reducible apply keeps_modPwr | with_reducible apply Keeps.ite | with_reducible apply Keeps.iteF | with_reducible apply Keeps.iteS | with_reducible apply Keeps.foldl | split

theorem keeps_feedWake {K : List Part} {o s : State} (f : Nat) (hM : Within [.st, .req, .due, .ticks, .causes, .health, .irq, .nme, .host, .key, .job, .ring, .ledger, .cap, .trip, .clk, .pwr, .dm, .nv, .afe, .flt, .aux, .pe, .trk, .sch, .fst, .fio, .ptp, .svc, .chn, .hng, .regs, .defer] K) (h : Keeps K o s) : Keeps K o (s.feedWake f) := by
  unfold State.feedWake
  repeat' first | with_reducible assumption | intro _ | exact hM.up rfl | (extract_lets +onlyGivenNames x; clear_value (hx : x = _); refine Keeps.cut (l := K) (o := o) hx ?_ ?_) | (extract_lets +onlyGivenNames x; clear_value (hx : x = _); refine Keeps.cutP (l := K) (o := o) hx ?_ ?_) | (extract_lets +onlyGivenNames x; subst x) | with_reducible apply keeps_wakeEvent | with_reducible apply keeps_modPwr | with_reducible apply Keeps.ite | with_reducible apply Keeps.iteF | with_reducible apply Keeps.iteS | with_reducible apply Keeps.foldl | split

theorem keeps_writeWake {K : List Part} {o s : State} (v : Word) (hM : Within [.nv, .regs] K) (h : Keeps K o s) : Keeps K o (s.writeWake v).1 := by
  unfold State.writeWake
  repeat' first | with_reducible assumption | intro _ | exact hM.up rfl | (extract_lets +onlyGivenNames x; clear_value (hx : x = _); refine Keeps.cut (l := K) (o := o) hx ?_ ?_) | (extract_lets +onlyGivenNames x; clear_value (hx : x = _); refine Keeps.cutP (l := K) (o := o) hx ?_ ?_) | (extract_lets +onlyGivenNames x; subst x) | with_reducible apply keeps_setStored | with_reducible apply Keeps.ite | with_reducible apply Keeps.iteF | with_reducible apply Keeps.iteS | with_reducible apply Keeps.foldl | split

theorem keeps_latchOt {K : List Part} {o s : State} (hM : Within [.pwr] K) (h : Keeps K o s) : Keeps K o s.latchOt := by
  unfold State.latchOt
  repeat' first | with_reducible assumption | exact hM.up rfl | with_reducible apply keeps_modPwr

/-! ### Jobs -/

theorem keeps_modJob {K : List Part} {o s : State} {f : Jobs → Jobs} (hM : Within [.job] K) (h : Keeps K o s) (hf : (f s.job).out.length ≤ s.job.out.length) : Keeps K o (s.modJob f) :=
  Keeps.setJob (hM.mem rfl) h (Or.inl hf)

theorem keeps_setTicket {K : List Part} {o s : State} (cls : KeyClass) (ticket result : Nat) (hM : Within [.job] K) (h : Keeps K o s) : Keeps K o (s.setTicket cls ticket result) := by
  unfold State.setTicket
  exact keeps_modJob (hM := hM.up rfl) h (Nat.le_refl _)

theorem keeps_showRefusal {K : List Part} {o s : State} (code arg r : Nat) (hM : Within [.irq, .ring, .trip, .pe, .sch, .chn] K) (h : Keeps K o s) : Keeps K o (s.showRefusal code arg r) := by
  unfold State.showRefusal
  repeat' first | with_reducible assumption | intro _ | exact hM.up rfl | (extract_lets +onlyGivenNames x; clear_value (hx : x = _); refine Keeps.cut (l := K) (o := o) hx ?_ ?_) | (extract_lets +onlyGivenNames x; clear_value (hx : x = _); refine Keeps.cutP (l := K) (o := o) hx ?_ ?_) | (extract_lets +onlyGivenNames x; subst x) | with_reducible apply keeps_loadRefused | with_reducible apply keeps_actRefused | with_reducible apply keeps_bistRefuse | with_reducible apply keeps_modChn | with_reducible apply Keeps.ite | with_reducible apply Keeps.iteF | with_reducible apply Keeps.iteS | with_reducible apply Keeps.foldl | split

theorem keeps_jobBegins {K : List Part} {o s : State} (code arg ticket : Nat) (hM : Within [.cap, .trip, .clk, .sch, .ptp, .chn, .hng] K) (h : Keeps K o s) : Keeps K o (s.jobBegins code arg ticket) := by
  unfold State.jobBegins
  repeat' first | with_reducible assumption | intro _ | exact hM.up rfl | (extract_lets +onlyGivenNames x; clear_value (hx : x = _); refine Keeps.cut (l := K) (o := o) hx ?_ ?_) | (extract_lets +onlyGivenNames x; clear_value (hx : x = _); refine Keeps.cutP (l := K) (o := o) hx ?_ ?_) | (extract_lets +onlyGivenNames x; subst x) | with_reducible apply keeps_loadAccepted | with_reducible apply keeps_actAccepted | with_reducible apply keeps_modSlot | with_reducible apply keeps_modChn | with_reducible apply keeps_takeRole | with_reducible apply Keeps.ite | with_reducible apply Keeps.iteF | with_reducible apply Keeps.iteS | with_reducible apply Keeps.foldl | split

theorem keeps_addJob {K : List Part} {o s : State} (cls : KeyClass) (code arg : Nat) (hM : Within [.job] K) (h : Keeps K o s) (hn : s.job.out.length < 4) : Keeps K o (s.addJob cls code arg) := by
  unfold State.addJob State.modJob
  refine Keeps.setJob (hM.mem rfl) h (Or.inr ?_)
  simp only [List.length_append, List.length_singleton]
  omega

/-- An accepted submission finds fewer than 4 jobs outstanding (R398, R400). -/
theorem jobRefusal_room {s : State} {cls : KeyClass} {code arg : Nat} (h : s.jobRefusal cls code arg = 0) : s.job.out.length < 4 := by
  unfold State.jobRefusal at h
  by_contra hn
  rw [if_pos (show 4 ≤ s.job.out.length by omega)] at h
  split_ifs at h <;> omega

theorem keeps_submit {K : List Part} {o s : State} (cls : KeyClass) (code arg : Nat) (hM : Within [.irq, .job, .ring, .cap, .trip, .clk, .pe, .sch, .ptp, .chn, .hng] K) (h : Keeps K o s) : Keeps K o (s.submit cls code arg).1 := by
  unfold State.submit
  extract_lets r t
  with_reducible apply Keeps.iteF
  · intro _
    exact keeps_setTicket _ _ _ (hM := hM.up rfl) (keeps_showRefusal _ _ _ (hM := hM.up rfl) h)
  · intro hr
    exact keeps_setTicket _ _ _ (hM := hM.up rfl) (keeps_jobBegins _ _ _ (hM := hM.up rfl)
      (keeps_addJob _ _ _ (hM := hM.up rfl) h (jobRefusal_room (not_not.mp hr))))

theorem keeps_stopJob {K : List Part} {o s : State} (j : Job) (hM : Within [.causes, .irq, .job, .ring, .cap, .trip, .dm, .afe, .flt, .pe, .sch, .mram] K) (h : Keeps K o s) : Keeps K o (s.stopJob j) := by
  unfold State.stopJob
  repeat' first | with_reducible assumption | intro _ | exact hM.up rfl | (extract_lets +onlyGivenNames x; clear_value (hx : x = _); refine Keeps.cut (l := K) (o := o) hx ?_ ?_) | (extract_lets +onlyGivenNames x; clear_value (hx : x = _); refine Keeps.cutP (l := K) (o := o) hx ?_ ?_) | (extract_lets +onlyGivenNames x; subst x) | with_reducible apply keeps_endJob | with_reducible apply keeps_loadCancelled | with_reducible apply keeps_endLease | with_reducible apply keeps_bistCancel | with_reducible apply keeps_reconnectAll | with_reducible apply keeps_actCancelled | with_reducible apply Keeps.ite | with_reducible apply Keeps.iteF | with_reducible apply Keeps.iteS | with_reducible apply Keeps.foldl | split

theorem keeps_cancel {K : List Part} {o s : State} (cls : KeyClass) (ticket : Nat) (hM : Within [.causes, .irq, .job, .ring, .cap, .trip, .dm, .afe, .flt, .pe, .sch, .mram] K) (h : Keeps K o s) : Keeps K o (s.cancel cls ticket).1 := by
  unfold State.cancel
  repeat' first | with_reducible assumption | intro _ | exact hM.up rfl | (extract_lets +onlyGivenNames x; clear_value (hx : x = _); refine Keeps.cut (l := K) (o := o) hx ?_ ?_) | (extract_lets +onlyGivenNames x; clear_value (hx : x = _); refine Keeps.cutP (l := K) (o := o) hx ?_ ?_) | (extract_lets +onlyGivenNames x; subst x) | with_reducible apply keeps_setTicket | with_reducible apply keeps_stopJob | with_reducible apply Keeps.ite | with_reducible apply Keeps.iteF | with_reducible apply Keeps.iteS | with_reducible apply Keeps.foldl | split

theorem keeps_writeSubmit {K : List Part} {o s : State} (cls : KeyClass) (v : Word) (hM : Within [.causes, .irq, .job, .ring, .cap, .trip, .clk, .dm, .afe, .flt, .pe, .sch, .ptp, .chn, .hng, .mram] K) (h : Keeps K o s) : Keeps K o (s.writeSubmit cls v).1 := by
  unfold State.writeSubmit
  repeat' first | with_reducible assumption | intro _ | exact hM.up rfl | (extract_lets +onlyGivenNames x; clear_value (hx : x = _); refine Keeps.cut (l := K) (o := o) hx ?_ ?_) | (extract_lets +onlyGivenNames x; clear_value (hx : x = _); refine Keeps.cutP (l := K) (o := o) hx ?_ ?_) | (extract_lets +onlyGivenNames x; subst x) | with_reducible apply keeps_cancel | with_reducible apply keeps_submit | with_reducible apply Keeps.ite | with_reducible apply Keeps.iteF | with_reducible apply Keeps.iteS | with_reducible apply Keeps.foldl | split

theorem keeps_stepJob {K : List Part} {o s : State} (j : Job) (i : JobIn) (hM : Within [.irq, .job, .ring, .ledger, .cap, .trip, .dm, .nv, .afe, .flt, .pe, .sch, .mram] K) (h : Keeps K o s) : Keeps K o (s.stepJob j i) := by
  unfold State.stepJob
  repeat' first | with_reducible assumption | intro _ | exact hM.up rfl | (with_reducible refine Keeps.setLedger (hM.mem rfl) ?_ rfl; with_reducible assumption) | (extract_lets +onlyGivenNames x; clear_value (hx : x = _); refine Keeps.cut (l := K) (o := o) hx ?_ ?_) | (extract_lets +onlyGivenNames x; clear_value (hx : x = _); refine Keeps.cutP (l := K) (o := o) hx ?_ ?_) | (extract_lets +onlyGivenNames x; subst x) | with_reducible apply keeps_loadStep | with_reducible apply keeps_endJob | with_reducible apply keeps_clearLedger | with_reducible apply keeps_bistStart | with_reducible apply keeps_modPe | with_reducible apply keeps_foreground | with_reducible apply keeps_mramScrub | with_reducible apply keeps_wearReset | with_reducible apply Keeps.ite | with_reducible apply Keeps.iteF | with_reducible apply Keeps.iteS | with_reducible apply Keeps.foldl | (with_reducible refine Keeps.setLedger (hM.mem rfl) (Keeps.setLedger (hM.mem rfl) ?_ rfl) rfl; with_reducible assumption) | split

theorem keeps_countStep {K : List Part} {o s : State} (t : Nat) (hM : Within [.job] K) (h : Keeps K o s) : Keeps K o (s.countStep t) := by
  unfold State.countStep
  exact keeps_modJob (hM := hM.up rfl) h (by simp)

theorem keeps_jobStep {K : List Part} {o s : State} (i : JobIn) (hM : Within [.irq, .job, .ring, .ledger, .cap, .trip, .dm, .nv, .afe, .flt, .pe, .sch, .mram] K) (h : Keeps K o s) : Keeps K o (s.jobStep i) := by
  unfold State.jobStep
  refine Keeps.opt h ?_
  split
  · exact h
  · rename_i t round _
    have h1 := keeps_modJob (f := fun j => { j with round := round }) (hM := hM.up rfl) h (Nat.le_refl _)
    refine Keeps.opt (keeps_capStep (hM := hM.up rfl) h1) (Keeps.opt h1 ?_)
    split
    · exact h1
    · exact keeps_stepJob _ _ (hM := hM.up rfl) (keeps_countStep _ (hM := hM.up rfl) h1)

/-! ### Regs -/

theorem keeps_readEffect {K : List Part} {o s : State} (a : Nat) (hM : Within [.pwr, .ptp, .chn] K) (h : Keeps K o s) : Keeps K o (s.readEffect a) := by
  unfold State.readEffect
  repeat' first | with_reducible assumption | intro _ | exact hM.up rfl | (extract_lets +onlyGivenNames x; clear_value (hx : x = _); refine Keeps.cut (l := K) (o := o) hx ?_ ?_) | (extract_lets +onlyGivenNames x; clear_value (hx : x = _); refine Keeps.cutP (l := K) (o := o) hx ?_ ?_) | (extract_lets +onlyGivenNames x; subst x) | with_reducible apply keeps_latchTime | with_reducible apply keeps_latchXcp | with_reducible apply keeps_latchOt | with_reducible apply Keeps.ite | with_reducible apply Keeps.iteF | with_reducible apply Keeps.iteS | with_reducible apply Keeps.foldl | split

theorem keeps_writeChan {K : List Part} {o s : State} (c : Nat) (v : Word) (hM : Within [.causes, .irq, .ring, .trip, .nv, .afe, .regs] K) (h : Keeps K o s) : Keeps K o (s.writeChan c v).1 := by
  unfold State.writeChan
  repeat' first | with_reducible assumption | intro _ | exact hM.up rfl | (extract_lets +onlyGivenNames x; clear_value (hx : x = _); refine Keeps.cut (l := K) (o := o) hx ?_ ?_) | (extract_lets +onlyGivenNames x; clear_value (hx : x = _); refine Keeps.cutP (l := K) (o := o) hx ?_ ?_) | (extract_lets +onlyGivenNames x; subst x) | with_reducible apply keeps_setStored | with_reducible apply keeps_exclude | with_reducible apply keeps_modAfeCh | with_reducible apply Keeps.ite | with_reducible apply Keeps.iteF | with_reducible apply Keeps.iteS | with_reducible apply Keeps.foldl | split

theorem keeps_writeBank {K : List Part} {o s : State} (a : Nat) (v : Word) (hM : Within [.nv, .defer] K) (h : Keeps K o s) : Keeps K o (s.writeBank a v).1 := by
  unfold State.writeBank
  repeat' first | with_reducible assumption | intro _ | exact hM.up rfl | (extract_lets +onlyGivenNames x; clear_value (hx : x = _); refine Keeps.cut (l := K) (o := o) hx ?_ ?_) | (extract_lets +onlyGivenNames x; clear_value (hx : x = _); refine Keeps.cutP (l := K) (o := o) hx ?_ ?_) | (extract_lets +onlyGivenNames x; subst x) | with_reducible apply keeps_store | with_reducible apply keeps_deferReg | with_reducible apply Keeps.ite | with_reducible apply Keeps.iteF | with_reducible apply Keeps.iteS | with_reducible apply Keeps.foldl | split

theorem keeps_writeAuxCtl {K : List Part} {o s : State} (v : Word) (hM : Within [.nv, .regs] K) (h : Keeps K o s) : Keeps K o (s.writeAuxCtl v).1 := by
  unfold State.writeAuxCtl
  repeat' first | with_reducible assumption | intro _ | exact hM.up rfl | (extract_lets +onlyGivenNames x; clear_value (hx : x = _); refine Keeps.cut (l := K) (o := o) hx ?_ ?_) | (extract_lets +onlyGivenNames x; clear_value (hx : x = _); refine Keeps.cutP (l := K) (o := o) hx ?_ ?_) | (extract_lets +onlyGivenNames x; subst x) | with_reducible apply keeps_setStored | with_reducible apply Keeps.ite | with_reducible apply Keeps.iteF | with_reducible apply Keeps.iteS | with_reducible apply Keeps.foldl | split

theorem keeps_writeRate {K : List Part} {o s : State} (cls : KeyClass) (v : Word) (hM : Within [.ring, .nv, .regs] K) (h : Keeps K o s) : Keeps K o (s.writeRate cls v).1 := by
  unfold State.writeRate
  repeat' first | with_reducible assumption | intro _ | exact hM.up rfl | (extract_lets +onlyGivenNames x; clear_value (hx : x = _); refine Keeps.cut (l := K) (o := o) hx ?_ ?_) | (extract_lets +onlyGivenNames x; clear_value (hx : x = _); refine Keeps.cutP (l := K) (o := o) hx ?_ ?_) | (extract_lets +onlyGivenNames x; subst x) | with_reducible apply keeps_setBucket | with_reducible apply keeps_setStored | with_reducible apply Keeps.ite | with_reducible apply Keeps.iteF | with_reducible apply Keeps.iteS | with_reducible apply Keeps.foldl | split

theorem keeps_writeRmt {K : List Part} {o s : State} (f : Mailbox → Mailbox) (hM : Within [.chn] K) (h : Keeps K o s) : Keeps K o (s.writeRmt f) := by
  unfold State.writeRmt
  repeat' first | with_reducible assumption | intro _ | exact hM.up rfl | (extract_lets +onlyGivenNames x; clear_value (hx : x = _); refine Keeps.cut (l := K) (o := o) hx ?_ ?_) | (extract_lets +onlyGivenNames x; clear_value (hx : x = _); refine Keeps.cutP (l := K) (o := o) hx ?_ ?_) | (extract_lets +onlyGivenNames x; subst x) | with_reducible apply keeps_modMbox | with_reducible apply Keeps.ite | with_reducible apply Keeps.iteF | with_reducible apply Keeps.iteS | with_reducible apply Keeps.foldl | split

theorem keeps_remoteGo {K : List Part} {o s : State} (hM : Within [.chn] K) (h : Keeps K o s) : Keeps K o s.remoteGo := by
  unfold State.remoteGo
  repeat' first | with_reducible assumption | intro _ | exact hM.up rfl | (extract_lets +onlyGivenNames x; clear_value (hx : x = _); refine Keeps.cut (l := K) (o := o) hx ?_ ?_) | (extract_lets +onlyGivenNames x; clear_value (hx : x = _); refine Keeps.cutP (l := K) (o := o) hx ?_ ?_) | (extract_lets +onlyGivenNames x; subst x) | with_reducible apply keeps_modMbox | with_reducible apply Keeps.ite | with_reducible apply Keeps.iteF | with_reducible apply Keeps.iteS | with_reducible apply Keeps.foldl | split

theorem keeps_writePlain {K : List Part} {o s : State} (cls : KeyClass) (a : Nat) (v : Word) (hM : Within [.nv, .regs] K) (h : Keeps K o s) : Keeps K o (s.writePlain cls a v) := by
  unfold State.writePlain
  repeat' first | with_reducible assumption | intro _ | exact hM.up rfl | (extract_lets +onlyGivenNames x; clear_value (hx : x = _); refine Keeps.cut (l := K) (o := o) hx ?_ ?_) | (extract_lets +onlyGivenNames x; clear_value (hx : x = _); refine Keeps.cutP (l := K) (o := o) hx ?_ ?_) | (extract_lets +onlyGivenNames x; subst x) | with_reducible apply keeps_setStored | with_reducible apply keeps_setReg | with_reducible apply Keeps.ite | with_reducible apply Keeps.iteF | with_reducible apply Keeps.iteS | with_reducible apply Keeps.foldl | split

theorem keeps_writeIf {K : List Part} {o s : State} (ok : Bool) (cls : KeyClass) (a : Nat) (v : Word) (hM : Within [.nv, .regs] K) (h : Keeps K o s) : Keeps K o (s.writeIf ok cls a v).1 := by
  unfold State.writeIf
  repeat' first | with_reducible assumption | intro _ | exact hM.up rfl | (extract_lets +onlyGivenNames x; clear_value (hx : x = _); refine Keeps.cut (l := K) (o := o) hx ?_ ?_) | (extract_lets +onlyGivenNames x; clear_value (hx : x = _); refine Keeps.cutP (l := K) (o := o) hx ?_ ?_) | (extract_lets +onlyGivenNames x; subst x) | with_reducible apply keeps_writePlain | with_reducible apply Keeps.ite | with_reducible apply Keeps.iteF | with_reducible apply Keeps.iteS | with_reducible apply Keeps.foldl | split

theorem keeps_applySys {K : List Part} {o s : State} (cls : KeyClass) (a : Nat) (v : Word) (hM : Within [.req, .due, .irq, .nme, .nv, .regs] K) (h : Keeps K o s) : Keeps K o (s.applySys cls a v).1 := by
  unfold State.applySys
  repeat' first | with_reducible assumption | intro _ | exact hM.up rfl | (with_reducible refine Keeps.setIrq (hM.mem rfl) ?_ rfl; with_reducible assumption) | (with_reducible refine Keeps.setNme (hM.mem rfl) ?_ rfl; with_reducible assumption) | (extract_lets +onlyGivenNames x; clear_value (hx : x = _); refine Keeps.cut (l := K) (o := o) hx ?_ ?_) | (extract_lets +onlyGivenNames x; clear_value (hx : x = _); refine Keeps.cutP (l := K) (o := o) hx ?_ ?_) | (extract_lets +onlyGivenNames x; subst x) | with_reducible apply keeps_writeReq | with_reducible apply keeps_writePlain | with_reducible apply Keeps.ite | with_reducible apply Keeps.iteF | with_reducible apply Keeps.iteS | with_reducible apply Keeps.foldl | (with_reducible refine Keeps.setIrq (hM.mem rfl) (Keeps.setIrq (hM.mem rfl) ?_ rfl) rfl; with_reducible assumption) | (with_reducible refine Keeps.setNme (hM.mem rfl) (Keeps.setNme (hM.mem rfl) ?_ rfl) rfl; with_reducible assumption) | split

theorem keeps_applyPwr {K : List Part} {o s : State} (a : Nat) (v : Word) (hM : Within [.pwr, .nv, .regs] K) (h : Keeps K o s) : Keeps K o (s.applyPwr a v).1 := by
  unfold State.applyPwr
  repeat' first | with_reducible assumption | intro _ | exact hM.up rfl | (extract_lets +onlyGivenNames x; clear_value (hx : x = _); refine Keeps.cut (l := K) (o := o) hx ?_ ?_) | (extract_lets +onlyGivenNames x; clear_value (hx : x = _); refine Keeps.cutP (l := K) (o := o) hx ?_ ?_) | (extract_lets +onlyGivenNames x; subst x) | with_reducible apply keeps_modPwr | with_reducible apply keeps_writePwrCtl | with_reducible apply keeps_writeWake | with_reducible apply Keeps.ite | with_reducible apply Keeps.iteF | with_reducible apply Keeps.iteS | with_reducible apply Keeps.foldl | split

theorem keeps_applyClk {K : List Part} {o s : State} (a : Nat) (v : Word) (hM : Within [.irq, .ring, .trip, .clk, .nv, .regs] K) (h : Keeps K o s) : Keeps K o (s.applyClk a v).1 := by
  unfold State.applyClk
  repeat' first | with_reducible assumption | intro _ | exact hM.up rfl | (extract_lets +onlyGivenNames x; clear_value (hx : x = _); refine Keeps.cut (l := K) (o := o) hx ?_ ?_) | (extract_lets +onlyGivenNames x; clear_value (hx : x = _); refine Keeps.cutP (l := K) (o := o) hx ?_ ?_) | (extract_lets +onlyGivenNames x; subst x) | with_reducible apply keeps_writeClkCfg | with_reducible apply keeps_modClk | with_reducible apply keeps_writeOp | with_reducible apply keeps_writeGate | with_reducible apply keeps_writeClkOut | with_reducible apply keeps_writeMeas | with_reducible apply Keeps.ite | with_reducible apply Keeps.iteF | with_reducible apply Keeps.iteS | with_reducible apply Keeps.foldl | split

theorem keeps_applyAfe {K : List Part} {o s : State} (cls : KeyClass) (a : Nat) (v : Word) (hM : Within [.causes, .irq, .ring, .trip, .nv, .afe, .regs, .defer] K) (h : Keeps K o s) : Keeps K o (s.applyAfe cls a v).1 := by
  unfold State.applyAfe
  repeat' first | with_reducible assumption | intro _ | exact hM.up rfl | (extract_lets +onlyGivenNames x; clear_value (hx : x = _); refine Keeps.cut (l := K) (o := o) hx ?_ ?_) | (extract_lets +onlyGivenNames x; clear_value (hx : x = _); refine Keeps.cutP (l := K) (o := o) hx ?_ ?_) | (extract_lets +onlyGivenNames x; subst x) | with_reducible apply keeps_writeChan | with_reducible apply keeps_writeBank | with_reducible apply keeps_writeIf | with_reducible apply keeps_writePlain | with_reducible apply Keeps.ite | with_reducible apply Keeps.iteF | with_reducible apply Keeps.iteS | with_reducible apply Keeps.foldl | split

theorem keeps_applyAux {K : List Part} {o s : State} (cls : KeyClass) (a : Nat) (v : Word) (hM : Within [.irq, .ring, .trip, .nv, .aux, .regs] K) (h : Keeps K o s) : Keeps K o (s.applyAux cls a v).1 := by
  unfold State.applyAux
  repeat' first | with_reducible assumption | intro _ | exact hM.up rfl | (extract_lets +onlyGivenNames x; clear_value (hx : x = _); refine Keeps.cut (l := K) (o := o) hx ?_ ?_) | (extract_lets +onlyGivenNames x; clear_value (hx : x = _); refine Keeps.cutP (l := K) (o := o) hx ?_ ?_) | (extract_lets +onlyGivenNames x; subst x) | with_reducible apply keeps_writeAuxCtl | with_reducible apply keeps_injTrigger | with_reducible apply keeps_writeIf | with_reducible apply keeps_writePlain | with_reducible apply Keeps.ite | with_reducible apply Keeps.iteF | with_reducible apply Keeps.iteS | with_reducible apply Keeps.foldl | split

theorem keeps_applySch {K : List Part} {o s : State} (cls : KeyClass) (a : Nat) (v : Word) (hM : Within [.irq, .job, .ring, .trip, .nv, .sch, .regs, .defer] K) (h : Keeps K o s) : Keeps K o (s.applySch cls a v).1 := by
  unfold State.applySch
  repeat' first | with_reducible assumption | intro _ | exact hM.up rfl | (extract_lets +onlyGivenNames x; clear_value (hx : x = _); refine Keeps.cut (l := K) (o := o) hx ?_ ?_) | (extract_lets +onlyGivenNames x; clear_value (hx : x = _); refine Keeps.cutP (l := K) (o := o) hx ?_ ?_) | (extract_lets +onlyGivenNames x; subst x) | with_reducible apply keeps_writeLoadCtl | with_reducible apply keeps_writeXfer | with_reducible apply keeps_writeActCtl | with_reducible apply keeps_writeGroup | with_reducible apply keeps_writeTplCtl | with_reducible apply keeps_writeParam | with_reducible apply keeps_writePlain | with_reducible apply Keeps.ite | with_reducible apply Keeps.iteF | with_reducible apply Keeps.iteS | with_reducible apply Keeps.foldl | split

theorem keeps_applyFst {K : List Part} {o s : State} (cls : KeyClass) (a : Nat) (v : Word) (hM : Within [.irq, .ring, .trip, .nv, .fst, .regs, .defer] K) (h : Keeps K o s) : Keeps K o (s.applyFst cls a v).1 := by
  unfold State.applyFst
  repeat' first | with_reducible assumption | exact hM.up rfl | with_reducible apply keeps_writePlain | with_reducible apply keeps_writeFast | split

theorem keeps_applyFio {K : List Part} {o s : State} (cls : KeyClass) (a : Nat) (v : Word) (hM : Within [.irq, .ring, .trip, .nv, .fio, .regs, .defer] K) (h : Keeps K o s) : Keeps K o (s.applyFio cls a v).1 := by
  unfold State.applyFio
  repeat' first | with_reducible assumption | exact hM.up rfl | with_reducible apply keeps_writePlain | with_reducible apply keeps_crossClear | with_reducible apply keeps_writeFio | split

theorem keeps_applyLdg {K : List Part} {o s : State} (cls : KeyClass) (a : Nat) (v : Word) (hM : Within [.ring, .ledger, .nv, .regs] K) (h : Keeps K o s) : Keeps K o (s.applyLdg cls a v).1 := by
  unfold State.applyLdg
  repeat' first | with_reducible assumption | intro _ | exact hM.up rfl | (extract_lets +onlyGivenNames x; clear_value (hx : x = _); refine Keeps.cut (l := K) (o := o) hx ?_ ?_) | (extract_lets +onlyGivenNames x; clear_value (hx : x = _); refine Keeps.cutP (l := K) (o := o) hx ?_ ?_) | (extract_lets +onlyGivenNames x; subst x) | with_reducible apply keeps_cursorOp | with_reducible apply keeps_writeIf | with_reducible apply keeps_writeRate | with_reducible apply keeps_writePlain | with_reducible apply Keeps.ite | with_reducible apply Keeps.iteF | with_reducible apply Keeps.iteS | with_reducible apply Keeps.foldl | split

theorem keeps_applyCap {K : List Part} {o s : State} (cls : KeyClass) (a : Nat) (v : Word) (hM : Within [.cap, .trip, .dm, .nv, .regs, .mram] K) (h : Keeps K o s) : Keeps K o (s.applyCap cls a v).1 := by
  unfold State.applyCap
  repeat' first | with_reducible assumption | intro _ | exact hM.up rfl | (extract_lets +onlyGivenNames x; clear_value (hx : x = _); refine Keeps.cut (l := K) (o := o) hx ?_ ?_) | (extract_lets +onlyGivenNames x; clear_value (hx : x = _); refine Keeps.cutP (l := K) (o := o) hx ?_ ?_) | (extract_lets +onlyGivenNames x; subst x) | with_reducible apply keeps_writeCapCtl | with_reducible apply keeps_writeSlotCtl | with_reducible apply keeps_writePlain | with_reducible apply Keeps.ite | with_reducible apply Keeps.iteF | with_reducible apply Keeps.iteS | with_reducible apply Keeps.foldl | split

theorem keeps_applyPtp {K : List Part} {o s : State} (cls : KeyClass) (a : Nat) (v : Word) (hM : Within [.irq, .ring, .trip, .clk, .nv, .ptp, .svc, .regs] K) (h : Keeps K o s) : Keeps K o (s.applyPtp cls a v).1 := by
  unfold State.applyPtp
  repeat' first | with_reducible assumption | exact hM.up rfl | with_reducible apply keeps_writePtpCtl | with_reducible apply keeps_writeIf | with_reducible apply keeps_writeForce | with_reducible apply keeps_writePlain | split

theorem keeps_applyChn {K : List Part} {o s : State} (cls : KeyClass) (a : Nat) (v : Word) (hM : Within [.nv, .chn, .regs] K) (h : Keeps K o s) : Keeps K o (s.applyChn cls a v).1 := by
  unfold State.applyChn
  repeat' first | with_reducible assumption | intro _ | exact hM.up rfl | (extract_lets +onlyGivenNames x; clear_value (hx : x = _); refine Keeps.cut (l := K) (o := o) hx ?_ ?_) | (extract_lets +onlyGivenNames x; clear_value (hx : x = _); refine Keeps.cutP (l := K) (o := o) hx ?_ ?_) | (extract_lets +onlyGivenNames x; subst x) | with_reducible apply keeps_writeRmt | with_reducible apply keeps_remoteGo | with_reducible apply keeps_writePlain | with_reducible apply Keeps.ite | with_reducible apply Keeps.iteF | with_reducible apply Keeps.iteS | with_reducible apply Keeps.foldl | split

theorem keeps_applyReg {K : List Part} {o s : State} (cls : KeyClass) (a : Nat) (v : Word) (hM : Within [.req, .due, .causes, .irq, .nme, .job, .ring, .ledger, .cap, .trip, .clk, .pwr, .dm, .nv, .afe, .flt, .aux, .pe, .sch, .fst, .fio, .ptp, .svc, .chn, .hng, .regs, .defer, .mram, .free] K) (h : Keeps K o s) : Keeps K o (s.applyReg cls a v).1 := by
  unfold State.applyReg
  repeat' first | with_reducible assumption | exact hM.up rfl | with_reducible apply keeps_applySys | with_reducible apply keeps_applyPwr | with_reducible apply keeps_applyClk | with_reducible apply keeps_writeSubmit | with_reducible apply keeps_writePlain | with_reducible apply keeps_applyAfe | with_reducible apply keeps_writeFltCfg | with_reducible apply keeps_applyAux | with_reducible apply keeps_writeIf | with_reducible apply keeps_applySch | with_reducible apply keeps_applyFst | with_reducible apply keeps_applyFio | with_reducible apply keeps_applyLdg | with_reducible apply keeps_applyCap | with_reducible apply keeps_applyPtp | with_reducible apply keeps_applyChn | with_reducible apply keeps_writeHngCtl | split

theorem keeps_applyWord {K : List Part} {o s : State} (cls : KeyClass) (a : Nat) (v : Word) (a4 : Target) (hM : Within [.req, .due, .causes, .irq, .nme, .job, .ring, .ledger, .cap, .trip, .clk, .pwr, .dm, .nv, .afe, .flt, .aux, .pe, .sch, .fst, .fio, .ptp, .svc, .chn, .hng, .regs, .defer, .mram, .free] K) (h : Keeps K o s) : Keeps K o (s.applyWord cls a v a4).1 := by
  unfold State.applyWord
  repeat' first | with_reducible assumption | intro _ | exact hM.up rfl | (extract_lets +onlyGivenNames x; clear_value (hx : x = _); refine Keeps.cut (l := K) (o := o) hx ?_ ?_) | (extract_lets +onlyGivenNames x; clear_value (hx : x = _); refine Keeps.cutP (l := K) (o := o) hx ?_ ?_) | (extract_lets +onlyGivenNames x; subst x) | with_reducible apply keeps_applyReg | with_reducible apply keeps_writeWindow | with_reducible apply Keeps.ite | with_reducible apply Keeps.iteF | with_reducible apply Keeps.iteS | with_reducible apply Keeps.foldl | split

/-! ### Host -/

theorem keeps_keyRefused {K : List Part} {o s : State} (cls : KeyClass) (op a : Nat) (v : Word) (hM : Within [.irq, .key, .ring, .trip] K) (h : Keeps K o s) : Keeps K o (s.keyRefused cls op a v) := by
  unfold State.keyRefused
  repeat' first | with_reducible assumption | exact hM.up rfl | (with_reducible refine Keeps.setKey (hM.mem rfl) ?_; with_reducible assumption) | with_reducible apply keeps_stage

theorem keeps_busRead {K : List Part} {o s : State} (cls : KeyClass) (a : Nat) (v : Word) (hM : Within [.irq, .key, .ring, .trip, .pwr, .ptp, .chn] K) (h : Keeps K o s) : Keeps K o (s.busRead cls a v).1 := by
  unfold State.busRead
  repeat' first | with_reducible assumption | intro _ | exact hM.up rfl | (extract_lets +onlyGivenNames x; clear_value (hx : x = _); refine Keeps.cut (l := K) (o := o) hx ?_ ?_) | (extract_lets +onlyGivenNames x; clear_value (hx : x = _); refine Keeps.cutP (l := K) (o := o) hx ?_ ?_) | (extract_lets +onlyGivenNames x; subst x) | with_reducible apply keeps_readEffect | with_reducible apply keeps_keyRefused | with_reducible apply Keeps.ite | with_reducible apply Keeps.iteF | with_reducible apply Keeps.iteS | with_reducible apply Keeps.foldl | split

theorem keeps_busWrite {K : List Part} {o s : State} (cls : KeyClass) (a : Nat) (v : Word) (hM : Within [.req, .due, .causes, .irq, .nme, .key, .job, .ring, .ledger, .cap, .trip, .clk, .pwr, .dm, .nv, .afe, .flt, .aux, .pe, .sch, .fst, .fio, .ptp, .svc, .chn, .hng, .regs, .defer, .mram, .free] K) (h : Keeps K o s) : Keeps K o (s.busWrite cls a v).1 := by
  unfold State.busWrite
  repeat' first | with_reducible assumption | intro _ | exact hM.up rfl | (extract_lets +onlyGivenNames x; clear_value (hx : x = _); refine Keeps.cut (l := K) (o := o) hx ?_ ?_) | (extract_lets +onlyGivenNames x; clear_value (hx : x = _); refine Keeps.cutP (l := K) (o := o) hx ?_ ?_) | (extract_lets +onlyGivenNames x; subst x) | with_reducible apply keeps_keyRefused | with_reducible apply keeps_applyWord | with_reducible apply Keeps.ite | with_reducible apply Keeps.iteF | with_reducible apply Keeps.iteS | with_reducible apply Keeps.foldl | split

theorem keeps_frameError {K : List Part} {o s : State} (cls : KeyClass) (err : Nat) (hM : Within [.irq, .host, .ring, .trip] K) (h : Keeps K o s) : Keeps K o (s.frameError cls err) := by
  unfold State.frameError
  repeat' first | with_reducible assumption | exact hM.up rfl | (with_reducible refine Keeps.setHost (hM.mem rfl) ?_; with_reducible assumption) | with_reducible apply keeps_stage

theorem keeps_perform {K : List Part} {o s : State} (cls : KeyClass) (f : List Byte) (hM : Within [.req, .due, .causes, .irq, .nme, .host, .key, .job, .ring, .ledger, .cap, .trip, .clk, .pwr, .dm, .nv, .afe, .flt, .aux, .pe, .sch, .fst, .fio, .ptp, .svc, .chn, .hng, .regs, .defer, .mram, .free] K) (h : Keeps K o s) : Keeps K o (s.perform cls f).1 := by
  unfold State.perform
  repeat' first | with_reducible assumption | intro _ | exact hM.up rfl | (extract_lets +onlyGivenNames x; clear_value (hx : x = _); refine Keeps.cut (l := K) (o := o) hx ?_ ?_) | (extract_lets +onlyGivenNames x; clear_value (hx : x = _); refine Keeps.cutP (l := K) (o := o) hx ?_ ?_) | (extract_lets +onlyGivenNames x; subst x) | with_reducible apply keeps_frameError | with_reducible apply keeps_busWrite | with_reducible apply keeps_busRead | with_reducible apply Keeps.ite | with_reducible apply Keeps.iteF | with_reducible apply Keeps.iteS | with_reducible apply Keeps.foldl | split

theorem keeps_noteLast {K : List Part} {o s : State} (cls : KeyClass) (f : List Byte) (status : Nat) (done : Bool) (hM : Within [.host] K) (h : Keeps K o s) : Keeps K o (s.noteLast cls f status done) := by
  unfold State.noteLast
  repeat' first | with_reducible assumption | intro _ | (with_reducible refine Keeps.setHost (hM.mem rfl) ?_; with_reducible assumption) | with_reducible apply Keeps.ite

theorem keeps_serve {K : List Part} {o s : State} (cls : KeyClass) (f : List Byte) (hM : Within [.req, .due, .causes, .irq, .nme, .host, .key, .job, .ring, .ledger, .cap, .trip, .clk, .pwr, .dm, .nv, .afe, .flt, .aux, .pe, .sch, .fst, .fio, .ptp, .svc, .chn, .hng, .regs, .defer, .mram, .free] K) (h : Keeps K o s) : Keeps K o (s.serve cls f).1 := by
  unfold State.serve
  repeat' first | with_reducible assumption | intro _ | exact hM.up rfl | (extract_lets +onlyGivenNames x; clear_value (hx : x = _); refine Keeps.cut (l := K) (o := o) hx ?_ ?_) | (extract_lets +onlyGivenNames x; clear_value (hx : x = _); refine Keeps.cutP (l := K) (o := o) hx ?_ ?_) | (extract_lets +onlyGivenNames x; subst x) | with_reducible apply keeps_perform | with_reducible apply keeps_noteLast | with_reducible apply Keeps.ite | with_reducible apply Keeps.iteF | with_reducible apply Keeps.iteS | with_reducible apply Keeps.foldl | split

theorem keeps_frame {K : List Part} {o s : State} (cls : KeyClass) (f : List Byte) (mine : Bool) (hM : Within [.req, .due, .causes, .irq, .nme, .host, .key, .job, .ring, .ledger, .cap, .trip, .clk, .pwr, .dm, .nv, .afe, .flt, .aux, .pe, .sch, .fst, .fio, .ptp, .svc, .chn, .hng, .regs, .defer, .mram, .free] K) (h : Keeps K o s) : Keeps K o (s.frame cls f mine) := by
  unfold State.frame
  repeat' first | with_reducible assumption | exact hM.up rfl | intro _ | (with_reducible refine Keeps.setHost (hM.mem rfl) ?_; with_reducible assumption) | (extract_lets +onlyGivenNames x; clear_value (hx : x = _); refine Keeps.cut (l := K) (o := o) hx ?_ ?_) | (extract_lets +onlyGivenNames x; subst x) | with_reducible apply keeps_serve | with_reducible apply Keeps.ite

theorem keeps_frameOf {K : List Part} {o s : State} (cmd : Nat) (cls : KeyClass) (f : List Byte) (hM : Within [.req, .due, .causes, .irq, .nme, .host, .key, .job, .ring, .ledger, .cap, .trip, .clk, .pwr, .dm, .nv, .afe, .flt, .aux, .pe, .sch, .fst, .fio, .ptp, .svc, .chn, .hng, .regs, .defer, .mram, .free] K) (h : Keeps K o s) : Keeps K o (s.frameOf cmd cls f) := by
  unfold State.frameOf
  repeat' first | with_reducible assumption | intro _ | exact hM.up rfl | (extract_lets +onlyGivenNames x; clear_value (hx : x = _); refine Keeps.cut (l := K) (o := o) hx ?_ ?_) | (extract_lets +onlyGivenNames x; clear_value (hx : x = _); refine Keeps.cutP (l := K) (o := o) hx ?_ ?_) | (extract_lets +onlyGivenNames x; subst x) | with_reducible apply keeps_frame | with_reducible apply Keeps.ite | with_reducible apply Keeps.iteF | with_reducible apply Keeps.iteS | with_reducible apply Keeps.foldl | split

theorem keeps_badFrame {K : List Part} {o s : State} (cls : KeyClass) (f : List Byte) (hM : Within [.req, .due, .causes, .irq, .nme, .host, .key, .job, .ring, .ledger, .cap, .trip, .clk, .pwr, .dm, .nv, .afe, .flt, .aux, .pe, .sch, .fst, .fio, .ptp, .svc, .chn, .hng, .regs, .defer, .mram, .free] K) (h : Keeps K o s) : Keeps K o (s.badFrame cls f) := by
  unfold State.badFrame
  repeat' first | with_reducible assumption | intro _ | exact hM.up rfl | (extract_lets +onlyGivenNames x; clear_value (hx : x = _); refine Keeps.cut (l := K) (o := o) hx ?_ ?_) | (extract_lets +onlyGivenNames x; clear_value (hx : x = _); refine Keeps.cutP (l := K) (o := o) hx ?_ ?_) | (extract_lets +onlyGivenNames x; subst x) | with_reducible apply keeps_frame | with_reducible apply Keeps.ite | with_reducible apply Keeps.iteF | with_reducible apply Keeps.iteS | with_reducible apply Keeps.foldl | split

theorem keeps_shortFrame {K : List Part} {o s : State} (cls : KeyClass) (n : Nat) (hM : Within [.irq, .host, .ring, .trip] K) (h : Keeps K o s) : Keeps K o (s.shortFrame cls n) := by
  unfold State.shortFrame
  repeat' first | with_reducible assumption | intro _ | exact hM.up rfl | (extract_lets +onlyGivenNames x; clear_value (hx : x = _); refine Keeps.cut (l := K) (o := o) hx ?_ ?_) | (extract_lets +onlyGivenNames x; clear_value (hx : x = _); refine Keeps.cutP (l := K) (o := o) hx ?_ ?_) | (extract_lets +onlyGivenNames x; subst x) | with_reducible apply keeps_frameError | with_reducible apply Keeps.ite | with_reducible apply Keeps.iteF | with_reducible apply Keeps.iteS | with_reducible apply Keeps.foldl | split

theorem keeps_write {K : List Part} {o s : State} (cls : KeyClass) (a : Nat) (v : Word) (hM : Within [.req, .due, .causes, .irq, .nme, .key, .job, .ring, .ledger, .cap, .trip, .clk, .pwr, .dm, .nv, .afe, .flt, .aux, .pe, .sch, .fst, .fio, .ptp, .svc, .chn, .hng, .regs, .defer, .mram, .free] K) (h : Keeps K o s) : Keeps K o (s.write cls a v) := by
  unfold State.write
  repeat' first | with_reducible assumption | intro _ | exact hM.up rfl | (extract_lets +onlyGivenNames x; clear_value (hx : x = _); refine Keeps.cut (l := K) (o := o) hx ?_ ?_) | (extract_lets +onlyGivenNames x; clear_value (hx : x = _); refine Keeps.cutP (l := K) (o := o) hx ?_ ?_) | (extract_lets +onlyGivenNames x; subst x) | with_reducible apply keeps_busWrite | with_reducible apply Keeps.ite | with_reducible apply Keeps.iteF | with_reducible apply Keeps.iteS | with_reducible apply Keeps.foldl | split

theorem keeps_read {K : List Part} {o s : State} (cls : KeyClass) (a : Nat) (hM : Within [.irq, .key, .ring, .trip, .pwr, .ptp, .chn] K) (h : Keeps K o s) : Keeps K o (s.read cls a) := by
  unfold State.read
  repeat' first | with_reducible assumption | intro _ | exact hM.up rfl | (extract_lets +onlyGivenNames x; clear_value (hx : x = _); refine Keeps.cut (l := K) (o := o) hx ?_ ?_) | (extract_lets +onlyGivenNames x; clear_value (hx : x = _); refine Keeps.cutP (l := K) (o := o) hx ?_ ?_) | (extract_lets +onlyGivenNames x; subst x) | with_reducible apply keeps_busRead | with_reducible apply Keeps.ite | with_reducible apply Keeps.iteF | with_reducible apply Keeps.iteS | with_reducible apply Keeps.foldl | split

theorem keeps_submitJob {K : List Part} {o s : State} (cls : KeyClass) (code arg : Nat) (hM : Within [.req, .due, .causes, .irq, .nme, .key, .job, .ring, .ledger, .cap, .trip, .clk, .pwr, .dm, .nv, .afe, .flt, .aux, .pe, .sch, .fst, .fio, .ptp, .svc, .chn, .hng, .regs, .defer, .mram, .free] K) (h : Keeps K o s) : Keeps K o (s.submitJob cls code arg) := by
  unfold State.submitJob
  repeat' first | with_reducible assumption | intro _ | exact hM.up rfl | (extract_lets +onlyGivenNames x; clear_value (hx : x = _); refine Keeps.cut (l := K) (o := o) hx ?_ ?_) | (extract_lets +onlyGivenNames x; clear_value (hx : x = _); refine Keeps.cutP (l := K) (o := o) hx ?_ ?_) | (extract_lets +onlyGivenNames x; subst x) | with_reducible apply keeps_write | with_reducible apply Keeps.ite | with_reducible apply Keeps.iteF | with_reducible apply Keeps.iteS | with_reducible apply Keeps.foldl | split

theorem keeps_serveAll {K : List Part} {o s : State} (l : List (List Byte)) (hM : Within [.req, .due, .causes, .irq, .nme, .host, .key, .job, .ring, .ledger, .cap, .trip, .clk, .pwr, .dm, .nv, .afe, .flt, .aux, .pe, .sch, .fst, .fio, .ptp, .svc, .chn, .hng, .regs, .defer, .mram, .free] K) (h : Keeps K o s) : Keeps K o (s.serveAll l).1 := by
  induction l generalizing s with
  | nil => exact h
  | cons t r ih => exact ih (keeps_serve _ _ (hM := hM.up rfl) h)

theorem keeps_mgmtFrame {K : List Part} {o s : State} (m : Nat) (f : MgmtIn) (hM : Within [.req, .due, .causes, .irq, .nme, .host, .key, .job, .ring, .ledger, .cap, .trip, .clk, .pwr, .dm, .nv, .afe, .flt, .aux, .pe, .sch, .fst, .fio, .ptp, .svc, .chn, .hng, .regs, .defer, .mram, .free] K) (h : Keeps K o s) : Keeps K o (s.mgmtFrame m f) := by
  unfold State.mgmtFrame
  repeat' first | with_reducible assumption | intro _ | exact hM.up rfl | (extract_lets +onlyGivenNames x; clear_value (hx : x = _); refine Keeps.cut (l := K) (o := o) hx ?_ ?_) | (extract_lets +onlyGivenNames x; clear_value (hx : x = _); refine Keeps.cutP (l := K) (o := o) hx ?_ ?_) | (extract_lets +onlyGivenNames x; subst x) | with_reducible apply keeps_serveAll | with_reducible apply keeps_send | with_reducible apply keeps_dropFrame | with_reducible apply Keeps.ite | with_reducible apply Keeps.iteF | with_reducible apply Keeps.iteS | with_reducible apply Keeps.foldl | split

/-! ### Remote -/

theorem keeps_remoteTransaction {K : List Part} {o s : State} (m : Nat) (entry : List Byte) (hM : Within [.req, .due, .causes, .irq, .nme, .host, .key, .job, .ring, .ledger, .cap, .trip, .clk, .pwr, .dm, .nv, .afe, .flt, .aux, .pe, .sch, .fst, .fio, .ptp, .svc, .chn, .hng, .regs, .defer, .mram, .free] K) (h : Keeps K o s) : Keeps K o (s.remoteTransaction m entry) := by
  unfold State.remoteTransaction
  repeat' first | with_reducible assumption | intro _ | exact hM.up rfl | (extract_lets +onlyGivenNames x; clear_value (hx : x = _); refine Keeps.cut (l := K) (o := o) hx ?_ ?_) | (extract_lets +onlyGivenNames x; clear_value (hx : x = _); refine Keeps.cutP (l := K) (o := o) hx ?_ ?_) | (extract_lets +onlyGivenNames x; subst x) | with_reducible apply keeps_serve | with_reducible apply keeps_modChn | with_reducible apply Keeps.ite | with_reducible apply Keeps.iteF | with_reducible apply Keeps.iteS | with_reducible apply Keeps.foldl | split

theorem keeps_remoteAnswer {K : List Part} {o s : State} (m : Nat) (entry : List Byte) (hM : Within [.chn] K) (h : Keeps K o s) : Keeps K o (s.remoteAnswer m entry) := by
  unfold State.remoteAnswer
  repeat' first | with_reducible assumption | intro _ | exact hM.up rfl | (extract_lets +onlyGivenNames x; clear_value (hx : x = _); refine Keeps.cut (l := K) (o := o) hx ?_ ?_) | (extract_lets +onlyGivenNames x; clear_value (hx : x = _); refine Keeps.cutP (l := K) (o := o) hx ?_ ?_) | (extract_lets +onlyGivenNames x; subst x) | with_reducible apply keeps_modMbox | with_reducible apply Keeps.ite | with_reducible apply Keeps.iteF | with_reducible apply Keeps.iteS | with_reducible apply Keeps.foldl | split

theorem keeps_remoteTimeout {K : List Part} {o s : State} (m : Nat) (hM : Within [.chn] K) (h : Keeps K o s) : Keeps K o (s.remoteTimeout m) := by
  unfold State.remoteTimeout
  repeat' first | with_reducible assumption | intro _ | exact hM.up rfl | (extract_lets +onlyGivenNames x; clear_value (hx : x = _); refine Keeps.cut (l := K) (o := o) hx ?_ ?_) | (extract_lets +onlyGivenNames x; clear_value (hx : x = _); refine Keeps.cutP (l := K) (o := o) hx ?_ ?_) | (extract_lets +onlyGivenNames x; subst x) | with_reducible apply keeps_modMbox | with_reducible apply Keeps.ite | with_reducible apply Keeps.iteF | with_reducible apply Keeps.iteS | with_reducible apply Keeps.foldl | split

theorem keeps_slotReturned {K : List Part} {o s : State} (p : Nat) (l : List Byte) (hM : Within [.irq, .ring, .trip, .chn] K) (h : Keeps K o s) : Keeps K o (s.slotReturned p l) := by
  unfold State.slotReturned
  repeat' first | with_reducible assumption | intro _ | exact hM.up rfl | (extract_lets +onlyGivenNames x; clear_value (hx : x = _); refine Keeps.cut (l := K) (o := o) hx ?_ ?_) | (extract_lets +onlyGivenNames x; clear_value (hx : x = _); refine Keeps.cutP (l := K) (o := o) hx ?_ ?_) | (extract_lets +onlyGivenNames x; subst x) | with_reducible apply keeps_walkReturn | with_reducible apply keeps_modChn | with_reducible apply keeps_remoteAnswer | with_reducible apply Keeps.ite | with_reducible apply Keeps.iteF | with_reducible apply Keeps.iteS | with_reducible apply Keeps.foldl | split

theorem keeps_walkThrough {K : List Part} {o s : State} (p : Nat) (l : List Byte) (hM : Within [.irq, .ring, .trip, .chn] K) (h : Keeps K o s) : Keeps K o (s.walkThrough p l).1 := by
  unfold State.walkThrough
  repeat' first | with_reducible assumption | intro _ | exact hM.up rfl | (extract_lets +onlyGivenNames x; clear_value (hx : x = _); refine Keeps.cut (l := K) (o := o) hx ?_ ?_) | (extract_lets +onlyGivenNames x; clear_value (hx : x = _); refine Keeps.cutP (l := K) (o := o) hx ?_ ?_) | (extract_lets +onlyGivenNames x; subst x) | with_reducible apply keeps_walkPass | with_reducible apply Keeps.ite | with_reducible apply Keeps.iteF | with_reducible apply Keeps.iteS | with_reducible apply Keeps.foldl | split

theorem keeps_slotPasses {K : List Part} {o s : State} (p : Nat) (l : List Byte) (hM : Within [.req, .due, .causes, .irq, .nme, .host, .key, .job, .ring, .ledger, .cap, .trip, .clk, .pwr, .dm, .nv, .afe, .flt, .aux, .pe, .sch, .fst, .fio, .ptp, .svc, .chn, .hng, .regs, .defer, .mram, .free] K) (h : Keeps K o s) : Keeps K o (s.slotPasses p l) := by
  unfold State.slotPasses
  repeat' first | with_reducible assumption | intro _ | exact hM.up rfl | (extract_lets +onlyGivenNames x; clear_value (hx : x = _); refine Keeps.cut (l := K) (o := o) hx ?_ ?_) | (extract_lets +onlyGivenNames x; clear_value (hx : x = _); refine Keeps.cutP (l := K) (o := o) hx ?_ ?_) | (extract_lets +onlyGivenNames x; subst x) | with_reducible apply keeps_walkThrough | with_reducible apply keeps_takeRoot | with_reducible apply keeps_remoteTransaction | with_reducible apply keeps_modChn | with_reducible apply Keeps.ite | with_reducible apply Keeps.iteF | with_reducible apply Keeps.iteS | with_reducible apply Keeps.foldl | split

theorem keeps_takeMgmt {K : List Part} {o s : State} (p : Nat) (l : List Byte) (hM : Within [.req, .due, .causes, .irq, .nme, .host, .key, .job, .ring, .ledger, .cap, .trip, .clk, .pwr, .dm, .nv, .afe, .flt, .aux, .pe, .sch, .fst, .fio, .ptp, .svc, .chn, .hng, .regs, .defer, .mram, .free] K) (h : Keeps K o s) : Keeps K o (s.takeMgmt p l) := by
  unfold State.takeMgmt
  repeat' first | with_reducible assumption | intro _ | exact hM.up rfl | (extract_lets +onlyGivenNames x; clear_value (hx : x = _); refine Keeps.cut (l := K) (o := o) hx ?_ ?_) | (extract_lets +onlyGivenNames x; clear_value (hx : x = _); refine Keeps.cutP (l := K) (o := o) hx ?_ ?_) | (extract_lets +onlyGivenNames x; subst x) | with_reducible apply keeps_slotReturned | with_reducible apply keeps_otherSender | with_reducible apply keeps_slotPasses | with_reducible apply keeps_relaySlot | with_reducible apply Keeps.ite | with_reducible apply Keeps.iteF | with_reducible apply Keeps.iteS | with_reducible apply Keeps.foldl | split

theorem keeps_mgmtBad {K : List Part} {o s : State} (p : Nat) (l : List RxSym) (hM : Within [.chn] K) (h : Keeps K o s) : Keeps K o (s.mgmtBad p l) := by
  unfold State.mgmtBad
  repeat' first | with_reducible assumption | intro _ | exact hM.up rfl | (extract_lets +onlyGivenNames x; clear_value (hx : x = _); refine Keeps.cut (l := K) (o := o) hx ?_ ?_) | (extract_lets +onlyGivenNames x; clear_value (hx : x = _); refine Keeps.cutP (l := K) (o := o) hx ?_ ?_) | (extract_lets +onlyGivenNames x; subst x) | with_reducible apply keeps_crcFailed | with_reducible apply keeps_relaySlot | with_reducible apply Keeps.ite | with_reducible apply Keeps.iteF | with_reducible apply Keeps.iteS | with_reducible apply Keeps.foldl | split

theorem keeps_managementSlot {K : List Part} {o s : State} (p : Nat) (l : List RxSym) (hM : Within [.req, .due, .causes, .irq, .nme, .host, .key, .job, .ring, .ledger, .cap, .trip, .clk, .pwr, .dm, .nv, .afe, .flt, .aux, .pe, .sch, .fst, .fio, .ptp, .svc, .chn, .hng, .regs, .defer, .mram, .free] K) (h : Keeps K o s) : Keeps K o (s.managementSlot p l) := by
  unfold State.managementSlot
  repeat' first | with_reducible assumption | intro _ | exact hM.up rfl | (extract_lets +onlyGivenNames x; clear_value (hx : x = _); refine Keeps.cut (l := K) (o := o) hx ?_ ?_) | (extract_lets +onlyGivenNames x; clear_value (hx : x = _); refine Keeps.cutP (l := K) (o := o) hx ?_ ?_) | (extract_lets +onlyGivenNames x; subst x) | with_reducible apply keeps_countSymbols | with_reducible apply keeps_mgmtBad | with_reducible apply keeps_takeMgmt | with_reducible apply Keeps.ite | with_reducible apply Keeps.iteF | with_reducible apply Keeps.iteS | with_reducible apply Keeps.foldl | split

end Sys2Proof.Machine
end

