-- ==== Sys2Proof/Laws/Registers.lean ====
section
/-! SUPPORT. What a write or a read of one register does where the keyway allows it, and what it leaves alone otherwise. -/

namespace Sys2Proof.Machine

/-- An allowed write of a register with a writable field is the register's own effect. -/
theorem write_applies {s : State} {cls : KeyClass} {a : Nat} {v : Word} {r : RegRow} (h : s.mayWrite cls a) (hr : targetOf a = some (.reg r)) (hw : r.mask ≠ 0) : s.write cls a v = (s.applyReg cls a v).1 := by
  obtain ⟨h1, h2, h3, h4⟩ := h
  simp only [State.grantsWrite, hr] at h4
  simp [State.write, State.busWrite, State.applyWord, h1, h2, h3, h4, hr, writable, hw]

/-- An allowed read is the read's side effect. -/
theorem read_applies {s : State} {cls : KeyClass} {a : Nat} {t : Target} (h : s.mayRead cls a) (hr : targetOf a = some t) : s.read cls a = s.readEffect a := by
  obtain ⟨h1, h2, h3⟩ := h
  simp only [hr] at h3
  simp [State.read, State.busRead, h1, h2, h3, hr]

/-- A write changes what the register's own effect changes, or records a refusal. -/
theorem keeps_write_at {K : List Part} {o s : State} {cls : KeyClass} {a : Nat} {v : Word} {r : RegRow} (hr : targetOf a = some (.reg r)) (hM : Within [.irq, .key, .ring, .trip] K) (h : Keeps K o s) (hk : Keeps K o (s.applyReg cls a v).1) : Keeps K o (s.write cls a v) := by
  unfold State.write State.busWrite
  rw [hr]
  refine Keeps.opt ?_ h
  refine Keeps.iteF (fun _ => keeps_keyRefused _ _ _ _ (hM := hM.up rfl) h) (fun _ => Keeps.iteF (fun _ => h) (fun _ => Keeps.iteF (fun _ => hk) (fun _ => h)))

/-- A read changes what its side effect changes, or records a refusal. -/
theorem keeps_read_at {K : List Part} {o s : State} {cls : KeyClass} {a : Nat} (hM : Within [.irq, .key, .ring, .trip] K) (h : Keeps K o s) (hk : Keeps K o (s.readEffect a)) : Keeps K o (s.read cls a) := by
  unfold State.read State.busRead
  refine Keeps.opt ?_ h
  split
  · exact h
  · exact Keeps.iteF (fun _ => hk) (fun _ => keeps_keyRefused _ _ _ _ (hM := hM.up rfl) h)

/-- A refused write leaves everything but the count, the record and what a record shows. -/
theorem write_refused {s : State} {cls : KeyClass} {a : Nat} {v : Word} {r : RegRow} (hp : s.pathUp cls = true) (hf : s.pwr.pf = PfStage.none) (hr : targetOf a = some (.reg r)) (hw : r.mask ≠ 0) (hn : s.may cls a r.classes 1 = false) : s.write cls a v = s.keyRefused cls 1 a v := by
  simp [State.write, State.busWrite, hp, hf, hr, writable, hw, romWrite, hn]

end Sys2Proof.Machine
end

