-- ==== Sys2Proof/Laws/Staging.lean ====
section
/-! SUPPORT. What staging an event, setting a status bit and changing the state leave alone, field by field. -/

namespace Sys2Proof.Machine

theorem stage_same (s : State) (a b : Nat) (l : List Byte) {p : Part} (hp : p ∉ [Part.irq, .ring, .trip]) : Same s (s.stage a b l) p :=
  (keeps_stage (K := [.irq, .ring, .trip]) a b l rfl (Keeps.refl _ s)).1.2 p hp

theorem stageTick_same (s : State) (a b : Nat) (l : List Byte) {p : Part} (hp : p ∉ [Part.irq, .ring, .trip]) : Same s (s.stageTick a b l) p :=
  (keeps_stageTick (K := [.irq, .ring, .trip]) a b l rfl (Keeps.refl _ s)).1.2 p hp

@[simp] theorem stage_sys_st (s : State) (a b : Nat) (l : List Byte) : (s.stage a b l).sys.st = s.sys.st := (stage_same s a b l (p := .st) (by decide)).1

@[simp] theorem stageTick_sys_st (s : State) (a b : Nat) (l : List Byte) : (s.stageTick a b l).sys.st = s.sys.st := (stageTick_same s a b l (p := .st) (by decide)).1

@[simp] theorem stage_sys_lastCause (s : State) (a b : Nat) (l : List Byte) : (s.stage a b l).sys.lastCause = s.sys.lastCause := (stage_same s a b l (p := .st) (by decide)).2.1

@[simp] theorem stageTick_sys_lastCause (s : State) (a b : Nat) (l : List Byte) : (s.stageTick a b l).sys.lastCause = s.sys.lastCause := (stageTick_same s a b l (p := .st) (by decide)).2.1

@[simp] theorem stage_sys_failFrom (s : State) (a b : Nat) (l : List Byte) : (s.stage a b l).sys.failFrom = s.sys.failFrom := (stage_same s a b l (p := .st) (by decide)).2.2.1

@[simp] theorem stageTick_sys_failFrom (s : State) (a b : Nat) (l : List Byte) : (s.stageTick a b l).sys.failFrom = s.sys.failFrom := (stageTick_same s a b l (p := .st) (by decide)).2.2.1

@[simp] theorem stage_sys_autoTick (s : State) (a b : Nat) (l : List Byte) : (s.stage a b l).sys.autoTick = s.sys.autoTick := (stage_same s a b l (p := .st) (by decide)).2.2.2.1

@[simp] theorem stageTick_sys_autoTick (s : State) (a b : Nat) (l : List Byte) : (s.stageTick a b l).sys.autoTick = s.sys.autoTick := (stageTick_same s a b l (p := .st) (by decide)).2.2.2.1

@[simp] theorem stage_sys_shutting (s : State) (a b : Nat) (l : List Byte) : (s.stage a b l).sys.shutting = s.sys.shutting := (stage_same s a b l (p := .st) (by decide)).2.2.2.2.1

@[simp] theorem stageTick_sys_shutting (s : State) (a b : Nat) (l : List Byte) : (s.stageTick a b l).sys.shutting = s.sys.shutting := (stageTick_same s a b l (p := .st) (by decide)).2.2.2.2.1

@[simp] theorem stage_sys_bootFrom (s : State) (a b : Nat) (l : List Byte) : (s.stage a b l).sys.bootFrom = s.sys.bootFrom := (stage_same s a b l (p := .st) (by decide)).2.2.2.2.2

@[simp] theorem stageTick_sys_bootFrom (s : State) (a b : Nat) (l : List Byte) : (s.stageTick a b l).sys.bootFrom = s.sys.bootFrom := (stageTick_same s a b l (p := .st) (by decide)).2.2.2.2.2

@[simp] theorem stage_sys_pend (s : State) (a b : Nat) (l : List Byte) : (s.stage a b l).sys.pend = s.sys.pend := (stage_same s a b l (p := .req) (by decide)).1

@[simp] theorem stageTick_sys_pend (s : State) (a b : Nat) (l : List Byte) : (s.stageTick a b l).sys.pend = s.sys.pend := (stageTick_same s a b l (p := .req) (by decide)).1

@[simp] theorem stage_sys_reqVal (s : State) (a b : Nat) (l : List Byte) : (s.stage a b l).sys.reqVal = s.sys.reqVal := (stage_same s a b l (p := .req) (by decide)).2.1

@[simp] theorem stageTick_sys_reqVal (s : State) (a b : Nat) (l : List Byte) : (s.stageTick a b l).sys.reqVal = s.sys.reqVal := (stageTick_same s a b l (p := .req) (by decide)).2.1

@[simp] theorem stage_sys_reqOt (s : State) (a b : Nat) (l : List Byte) : (s.stage a b l).sys.reqOt = s.sys.reqOt := (stage_same s a b l (p := .req) (by decide)).2.2.1

@[simp] theorem stageTick_sys_reqOt (s : State) (a b : Nat) (l : List Byte) : (s.stageTick a b l).sys.reqOt = s.sys.reqOt := (stageTick_same s a b l (p := .req) (by decide)).2.2.1

@[simp] theorem stage_sys_reqResult (s : State) (a b : Nat) (l : List Byte) : (s.stage a b l).sys.reqResult = s.sys.reqResult := (stage_same s a b l (p := .req) (by decide)).2.2.2

@[simp] theorem stageTick_sys_reqResult (s : State) (a b : Nat) (l : List Byte) : (s.stageTick a b l).sys.reqResult = s.sys.reqResult := (stageTick_same s a b l (p := .req) (by decide)).2.2.2

@[simp] theorem stage_sys_reqDue (s : State) (a b : Nat) (l : List Byte) : (s.stage a b l).sys.reqDue = s.sys.reqDue := (stage_same s a b l (p := .due) (by decide)).1

@[simp] theorem stageTick_sys_reqDue (s : State) (a b : Nat) (l : List Byte) : (s.stageTick a b l).sys.reqDue = s.sys.reqDue := (stageTick_same s a b l (p := .due) (by decide)).1

@[simp] theorem stage_sys_reqHold (s : State) (a b : Nat) (l : List Byte) : (s.stage a b l).sys.reqHold = s.sys.reqHold := (stage_same s a b l (p := .due) (by decide)).2.1

@[simp] theorem stageTick_sys_reqHold (s : State) (a b : Nat) (l : List Byte) : (s.stageTick a b l).sys.reqHold = s.sys.reqHold := (stageTick_same s a b l (p := .due) (by decide)).2.1

@[simp] theorem stage_sys_autoDue (s : State) (a b : Nat) (l : List Byte) : (s.stage a b l).sys.autoDue = s.sys.autoDue := (stage_same s a b l (p := .due) (by decide)).2.2

@[simp] theorem stageTick_sys_autoDue (s : State) (a b : Nat) (l : List Byte) : (s.stageTick a b l).sys.autoDue = s.sys.autoDue := (stageTick_same s a b l (p := .due) (by decide)).2.2

@[simp] theorem stage_sys_ticks (s : State) (a b : Nat) (l : List Byte) : (s.stage a b l).sys.ticks = s.sys.ticks := (stage_same s a b l (p := .ticks) (by decide))

@[simp] theorem stageTick_sys_ticks (s : State) (a b : Nat) (l : List Byte) : (s.stageTick a b l).sys.ticks = s.sys.ticks := (stageTick_same s a b l (p := .ticks) (by decide))

@[simp] theorem stage_sys_causes (s : State) (a b : Nat) (l : List Byte) : (s.stage a b l).sys.causes = s.sys.causes := (stage_same s a b l (p := .causes) (by decide))

@[simp] theorem stageTick_sys_causes (s : State) (a b : Nat) (l : List Byte) : (s.stageTick a b l).sys.causes = s.sys.causes := (stageTick_same s a b l (p := .causes) (by decide))

@[simp] theorem stage_sys_health (s : State) (a b : Nat) (l : List Byte) : (s.stage a b l).sys.health = s.sys.health := (stage_same s a b l (p := .health) (by decide))

@[simp] theorem stageTick_sys_health (s : State) (a b : Nat) (l : List Byte) : (s.stageTick a b l).sys.health = s.sys.health := (stageTick_same s a b l (p := .health) (by decide))

@[simp] theorem stage_sys_nme (s : State) (a b : Nat) (l : List Byte) : (s.stage a b l).sys.nme = s.sys.nme := (stage_same s a b l (p := .nme) (by decide))

@[simp] theorem stageTick_sys_nme (s : State) (a b : Nat) (l : List Byte) : (s.stageTick a b l).sys.nme = s.sys.nme := (stageTick_same s a b l (p := .nme) (by decide))

@[simp] theorem stage_host (s : State) (a b : Nat) (l : List Byte) : (s.stage a b l).host = s.host := stage_same s a b l (p := .host) (by decide)

@[simp] theorem stageTick_host (s : State) (a b : Nat) (l : List Byte) : (s.stageTick a b l).host = s.host := stageTick_same s a b l (p := .host) (by decide)

@[simp] theorem stage_key (s : State) (a b : Nat) (l : List Byte) : (s.stage a b l).key = s.key := stage_same s a b l (p := .key) (by decide)

@[simp] theorem stageTick_key (s : State) (a b : Nat) (l : List Byte) : (s.stageTick a b l).key = s.key := stageTick_same s a b l (p := .key) (by decide)

@[simp] theorem stage_job (s : State) (a b : Nat) (l : List Byte) : (s.stage a b l).job = s.job := stage_same s a b l (p := .job) (by decide)

@[simp] theorem stageTick_job (s : State) (a b : Nat) (l : List Byte) : (s.stageTick a b l).job = s.job := stageTick_same s a b l (p := .job) (by decide)

@[simp] theorem stage_ldg_scanning (s : State) (a b : Nat) (l : List Byte) : (s.stage a b l).ldg.scanning = s.ldg.scanning := (stage_same s a b l (p := .ledger) (by decide)).1

@[simp] theorem stageTick_ldg_scanning (s : State) (a b : Nat) (l : List Byte) : (s.stageTick a b l).ldg.scanning = s.ldg.scanning := (stageTick_same s a b l (p := .ledger) (by decide)).1

@[simp] theorem stage_ldg_commissioned (s : State) (a b : Nat) (l : List Byte) : (s.stage a b l).ldg.commissioned = s.ldg.commissioned := (stage_same s a b l (p := .ledger) (by decide)).2.1

@[simp] theorem stageTick_ldg_commissioned (s : State) (a b : Nat) (l : List Byte) : (s.stageTick a b l).ldg.commissioned = s.ldg.commissioned := (stageTick_same s a b l (p := .ledger) (by decide)).2.1

@[simp] theorem stage_ldg_firstFull (s : State) (a b : Nat) (l : List Byte) : (s.stage a b l).ldg.firstFull = s.ldg.firstFull := (stage_same s a b l (p := .ledger) (by decide)).2.2.1

@[simp] theorem stageTick_ldg_firstFull (s : State) (a b : Nat) (l : List Byte) : (s.stageTick a b l).ldg.firstFull = s.ldg.firstFull := (stageTick_same s a b l (p := .ledger) (by decide)).2.2.1

@[simp] theorem stage_ldg_nextSeq (s : State) (a b : Nat) (l : List Byte) : (s.stage a b l).ldg.nextSeq = s.ldg.nextSeq := (stage_same s a b l (p := .ledger) (by decide)).2.2.2.1

@[simp] theorem stageTick_ldg_nextSeq (s : State) (a b : Nat) (l : List Byte) : (s.stageTick a b l).ldg.nextSeq = s.ldg.nextSeq := (stageTick_same s a b l (p := .ledger) (by decide)).2.2.2.1

@[simp] theorem stage_ldg_floor (s : State) (a b : Nat) (l : List Byte) : (s.stage a b l).ldg.floor = s.ldg.floor := (stage_same s a b l (p := .ledger) (by decide)).2.2.2.2.1

@[simp] theorem stageTick_ldg_floor (s : State) (a b : Nat) (l : List Byte) : (s.stageTick a b l).ldg.floor = s.ldg.floor := (stageTick_same s a b l (p := .ledger) (by decide)).2.2.2.2.1

@[simp] theorem stage_ldg_first (s : State) (a b : Nat) (l : List Byte) : (s.stage a b l).ldg.first = s.ldg.first := (stage_same s a b l (p := .ledger) (by decide)).2.2.2.2.2.1

@[simp] theorem stageTick_ldg_first (s : State) (a b : Nat) (l : List Byte) : (s.stageTick a b l).ldg.first = s.ldg.first := (stageTick_same s a b l (p := .ledger) (by decide)).2.2.2.2.2.1

@[simp] theorem stage_ldg_circ (s : State) (a b : Nat) (l : List Byte) : (s.stage a b l).ldg.circ = s.ldg.circ := (stage_same s a b l (p := .ledger) (by decide)).2.2.2.2.2.2.1

@[simp] theorem stageTick_ldg_circ (s : State) (a b : Nat) (l : List Byte) : (s.stageTick a b l).ldg.circ = s.ldg.circ := (stageTick_same s a b l (p := .ledger) (by decide)).2.2.2.2.2.2.1

@[simp] theorem stage_ldg_firstPos (s : State) (a b : Nat) (l : List Byte) : (s.stage a b l).ldg.firstPos = s.ldg.firstPos := (stage_same s a b l (p := .ledger) (by decide)).2.2.2.2.2.2.2.1

@[simp] theorem stageTick_ldg_firstPos (s : State) (a b : Nat) (l : List Byte) : (s.stageTick a b l).ldg.firstPos = s.ldg.firstPos := (stageTick_same s a b l (p := .ledger) (by decide)).2.2.2.2.2.2.2.1

@[simp] theorem stage_ldg_circPos (s : State) (a b : Nat) (l : List Byte) : (s.stage a b l).ldg.circPos = s.ldg.circPos := (stage_same s a b l (p := .ledger) (by decide)).2.2.2.2.2.2.2.2.1

@[simp] theorem stageTick_ldg_circPos (s : State) (a b : Nat) (l : List Byte) : (s.stageTick a b l).ldg.circPos = s.ldg.circPos := (stageTick_same s a b l (p := .ledger) (by decide)).2.2.2.2.2.2.2.2.1

@[simp] theorem stage_ldg_cursors (s : State) (a b : Nat) (l : List Byte) : (s.stage a b l).ldg.cursors = s.ldg.cursors := (stage_same s a b l (p := .ledger) (by decide)).2.2.2.2.2.2.2.2.2

@[simp] theorem stageTick_ldg_cursors (s : State) (a b : Nat) (l : List Byte) : (s.stageTick a b l).ldg.cursors = s.ldg.cursors := (stageTick_same s a b l (p := .ledger) (by decide)).2.2.2.2.2.2.2.2.2

@[simp] theorem stage_cap_buf (s : State) (a b : Nat) (l : List Byte) : (s.stage a b l).cap.buf = s.cap.buf := (stage_same s a b l (p := .cap) (by decide)).1

@[simp] theorem stageTick_cap_buf (s : State) (a b : Nat) (l : List Byte) : (s.stageTick a b l).cap.buf = s.cap.buf := (stageTick_same s a b l (p := .cap) (by decide)).1

@[simp] theorem stage_cap_recording (s : State) (a b : Nat) (l : List Byte) : (s.stage a b l).cap.recording = s.cap.recording := (stage_same s a b l (p := .cap) (by decide)).2.1

@[simp] theorem stageTick_cap_recording (s : State) (a b : Nat) (l : List Byte) : (s.stageTick a b l).cap.recording = s.cap.recording := (stageTick_same s a b l (p := .cap) (by decide)).2.1

@[simp] theorem stage_cap_waiting (s : State) (a b : Nat) (l : List Byte) : (s.stage a b l).cap.waiting = s.cap.waiting := (stage_same s a b l (p := .cap) (by decide)).2.2.1

@[simp] theorem stageTick_cap_waiting (s : State) (a b : Nat) (l : List Byte) : (s.stageTick a b l).cap.waiting = s.cap.waiting := (stageTick_same s a b l (p := .cap) (by decide)).2.2.1

@[simp] theorem stage_cap_writing (s : State) (a b : Nat) (l : List Byte) : (s.stage a b l).cap.writing = s.cap.writing := (stage_same s a b l (p := .cap) (by decide)).2.2.2.1

@[simp] theorem stageTick_cap_writing (s : State) (a b : Nat) (l : List Byte) : (s.stageTick a b l).cap.writing = s.cap.writing := (stageTick_same s a b l (p := .cap) (by decide)).2.2.2.1

@[simp] theorem stage_cap_written (s : State) (a b : Nat) (l : List Byte) : (s.stage a b l).cap.written = s.cap.written := (stage_same s a b l (p := .cap) (by decide)).2.2.2.2.1

@[simp] theorem stageTick_cap_written (s : State) (a b : Nat) (l : List Byte) : (s.stageTick a b l).cap.written = s.cap.written := (stageTick_same s a b l (p := .cap) (by decide)).2.2.2.2.1

@[simp] theorem stage_cap_slots (s : State) (a b : Nat) (l : List Byte) : (s.stage a b l).cap.slots = s.cap.slots := (stage_same s a b l (p := .cap) (by decide)).2.2.2.2.2.1

@[simp] theorem stageTick_cap_slots (s : State) (a b : Nat) (l : List Byte) : (s.stageTick a b l).cap.slots = s.cap.slots := (stageTick_same s a b l (p := .cap) (by decide)).2.2.2.2.2.1

@[simp] theorem stage_cap_lost (s : State) (a b : Nat) (l : List Byte) : (s.stage a b l).cap.lost = s.cap.lost := (stage_same s a b l (p := .cap) (by decide)).2.2.2.2.2.2.1

@[simp] theorem stageTick_cap_lost (s : State) (a b : Nat) (l : List Byte) : (s.stageTick a b l).cap.lost = s.cap.lost := (stageTick_same s a b l (p := .cap) (by decide)).2.2.2.2.2.2.1

@[simp] theorem stage_cap_hostTrig (s : State) (a b : Nat) (l : List Byte) : (s.stage a b l).cap.hostTrig = s.cap.hostTrig := (stage_same s a b l (p := .cap) (by decide)).2.2.2.2.2.2.2.1

@[simp] theorem stageTick_cap_hostTrig (s : State) (a b : Nat) (l : List Byte) : (s.stageTick a b l).cap.hostTrig = s.cap.hostTrig := (stageTick_same s a b l (p := .cap) (by decide)).2.2.2.2.2.2.2.1

@[simp] theorem stage_cap_nextNum (s : State) (a b : Nat) (l : List Byte) : (s.stage a b l).cap.nextNum = s.cap.nextNum := (stage_same s a b l (p := .cap) (by decide)).2.2.2.2.2.2.2.2.1

@[simp] theorem stageTick_cap_nextNum (s : State) (a b : Nat) (l : List Byte) : (s.stageTick a b l).cap.nextNum = s.cap.nextNum := (stageTick_same s a b l (p := .cap) (by decide)).2.2.2.2.2.2.2.2.1

@[simp] theorem stage_cap_prev (s : State) (a b : Nat) (l : List Byte) : (s.stage a b l).cap.prev = s.cap.prev := (stage_same s a b l (p := .cap) (by decide)).2.2.2.2.2.2.2.2.2.1

@[simp] theorem stageTick_cap_prev (s : State) (a b : Nat) (l : List Byte) : (s.stageTick a b l).cap.prev = s.cap.prev := (stageTick_same s a b l (p := .cap) (by decide)).2.2.2.2.2.2.2.2.2.1

@[simp] theorem stage_cap_due (s : State) (a b : Nat) (l : List Byte) : (s.stage a b l).cap.due = s.cap.due := (stage_same s a b l (p := .cap) (by decide)).2.2.2.2.2.2.2.2.2.2.1

@[simp] theorem stageTick_cap_due (s : State) (a b : Nat) (l : List Byte) : (s.stageTick a b l).cap.due = s.cap.due := (stageTick_same s a b l (p := .cap) (by decide)).2.2.2.2.2.2.2.2.2.2.1

@[simp] theorem stage_cap_host (s : State) (a b : Nat) (l : List Byte) : (s.stage a b l).cap.host = s.cap.host := (stage_same s a b l (p := .cap) (by decide)).2.2.2.2.2.2.2.2.2.2.2

@[simp] theorem stageTick_cap_host (s : State) (a b : Nat) (l : List Byte) : (s.stageTick a b l).cap.host = s.cap.host := (stageTick_same s a b l (p := .cap) (by decide)).2.2.2.2.2.2.2.2.2.2.2

@[simp] theorem stage_clk (s : State) (a b : Nat) (l : List Byte) : (s.stage a b l).clk = s.clk := stage_same s a b l (p := .clk) (by decide)

@[simp] theorem stageTick_clk (s : State) (a b : Nat) (l : List Byte) : (s.stageTick a b l).clk = s.clk := stageTick_same s a b l (p := .clk) (by decide)

@[simp] theorem stage_pwr (s : State) (a b : Nat) (l : List Byte) : (s.stage a b l).pwr = s.pwr := stage_same s a b l (p := .pwr) (by decide)

@[simp] theorem stageTick_pwr (s : State) (a b : Nat) (l : List Byte) : (s.stageTick a b l).pwr = s.pwr := stageTick_same s a b l (p := .pwr) (by decide)

@[simp] theorem stage_dm (s : State) (a b : Nat) (l : List Byte) : (s.stage a b l).dm = s.dm := stage_same s a b l (p := .dm) (by decide)

@[simp] theorem stageTick_dm (s : State) (a b : Nat) (l : List Byte) : (s.stageTick a b l).dm = s.dm := stageTick_same s a b l (p := .dm) (by decide)

@[simp] theorem stage_nv (s : State) (a b : Nat) (l : List Byte) : (s.stage a b l).nv = s.nv := stage_same s a b l (p := .nv) (by decide)

@[simp] theorem stageTick_nv (s : State) (a b : Nat) (l : List Byte) : (s.stageTick a b l).nv = s.nv := stageTick_same s a b l (p := .nv) (by decide)

@[simp] theorem stage_afe (s : State) (a b : Nat) (l : List Byte) : (s.stage a b l).afe = s.afe := stage_same s a b l (p := .afe) (by decide)

@[simp] theorem stageTick_afe (s : State) (a b : Nat) (l : List Byte) : (s.stageTick a b l).afe = s.afe := stageTick_same s a b l (p := .afe) (by decide)

@[simp] theorem stage_flt (s : State) (a b : Nat) (l : List Byte) : (s.stage a b l).flt = s.flt := stage_same s a b l (p := .flt) (by decide)

@[simp] theorem stageTick_flt (s : State) (a b : Nat) (l : List Byte) : (s.stageTick a b l).flt = s.flt := stageTick_same s a b l (p := .flt) (by decide)

@[simp] theorem stage_aux (s : State) (a b : Nat) (l : List Byte) : (s.stage a b l).aux = s.aux := stage_same s a b l (p := .aux) (by decide)

@[simp] theorem stageTick_aux (s : State) (a b : Nat) (l : List Byte) : (s.stageTick a b l).aux = s.aux := stageTick_same s a b l (p := .aux) (by decide)

@[simp] theorem stage_pe (s : State) (a b : Nat) (l : List Byte) : (s.stage a b l).pe = s.pe := stage_same s a b l (p := .pe) (by decide)

@[simp] theorem stageTick_pe (s : State) (a b : Nat) (l : List Byte) : (s.stageTick a b l).pe = s.pe := stageTick_same s a b l (p := .pe) (by decide)

@[simp] theorem stage_trk (s : State) (a b : Nat) (l : List Byte) : (s.stage a b l).trk = s.trk := stage_same s a b l (p := .trk) (by decide)

@[simp] theorem stageTick_trk (s : State) (a b : Nat) (l : List Byte) : (s.stageTick a b l).trk = s.trk := stageTick_same s a b l (p := .trk) (by decide)

@[simp] theorem stage_sch (s : State) (a b : Nat) (l : List Byte) : (s.stage a b l).sch = s.sch := stage_same s a b l (p := .sch) (by decide)

@[simp] theorem stageTick_sch (s : State) (a b : Nat) (l : List Byte) : (s.stageTick a b l).sch = s.sch := stageTick_same s a b l (p := .sch) (by decide)

@[simp] theorem stage_fst (s : State) (a b : Nat) (l : List Byte) : (s.stage a b l).fst = s.fst := stage_same s a b l (p := .fst) (by decide)

@[simp] theorem stageTick_fst (s : State) (a b : Nat) (l : List Byte) : (s.stageTick a b l).fst = s.fst := stageTick_same s a b l (p := .fst) (by decide)

@[simp] theorem stage_fio (s : State) (a b : Nat) (l : List Byte) : (s.stage a b l).fio = s.fio := stage_same s a b l (p := .fio) (by decide)

@[simp] theorem stageTick_fio (s : State) (a b : Nat) (l : List Byte) : (s.stageTick a b l).fio = s.fio := stageTick_same s a b l (p := .fio) (by decide)

@[simp] theorem stage_ptp (s : State) (a b : Nat) (l : List Byte) : (s.stage a b l).ptp = s.ptp := stage_same s a b l (p := .ptp) (by decide)

@[simp] theorem stageTick_ptp (s : State) (a b : Nat) (l : List Byte) : (s.stageTick a b l).ptp = s.ptp := stageTick_same s a b l (p := .ptp) (by decide)

@[simp] theorem stage_svc (s : State) (a b : Nat) (l : List Byte) : (s.stage a b l).svc = s.svc := stage_same s a b l (p := .svc) (by decide)

@[simp] theorem stageTick_svc (s : State) (a b : Nat) (l : List Byte) : (s.stageTick a b l).svc = s.svc := stageTick_same s a b l (p := .svc) (by decide)

@[simp] theorem stage_chn (s : State) (a b : Nat) (l : List Byte) : (s.stage a b l).chn = s.chn := stage_same s a b l (p := .chn) (by decide)

@[simp] theorem stageTick_chn (s : State) (a b : Nat) (l : List Byte) : (s.stageTick a b l).chn = s.chn := stageTick_same s a b l (p := .chn) (by decide)

@[simp] theorem stage_hng (s : State) (a b : Nat) (l : List Byte) : (s.stage a b l).hng = s.hng := stage_same s a b l (p := .hng) (by decide)

@[simp] theorem stageTick_hng (s : State) (a b : Nat) (l : List Byte) : (s.stageTick a b l).hng = s.hng := stageTick_same s a b l (p := .hng) (by decide)

@[simp] theorem stage_regs (s : State) (a b : Nat) (l : List Byte) : (s.stage a b l).regs = s.regs := stage_same s a b l (p := .regs) (by decide)

@[simp] theorem stageTick_regs (s : State) (a b : Nat) (l : List Byte) : (s.stageTick a b l).regs = s.regs := stageTick_same s a b l (p := .regs) (by decide)

@[simp] theorem stage_defer (s : State) (a b : Nat) (l : List Byte) : (s.stage a b l).defer = s.defer := stage_same s a b l (p := .defer) (by decide)

@[simp] theorem stageTick_defer (s : State) (a b : Nat) (l : List Byte) : (s.stageTick a b l).defer = s.defer := stageTick_same s a b l (p := .defer) (by decide)

@[simp] theorem stage_mram (s : State) (a b : Nat) (l : List Byte) : (s.stage a b l).mram = s.mram := stage_same s a b l (p := .mram) (by decide)

@[simp] theorem stageTick_mram (s : State) (a b : Nat) (l : List Byte) : (s.stageTick a b l).mram = s.mram := stageTick_same s a b l (p := .mram) (by decide)

@[simp] theorem stage_free (s : State) (a b : Nat) (l : List Byte) : (s.stage a b l).free = s.free := stage_same s a b l (p := .free) (by decide)

@[simp] theorem stageTick_free (s : State) (a b : Nat) (l : List Byte) : (s.stageTick a b l).free = s.free := stageTick_same s a b l (p := .free) (by decide)

@[simp] theorem stage_pending (s : State) (a b : Nat) (l : List Byte) : (s.stage a b l).pending = s.pending := (keeps_stage (K := [.irq, .ring, .trip]) a b l rfl (Keeps.refl _ s)).1.1

@[simp] theorem setIrq_sys_st (s : State) (b : Nat) : (s.setIrq b).sys.st = s.sys.st := rfl

@[simp] theorem setIrq_sys_lastCause (s : State) (b : Nat) : (s.setIrq b).sys.lastCause = s.sys.lastCause := rfl

@[simp] theorem setIrq_sys_failFrom (s : State) (b : Nat) : (s.setIrq b).sys.failFrom = s.sys.failFrom := rfl

@[simp] theorem setIrq_sys_autoTick (s : State) (b : Nat) : (s.setIrq b).sys.autoTick = s.sys.autoTick := rfl

@[simp] theorem setIrq_sys_shutting (s : State) (b : Nat) : (s.setIrq b).sys.shutting = s.sys.shutting := rfl

@[simp] theorem setIrq_sys_bootFrom (s : State) (b : Nat) : (s.setIrq b).sys.bootFrom = s.sys.bootFrom := rfl

@[simp] theorem setIrq_sys_pend (s : State) (b : Nat) : (s.setIrq b).sys.pend = s.sys.pend := rfl

@[simp] theorem setIrq_sys_reqVal (s : State) (b : Nat) : (s.setIrq b).sys.reqVal = s.sys.reqVal := rfl

@[simp] theorem setIrq_sys_reqOt (s : State) (b : Nat) : (s.setIrq b).sys.reqOt = s.sys.reqOt := rfl

@[simp] theorem setIrq_sys_reqResult (s : State) (b : Nat) : (s.setIrq b).sys.reqResult = s.sys.reqResult := rfl

@[simp] theorem setIrq_sys_reqDue (s : State) (b : Nat) : (s.setIrq b).sys.reqDue = s.sys.reqDue := rfl

@[simp] theorem setIrq_sys_reqHold (s : State) (b : Nat) : (s.setIrq b).sys.reqHold = s.sys.reqHold := rfl

@[simp] theorem setIrq_sys_autoDue (s : State) (b : Nat) : (s.setIrq b).sys.autoDue = s.sys.autoDue := rfl

@[simp] theorem setIrq_sys_ticks (s : State) (b : Nat) : (s.setIrq b).sys.ticks = s.sys.ticks := rfl

@[simp] theorem setIrq_sys_causes (s : State) (b : Nat) : (s.setIrq b).sys.causes = s.sys.causes := rfl

@[simp] theorem setIrq_sys_health (s : State) (b : Nat) : (s.setIrq b).sys.health = s.sys.health := rfl

@[simp] theorem setIrq_sys_nme (s : State) (b : Nat) : (s.setIrq b).sys.nme = s.sys.nme := rfl

@[simp] theorem setIrq_host (s : State) (b : Nat) : (s.setIrq b).host = s.host := rfl

@[simp] theorem setIrq_key (s : State) (b : Nat) : (s.setIrq b).key = s.key := rfl

@[simp] theorem setIrq_job (s : State) (b : Nat) : (s.setIrq b).job = s.job := rfl

@[simp] theorem setIrq_clk (s : State) (b : Nat) : (s.setIrq b).clk = s.clk := rfl

@[simp] theorem setIrq_pwr (s : State) (b : Nat) : (s.setIrq b).pwr = s.pwr := rfl

@[simp] theorem setIrq_dm (s : State) (b : Nat) : (s.setIrq b).dm = s.dm := rfl

@[simp] theorem setIrq_nv (s : State) (b : Nat) : (s.setIrq b).nv = s.nv := rfl

@[simp] theorem setIrq_afe (s : State) (b : Nat) : (s.setIrq b).afe = s.afe := rfl

@[simp] theorem setIrq_flt (s : State) (b : Nat) : (s.setIrq b).flt = s.flt := rfl

@[simp] theorem setIrq_aux (s : State) (b : Nat) : (s.setIrq b).aux = s.aux := rfl

@[simp] theorem setIrq_pe (s : State) (b : Nat) : (s.setIrq b).pe = s.pe := rfl

@[simp] theorem setIrq_trk (s : State) (b : Nat) : (s.setIrq b).trk = s.trk := rfl

@[simp] theorem setIrq_sch (s : State) (b : Nat) : (s.setIrq b).sch = s.sch := rfl

@[simp] theorem setIrq_fst (s : State) (b : Nat) : (s.setIrq b).fst = s.fst := rfl

@[simp] theorem setIrq_fio (s : State) (b : Nat) : (s.setIrq b).fio = s.fio := rfl

@[simp] theorem setIrq_ptp (s : State) (b : Nat) : (s.setIrq b).ptp = s.ptp := rfl

@[simp] theorem setIrq_svc (s : State) (b : Nat) : (s.setIrq b).svc = s.svc := rfl

@[simp] theorem setIrq_chn (s : State) (b : Nat) : (s.setIrq b).chn = s.chn := rfl

@[simp] theorem setIrq_hng (s : State) (b : Nat) : (s.setIrq b).hng = s.hng := rfl

@[simp] theorem setIrq_regs (s : State) (b : Nat) : (s.setIrq b).regs = s.regs := rfl

@[simp] theorem setIrq_defer (s : State) (b : Nat) : (s.setIrq b).defer = s.defer := rfl

@[simp] theorem setIrq_mram (s : State) (b : Nat) : (s.setIrq b).mram = s.mram := rfl

@[simp] theorem setIrq_free (s : State) (b : Nat) : (s.setIrq b).free = s.free := rfl

@[simp] theorem setIrq_pending (s : State) (b : Nat) : (s.setIrq b).pending = s.pending := rfl

@[simp] theorem setIrq_ldg (s : State) (b : Nat) : (s.setIrq b).ldg = s.ldg := rfl

@[simp] theorem setIrq_cap (s : State) (b : Nat) : (s.setIrq b).cap = s.cap := rfl

@[simp] theorem setNme_sys_st (s : State) (b : Nat) : (s.setNme b).sys.st = s.sys.st := rfl

@[simp] theorem setNme_sys_lastCause (s : State) (b : Nat) : (s.setNme b).sys.lastCause = s.sys.lastCause := rfl

@[simp] theorem setNme_sys_failFrom (s : State) (b : Nat) : (s.setNme b).sys.failFrom = s.sys.failFrom := rfl

@[simp] theorem setNme_sys_autoTick (s : State) (b : Nat) : (s.setNme b).sys.autoTick = s.sys.autoTick := rfl

@[simp] theorem setNme_sys_shutting (s : State) (b : Nat) : (s.setNme b).sys.shutting = s.sys.shutting := rfl

@[simp] theorem setNme_sys_bootFrom (s : State) (b : Nat) : (s.setNme b).sys.bootFrom = s.sys.bootFrom := rfl

@[simp] theorem setNme_sys_pend (s : State) (b : Nat) : (s.setNme b).sys.pend = s.sys.pend := rfl

@[simp] theorem setNme_sys_reqVal (s : State) (b : Nat) : (s.setNme b).sys.reqVal = s.sys.reqVal := rfl

@[simp] theorem setNme_sys_reqOt (s : State) (b : Nat) : (s.setNme b).sys.reqOt = s.sys.reqOt := rfl

@[simp] theorem setNme_sys_reqResult (s : State) (b : Nat) : (s.setNme b).sys.reqResult = s.sys.reqResult := rfl

@[simp] theorem setNme_sys_reqDue (s : State) (b : Nat) : (s.setNme b).sys.reqDue = s.sys.reqDue := rfl

@[simp] theorem setNme_sys_reqHold (s : State) (b : Nat) : (s.setNme b).sys.reqHold = s.sys.reqHold := rfl

@[simp] theorem setNme_sys_autoDue (s : State) (b : Nat) : (s.setNme b).sys.autoDue = s.sys.autoDue := rfl

@[simp] theorem setNme_sys_ticks (s : State) (b : Nat) : (s.setNme b).sys.ticks = s.sys.ticks := rfl

@[simp] theorem setNme_sys_causes (s : State) (b : Nat) : (s.setNme b).sys.causes = s.sys.causes := rfl

@[simp] theorem setNme_sys_health (s : State) (b : Nat) : (s.setNme b).sys.health = s.sys.health := rfl

@[simp] theorem setNme_sys_irq (s : State) (b : Nat) : (s.setNme b).sys.irq = s.sys.irq := rfl

@[simp] theorem setNme_host (s : State) (b : Nat) : (s.setNme b).host = s.host := rfl

@[simp] theorem setNme_key (s : State) (b : Nat) : (s.setNme b).key = s.key := rfl

@[simp] theorem setNme_job (s : State) (b : Nat) : (s.setNme b).job = s.job := rfl

@[simp] theorem setNme_clk (s : State) (b : Nat) : (s.setNme b).clk = s.clk := rfl

@[simp] theorem setNme_pwr (s : State) (b : Nat) : (s.setNme b).pwr = s.pwr := rfl

@[simp] theorem setNme_dm (s : State) (b : Nat) : (s.setNme b).dm = s.dm := rfl

@[simp] theorem setNme_nv (s : State) (b : Nat) : (s.setNme b).nv = s.nv := rfl

@[simp] theorem setNme_afe (s : State) (b : Nat) : (s.setNme b).afe = s.afe := rfl

@[simp] theorem setNme_flt (s : State) (b : Nat) : (s.setNme b).flt = s.flt := rfl

@[simp] theorem setNme_aux (s : State) (b : Nat) : (s.setNme b).aux = s.aux := rfl

@[simp] theorem setNme_pe (s : State) (b : Nat) : (s.setNme b).pe = s.pe := rfl

@[simp] theorem setNme_trk (s : State) (b : Nat) : (s.setNme b).trk = s.trk := rfl

@[simp] theorem setNme_sch (s : State) (b : Nat) : (s.setNme b).sch = s.sch := rfl

@[simp] theorem setNme_fst (s : State) (b : Nat) : (s.setNme b).fst = s.fst := rfl

@[simp] theorem setNme_fio (s : State) (b : Nat) : (s.setNme b).fio = s.fio := rfl

@[simp] theorem setNme_ptp (s : State) (b : Nat) : (s.setNme b).ptp = s.ptp := rfl

@[simp] theorem setNme_svc (s : State) (b : Nat) : (s.setNme b).svc = s.svc := rfl

@[simp] theorem setNme_chn (s : State) (b : Nat) : (s.setNme b).chn = s.chn := rfl

@[simp] theorem setNme_hng (s : State) (b : Nat) : (s.setNme b).hng = s.hng := rfl

@[simp] theorem setNme_regs (s : State) (b : Nat) : (s.setNme b).regs = s.regs := rfl

@[simp] theorem setNme_defer (s : State) (b : Nat) : (s.setNme b).defer = s.defer := rfl

@[simp] theorem setNme_mram (s : State) (b : Nat) : (s.setNme b).mram = s.mram := rfl

@[simp] theorem setNme_free (s : State) (b : Nat) : (s.setNme b).free = s.free := rfl

@[simp] theorem setNme_pending (s : State) (b : Nat) : (s.setNme b).pending = s.pending := rfl

@[simp] theorem setNme_ldg (s : State) (b : Nat) : (s.setNme b).ldg = s.ldg := rfl

@[simp] theorem setNme_cap (s : State) (b : Nat) : (s.setNme b).cap = s.cap := rfl

/-- What happens at the drivers and the fast path after a change of state leaves the state logic alone. -/
theorem settle_st (s : State) : (s.fastSettle.followOutputs).sys.st = s.sys.st :=
  ((keeps_followOutputs (K := [.irq, .ring, .trip, .fst, .fio, .chn]) (hM := rfl) (keeps_fastSettle (hM := rfl) (Keeps.refl _ s))).1.2 .st (by decide)).1

@[simp] theorem changeState_st (s : State) (n : OpState) (c : Nat) : (s.changeState n c).sys.st = n := by
  unfold State.changeState
  simp only [stage_sys_st, setIrq_sys_st]
  split <;> simp only [setNme_sys_st, State.applyState, settle_st] <;> (split <;> rfl)

@[simp] theorem changeState_lastCause (s : State) (n : OpState) (c : Nat) : (s.changeState n c).sys.lastCause = c := by
  unfold State.changeState
  simp only [stage_sys_lastCause, setIrq_sys_lastCause]
  split <;> rfl

theorem changeState_same (s : State) (n : OpState) (c : Nat) {p : Part} (hp : p ∉ [Part.st, .irq, .nme, .job, .ring, .trip, .pwr, .afe, .flt, .fst, .fio, .chn, .hng]) : Same s (s.changeState n c) p :=
  (keeps_changeState (K := [.st, .irq, .nme, .job, .ring, .trip, .pwr, .afe, .flt, .fst, .fio, .chn, .hng]) n c rfl (Keeps.refl _ s)).1.2 p hp

@[simp] theorem changeState_pend (s : State) (n : OpState) (c : Nat) : (s.changeState n c).sys.pend = s.sys.pend := (changeState_same s n c (p := .req) (by decide)).1

@[simp] theorem changeState_reqResult (s : State) (n : OpState) (c : Nat) : (s.changeState n c).sys.reqResult = s.sys.reqResult := (changeState_same s n c (p := .req) (by decide)).2.2.2

@[simp] theorem changeState_causes (s : State) (n : OpState) (c : Nat) : (s.changeState n c).sys.causes = s.sys.causes := changeState_same s n c (p := .causes) (by decide)

theorem relinquish_same (s : State) (c : Nat) {p : Part} (hp : p ∉ [Part.irq, .ring, .trip, .fio, .hng]) : Same s (s.relinquish c) p :=
  (keeps_relinquish (K := [.irq, .ring, .trip, .fio, .hng]) c rfl (Keeps.refl _ s)).1.2 p hp

end Sys2Proof.Machine
end

