-- ==== Sys2Proof/Laws/ChainRules.lean ====
section
/-! SUPPORT. Chain ports, walks, slots, cycles and the mailbox. Lemmas about the operations of these rows, for the proofs of the statements about them. -/

namespace Sys2Proof.Facts.ChainRules

open Sys2Proof Sys2Proof.Machine

theorem port_mod (s : State) (p : Nat) (f) (h : p < s.chn.ports.length) : (s.modPort p f).port p = f (s.port p) := nth_modNth_self h

theorem port_ne (s : State) (p k : Nat) (f) (h : k ≠ p) : (s.modPort p f).port k = s.port k := nth_modNth_ne (Ne.symm h)

theorem len_mod (s : State) (p : Nat) (f) : (s.modPort p f).chn.ports.length = s.chn.ports.length := by simp [State.modPort, State.modChn]

theorem port_congr {s t : State} (h : t.chn = s.chn) (k : Nat) : t.port k = s.port k := by unfold State.port; rw [h]

theorem move_chn (s : State) (f) : (s.moveTime f).chn = (f s).chn :=
  Keeps.same (keeps_srcMoved (K := [.clk, .ptp]) s.srcEff rfl (Keeps.refl _ (f s))) (p := .chn) (by decide)

theorem judge_chn (s : State) (p g l) : (s.judgeLane p g l).chn = s.chn :=
  Keeps.same (keeps_judgeLane (K := [.dm, .irq, .ring, .trip]) p g l rfl (Keeps.refl _ s)) (p := .chn) (by decide)

theorem fold_chn {α} (f : State → α → State) (h : ∀ s a, (f s a).chn = s.chn) (l : List α) (s : State) : (l.foldl f s).chn = s.chn := by
  induction l generalizing s with
  | nil => rfl
  | cons a r ih => rw [List.foldl_cons, ih, h]

theorem judgeLanes_chn (s : State) (p g) : ∃ a b, (s.judgeLanes p g).chn = { s.chn with ports := modNth s.chn.ports p (fun x => { x with rxSpare := a, rxFailed := b }) } := by
  unfold State.judgeLanes
  extract_lets u
  have hu : u.chn = s.chn := fold_chn (fun s l => State.judgeLane s p g l) (fun s a => judge_chn s p g a) (List.range 5) s
  clear_value u
  refine ⟨spareLane (u.serving p g), maskOf ((List.range 5).map (fun l => !g.testBit l || u.laneOut p l)), ?_⟩
  have e : ∀ F, (u.modPort p F).chn = { u.chn with ports := modNth u.chn.ports p F } := fun _ => rfl
  rw [e, hu]

theorem judgeLanes_port (s : State) (p g) (h : p < s.chn.ports.length) : (∃ a b, (s.judgeLanes p g).port p = { s.port p with rxSpare := a, rxFailed := b }) ∧ (∀ k, k ≠ p → (s.judgeLanes p g).port k = s.port k) ∧ (s.judgeLanes p g).chn.ports.length = s.chn.ports.length := by
  obtain ⟨a, b, e⟩ := judgeLanes_chn s p g
  refine ⟨⟨a, b, ?_⟩, fun k hk => ?_, ?_⟩
  · unfold State.port; rw [e]; exact nth_modNth_self h
  · unfold State.port; rw [e]; exact nth_modNth_ne (Ne.symm hk)
  · rw [e]; simp

theorem portDown_port (s : State) (p) (h : p < s.chn.ports.length) : ((s.portDown p).port p).st = .down ∧ ∀ k, k ≠ p → (s.portDown p).port k = s.port k := by
  unfold State.portDown
  extract_lets was s1 s2
  have e1 : s1.chn = (s.modPort p (fun x => { x with st := .down, marks := false, pairs := 0, seen := false, back := 0 })).chn := move_chn s _
  have e2 : s2.chn.ports = s1.chn.ports := by simp only [s2]; split <;> rfl
  have e3 : ∀ t : State, t.chn.ports = s2.chn.ports → (t.port p).st = .down ∧ ∀ k, k ≠ p → t.port k = s.port k := by
    intro t ht
    have : ∀ k, t.port k = (s.modPort p (fun x => { x with st := .down, marks := false, pairs := 0, seen := false, back := 0 })).port k := by
      intro k; unfold State.port; rw [ht, e2, e1]
    refine ⟨?_, fun k hk => ?_⟩
    · rw [this, port_mod _ _ _ h]
    · rw [this, port_ne _ _ _ _ hk]
  split
  · exact e3 _ (by rw [stage_chn])
  · exact e3 _ rfl

theorem toUp_port (s : State) (p) (h : p < s.chn.ports.length) : ((s.toUp p).port p).st = .up ∧ ∀ k, k ≠ p → (s.toUp p).port k = s.port k := by
  unfold State.toUp
  have e3 : ∀ k, ((s.moveTime (fun s => s.modPort p (fun x => { x with st := .up, marks := false, pairs := 0, seen := false, back := 0, missed := 0, upOt := s.pwr.ot }))).stage 0x0100 0 (b1 p)).port k = (s.modPort p (fun x => { x with st := .up, marks := false, pairs := 0, seen := false, back := 0, missed := 0, upOt := s.pwr.ot })).port k := by
    intro k; unfold State.port; rw [stage_chn, move_chn]
  refine ⟨?_, fun k hk => ?_⟩
  · rw [e3, port_mod _ _ _ h]
  · rw [e3, port_ne _ _ _ _ hk]

theorem hold_chn (s : State) (c : Nat) : (s.holdover c).chn = s.chn :=
  Keeps.same (keeps_holdover (K := [.irq, .ring, .trip, .clk, .ptp]) c rfl (Keeps.refl _ s)) (p := .chn) (by decide)

theorem hold2 (s : State) (c : Nat) (h : s.ptp.state = 1 ∨ s.ptp.state = 2) : (s.holdover c).ptp.state = 3 ∧ c ∈ (s.holdover c).ptp.causes := by
  unfold State.holdover
  extract_lets add sy adj
  rw [if_pos h, stage_ptp]
  have : c ∈ (add s.ptp).causes := by simp only [add]; split <;> simp_all
  unfold State.leaveLock
  split <;> exact ⟨rfl, this⟩

theorem end_chn (s : State) (a b c) : (s.endJob a b c).chn = s.chn :=
  Keeps.same (keeps_endJob (K := [.irq, .job, .ring, .trip]) a b c rfl (Keeps.refl _ s)) (p := .chn) (by decide)

theorem end_hist (s : State) (n a b : Nat) (j : Job) (h : s.job.out.find? (fun j => j.ticket = n) = some j) : (s.endJob n a b).job.hist = (({ ticket := n, state := a, reason := b } : JobEnd) :: s.job.hist).take 16 := by
  unfold State.endJob
  rw [h]
  simp

theorem jobOf_found (s : State) (k : Nat) (j : Job) (h : s.jobOf k = some j) : ∃ j', s.job.out.find? (fun x => x.ticket = j.ticket) = some j' := by
  have hm : j ∈ s.job.out := by unfold State.jobOf at h; exact List.mem_of_find?_eq_some h
  cases hf : s.job.out.find? (fun x => decide (x.ticket = j.ticket)) with
  | some x => exact ⟨x, rfl⟩
  | none => rw [List.find?_eq_none] at hf; exact absurd (by simp) (hf j hm)

theorem check_chn (s : State) : ∃ m, s.checkAddr.chn = { s.chn with mismatch := m } := by
  unfold State.checkAddr
  extract_lets bad was s1
  split
  · exact ⟨bad, by rw [stage_chn]; rfl⟩
  · exact ⟨bad, rfl⟩

theorem setAddr_chn (s : State) (a c f) : ∃ m, (s.setAddr a c f).chn = { s.chn with addr := a, conflict := c, full := f, mismatch := m } := check_chn (s.modChn (fun x => { x with addr := a, conflict := c, full := f }))

/-- A port without what a cycle's pairs and forwarded slots leave in it. -/
def ckPort (p : ChnPort) : ChnPort := { p with pairs := 0, relay := [], relayed := [] }

/-- What the settling of the express path may change of the chain apart from the ports' counts of pairs. -/
def ckCore (c : Chain) : Chain := { c with ports := [], peak := 0, held := 0, sent := [], heldCodes := [] }

def CK (s t : State) : Prop := ckCore t.chn = ckCore s.chn ∧ t.chn.ports.map ckPort = s.chn.ports.map ckPort

theorem CK.rfl {s : State} : CK s s := ⟨.refl _, .refl _⟩

theorem CK.trans {s t u : State} (h : CK s t) (k : CK t u) : CK s u := ⟨k.1.trans h.1, k.2.trans h.2⟩

theorem CK.of {s t : State} (h : t.chn = s.chn) : CK s t := by unfold CK; rw [h]; exact ⟨.refl _, .refl _⟩

theorem CK.foldl {α} {f : State → α → State} (l : List α) (h : ∀ s a, CK s (f s a)) (s : State) : CK s (l.foldl f s) := by
  induction l generalizing s with
  | nil => exact .rfl
  | cons a r ih => exact (h s a).trans (ih _)

theorem map_modify {l : List ChnPort} {i : Nat} {f : ChnPort → ChnPort} (h : ∀ p, ckPort (f p) = ckPort p) : (modNth l i f).map ckPort = l.map ckPort := by
  unfold modNth
  apply List.ext_getElem
  · simp
  · intro k h1 h2
    simp only [List.getElem_map, List.getElem_modify]
    split
    · exact h _
    · exact .refl _

theorem map_fold (on : List Nat) {f : ChnPort → ChnPort} (h : ∀ p, ckPort (f p) = ckPort p) (l : List ChnPort) : (on.foldl (fun l i => modNth l i f) l).map ckPort = l.map ckPort := by
  induction on generalizing l with
  | nil => exact .refl _
  | cons a r ih => exact (ih _).trans (map_modify h)

theorem ck_insertPair (s : State) (on a b) : CK s (s.insertPair on a b) := by
  unfold State.insertPair
  extract_lets up room ports peak twice ch s1
  have h : CK s s1 := ⟨.refl _, map_fold on (fun p => by split <;> exact .refl _) _⟩
  split
  · exact h.trans (.of (stage_chn ..))
  · exact h

theorem ck_sendGroup (s : State) (on g b) : CK s (s.sendGroup on g b) := by
  unfold State.sendGroup
  split
  · split
    · exact .rfl
    · exact .of (stageTick_chn ..)
  · exact ck_insertPair ..

theorem ck_repeat (s : State) (on) : CK s (s.repeatGroups on) := by
  unfold State.repeatGroups
  refine CK.foldl _ (fun s g => ?_) _
  split
  · exact ck_sendGroup ..
  · exact .rfl

theorem core_eq {a b : Chain} (h : ckCore a = ckCore b) : a.sender = b.sender ∧ a.second = b.second ∧ a.cycle = b.cycle ∧ a.upstream = b.upstream ∧ a.ring = b.ring ∧ a.noRoot = b.noRoot ∧ a.marksLost = b.marksLost ∧ a.addr = b.addr ∧ a.senderAddr = b.senderAddr ∧ a.slotOut = b.slotOut ∧ a.mgmtOut = b.mgmtOut ∧ a.src = b.src :=
  ⟨by have k := congrArg Chain.sender h; exact k, by have k := congrArg Chain.second h; exact k, by have k := congrArg Chain.cycle h; exact k, by have k := congrArg Chain.upstream h; exact k, by have k := congrArg Chain.ring h; exact k, by have k := congrArg Chain.noRoot h; exact k, by have k := congrArg Chain.marksLost h; exact k, by have k := congrArg Chain.addr h; exact k, by have k := congrArg Chain.senderAddr h; exact k,
    by have k := congrArg Chain.slotOut h; exact k, by have k := congrArg Chain.mgmtOut h; exact k, by have k := congrArg Chain.src h; exact k⟩

theorem count_chn (s : State) (p l) : (s.countSymbols p l).chn = { s.chn with ports := (s.countSymbols p l).chn.ports } := .refl _

theorem relay_chn (s : State) (p k l) : (s.relaySlot p k l).chn = { s.chn with ports := (s.relaySlot p k l).chn.ports } := by
  unfold State.relaySlot; split <;> exact .refl _

theorem relay_port (s : State) (p k l) : (∀ q, q ≠ 1 - p → (s.relaySlot p k l).port q = s.port q) ∧
    (s.portUp (1 - p) = true → 1 - p < s.chn.ports.length → lookupD ((s.relaySlot p k l).port (1 - p)).relay k [] = l.map symForward) := by
  unfold State.relaySlot
  split
  · exact ⟨fun q hq => nth_modNth_ne (Ne.symm hq), fun _ hl => by
      rw [show (State.port (s.modPort (1 - p) _) (1 - p)) = _ from nth_modNth_self hl, lookupD_insertKey, if_pos (Eq.refl k)]⟩
  · rename_i h; exact ⟨fun _ _ => .refl _, fun h1 => absurd h1 h⟩

theorem src_insert (s : State) (a b : Nat) (f) : (s.modSrc a f).src b = if a = b then f (s.src a) else s.src b := by
  unfold State.modSrc State.src State.modChn
  simp only [lookupD_insertKey]

theorem src_stage (s : State) (a b c) (k : Nat) : (s.stage a b c).src k = s.src k := by unfold State.src; rw [stage_chn]

theorem info_keeps (x : ChnSrc) (i : Nat) (w : Word) : (x.info i w).words = x.words ∧ (x.info i w).digests = x.digests := by
  unfold ChnSrc.info; split <;> exact ⟨rfl, rfl⟩

theorem fp_src (s : State) (a : Nat) : (∃ b, (s.fpCheck a).src a = { s.src a with fpTold := b }) ∧ (∀ k, k ≠ a → (s.fpCheck a).src k = s.src k) ∧ (s.fpCheck a).chn.ports = s.chn.ports ∧ (s.fpCheck a).chn.addr = s.chn.addr := by
  unfold State.fpCheck
  extract_lets x
  split
  · split
    · refine ⟨⟨true, ?_⟩, fun k hk => ?_, ?_⟩
      · rw [src_stage, src_insert, if_pos rfl]
      · rw [src_stage, src_insert, if_neg (Ne.symm hk)]
      · rw [stage_chn]; exact ⟨rfl, rfl⟩
    · exact ⟨⟨_, rfl⟩, fun _ _ => rfl, rfl, rfl⟩
  · exact ⟨⟨_, rfl⟩, fun _ _ => rfl, rfl, rfl⟩

theorem crc_lt (l : List Byte) : crc32c l < 2 ^ 32 := by unfold crc32c; exact BitVec.isLt _

theorem padLen (n : Nat) (l : List Byte) : (padTo n l).length = n := length_padTo ..

theorem b4_field (b : List Byte) (n v : Nat) (hn : b.length = n) (hv : v < 2 ^ 32) : field (b ++ b4 v) n 4 = v ∧ (b ++ b4 v).take n = b := by
  subst hn
  constructor
  · unfold field slice
    rw [List.drop_left]
    simp [b4, leBytes, padTo, zeros, leNat]; omega
  · simp

theorem sealed_mk (b : List Byte) (n : Nat) (hn : b.length = n) : SlotSealed n (b ++ b4 (crc32c b)) := by
  obtain ⟨h1, h2⟩ := b4_field b n (crc32c b) hn (crc_lt _)
  refine ⟨by rw [List.length_append, hn]; rfl, ?_⟩
  rw [h1, h2]

theorem mgmt_sealed (a b c d : List Byte) : SlotSealed 0x3F4 (mgmtSlot a b c d) := by
  unfold mgmtSlot
  exact sealed_mk _ _ (padLen ..)

theorem padZero (n k : Nat) : padTo n (zeros k) = zeros n := by
  unfold padTo zeros
  rw [List.length_replicate, List.replicate_append_replicate, List.take_replicate]
  congr 1; omega

theorem zeros_app (a b : Nat) : zeros a ++ zeros b = zeros (a + b) := List.replicate_append_replicate

theorem padNil (n : Nat) : padTo n [] = zeros n := padZero n 0

theorem nthZero (n k : Nat) (l : List Byte) (h : k < n) : nth (zeros n ++ l) k = 0 := by
  unfold nth zeros
  rw [List.getD_eq_getElem?_getD, List.getElem?_append_left (by simpa using h)]
  simp [h]

theorem bytes_data (l : List RxSym) : ∀ b, slotBytes l = some b ↔ l = b.map RxSym.data := by
  induction l with
  | nil => intro b; cases b <;> simp [slotBytes]
  | cons a r ih =>
    intro b
    cases a with
    | data x =>
      simp only [slotBytes, Option.map_eq_some_iff]
      constructor
      · rintro ⟨c, hc, rfl⟩; rw [(ih c).mp hc]; rfl
      · intro h
        cases b with
        | nil => cases h
        | cons y c => simp only [List.map_cons, List.cons.injEq, RxSym.data.injEq] at h; exact ⟨c, (ih c).mpr h.2, by rw [h.1]⟩
    | _ => constructor
           · intro h; cases h
           · intro h; cases b <;> simp at h

theorem ck_sendGroups (s : State) : CK s s.sendGroups := by
  unfold State.sendGroups
  extract_lets old now s1
  refine CK.trans (t := s1) (.of (.refl _)) (CK.foldl _ (fun s g => ?_) _)
  split
  · exact ck_sendGroup ..
  · exact .rfl

theorem ck_settle (s : State) : CK s s.fastSettle := by
  unfold State.fastSettle
  extract_lets rows xrx o s1 s2 s3
  refine CK.trans (t := s1) (.of (.refl _)) (CK.trans (t := s2) (CK.foldl _ (fun s g => ?_) _) (CK.trans (t := s3) (CK.foldl _ (fun s g => ?_) _) (ck_sendGroups _)))
  · split
    · exact .of (stageTick_chn ..)
    · exact .rfl
  · split
    · exact .of (stageTick_chn ..)
    · exact .rfl

theorem ck_apply (s : State) (n) : CK s (s.applyState n) := by
  unfold State.applyState
  extract_lets s1 s2 c1 c2 s3 s4
  have h1 : s1.chn = s.chn := by
    simp only [s1]; split
    · exact Keeps.same (keeps_holdOutputs (K := [.fio]) rfl (Keeps.refl _ s)) (p := .chn) (by decide)
    · exact .refl _
  have h2 : s2.chn = s1.chn := by
    simp only [s2]; split
    · exact Keeps.same (keeps_markTest (K := [.flt]) _ rfl (Keeps.refl _ s1)) (p := .chn) (by decide)
    · exact .refl _
  have h3 : s3.chn = s2.chn := .refl _
  clear_value s3
  have h4 : s4.chn = s3.chn := by simp only [s4]; split <;> exact .refl _
  clear_value s4
  have h : CK s s4 := .of (h4.trans (h3.trans (h2.trans h1)))
  exact (h.trans (ck_settle s4)).trans (.of (Keeps.same (keeps_followOutputs (K := [.fio]) rfl (Keeps.refl _ s4.fastSettle)) (p := .chn) (by decide)))

theorem ck_change (s : State) (n c) : CK s (s.changeState n c) := by
  unfold State.changeState
  extract_lets old s1 s2 c1 s3 s4
  have h1 : s1.chn = s.chn := by
    simp only [s1]; split
    · exact Keeps.same (keeps_endForeground (K := [.irq, .job, .ring, .trip, .afe, .flt]) rfl (Keeps.refl _ s)) (p := .chn) (by decide)
    · exact .refl _
  have h2 : CK s1 s2 := CK.trans (t := s1.timeService n) (.of (Keeps.same (keeps_timeService (K := [.pwr]) n rfl (Keeps.refl _ s1)) (p := .chn) (by decide))) (ck_apply ..)
  have e3 : ∀ u : State, ({ u with sys := { u.sys with lastCause := c, failFrom := if n = OpState.failsafe then old else u.sys.failFrom } } : State).chn = u.chn := fun _ => .refl _
  have e3 : s3.chn = s2.chn := e3 s2
  have h3 : s4.chn = s2.chn := by
    simp only [s4]; split
    · exact (setNme_chn s3 0).trans e3
    · exact e3
  clear_value s4
  have h4 : ∀ (u : State) (a b c), ((u.setIrq 0).stage a b c).chn = u.chn := fun u a b c => (stage_chn ..).trans (.refl _)
  exact (CK.of h1).trans (h2.trans (.of ((h4 ..).trans h3)))

theorem ck_take (s : State) : CK s s.takeover := by
  unfold State.takeover
  extract_lets r s1 s2
  have h1 : CK s s1 := (ck_change s .inService 9).trans (.of (setNme_chn ..))
  clear_value s1
  have h2 : s2.chn = s1.chn := .refl _
  clear_value s2
  exact h1.trans (.of ((stage_chn ..).trans h2))

theorem ck_hinge (s : State) : CK s s.hingeCycle := by
  unfold State.hingeCycle
  split
  · exact .rfl
  · extract_lets x d s1
    have h1 : CK s s1 := .of (by simp only [s1]; split <;> exact .refl _)
    split
    · exact h1.trans (ck_take _)
    · exact h1

theorem pop_chn (s : State) : s.popAnchor.2.chn = s.chn := by
  unfold State.popAnchor
  extract_lets set
  split
  · rfl
  · split
    · split <;> rfl
    · rfl

theorem send_chn (s : State) : ∃ o, s.sendSlot.chn = { s.chn with slotOut := o } := by
  unfold State.sendSlot
  split
  · exact ⟨[], rfl⟩
  · extract_lets a slot
    refine ⟨slot, ?_⟩
    have : (a.2.modChn (fun x => { x with slotOut := slot })).chn = { a.2.chn with slotOut := slot } := rfl
    rw [this]
    have : a.2.chn = s.chn := pop_chn s
    rw [this]

theorem newCycle_spec (s : State) : let t := s.newCycle
    t.chn.sender = s.chn.sender ∧ t.chn.second = s.chn.second ∧ t.chn.cycle = s.chn.cycle ∧ t.chn.upstream = s.chn.upstream ∧ t.chn.ring = s.chn.ring ∧ t.chn.noRoot = s.chn.noRoot ∧ t.chn.marksLost = s.chn.marksLost ∧
    t.chn.addr = s.chn.addr ∧ t.chn.senderAddr = s.chn.senderAddr ∧ t.chn.ports.map ckPort = s.chn.ports.map ckPort := by
  intro t
  simp only [t]
  unfold State.newCycle
  extract_lets s1
  have hp : s1.chn.ports.map ckPort = s.chn.ports.map ckPort := by
    have : s1.chn.ports = s.chn.ports.map (fun p => { p with pairs := 0, relay := [], relayed := [] }) := rfl
    rw [this, List.map_map]; rfl
  have e1 : s1.chn.sender = s.chn.sender ∧ s1.chn.second = s.chn.second ∧ s1.chn.cycle = s.chn.cycle ∧ s1.chn.upstream = s.chn.upstream ∧ s1.chn.ring = s.chn.ring ∧ s1.chn.noRoot = s.chn.noRoot ∧ s1.chn.marksLost = s.chn.marksLost ∧
    s1.chn.addr = s.chn.addr ∧ s1.chn.senderAddr = s.chn.senderAddr := ⟨rfl, rfl, rfl, rfl, rfl, rfl, rfl, rfl, rfl⟩
  clear_value s1
  have h : CK s1 (s1.ageCodes.hingeCycle.repeatGroups [0, 1]) := (CK.of (s := s1) (t := s1.ageCodes) rfl).trans ((ck_hinge _).trans (ck_repeat _ _))
  obtain ⟨o, e⟩ := send_chn (s1.ageCodes.hingeCycle.repeatGroups [0, 1])
  rw [e]
  obtain ⟨h1, h2⟩ := h
  obtain ⟨a1, a2, a3, a4, a5, a6, a7, a8, a9, -⟩ := core_eq h1
  obtain ⟨b1, b2, b3, b4, b5, b6, b7, b8, b9⟩ := e1
  exact ⟨a1.trans b1, a2.trans b2, a3.trans b3, a4.trans b4, a5.trans b5, a6.trans b6, a7.trans b7, a8.trans b8, a9.trans b9, h2.trans hp⟩

theorem mgmt_sealed_k4 (a b c d : List Byte) : SlotSealed 0x3F4 (mgmtSlot a b c d) := by
  unfold mgmtSlot
  exact sealed_mk _ _ (length_padTo ..)

theorem src_wall (s : State) (old : Nat) : (s.srcMoved old).ptp.sec = s.ptp.sec ∧ (s.srcMoved old).ptp.ns = s.ptp.ns ∧ (s.srcMoved old).ptp.ot = s.ptp.ot := by
  have lk : ∀ u : State, u.leaveLock.ptp = u.ptp := fun u => by unfold State.leaveLock; split <;> rfl
  have ta : ∀ u : State, u.toAcquiring.ptp.sec = u.ptp.sec ∧ u.toAcquiring.ptp.ns = u.ptp.ns ∧ u.toAcquiring.ptp.ot = u.ptp.ot := fun u => by
    unfold State.toAcquiring; unfold State.leaveLock; split <;> exact ⟨rfl, rfl, rfl⟩
  have hend : ∀ u : State, u.endHoldover.ptp.sec = u.ptp.sec ∧ u.endHoldover.ptp.ns = u.ptp.ns ∧ u.endHoldover.ptp.ot = u.ptp.ot := fun u => by
    unfold State.endHoldover; split
    · exact ta u
    · exact ⟨rfl, rfl, rfl⟩
  unfold State.srcMoved
  extract_lets new s1
  split
  · exact ⟨rfl, rfl, rfl⟩
  · have e : s1.ptp.sec = s.ptp.sec ∧ s1.ptp.ns = s.ptp.ns ∧ s1.ptp.ot = s.ptp.ot := ⟨rfl, rfl, rfl⟩
    split
    · unfold State.leaveLock; split <;> exact ⟨rfl, rfl, rfl⟩
    · split
      · rw [(ta s1).1, (ta s1).2.1, (ta s1).2.2]; exact e
      · split
        · rw [(hend s1).1, (hend s1).2.1, (hend s1).2.2]; exact e
        · exact e

theorem move_next (s : State) (f) (h1 : (f s).ptp = s.ptp) (h2 : (f s).pwr = s.pwr) (h3 : (f s).chn.second = s.chn.second) (h4 : (f s).chn.cycle = s.chn.cycle) : (s.moveTime f).nextCycle = s.nextCycle := by
  have e1 := src_wall (f s) s.srcEff
  have e2 : (s.moveTime f).pwr = s.pwr := (Keeps.same (keeps_srcMoved (K := [.clk, .ptp]) s.srcEff rfl (Keeps.refl _ (f s))) (p := .pwr) (by decide)).trans h2
  have e3 := move_chn s f
  have ew : wallAt (s.moveTime f).ptp (s.moveTime f).pwr.ot = wallAt s.ptp s.pwr.ot := by
    unfold wallAt
    rw [e2]
    have : (s.moveTime f).ptp.sec = s.ptp.sec ∧ (s.moveTime f).ptp.ns = s.ptp.ns ∧ (s.moveTime f).ptp.ot = s.ptp.ot := ⟨e1.1.trans (by rw [h1]), e1.2.1.trans (by rw [h1]), e1.2.2.trans (by rw [h1])⟩
    rw [this.1, this.2.1, this.2.2]
  unfold State.nextCycle State.cycleNear State.nowNs
  rw [ew, e3, h3, h4]

theorem map_core {l l' : List ChnPort} (h : l.map (fun p => { p with pairs := 0 }) = l'.map (fun p => { p with pairs := 0 })) : l.map (fun p => p.st) = l'.map (fun p => p.st) := by
  have := congrArg (List.map (fun p : ChnPort => p.st)) h
  simpa [Function.comp_def] using this

theorem portUp_core {s t : State} (h : t.chn.ports.map (fun p => p.st) = s.chn.ports.map (fun p => p.st)) (k : Nat) : t.portUp k = s.portUp k := by
  have : ∀ u : State, (u.port k).st = (u.chn.ports.map (fun p => p.st)).getD k default := by
    intro u
    unfold State.port nth
    simp only [List.getD_eq_getElem?_getD, List.getElem?_map]
    cases u.chn.ports[k]? <;> rfl
  unfold State.portUp
  rw [this t, this s, h]

theorem count_map (l : List ChnPort) : (l.map countBack).map (fun p => p.st) = l.map (fun p => p.st) := by
  rw [List.map_map]; apply List.map_congr_left; intro p _; simp only [Function.comp, countBack]; split <;> rfl

theorem time_chn (s : State) (o : Rat) : (s.markTime o).chn = s.chn :=
  Keeps.same (keeps_markTime (K := [.irq, .ring, .trip, .clk, .ptp, .svc]) o rfl (Keeps.refl _ s)) (p := .chn) (by decide)

theorem tgtrmt : (∃ r, targetOf 0x403C = some (.reg r) ∧ r.mask ≠ 0) ∧ (∃ t, targetOf 0x4050 = some t) := ⟨⟨_, rfl, by decide⟩, ⟨_, rfl⟩⟩

theorem mb_mod (s : State) (m : Nat) (f) (h : m < s.chn.mbox.length) : (s.modMbox m f).mbox m = f (s.mbox m) := nth_modNth_self h

theorem mb_ne (s : State) (m k : Nat) (f) (h : k ≠ m) : (s.modMbox m f).mbox k = s.mbox k := nth_modNth_ne (Ne.symm h)

end Sys2Proof.Facts.ChainRules
end

