-- ==== Sys2Proof/Laws/ClockRules.lean ====
section
/-! SUPPORT. Clock fallback, recovery, trims, gates. Lemmas about the operations of these rows, for the proofs of the statements about them. -/

namespace Sys2Proof.Facts.ClockRules

open Sys2Proof Sys2Proof.Machine

/-- What a raise of the operating point may change of the clock fields. -/
def ClkRaise (s t : State) : Prop := t.clk = { s.clk with lastRaise := t.clk.lastRaise, railHigh := t.clk.railHigh, ramping := t.clk.ramping, settled := t.clk.settled, raises := t.clk.raises }

theorem ClkRaise.of {s t : State} (h : t.clk = s.clk) : ClkRaise s t := by unfold ClkRaise; rw [h]

theorem ClkRaise.trans {s t u : State} (h : ClkRaise s t) (k : ClkRaise t u) : ClkRaise s u := by unfold ClkRaise at *; rw [k, h]

theorem ClkRaise.foldl {α} {f : State → α → State} (l : List α) (h : ∀ s a, ClkRaise s (f s a)) (s : State) : ClkRaise s (l.foldl f s) := by
  induction l generalizing s with
  | nil => exact .of rfl
  | cons a r ih => exact (h s a).trans (ih _)

theorem raise_clk (s : State) : ClkRaise s s.raiseOp := by
  unfold State.raiseOp State.railUp
  extract_lets u
  split
  · exact .refl _
  · split <;> exact .refl _

theorem qualify_clk (s : State) (c r : Nat) : (s.qualify c r).clk = s.clk := Keeps.same (keeps_qualify (K := [.irq, .ring, .trip, .fst]) c r rfl (Keeps.refl _ s)) (p := .clk) (by decide)

theorem arcEval_clk (s : State) (c : Nat) : ClkRaise s (s.arcEval c) := by
  unfold State.arcEval
  extract_lets x on u
  split
  · exact (ClkRaise.of (s := s) (t := u) rfl).trans (raise_clk u)
  · exact .of rfl

theorem arcJudge_clk (s : State) (a : Nat) : ClkRaise s (s.arcJudge a) := by
  unfold State.arcJudge
  extract_lets keep u cur
  refine ClkRaise.trans (.of (qualify_clk ..)) (ClkRaise.trans (t := u.modCmp a _) (.of rfl) (arcEval_clk _ a))

theorem fastQual_clk (s : State) : ClkRaise s s.fastQual := by
  unfold State.fastQual
  extract_lets u
  have h1 : ClkRaise s u := ClkRaise.foldl _ (fun s c => by
    split
    · exact .of rfl
    · split
      · exact .of rfl
      · exact .of (qualify_clk ..)) s
  refine h1.trans (ClkRaise.trans (ClkRaise.foldl _ (fun s a => ?_) u) (.of (Keeps.same (keeps_fastSettle (K := [.irq, .ring, .trip, .fst, .chn]) rfl (Keeps.refl _ _)) (p := .clk) (by decide))))
  split
  · exact arcJudge_clk ..
  · exact .of rfl

theorem autoState_st (s : State) (n : OpState) (c : Nat) : (s.autoState n c).sys.st = n ∧ (s.autoState n c).sys.lastCause = c := ⟨changeState_st _ _ _, changeState_lastCause _ _ _⟩

theorem fin_nme (x : State) : (x.fastSettle.followOutputs).sys.nme = x.sys.nme :=  (keeps_followOutputs (K := [.irq, .ring, .trip, .fst, .fio, .chn]) (hM := rfl) (keeps_fastSettle (hM := rfl) (Keeps.refl _ x))).1.2 .nme (by decide)

theorem fin_hng (x : State) : (x.fastSettle.followOutputs).hng = x.hng :=  (keeps_followOutputs (K := [.irq, .ring, .trip, .fst, .fio, .chn]) (hM := rfl) (keeps_fastSettle (hM := rfl) (Keeps.refl _ x))).1.2 .hng (by decide)

theorem changeState_nme (s : State) (n : OpState) (c : Nat) : (s.changeState n c).sys.nme = if n = .failsafe then setBit s.sys.nme 0 else s.sys.nme := by
  have ef : s.endForeground.sys.nme = s.sys.nme := (keeps_endForeground (K := [.irq, .job, .ring, .trip, .afe, .flt]) (hM := rfl) (Keeps.refl _ s)).1.2 .nme (by decide)
  have tm : ∀ x : State, (x.timeService n).sys.nme = x.sys.nme := fun x => (keeps_timeService (K := [.pwr]) (hM := rfl) _ (Keeps.refl _ x)).1.2 .nme (by decide)
  have ho : ∀ x : State, x.holdOutputs.sys.nme = x.sys.nme := fun x => (keeps_holdOutputs (K := [.fio]) (hM := rfl) (Keeps.refl _ x)).1.2 .nme (by decide)
  have mt : ∀ (x : State) b, (x.markTest b).sys.nme = x.sys.nme := fun x b => (keeps_markTest (K := [.flt]) b (hM := rfl) (Keeps.refl _ x)).1.2 .nme (by decide)
  have ap : ∀ x : State, (x.applyState n).sys.nme = x.sys.nme := by
    intro x
    unfold State.applyState
    simp only [fin_nme]
    split <;> simp only [State.modFio] <;> split <;> (try split) <;> simp [ho, mt]
  unfold State.changeState
  have sg : ∀ (x : State) a b l, (x.stage a b l).sys.nme = x.sys.nme := fun x a b l => stage_same x a b l (p := .nme) (by decide)
  simp only [sg]
  split <;> simp only [State.setIrq, State.setNme, ap, tm] <;> split <;> simp [ef]

theorem nme_change (s : State) (c : Nat) : (s.changeState .failsafe c).sys.nme = setBit s.sys.nme 0 := by rw [changeState_nme, if_pos rfl]

theorem qual_keeps (s : State) {p : Part} (hp : p ∉ [Part.irq, .ring, .trip, .clk, .fst, .chn]) : Same s s.fastQual p :=
  (keeps_fastQual (K := [.irq, .ring, .trip, .clk, .fst, .chn]) (hM := rfl) (Keeps.refl _ s)).1.2 p hp

theorem level1_fell (s : State) (k : Nat) : FellToOne k s (s.enterLevel1 k) ∧ (s.enterLevel1 k).clk.refStable = s.clk.refStable ∧ (s.enterLevel1 k).clk.freq = s.clk.freq := by
  unfold State.enterLevel1
  extract_lets loc u w
  have hw : ∀ p, p ∉ [Part.irq, .ring, .trip, .nme, .clk, .pe] → Same s w p := by
    intro p hp
    have a : Same (u.setNme 1) w p := stage_same _ _ _ _ (fun h => hp (by simp at h; rcases h with h | h | h <;> subst h <;> decide))
    cases p <;> first | exact absurd (by decide) hp | exact a
  have wc : w.clk = u.clk := stage_same (u.setNme 1) _ _ _ (p := .clk) (by decide)
  have wp : w.pe = u.pe := stage_same (u.setNme 1) _ _ _ (p := .pe) (by decide)
  have wn : w.sys.nme = setBit s.sys.nme 1 := stage_same (u.setNme 1) _ _ _ (p := .nme) (by decide)
  generalize hv : w.fastQual = v
  have vs : ∀ {p : Part}, p ∉ [Part.irq, .ring, .trip, .clk, .fst, .chn] → Same w v p := fun {p} hp => by rw [← hv]; exact qual_keeps w hp
  have vc : v.clk = { u.clk with lastRaise := v.clk.lastRaise, railHigh := v.clk.railHigh, ramping := v.clk.ramping, settled := v.clk.settled, raises := v.clk.raises } := by
    have : ClkRaise w v := by rw [← hv]; exact fastQual_clk w
    rw [← wc]; exact this
  have vp : v.pe = u.pe := (vs (p := .pe) (by decide)).trans wp
  have vn : v.sys.nme = setBit s.sys.nme 1 := (vs (p := .nme) (by decide)).trans wn
  have vst : v.sys.st = s.sys.st := (vs (p := .st) (by decide)).1.trans (hw .st (by decide)).1
  have vpw : v.pwr = s.pwr := (vs (p := .pwr) (by decide)).trans (hw .pwr (by decide))
  have vr : v.opPin = s.opPin := by
    have a : v.regs = s.regs := (vs (p := .regs) (by decide)).trans (hw .regs (by decide))
    unfold State.opPin State.reg; rw [a]
  have uc : u.clk.level = 1 ∧ u.clk.cause = k ∧ u.clk.level1 = satInc 255 s.clk.level1 ∧ u.clk.ref = 1 ∧ u.clk.refOk = false ∧ u.clk.sysSrc = 1 ∧ u.clk.sysLock = false ∧ u.clk.muxForced = true ∧ u.clk.convLock = false ∧
    u.clk.convHold = (s.clk.convHold || s.clk.convLock) ∧ u.clk.laneLock = (s.clk.laneLock && !s.localLane) ∧ u.clk.refStable = s.clk.refStable ∧ u.clk.freq = s.clk.freq := (by and_intros <;> rfl)
  have up : u.pe.att = s.pe.att.map (fun a => if a.st = .running ∨ a.st = .reexec then { a with st := .discarded } else a) := rfl
  obtain ⟨u1, u2, u3, u4, u5, u6, u7, u8, u9, u10, u11, u12, u13⟩ := uc
  clear_value u
  have key : ∀ x : Clocks, x = v.raiseOp.clk → (x.level = u.clk.level ∧ x.cause = u.clk.cause ∧ x.level1 = u.clk.level1 ∧ x.ref = u.clk.ref ∧ x.refOk = u.clk.refOk ∧ x.sysSrc = u.clk.sysSrc ∧ x.sysLock = u.clk.sysLock ∧ x.muxForced = u.clk.muxForced ∧ x.convLock = u.clk.convLock ∧ x.convHold = u.clk.convHold ∧ x.laneLock = u.clk.laneLock ∧ x.refStable = u.clk.refStable ∧ x.freq = u.clk.freq) ∧ x.lastRaise = v.pwr.ot ∧ (v.opPin ≠ 1 → v.pwr.pf = .none → x.railHigh = true) := by
    intro x hx
    subst hx
    unfold State.raiseOp
    extract_lets src y
    have yo : y.opPin = v.opPin := rfl
    have yp : y.pwr = v.pwr := rfl
    have yc : y.clk = { v.clk with lastRaise := v.pwr.ot } := rfl
    by_cases q : y.opPin = 1 ∨ y.pwr.pf ≠ .none
    · rw [if_pos q, yc, vc]
      refine ⟨(by and_intros <;> rfl), rfl, fun a b => ?_⟩
      rw [yo, yp] at q; rcases q with q | q
      · exact absurd q a
      · exact absurd b q
    · rw [if_neg q]
      unfold State.railUp
      by_cases g : y.clk.railHigh = true
      · rw [if_pos g]; rw [yc] at g; rw [yc, vc]; rw [vc] at g
        exact ⟨(by and_intros <;> rfl), rfl, fun _ _ => g⟩
      · rw [if_neg g]; dsimp only; rw [yc, vc]
        exact ⟨(by and_intros <;> rfl), rfl, fun _ _ => rfl⟩
  obtain ⟨⟨k1, k2, k3, k4, k5, k6, k7, k8, k9, k10, k11, k12, k13⟩, k14, k15⟩ := key _ rfl
  have rs : ∀ {p : Part}, p ∉ [Part.clk] → Same v v.raiseOp p := fun {p} hp => (keeps_raiseOp (K := [.clk]) (hM := rfl) (Keeps.refl _ v)).1.2 p hp
  refine ⟨⟨k1.trans u1, k2.trans u2, k3.trans u3, k4.trans u4, k5.trans u5, k6.trans u6, k7.trans u7, k8.trans u8, k9.trans u9, k10.trans u10, k11.trans u11, k14.trans (by rw [vpw]), fun a b => k15 (by rw [vr]; exact a) (by rw [vpw]; exact b), ?_, ?_, ?_⟩, k12.trans u12, k13.trans u13⟩
  · rw [show v.raiseOp.pe = v.pe from rs (p := .pe) (by decide), vp]; exact up
  · rw [(rs (p := .st) (by decide)).1]; exact vst
  · rw [show v.raiseOp.sys.nme = v.sys.nme from rs (p := .nme) (by decide)]; exact vn

theorem run_iff (st : OpState) : running st = true ↔ st ∈ [OpState.blocked, .inService, .standby, .test] := by cases st <;> decide

theorem level2_fell (s : State) (k : Nat) : FellToTwo k s (s.enterLevel2 k) ∧ (s.enterLevel2 k).clk.refStable = s.clk.refStable ∧ (s.enterLevel2 k).clk.freq = s.clk.freq ∧ (s.enterLevel2 k).clk.ircOk = s.clk.ircOk := by
  unfold State.enterLevel2
  extract_lets u w sy w2 x
  have uc : u.clk = { s.clk with level := 2, cause := k, level2 := satInc 255 s.clk.level2, sysSrc := 2, ref := 2, refOk := false, sysLock := false, muxForced := true, convHold := s.clk.convHold || s.clk.convLock, convLock := false, laneHold := s.clk.laneHold || s.clk.laneLock, laneLock := false, ircTries := 0 } := rfl
  have wc : w.clk = if s.clk.measBusy then { u.clk with measBusy := false, measDone := false } else u.clk := rfl
  have wp : w.pe.att = [] := rfl
  have w0 : ∀ p, p ∉ [Part.clk, .pe] → Same s w p := by
    intro p hp; cases p <;> first | exact absurd (by decide) hp | (unfold Same; repeat' first | exact rfl | apply And.intro)
  have x0 : ∀ p, p ∉ [Part.clk, .pe, .irq, .ring, .trip, .nme, .due] → Same w x p := by
    intro p hp
    have a : Same (w2.setNme 1) x p := stage_same _ _ _ _ (fun h => hp (by simp at h; rcases h with h | h | h <;> subst h <;> decide))
    cases p <;> first | exact absurd (by decide) hp | exact a
  have xc : x.clk = w.clk := stage_same (w2.setNme 1) _ _ _ (p := .clk) (by decide)
  have xp : x.pe = w.pe := stage_same (w2.setNme 1) _ _ _ (p := .pe) (by decide)
  have xn : x.sys.nme = setBit s.sys.nme 1 := stage_same (w2.setNme 1) _ _ _ (p := .nme) (by decide)
  generalize hv : x.fastQual = v
  have vs : ∀ {p : Part}, p ∉ [Part.irq, .ring, .trip, .clk, .fst, .chn] → Same x v p := fun {p} hp => by rw [← hv]; exact qual_keeps x hp
  have vc : v.clk = { w.clk with lastRaise := v.clk.lastRaise, railHigh := v.clk.railHigh, ramping := v.clk.ramping, settled := v.clk.settled, raises := v.clk.raises } := by
    have : ClkRaise x v := by rw [← hv]; exact fastQual_clk x
    rw [← xc]; exact this
  have vp : v.pe = w.pe := (vs (p := .pe) (by decide)).trans xp
  have vn : v.sys.nme = setBit s.sys.nme 1 := (vs (p := .nme) (by decide)).trans xn
  have vst : v.sys.st = s.sys.st ∧ v.sys.shutting = s.sys.shutting := by
    have a := vs (p := .st) (by decide); have b := x0 .st (by decide); have c := w0 .st (by decide)
    exact ⟨a.1.trans (b.1.trans c.1), a.2.2.2.2.1.trans (b.2.2.2.2.1.trans c.2.2.2.2.1)⟩
  clear_value w x
  generalize hz : v.found 4 = z
  have zs : ∀ {p : Part}, p ∉ [Part.causes, .irq, .ring, .trip, .fio, .hng] → Same v z p := fun {p} hp => by rw [← hz]; exact (keeps_found (K := [.causes, .irq, .ring, .trip, .fio, .hng]) (hM := rfl) 4 (Keeps.refl _ v)).1.2 p hp
  have z4 : 4 ∈ z.sys.causes := by
    rw [← hz]; unfold State.found
    have a : (v.addCause 4).checkCauses.sys.causes = (v.addCause 4).sys.causes := (keeps_checkCauses (K := [.irq, .ring, .trip, .fio, .hng]) (hM := rfl) (Keeps.refl _ (v.addCause 4))).1.2 .causes (by decide)
    rw [a]; unfold State.addCause; dsimp only; split
    · assumption
    · simp
  have fs : ∀ {p : Part}, p ∉ [Part.st, .irq, .nme, .job, .ring, .trip, .pwr, .afe, .flt, .fst, .fio, .chn, .hng] → Same z (z.failsafeEntry 4) p := fun {p} hp => (keeps_failsafeEntry (K := [.st, .irq, .nme, .job, .ring, .trip, .pwr, .afe, .flt, .fst, .fio, .chn, .hng]) (hM := rfl) 4 (Keeps.refl _ z)).1.2 p hp
  have fc : (z.failsafeEntry 4).clk = { w.clk with lastRaise := v.clk.lastRaise, railHigh := v.clk.railHigh, ramping := v.clk.ramping, settled := v.clk.settled, raises := v.clk.raises } := ((fs (p := .clk) (by decide)).trans (zs (p := .clk) (by decide))).trans vc
  have fp : (z.failsafeEntry 4).pe.att = [] := by
    have a : (z.failsafeEntry 4).pe = w.pe := ((fs (p := .pe) (by decide)).trans (zs (p := .pe) (by decide))).trans vp
    rw [a]; exact wp
  have f4 : 4 ∈ (z.failsafeEntry 4).sys.causes := by rw [show (z.failsafeEntry 4).sys.causes = z.sys.causes from fs (p := .causes) (by decide)]; exact z4
  have zst : z.sys.st = s.sys.st ∧ z.sys.shutting = s.sys.shutting := by
    have a := zs (p := .st) (by decide)
    exact ⟨a.1.trans vst.1, a.2.2.2.2.1.trans vst.2⟩
  have zn : z.sys.nme = setBit s.sys.nme 1 := (zs (p := .nme) (by decide)).trans vn
  have r1 : s.sys.st ∈ [OpState.blocked, .inService, .standby, .test] → s.sys.shutting = false → (z.failsafeEntry 4).sys.st = .failsafe ∧ (z.failsafeEntry 4).sys.lastCause = 4 ∧ (z.failsafeEntry 4).sys.nme = setBit (setBit s.sys.nme 1) 0 := by
    intro a b
    unfold State.failsafeEntry
    rw [if_pos ⟨by rw [zst.1]; exact (run_iff _).mpr a, z4, by rw [zst.2]; exact b⟩]
    have e1 : (z.autoState .failsafe 4).sys.nme = (z.changeState .failsafe 4).sys.nme := by unfold State.autoState; generalize z.changeState .failsafe 4 = y; rfl
    have e2 := autoState_st z .failsafe 4
    rw [nme_change] at e1
    dsimp only
    generalize z.autoState .failsafe 4 = y at e1 e2 ⊢
    exact ⟨e2.1, e2.2, by rw [← zn]; exact e1⟩
  have r2 : s.sys.st ∉ [OpState.blocked, .inService, .standby, .test] → (z.failsafeEntry 4).sys.st = s.sys.st ∧ (z.failsafeEntry 4).sys.nme = setBit s.sys.nme 1 := by
    intro a
    unfold State.failsafeEntry
    rw [if_neg (fun h => a ((run_iff _).mp (by rw [← zst.1]; exact h.1)))]
    exact ⟨zst.1, zn⟩
  unfold FellToTwo
  rw [fc]
  by_cases q : s.clk.measBusy = true
  · rw [if_pos q, uc] at wc
    rw [wc]
    exact ⟨⟨rfl, rfl, rfl, rfl, rfl, rfl, rfl, rfl, rfl, rfl, rfl, rfl, rfl, fp, f4, r1, r2⟩, rfl, rfl, rfl⟩
  · rw [if_neg q, uc] at wc
    rw [wc]
    exact ⟨⟨rfl, rfl, rfl, rfl, rfl, rfl, rfl, rfl, rfl, rfl, rfl, rfl, by simpa using q, fp, f4, r1, r2⟩, rfl, rfl, rfl⟩

/-- Changes of the clock fields that a fall does not read leave what it makes. -/
theorem fell1_of {k : Nat} {s u t : State} (h : FellToOne k u t) (h1 : u.clk.level1 = s.clk.level1 ∧ u.clk.convHold = s.clk.convHold ∧ u.clk.convLock = s.clk.convLock ∧ u.clk.laneLock = s.clk.laneLock) (h2 : u.localLane = s.localLane) (h3 : u.pwr = s.pwr) (h4 : u.opPin = s.opPin) (h5 : u.pe = s.pe) (h6 : u.sys = s.sys) : FellToOne k s t := by
  obtain ⟨a, b, c, d⟩ := h1
  unfold FellToOne at *; rw [a, b, c, d, h2, h3, h4, h5, h6] at h; exact h

theorem fell2_of {k : Nat} {s u t : State} (h : FellToTwo k u t) (h1 : u.clk.level2 = s.clk.level2 ∧ u.clk.convHold = s.clk.convHold ∧ u.clk.convLock = s.clk.convLock ∧ u.clk.laneLock = s.clk.laneLock ∧ u.clk.laneHold = s.clk.laneHold) (h6 : u.sys.st = s.sys.st ∧ u.sys.shutting = s.sys.shutting ∧ u.sys.nme = s.sys.nme) : FellToTwo k s t := by
  obtain ⟨a, b, c, d, e⟩ := h1; obtain ⟨f, g, i⟩ := h6
  unfold FellToTwo at *; rw [a, b, c, d, e, f, g, i] at h; exact h

theorem refFails_of (s : State) (k : Nat) :
    (s.clk.level ≠ 0 ∨ s.clk.ref ≠ 0 → s.refFails k = { s with clk := { s.clk with refStable := false, refOk := false, freq := 0 } }) ∧
      (s.clk.level = 0 → s.clk.ref = 0 → s.clk.ircOk = true → FellToOne k s (s.refFails k) ∧ (s.refFails k).clk.refStable = false ∧ (s.refFails k).clk.freq = 0) ∧
      (s.clk.level = 0 → s.clk.ref = 0 → s.clk.ircOk = false → FellToTwo k s (s.refFails k) ∧ (s.refFails k).clk.refStable = false ∧ (s.refFails k).clk.freq = 0) := by
  unfold State.refFails
  extract_lets used u
  refine ⟨fun h => ?_, fun h1 h2 h3 => ?_, fun h1 h2 h3 => ?_⟩
  · rw [if_neg (by simp only [used, decide_eq_true_eq]; rintro ⟨a, b⟩; rcases h with h | h <;> exact h (by assumption))]; rfl
  · rw [if_pos (by simp [used, h1, h2])]; unfold State.fallBack
    rw [if_pos (show u.clk.ircOk = true from h3)]
    obtain ⟨a, b, c⟩ := level1_fell u k
    exact ⟨fell1_of a ⟨rfl, rfl, rfl, rfl⟩ rfl rfl rfl rfl rfl, b, c⟩
  · rw [if_pos (by simp [used, h1, h2])]; unfold State.fallBack
    rw [if_neg (show ¬(u.clk.ircOk = true) from by rw [show u.clk.ircOk = s.clk.ircOk from rfl, h3]; decide)]
    obtain ⟨a, b, c, _⟩ := level2_fell u k
    exact ⟨fell2_of a ⟨rfl, rfl, rfl, rfl, rfl⟩ ⟨rfl, rfl, rfl⟩, b, c⟩

theorem tgtcfg : ∃ r, targetOf 0x0800 = some (.reg r) ∧ r.mask ≠ 0 := ⟨_, rfl, by decide⟩

theorem sb_stage (s : State) (x : Clocks) (a b l) : SameBut [.irq, .ring, .trip, .clk] s (({ s with clk := x } : State).stage a b l) := by
  have g := (keeps_stage (K := [.irq, .ring, .trip, .clk]) a b l rfl (Keeps.refl _ ({ s with clk := x } : State))).1
  exact ⟨g.1, fun p hp => by have h := g.2 p hp; cases p <;> first | exact h | exact absurd (by decide) hp⟩

theorem restored_of (s : State) (x : Clocks) : SameBut [.irq, .ring, .trip, .clk] s (({ s with clk := x } : State).clkRestored) ∧ (({ s with clk := x } : State).clkRestored).clk = x := ⟨sb_stage s x _ _ _, stage_clk _ _ _ _⟩

theorem sameClk (s : State) (x : Clocks) (L : List Part) (h : Part.clk ∈ L) : SameBut L s { s with clk := x } :=
  ⟨rfl, fun p hp => by cases p <;> first | exact absurd h hp | (unfold Same; repeat' first | exact rfl | apply And.intro)⟩

theorem sameTrans {L : List Part} {s t u : State} (h : SameBut L s t) (g : SameBut L t u) : SameBut L s u :=
  ⟨g.1.trans h.1, fun p hp => by
    have a := h.2 p hp; have b := g.2 p hp
    cases p <;> simp only [Same] at a b ⊢ <;> simp_all⟩

theorem sameUp {L M : List Part} {s t : State} (h : SameBut L s t) (hw : ∀ p ∈ L, p ∈ M) : SameBut M s t := ⟨h.1, fun p hp => h.2 p (fun q => hp (hw p q))⟩

theorem bit_and3 (w : Word) (n : Nat) (h : n < 2) : bitAt (w &&& 3#32) n = bitAt w n := by
  unfold bitAt
  have : n = 0 ∨ n = 1 := by omega
  rcases this with rfl | rfl
  · simp
  · simp; intro _; decide

theorem srcMoved_hold (s : State) (o : Nat) : (s.srcMoved o).clk.convHold = s.clk.convHold ∧ (s.srcMoved o).clk.laneHold = s.clk.laneHold := by
  have lv : ∀ u : State, u.leaveLock.clk.convHold = u.clk.convHold ∧ u.leaveLock.clk.laneHold = u.clk.laneHold := fun u => by unfold State.leaveLock; split <;> exact ⟨rfl, rfl⟩
  have ac : ∀ u : State, u.toAcquiring.clk.convHold = u.clk.convHold ∧ u.toAcquiring.clk.laneHold = u.clk.laneHold := fun u => lv u
  unfold State.srcMoved
  extract_lets n u
  split
  · exact ⟨rfl, rfl⟩
  · have hu : u.clk = s.clk := rfl
    clear_value u
    rw [← hu]
    split
    · exact lv u
    · split
      · exact ac u
      · split
        · unfold State.endHoldover; split
          · exact ac u
          · exact ⟨rfl, rfl⟩
        · exact ⟨rfl, rfl⟩

theorem portDown_hold (s : State) (p : Nat) : (s.portDown p).clk.convHold = s.clk.convHold ∧ (s.portDown p).clk.laneHold = s.clk.laneHold := by
  unfold State.portDown
  extract_lets was a b
  have ha : a.clk.convHold = s.clk.convHold ∧ a.clk.laneHold = s.clk.laneHold := srcMoved_hold _ _
  have hb : b.clk = a.clk := by simp only [b]; split <;> rfl
  rw [← hb] at ha
  split
  · rw [stage_clk]; exact ha
  · exact ha

theorem portDown_ports (s : State) (p : Nat) : (s.portDown p).chn.ports = (modNth s.chn.ports p (fun x => { x with st := .down, marks := false, pairs := 0, seen := false, back := 0 })) := by
  unfold State.portDown
  extract_lets was a b
  have ha : a.chn.ports = (modNth s.chn.ports p (fun x => { x with st := .down, marks := false, pairs := 0, seen := false, back := 0 })) :=
    congrArg (fun c => c.ports) (Keeps.same (keeps_srcMoved (K := [.clk, .ptp]) s.srcEff rfl (Keeps.refl _ (s.modPort p (fun x => { x with st := .down, marks := false, pairs := 0, seen := false, back := 0 })))) (p := .chn) (by decide))
  have hb : b.chn.ports = a.chn.ports := by simp only [b]; split <;> rfl
  split
  · rw [stage_chn, hb, ha]
  · rw [hb, ha]

theorem freq_of (f : Nat) : (∀ p ∈ [(10, 1), (20, 2), (25, 3)], 95 * p.1 ≤ 100 * f → 100 * f ≤ 105 * p.1 → freqCode f = p.2) ∧ ((∀ n ∈ [10, 20, 25], 100 * f < 95 * n ∨ 105 * n < 100 * f) → freqCode f = 0) := by
  unfold freqCode
  extract_lets near
  refine ⟨fun p hp h1 h2 => ?_, fun h => ?_⟩
  · simp only [List.mem_cons, List.mem_nil_iff, or_false] at hp
    rcases hp with rfl | rfl | rfl <;> dsimp only at h1 h2 ⊢
    · rw [if_pos (by simp only [near, decide_eq_true_eq]; omega)]
    · rw [if_neg (by simp only [near, decide_eq_true_eq]; omega), if_pos (by simp only [near, decide_eq_true_eq]; omega)]
    · rw [if_neg (by simp only [near, decide_eq_true_eq]; omega), if_neg (by simp only [near, decide_eq_true_eq]; omega), if_pos (by simp only [near, decide_eq_true_eq]; omega)]
  · have a := h 10 (by decide); have b := h 20 (by decide); have c := h 25 (by decide)
    rw [if_neg (by simp only [near, decide_eq_true_eq]; omega), if_neg (by simp only [near, decide_eq_true_eq]; omega), if_neg (by simp only [near, decide_eq_true_eq]; omega)]

theorem returnRef_of (s : State) : (s.clk.level = 0 → s.returnRef = { s with clk := { s.clk with level := 0, ref := 0, refOk := true } }) ∧
    (s.clk.level ≠ 0 → SameBut [.irq, .ring, .trip, .clk] s s.returnRef ∧ s.returnRef.clk = { s.clk with level := 0, ref := 0, refOk := true }) := by
  unfold State.returnRef
  extract_lets was u
  refine ⟨fun h => ?_, fun h => ?_⟩
  · rw [if_pos h]; rfl
  · rw [if_neg h]; exact restored_of s _

theorem returnIrc_of (s : State) : (s.clk.level = 1 ∧ s.refEn = false ∧ s.clk.sysLock = true ∧ s.clk.convLock = true → SameBut [.irq, .ring, .trip, .clk] s s.returnIrc ∧ s.returnIrc.clk = { s.clk with level := 0, ref := 1, refOk := false }) ∧
    (¬(s.clk.level = 1 ∧ s.refEn = false ∧ s.clk.sysLock = true ∧ s.clk.convLock = true) → s.returnIrc = s) := by
  unfold State.returnIrc
  refine ⟨fun h => ?_, fun h => ?_⟩
  · rw [if_pos h]; exact restored_of s _
  · rw [if_neg h]

theorem writeCfg_of (s : State) (v : Word) : (bitAt v 2 = true → s.refGood = false → (s.writeClkCfg v).1 = s) ∧
    (bitAt v 2 = false ∨ s.refGood = true → SameBut [.irq, .ring, .trip, .clk, .regs, .nv, .dm] s (s.writeClkCfg v).1 ∧ (s.writeClkCfg v).1.reg 0x0800 = v &&& 3#32 ∧
      (bitAt v 0 = true → bitAt v 2 = true → s.clk.level = 1 → (s.writeClkCfg v).1.clk = { s.clk with level := 0, ref := 0, refOk := true }) ∧
      (bitAt v 0 = true → bitAt v 2 = false ∨ s.clk.level ≠ 1 → (s.writeClkCfg v).1.clk = s.clk) ∧
      (bitAt v 0 = false → s.clk.level = 0 → s.clk.ref = 0 → s.clk.ircOk = true → (s.writeClkCfg v).1.clk = { s.clk with ref := 1, refOk := false }) ∧
      (bitAt v 0 = false → s.clk.level = 1 → s.clk.sysLock = true → s.clk.convLock = true → (s.writeClkCfg v).1.clk = { s.clk with level := 0, ref := 1, refOk := false }) ∧
      (bitAt v 0 = false → s.clk.level = 1 → s.clk.sysLock = false ∨ s.clk.convLock = false → (s.writeClkCfg v).1.clk = s.clk) ∧
      (bitAt v 0 = false → s.clk.level = 2 → (s.writeClkCfg v).1.clk = s.clk)) := by
  unfold State.writeClkCfg
  refine ⟨fun h g => by rw [if_pos (by simp [h, g])], fun h => ?_⟩
  rw [if_neg (by rcases h with h | h <;> simp [h])]
  extract_lets u w
  have ur : u.reg 0x0800 = v &&& 3#32 := by rw [reg_setStored, if_pos rfl]
  have uc : u.clk = s.clk := setStored_clk _ _ _
  have us : SameBut [.irq, .ring, .trip, .clk, .regs, .nv, .dm] s u := (keeps_setStored (K := [.irq, .ring, .trip, .clk, .regs, .nv, .dm]) _ _ rfl (Keeps.refl _ s)).1
  have ue : u.refEn = bitAt v 0 := by unfold State.refEn; rw [ur, bit_and3 _ _ (by decide)]
  clear_value u
  have rg : ∀ {t t' : State}, SameBut [.irq, .ring, .trip, .clk] t t' → ∀ a, t'.reg a = t.reg a := fun {t t'} h a => by unfold State.reg; rw [show t'.regs = t.regs from h.2 .regs (by decide)]
  have hw : SameBut [.irq, .ring, .trip, .clk] u w := by
    simp only [w]; split
    · exact sameUp (sameClk u u.clk [.clk] (by decide)) (by decide)
    · split
      · exact sameClk u _ _ (by decide)
      · by_cases q : u.clk.level = 1 ∧ u.refEn = false ∧ u.clk.sysLock = true ∧ u.clk.convLock = true
        · exact ((returnIrc_of u).1 q).1
        · rw [(returnIrc_of u).2 q]; exact sameUp (sameClk u u.clk [.clk] (by decide)) (by decide)
  have wr : w.reg 0x0800 = v &&& 3#32 := (rg hw _).trans ur
  have we : w.refEn = bitAt v 0 := by unfold State.refEn; rw [wr, bit_and3 _ _ (by decide)]
  have w1 : bitAt v 0 = true → w = u := fun h => by simp only [w]; rw [if_pos (ue.trans h)]
  have w2 : bitAt v 0 = false → s.clk.level = 0 → s.clk.ref = 0 → s.clk.ircOk = true → w.clk = { s.clk with ref := 1, refOk := false } := fun h a b c => by
    simp only [w]; rw [if_neg (by rw [ue, h]; decide), if_pos (by rw [uc]; exact ⟨a, b, c⟩), ← uc]; rfl
  have w3 : bitAt v 0 = false → s.clk.level = 1 → s.clk.sysLock = true → s.clk.convLock = true → w.clk = { s.clk with level := 0, ref := 1, refOk := false } := fun h a b c => by
    simp only [w]; rw [if_neg (by rw [ue, h]; decide), if_neg (by rw [uc, a]; rintro ⟨k, _⟩; exact absurd k (by decide)), ← uc]
    exact ((returnIrc_of u).1 ⟨by rw [uc]; exact a, by rw [ue]; exact h, by rw [uc]; exact b, by rw [uc]; exact c⟩).2
  have w4 : bitAt v 0 = false → (s.clk.level = 1 ∧ (s.clk.sysLock = false ∨ s.clk.convLock = false)) ∨ s.clk.level = 2 → w.clk = s.clk := fun h a => by
    simp only [w]; rw [if_neg (by rw [ue, h]; decide), if_neg (by rw [uc]; rintro ⟨k, _⟩; omega), ← uc]
    rw [(returnIrc_of u).2]; rw [uc]; rintro ⟨k, _, l, m⟩
    rcases a with ⟨_, a | a⟩ | a
    · rw [a] at l; cases l
    · rw [a] at m; cases m
    · omega
  clear_value w
  by_cases q : (bitAt v 2 && decide (w.clk.level = 1) && w.refEn) = true
  · rw [if_pos q]
    have q' : bitAt v 2 = true ∧ w.clk.level = 1 ∧ bitAt v 0 = true := by simpa [we, and_assoc] using q
    have e := w1 q'.2.2
    have l1 : s.clk.level = 1 := by have := q'.2.1; rw [e, uc] at this; exact this
    have r := (returnRef_of w).2 (by rw [q'.2.1]; decide)
    refine ⟨sameTrans us (sameTrans (sameUp hw (by decide)) (sameUp r.1 (by decide))), (rg r.1 _).trans wr, fun _ _ _ => ?_, fun _ g => ?_, fun g => ?_, fun g => ?_, fun g => ?_, fun g => ?_⟩
    · rw [r.2, e, uc]
    · rcases g with g | g
      · rw [q'.1] at g; cases g
      · exact absurd l1 g
    all_goals (rw [q'.2.2] at g; cases g)
  · rw [if_neg q]
    have q' : ¬(bitAt v 2 = true ∧ w.clk.level = 1 ∧ bitAt v 0 = true) := by simpa [we, and_assoc] using q
    refine ⟨sameTrans us (sameUp hw (by decide)), wr, fun a b c => ?_, fun a _ => ?_, w2, w3, fun a b c => w4 a (.inl ⟨b, c⟩), fun a b => w4 a (.inr b)⟩
    · exact absurd ⟨b, by rw [w1 a, uc]; exact c, a⟩ q'
    · show w.clk = s.clk; rw [w1 a, uc]

theorem auto_st (s : State) (n : OpState) : (s.autoState n 0xB).sys.st = n := by
  have h := changeState_st s n 0xB
  unfold State.autoState
  generalize s.changeState n 0xB = y at h ⊢
  exact h

theorem tgtn : (∃ r, targetOf 0x0820 = some (.reg r) ∧ r.mask ≠ 0) ∧ (∃ r, targetOf 0x0814 = some (.reg r) ∧ r.mask ≠ 0) := ⟨⟨_, rfl, by decide⟩, ⟨_, rfl, by decide⟩⟩

theorem sameClkRegs (s t : State) (h : t = { s with clk := t.clk, regs := t.regs }) : SameBut [.regs, .clk] s t := by
  rw [h]
  exact ⟨rfl, fun p hp => by cases p <;> first | exact absurd (by decide) hp | (unfold Same; repeat' first | exact rfl | apply And.intro)⟩

theorem sameClkOnly (s : State) (x : Clocks) : SameBut [.clk] s { s with clk := x } :=
  ⟨rfl, fun p hp => by cases p <;> first | exact absurd (by decide) hp | (unfold Same; repeat' first | exact rfl | apply And.intro)⟩

theorem srcMoved_leaf (s : State) (o : Nat) : (s.srcMoved o).clk.leaf = s.clk.leaf := by
  have lv : ∀ u : State, u.leaveLock.clk.leaf = u.clk.leaf := fun u => by unfold State.leaveLock; split <;> rfl
  have ac : ∀ u : State, u.toAcquiring.clk.leaf = u.clk.leaf := fun u => lv u
  unfold State.srcMoved
  extract_lets n u
  split
  · rfl
  · have hu : u.clk = s.clk := rfl
    clear_value u
    rw [← hu]
    split
    · exact lv u
    · split
      · exact ac u
      · split
        · unfold State.endHoldover; split
          · exact ac u
          · rfl
        · rfl

theorem portDown_leaf (s : State) (p : Nat) : (s.portDown p).clk.leaf = s.clk.leaf := by
  unfold State.portDown
  extract_lets was a b
  have ha : a.clk.leaf = s.clk.leaf := srcMoved_leaf _ _
  have hb : b.clk = a.clk := by simp only [b]; split <;> rfl
  rw [← hb] at ha
  split
  · rw [stage_clk]; exact ha
  · exact ha

theorem portDown_st (s : State) (p : Nat) (h : p < s.chn.ports.length) : ((s.portDown p).port p).st = .down := by
  have e : (s.portDown p).chn.ports = (modNth s.chn.ports p (fun x => { x with st := .down, marks := false, pairs := 0, seen := false, back := 0 })) := by
    unfold State.portDown
    extract_lets was a b
    have ha : a.chn.ports = (modNth s.chn.ports p (fun x => { x with st := .down, marks := false, pairs := 0, seen := false, back := 0 })) :=
      congrArg (fun c => c.ports) (Keeps.same (keeps_srcMoved (K := [.clk, .ptp]) s.srcEff rfl (Keeps.refl _ (s.modPort p (fun x => { x with st := .down, marks := false, pairs := 0, seen := false, back := 0 })))) (p := .chn) (by decide))
    have hb : b.chn.ports = a.chn.ports := by simp only [b]; split <;> rfl
    split
    · rw [stage_chn, hb, ha]
    · rw [hb, ha]
  unfold State.port; rw [e, nth_modNth_self h]

theorem leafBit_of {n b : Nat} (h : (n, b) ∈ [(0, 0), (1, 1), (2, 3), (3, 4), (4, 6)]) : leafBit n = b ∧ n < 5 := by
  simp only [List.mem_cons, List.mem_nil_iff, or_false, Prod.mk.injEq] at h
  rcases h with ⟨rfl, rfl⟩ | ⟨rfl, rfl⟩ | ⟨rfl, rfl⟩ | ⟨rfl, rfl⟩ | ⟨rfl, rfl⟩ <;> decide

theorem hold_leaf (s : State) (c : Nat) : (s.holdover c).clk.leaf = s.clk.leaf := by
  have lv : ∀ u : State, u.leaveLock.clk.leaf = u.clk.leaf := fun u => by unfold State.leaveLock; split <;> rfl
  unfold State.holdover
  extract_lets add sy adj
  split
  · rw [stage_clk]; exact lv s
  · split <;> rfl

theorem announce_leaf (s : State) (p : Nat) : (s.announceTimeout p).clk.leaf = s.clk.leaf := by
  unfold State.announceTimeout
  split
  · rfl
  · extract_lets used u
    have hu : u.clk = s.clk := Keeps.same (keeps_reselect (K := [.irq, .ring, .trip, .ptp]) rfl (Keeps.refl _ (s.modPtp (fun x => { x with masters := x.masters.set p none })))) (p := .clk) (by decide)
    split
    · rw [hold_leaf, hu]
    · rw [hu]

theorem eth_leaf (s : State) (m : Nat) : (s.ethLink m false 0).clk.leaf = s.clk.leaf ∧ (m < 2 → m < s.svc.mac.length → (nth (s.ethLink m false 0).svc.mac m).link = false) := by
  unfold State.ethLink
  extract_lets o src u w
  split
  · rename_i h
    refine ⟨rfl, fun a _ => ?_⟩
    rcases h with h | h
    · omega
    · exact h.1
  · have wc : w.clk = s.clk ∧ w.svc = u.svc := by
      simp only [w]; split
      · exact ⟨rfl, rfl⟩
      · exact ⟨stage_clk _ _ _ _, stage_svc _ _ _ _⟩
    have lk : m < s.svc.mac.length → (nth w.svc.mac m).link = false := fun h => by
      rw [wc.2]; show (nth (modNth s.svc.mac m (fun x => { x with link := false, speed := 0 % 4 })) m).link = false
      rw [nth_modNth_self h]
    split
    · refine ⟨by rw [hold_leaf, wc.1], fun _ h => ?_⟩
      rw [show (w.holdover 3).svc = w.svc from Keeps.same (keeps_holdover (K := [.irq, .ring, .trip, .clk, .ptp]) 3 rfl (Keeps.refl _ w)) (p := .svc) (by decide)]
      exact lk h
    · exact ⟨by rw [wc.1], fun _ h => lk h⟩

theorem go_bits (v : Word) : bitsOf (v ||| 0x10#32) 2 0 = bitsOf v 2 0 ∧ bitAt (v ||| 0x10#32) 4 = true ∧ (v ||| 0x10#32) &&& 0xF#32 = v &&& 0xF#32 := by
  refine ⟨?_, ?_, ?_⟩
  · unfold bitsOf
    rw [BitVec.toNat_or]
    apply Nat.eq_of_testBit_eq
    intro i
    simp only [Nat.testBit_mod_two_pow, Nat.testBit_div_two_pow, Nat.testBit_or]
    by_cases h : i < 3
    · have : i = 0 ∨ i = 1 ∨ i = 2 := by omega
      rcases this with rfl | rfl | rfl <;> simp [Nat.testBit]
    · simp [h]
  · unfold bitAt; simp; right; decide
  · apply BitVec.eq_of_getLsbD_eq
    intro i hi
    simp only [BitVec.getLsbD_and, BitVec.getLsbD_or]
    by_cases h : i = 4
    · subst h; simp
    · have : (0x10#32).getLsbD i = false := by
        have : ∀ i < 32, i ≠ 4 → (0x10#32).getLsbD i = false := by decide
        exact this i hi h
      rw [this, Bool.or_false]

end Sys2Proof.Facts.ClockRules
end

