-- ==== Sys2Proof/Laws/ElementTimers.lean ====
section
/-! SUPPORT. The settling of element records between ticks. Lemmas about the operations of these rows, for the proofs of the statements about them. -/

namespace Sys2Proof.Facts.ElementTimers

open Sys2Proof Sys2Proof.Machine

theorem publish_els (v : Env) (c e) : (v.publish c e).els = v.els := by
  unfold Env.publish
  have : ∀ (l : List (Nat × NetVal)) (v : Env), (l.foldl (fun v p => v.write p.1 p.2) v).els = v.els := by
    intro l; induction l with
    | nil => intro v; rfl
    | cons a r ih =>
      intro v; rw [List.foldl_cons, ih]
      unfold Env.write
      split
      · rfl
      · split <;> rfl
  exact this _ _

theorem attOf_modAtt {s : State} {pl : Nat} {a : Attempt} {f : Attempt → Attempt} (hf : ∀ x, (f x).pl = x.pl) (h : s.attOf pl = some a) : (s.modAtt pl f).attOf a.pl = some (f a) := by
  have hpl : a.pl = pl := by simpa using List.find?_some h
  rw [hpl]
  unfold State.attOf State.modAtt at *
  simp only [modPe_pe]
  generalize s.pe.att = l at h
  induction l with
  | nil => cases h
  | cons x r ih =>
    by_cases hx : x.pl = pl
    · rw [List.find?_cons_of_pos (by simpa using hx)] at h
      cases h
      rw [List.map_cons, List.find?_cons_of_pos (by simp [hx, hf]), if_pos hx]
    · rw [List.find?_cons_of_neg (by simpa using hx)] at h
      rw [List.map_cons, if_neg hx, List.find?_cons_of_neg (by simpa using hx)]
      exact ih h

theorem settleIn_pl (s : State) (a : Attempt) (c e f) : (s.settleIn a c e f).pl = a.pl := by unfold State.settleIn; extract_lets; split <;> rfl

theorem modInst_settles {s : State} {att : Attempt} {n kinds c e} {f : Env → InstCfg → ElemSt → ElemSt} {e' : ElemSt} (h : s.holds att n kinds c e) (hf : f (s.env att c) c e = e') (hne : e' ≠ e) :
    Settles (.next (s.modInst n kinds f)) s att e' := by
  obtain ⟨h1, h2, h3, h4, h5, h6⟩ := h
  refine ⟨_, rfl, ?_⟩
  unfold State.modInst
  rw [h2]
  simp only [h1, h3, h5, h6, and_self, if_true]
  rw [if_pos h4]
  refine ⟨rfl, _, attOf_modAtt (fun x => settleIn_pl s x c e f) h3, ?_⟩
  have hf' : f { s := s, place := c.place, b := att.bnets, a := att.anets, els := att.els } c e = e' := hf
  unfold State.settleIn
  simp only [hf']
  rw [if_neg hne]

theorem kinds_sub {s : State} {att : Attempt} {n k1 k2 c e} (h : s.holds att n k1 c e) (hs : ∀ x ∈ k1, x ∈ k2) : s.holds att n k2 c e := ⟨h.1, h.2.1, h.2.2.1, h.2.2.2.1, h.2.2.2.2.1, hs _ h.2.2.2.2.2⟩

theorem op_ne {e : ElemSt} (h : e.operate = false) : { e with operate := true } ≠ e := fun he => by
  have := congrArg ElemSt.operate he; simp [h] at this

theorem modInst_same {s : State} {att : Attempt} {n kinds c e} {f : Env → InstCfg → ElemSt → ElemSt} (h : s.holds att n kinds c e) (hf : f (s.env att c) c e = e) :
    Leads (.next (s.modInst n kinds f)) fun t => t.pe.els = s.pe.els ∧ t.attOf att.pl = some att := by
  obtain ⟨h1, h2, h3, h4, h5, h6⟩ := h
  refine ⟨_, rfl, ?_⟩
  unfold State.modInst
  rw [h2]
  simp only [h1, h3, h5, h6, and_self, if_true]
  rw [if_pos h4]
  refine ⟨rfl, (attOf_modAtt (fun x => settleIn_pl s x c e f) h3).trans ?_⟩
  have hf' : f { s := s, place := c.place, b := att.bnets, a := att.anets, els := att.els } c e = e := hf
  unfold State.settleIn
  simp only [hf', if_true]

theorem nec {e e' : ElemSt} {α} (f : ElemSt → α) (h : f e' ≠ f e) : e' ≠ e := fun he => h (congrArg f he)

theorem reached_of {s : State} {att : Attempt} {c : InstCfg} {n : Nat} {t : Rat} (h : t ≤ (n : Rat) / (s.fp : Rat)) : (s.env att c).reached n t = true := decide_eq_true h

theorem arSettle_of {f : Env → InstCfg → ElemSt → ElemSt} {v : Env} {c : InstCfg} {e e' : ElemSt} (h : f v c e = e') (hne : e' ≠ e) : Env.arSettle f v c e = v.arView c e' := by
  unfold Env.arSettle; dsimp only; rw [h, if_neg hne]

end Sys2Proof.Facts.ElementTimers
end

