-- ==== Sys2Proof/Laws/FastRoutes.lean ====
section
/-! SUPPORT. Comparators, express intertrips, fast-path settings. Lemmas about the operations of these rows, for the proofs of the statements about them. -/

namespace Sys2Proof.Facts.FastRoutes

open Sys2Proof Sys2Proof.Machine

/-- What a command of the fast path leaves: registers, front end, filters, field inputs, the system clock, the light inputs. -/
def Sur (s t : State) : Prop := t.regs = s.regs ∧ t.afe = s.afe ∧ t.flt = s.flt ∧ t.fio = s.fio ∧ t.clk.sysLock = s.clk.sysLock ∧ t.clk.sysSrc = s.clk.sysSrc ∧
  t.fst.lights = s.fst.lights ∧ t.fst.cmp.length = s.fst.cmp.length

/-- A comparator stays, with all it depends on. -/
def CmpK (c : Nat) (s t : State) : Prop := t.cmp c = s.cmp c ∧ Sur s t

theorem Sur.rfl {s : State} : Sur s s := ⟨.refl _, .refl _, .refl _, .refl _, .refl _, .refl _, .refl _, .refl _⟩

theorem Sur.trans {s t u : State} (h : Sur s t) (k : Sur t u) : Sur s u :=
  ⟨k.1.trans h.1, k.2.1.trans h.2.1, k.2.2.1.trans h.2.2.1, k.2.2.2.1.trans h.2.2.2.1, k.2.2.2.2.1.trans h.2.2.2.2.1, k.2.2.2.2.2.1.trans h.2.2.2.2.2.1, k.2.2.2.2.2.2.1.trans h.2.2.2.2.2.2.1, k.2.2.2.2.2.2.2.trans h.2.2.2.2.2.2.2⟩

theorem Sur.cfg {s t : State} (h : Sur s t) (c : Nat) : t.cmpCfg c = s.cmpCfg c := by unfold State.cmpCfg State.reg; rw [h.1]

theorem Sur.thr {s t : State} (h : Sur s t) (c : Nat) : t.thrG c = s.thrG c := by unfold State.thrG State.cmpThr State.afeCh; rw [h.cfg]; unfold State.reg; rw [h.1, h.2.1]

theorem Sur.hold {s t : State} (h : Sur s t) (c : Nat) : t.cmpHold c = s.cmpHold c := by unfold State.cmpHold State.reg; rw [h.1]

theorem Sur.win {s t : State} (h : Sur s t) (c : Nat) : t.arcWin c = s.arcWin c := by unfold State.arcWin State.reg; rw [h.1]

theorem Sur.light {s t : State} (h : Sur s t) (c : Nat) : t.arcLight c = s.arcLight c := by unfold State.arcLight; rw [h.cfg, h.2.2.2.2.2.2.1]

theorem plain_of {s t : State} (h : Sur s t) (c : Nat) (h1 : (t.cmp c).codeBad = (s.cmp c).codeBad) (h2 : (t.cmp c).ch = (s.cmp c).ch) (h3 : (t.cmp c).disarmed = (s.cmp c).disarmed) : t.plainReason c = s.plainReason c := by
  unfold State.plainReason State.word; rw [h.cfg, h1, h2, h3, h.2.2.1, h.2.2.2.2.1, h.2.2.2.2.2.1]

theorem CmpK.rfl {c} {s : State} : CmpK c s s := ⟨.refl _, .rfl⟩

theorem CmpK.trans {c} {s t u : State} (h : CmpK c s t) (k : CmpK c t u) : CmpK c s u := ⟨k.1.trans h.1, h.2.trans k.2⟩

theorem CmpK.plain {c} {s t : State} (h : CmpK c s t) : t.plainReason c = s.plainReason c := plain_of h.2 c (by rw [h.1]) (by rw [h.1]) (by rw [h.1])

theorem CmpK.foldl {c} {α} {f : State → α → State} {s : State} (l : List α) (h : ∀ t a, a ∈ l → CmpK c s t → CmpK c s (f t a)) : ∀ t, CmpK c s t → CmpK c s (l.foldl f t) := by
  induction l with
  | nil => intro t ht; exact ht
  | cons a r ih => intro t ht; exact ih (fun t b hb => h t b (List.mem_cons_of_mem _ hb)) _ (h t a List.mem_cons_self ht)

theorem sur_stageTick (s : State) (a b l) : Sur s (s.stageTick a b l) := by unfold Sur; simp

theorem cmp_stageTick (s : State) (a b l c) : (s.stageTick a b l).cmp c = s.cmp c := by simp [State.cmp]

theorem ck_stageTick (s : State) (a b l c) : CmpK c s (s.stageTick a b l) := ⟨cmp_stageTick .., sur_stageTick ..⟩

theorem raise_sur (s : State) : Sur s s.raiseOp := by
  have k := keeps_raiseOp (K := [.clk]) rfl (Keeps.refl _ s)
  have hf : s.raiseOp.fst = s.fst := k.same (p := .fst) (by decide)
  refine ⟨k.same (p := .regs) (by decide), k.same (p := .afe) (by decide), k.same (p := .flt) (by decide), k.same (p := .fio) (by decide), ?_, ?_, congrArg Fast.lights hf, congrArg (fun x : Fast => x.cmp.length) hf⟩
  · unfold State.raiseOp State.railUp; dsimp only; split <;> [rfl; (split <;> rfl)]
  · unfold State.raiseOp State.railUp; dsimp only; split <;> [rfl; (split <;> rfl)]

theorem raise_cmp (s : State) (c : Nat) : s.raiseOp.cmp c = s.cmp c := by
  have hf : s.raiseOp.fst = s.fst := (keeps_raiseOp (K := [.clk]) rfl (Keeps.refl _ s)).same (p := .fst) (by decide)
  unfold State.cmp; rw [hf]

theorem raise_ck (c : Nat) (s : State) : CmpK c s s.raiseOp := ⟨raise_cmp s c, raise_sur s⟩

theorem sur_modCmp (s : State) (a : Nat) (f) : Sur s (s.modCmp a f) := ⟨.refl _, .refl _, .refl _, .refl _, .refl _, .refl _, .refl _, by simp [State.modCmp, State.modFst]⟩

theorem modCmp_ne (s : State) (a c : Nat) (f) (h : a ≠ c) : CmpK c s (s.modCmp a f) := ⟨by simp [State.cmp, State.modCmp, State.modFst]; exact nth_modNth_ne h, sur_modCmp ..⟩

theorem modCmp_eq (s : State) (c : Nat) (f) (h : c < s.fst.cmp.length) : (s.modCmp c f).cmp c = f (s.cmp c) := nth_modNth_self h

theorem qualify_sur (s : State) (c r : Nat) : Sur s (s.qualify c r) := by
  unfold State.qualify
  extract_lets o q s1
  split
  · exact (sur_modCmp ..).trans (sur_stageTick ..)
  · exact sur_modCmp ..

theorem qualify_cmp (s : State) (a r c : Nat) : (s.qualify a r).cmp c = (s.modCmp a (fun x => { x with qualified := decide (r = 0), reason := r, count := if decide (r = 0) then x.count else 0 })).cmp c := by
  unfold State.qualify
  extract_lets o q s1
  split
  · exact cmp_stageTick ..
  · exact .refl _

theorem qualify_ck (s : State) (a r c : Nat) (h : a ≠ c) : CmpK c s (s.qualify a r) := ⟨(qualify_cmp ..).trans (modCmp_ne _ _ _ _ h).1, qualify_sur ..⟩

theorem arcEval_sur (s : State) (a : Nat) : Sur s (s.arcEval a) := by
  unfold State.arcEval
  extract_lets x on s1
  split
  · exact (sur_modCmp ..).trans (raise_sur _)
  · exact sur_modCmp ..

theorem arcEval_cmp (s : State) (a c : Nat) : (s.arcEval a).cmp c = (s.modCmp a (fun y => { y with
    asserted := (s.cmp a).lightWin && (s.cmp a).curWin && ((s.cmp a).asserted || (s.cmp a).qualified) && cfgEn (s.cmpCfg a)
    seen := y.seen || ((s.cmp a).lightWin && (s.cmp a).curWin && ((s.cmp a).asserted || (s.cmp a).qualified) && cfgEn (s.cmpCfg a))
    ops := if ((s.cmp a).lightWin && (s.cmp a).curWin && ((s.cmp a).asserted || (s.cmp a).qualified) && cfgEn (s.cmpCfg a)) && !(s.cmp a).asserted then satInc 65535 y.ops else y.ops })).cmp c := by
  unfold State.arcEval
  extract_lets x on s1
  have : (if (on && !x.asserted) = true then s1.raiseOp else s1).cmp c = s1.cmp c := by
    split
    · exact raise_cmp ..
    · rfl
  exact this

theorem arcEval_ck (s : State) (a c : Nat) (h : a ≠ c) : CmpK c s (s.arcEval a) := ⟨(arcEval_cmp ..).trans (modCmp_ne _ _ _ _ h).1, arcEval_sur ..⟩

theorem arcEval_eq (s : State) (c : Nat) (h : c < s.fst.cmp.length) : (s.arcEval c).cmp c = { s.cmp c with
    asserted := (s.cmp c).lightWin && (s.cmp c).curWin && ((s.cmp c).asserted || (s.cmp c).qualified) && cfgEn (s.cmpCfg c)
    seen := (s.cmp c).seen || ((s.cmp c).lightWin && (s.cmp c).curWin && ((s.cmp c).asserted || (s.cmp c).qualified) && cfgEn (s.cmpCfg c))
    ops := if ((s.cmp c).lightWin && (s.cmp c).curWin && ((s.cmp c).asserted || (s.cmp c).qualified) && cfgEn (s.cmpCfg c)) && !(s.cmp c).asserted then satInc 65535 (s.cmp c).ops else (s.cmp c).ops } :=
  (arcEval_cmp s c c).trans (modCmp_eq s c _ h)

theorem arcJudge_sur (s : State) (a : Nat) : Sur s (s.arcJudge a) := by
  unfold State.arcJudge
  exact ((qualify_sur ..).trans (sur_modCmp ..)).trans (arcEval_sur ..)

theorem arcJudge_ck (s : State) (a c : Nat) (h : a ≠ c) : CmpK c s (s.arcJudge a) := by
  unfold State.arcJudge
  exact ((qualify_ck _ _ _ _ h).trans (modCmp_ne _ _ _ _ h)).trans (arcEval_ck _ _ _ h)

theorem arcFollow_ck (s : State) (x c : Nat) (h : cfgMode (s.cmpCfg c) ≠ 3) : CmpK c s (s.arcFollow x) := by
  unfold State.arcFollow
  refine CmpK.foldl _ (fun t a _ ht => ?_) _ .rfl
  split
  · rename_i hh
    refine ht.trans (arcJudge_ck t a c ?_)
    rintro rfl
    rw [ht.2.cfg] at hh; exact h hh.2.1
  · exact ht

theorem capture_ck (s : State) (a : Nat) (x t) (c : Nat) (h : a ≠ c) : CmpK c s (s.capture a x t) := by
  unfold State.capture
  exact CmpK.trans (t := { (s.modCmp a _) with free := s.free + 1 }) (modCmp_ne s a c _ h) (ck_stageTick ..)

theorem capture_cmp (s : State) (c : Nat) (x t) (h : c < s.fst.cmp.length) : ∃ y, (s.capture c x t).cmp c = { s.cmp c with arr := some y, fresh := true } ∧ Sur s (s.capture c x t) := by
  unfold State.capture
  extract_lets n a s1
  exact ⟨a, (cmp_stageTick ..).trans (modCmp_eq s c _ h), Sur.trans (t := s1) (sur_modCmp s c _) (sur_stageTick ..)⟩

theorem feedCode_ck (s : State) (a c : Nat) (k : CodeIn) (h : a ≠ c) (hm : cfgMode (s.cmpCfg c) ≠ 3) : CmpK c s (s.feedCode a k) := by
  unfold State.feedCode
  extract_lets w was s1 reason s2 o t met cnt rise idle fall on s3 s4 s5
  split
  · exact .rfl
  · have k1 : CmpK c s s1 := modCmp_ne _ _ _ _ h
    have k2 : CmpK c s s2 := k1.trans (qualify_ck _ _ _ _ h)
    have k3 : CmpK c s s3 := by
      simp only [s3]; split
      · exact k2.trans (capture_ck _ _ _ _ _ h)
      · exact k2
    have k4 : CmpK c s s4 := k3.trans (modCmp_ne _ _ _ _ h)
    have k5 : CmpK c s s5 := by
      simp only [s5]; split
      · exact k4.trans (raise_ck _ _)
      · exact k4
    split
    · exact k5.trans (arcFollow_ck _ _ _ (by rw [k5.2.cfg]; exact hm))
    · exact k5

/-- The settling of the fast path leaves comparators, codes, the result of a write, registers. -/
def FstK (s t : State) : Prop := t.fst.cmp = s.fst.cmp ∧ t.fst.x = s.fst.x ∧ t.fst.result = s.fst.result ∧ t.regs = s.regs ∧ t.fst.lights = s.fst.lights

theorem FstK.rfl {s : State} : FstK s s := ⟨.refl _, .refl _, .refl _, .refl _, .refl _⟩

theorem FstK.trans {s t u : State} (h : FstK s t) (k : FstK t u) : FstK s u := ⟨k.1.trans h.1, k.2.1.trans h.2.1, k.2.2.1.trans h.2.2.1, k.2.2.2.1.trans h.2.2.2.1, k.2.2.2.2.trans h.2.2.2.2⟩

theorem FstK.foldl {α} {f : State → α → State} (l : List α) (h : ∀ s a, FstK s (f s a)) (s : State) : FstK s (l.foldl f s) := by
  induction l generalizing s with
  | nil => exact .rfl
  | cons a r ih => exact (h s a).trans (ih _)

theorem fk_stage (s : State) (a b c) : FstK s (s.stage a b c) := by unfold FstK; simp

theorem fk_stageTick (s : State) (a b c) : FstK s (s.stageTick a b c) := by unfold FstK; simp

theorem fk_insertPair (s : State) (on code again) : FstK s (s.insertPair on code again) := by
  unfold State.insertPair
  extract_lets up room ports peak twice ch s1
  split
  · exact FstK.trans (t := s1) ⟨rfl, rfl, rfl, rfl, rfl⟩ (fk_stage ..)
  · exact ⟨rfl, rfl, rfl, rfl, rfl⟩

theorem fk_sendGroup (s : State) (on g b) : FstK s (s.sendGroup on g b) := by
  unfold State.sendGroup
  split
  · split
    · exact .rfl
    · exact FstK.trans (t := s.modFst _) ⟨rfl, rfl, rfl, rfl, rfl⟩ (fk_stageTick ..)
  · exact fk_insertPair ..

theorem fk_sendGroups (s : State) : FstK s s.sendGroups := by
  unfold State.sendGroups
  extract_lets old now s1
  refine FstK.trans (t := s1) ⟨rfl, rfl, rfl, rfl, rfl⟩ (FstK.foldl _ (fun s g => ?_) _)
  split
  · exact fk_sendGroup ..
  · exact .rfl

theorem fk_settle (s : State) : FstK s s.fastSettle := by
  unfold State.fastSettle
  extract_lets rows xrx o s1 s2 s3
  refine FstK.trans (t := s1) ⟨rfl, rfl, rfl, rfl, rfl⟩ (FstK.trans (t := s2) (FstK.foldl _ (fun s g => ?_) _) (FstK.trans (t := s3) (FstK.foldl _ (fun s g => ?_) _) (fk_sendGroups _)))
  · split
    · exact fk_stageTick ..
    · exact .rfl
  · split
    · exact fk_stageTick ..
    · exact .rfl

theorem settle_cmp (s : State) (c : Nat) : s.fastSettle.cmp c = s.cmp c := by unfold State.cmp; rw [(fk_settle s).1]

theorem seenNow_cmp (s : State) {c : Nat} (h : c < 64) : s.seenNow.cmp c = { s.cmp c with seen := if cfgMode (s.cmpCfg c) = 3 then (s.cmp c).seen || (s.cmp c).asserted else (s.cmp c).seen } := by
  have : s.seenNow.cmp c = if cfgMode (s.cmpCfg c) = 3 then { s.cmp c with seen := (s.cmp c).seen || (s.cmp c).asserted } else s.cmp c := by
    simp [State.seenNow, State.cmp, State.modFst, nth, List.getD_eq_getElem?_getD, h]
  rw [this]; split <;> rfl

/-- One code of a channel reaches a comparator of mode 0, 1 or 2 that names it as if it were the only one. -/
theorem feedChannel_cmp (s : State) (c : Nat) (k : CodeIn) (hc : c < 64) (hm : cfgMode (s.cmpCfg c) ≠ 3) :
    ∃ u, CmpK c s u ∧ (s.feedChannel (cfgCh (s.cmpCfg c)) k).cmp c = (u.feedCode c k).cmp c := by
  unfold State.feedChannel
  extract_lets s0 s1 s2
  have k0 : CmpK c s s0 := ⟨rfl, .rfl⟩
  have mid : ∃ u, CmpK c s u ∧ CmpK c (u.feedCode c k) s1 := by
    obtain ⟨l1, l2, hl, h1, h2⟩ : ∃ l1 l2 : List Nat, List.range 64 = l1 ++ c :: l2 ∧ c ∉ l1 ∧ c ∉ l2 := by
      have hmem : c ∈ List.range 64 := List.mem_range.mpr hc
      obtain ⟨l1, l2, hl⟩ := List.append_of_mem hmem
      refine ⟨l1, l2, hl, ?_⟩
      have := List.nodup_range (n := 64)
      rw [hl, List.nodup_append] at this
      exact ⟨fun h => this.2.2 c h c List.mem_cons_self (.refl _), (List.nodup_cons.mp this.2.1).1⟩
    have part : ∀ (l : List Nat) (v : State), c ∉ l → cfgMode (v.cmpCfg c) ≠ 3 → CmpK c v (l.foldl (fun s a => if cfgCh (s.cmpCfg a) = cfgCh (v.cmpCfg c) then s.feedCode a k else s) v) := by
      intro l v hl hv
      refine CmpK.foldl _ (fun t a ha ht => ?_) _ .rfl
      split
      · exact ht.trans (feedCode_ck t a c k (fun h => hl (h ▸ ha)) (by rw [ht.2.cfg]; exact hv))
      · exact ht
    have p1 := part l1 s0 h1 (by rw [k0.2.cfg]; exact hm)
    rw [k0.2.cfg] at p1
    refine ⟨_, k0.trans p1, ?_⟩
    simp only [s1]
    rw [hl, List.foldl_append, List.foldl_cons]
    have hu := k0.trans p1
    generalize l1.foldl _ s0 = u at hu ⊢
    rw [if_pos (by rw [hu.2.cfg])]
    have sf : Sur u (u.feedCode c k) := by
      unfold State.feedCode
      extract_lets w was s1 reason s2 o t met cnt rise idle fall on s3 s4 s5
      split
      · exact .rfl
      · have k2 : Sur u s2 := (sur_modCmp ..).trans (qualify_sur ..)
        have k3 : Sur u s3 := by
          simp only [s3]; split
          · exact k2.trans (by unfold State.capture; exact Sur.trans (t := { (s2.modCmp c _) with free := s2.free + 1 }) (sur_modCmp s2 c _) (sur_stageTick ..))
          · exact k2
        have k5 : Sur u s5 := by
          simp only [s5]; split
          · exact (k3.trans (sur_modCmp ..)).trans (raise_sur _)
          · exact k3.trans (sur_modCmp ..)
        split
        · unfold State.arcFollow
          have : ∀ (l : List Nat) (v : State), Sur u v → Sur u (l.foldl (fun s a => if cfgEn (s.cmpCfg a) ∧ cfgMode (s.cmpCfg a) = 3 ∧ cfgCur (s.cmpCfg a) = c then s.arcJudge a else s) v) := by
            intro l; induction l with
            | nil => intro v h; exact h
            | cons a r ih => intro v h; rw [List.foldl_cons]; refine ih _ ?_; split <;> [exact h.trans (arcJudge_sur ..); exact h]
          exact this _ _ k5
        · exact k5
    have e : cfgCh (s.cmpCfg c) = cfgCh ((u.feedCode c k).cmpCfg c) := by rw [sf.cfg, hu.2.cfg]
    rw [e]
    exact part l2 _ h2 (by rw [sf.cfg, hu.2.cfg]; exact hm)
  obtain ⟨u, hu, hk⟩ := mid
  refine ⟨u, hu, ?_⟩
  have h2 : s2.cmp c = s1.cmp c := by
    have e2 : s2.cmp c = if cfgMode (s1.cmpCfg c) = 3 ∧ cfgCh (s1.cmpCfg (cfgCur (s1.cmpCfg c))) = cfgCh (s.cmpCfg c) then { s1.cmp c with seen := (s1.cmp c).seen || (s1.cmp c).asserted } else s1.cmp c := by
      simp [s2, State.cmp, State.modFst, nth, List.getD_eq_getElem?_getD, hc]
    rw [e2]
    have : cfgMode (s1.cmpCfg c) ≠ 3 := by
      have e1 : (u.feedCode c k).cmpCfg c = s1.cmpCfg c := (hk.2.cfg c).symm
      have : s1.regs = s.regs := by
        have := (keeps_feedChannel (K := [.irq, .ring, .trip, .clk, .fst, .chn, .free]) (cfgCh (s.cmpCfg c)) k rfl (Keeps.refl _ s))
        have hh : s1.regs = s0.regs := by
          have kk : Keeps [.irq, .ring, .trip, .clk, .fst, .chn, .free] s0 s1 := by
            simp only [s1]
            refine Keeps.foldl (Keeps.refl _ s0) (fun t a ht => ?_)
            split
            · exact keeps_feedCode (K := [.irq, .ring, .trip, .clk, .fst, .chn, .free]) _ _ rfl ht
            · exact ht
          exact kk.same (p := .regs) (by decide)
        exact hh
      unfold State.cmpCfg State.reg; rw [this]; exact hm
    rw [if_neg (fun h => this h.1)]
  exact (settle_cmp s2 c).trans (h2.trans hk.1)

/-- A light input takes a level: the arc comparator that names it is judged with the level in force. -/
theorem lightLevel_cmp (s : State) (c : Nat) (on : Bool) (hc : c < 64) (he : cfgEn (s.cmpCfg c) = true) (hm : cfgMode (s.cmpCfg c) = 3) :
    ∃ u, Sur (s.seenNow.modFst (fun x => { x with lights := x.lights.set (cfgLight (s.cmpCfg c)) on })) u ∧
      (∀ x, (u.cmp x).codeBad = (s.seenNow.cmp x).codeBad ∧ (u.cmp x).ch = (s.seenNow.cmp x).ch ∧ (u.cmp x).disarmed = (s.seenNow.cmp x).disarmed) ∧ u.cmp c = s.seenNow.cmp c ∧
      CmpK c (u.arcJudge c) (s.lightLevel c on) := by
  unfold State.lightLevel
  extract_lets w s1
  rw [if_pos ⟨he, hm⟩]
  obtain ⟨l1, l2, hl, h1, h2⟩ : ∃ l1 l2 : List Nat, List.range 64 = l1 ++ c :: l2 ∧ c ∉ l1 ∧ c ∉ l2 := by
    have hmem : c ∈ List.range 64 := List.mem_range.mpr hc
    obtain ⟨l1, l2, hl⟩ := List.append_of_mem hmem
    refine ⟨l1, l2, hl, ?_⟩
    have := List.nodup_range (n := 64)
    rw [hl, List.nodup_append] at this
    exact ⟨fun h => this.2.2 c h c List.mem_cons_self (.refl _), (List.nodup_cons.mp this.2.1).1⟩
  have jx : ∀ (v : State) a x, ((v.arcJudge a).cmp x).codeBad = (v.cmp x).codeBad ∧ ((v.arcJudge a).cmp x).ch = (v.cmp x).ch ∧ ((v.arcJudge a).cmp x).disarmed = (v.cmp x).disarmed := by
    intro v a x
    have md : ∀ (v : State) (f : CmpSt → CmpSt), (∀ y, (f y).codeBad = y.codeBad ∧ (f y).ch = y.ch ∧ (f y).disarmed = y.disarmed) →
        ((v.modCmp a f).cmp x).codeBad = (v.cmp x).codeBad ∧ ((v.modCmp a f).cmp x).ch = (v.cmp x).ch ∧ ((v.modCmp a f).cmp x).disarmed = (v.cmp x).disarmed := by
      intro v f hf
      by_cases h : a = x
      · subst h
        by_cases hh : a < v.fst.cmp.length
        · rw [modCmp_eq v a f hh]; exact hf _
        · have : (v.modCmp a f).cmp a = v.cmp a := by
            simp [State.cmp, State.modCmp, State.modFst, nth, modNth, List.getD_eq_getElem?_getD, List.getElem?_modify]
            cases hq : v.fst.cmp[a]? with
            | none => rfl
            | some y => rw [List.getElem?_eq_some_iff] at hq; exact absurd hq.1 hh
          rw [this]; exact ⟨.refl _, .refl _, .refl _⟩
      · rw [(modCmp_ne v a x f h).1]; exact ⟨.refl _, .refl _, .refl _⟩
    unfold State.arcJudge
    extract_lets keep v1 cur
    rw [arcEval_cmp]
    have e1 := md v (fun x => { x with qualified := decide (v.cmpReason a = 0), reason := v.cmpReason a, count := if decide (v.cmpReason a = 0) then x.count else 0 }) (fun y => ⟨rfl, rfl, rfl⟩)
    have e2 := md v1 (fun y => { y with curWin := cur || (y.curWin && keep), lightWin := v1.arcLight a || (y.lightWin && keep) }) (fun y => ⟨rfl, rfl, rfl⟩)
    refine ⟨((md _ _ (by intro y; exact ⟨rfl, rfl, rfl⟩)).1.trans e2.1).trans ?_, ((md _ _ (by intro y; exact ⟨rfl, rfl, rfl⟩)).2.1.trans e2.2.1).trans ?_, ((md _ _ (by intro y; exact ⟨rfl, rfl, rfl⟩)).2.2.trans e2.2.2).trans ?_⟩
    · rw [qualify_cmp]; exact e1.1
    · rw [qualify_cmp]; exact e1.2.1
    · rw [qualify_cmp]; exact e1.2.2
  have s0 : ∀ x, s1.cmp x = s.seenNow.cmp x := fun _ => rfl
  have hw : w = s.cmpCfg c := rfl
  have pre : ∀ (l : List Nat) (v : State), c ∉ l → (Sur s1 v ∧ (∀ x, (v.cmp x).codeBad = (s.seenNow.cmp x).codeBad ∧ (v.cmp x).ch = (s.seenNow.cmp x).ch ∧ (v.cmp x).disarmed = (s.seenNow.cmp x).disarmed) ∧ v.cmp c = s.seenNow.cmp c) →
      ∀ v', v' = l.foldl (fun s a => if cfgEn (s.cmpCfg a) ∧ cfgMode (s.cmpCfg a) = 3 ∧ cfgLight (s.cmpCfg a) = cfgLight w then s.arcJudge a else s) v →
      (Sur s1 v' ∧ (∀ x, (v'.cmp x).codeBad = (s.seenNow.cmp x).codeBad ∧ (v'.cmp x).ch = (s.seenNow.cmp x).ch ∧ (v'.cmp x).disarmed = (s.seenNow.cmp x).disarmed) ∧ v'.cmp c = s.seenNow.cmp c) := by
    intro l; induction l with
    | nil => rintro v _ h v' rfl; exact h
    | cons a r ih =>
      intro v hn h v' hv
      rw [List.foldl_cons] at hv
      refine ih _ (fun q => hn (List.mem_cons_of_mem _ q)) ?_ v' hv
      split
      · refine ⟨h.1.trans (arcJudge_sur ..), fun x => ?_, ?_⟩
        · have j := jx v a x; have k := h.2.1 x
          exact ⟨j.1.trans k.1, j.2.1.trans k.2.1, j.2.2.trans k.2.2⟩
        · exact (arcJudge_ck v a c (fun q => hn (q ▸ List.mem_cons_self))).1.trans h.2.2
      · exact h
  rw [hl, List.foldl_append, List.foldl_cons]
  obtain ⟨a1, a2, a3⟩ := pre l1 s1 h1 ⟨.rfl, fun _ => ⟨rfl, rfl, rfl⟩, rfl⟩ _ rfl
  generalize l1.foldl _ s1 = u at a1 a2 a3 ⊢
  refine ⟨u, a1, a2, a3, ?_⟩
  have cu : u.cmpCfg c = s.cmpCfg c := by rw [a1.cfg]; rfl
  rw [if_pos (by rw [cu]; exact ⟨he, hm, rfl⟩)]
  have fin : CmpK c (u.arcJudge c) (l2.foldl (fun s a => if cfgEn (s.cmpCfg a) ∧ cfgMode (s.cmpCfg a) = 3 ∧ cfgLight (s.cmpCfg a) = cfgLight w then s.arcJudge a else s) (u.arcJudge c)) := by
    refine CmpK.foldl _ (fun t a ha ht => ?_) _ .rfl
    split
    · exact ht.trans (arcJudge_ck t a c (fun h => h2 (h ▸ ha)))
    · exact ht
  refine fin.trans ⟨settle_cmp .., ?_⟩
  generalize l2.foldl _ (u.arcJudge c) = v
  have kk := keeps_fastSettle (K := [.irq, .ring, .trip, .fst, .chn]) rfl (Keeps.refl _ v)
  refine ⟨kk.same (p := .regs) (by decide), kk.same (p := .afe) (by decide), kk.same (p := .flt) (by decide), kk.same (p := .fio) (by decide), ?_, ?_, ?_, congrArg List.length (fk_settle v).1⟩
  · exact congrArg (fun x => x.sysLock) (kk.same (p := .clk) (by decide) : v.fastSettle.clk = v.clk)
  · exact congrArg (fun x => x.sysSrc) (kk.same (p := .clk) (by decide) : v.fastSettle.clk = v.clk)
  · exact (fk_settle v).2.2.2.2

theorem fast_target : ∀ a < 0x2A50, 0x2800 ≤ a → (a = 0x2804 ∨ a = 0x2808 ∨ a = 0x280C ∨ (((0x2880 ≤ a ∧ a < 0x28C0) ∨ (0x2900 ≤ a ∧ a < 0x2A50)) ∧ a % 4 = 0)) →
    ∃ r, targetOf a = some (.reg r) ∧ r.mask ≠ 0 := by
  have : (List.range 0x250).all (fun k => let a := 0x2800 + k
    if a = 0x2804 ∨ a = 0x2808 ∨ a = 0x280C ∨ (((0x2880 ≤ a ∧ a < 0x28C0) ∨ (0x2900 ≤ a ∧ a < 0x2A50)) ∧ a % 4 = 0) then
      (match targetOf a with | some (.reg r) => decide (r.mask ≠ 0) | _ => false) else true) = true := by decide +kernel
  intro a h1 h2 h3
  rw [List.all_eq_true] at this
  have k := this (a - 0x2800) (List.mem_range.mpr (by omega))
  have e : 0x2800 + (a - 0x2800) = a := by omega
  simp only [e] at k
  rw [if_pos h3] at k
  split at k
  · rename_i r hr; exact ⟨r, hr, of_decide_eq_true k⟩
  · cases k

theorem regSeen_defer (s : State) (k : Nat) (v : Word) : (s.deferReg k v).regSeen k = v := by
  unfold State.regSeen State.deferReg
  simp [List.foldl_append]

theorem settle_age (s : State) : s.fastSettle.fst.xAge = s.fst.xAge := by
  have fo : ∀ {α : Type} (l : List α) (f : State → α → State), (∀ s a, (f s a).fst.xAge = s.fst.xAge) → ∀ s, (l.foldl f s).fst.xAge = s.fst.xAge := by
    intro α l f h; induction l with
    | nil => intro s; rfl
    | cons a r ih => intro s; rw [List.foldl_cons, ih, h]
  have sg : ∀ (s : State) on g b, (s.sendGroup on g b).fst.xAge = s.fst.xAge := by
    intro s on g b
    unfold State.sendGroup
    split
    · split
      · rfl
      · rw [stageTick_fst]; rfl
    · unfold State.insertPair
      extract_lets up room ports peak twice ch s1
      split
      · rw [stage_fst]
      · rfl
  unfold State.fastSettle
  extract_lets rows xrx o s1 s2 s3
  have h3 : s3.fst.xAge = s.fst.xAge := by
    simp only [s3, s2]
    rw [fo _ _ (fun s a => by split <;> simp [State.fastOperate]), fo _ _ (fun s a => by split <;> simp [State.fastOperate])]; rfl
  unfold State.sendGroups
  extract_lets old now s4
  rw [fo _ _ (fun s a => by split <;> [exact sg ..; rfl])]
  exact h3

end Sys2Proof.Facts.FastRoutes
end

