-- ==== Sys2Proof/Laws/FieldPorts.lean ====
section
/-! SUPPORT. Outputs, couplers and the field supply. Lemmas about the operations of these rows, for the proofs of the statements about them. -/

namespace Sys2Proof.Facts.FieldPorts

open Sys2Proof Sys2Proof.Machine

/-- What following the outputs leaves. -/
def DoK (s t : State) : Prop := (∀ n, (t.outp n).cross = (s.outp n).cross ∧ (t.outp n).hold = (s.outp n).hold ∧ (t.outp n).holding = (s.outp n).holding ∧ (t.outp n).thermal = (s.outp n).thermal) ∧
  t.fio.failed = s.fio.failed ∧ t.fio.state = s.fio.state ∧ t.fio.di = s.fio.di ∧ t.fio.ready = s.fio.ready ∧ t.sys = s.sys

theorem DoK.rfl {s : State} : DoK s s := ⟨fun _ => ⟨.refl _, .refl _, .refl _, .refl _⟩, .refl _, .refl _, .refl _, .refl _, .refl _⟩

theorem DoK.trans {s t u : State} (h : DoK s t) (k : DoK t u) : DoK s u :=
  ⟨fun n => ⟨(k.1 n).1.trans (h.1 n).1, (k.1 n).2.1.trans (h.1 n).2.1, (k.1 n).2.2.1.trans (h.1 n).2.2.1, (k.1 n).2.2.2.trans (h.1 n).2.2.2⟩, k.2.1.trans h.2.1, k.2.2.1.trans h.2.2.1, k.2.2.2.1.trans h.2.2.2.1, k.2.2.2.2.1.trans h.2.2.2.2.1, k.2.2.2.2.2.trans h.2.2.2.2.2⟩

theorem dok_modDo (s : State) (i : Nat) (f : DoSt → DoSt) (hf : ∀ o, (f o).cross = o.cross ∧ (f o).hold = o.hold ∧ (f o).holding = o.holding ∧ (f o).thermal = o.thermal) : DoK s (s.modDo i f) := by
  refine ⟨fun n => ?_, rfl, rfl, rfl, rfl, rfl⟩
  by_cases hi : i = n
  · subst hi
    by_cases hl : i < s.fio.dos.length
    · rw [outp_modDo s i f hl]; exact hf _
    · have : (s.modDo i f).outp i = s.outp i := by
        simp only [State.outp, State.modDo, State.modFio, nth, modNth]
        rw [List.getD_eq_getElem?_getD, List.getD_eq_getElem?_getD, List.getElem?_eq_none (by simpa using hl), List.getElem?_eq_none (by simpa using hl)]
      rw [this]; exact ⟨rfl, rfl, rfl, rfl⟩
  · rw [outp_modDo_ne s i n f hi]; exact ⟨rfl, rfl, rfl, rfl⟩

theorem dok_follow (s : State) : DoK s s.followOutputs := by
  unfold State.followOutputs
  suffices H : ∀ (l : List Nat) (t : State), DoK t (l.foldl (fun s n =>
    if s.outOn n then s.modDo n (fun o => { o with peer := false })
    else s.modDo n (fun o => { o with limit := o.limit && o.thermal, failOff := false, openLd := false, overload := false, current := 0 })) t) from H _ s
  intro l
  induction l with
  | nil => intro t; exact .rfl
  | cons a r ih =>
    intro t
    rw [List.foldl_cons]
    refine DoK.trans ?_ (ih _)
    split
    · exact dok_modDo _ _ _ (fun _ => ⟨rfl, rfl, rfl, rfl⟩)
    · exact dok_modDo _ _ _ (fun _ => ⟨rfl, rfl, rfl, rfl⟩)

theorem tgtc : ∃ r, targetOf 0x2D40 = some (.reg r) ∧ r.mask ≠ 0 := ⟨_, rfl, by decide⟩

theorem modDo_sys (s : State) (i f) : (s.modDo i f).sys = s.sys := rfl

theorem modDo_ldg (s : State) (i f) : (s.modDo i f).ldg = s.ldg := rfl

theorem stage_outp (s : State) (a b c n) : (s.stage a b c).outp n = s.outp n := by simp [State.outp]

theorem setNme_outp (s : State) (b n) : (s.setNme b).outp n = s.outp n := rfl

theorem stage_nme (s : State) (a b c) : (s.stage a b c).sys.nme = s.sys.nme := by simp

theorem regSeen_defer (s : State) (k : Nat) (v : Word) : (s.deferReg k v).regSeen k = v := by
  unfold State.regSeen State.deferReg
  simp [List.foldl_append]

theorem cf_fail (s : State) : s.couplerFlush.fio.failed = s.fio.failed ∧ s.couplerFlush.fio.dos = s.fio.dos ∧ s.couplerFlush.sys.health = s.sys.health := by
  unfold State.couplerFlush
  extract_lets due
  split
  · exact ⟨rfl, rfl, rfl⟩
  · suffices H : ∀ (l : List (Nat × Nat)) (t : State), (l.foldl (fun s p => s.stage 0x00D5 2 (b1 p.1)) t).fio = t.fio ∧ (l.foldl (fun s p => s.stage 0x00D5 2 (b1 p.1)) t).sys.health = t.sys.health by
      rw [(H _ _).1, (H _ _).2]; exact ⟨rfl, rfl, rfl⟩
    intro l; induction l with
    | nil => intro t; exact ⟨rfl, rfl⟩
    | cons a r ih => intro t; rw [List.foldl_cons, (ih _).1, (ih _).2]; simp

theorem fq (s : State) : s.fastQual.fio = s.fio ∧ s.fastQual.sys.health = s.sys.health :=
  ⟨Keeps.same (keeps_fastQual (K := [.irq, .ring, .trip, .clk, .fst, .chn]) rfl (Keeps.refl _ s)) (p := .fio) (by decide), Keeps.same (keeps_fastQual (K := [.irq, .ring, .trip, .clk, .fst, .chn]) rfl (Keeps.refl _ s)) (p := .health) (by decide)⟩

theorem el (s : State) : s.enterLost.fio.failed = s.fio.failed ∧ (s.sys.health = false → s.enterLost.sys.health = false) := by
  unfold State.enterLost
  split
  · exact ⟨rfl, id⟩
  · rw [(fq _).1, (fq _).2]; exact ⟨rfl, fun _ => rfl⟩

theorem jl (s : State) : s.judgeLost.fio.failed = s.fio.failed ∧ (s.sys.health = false → s.judgeLost.sys.health = false) := by
  unfold State.judgeLost
  extract_lets p s1
  split
  · simp only [stage_fio, stage_sys_health]
    exact el s
  · exact ⟨rfl, id⟩

theorem setTrue (l : List Bool) (k : Nat) (b : Bool) (h : k < l.length) : nth (l.set k b) k = b ∧ ∀ j, j ≠ k → nth (l.set k b) j = nth l j :=
  ⟨nth_set_self h, fun j hj => by simp [nth, List.getD_eq_getElem?_getD, List.getElem?_set, Ne.symm hj]⟩

end Sys2Proof.Facts.FieldPorts
end

