-- ==== Sys2Proof/Laws/FrontEnd.lean ====
section
/-! SUPPORT. Rotation, pilot, boundaries of settings, the auxiliary converter. Lemmas about the operations of these rows, for the proofs of the statements about them. -/

namespace Sys2Proof.Facts.FrontEnd

open Sys2Proof Sys2Proof.Machine

theorem role_ne (s : State) (c d : Nat) (r : CoreRole) (h : c ≠ d) : (s.setRole c r).core d = s.core d := core_modCore_ne _ _ _ _ h

theorem jp (s : State) : s.judgePilots.afe = s.afe := Keeps.same (keeps_judgePilots (K := [.causes]) rfl (Keeps.refl _ s)) (p := .afe) (by decide)

theorem tgt : ∃ r, targetOf 0x1800 = some (.reg r) ∧ r.mask ≠ 0 := ⟨_, rfl, by decide⟩

theorem refuse (s : State) (c : Nat) : (s.refuseFlt c).flt = { s.flt with result := c } := by simp [State.refuseFlt]

theorem floors {p : Part} (s : State) (h : p ∉ [Part.irq, .ring, .trip, .fst, .chn, .clk]) : Same s s.fastFloors p := Keeps.same (keeps_fastFloors (K := [.irq, .ring, .trip, .fst, .chn, .clk]) rfl (Keeps.refl _ s)) h

theorem tail (b : State) : b.fastFloors.followOutputs.defer = b.defer ∧ b.fastFloors.followOutputs.regs = b.regs := by
  have k := keeps_followOutputs (K := [.irq, .ring, .trip, .fst, .chn, .clk, .fio]) rfl (keeps_fastFloors rfl (Keeps.refl _ b))
  exact ⟨Keeps.same k (p := .defer) (by decide), Keeps.same k (p := .regs) (by decide)⟩

theorem tgt_c4 : ∃ r, targetOf 0x1C24 = some (.reg r) ∧ r.mask ≠ 0 := ⟨_, rfl, by decide⟩

theorem refs_aux (s : State) (n c : Nat) : (s.auxRefs n c).aux.res = s.aux.res ∧ (s.auxRefs n c).aux.entry = s.aux.entry ∧ (s.auxRefs n c).aux.passes = s.aux.passes ∧ (s.auxRefs n c).regs = s.regs := by
  have rj : ∀ ok (f : Aux → Bool → Aux), (∀ a b, (f a b).res = a.res ∧ (f a b).entry = a.entry ∧ (f a b).passes = a.passes) → ((s.refJudge ok f).aux.res = s.aux.res ∧ (s.refJudge ok f).aux.entry = s.aux.entry ∧ (s.refJudge ok f).aux.passes = s.aux.passes ∧ (s.refJudge ok f).regs = s.regs) := by
    intro ok f hf
    unfold State.refJudge
    dsimp only
    split
    · exact ⟨(hf _ _).1, (hf _ _).2.1, (hf _ _).2.2, rfl⟩
    · rw [stage_aux, stage_regs]; exact ⟨(hf _ _).1, (hf _ _).2.1, (hf _ _).2.2, rfl⟩
  unfold State.auxRefs
  dsimp only
  split
  · exact rj _ _ (fun _ _ => ⟨rfl, rfl, rfl⟩)
  · split
    · split
      · exact rj _ _ (fun _ _ => ⟨rfl, rfl, rfl⟩)
      · exact ⟨rfl, rfl, rfl, rfl⟩
    · split
      · exact rj _ _ (fun _ _ => ⟨rfl, rfl, rfl⟩)
      · exact ⟨rfl, rfl, rfl, rfl⟩

theorem jpc (s : State) : (7 ∈ s.judgePilots.sys.causes ↔ 2 < (s.judgePilots.afe.ch.filter (fun x => x.suspect)).length) ∧
    ((s.judgePilots.afe.ch.filter (fun x => x.suspect)).length ≤ 2 → s.judgePilots.sys.causes = s.sys.causes.filter (fun x => x ≠ 7)) := by
  have e : s.judgePilots.afe = s.afe := Keeps.same (keeps_judgePilots (K := [.causes]) rfl (Keeps.refl _ s)) (p := .afe) (by decide)
  rw [e]
  unfold State.judgePilots countIf
  split
  · rename_i h
    refine ⟨⟨fun _ => h, fun _ => ?_⟩, fun q => by omega⟩
    unfold State.addCause; simp; split <;> simp_all
  · rename_i h
    refine ⟨⟨fun q => ?_, fun q => absurd q h⟩, fun _ => ?_⟩
    · unfold State.dropCause at q; simp at q
    · unfold State.dropCause; simp

theorem jpc' (s u : State) (hs : u.sys.causes = s.sys.causes) : (7 ∈ u.judgePilots.sys.causes ↔ 2 < (u.judgePilots.afe.ch.filter (fun x => x.suspect)).length) ∧
    ((u.judgePilots.afe.ch.filter (fun x => x.suspect)).length ≤ 2 → u.judgePilots.sys.causes = s.sys.causes.filter (fun x => x ≠ 7)) := by
  rw [← hs]; exact jpc u

theorem sus_len (s : State) (c : Nat) (f : AfeCh → AfeCh) (h : ∀ x, (f x).suspect = x.suspect) : ((s.modAfeCh c f).afe.ch.filter (fun x => x.suspect)).length = (s.afe.ch.filter (fun x => x.suspect)).length := by
  have : (s.modAfeCh c f).afe.ch = modNth s.afe.ch c f := rfl
  rw [this]; clear this; unfold modNth
  generalize s.afe.ch = l
  induction l generalizing c with
  | nil => simp
  | cons a l ih => cases c with
    | zero => by_cases q : a.suspect <;> simp [List.filter_cons, h, q]
    | succ c => by_cases q : a.suspect <;> simp [List.filter_cons, h, q, ih c]

theorem pw (s : State) (c : Nat) (amp ph : Rat) (P : State → Prop) (h1 : ∀ u : State, u.sys.causes = s.sys.causes → (u.afe.ch.filter (fun x => x.suspect)).length = (s.afe.ch.filter (fun x => x.suspect)).length → P u)
    (h2 : ∀ u : State, u.sys.causes = s.sys.causes → P u.judgePilots) : P (s.pilotWindow c amp ph) := by
  unfold State.pilotWindow
  extract_lets a u0 dev
  split
  · exact h1 s rfl rfl
  split
  · apply h1
    · simp [u0]
    · rw [stage_afe]; exact sus_len s c (fun x => { x with fresh := false, base := x.base.set a.gain (some (amp, ph)) }) (fun _ => rfl)
  · rename_i b hb
    extract_lets ad pd ok u v w
    have hu : u.sys.causes = s.sys.causes := rfl
    have hl : (u.afe.ch.filter (fun x => x.suspect)).length = (s.afe.ch.filter (fun x => x.suspect)).length := sus_len s c (fun x => { x with fresh := false, ampDev := ad, phDev := pd }) (fun _ => rfl)
    split
    · exact h1 u hu hl
    · split
      · split
        · exact h1 _ hu ((sus_len u c (fun x => { x with inside := 0 }) (fun _ => rfl)).trans hl)
        · apply h2; simp [v, hu]
      · split
        · split
          · apply h2; simp [w, hu]
          · exact h1 _ hu ((sus_len u c (fun x => { x with inside := a.inside + 1 }) (fun _ => rfl)).trans hl)
        · exact h1 u hu hl

end Sys2Proof.Facts.FrontEnd
end

