-- ==== Sys2Proof/Laws/HingePairs.lean ====
section
/-! SUPPORT. Hinge roles, anchors, handover. Lemmas about the operations of these rows, for the proofs of the statements about them. -/

namespace Sys2Proof.Facts.HingePairs

open Sys2Proof Sys2Proof.Machine

theorem settle_hng (x : State) : (x.fastSettle.followOutputs).hng = x.hng := (keeps_followOutputs (K := [.irq, .ring, .trip, .fst, .fio, .chn]) (hM := rfl) (keeps_fastSettle (hM := rfl) (Keeps.refl _ x))).1.2 .hng (by decide)

theorem apply_hng (x : State) (n) : (x.applyState n).hng = { x.hng with ctl := decide (n = OpState.inService) && x.hinged, leaving := none, claimed := false } ∧ (x.applyState n).sys.st = n := by
  unfold State.applyState
  extract_lets s1 s2 c1 c2 s3 s4
  have h1 : s1.hng = x.hng ∧ s1.sch = x.sch := by
    simp only [s1]; split
    · have k := keeps_holdOutputs (K := [.fio]) rfl (Keeps.refl _ x)
      exact ⟨k.same (p := .hng) (by decide), k.same (p := .sch) (by decide)⟩
    · exact ⟨rfl, rfl⟩
  have h2 : s2.hng = s1.hng ∧ s2.sch = s1.sch := by
    simp only [s2]; split
    · have k := keeps_markTest (K := [.flt]) (decide (n = OpState.test)) rfl (Keeps.refl _ s1)
      exact ⟨k.same (p := .hng) (by decide), k.same (p := .sch) (by decide)⟩
    · exact ⟨rfl, rfl⟩
  have h3 : s3.hng = { s2.hng with ctl := decide (n = OpState.inService) && s2.hinged, leaving := none, claimed := false } ∧ s3.sys.st = n := ⟨rfl, rfl⟩
  have hh : s2.hinged = x.hinged := by unfold State.hinged; rw [h2.2, h1.2]
  clear_value s3
  have h4 : s4.hng = s3.hng ∧ s4.sys.st = s3.sys.st := by simp only [s4]; split <;> exact ⟨rfl, rfl⟩
  clear_value s4
  rw [settle_hng, settle_st, h4.1, h4.2, h3.1, h3.2, hh, h2.1, h1.1]
  exact ⟨rfl, rfl⟩

theorem change_hng (s : State) (n c) : (s.changeState n c).hng = { s.hng with ctl := decide (n = OpState.inService) && s.hinged, leaving := none, claimed := false } ∧ (s.changeState n c).sys.st = n ∧ (s.changeState n c).sys.lastCause = c ∧ (s.changeState n c).pwr.ot = s.pwr.ot := by
  unfold State.changeState
  extract_lets old s1 s2 c1 s3 s4
  have h1 : s1.hng = s.hng ∧ s1.hinged = s.hinged ∧ s1.pwr.ot = s.pwr.ot := by
    simp only [s1]; split
    · have k := keeps_endForeground (K := [.irq, .job, .ring, .trip, .afe, .flt]) rfl (Keeps.refl _ s)
      have k1 : s.endForeground.hng = s.hng := Keeps.same k (p := .hng) (by decide)
      have k2 : s.endForeground.sch = s.sch := Keeps.same k (p := .sch) (by decide)
      have k3 : s.endForeground.pwr = s.pwr := Keeps.same k (p := .pwr) (by decide)
      exact ⟨k1, by unfold State.hinged; rw [k2], by rw [k3]⟩
    · exact ⟨rfl, rfl, rfl⟩
  have ht : (s1.timeService n).hng = s1.hng ∧ (s1.timeService n).hinged = s1.hinged ∧ (s1.timeService n).pwr.ot = s1.pwr.ot := by
    unfold State.timeService; split <;> exact ⟨rfl, rfl, rfl⟩
  have h2 := apply_hng (s1.timeService n) n
  have hp : s2.pwr = (s1.timeService n).pwr := Keeps.same (keeps_applyState (K := [.st, .irq, .ring, .trip, .flt, .fst, .fio, .chn, .hng]) n rfl (Keeps.refl _ (s1.timeService n))) (p := .pwr) (by decide)
  have hs2 : s2 = (s1.timeService n).applyState n := rfl
  rw [ht.1, ht.2.1, h1.1, h1.2.1, ← hs2] at h2
  clear hs2
  have h2a : s2.hng = _ := h2.1
  have h2b : s2.sys.st = n := h2.2
  have h2c : s2.pwr.ot = s.pwr.ot := by rw [hp, ht.2.2, h1.2.2]
  clear_value s2
  have e3 : ∀ u : State, ({ u with sys := { u.sys with lastCause := c, failFrom := if n = OpState.failsafe then old else u.sys.failFrom } } : State).hng = u.hng ∧ ({ u with sys := { u.sys with lastCause := c, failFrom := if n = OpState.failsafe then old else u.sys.failFrom } } : State).sys.st = u.sys.st ∧ ({ u with sys := { u.sys with lastCause := c, failFrom := if n = OpState.failsafe then old else u.sys.failFrom } } : State).sys.lastCause = c ∧ ({ u with sys := { u.sys with lastCause := c, failFrom := if n = OpState.failsafe then old else u.sys.failFrom } } : State).pwr = u.pwr := fun _ => ⟨rfl, rfl, rfl, rfl⟩
  have h3 : s3.hng = s2.hng ∧ s3.sys.st = s2.sys.st ∧ s3.sys.lastCause = c ∧ s3.pwr = s2.pwr := e3 s2
  clear_value s3
  have h4 : s4.hng = s3.hng ∧ s4.sys.st = s3.sys.st ∧ s4.sys.lastCause = s3.sys.lastCause ∧ s4.pwr = s3.pwr := by
    have g : ∀ u : State, (u.setNme 0).hng = u.hng ∧ (u.setNme 0).sys.st = u.sys.st ∧ (u.setNme 0).sys.lastCause = u.sys.lastCause ∧ (u.setNme 0).pwr = u.pwr := fun _ => ⟨rfl, rfl, rfl, rfl⟩
    by_cases hn : n = OpState.failsafe
    · have : s4 = s3.setNme 0 := if_pos hn
      rw [this]; exact g s3
    · have : s4 = s3 := if_neg hn
      rw [this]; exact ⟨rfl, rfl, rfl, rfl⟩
  clear_value s4
  have h5 : ∀ (u : State) (a b c), ((u.setIrq 0).stage a b c).hng = u.hng ∧ ((u.setIrq 0).stage a b c).sys.st = u.sys.st ∧ ((u.setIrq 0).stage a b c).sys.lastCause = u.sys.lastCause ∧ ((u.setIrq 0).stage a b c).pwr = u.pwr :=
    fun u a b c => ⟨(stage_hng ..).trans rfl, (stage_sys_st ..).trans rfl, (stage_sys_lastCause ..).trans rfl, (stage_pwr ..).trans rfl⟩
  obtain ⟨k1, k2, k3, k4⟩ := h5 s4 0x0010 (if n = OpState.failsafe then 2 else 0) (b1 (stCode old) ++ b1 (stCode n) ++ b1 c ++ b1 s4.sys.reqResult ++ zeros 4)
  refine ⟨?_, ?_, ?_, ?_⟩
  · exact k1.trans (h4.1.trans (h3.1.trans h2a))
  · exact k2.trans (h4.2.1.trans (h3.2.1.trans h2b))
  · exact k3.trans (h4.2.2.1.trans h3.2.2.1)
  · rw [k4, h4.2.2.2, h3.2.2.2, h2c]

theorem auto_hng (s : State) (n c) : (s.autoState n c).hng = { s.hng with ctl := decide (n = OpState.inService) && s.hinged, leaving := none, claimed := false } ∧ (s.autoState n c).sys.st = n ∧ (s.autoState n c).sys.lastCause = c :=
  ⟨(change_hng s n c).1, (change_hng s n c).2.1, (change_hng s n c).2.2.1⟩

theorem take_spec (s : State) (hh : s.hinged = true) : s.takeover.sys.st = .inService ∧ s.takeover.sys.lastCause = 9 ∧ s.takeover.hng.ctl = true ∧ s.takeover.hng.peer = s.hng.peer ∧ s.takeover.hng.takeovers = satInc 65535 s.hng.takeovers ∧ s.takeover.hng.seenOt = some s.pwr.ot := by
  obtain ⟨c1, c2, c3, c4⟩ := change_hng s .inService 9
  unfold State.takeover
  generalize s.changeState .inService 9 = u at c1 c2 c3 c4 ⊢
  extract_lets r s1 s2
  have e1 : s1.hng = u.hng ∧ s1.sys.st = u.sys.st ∧ s1.sys.lastCause = u.sys.lastCause ∧ s1.pwr = u.pwr := ⟨rfl, rfl, rfl, rfl⟩
  rw [c1, c2, c3] at e1
  have e5 : s1.pwr.ot = s.pwr.ot := by rw [e1.2.2.2, c4]
  clear_value s1
  have e2 : s2.hng = { s1.hng with takeovers := satInc 65535 s1.hng.takeovers, seenOt := some s1.pwr.ot, jobReady := false } ∧ s2.sys = s1.sys := ⟨rfl, rfl⟩
  clear_value s2
  rw [stage_sys_st, stage_sys_lastCause, stage_hng, e2.1, e2.2, e1.1, e1.2.1, e1.2.2.1, e5]
  refine ⟨rfl, rfl, ?_, rfl, rfl, rfl⟩
  dsimp only; rw [hh]; rfl

theorem tgthng : (∃ r, targetOf 0x4400 = some (.reg r) ∧ r.mask ≠ 0) := ⟨_, rfl, by decide⟩

/-- What adopting one item or more leaves. -/
def AdK (o s : State) : Prop := s.hng = o.hng ∧ s.sch = o.sch ∧ s.pwr = o.pwr ∧ s.pe.els.length = o.pe.els.length ∧ (∀ k, k < o.pe.els.length → (nth s.pe.els k).num = (nth o.pe.els k).num) ∧
  ∀ k, k < o.pe.els.length → (∀ c ∈ o.sch.cfg.insts, c.num ≠ (nth o.pe.els k).num) → nth s.pe.els k = nth o.pe.els k

theorem ite_num {P : Prop} [Decidable P] {a b : ElemSt} {n : Nat} (h1 : a.num = n) (h2 : b.num = n) : (if P then a else b).num = n := by split <;> assumption

theorem adoptPart_num (v : Env) (c p k e) : (Env.adoptPart v c p k e).num = e.num := by
  unfold Env.adoptPart
  extract_lets w
  exact ite_num rfl (ite_num rfl (ite_num rfl (ite_num rfl (ite_num rfl (ite_num rfl (ite_num rfl (ite_num rfl (ite_num rfl (ite_num rfl rfl)))))))))

theorem adopt_item (o s : State) (h : AdK o s) (a b c d) : AdK o (s.adoptItem a b c d) := by
  unfold State.adoptItem
  split
  · rename_i x hx
    have hm : x ∈ s.sch.cfg.insts := List.mem_of_find?_eq_some hx
    obtain ⟨h1, h2, h3, h4, h5, h6⟩ := h
    have nthm : ∀ (F : ElemSt → ElemSt) (k : Nat), k < s.pe.els.length → nth (s.pe.els.map F) k = F (nth s.pe.els k) := by
      intro F k hk
      simp [nth, List.getD_eq_getElem?_getD, hk]
    refine ⟨h1, h2, h3, ?_, ?_, ?_⟩
    · exact (List.length_map ..).trans h4
    · intro k hk
      have hk' : k < s.pe.els.length := by rw [h4]; exact hk
      have e := nthm (fun e => if e.num = x.num then Env.adoptPart { s := s, place := x.place } x d c e else e) k hk'
      have e2 : (nth (s.modPe (fun p => { p with els := p.els.map (fun e => if e.num = x.num then Env.adoptPart { s := s, place := x.place } x d c e else e) })).pe.els k) = _ := e
      rw [e2]
      split
      · rw [adoptPart_num]; exact h5 k hk
      · exact h5 k hk
    · intro k hk hn
      have hk' : k < s.pe.els.length := by rw [h4]; exact hk
      have e := nthm (fun e => if e.num = x.num then Env.adoptPart { s := s, place := x.place } x d c e else e) k hk'
      have e2 : (nth (s.modPe (fun p => { p with els := p.els.map (fun e => if e.num = x.num then Env.adoptPart { s := s, place := x.place } x d c e else e) })).pe.els k) = _ := e
      rw [e2]
      rw [if_neg]
      · exact h6 k hk hn
      · rw [h5 k hk]; exact fun hh => hn x (by rw [← h2]; exact hm) hh.symm
  · exact h

theorem adopt_items (o : State) (k n : Nat) (s : State) (h : AdK o s) (l : List Word) : AdK o (State.adoptItems s k n l) := by
  induction n generalizing s l with
  | zero => exact h
  | succ n ih =>
    match l with
    | [] => exact h
    | [_] => exact h
    | a :: b :: r => exact ih _ (adopt_item o s h _ _ _ _) _

theorem any_mem {α} {l : List α} {p q : α → Bool} (h : ∀ x ∈ l, p x = q x) : l.any p = l.any q := by
  induction l with
  | nil => rfl
  | cons a r ih => rw [List.any_cons, List.any_cons, h a (List.mem_cons_self ..), ih (fun x hx => h x (List.mem_cons_of_mem _ hx))]

theorem bits_lt (w : Word) (a b : Nat) : bitsOf w a b < 2 ^ (a - b + 1) := by unfold bitsOf; exact Nat.mod_lt _ (Nat.two_pow_pos _)

theorem trip_congr {s t : State} (hr : ∀ k < 0x4400, t.reg k = s.reg k) (h1 : t.sys = s.sys) (h2 : t.fst = s.fst) (h3 : t.fio = s.fio) (h4 : t.sch = s.sch) : t.tripAsserted = s.tripAsserted := by
  have hv : ∀ v < 32, t.vote v = s.vote v := fun v hv => by
    unfold State.vote State.cmp; rw [hr _ (by omega), h2]
  have hrow : ∀ r < 64, t.rowOn r = s.rowOn r := fun r h => by
    unfold State.rowOn; rw [hr _ (by omega)]
    have := bits_lt (s.reg (0x2900 + 4 * r)) 20 16
    dsimp only
    rw [hv _ (by omega)]; unfold State.cmp; rw [h2]
  have hx : ∀ m < 16, t.xrxOn m = s.xrxOn m := fun m h => by
    unfold State.xrxOn; rw [hr _ (by omega), h2]
  have hc : ∀ n, t.fastCall n = s.fastCall n := fun n => by
    unfold State.fastCall
    congr 1
    · exact any_mem (fun r h => by have h := List.mem_range.mp h; rw [hrow r h, hr _ (by omega)])
    · exact any_mem (fun r h => by have h := List.mem_range.mp h; rw [hx r h, hr _ (by omega)])
  have hm : ∀ n < 12, t.fastMay n = s.fastMay n := fun n h => by
    unfold State.fastMay State.doShared; rw [h1, hr _ (by omega)]
  unfold State.tripAsserted
  refine any_mem (fun n h => ?_)
  have h := List.mem_range.mp h
  have ho : t.outp n = s.outp n := by unfold State.outp; rw [h3]
  have hon : t.outOn n = s.outOn n := by
    unfold State.outOn State.engineCall State.cplFailed; rw [hc, hm n h, ho, h1, h3]
  rw [hc, hm n h, hon, ho, h1]
  unfold State.tripDriven State.doCfg; rw [hr _ (by omega), h4]

end Sys2Proof.Facts.HingePairs
end

