-- ==== Sys2Proof/Laws/HostPort.lean ====
section
/-! SUPPORT. Frames, register writes, steps of jobs. Lemmas about the operations of these rows, for the proofs of the statements about them. -/

namespace Sys2Proof.Facts.HostPort

open Sys2Proof Sys2Proof.Machine

theorem frame_hit {s : State} {cls : KeyClass} {f : List Byte} {m : Bool} (h1 : s.pathUp cls = true) (h2 : f.length = 9) (h3 : m = true) :
    s.frame cls f m = { (s.serve cls f).1 with host := { (s.serve cls f).1.host with answer := some (cls, (s.serve cls f).2) } } := by
  unfold State.frame; rw [if_pos (by simp [h1, h2, h3])]

theorem frame_miss {s : State} {cls : KeyClass} {f : List Byte} {m : Bool} (h : s.pathUp cls = false ∨ f.length ≠ 9 ∨ m = false) : s.frame cls f m = s := by
  unfold State.frame; rw [if_neg]; rcases h with h | h | h <;> simp [h]

theorem host_answer_same {s t : State} {x : HostPort} (h : SameBut l s t) (hl : Part.host ∈ l) : SameBut l s { t with host := x } := by
  refine ⟨h.1, fun p hp => ?_⟩
  have := h.2 p hp
  cases p <;> first | exact this | exact absurd hl hp

theorem frameError_host (s : State) (cls : KeyClass) (e : Nat) : (s.frameError cls e).host = if cls ≠ .host then s.host else if e = 2 then { s.host with crcErr := satInc 255 s.host.crcErr } else if e = 3 then { s.host with badCmd := satInc 255 s.host.badCmd } else { s.host with frameErr := satInc 255 s.host.frameErr } := by
  unfold State.frameError; exact stage_host _ _ _ _

theorem irqOut_host (s : State) (x : HostPort) : ({ s with host := x } : State).irqOut = s.irqOut := rfl

theorem nmeOut_err (s : State) (cls e) : (s.frameError cls e).nmeOut = s.nmeOut := by
  have h1 : (s.frameError cls e).sys.nme = s.sys.nme := Keeps.same (keeps_frameError (K := [.irq, .host, .ring, .trip]) cls e rfl (Keeps.refl _ s)) (p := .nme) (by decide)
  unfold State.nmeOut; rw [h1, frameError_host]; split <;> (try split) <;> (try split) <;> rfl

/-- The part of a served frame that an outcome of its request decides. -/
theorem serve_of {s u : State} {cls : KeyClass} {f : List Byte} {r : Reply} {d : Bool} (h : s.perform cls f = (u, r, d)) :
    s.serve cls f = (u.noteLast cls f (u.statusByte r) d, answerBytes (u.statusByte r) (reqAddr f) r.data) := by
  unfold State.serve; rw [h]

theorem note_not (u : State) (cls f st) : u.noteLast cls f st false = u := by unfold State.noteLast; rw [if_neg (by simp)]

theorem frames_core (cls : KeyClass) (f : List Byte) (s : State) (c : Nat) (w : Bool) (m : Bool) (hk : cmdOp cls c = if cls = .debug ∧ (c = 0xEB ∨ c = 0x32) then none else some w) (h0 : c = 0x0B ∨ c = 0x02 ∨ c = 0xEB ∨ c = 0x32)
    (hu : s.pathUp cls = true) (hl : f.length = 9) (hc : reqCmd f = c) (hm : m = true) :
      (reqCrcOk f = false → Leads (.next (s.frame cls f m)) fun t => SameBut [.irq, .host, .ring, .trip] s t ∧
        t.host = { s.host with crcErr := if cls = .host then satInc 255 s.host.crcErr else s.host.crcErr, answer := some (cls, answerBytes ((if s.pwr.pf = .none then 2 else 6) + 64 * b2n t.irqOut + 128 * b2n s.nmeOut) (reqAddr f) 0) }) ∧
      (reqCrcOk f = true → cls = .debug → c = 0xEB ∨ c = 0x32 → Leads (.next (s.frame cls f m)) fun t => SameBut [.irq, .host, .ring, .trip] s t ∧
        t.host = { s.host with answer := some (cls, answerBytes ((if s.pwr.pf = .none then 3 else 6) + 64 * b2n t.irqOut + 128 * b2n s.nmeOut) (reqAddr f) 0) }) ∧
      (reqCrcOk f = true → cls ≠ .debug ∨ c = 0x0B ∨ c = 0x02 →
        (s.pwr.pf ≠ .none → (Host.Outcome.next (s.frame cls f m) : Host.Outcome State Fault Refusal) = .next { s with host := { s.host with answer := some (cls, answerBytes (6 + 64 * b2n s.irqOut + 128 * b2n s.nmeOut) (reqAddr f) 0) } }) ∧
        (s.pwr.pf = .none → ∀ (u : State) (code : Nat) (vr : Bool) (d : Word),
          (if w then s.busWrite cls (reqAddr f) (reqData f) else s.busRead cls (reqAddr f) (reqData f)) = (u, { code := code, refused := vr, data := d }) →
          let status := code + 16 * b2n vr + 64 * b2n u.irqOut + 128 * b2n u.nmeOut
          let kept := cls = .host ∧ ¬(w = false ∧ reqAddr f = 0x0024)
          Leads (.next (s.frame cls f m)) fun t => SameBut [.host] u t ∧
            t.host = { u.host with answer := some (cls, answerBytes status (reqAddr f) d), lastStatus := if kept then status else u.host.lastStatus, lastCmd := if kept then c else u.host.lastCmd, lastAddr := if kept then reqAddr f else u.host.lastAddr })) := by
  rw [frame_hit hu hl hm]
  refine ⟨fun hb => ?_, fun ho hd hq => ?_, fun ho hq => ⟨fun hp => ?_, fun hp u code vr d hr => ?_⟩⟩
  · have e : s.perform cls f = (s.frameError cls 2, .bad (if s.pwr.pf = .none then 2 else 6), false) := by
      unfold State.perform; rw [if_pos (by simp [hb])]; by_cases q : s.pwr.pf = .none <;> simp [q]
    rw [serve_of e, note_not]
    refine ⟨_, rfl, host_answer_same (keeps_frameError (K := [.irq, .host, .ring, .trip]) cls 2 rfl (Keeps.refl _ s)).1 (by decide), ?_⟩
    rw [irqOut_host]
    have e2 : (s.frameError cls 2).statusByte (.bad (if s.pwr.pf = .none then 2 else 6)) = (if s.pwr.pf = .none then 2 else 6) + 64 * b2n (s.frameError cls 2).irqOut + 128 * b2n s.nmeOut := by
      rw [← nmeOut_err s cls 2]; unfold State.statusByte; simp [Reply.bad, b2n]
    dsimp only
    rw [e2, frameError_host]
    by_cases q : cls = .host <;> simp [q, Reply.bad]
  · have e : s.perform cls f = (s.frameError cls 3, .bad (if s.pwr.pf = .none then 3 else 6), false) := by
      unfold State.perform; rw [if_neg (by simp [ho]), hc, hk, if_pos ⟨hd, hq⟩]; by_cases q : s.pwr.pf = .none <;> simp [q]
    rw [serve_of e, note_not]
    refine ⟨_, rfl, host_answer_same (keeps_frameError (K := [.irq, .host, .ring, .trip]) cls 3 rfl (Keeps.refl _ s)).1 (by decide), ?_⟩
    rw [irqOut_host]
    have e2 : (s.frameError cls 3).statusByte (.bad (if s.pwr.pf = .none then 3 else 6)) = (if s.pwr.pf = .none then 3 else 6) + 64 * b2n (s.frameError cls 3).irqOut + 128 * b2n s.nmeOut := by
      rw [← nmeOut_err s cls 3]; unfold State.statusByte; simp [Reply.bad, b2n]
    dsimp only
    rw [e2, frameError_host]
    simp [hd, Reply.bad]
  · have hk' : cmdOp cls c = some w := by rw [hk, if_neg]; rintro ⟨a, b⟩; rcases hq with q | q | q <;> simp_all
    have e : s.perform cls f = (s, .bad 6, false) := by
      unfold State.perform; rw [if_neg (by simp [ho]), hc, hk']; simp [hp]
    rw [serve_of e, note_not]
    congr 1
  · have hk' : cmdOp cls c = some w := by rw [hk, if_neg]; rintro ⟨a, b⟩; rcases hq with q | q | q <;> simp_all
    have e : s.perform cls f = (u, { code := code, refused := vr, data := d }, true) := by
      unfold State.perform; rw [if_neg (by simp [ho]), hc, hk']; simp [hp, hr]
    rw [serve_of e]
    intro status kept
    have es : u.statusByte { code := code, refused := vr, data := d } = status := rfl
    rw [es]
    have key : ∀ (v : State) (x : HostPort) , SameBut [.host] v { v with host := x } := fun v x => host_answer_same ⟨rfl, fun p _ => by cases p <;> simp [Same]⟩ (by decide)
    unfold State.noteLast
    by_cases q : kept
    · rw [if_pos (show (true = true ∧ cls = .host ∧ ¬(cmdOp cls (reqCmd f) = some false ∧ reqAddr f = 0x0024)) by
        refine ⟨rfl, q.1, ?_⟩; rw [hc, hk']; intro hh; exact q.2 ⟨by simpa using hh.1, hh.2⟩)]
      refine ⟨_, rfl, key _ _, ?_⟩
      simp only [if_pos q, hc]
    · rw [if_neg (show ¬(true = true ∧ cls = .host ∧ ¬(cmdOp cls (reqCmd f) = some false ∧ reqAddr f = 0x0024)) by
        rintro ⟨_, h1, h2⟩; rw [hc, hk'] at h2; exact q ⟨h1, fun hh => h2 ⟨by simp [hh.1], hh.2⟩⟩)]
      refine ⟨_, rfl, key _ _, ?_⟩
      simp only [if_neg q]

theorem outcome_core (cls : KeyClass) (a : Nat) (x : Word) (s u : State) (w : Bool) (code : Nat) (vr : Bool) (d : Word)
    (h : (targetOf a = none ∧ u = s ∧ code = 4 ∧ vr = false ∧ d = 0) ∨
            (∃ g, targetOf a = some g ∧
              ((w = false ∧ s.may cls a (romRead g) 0 = true ∧ u = s.readEffect a ∧ code = 0 ∧ vr = false ∧ d = s.wordView cls a g) ∨
                (w = false ∧ s.may cls a (romRead g) 0 = false ∧ u = s.keyRefused cls 0 a x ∧ code = 1 ∧ vr = false ∧ d = 0) ∨
                (w = true ∧ writable g = true ∧ s.may cls a (romWrite g) 1 = false ∧ u = s.keyRefused cls 1 a x ∧ code = 1 ∧ vr = false ∧ d = 0) ∨
                (w = true ∧ (writable g = true → s.may cls a (romWrite g) 1 = true) ∧ s.sys.st = .boot ∧ a ∉ [0x0010, 0x0014, 0x0018] ∧ u = s ∧ code = 5 ∧ vr = false ∧ d = 0) ∨
                (w = true ∧ writable g = true ∧ s.may cls a (romWrite g) 1 = true ∧ (s.sys.st ≠ .boot ∨ a ∈ [0x0010, 0x0014, 0x0018]) ∧
                  (u, vr) = s.applyWord cls a x g ∧ code = 0 ∧ d = u.wordView cls a g) ∨
                (w = true ∧ writable g = false ∧ (s.sys.st ≠ .boot ∨ a ∈ [0x0010, 0x0014, 0x0018]) ∧ u = s ∧ code = 0 ∧ vr = false ∧ d = s.wordView cls a g)))) :
    (if w then s.busWrite cls a x else s.busRead cls a x) = (u, { code := code, refused := vr, data := d }) := by
  unfold State.busWrite State.busRead
  have hb : bootWrites = [0x0010, 0x0014, 0x0018] := rfl
  rw [hb]
  rcases h with ⟨h1, rfl, rfl, rfl, rfl⟩ | ⟨g, hg, h⟩
  · rw [h1]; split <;> rfl
  · rw [hg]
    rcases h with ⟨rfl, h1, rfl, rfl, rfl, rfl⟩ | ⟨rfl, h1, rfl, rfl, rfl, rfl⟩ | ⟨rfl, h1, h2, rfl, rfl, rfl, rfl⟩ | ⟨rfl, h1, h2, h3, rfl, rfl, rfl, rfl⟩ | ⟨rfl, h1, h2, h3, h4, rfl, rfl⟩ | ⟨rfl, h1, h2, rfl, rfl, rfl, rfl⟩
    · simp [h1]
    · simp [h1]; rfl
    · simp [h1, h2]; rfl
    · by_cases q : writable g = true
      · have h1 := h1 q
        simp only [q, h1, if_true]
        rw [if_neg (by simp), if_pos ⟨h2, h3⟩]; rfl
      · simp only [q, if_true]
        rw [if_neg (by simp), if_pos ⟨h2, h3⟩]; rfl
    · simp only [h1, h2, if_true]
      rw [if_neg (by simp), if_neg (by rintro ⟨p, q⟩; rcases h3 with h | h; exact h p; exact q h), ← h4]
    · simp only [h1, if_true]
      rw [if_neg (by simp), if_neg (by rintro ⟨p, q⟩; rcases h2 with h | h; exact h p; exact q h)]; rfl

/-- Every word with an address of a status word of SYS is a register with writable bits. -/
theorem tgt10 : ∃ r, targetOf 0x0010 = some (.reg r) ∧ r.mask ≠ 0 := ⟨_, rfl, by decide⟩

theorem tgt18 : ∃ r, targetOf 0x0018 = some (.reg r) ∧ r.mask ≠ 0 := ⟨_, rfl, by decide⟩

theorem cmd_none (cls : KeyClass) (c : Nat) : cmdOp cls c = none ↔ c ≠ 0x0B ∧ c ≠ 0x02 ∧ (cls = .debug ∨ (c ≠ 0xEB ∧ c ≠ 0x32)) := by
  unfold cmdOp
  by_cases h1 : c = 0x0B
  · simp [h1]
  · by_cases h2 : c = 0x02
    · simp [h2]
    · by_cases h3 : c = 0xEB
      · subst h3; by_cases q : cls = .debug <;> simp [q]
      · by_cases h4 : c = 0x32
        · subst h4; by_cases q : cls = .debug <;> simp [q]
        · simp [h1, h2, h3, h4]

theorem nme_err (s : State) (cls e) : (s.frameError cls e).nmeOut = s.nmeOut := by
  have h1 : (s.frameError cls e).sys.nme = s.sys.nme := Keeps.same (keeps_frameError (K := [.irq, .host, .ring, .trip]) cls e rfl (Keeps.refl _ s)) (p := .nme) (by decide)
  unfold State.nmeOut; rw [h1]; unfold State.frameError; simp only [stage_host]; split <;> (try split) <;> (try split) <;> rfl

theorem err_host (s : State) (cls : KeyClass) (e : Nat) : (s.frameError cls e).host = if cls ≠ .host then s.host else if e = 2 then { s.host with crcErr := satInc 255 s.host.crcErr } else if e = 3 then { s.host with badCmd := satInc 255 s.host.badCmd } else { s.host with frameErr := satInc 255 s.host.frameErr } := by
  unfold State.frameError; exact stage_host _ _ _ _

theorem reply_status (s : State) (cls e k) : (s.frameError cls e).statusByte (.bad k) = k + 64 * b2n (s.frameError cls e).irqOut + 128 * b2n s.nmeOut := by
  rw [← nme_err s cls e]; unfold State.statusByte; simp [Reply.bad, b2n]

theorem find_of {l a b : List Nat} {t : Nat} {q : List Nat} (h : l = a ++ t :: b) (ha : ∀ x ∈ a, x ∈ q) (ht : t ∉ q) : l.find? (fun x => x ∉ q) = some t := by
  subst h
  rw [List.find?_append, List.find?_eq_none.mpr (fun x hx => by simpa using ha x hx)]
  simp [ht]

theorem next_step {s : State} {t : Nat} {round : List Nat} (h : (∃ a b, s.jobOrder = a ++ t :: b ∧ (∀ x ∈ a, x ∈ s.job.round) ∧ t ∉ s.job.round ∧ round = s.job.round ++ [t]) ∨ ((∀ x ∈ s.jobOrder, x ∈ s.job.round) ∧ s.jobOrder.head? = some t ∧ round = [t])) : s.nextStepOf = some (t, round) := by
  unfold State.nextStepOf
  rcases h with ⟨a, b, h1, h2, h3, rfl⟩ | ⟨h1, h2, rfl⟩
  · rw [find_of h1 h2 h3]
  · rw [List.find?_eq_none.mpr (fun x hx => by simpa using h1 x hx), h2]; rfl

theorem find_count (l : List Job) (t : Nat) (j : Job) (h : l.find? (fun x => x.ticket = t) = some j) :
    (l.map (fun (k : Job) => if k.ticket = t then { k with step := k.step + 1 } else k)).find? (fun x => x.ticket = t) = some { j with step := j.step + 1 } := by
  induction l with
  | nil => simp at h
  | cons a r ih =>
    by_cases q : a.ticket = t
    · simp [q] at h; subst h; simp [q]
    · have h : r.find? (fun x => x.ticket = t) = some j := by simpa [List.find?_cons, q] using h
      rw [List.map_cons, List.find?_cons_of_neg (by simp [q])]
      exact ih h

theorem filter_count (l : List Job) (t : Nat) : (l.map (fun (k : Job) => if k.ticket = t then { k with step := k.step + 1 } else k)).filter (fun x => x.ticket ≠ t) = l.filter (fun x => x.ticket ≠ t) := by
  induction l with
  | nil => rfl
  | cons a r ih =>
    rw [List.map_cons, List.filter_cons, List.filter_cons, ih]
    by_cases q : a.ticket = t
    · simp [q]
    · simp [q]

theorem find_ticket {l : List Job} {t : Nat} {j : Job} (h : l.find? (fun x => x.ticket = t) = some j) : j.ticket = t := by
  have := List.find?_some h; simpa using this

theorem end_counted (s u : State) (t : Nat) (round : List Nat) (j : Job) (h : s.job.out.find? (fun x => x.ticket = t) = some j)
    (hu : u.job = { s.job with round := round, out := s.job.out.map (fun (k : Job) => if k.ticket = t then { k with step := k.step + 1 } else k) }) :
    (u.endJob t jobDone 0).job = { s.job with round := round.filter (fun x => x ≠ t), out := s.job.out.filter (fun x => x.ticket ≠ t), hist := (({ ticket := t, state := jobDone, reason := 0 } : JobEnd) :: s.job.hist).take 16 } := by
  have e := find_count _ _ _ h
  unfold State.endJob
  rw [hu]
  dsimp only
  rw [e]
  dsimp only
  rw [stage_job, setIrq_job]
  dsimp only
  rw [filter_count]

theorem end_same (L : List Part) (s u : State) (t a b : Nat) (hL : Within [.irq, .job, .ring, .trip] L) (h : Keeps L s u) : Keeps L s (u.endJob t a b) := keeps_endJob t a b hL h

theorem step_eq (s : State) (i : JobIn) (t : Nat) (round : List Nat) (hal : s.alive = true) (hp : s.pwr.pf = .none) (h : s.nextStepOf = some (t, round)) :
    s.jobStep i = (if t = 0x10000 then (s.modJob (fun j => { j with round := round })).capStep
      else if t = 0x10001 then s.modJob (fun j => { j with round := round })
      else match (s.modJob (fun j => { j with round := round })).job.out.find? (fun j => j.ticket = t) with
        | none => s.modJob (fun j => { j with round := round })
        | some j => ((s.modJob (fun j => { j with round := round })).countStep t).stepJob j i) := by
  unfold State.jobStep; rw [if_neg (by simp [hal, hp]), h] <;> rfl

theorem keeps_mono {a b : List Part} {o s : State} (h : Keeps a o s) (hw : Within a b) : Keeps b o s :=
  ⟨⟨h.1.1, fun p hp => h.1.2 p (fun hh => hp (by
    have := hw; simp only [Within, List.all_eq_true, List.contains_eq_mem, decide_eq_true_eq] at this
    exact this p hh))⟩, h.2⟩

theorem modSlot_nth (s : State) (k : Nat) (f : CapSlot → CapSlot) (h : k < s.cap.slots.length) : nth (s.modSlot k f).cap.slots k = f (nth s.cap.slots k) := by
  show nth (modNth s.cap.slots k f) k = _
  exact nth_modNth_self h

theorem Within.refl' (l : List Part) : Within l l := by
  unfold Within; simp

theorem romTab (L : List (Nat × Nat × List KeyClass))
  (hL : ∀ r ∈ regMap, r.mask ≠ 0 → ∀ p ∈ L, p.2.1 < r.addr ∨ r.addr + 4 * r.count ≤ p.1 ∨ (r.classes = maskOf [decide (KeyClass.host ∈ p.2.2), decide (KeyClass.chain ∈ p.2.2), decide (KeyClass.net ∈ p.2.2), decide (KeyClass.debug ∈ p.2.2)]))
  (p) (hp : p ∈ L) (a : Nat) (r : RegRow) (h1 : p.1 ≤ a) (h2 : a ≤ p.2.1) (h3 : targetOf a = some (.reg r)) (h4 : r.mask ≠ 0) :
   r.classes = maskOf [decide (KeyClass.host ∈ p.2.2), decide (KeyClass.chain ∈ p.2.2), decide (KeyClass.net ∈ p.2.2), decide (KeyClass.debug ∈ p.2.2)] := by
  unfold targetOf at h3
  split at h3
  · cases h3
  · split at h3
    · cases hr : rowOf a with
      | none => rw [hr] at h3; cases h3
      | some q =>
        rw [hr] at h3; simp at h3; subst h3
        unfold rowOf at hr
        have hm := List.mem_of_find?_eq_some hr
        have hq := List.find?_some hr
        simp at hq
        rcases hL _ hm h4 p hp with h | h | h
        · omega
        · omega
        · exact h
    · split at h3 <;> (try split at h3) <;> (try split at h3) <;> (try split at h3) <;> cases h3

theorem rom_bits (l : List KeyClass) (cls : KeyClass) : (maskOf [decide (KeyClass.host ∈ l), decide (KeyClass.chain ∈ l), decide (KeyClass.net ∈ l), decide (KeyClass.debug ∈ l)]).testBit (clsIx cls) = decide (cls ∈ l) := by
  by_cases a : KeyClass.host ∈ l <;> by_cases b : KeyClass.chain ∈ l <;> by_cases c : KeyClass.net ∈ l <;> by_cases d : KeyClass.debug ∈ l <;> cases cls <;> simp only [a, b, c, d] <;> decide

theorem may_eq (s : State) (cls : KeyClass) (a m op) (h : s.key.entries = []) : s.may cls a m op = s.classIn cls m := by
  unfold State.may; rw [h]; simp

theorem tgt_win {a : Nat} (h : targetOf a = some .transferWin) : 0x9000 ≤ a ∧ a < 0xA000 := by
  unfold targetOf at h
  split at h
  · cases h
  · split at h
    · cases hr : rowOf a <;> rw [hr] at h <;> simp at h
    · split at h
      · cases h
      · split at h
        · assumption
        · split at h <;> (try split at h) <;> cases h

theorem tgt_reg {a : Nat} {r} (h : targetOf a = some (.reg r)) : a < 0x8000 := by
  unfold targetOf at h
  split at h
  · cases h
  · split at h
    · assumption
    · split at h
      · cases h
      · split at h
        · cases h
        · split at h <;> (try split at h) <;> cases h

theorem both {o : Host.Outcome State Fault Refusal} {P Q : State → Prop} (a : Leads o P) (b : Leads o Q) : ∃ t, o = .next t ∧ P t ∧ Q t := by
  obtain ⟨t, e, p⟩ := a
  obtain ⟨u, f, q⟩ := b
  rw [e] at f
  exact ⟨t, e, p, Host.Outcome.next.inj f ▸ q⟩

theorem tgt14 : targetOf 0x0014 = some (.reg ⟨0x0014, 1, 0x0003FFFF, 0x00000000, 1⟩) := rfl

end Sys2Proof.Facts.HostPort
end

