-- ==== Sys2Proof/Laws/PowerRules.lean ====
section
/-! SUPPORT. Resets, feeds, power fail, DORMANT and the start-up. Lemmas about the operations of these rows, for the proofs of the statements about them. -/

namespace Sys2Proof.Facts.PowerRules

open Sys2Proof Sys2Proof.Machine

theorem tgtrst : ∃ r, targetOf 0x0418 = some (.reg r) ∧ r.mask ≠ 0 := ⟨_, rfl, by decide⟩

theorem was_reset (s : State) (c r : Nat) : WasReset .boot c r s (s.resetFor c r) ∧ (s.resetFor c r).pwr.bootStep = 3 ∧ (s.resetFor c r).sys.bootFrom = if s.sys.st = .boot then s.sys.bootFrom else some (stCode s.sys.st) := by
  refine ⟨?_, rfl, ?_⟩
  · unfold State.resetFor State.resetTo WasReset
    generalize s.holdOutputs = h
    refine (by and_intros <;> rfl)
  · unfold State.resetFor State.resetTo
    dsimp only
    rw [if_neg (by decide)]

theorem held_reset {s u : State} {c r : Nat} (h : WasReset .boot c r s u) : WasReset .boot c r s (u.modPwr (fun p => { p with held := true })) := h

theorem sameAny (L : List Part) (s : State) (x : Power) (h : Part.pwr ∈ L) : SameBut L s { s with pwr := x } :=
  ⟨rfl, fun p hp => by cases p <;> first | exact absurd h hp | (unfold Same; repeat' first | exact rfl | apply And.intro)⟩

theorem sameAnyO2 (L : List Part) (s : State) (x : Power) (h : Part.pwr ∈ L) : SameBut L s { s with pwr := x } :=
  ⟨rfl, fun p hp => by cases p <;> first | exact absurd h hp | (unfold Same; repeat' first | exact rfl | apply And.intro)⟩

theorem sameTransO2 {L : List Part} {s t u : State} (h : SameBut L s t) (g : SameBut L t u) : SameBut L s u :=
  ⟨g.1.trans h.1, fun p hp => by
    have a := h.2 p hp; have b := g.2 p hp
    cases p <;> simp only [Same] at a b ⊢ <;> simp_all⟩

theorem sameUpO2 {L M : List Part} {s t : State} (h : SameBut L s t) (hw : ∀ p ∈ L, p ∈ M) : SameBut M s t := ⟨h.1, fun p hp => h.2 p (fun q => hp (hw p q))⟩

theorem was_resetO2 (s : State) (c r : Nat) : WasReset .boot c r s (s.resetFor c r) := by
  unfold State.resetFor State.resetTo WasReset
  generalize s.holdOutputs = h
  refine (by and_intros <;> rfl)

theorem darkO2 (s : State) : s.dark = true ↔ s.sys.st = .off ∨ s.sys.st = .dormant ∨ s.pwr.held = true := by unfold State.dark; simp [or_assoc]

theorem dropO2 (s : State) : s.dropCause 6 = { s with sys := { s.sys with causes := s.sys.causes.filter (fun x => x ≠ 6) } } := by unfold State.dropCause; rw [if_neg (by decide)]

theorem stageO2 (s : State) (a b l) : SameBut [.irq, .ring, .trip] s (s.stage a b l) := (keeps_stage (K := [.irq, .ring, .trip]) a b l rfl (Keeps.refl _ s)).1

theorem causesO2 (s : State) (x : List Nat) : SameBut [.causes] s { s with sys := { s.sys with causes := x } } :=
  ⟨rfl, fun p hp => by cases p <;> first | exact absurd (by decide) hp | (unfold Same; repeat' first | exact rfl | apply And.intro)⟩

theorem ringO2 (s : State) (x : List Entry) (b : Bool) (n : Nat) : SameBut [.ring] s { s with ldg := { s.ldg with ring := x, closed := b, lateLost := n } } :=
  ⟨rfl, fun p hp => by cases p <;> first | exact absurd (by decide) hp | (unfold Same; repeat' first | exact rfl | apply And.intro)⟩

theorem lose_closed (s : State) (a b : Nat) (c : Bool) : (s.loseEntry a b c).ldg.closed = s.ldg.closed ∧ (s.loseEntry a b c).ldg.ring = s.ldg.ring ∧ s.ldg.pfLost ≤ (s.loseEntry a b c).ldg.pfLost := by
  unfold State.loseEntry
  extract_lets l l1 l2
  have h1 : l1.closed = s.ldg.closed ∧ l1.ring = s.ldg.ring ∧ l1.pfLost = s.ldg.pfLost := by simp only [l1]; split <;> exact ⟨rfl, rfl, rfl⟩
  have h2 : l2.closed = l1.closed ∧ l2.ring = l1.ring ∧ l1.pfLost ≤ l2.pfLost := by
    simp only [l2]
    split
    · split <;> exact ⟨rfl, rfl, le_refl _⟩
    · split
      · exact ⟨rfl, rfl, Nat.le_add_right _ _⟩
      · exact ⟨rfl, rfl, le_refl _⟩
  exact ⟨h2.1.trans h1.1, h2.2.1.trans h1.2.1, by rw [← h1.2.2]; exact h2.2.2⟩

theorem offer_closed (s : State) (e : Entry) : (s.offer e).ldg.closed = s.ldg.closed ∧ (s.ldg.closed = true → (s.offer e).ldg.ring = s.ldg.ring) ∧ s.ldg.pfLost ≤ (s.offer e).ldg.pfLost := by
  unfold State.offer
  split
  · have a := lose_closed s e.sev 1 false; exact ⟨a.1, fun _ => a.2.1, a.2.2⟩
  · rename_i h
    split
    · extract_lets u
      split
      · exact ⟨rfl, fun g => absurd g h, le_refl _⟩
      · exact ⟨rfl, fun g => absurd g h, le_refl _⟩
    · have a := lose_closed s e.sev 1 true; exact ⟨a.1, fun _ => a.2.1, a.2.2⟩

theorem overflow_closed (s : State) : s.overflow.ldg.closed = s.ldg.closed ∧ (s.ldg.closed = true → s.overflow.ldg.ring = s.ldg.ring) ∧ s.ldg.pfLost ≤ s.overflow.ldg.pfLost := by
  unfold State.overflow
  split
  · extract_lets e src
    exact offer_closed { s with ldg := { s.ldg with ovLow := 0, ovHigh := 0 } } e
  · exact ⟨rfl, fun _ => rfl, le_refl _⟩

theorem stage_closed (s : State) (a b : Nat) (l : List Byte) : (s.stage a b l).ldg.closed = s.ldg.closed ∧ (s.ldg.closed = true → (s.stage a b l).ldg.ring = s.ldg.ring) ∧ s.ldg.pfLost ≤ (s.stage a b l).ldg.pfLost := by
  have o := overflow_closed s
  unfold State.stage State.stageWith
  extract_lets u e bb
  have o : u.ldg.closed = s.ldg.closed ∧ (s.ldg.closed = true → u.ldg.ring = s.ldg.ring) ∧ s.ldg.pfLost ≤ u.ldg.pfLost := o
  clear_value u
  have key : ∀ x : State, x.ldg.closed = u.ldg.closed → x.ldg.ring = u.ldg.ring → x.ldg.pfLost = u.ldg.pfLost → (x.offer e).ldg.closed = s.ldg.closed ∧ (s.ldg.closed = true → (x.offer e).ldg.ring = s.ldg.ring) ∧ s.ldg.pfLost ≤ (x.offer e).ldg.pfLost := fun x h1 h2 h3 => by
    have f := offer_closed x e
    exact ⟨f.1.trans (h1.trans o.1), fun g => (f.2.1 (h1.trans (o.1.trans g))).trans (h2.trans (o.2.1 g)), le_trans o.2.2 (h3 ▸ f.2.2)⟩
  split
  · exact key u rfl rfl rfl
  · split
    · exact key _ rfl rfl rfl
    · exact o

/-- What the reopening of the ring leaves. -/
theorem reopenO2 (s : State) : SameBut [.irq, .ring, .trip] s s.reopenRing ∧ s.reopenRing.ldg.closed = false := by
  unfold State.reopenRing
  have a := ringO2 s [] false 0
  have b := stageO2 { s with ldg := { s.ldg with ring := [], closed := false, lateLost := 0 } } 0x0144 1 (b4 s.ldg.lateLost)
  exact ⟨sameTransO2 (sameUpO2 a (by decide)) b, (stage_closed _ _ _ _).1⟩

theorem recordO2 (s : State) (e : Entry) (pf : Bool) : (s.ldg.closed = true → (s.writeRecord e pf).ldg.ring = s.ldg.ring) ∧ s.ldg.pfLost ≤ (s.writeRecord e pf).ldg.pfLost := by
  unfold State.writeRecord
  extract_lets fl w
  have wr : w.ldg.ring = s.ldg.ring ∧ w.ldg.closed = s.ldg.closed ∧ w.ldg.pfLost = s.ldg.pfLost := by
    have := (keeps_writeCirc (K := [.ledger, .dm, .mram]) (hM := rfl) e fl (Keeps.refl _ s)).1.2 .ring (by decide)
    exact ⟨this.1, this.2.2.2.2.2.1, this.2.2.2.2.2.2.1⟩
  split
  · split
    · have := (keeps_writeFirst (K := [.ledger, .dm, .mram]) (hM := rfl) e fl (Keeps.refl _ s)).1.2 .ring (by decide)
      exact ⟨fun _ => this.1, le_of_eq this.2.2.2.2.2.2.1.symm⟩
    · have c := stage_closed { w with ldg := { w.ldg with firstFull := true } } 0x00E8 0 []
      exact ⟨fun h => (c.2.1 (wr.2.1.trans h)).trans wr.1, wr.2.2 ▸ c.2.2⟩
  · exact ⟨fun _ => wr.1, le_of_eq wr.2.2.symm⟩

theorem blockO2 (s : State) : SameBut [.pwr] s (s.writeBlock true) ∧ (s.writeBlock true).pwr = { s.pwr with blocks := (s.writeBlock true).pwr.blocks, newest := (s.writeBlock true).pwr.newest } ∧
    (s.dm.mramFail = false → (s.writeBlock true).pwr.newest = 1 - s.pwr.newest ∧ ∃ b : CounterBlock, b.pf = true ∧ b.ot = s.pwr.ot ∧ (s.writeBlock true).pwr.blocks = s.pwr.blocks.set (1 - s.pwr.newest) (some b)) := by
  unfold State.writeBlock
  by_cases q : s.dm.mramFail = true
  · rw [if_pos q]
    exact ⟨sameAnyO2 _ s s.pwr (by decide), rfl, fun h => absurd (h.symm.trans q) (by decide)⟩
  · rw [if_neg q]
    exact ⟨sameAnyO2 _ s _ (by decide), rfl, fun _ => ⟨rfl, _, rfl, rfl, rfl⟩⟩

theorem clockO2 (s : State) : s.commitClock = true ↔ (s.clk.level ≠ 2 ∨ s.clk.ircOk = true) := by unfold State.commitClock; simp

theorem foundO2 (x : State) : SameBut [.causes, .irq, .ring, .trip, .fio, .hng] x (x.found 6) ∧ 6 ∈ (x.found 6).sys.causes := by
  refine ⟨(keeps_found (K := [.causes, .irq, .ring, .trip, .fio, .hng]) (hM := rfl) 6 (Keeps.refl _ x)).1, ?_⟩
  unfold State.found
  have a : (x.addCause 6).checkCauses.sys.causes = (x.addCause 6).sys.causes := (keeps_checkCauses (K := [.irq, .ring, .trip, .fio, .hng]) (hM := rfl) (Keeps.refl _ (x.addCause 6))).1.2 .causes (by decide)
  rw [a]; unfold State.addCause; dsimp only; split
  · assumption
  · simp

theorem sameO3 (L : List Part) (s t : State) (h : t = { s with clk := t.clk, pwr := t.pwr }) (hL : Part.clk ∈ L) (hP : Part.pwr ∈ L) : SameBut L s t := by
  rw [h]
  exact ⟨rfl, fun p hp => by cases p <;> first | exact absurd hL hp | exact absurd hP hp | (unfold Same; repeat' first | exact rfl | apply And.intro)⟩

theorem lose_closed_o3 (s : State) (a b : Nat) (c : Bool) : (s.loseEntry a b c).ldg.closed = s.ldg.closed := by
  unfold State.loseEntry
  extract_lets l l1 l2
  have h1 : l1.closed = s.ldg.closed := by simp only [l1]; split <;> rfl
  have h2 : l2.closed = l1.closed := by
    simp only [l2]
    split
    · split <;> rfl
    · split <;> rfl
  exact h2.trans h1

theorem offer_closed_o3 (s : State) (e : Entry) : (s.offer e).ldg.closed = s.ldg.closed := by
  unfold State.offer
  split
  · exact lose_closed_o3 s e.sev 1 false
  · split
    · extract_lets u
      split <;> rfl
    · exact lose_closed_o3 s e.sev 1 true

theorem stage_closed_o3 (s : State) (a b : Nat) (l : List Byte) : (s.stage a b l).ldg.closed = s.ldg.closed := by
  have o : s.overflow.ldg.closed = s.ldg.closed := by
    unfold State.overflow
    split
    · extract_lets e src
      exact offer_closed_o3 { s with ldg := { s.ldg with ovLow := 0, ovHigh := 0 } } e
    · rfl
  unfold State.stage State.stageWith
  extract_lets u e bb
  have o : u.ldg.closed = s.ldg.closed := o
  clear_value u
  split
  · exact (offer_closed_o3 u e).trans o
  · split
    · exact (offer_closed_o3 _ e).trans o
    · exact o

theorem fold_closed {α : Type} (f : State → α → State) (h : ∀ s a, (f s a).ldg.closed = s.ldg.closed) (l : List α) (s : State) : (l.foldl f s).ldg.closed = s.ldg.closed := by
  induction l generalizing s with
  | nil => rfl
  | cons a r ih => rw [List.foldl_cons, ih, h]

theorem bootEntered_of (s : State) : s.bootEntered.sys.bootFrom = none ∧ s.bootEntered.sys.st = s.sys.st ∧ s.bootEntered.ldg.closed = s.ldg.closed := by
  unfold State.bootEntered
  split
  · exact ⟨(stage_same _ _ _ _ (p := .st) (by decide)).2.2.2.2.2, (stage_same _ _ _ _ (p := .st) (by decide)).1, stage_closed_o3 _ _ _ _⟩
  · rename_i h; exact ⟨h, rfl, rfl⟩

theorem incPcc_of (s : State) : s.incPcc.ldg.closed = s.ldg.closed ∧ s.incPcc.pwr = { s.pwr with pcc := s.incPcc.pwr.pcc, pccCopies := s.incPcc.pwr.pccCopies } ∧
    (∀ x y, s.pwr.pccCopies = [some x, some y] → s.dm.mramFail = false → s.incPcc.pwr.pcc = min 0xFFFFFFFF (x.max y + 1) ∧ s.incPcc.pwr.pccCopies = s.pwr.pccCopies.set (if x ≤ y then 0 else 1) (some s.incPcc.pwr.pcc)) ∧
    (s.pwr.pccCopies = [none, none] → s.incPcc.pwr.pcc = 1) := by
  unfold State.incPcc
  extract_lets v lost n k u
  have uc : u.ldg.closed = s.ldg.closed := rfl
  have up : u.pwr = { s.pwr with pcc := n, pccCopies := if s.dm.mramFail then s.pwr.pccCopies else s.pwr.pccCopies.set k (some n) } := rfl
  have fin : ∀ t : State, t.ldg.closed = u.ldg.closed → t.pwr = u.pwr → t.ldg.closed = s.ldg.closed ∧ t.pwr = { s.pwr with pcc := t.pwr.pcc, pccCopies := t.pwr.pccCopies } ∧
    (∀ x y, s.pwr.pccCopies = [some x, some y] → s.dm.mramFail = false → t.pwr.pcc = min 0xFFFFFFFF (x.max y + 1) ∧ t.pwr.pccCopies = s.pwr.pccCopies.set (if x ≤ y then 0 else 1) (some t.pwr.pcc)) ∧ (s.pwr.pccCopies = [none, none] → t.pwr.pcc = 1) := by
    intro t h1 h2
    rw [h1, h2, up, uc]
    refine ⟨rfl, rfl, fun x y hxy hm => ?_, fun h => ?_⟩
    · have v0 : v 0 = x := by simp [v, hxy]
      have v1 : v 1 = y := by simp [v, hxy]
      have hn : n = min 0xFFFFFFFF (x.max y + 1) := by simp only [n]; rw [v0, v1]
      have hk : k = if x ≤ y then 0 else 1 := by simp only [k]; rw [v0, v1]
      dsimp only
      rw [if_neg (by rw [hm]; decide), hk, hn]
      exact ⟨rfl, rfl⟩
    · have v0 : v 0 = 0 := by simp [v, h]
      have v1 : v 1 = 0 := by simp [v, h]
      show n = 1
      simp only [n]; rw [v0, v1]; decide
  clear_value u
  split
  · exact fin _ (stage_closed_o3 _ _ _ _) (stage_pwr _ _ _ _)
  · exact fin _ rfl rfl

theorem timeBack_of (s : State) : s.timeBack.ldg.closed = s.ldg.closed ∧ s.timeBack.pwr = { s.pwr with ot := s.timeBack.pwr.ot, resumed := s.timeBack.pwr.resumed, bootOt := s.timeBack.pwr.bootOt } ∧ (s.pwr.cause ≠ 0 → s.timeBack.pwr.ot = s.pwr.ot) ∧
    (s.pwr.cause = 0 → ∀ k, s.pwr.blocks.getD s.pwr.newest none = some k → s.timeBack.pwr.ot = k.ot % 2 ^ 56 ∧ s.timeBack.pwr.resumed = !k.pf) := by
  unfold State.timeBack
  by_cases q : s.pwr.cause = 0
  · rw [if_pos q]
    have nb : ∀ k, s.pwr.blocks.getD s.pwr.newest none = some k → s.newBlock = some k := fun k hk => by unfold State.newBlock; rw [hk]
    unfold State.restoreOt
    extract_lets go maps top s1 s2
    have g1 : ∀ a b, (go a b).ldg.closed = s.ldg.closed := fun _ _ => rfl
    have g2 : ∀ a b, (go a b).pwr = { s.pwr with ot := a % 2 ^ 56, resumed := b, bootOt := (a : Int) - ((s.pwr.ot : Int) - s.pwr.bootOt) } := fun _ _ => rfl
    have e1 : s1.ldg.closed = (go top true).ldg.closed ∧ s1.pwr = (go top true).pwr := ⟨stage_closed_o3 _ _ _ _, stage_pwr _ _ _ _⟩
    have e2 : s2.ldg.closed = s1.ldg.closed ∧ s2.pwr = s1.pwr := ⟨stage_closed_o3 _ _ _ _, stage_pwr _ _ _ _⟩
    clear_value s2 s1 go
    have fin : ∀ (t : State) (a b), t.ldg.closed = s.ldg.closed → t.pwr = (go a b).pwr → t.ldg.closed = s.ldg.closed ∧ t.pwr = { s.pwr with ot := t.pwr.ot, resumed := t.pwr.resumed, bootOt := t.pwr.bootOt } ∧ t.pwr.ot = a % 2 ^ 56 ∧ t.pwr.resumed = b := by
      intro t a b h1 h2; rw [h2, g2]; exact ⟨h1, rfl, rfl, rfl⟩
    have bl : ∀ (b : CounterBlock), ∃ x : Bool, x = !b.pf ∧ ((if b.pf = true then go b.ot false else (go b.ot true).stage 0x0142 1 []).ldg.closed = s.ldg.closed ∧ (if b.pf = true then go b.ot false else (go b.ot true).stage 0x0142 1 []).pwr = (go b.ot x).pwr) := by
      intro b
      by_cases g : b.pf = true
      · rw [if_pos g]; exact ⟨false, by rw [g]; rfl, g1 _ _, rfl⟩
      · rw [if_neg g]; exact ⟨true, by simp [g], by rw [stage_closed_o3, g1], stage_pwr _ _ _ _⟩
    split
    · rename_i b hb
      obtain ⟨x, hx, c1, c2⟩ := bl b
      obtain ⟨f1, f2, f3, f4⟩ := fin _ _ _ c1 c2
      refine ⟨f1, f2, fun n => absurd q n, fun _ k hk => ?_⟩
      have := nb k hk
      rw [hb] at this; cases this
      exact ⟨f3, f4.trans hx⟩
    · rename_i hb
      obtain ⟨f1, f2, f3, f4⟩ := fin (s2.stage 0x0011 1 (b2 0x0410 ++ zeros 2 ++ b4 0xFFFFFFFF ++ b4 (s2.pwr.ot / 2 ^ 32 + s2.otQual false * 2 ^ 24))) top true (by rw [stage_closed_o3, e2.1, e1.1, g1]) (by rw [stage_pwr, e2.2, e1.2])
      refine ⟨f1, f2, fun n => absurd q n, fun _ k hk => ?_⟩
      have := nb k hk
      rw [hb] at this; cases this
  · rw [if_neg q]
    exact ⟨rfl, rfl, fun _ => rfl, fun h => absurd h q⟩

theorem restored_closed (s : State) (a : Nat) : (s.restoreFailed a).ldg.closed = s.ldg.closed := by
  have tell : ∀ (s : State) a m v, (s.tellRestore a m v).ldg.closed = s.ldg.closed := fun _ _ _ _ => stage_closed_o3 ..
  unfold State.restoreFailed
  extract_lets m
  have ite : ∀ {p : Prop} [Decidable p] {x y : State}, x.ldg.closed = s.ldg.closed → y.ldg.closed = s.ldg.closed → (if p then x else y).ldg.closed = s.ldg.closed := by
    intro p _ x y h1 h2; split <;> assumption
  refine ite rfl (ite ((tell ..).trans rfl) (ite ((tell ..).trans rfl) (ite ((tell ..).trans rfl) (ite ((tell ..).trans rfl) (ite ((tell ..).trans rfl) (ite ((tell ..).trans rfl)
    (ite rfl (ite ((tell ..).trans rfl) (ite ((tell ..).trans rfl) (ite ((tell ..).trans rfl) ((tell ..).trans rfl)))))))))))

theorem regsBack_closed (s : State) (b : BootIn) : (s.regsBack b).ldg.closed = s.ldg.closed := by
  unfold State.regsBack
  extract_lets u
  have a : (b.failing.foldl State.restoreFailed s).ldg.closed = s.ldg.closed := fold_closed _ restored_closed _ _
  have c : u.ldg.closed = (b.failing.foldl State.restoreFailed s).ldg.closed := ((keeps_restoreCounts (K := [.cap, .trip, .nv]) rfl (Keeps.refl _ _)).1.2 .ring (by decide)).2.2.2.2.2.1
  have d : ∀ (l : List (Nat × Word)) (x : State), (l.foldl (fun s p => s.setReg p.1 p.2) x).ldg.closed = x.ldg.closed := fun l x => fold_closed (fun (s : State) (p : Nat × Word) => s.setReg p.1 p.2) (fun _ _ => rfl) l x
  rw [d, c, a]

theorem records_closed (s : State) (b : BootIn) : (s.bootRecords b).ldg.closed = s.ldg.closed := by
  unfold State.bootRecords
  extract_lets u
  have hu : u.ldg.closed = s.ldg.closed := by simp only [u]; split; exact stage_closed_o3 _ _ _ _; rfl
  split
  · rw [stage_closed_o3, hu]
  · exact hu

theorem was_resetO4 (s : State) (st : OpState) (c r : Nat) : WasReset st c r s (s.resetTo st false c r) := by
  unfold State.resetTo WasReset
  generalize s.holdOutputs = h
  refine (by and_intros <;> rfl)

theorem wake_of (s : State) : WasReset .boot 4 15 s s.wakeUp ∧ s.wakeUp.pwr.bootStep = 3 := ⟨was_resetO4 s .boot 4 15, rfl⟩

theorem sameAnyO4 (L : List Part) (s : State) (x : Power) (h : Part.pwr ∈ L) : SameBut L s { s with pwr := x } :=
  ⟨rfl, fun p hp => by cases p <;> first | exact absurd h hp | (unfold Same; repeat' first | exact rfl | apply And.intro)⟩

theorem fails_of (s : State) : s.bootFails.sys.st = .failsafe ∧ s.bootFails.sys.lastCause = 12 ∧ 12 ∈ s.bootFails.sys.causes ∧ s.bootFails.pwr = s.pwr ∧ s.bootFails.dm = s.dm := by
  unfold State.bootFails
  have ac : 12 ∈ (s.addCause 12).sys.causes := by
    unfold State.addCause; dsimp only; split
    · assumption
    · simp
  have ap : (s.addCause 12).pwr = s.pwr ∧ (s.addCause 12).dm = s.dm := ⟨rfl, rfl⟩
  generalize s.addCause 12 = u at ac ap
  have kc : (u.changeState .failsafe 12).sys.causes = u.sys.causes := changeState_same u .failsafe 12 (p := .causes) (by decide)
  have kd : (u.changeState .failsafe 12).dm = u.dm := changeState_same u .failsafe 12 (p := .dm) (by decide)
  refine ⟨changeState_st _ _ _, changeState_lastCause _ _ _, by rw [kc]; exact ac, ?_, kd.trans ap.2⟩
  rw [← ap.1]
  unfold State.changeState
  extract_lets old a b
  have ha : a.pwr = u.pwr := by
    simp only [a]; split
    · exact Keeps.same (keeps_endForeground (K := [.irq, .job, .ring, .trip, .afe, .flt]) rfl (Keeps.refl _ u)) (p := .pwr) (by decide)
    · rfl
  have hb : b.pwr = a.pwr := by
    have tm : a.timeService .failsafe = a := by unfold State.timeService; rw [if_neg]; rintro ⟨h | h, _⟩ <;> cases h
    simp only [b]; rw [tm]
    exact Keeps.same (keeps_applyState (K := [.st, .irq, .ring, .trip, .flt, .fst, .fio, .chn, .hng]) (hM := rfl) .failsafe (Keeps.refl _ a)) (p := .pwr) (by decide)
  clear_value b
  rw [stage_pwr, ← ha, ← hb]
  rfl

theorem auto_of (u : State) (n : OpState) (c : Nat) : (u.autoState n c).sys.st = n ∧ (u.autoState n c).sys.lastCause = c := by
  unfold State.autoState
  have q1 := changeState_st u n c
  have q2 := changeState_lastCause u n c
  generalize u.changeState n c = v at q1 q2 ⊢
  exact ⟨q1, q2⟩

theorem toBlocked_of (u : State) (c : Nat) : (u.autoState .blocked c).sys.st = .blocked ∧ (u.autoState .blocked c).sys.lastCause = c ∧ (u.autoState .blocked c).pwr = u.pwr := by
  unfold State.autoState
  have q1 := changeState_st u .blocked c
  have q2 := changeState_lastCause u .blocked c
  suffices q3 : (u.changeState .blocked c).pwr = u.pwr by
    generalize u.changeState .blocked c = v at q1 q2 q3 ⊢
    exact ⟨q1, q2, q3⟩
  unfold State.changeState
  extract_lets old a b d e
  have ha : a = u := by simp only [a]; rw [if_neg]; rintro ⟨_, h⟩; exact h rfl
  have hb : b.pwr = a.pwr := by
    have tm : a.timeService .blocked = a := by unfold State.timeService; rw [if_neg]; rintro ⟨h | h, _⟩ <;> cases h
    simp only [b]; rw [tm]
    exact Keeps.same (keeps_applyState (K := [.st, .irq, .ring, .trip, .flt, .fst, .fio, .chn, .hng]) (hM := rfl) .blocked (Keeps.refl _ a)) (p := .pwr) (by decide)
  rw [ha] at hb
  clear_value b
  rw [stage_pwr, ← hb]; rfl

theorem bootRow_of (s : State) (n : Nat) (h : s.sys.st = .boot) : s.bootRow n = { s with pwr := { s.pwr with bootStep := s.pwr.bootStep.max n } } := by unfold State.bootRow; rw [if_pos h]

theorem applyMap_of (s : State) : s.applyMap.dm = s.dm ∧ s.applyMap.pwr = s.pwr ∧ s.applyMap.sys.st = s.sys.st ∧ s.applyMap.pe.roles = (List.range 16).map (fun p => if s.pairGood p then .spare else .mappedOut) := by
  unfold State.applyMap
  extract_lets u
  have ur : u.pe.roles = (List.range 16).map (fun p => if s.pairGood p then .spare else .mappedOut) := rfl
  have ud : u.dm = s.dm ∧ u.pwr = s.pwr ∧ u.sys.st = s.sys.st := ⟨rfl, rfl, rfl⟩
  clear_value u
  have k := keeps_assignBank (K := [.irq, .ring, .trip, .afe]) (hM := rfl) 1 (keeps_assignBank (K := [.irq, .ring, .trip, .afe]) (hM := rfl) 0 (Keeps.refl _ u))
  refine ⟨(k.same (p := .dm) (by decide)).trans ud.1, (k.same (p := .pwr) (by decide)).trans ud.2.1, (k.same (p := .st) (by decide)).1.trans ud.2.2, ?_⟩
  rw [show ((u.assignBank 0).assignBank 1).pe = u.pe from k.same (p := .pe) (by decide)]; exact ur

theorem good_congr {s t : State} (h : t.dm.map = s.dm.map) : t.pairGood = s.pairGood ∧ t.coreGood = s.coreGood := by
  constructor
  · funext p; unfold State.pairGood; rw [h]
  · funext p; unfold State.coreGood; rw [h]

theorem outPair (s : State) (p r : Nat) (h : s.dm.map.pairs.length = 16) : (s.mapOutPair p r).dm.map.pairs.length = 16 ∧ (s.mapOutPair p r).dm.map.cores = s.dm.map.cores ∧ (s.mapOutPair p r).pwr = s.pwr ∧ (s.mapOutPair p r).sys.st = s.sys.st ∧ (∀ q, q < 16 → (s.mapOutPair p r).pairGood q = (s.pairGood q && decide (q ≠ p))) := by
  have e : (s.mapOutPair p r).dm = { s.dm with map := { s.dm.map with pairs := modNth s.dm.map.pairs p (fun d => { d with state := 2, reason := r }) }, dirty := true } := stage_same _ _ _ _ (p := .dm) (by decide)
  refine ⟨by rw [e]; simpa using h, by rw [e], stage_pwr _ _ _ _, (stage_same _ _ _ _ (p := .st) (by decide)).1, fun q hq => ?_⟩
  unfold State.pairGood
  rw [e]; dsimp only
  by_cases g : q = p
  · subst g; rw [nth_modNth_self (by omega)]; simp
  · rw [nth_modNth_ne (Ne.symm g)]; simp [g]

theorem foldPairs (l : List Nat) (s : State) (h : s.dm.map.pairs.length = 16) :
    let t := l.foldl (fun s p => if s.pairGood p then s.mapOutPair p 0 else s) s
    t.dm.map.pairs.length = 16 ∧ t.dm.map.cores = s.dm.map.cores ∧ t.pwr = s.pwr ∧ t.sys.st = s.sys.st ∧ ∀ q, q < 16 → t.pairGood q = (s.pairGood q && decide (q ∉ l)) := by
  induction l generalizing s with
  | nil => exact ⟨h, rfl, rfl, rfl, fun q _ => by simp⟩
  | cons a r ih =>
    intro t
    have o := outPair s a 0 h
    by_cases g : s.pairGood a = true
    · have e : t = r.foldl (fun s p => if s.pairGood p then s.mapOutPair p 0 else s) (s.mapOutPair a 0) := by simp only [t, List.foldl_cons]; rw [if_pos g]
      rw [e]
      obtain ⟨i1, i2, i3, i4, i5⟩ := ih (s.mapOutPair a 0) o.1
      refine ⟨i1, i2.trans o.2.1, i3.trans o.2.2.1, i4.trans o.2.2.2.1, fun q hq => ?_⟩
      rw [i5 q hq, o.2.2.2.2 q hq]
      by_cases w : q = a <;> simp [w]
    · have e : t = r.foldl (fun s p => if s.pairGood p then s.mapOutPair p 0 else s) s := by simp only [t, List.foldl_cons]; rw [if_neg g]
      rw [e]
      obtain ⟨i1, i2, i3, i4, i5⟩ := ih s h
      refine ⟨i1, i2, i3, i4, fun q hq => ?_⟩
      rw [i5 q hq]
      by_cases w : q = a
      · subst w; simp [g]
      · simp [w]

theorem outCore (s : State) (p : Nat) (h : s.dm.map.cores.length = 18) : (s.mapOutCore p).dm.map.cores.length = 18 ∧ (s.mapOutCore p).dm.map.pairs = s.dm.map.pairs ∧ (s.mapOutCore p).pwr = s.pwr ∧ (s.mapOutCore p).sys.st = s.sys.st ∧ (∀ q, q < 18 → (s.mapOutCore p).coreGood q = (s.coreGood q && decide (q ≠ p))) := by
  have e : (s.mapOutCore p).dm = { s.dm with map := { s.dm.map with cores := s.dm.map.cores.set p (2, 0) }, dirty := true } := stage_same _ _ _ _ (p := .dm) (by decide)
  refine ⟨by rw [e]; simpa using h, by rw [e], stage_pwr _ _ _ _, (stage_same _ _ _ _ (p := .st) (by decide)).1, fun q hq => ?_⟩
  unfold State.coreGood
  rw [e]; dsimp only
  by_cases g : q = p
  · subst g; rw [nth_set_self (by omega)]; simp
  · rw [nth_set_ne (Ne.symm g)]; simp [g]

theorem foldCores (l : List Nat) (s : State) (h : s.dm.map.cores.length = 18) :
    let t := l.foldl (fun s p => if s.coreGood p then s.mapOutCore p else s) s
    t.dm.map.cores.length = 18 ∧ t.dm.map.pairs = s.dm.map.pairs ∧ t.pwr = s.pwr ∧ t.sys.st = s.sys.st ∧ ∀ q, q < 18 → t.coreGood q = (s.coreGood q && decide (q ∉ l)) := by
  induction l generalizing s with
  | nil => exact ⟨h, rfl, rfl, rfl, fun q _ => by simp⟩
  | cons a r ih =>
    intro t
    have o := outCore s a h
    by_cases g : s.coreGood a = true
    · have e : t = r.foldl (fun s p => if s.coreGood p then s.mapOutCore p else s) (s.mapOutCore a) := by simp only [t, List.foldl_cons]; rw [if_pos g]
      rw [e]
      obtain ⟨i1, i2, i3, i4, i5⟩ := ih (s.mapOutCore a) o.1
      refine ⟨i1, i2.trans o.2.1, i3.trans o.2.2.1, i4.trans o.2.2.2.1, fun q hq => ?_⟩
      rw [i5 q hq, o.2.2.2.2 q hq]
      by_cases w : q = a <;> simp [w]
    · have e : t = r.foldl (fun s p => if s.coreGood p then s.mapOutCore p else s) s := by simp only [t, List.foldl_cons]; rw [if_neg g]
      rw [e]
      obtain ⟨i1, i2, i3, i4, i5⟩ := ih s h
      refine ⟨i1, i2, i3, i4, fun q hq => ?_⟩
      rw [i5 q hq]
      by_cases w : q = a
      · subst w; simp [g]
      · simp [w]

theorem writeMap_map (s : State) (k n : Nat) : (s.writeMap k n).dm.map = s.dm.map := by
  unfold State.writeMap
  have mp : ∀ (x : State) a l, (x.mramPut a l).dm.map = x.dm.map := fun x a l => by unfold State.mramPut; split <;> rfl
  split
  · rfl
  · extract_lets body u w
    have : w.dm.map = s.dm.map := by simp only [w, u]; rw [mp, mp, mp]
    exact this

theorem bothMaps_of (s : State) : s.writeBothMaps.dm.map = s.dm.map ∧ s.writeBothMaps.pwr = s.pwr ∧ s.writeBothMaps.sys.st = s.sys.st := by
  have k := keeps_writeBothMaps (K := [.dm, .mram]) (hM := rfl) (Keeps.refl _ s)
  refine ⟨?_, k.same (p := .pwr) (by decide), (k.same (p := .st) (by decide)).1⟩
  unfold State.writeBothMaps; split
  · rw [writeMap_map, writeMap_map]
  · rfl

theorem bad_sch (s : State) (f : Scheme → Scheme) (k : Nat) : (s.modSch f).slotBad k = s.slotBad k ∧ (s.modSch f).hallSet k = s.hallSet k ∧ (s.modSch f).slotImage k = s.slotImage k := ⟨rfl, rfl, rfl⟩

def OnlySch (s t : State) : Prop := t.mram = s.mram ∧ t.dm = s.dm ∧ t.pe = s.pe ∧ t.sys.st = s.sys.st ∧ t.pwr = s.pwr

theorem scan_sch (s : State) (k : Nat) : ∃ f, s.scanSlot k = s.modSch f := by
  unfold State.scanSlot
  split
  · exact ⟨_, rfl⟩
  · split
    · exact ⟨_, rfl⟩
    · next b _ => exact ⟨fun x => { x with slotState := x.slotState.set k 2, slotGen := x.slotGen.set k 0, bootReason := b.code }, rfl⟩

theorem place_sch (s : State) (c : Bool) : (s.placeScheme c).sch = { s.sch with placed := true } := by
  unfold State.placeScheme
  extract_lets a b d e f g
  have ha : a.sch = s.sch := Keeps.same (keeps_applyKeyway (K := [.nv, .regs, .defer, .key]) rfl (keeps_restoreRates (hM := rfl) c (keeps_restoreRegs (hM := rfl) c (Keeps.refl _ s)))) (p := .sch) (by decide)
  have hb : b.sch = a.sch := rfl
  clear_value b a
  have hd : d.sch = { s.sch with placed := true } := by
    have : (b.assignPlaces.initStore).sch = b.sch := Keeps.same (keeps_initStore (K := [.causes, .irq, .ring, .trip, .pe, .fio, .hng]) (hM := rfl) (keeps_assignPlaces (hM := rfl) (Keeps.refl _ b))) (p := .sch) (by decide)
    simp only [d]; rw [modSch_sch, this, hb, ha]
  clear_value d
  have he : e.sch = d.sch := Keeps.same (Keeps.foldl (l := [.causes, .irq, .ring, .trip, .afe]) (Keeps.refl _ d) (fun x k h => by
    split
    · exact keeps_exclude k rfl h
    · exact h)) (p := .sch) (by decide)
  clear_value e
  have hf : f.sch = e.sch := Keeps.same (keeps_checkAddr (K := [.irq, .ring, .trip, .chn, .svc]) (hM := rfl) (keeps_refillBuckets (hM := rfl) (keeps_rebuildCtx (hM := rfl) (Keeps.refl _ e)))) (p := .sch) (by decide)
  clear_value f
  have hg : g.sch = f.sch := rfl
  clear_value g
  have hz : (g.restartFast.followOutputs).sch = g.sch := Keeps.same (keeps_followOutputs (K := [.irq, .ring, .trip, .fst, .chn, .fio]) (hM := rfl) (keeps_restartFast (hM := rfl) (Keeps.refl _ g))) (p := .sch) (by decide)
  rw [hz, hg, hf, he, hd]

theorem latch_sch (l : List Nat) (s : State) : (l.foldl State.latchFailed s).sch = s.sch := by
  induction l generalizing s with
  | nil => rfl
  | cons a r ih => rw [List.foldl_cons, ih]; exact Keeps.same (keeps_latchFailed (K := [.irq, .ring, .trip, .nv, .pe]) a rfl (Keeps.refl _ s)) (p := .sch) (by decide)

theorem boot_sch (s : State) (l : List Nat) : (s.bootScheme l).sch.placed = true ∧ (s.bootScheme l).sch.image = s.sch.image ∧ (s.bootScheme l).sch.lost = s.sch.lost ∧ (s.bootScheme l).sch.slot = s.sch.slot ∧ (s.bootScheme l).sch.fallback = s.sch.fallback ∧ (s.bootScheme l).sch.cfg = s.sch.cfg := by
  unfold State.bootScheme
  extract_lets cfg g a b c
  have ff : ∀ x : State, ((x.evalPilot 0).evalPilot 1).fastFloors.sch = x.sch := fun x =>
    Keeps.same (keeps_fastFloors (K := [.causes, .irq, .ring, .trip, .afe, .clk, .fst, .chn]) rfl (keeps_evalPilot 1 rfl (keeps_evalPilot 0 rfl (Keeps.refl _ x)))) (p := .sch) (by decide)
  have hc : c.sch = a.sch := by simp only [c, b]
  have ha : a.sch = { s.sch with group := if g < cfg.nGroups then g else cfg.initGroup, groupFail := false, placed := true } := by
    simp only [a]; rw [place_sch]; rfl
  rw [ff, latch_sch, hc, ha]
  exact ⟨rfl, rfl, rfl, rfl, rfl, rfl⟩

theorem bootSlot_sch (s : State) (k : Nat) (fb : Bool) : (s.bootSlot k fb).sch = { s.sch with cfg := schemeOf (s.slotImage k), image := true, slot := k, fallback := fb } := by
  unfold State.bootSlot
  extract_lets a
  have ha : a.sch = { s.sch with cfg := schemeOf (s.slotImage k), image := true, slot := k, fallback := fb } := rfl
  rw [← ha]; clear_value a
  split
  · exact stage_same _ _ _ _ (p := .sch) (by decide)
  · rfl

theorem bootTemplate_sch (s : State) (l : Bool) : (s.bootTemplate l).sch.image = false ∧ (s.bootTemplate l).sch.lost = l := by
  unfold State.bootTemplate
  extract_lets a
  have ha : a.sch.image = false ∧ a.sch.lost = l := ⟨rfl, rfl⟩
  clear_value a
  split
  · rw [show (a.stage 0x00C5 2 []).sch = a.sch from stage_same _ _ _ _ (p := .sch) (by decide)]; exact ha
  · exact ha

theorem range_two : List.range 2 = [0, 1] := rfl

theorem choose_bad (s : State) (h : s.hallSet 0 = true ∨ s.hallSet 1 = true) (hb : ∀ k, k < 2 → s.hallSet k = true → s.slotBad k ≠ none) : s.chooseScheme = s.bootTemplate true := by
  unfold State.chooseScheme
  have b0 := hb 0 (by omega)
  have b1 := hb 1 (by omega)
  cases e0 : s.hallSet 0 <;> cases e1 : s.hallSet 1
  · simp [e0, e1] at h
  · obtain ⟨x1, y1⟩ := Option.ne_none_iff_exists'.mp (b1 e1)
    by_cases w : x1.code = 10 <;> simp [range_two, e0, e1, y1, w]
  · obtain ⟨x0, y0⟩ := Option.ne_none_iff_exists'.mp (b0 e0)
    by_cases w : x0.code = 10 <;> simp [range_two, e0, e1, y0, w]
  · obtain ⟨x1, y1⟩ := Option.ne_none_iff_exists'.mp (b1 e1)
    obtain ⟨x0, y0⟩ := Option.ne_none_iff_exists'.mp (b0 e0)
    by_cases w0 : x0.code = 10 <;> by_cases w1 : x1.code = 10 <;> by_cases g : field (s.mramGet (hallAt 0 + 4) 4) 0 4 < field (s.mramGet (hallAt 1 + 4) 4) 0 4 <;> simp [range_two, e0, e1, y0, y1, w0, w1, g]

theorem choose_one (s : State) (k : Nat) (hk : k < 2) (h : s.hallSet k = true) (hb : s.slotBad k = none) (ho : s.hallSet (1 - k) = false) : s.chooseScheme = s.bootSlot k false := by
  unfold State.chooseScheme
  obtain rfl | rfl : k = 0 ∨ k = 1 := by omega
  · simp only [Nat.sub_zero] at ho
    simp [range_two, h, ho, hb]
  · simp only [Nat.sub_self] at ho
    simp [range_two, h, ho, hb]

theorem choose_two (s : State) (h0 : s.hallSet 0 = true) (h1 : s.hallSet 1 = true) (b0 : s.slotBad 0 = none) (b1 : s.slotBad 1 = none) : s.chooseScheme = s.bootSlot (if field (s.mramGet (hallAt 0 + 4) 4) 0 4 < field (s.mramGet (hallAt 1 + 4) 4) 0 4 then 1 else 0) false := by
  unfold State.chooseScheme
  by_cases g : field (s.mramGet (hallAt 0 + 4) 4) 0 4 < field (s.mramGet (hallAt 1 + 4) 4) 0 4 <;> simp [range_two, h0, h1, b0, b1, g]

theorem choose_none (s : State) (h0 : s.hallSet 0 = false) (h1 : s.hallSet 1 = false) : s.chooseScheme = s.bootTemplate false := by
  unfold State.chooseScheme
  simp [range_two, h0, h1]

end Sys2Proof.Facts.PowerRules
end

