-- ==== Sys2Proof/Laws/Records.lean ====
section
/-! SUPPORT. The ledger, its cursors, captures. Lemmas about the operations of these rows, for the proofs of the statements about them. -/

namespace Sys2Proof.Facts.Records

open Sys2Proof Sys2Proof.Machine

theorem invalidate_keep (s : State) (r : RecIx) : (s.invalidate r).ldg = s.ldg ∧ (s.invalidate r).dm.mramFail = s.dm.mramFail ∧ (Memory.wf s.mram = true → Memory.wf (s.invalidate r).mram = true) := by
  unfold State.invalidate State.mramPut
  split
  · exact ⟨rfl, rfl, id⟩
  · refine ⟨rfl, rfl, fun h => memWf_bytes h ?_⟩
    by_cases hx : r.off + r.len - 4 ≤ mramSize
    · left; simp only [List.length_take]; omega
    · right; rw [show mramSize - (r.off + r.len - 4) = 0 by omega]; rfl

theorem invalidate_frame (s : State) (r : RecIx) (a : Nat) (hw : Memory.wf s.mram = true) (h : a < r.off + r.len - 4 ∨ r.off + r.len - 4 + 4 ≤ a) : memRead (s.invalidate r).mram a = memRead s.mram a := by
  unfold State.invalidate State.mramPut
  split
  · rfl
  · by_cases hx : r.off + r.len - 4 ≤ mramSize
    · have hl : ((zeros 4).take (mramSize - (r.off + r.len - 4))).length ≤ 4 ∧ r.off + r.len - 4 + ((zeros 4).take (mramSize - (r.off + r.len - 4))).length ≤ mramSize := by
        simp only [List.length_take]; have : (zeros 4).length = 4 := rfl
        omega
      show memRead (memWriteBytes _ _ _) a = _
      rw [memRead_writeBytes _ _ _ _ hw hl.2, if_neg (by omega)]
    · rw [show mramSize - (r.off + r.len - 4) = 0 by omega]; rfl

theorem overwrite_frame (s : State) (off n a : Nat) (hw : Memory.wf s.mram = true) (h : ∀ r ∈ s.ldg.circ, r.off < off + n → off < r.off + r.len → a < r.off + r.len - 4 ∨ r.off + r.len - 4 + 4 ≤ a) :
    memRead (s.overwrite off n).mram a = memRead s.mram a := by
  have k : ∀ (l : List RecIx) (t : State), Memory.wf t.mram = true → (∀ r ∈ l, a < r.off + r.len - 4 ∨ r.off + r.len - 4 + 4 ≤ a) → memRead (l.foldl State.invalidate t).mram a = memRead t.mram a := by
    intro l; induction l with
    | nil => intro t _ _; rfl
    | cons x r ih =>
      intro t ht hx
      rw [List.foldl_cons, ih _ ((invalidate_keep t x).2.2 ht) (fun y hy => hx y (List.mem_cons_of_mem _ hy)), invalidate_frame t x a ht (hx x (List.mem_cons_self ..))]
  show memRead ((s.ldg.circ.filter _).foldl State.invalidate s).mram a = _
  refine k _ s hw fun r hr => ?_
  obtain ⟨h1, h2⟩ := List.mem_filter.mp hr
  obtain ⟨h3, h4⟩ := of_decide_eq_true h2
  exact h r h1 h3 h4

theorem overwrite_circ (s : State) (off n : Nat) : (s.overwrite off n).ldg.circ = s.ldg.circ.filter (fun r => !decide (r.off < off + n ∧ off < r.off + r.len)) := rfl

theorem overwrite_keep (s : State) (off n : Nat) : (s.overwrite off n).dm.mramFail = s.dm.mramFail ∧ (Memory.wf s.mram = true → Memory.wf (s.overwrite off n).mram = true) ∧
    (s.overwrite off n).ldg.nextSeq = s.ldg.nextSeq ∧ (s.overwrite off n).ldg.first = s.ldg.first ∧ (s.overwrite off n).ldg.circPos = s.ldg.circPos ∧ (s.overwrite off n).ldg.ring = s.ldg.ring ∧ (s.overwrite off n).ldg.ovLow = s.ldg.ovLow ∧ (s.overwrite off n).ldg.ovHigh = s.ldg.ovHigh := by
  unfold State.overwrite
  extract_lets hit s' sl
  have k : ∀ (l : List RecIx) (t : State), (l.foldl State.invalidate t).ldg = t.ldg ∧ (l.foldl State.invalidate t).dm.mramFail = t.dm.mramFail ∧ (Memory.wf t.mram = true → Memory.wf (l.foldl State.invalidate t).mram = true) := by
    intro l; induction l with
    | nil => intro t; exact ⟨rfl, rfl, id⟩
    | cons a r ih =>
      intro t
      obtain ⟨a1, a2, a3⟩ := invalidate_keep t a
      obtain ⟨b1, b2, b3⟩ := ih (t.invalidate a)
      rw [List.foldl_cons]
      exact ⟨b1.trans a1, b2.trans a2, fun h => b3 (a3 h)⟩
  obtain ⟨k1, k2, k3⟩ := k (s.ldg.circ.filter hit) s
  have e : s' = (s.ldg.circ.filter hit).foldl State.invalidate s := rfl
  rw [← e] at k1 k2 k3
  have hs : sl = s.ldg := k1
  clear_value sl s'
  dsimp only
  rw [hs]
  exact ⟨k2, k3, rfl, rfl, rfl, rfl, rfl, rfl⟩

theorem overflow_id {s : State} (h1 : s.ldg.ovLow = 0) (h2 : s.ldg.ovHigh = 0) : s.overflow = s := by
  unfold State.overflow
  rw [if_neg (by simp [h1, h2])]

theorem bucket_set (s : State) (c : Nat) (b : Bucket) : (s.setBucket c b).bucket c = b := by
  unfold State.setBucket State.bucket
  dsimp only
  split
  · rename_i h
    subst h
    generalize s.ldg.buckets = l
    induction l with
    | nil => rfl
    | cons p r ih =>
      unfold eraseKey
      simp only [List.filter_cons]
      split
      · rename_i hp
        simp only [lookupD]
        have : p.1 ≠ c := by simpa using hp
        rw [if_neg this]; exact ih
      · exact ih
  · exact (lookupD_insertKey ..).trans (if_pos rfl)

theorem ringInsert_mem (l : List Entry) (e : Entry) : e ∈ ringInsert l e := by
  induction l with
  | nil => simp [ringInsert]
  | cons a r ih => unfold ringInsert; split <;> simp [ih]

theorem offer_buckets (s : State) (e : Entry) : (s.offer e).ldg.buckets = s.ldg.buckets := by
  have lo : ∀ a b c, (s.loseEntry a b c).ldg.buckets = s.ldg.buckets := by
    intro a b c; unfold State.loseEntry
    dsimp only
    repeat' split
    all_goals rfl
  unfold State.offer
  split
  · exact lo ..
  · split
    · dsimp only; split <;> rfl
    · exact lo ..

theorem tgtcur : ∃ r, targetOf 0x3014 = some (.reg r) ∧ r.mask ≠ 0 := ⟨_, rfl, by decide⟩

theorem cursor_eq {cls : KeyClass} {s : State} (h : s.mayWrite cls 0x3014) (v : Nat) (hv : v < 8) : s.write cls 0x3014 (BitVec.ofNat 32 v) = s.cursorOp cls v := by
  obtain ⟨r, hr, hm⟩ := tgtcur
  rw [write_applies h hr hm]
  have : s.applyReg cls 0x3014 (BitVec.ofNat 32 v) = (s.cursorOp cls (bitsOf (BitVec.ofNat 32 v) 2 0), false) := by
    simp [State.applyReg, State.applyLdg]
  rw [this]
  have : bitsOf (BitVec.ofNat 32 v) 2 0 = v := by
    simp only [bitsOf, BitVec.toNat_ofNat]; omega
  rw [this]

theorem cut_props (s : State) (l : List RecIx) : let b := l.reverse.takeWhile (fun r => !s.recValid r)
    (∃ n, l.take (l.length - b.length) = l.take n ∧ ∀ r ∈ l.drop n, s.recValid r = false) ∧ (∀ r, (l.take (l.length - b.length)).getLast? = some r → s.recValid r = true) := by
  intro b
  have hl : l = (l.reverse.dropWhile (fun r => !s.recValid r)).reverse ++ b.reverse := by
    rw [← List.reverse_append, List.takeWhile_append_dropWhile, List.reverse_reverse]
  have hlen : l.length - b.length = (l.reverse.dropWhile (fun r => !s.recValid r)).reverse.length := by
    have := congrArg List.length hl
    simp only [List.length_append, List.length_reverse] at this ⊢
    omega
  have gen : ∀ (x y : List RecIx) (n : Nat), l = x ++ y → n = x.length → l.take n = x ∧ l.drop n = y := by
    rintro x y n h rfl; rw [h]; exact ⟨List.take_left' rfl, List.drop_left' rfl⟩
  obtain ⟨ht, hd⟩ := gen _ _ _ hl hlen
  refine ⟨⟨_, rfl, fun r hr => ?_⟩, fun r hr => ?_⟩
  · rw [hd] at hr
    have := List.mem_takeWhile_imp (List.mem_reverse.mp hr)
    simpa using this
  · rw [ht, List.getLast?_reverse] at hr
    cases hdw : l.reverse.dropWhile (fun r => !s.recValid r) with
    | nil => rw [hdw] at hr; cases hr
    | cons a t =>
      rw [hdw] at hr
      have : a = r := by simpa using hr
      subst this
      have := List.head_dropWhile_not (l := l.reverse) (fun r => !s.recValid r) (by rw [hdw]; simp)
      simp only [hdw, List.head_cons] at this
      simpa using this

theorem tgtcap : (∃ r, targetOf 0x3404 = some (.reg r) ∧ r.mask ≠ 0) ∧ (∃ r, targetOf 0x3414 = some (.reg r) ∧ r.mask ≠ 0) := ⟨⟨_, rfl, by decide⟩, ⟨_, rfl, by decide⟩⟩

theorem sel_lt (s : State) (cls : KeyClass) : s.selSlot cls < 16 := by
  unfold State.selSlot bitsOf; exact Nat.mod_lt _ (by decide)

theorem field_b4 (v : Nat) (h : v < 2 ^ 32) : field (b4 v) 0 4 = v := by
  simp [field, b4, leBytes, slice, padTo, zeros, leNat]
  omega

theorem crc_lt (l : List Byte) : crc32c l < 2 ^ 32 := by
  unfold crc32c
  exact BitVec.isLt _

theorem slotCrc_congr {s1 s2 : State} {k : Nat} (k1 : ∀ n, n ≤ 0x1F8 → s2.mramGet (slotBase k) n = s1.mramGet (slotBase k) n) (k2 : ∀ n, s2.mramGet (slotBase k + 0x200) n = s1.mramGet (slotBase k + 0x200) n) : s1.slotCrc k = s2.slotCrc k := by
  unfold State.slotCrc
  rw [k1 _ (Nat.le_refl _), k2]

theorem setProt_spec (s : State) (k : Nat) (p : Bool) (hk : k < 16) (hl : k < s.cap.slots.length) (h1 : (s.capSlot k).state = 1) (h2 : s.dm.mramFail = false) (h3 : Memory.wf s.mram = true) :
    (s.setProt k p).capSlot k = { s.capSlot k with prot := p } ∧ (∀ j, j ≠ k → (s.setProt k p).capSlot j = s.capSlot j) ∧
    memRead (s.setProt k p).mram (slotBase k + 0x21) = BitVec.ofNat 8 (field (s.mramGet (slotBase k + 0x21) 1) 0 1 / 2 * 2 + b2n p) ∧
    field ((s.setProt k p).mramGet (slotBase k + 0x1F8) 4) 0 4 = (s.setProt k p).slotCrc k ∧
    ∀ a, a ≠ slotBase k + 0x21 → a < slotBase k + 0x1F8 ∨ slotBase k + 0x1FC ≤ a → memRead (s.setProt k p).mram a = memRead s.mram a := by
  unfold State.setProt
  rw [if_neg (by simp [h1])]
  extract_lets h s1
  have hb : slotBase k + 0x80000 ≤ mramSize := by unfold slotBase; have : mramSize = 0x1000000 := rfl; omega
  have m1 : s1.mram = memWriteBytes s.mram (slotBase k + 0x21) (b1 (h / 2 * 2 + b2n p)) := mramPut_mram (s.modSlot k _) _ _ h2 (by simp [b1]; omega)
  have d1 : s1.dm.mramFail = false := by
    simp only [s1]; unfold State.mramPut; split <;> exact h2
  have c1 : s1.cap = (s.modSlot k (fun x => { x with prot := p })).cap := by
    simp only [s1]; unfold State.mramPut; split <;> rfl
  have w1 : Memory.wf s1.mram = true := by rw [m1]; exact memWf_bytes h3 (Or.inl (by simp [b1]; omega))
  clear_value s1
  have m2 : (s1.mramPut (slotBase k + 0x1F8) (b4 (s1.slotCrc k))).mram = memWriteBytes s1.mram (slotBase k + 0x1F8) (b4 (s1.slotCrc k)) := mramPut_mram s1 _ _ d1 (by simp [b4]; omega)
  have c2 : (s1.mramPut (slotBase k + 0x1F8) (b4 (s1.slotCrc k))).cap = s1.cap := by
    unfold State.mramPut; split <;> rfl
  generalize s1.mramPut (slotBase k + 0x1F8) (b4 (s1.slotCrc k)) = s2 at m2 c2
  refine ⟨?_, ?_, ?_, ?_, ?_⟩
  · unfold State.capSlot; rw [c2, c1]; exact nth_modNth_self hl
  · intro j hj; unfold State.capSlot; rw [c2, c1]; exact nth_modNth_ne (Ne.symm hj)
  · rw [m2, memRead_writeBytes _ _ _ _ w1 (by simp [b4]; omega), if_neg (by omega), m1, memRead_writeBytes _ _ _ _ h3 (by simp [b1]; omega), if_pos (by simp [b1])]
    simp [b1, leBytes]; rfl
  · have e : s2.mramGet (slotBase k + 0x1F8) 4 = b4 (s1.slotCrc k) := by
      show memReadBytes s2.mram _ 4 = _
      rw [m2]; exact memReadBytes_self (b4 (s1.slotCrc k)) _ _ w1 (by simp [b4]; omega)
    have lt : s1.slotCrc k < 2 ^ 32 := by unfold State.slotCrc; exact crc_lt _
    rw [e, field_b4 _ lt]
    have k1 : ∀ n, n ≤ 0x1F8 → s2.mramGet (slotBase k) n = s1.mramGet (slotBase k) n := by
      intro n hn
      unfold State.mramGet
      rw [m2]; exact memReadBytes_ne _ _ _ _ _ w1 (by simp [b4]; omega) (Or.inl (by omega))
    have k2 : ∀ n, s2.mramGet (slotBase k + 0x200) n = s1.mramGet (slotBase k + 0x200) n := by
      intro n
      unfold State.mramGet
      rw [m2]; exact memReadBytes_ne _ _ _ _ _ w1 (by simp [b4]; omega) (Or.inr (by simp [b4]))
    exact slotCrc_congr k1 k2
  · intro a ha hb
    rw [m2, memRead_writeBytes _ _ _ _ w1 (by simp [b4]; omega), if_neg (by simp [b4]; omega), m1, memRead_writeBytes _ _ _ _ h3 (by simp [b1]; omega), if_neg (by simp [b1]; omega)]

theorem endJob_job (s : State) (n a b : Nat) (j : Job) (h : s.job.out.find? (fun j => j.ticket = n) = some j) :
    (s.endJob n a b).job.out = s.job.out.filter (fun j => j.ticket ≠ n) ∧ (s.endJob n a b).job.hist = (({ ticket := n, state := a, reason := b } : JobEnd) :: s.job.hist).take 16 ∧ (s.endJob n a b).job.tickets = s.job.tickets := by
  unfold State.endJob
  rw [h]
  simp

theorem overwrite_ldg (s : State) (off n : Nat) : (s.overwrite off n).ldg.firstPos = s.ldg.firstPos ∧ (s.overwrite off n).ldg.closed = s.ldg.closed ∧ (s.overwrite off n).ldg.firstFull = s.ldg.firstFull ∧ (s.overwrite off n).pwr = s.pwr := by
  unfold State.overwrite
  extract_lets hit s' sl
  have k : ∀ (l : List RecIx) (t : State), (l.foldl State.invalidate t).ldg = t.ldg ∧ (l.foldl State.invalidate t).pwr = t.pwr := by
    intro l; induction l with
    | nil => intro t; exact ⟨rfl, rfl⟩
    | cons a r ih => intro t; rw [List.foldl_cons, (ih _).1, (ih _).2]; exact ⟨(invalidate_keep t a).1, by unfold State.invalidate State.mramPut; split <;> rfl⟩
  obtain ⟨k1, k2⟩ := k (s.ldg.circ.filter hit) s
  have e : s' = (s.ldg.circ.filter hit).foldl State.invalidate s := rfl
  rw [← e] at k1 k2
  have hs : sl = s.ldg := k1
  clear_value sl s'
  dsimp only
  rw [hs]
  exact ⟨rfl, rfl, rfl, k2⟩

theorem put_ldg (s : State) (off : Nat) (l : List Byte) : (s.mramPut off l).ldg = s.ldg ∧ (s.mramPut off l).pwr = s.pwr := by
  unfold State.mramPut; split <;> exact ⟨rfl, rfl⟩

theorem writeCirc_ldg (s : State) (e : Entry) (fl : Nat) :
    (s.writeCirc e fl).ldg.first = s.ldg.first ∧ (s.writeCirc e fl).ldg.firstPos = s.ldg.firstPos ∧ (s.writeCirc e fl).ldg.nextSeq = seqNext s.ldg.nextSeq ∧ (s.writeCirc e fl).ldg.ring = s.ldg.ring ∧
    (s.writeCirc e fl).ldg.closed = s.ldg.closed ∧ (s.writeCirc e fl).ldg.ovLow = s.ldg.ovLow ∧ (s.writeCirc e fl).ldg.ovHigh = s.ldg.ovHigh ∧ (s.writeCirc e fl).pwr = s.pwr ∧
    (s.writeCirc e fl).ldg.circ.getLast? = some { off := circBase + (if s.ldg.circPos + recLen e ≤ circSize then s.ldg.circPos else 0), len := recLen e, seq := s.ldg.nextSeq } := by
  unfold State.writeCirc
  extract_lets n pos sx lx s1 off s2 seq w wl0
  have h1 : s1.ldg.first = s.ldg.first ∧ s1.ldg.firstPos = s.ldg.firstPos ∧ s1.ldg.nextSeq = s.ldg.nextSeq ∧ s1.ldg.ring = s.ldg.ring ∧ s1.ldg.closed = s.ldg.closed ∧ s1.ldg.ovLow = s.ldg.ovLow ∧ s1.ldg.ovHigh = s.ldg.ovHigh ∧ s1.pwr = s.pwr ∧
      s1.ldg.circPos = (if s.ldg.circPos + recLen e ≤ circSize then s.ldg.circPos else 0) := by
    by_cases g : pos + n ≤ circSize
    · have : s1 = s := by simp only [s1]; rw [if_pos g]
      rw [this, if_pos g]; exact ⟨rfl, rfl, rfl, rfl, rfl, rfl, rfl, rfl, rfl⟩
    · have e1 : s1 = { sx with ldg := { sx.ldg with circPos := 0 } } := by simp only [s1, lx]; rw [if_neg g]
      have hx : sx.ldg.first = s.ldg.first ∧ sx.ldg.firstPos = s.ldg.firstPos ∧ sx.ldg.nextSeq = s.ldg.nextSeq ∧ sx.ldg.ring = s.ldg.ring ∧ sx.ldg.closed = s.ldg.closed ∧ sx.ldg.ovLow = s.ldg.ovLow ∧ sx.ldg.ovHigh = s.ldg.ovHigh ∧ sx.pwr = s.pwr := by
        simp only [sx]; split
        · rw [(put_ldg _ _ _).1, (put_ldg _ _ _).2]
          obtain ⟨o1, o2, o3, o4, o5, o6, o7, o8⟩ := overwrite_keep s (circBase + pos) 8
          obtain ⟨q1, q2, q3, q4⟩ := overwrite_ldg s (circBase + pos) 8
          exact ⟨o4, q1, o3, o6, q2, o7, o8, q4⟩
        · exact ⟨rfl, rfl, rfl, rfl, rfl, rfl, rfl, rfl⟩
      rw [e1, if_neg g]
      clear_value sx
      obtain ⟨a1, a2, a3, a4, a5, a6, a7, a8⟩ := hx
      exact ⟨a1, a2, a3, a4, a5, a6, a7, a8, rfl⟩
  clear_value s1
  obtain ⟨o1, o2, o3, o4, o5, o6, o7, o8⟩ := overwrite_keep s1 off n
  obtain ⟨q1, q2, q3, q4⟩ := overwrite_ldg s1 off n
  obtain ⟨a1, a2, a3, a4, a5, a6, a7, a8, a9⟩ := h1
  have hw : w.ldg = s2.ldg ∧ w.pwr = s2.pwr := put_ldg _ _ _
  have hwl : wl0 = w.ldg := rfl
  have hseq : seq = s2.ldg.nextSeq := rfl
  have hoff : off = circBase + s1.ldg.circPos := rfl
  clear_value seq wl0 w off
  subst hwl
  dsimp only
  rw [hw.1, hw.2, hseq]
  refine ⟨o4.trans a1, q1.trans a2, congrArg seqNext (o3.trans a3), o6.trans a4, q2.trans a5, o7.trans a6, o8.trans a7, q4.trans a8, ?_⟩
  rw [List.getLast?_append, hoff, a9, o3, a3]; rfl

theorem offer_mem (s : State) (e : Entry) (hc : s.ldg.closed = false) (hl : s.ldg.ring.length < 480) : e ∈ (s.offer e).ldg.ring := by
  unfold State.offer
  rw [if_neg (by simp [hc]), if_pos]
  · dsimp only
    split <;> exact ringInsert_mem ..
  · unfold ringRoom; split <;> omega

theorem offer_first (s : State) (e : Entry) : (s.offer e).ldg.first = s.ldg.first ∧ (s.offer e).ldg.firstPos = s.ldg.firstPos ∧ (s.offer e).ldg.firstFull = s.ldg.firstFull ∧ (s.offer e).ldg.nextSeq = s.ldg.nextSeq ∧ (s.offer e).ldg.circ = s.ldg.circ := by
  have lo : ∀ a b c, (s.loseEntry a b c).ldg.first = s.ldg.first ∧ (s.loseEntry a b c).ldg.firstPos = s.ldg.firstPos ∧ (s.loseEntry a b c).ldg.firstFull = s.ldg.firstFull ∧ (s.loseEntry a b c).ldg.nextSeq = s.ldg.nextSeq ∧ (s.loseEntry a b c).ldg.circ = s.ldg.circ := by
    intro a b c; unfold State.loseEntry
    dsimp only
    repeat' split
    all_goals exact ⟨rfl, rfl, rfl, rfl, rfl⟩
  unfold State.offer
  split
  · exact lo ..
  · split
    · dsimp only; split <;> exact ⟨rfl, rfl, rfl, rfl, rfl⟩
    · exact lo ..

theorem offer_over {s : State} (e : Entry) (h1 : s.ldg.ovLow = 0) (h2 : s.ldg.ovHigh = 0) (hs : e.sev < 2) : (s.offer e).overflow = s.offer e ∨ (s.ldg.closed = false ∧ 480 ≤ s.ldg.ring.length ∧ (s.offer e).overflow = s.offer e) := by
  left
  unfold State.offer
  split
  · next a =>
    have hc : (s.loseEntry e.sev 1 false).ldg.closed = true := by
      unfold State.loseEntry; dsimp only; repeat' split
      all_goals exact a
    unfold State.overflow
    rw [if_neg (by rw [hc]; simp)]
  · split
    · dsimp only; split <;> exact overflow_id h1 h2
    · next a b =>
      have hr : 480 ≤ s.ldg.ring.length := by unfold ringRoom at b; rw [if_pos hs] at b; omega
      unfold State.overflow
      rw [if_neg]
      rintro ⟨_, g, _⟩
      have : (s.loseEntry e.sev 1 true).ldg.ring = s.ldg.ring := by unfold State.loseEntry; dsimp only; repeat' split
                                                                    all_goals rfl
      rw [this] at g; omega

end Sys2Proof.Facts.Records
end

