-- ==== Sys2Proof/Laws/RepairRules.lean ====
section
/-! SUPPORT. Spare rows, scrubs and the defect map. Lemmas about the operations of these rows, for the proofs of the statements about them. -/

namespace Sys2Proof.Facts.RepairRules

open Sys2Proof Sys2Proof.Machine

theorem free_at {l : List (Option (Nat × Nat))} {k : Nat} (h : k < l.length) (g : l.getD k none = none) (f : ∀ j, j < k → l.getD j none ≠ none) : freeRow l = some k := by
  unfold freeRow
  rw [List.find?_range_eq_some]
  refine ⟨by rw [g]; rfl, List.mem_range.mpr h, fun j hj => ?_⟩
  have := f j hj
  cases e : l.getD j none with
  | none => exact absurd e this
  | some x => rfl

theorem free_none {l : List (Option (Nat × Nat))} (h : ∀ r ∈ l, r ≠ none) : freeRow l = none := by
  unfold freeRow
  rw [List.find?_eq_none]
  intro j hj
  have hj := List.mem_range.mp hj
  have : l.getD j none ≠ none := by
    rw [List.getD_eq_getElem?_getD, List.getElem?_eq_getElem hj]; exact h _ (List.getElem_mem hj)
  cases e : l.getD j none with
  | none => exact absurd e this
  | some x => simp

theorem free_some {l : List (Option (Nat × Nat))} (h : ∃ r ∈ l, r = none) : (freeRow l).isSome = true := by
  cases e : freeRow l with
  | some k => rfl
  | none =>
    exfalso
    obtain ⟨r, hr, rfl⟩ := h
    obtain ⟨j, hj, he⟩ := List.getElem_of_mem hr
    unfold freeRow at e
    have := List.find?_eq_none.mp e j (List.mem_range.mpr hj)
    rw [List.getD_eq_getElem?_getD, List.getElem?_eq_getElem hj, he] at this
    exact this rfl

theorem ssMay_iff (s : State) (row reason : Nat) : s.ssMay row reason = true ↔ s.alive = true ∧ s.pe.updDue = false ∧ row < 512 ∧ ((reason = 1 ∧ ∀ d ∈ s.dm.ssDue, d.2 = 1 → row ≤ d.1) ∨ (reason = 2 ∧ (row, 2) ∈ s.dm.ssDue ∧ ∀ d ∈ s.dm.ssDue, d.2 = 2 ∧ row ≤ d.1)) := by
  unfold State.ssMay
  by_cases g : reason = 1
  · subst g
    simp only [Bool.and_eq_true, Bool.not_eq_true', decide_eq_true_eq, List.all_eq_true, if_true]
    constructor
    · rintro ⟨⟨⟨a, b⟩, c⟩, d⟩; exact ⟨a, b, c, .inl ⟨trivial, fun x hx e => (d x hx).resolve_left (fun n => n e)⟩⟩
    · rintro ⟨a, b, c, d⟩
      rcases d with d | ⟨d, _⟩
      · exact ⟨⟨⟨a, b⟩, c⟩, fun x hx => or_iff_not_imp_left.mpr (fun e => d.2 x hx (not_not.mp e))⟩
      · cases d
  · simp only [Bool.and_eq_true, Bool.not_eq_true', decide_eq_true_eq, List.all_eq_true, if_neg g]
    constructor
    · rintro ⟨⟨⟨a, b⟩, c⟩, ⟨d, e⟩, f⟩; exact ⟨a, b, c, .inr ⟨e, d, f⟩⟩
    · rintro ⟨a, b, c, d⟩
      rcases d with ⟨d, _⟩ | ⟨d, e, f⟩
      · exact absurd d g
      · exact ⟨⟨⟨a, b⟩, c⟩, ⟨e, d⟩, f⟩

theorem ssNeeds_of (s : State) (row r : Nat) : (s.ssNeeds row r).dm.map = s.dm.map ∧ (s.ssNeeds row r).nv = s.nv ∧ (s.ssNeeds row r).dm.ssCorr = s.dm.ssCorr ∧ (s.ssNeeds row r).dm.ssLog = s.dm.ssLog ∧
    ((freeRow s.dm.map.ssRows).isSome = true → (s.ssNeeds row r).dm.ssDue = s.dm.ssDue.filter (fun x => x.1 ≠ row) ++ [(row, r)]) := by
  unfold State.ssNeeds
  split
  · exact ⟨rfl, rfl, rfl, rfl, fun _ => rfl⟩
  · next h =>
    split
    · exact ⟨rfl, rfl, rfl, rfl, fun g => absurd g h⟩
    · rw [stage_dm, stage_nv]; exact ⟨rfl, rfl, rfl, rfl, fun g => absurd g h⟩

theorem ssCorrected_of (s : State) (w : Nat) : (s.ssCorrected w).dm.map = s.dm.map ∧ (s.ssCorrected w).nv.corrections = s.nv.corrections + 1 ∧ (s.ssCorrected w).dm.ssCorr = satInc 65535 s.dm.ssCorr := by
  unfold State.ssCorrected
  extract_lets n other a src b
  have hb : b.dm.map = s.dm.map ∧ b.nv.corrections = s.nv.corrections + 1 ∧ b.dm.ssCorr = satInc 65535 s.dm.ssCorr := ⟨rfl, rfl, rfl⟩
  clear_value b
  split
  · have q := ssNeeds_of b (w / 256) 2
    exact ⟨q.1.trans hb.1, by rw [q.2.1]; exact hb.2.1, q.2.2.1.trans hb.2.2⟩
  · exact hb

theorem corrFold (l : List Nat) (s : State) : (l.foldl State.ssCorrected s).dm.map = s.dm.map ∧ (l.foldl State.ssCorrected s).nv.corrections = s.nv.corrections + l.length ∧ (s.dm.ssCorr ≤ 65535 → (l.foldl State.ssCorrected s).dm.ssCorr = min 65535 (s.dm.ssCorr + l.length)) := by
  induction l generalizing s with
  | nil => exact ⟨rfl, rfl, fun h => by simp; omega⟩
  | cons a r ih =>
    rw [List.foldl_cons]
    have o := ssCorrected_of s a
    have i := ih (s.ssCorrected a)
    refine ⟨i.1.trans o.1, by rw [i.2.1, o.2.1, List.length_cons]; omega, fun h => ?_⟩
    have : satInc 65535 s.dm.ssCorr = min 65535 (s.dm.ssCorr + 1) := by unfold satInc; split <;> omega
    rw [i.2.2 (by rw [o.2.2, this]; omega), o.2.2, this, List.length_cons]; omega

theorem needFold (m : List Nat) (s : State) : let t := m.foldl (fun s w => s.ssNeeds (w / 256) 1) s
    t.dm.map = s.dm.map ∧ t.nv = s.nv ∧ t.dm.ssCorr = s.dm.ssCorr ∧ ((freeRow s.dm.map.ssRows).isSome = true → (∀ r, (r, 1) ∈ s.dm.ssDue → (r, 1) ∈ t.dm.ssDue) ∧ ∀ w ∈ m, (w / 256, 1) ∈ t.dm.ssDue) := by
  induction m generalizing s with
  | nil => exact ⟨rfl, rfl, rfl, fun _ => ⟨fun _ h => h, fun _ h => nomatch h⟩⟩
  | cons a r ih =>
    intro t
    have e : t = r.foldl (fun s w => s.ssNeeds (w / 256) 1) (s.ssNeeds (a / 256) 1) := rfl
    rw [e]
    have o := ssNeeds_of s (a / 256) 1
    obtain ⟨i1, i2, i3, i4⟩ := ih (s.ssNeeds (a / 256) 1)
    refine ⟨i1.trans o.1, i2.trans o.2.1, i3.trans o.2.2.1, fun h => ?_⟩
    have j := i4 (by rw [o.1]; exact h)
    have d := o.2.2.2.2 h
    have ha : (a / 256, 1) ∈ (s.ssNeeds (a / 256) 1).dm.ssDue := by rw [d]; simp
    refine ⟨fun x hx => j.1 x ?_, fun w hw => ?_⟩
    · rw [d]
      by_cases g : x = a / 256
      · subst g; simp
      · simp [g, hx]
    · rcases List.mem_cons.mp hw with rfl | hw
      · exact j.1 _ ha
      · exact j.2 w hw

theorem corr1 (s : State) (w : Nat) (h : (freeRow s.dm.map.ssRows).isSome = true) :
    (w / 256, 2) ∈ (s.ssCorrected w).dm.ssDue ∨ ((s.ssCorrected w).dm.ssDue = s.dm.ssDue ∧ ((w, s.pwr.ot, 1) ∈ (s.ssCorrected w).dm.ssLog ∨ ∃ e ∈ s.dm.ssLog, e.1 = w ∧ e.2.2 < 7 ∧ (w, s.pwr.ot, e.2.2 + 1) ∈ (s.ssCorrected w).dm.ssLog) ∧ ∀ e ∈ s.dm.ssLog, e.1 ≠ w → e.1 / 256 = w / 256 → e.2.1 + 86400000000 < s.pwr.ot) := by
  unfold State.ssCorrected
  extract_lets n other a src b
  have hb : b.dm.map = s.dm.map ∧ b.dm.ssDue = s.dm.ssDue ∧ (w, s.pwr.ot, n) ∈ b.dm.ssLog := ⟨rfl, rfl, by simp [b, a, State.modDm]⟩
  clear_value b
  by_cases g : (other = true ∨ 8 ≤ n)
  · rw [if_pos g]
    refine .inl ?_
    rw [(ssNeeds_of b (w / 256) 2).2.2.2.2 (by rw [hb.1]; exact h)]; simp
  · rw [if_neg g]
    rw [not_or] at g
    refine .inr ⟨hb.2.1, ?_, fun e he h1 h2 => ?_⟩
    · cases f : s.dm.ssLog.find? (fun e => e.1 = w) with
      | none => refine .inl ?_; have : n = 1 := by simp [n, f]
                rw [← this]; exact hb.2.2
      | some e =>
        have hn : n = e.2.2 + 1 := by simp [n, f]
        refine .inr ⟨e, List.mem_of_find?_eq_some f, by simpa using List.find?_some f, by omega, ?_⟩
        rw [← hn]; exact hb.2.2
    · by_contra c
      apply g.1
      simp only [other, List.any_eq_true, decide_eq_true_eq]
      exact ⟨e, he, h1, h2, by unfold dayUs; omega⟩

theorem lost_of (s : State) (o : Nat) : let t := s.mramLostWord o
    t.mram = s.mram ∧ t.dm.map = s.dm.map ∧ t.dm.scrub = s.dm.scrub ∧ o / 8 * 8 ∈ t.dm.mramBad ∧ (∀ w ∈ s.dm.mramBad, w ∈ t.dm.mramBad) ∧ (o / 1024, 1) ∈ t.dm.mramDue ∧ (∀ r, (r, 1) ∈ s.dm.mramDue → (r, 1) ∈ t.dm.mramDue) := by
  intro t
  have key : ∃ u : State, t.dm = u.dm ∧ t.mram = u.mram ∧ u.mram = s.mram ∧ u.dm.map = s.dm.map ∧ u.dm.scrub = s.dm.scrub ∧ u.dm.mramBad = (if o / 8 * 8 ∈ s.dm.mramBad then s.dm.mramBad else s.dm.mramBad ++ [o / 8 * 8]) ∧ u.dm.mramDue = s.dm.mramDue.filter (fun x => x.1 ≠ o / 1024) ++ [(o / 1024, 1)] := by
    simp only [t]; unfold State.mramLostWord
    extract_lets w it told u v
    have hu : u.mram = s.mram ∧ u.dm.map = s.dm.map ∧ u.dm.scrub = s.dm.scrub ∧ u.dm.mramBad = (if o / 8 * 8 ∈ s.dm.mramBad then s.dm.mramBad else s.dm.mramBad ++ [o / 8 * 8]) ∧ u.dm.mramDue = s.dm.mramDue.filter (fun x => x.1 ≠ o / 1024) ++ [(o / 1024, 1)] := ⟨rfl, rfl, rfl, rfl, rfl⟩
    have hv : v.dm = u.dm ∧ v.mram = u.mram := by simp only [v]; split <;> exact ⟨rfl, rfl⟩
    clear_value v u
    refine ⟨u, ?_, ?_, hu⟩
    · split
      · exact hv.1
      · rw [stage_dm]; exact hv.1
    · split
      · exact hv.2
      · rw [stage_mram]; exact hv.2
  obtain ⟨u, e1, e2, h1, h2, h3, h4, h5⟩ := key
  rw [e1, e2]
  refine ⟨h1, h2, h3, ?_, fun w hw => ?_, by rw [h5]; simp, fun r hr => ?_⟩
  · rw [h4]; split
    · assumption
    · simp
  · rw [h4]; split
    · exact hw
    · simp [hw]
  · rw [h5]
    by_cases g : r = o / 1024
    · subst g; simp
    · simp [g, hr]

theorem lostFold (m : List Nat) (s : State) : let t := m.foldl State.mramLostWord s
    t.mram = s.mram ∧ t.dm.map = s.dm.map ∧ t.dm.scrub = s.dm.scrub ∧ (∀ w ∈ s.dm.mramBad, w ∈ t.dm.mramBad) ∧ (∀ r, (r, 1) ∈ s.dm.mramDue → (r, 1) ∈ t.dm.mramDue) ∧ ∀ o ∈ m, o / 8 * 8 ∈ t.dm.mramBad ∧ (o / 1024, 1) ∈ t.dm.mramDue := by
  induction m generalizing s with
  | nil => exact ⟨rfl, rfl, rfl, fun _ h => h, fun _ h => h, fun _ h => nomatch h⟩
  | cons a r ih =>
    intro t
    have e : t = r.foldl State.mramLostWord (s.mramLostWord a) := rfl
    rw [e]
    obtain ⟨l1, l2, l3, l4, l5, l6, l7⟩ := lost_of s a
    obtain ⟨i1, i2, i3, i4, i5, i6⟩ := ih (s.mramLostWord a)
    refine ⟨i1.trans l1, i2.trans l2, i3.trans l3, fun w hw => i4 w (l5 w hw), fun r hr => i5 r (l7 r hr), fun o ho => ?_⟩
    rcases List.mem_cons.mp ho with rfl | ho
    · exact ⟨i4 _ l4, i5 _ l6⟩
    · exact i6 o ho

theorem mcorr_of (s : State) (o : Nat) : (s.mramCorrected o).mram = s.mram ∧ (s.mramCorrected o).dm.map = s.dm.map ∧ (s.mramCorrected o).dm.scrub = s.dm.scrub ∧ (s.mramCorrected o).nv.corrections = s.nv.corrections + 1 ∧ o / 8 * 8 ∈ (s.mramCorrected o).dm.mramSeen ∧ (o / 8 * 8 ∈ s.dm.mramSeen → (o / 1024, 2) ∈ (s.mramCorrected o).dm.mramDue) := by
  unfold State.mramCorrected
  extract_lets w again u x v
  by_cases g : o / 8 * 8 ∈ s.dm.mramSeen
  · have ga : again = true := by simp [again, w, g]
    rw [if_pos ga]
    refine ⟨rfl, rfl, rfl, rfl, ?_, fun _ => ?_⟩
    · show o / 8 * 8 ∈ (if again = true then s.dm.mramSeen else s.dm.mramSeen ++ [w]); rw [if_pos ga]; exact g
    · show _ ∈ _ ++ _; simp
  · have ga : ¬ again = true := by simp [again, w, g]
    rw [if_neg ga]
    refine ⟨rfl, rfl, rfl, rfl, ?_, fun h => absurd h g⟩
    show o / 8 * 8 ∈ (if again = true then s.dm.mramSeen else s.dm.mramSeen ++ [w]); rw [if_neg ga]; simp [w]

theorem mcorrFold (l : List Nat) (s : State) : (l.foldl State.mramCorrected s).mram = s.mram ∧ (l.foldl State.mramCorrected s).dm.map = s.dm.map ∧ (l.foldl State.mramCorrected s).dm.scrub = s.dm.scrub := by
  induction l generalizing s with
  | nil => exact ⟨rfl, rfl, rfl⟩
  | cons a r ih =>
    have q := mcorr_of s a
    have i := ih (s.mramCorrected a)
    exact ⟨i.1.trans q.1, i.2.1.trans q.2.1, i.2.2.trans q.2.2.1⟩

theorem body_len (u p o : Nat) (m : DefMap) (h1 : m.pairs.length = 16) (h2 : m.cores.length = 18) (h3 : m.lanes.length = 10) (h4 : m.ssRows.length = 16) (h5 : m.mramRows.length = 64) : (mapBody u p o m).length = 4088 := by
  have fm : ∀ {α : Type} (l : List α) (f : α → List Byte) (c : Nat), (∀ x, (f x).length = c) → (l.flatMap f).length = c * l.length := by
    intro α l f c h
    induction l with
    | nil => rfl
    | cons a r ih => rw [List.flatMap_cons, List.length_append, ih, h, List.length_cons]; ring
  unfold mapBody
  simp only [List.length_append]
  rw [fm m.pairs _ 24 (fun x => by simp [b1, b2, b8, zeros]), fm m.cores _ 4 (fun x => by simp [b1, b2, zeros]), fm m.lanes _ 2 (fun x => by simp [b1]), fm m.ssRows _ 4 (fun x => by cases x <;> simp [rowBytes, b1, b2, zeros]), fm m.mramRows _ 4 (fun x => by cases x <;> simp [rowBytes, b1, b2, zeros]), h1, h2, h3, h4, h5]
  simp only [b4, b8, length_leBytes, zeros, List.length_replicate]

end Sys2Proof.Facts.RepairRules
end

