-- ==== Sys2Proof/Laws/Requests.lean ====
section
/-! SUPPORT. Requests for a state, FAILSAFE and its causes. Lemmas about the operations of these rows, for the proofs of the statements about them. -/

namespace Sys2Proof.Facts.Requests

open Sys2Proof Sys2Proof.Machine

theorem tgt4 : ∃ r, targetOf 0x0004 = some (.reg r) ∧ r.mask ≠ 0 := ⟨_, rfl, by decide⟩

theorem changeState_req (s : State) (n : OpState) (c : Nat) : (s.changeState n c).sys.pend = s.sys.pend ∧ (s.changeState n c).sys.reqResult = s.sys.reqResult := ⟨by simp, by simp⟩

theorem relinquish_req (s : State) (c : Nat) : (s.relinquish c).sys.pend = s.sys.pend ∧ (s.relinquish c).sys.reqResult = s.sys.reqResult := by
  have h := (keeps_relinquish (K := [.irq, .ring, .trip, .fio, .hng]) c rfl (Keeps.refl _ s)).1.2 .req (by decide)
  exact ⟨h.1, h.2.2.2⟩

theorem changeState_failFrom (s : State) (c : Nat) : (s.changeState .failsafe c).sys.failFrom = s.sys.st := by
  unfold State.changeState
  simp

theorem fin_nme (x : State) : (x.fastSettle.followOutputs).sys.nme = x.sys.nme :=  (keeps_followOutputs (K := [.irq, .ring, .trip, .fst, .fio, .chn]) (hM := rfl) (keeps_fastSettle (hM := rfl) (Keeps.refl _ x))).1.2 .nme (by decide)

theorem fin_hng (x : State) : (x.fastSettle.followOutputs).hng = x.hng :=  (keeps_followOutputs (K := [.irq, .ring, .trip, .fst, .fio, .chn]) (hM := rfl) (keeps_fastSettle (hM := rfl) (Keeps.refl _ x))).1.2 .hng (by decide)

theorem changeState_nme (s : State) (n : OpState) (c : Nat) : (s.changeState n c).sys.nme = if n = .failsafe then setBit s.sys.nme 0 else s.sys.nme := by
  have ef : s.endForeground.sys.nme = s.sys.nme := (keeps_endForeground (K := [.irq, .job, .ring, .trip, .afe, .flt]) (hM := rfl) (Keeps.refl _ s)).1.2 .nme (by decide)
  have tm : ∀ x : State, (x.timeService n).sys.nme = x.sys.nme := fun x => (keeps_timeService (K := [.pwr]) (hM := rfl) _ (Keeps.refl _ x)).1.2 .nme (by decide)
  have ho : ∀ x : State, x.holdOutputs.sys.nme = x.sys.nme := fun x => (keeps_holdOutputs (K := [.fio]) (hM := rfl) (Keeps.refl _ x)).1.2 .nme (by decide)
  have ap : ∀ x : State, (x.applyState n).sys.nme = x.sys.nme := fun x => (keeps_applyState (K := [.st, .irq, .ring, .trip, .clk, .flt, .fst, .fio, .chn, .hng]) (hM := rfl) _ (Keeps.refl _ x)).1.2 .nme (by decide)
  unfold State.changeState
  have sg : ∀ (x : State) a b l, (x.stage a b l).sys.nme = x.sys.nme := fun x a b l => stage_same x a b l (p := .nme) (by decide)
  simp only [sg]
  split <;> simp only [State.setIrq, State.setNme, ap, tm] <;> split <;> simp [ef]

theorem changeState_ctl (s : State) (n : OpState) (c : Nat) (hn : n ≠ .inService) : (s.changeState n c).hng.ctl = false := by
  unfold State.changeState
  simp
  split <;> simp [State.applyState, fin_hng, State.modFio, hn]

end Sys2Proof.Facts.Requests
end

