-- ==== Sys2Proof/Laws/SchemeJobs.lean ====
section
/-! SUPPORT. Jobs submitted and the commands of the scheme. Lemmas about the operations of these rows, for the proofs of the statements about them. -/

namespace Sys2Proof.Facts.SchemeJobs

open Sys2Proof Sys2Proof.Machine

theorem tgtj : ∃ r, targetOf 0x1000 = some (.reg r) ∧ r.mask ≠ 0 := ⟨_, rfl, by decide⟩

theorem packj (code arg : Nat) (hc : code < 256) (ha : arg < 65536) : bitsOf (pack [(0, 8, code), (8, 16, arg)]) 7 0 = code ∧ bitsOf (pack [(0, 8, code), (8, 16, arg)]) 23 8 = arg := by
  have e : (pack [(0, 8, code), (8, 16, arg)]).toNat = code + 256 * arg := by
    simp only [pack]
    have d : (BitVec.ofNat 32 (code % 2 ^ 8 * 2 ^ 0) &&& BitVec.ofNat 32 (arg % 2 ^ 16 * 2 ^ 8)) = 0 := by
      apply BitVec.eq_of_toNat_eq
      simp only [BitVec.toNat_and, BitVec.toNat_ofNat]
      have : code % 2 ^ 8 * 2 ^ 0 % 2 ^ 32 < 2 ^ 8 := by omega
      rw [show arg % 2 ^ 16 * 2 ^ 8 % 2 ^ 32 = (arg % 2 ^ 16) <<< 8 by rw [Nat.shiftLeft_eq]; omega]
      apply Nat.eq_of_testBit_eq
      intro i
      simp only [Nat.testBit_and, Nat.testBit_shiftLeft]
      by_cases hi : 8 ≤ i
      · rw [Nat.testBit_lt_two_pow (Nat.lt_of_lt_of_le this (Nat.pow_le_pow_right (by decide) hi))]; simp
      · simp [hi]
    rw [show (BitVec.ofNat 32 (arg % 2 ^ 16 * 2 ^ 8) ||| (0 : Word)) = BitVec.ofNat 32 (arg % 2 ^ 16 * 2 ^ 8) by simp]
    rw [← BitVec.add_eq_or_of_and_eq_zero _ _ d]
    simp only [BitVec.toNat_add, BitVec.toNat_ofNat]
    omega
  unfold bitsOf
  rw [e]
  constructor <;> omega

theorem submit_eq {cls : KeyClass} {s : State} (h : s.mayWrite cls 0x1000) (code arg : Nat) (hc : code < 256) (ha : arg < 65536) (h0 : code ≠ 0) :
    s.submitJob cls code arg = if code = 0xFF then (s.cancel cls arg).1 else (s.submit cls code arg).1 := by
  obtain ⟨r, hr, hm⟩ := tgtj
  have e : s.submitJob cls code arg = (s.applyReg cls 0x1000 (pack [(0, 8, code), (8, 16, arg)])).1 := write_applies h hr hm
  have e2 : (s.applyReg cls 0x1000 (pack [(0, 8, code), (8, 16, arg)])) = s.writeSubmit cls (pack [(0, 8, code), (8, 16, arg)]) := rfl
  rw [e, e2]
  unfold State.writeSubmit
  rw [(packj code arg hc ha).1, (packj code arg hc ha).2]
  simp only [h0, if_false]
  split <;> rfl

theorem begins_job (s : State) (a b c) : (s.jobBegins a b c).job = s.job := Keeps.same (keeps_jobBegins (K := [.cap, .trip, .clk, .sch, .ptp, .chn, .hng]) a b c rfl (Keeps.refl _ s)) (p := .job) (by decide)

theorem show_job (s : State) (a b c) : (s.showRefusal a b c).job = s.job := Keeps.same (keeps_showRefusal (K := [.irq, .ring, .trip, .pe, .sch, .chn]) a b c rfl (Keeps.refl _ s)) (p := .job) (by decide)

theorem endJob_job (s : State) (n a b : Nat) (j : Job) (h : s.job.out.find? (fun j => j.ticket = n) = some j) :
    (s.endJob n a b).job.out = s.job.out.filter (fun j => j.ticket ≠ n) ∧ (s.endJob n a b).job.hist = (({ ticket := n, state := a, reason := b } : JobEnd) :: s.job.hist).take 16 ∧ (s.endJob n a b).job.tickets = s.job.tickets := by
  unfold State.endJob
  rw [h]
  simp

theorem push_sch (s : State) (a b) : (s.pushFrame a b).sch = s.sch := rfl

theorem tgtx : (∃ r, targetOf 0x2418 = some (.reg r) ∧ r.mask ≠ 0) ∧ (∃ r, targetOf 0x2430 = some (.reg r) ∧ r.mask ≠ 0) ∧ (∃ r, targetOf 0x243C = some (.reg r) ∧ r.mask ≠ 0) :=
  ⟨⟨_, rfl, by decide⟩, ⟨_, rfl, by decide⟩, ⟨_, rfl, by decide⟩⟩

theorem xfer_bits (v : Word) : bitsOf (v ||| 0x80000000#32) 8 0 = bitsOf v 8 0 ∧ bitAt (v ||| 0x80000000#32) 31 = true := by
  constructor
  · unfold bitsOf
    simp only [BitVec.toNat_or, Nat.pow_zero, Nat.div_one]
    rw [Nat.or_mod_two_pow]
    simp
  · unfold bitAt
    simp only [BitVec.toNat_or, Nat.testBit_or, Bool.or_eq_true]
    exact Or.inr (by decide)

theorem chunk_sch (s : State) (v : Word) : s.loading = (s.setReg 0x2418 v).loading ∧ (s.setReg 0x2418 v).sch = s.sch := ⟨by simp [State.loading, State.jobOf], by simp⟩

theorem endJob_sch (s : State) (a b c) : (s.endJob a b c).sch = s.sch := Keeps.same (keeps_endJob (K := [.irq, .job, .ring, .trip]) a b c rfl (Keeps.refl _ s)) (p := .sch) (by decide)

theorem endJob_st (s : State) (a b c) : (s.endJob a b c).sys.st = s.sys.st := (Keeps.same (keeps_endJob (K := [.irq, .job, .ring, .trip]) a b c rfl (Keeps.refl _ s)) (p := .st) (by decide)).1

theorem endJob_pe (s : State) (a b c) : (s.endJob a b c).pe = s.pe := Keeps.same (keeps_endJob (K := [.irq, .job, .ring, .trip]) a b c rfl (Keeps.refl _ s)) (p := .pe) (by decide)

theorem setGroup_sch (s : State) (g : Nat) : (s.setGroup g).sch = { s.sch with group := g } := by
  unfold State.setGroup
  split
  · rename_i h; rw [h]
  · simp [State.modSch]

theorem modFio_keep (s : State) (f) : (s.modFio f).sch = s.sch ∧ (s.modFio f).sys = s.sys := ⟨rfl, rfl⟩

theorem modSch_keep (s : State) (f) : (s.modSch f).sch = f s.sch ∧ (s.modSch f).sys = s.sys := ⟨rfl, rfl⟩

theorem placeScheme_sch (s : State) (c : Bool) : (s.placeScheme c).sch = { s.sch with placed := true } ∧ (s.placeScheme c).sys.st = s.sys.st := by
  unfold State.placeScheme
  extract_lets s1 s2 s3 s4 s5 s6
  have k1 : Keeps [.nv, .regs, .defer, .key] s s1 := keeps_applyKeyway rfl (keeps_restoreRates _ rfl (keeps_restoreRegs _ rfl (Keeps.refl _ s)))
  have k2 : Keeps [.causes, .irq, .ring, .trip, .pe, .fio, .hng] s2 s2.assignPlaces.initStore := keeps_initStore rfl (keeps_assignPlaces rfl (Keeps.refl _ _))
  have k4 : Keeps [.causes, .irq, .ring, .trip, .nv, .regs, .afe] s3 s4 := by
    refine Keeps.foldl (Keeps.refl _ _) (fun t a ht => ?_)
    split
    · exact keeps_exclude _ rfl ht
    · exact ht
  have k5 : Keeps [.irq, .ring, .trip, .svc, .chn] s4 s5 := keeps_checkAddr rfl (keeps_refillBuckets rfl (keeps_rebuildCtx rfl (Keeps.refl _ _)))
  have k7 : Keeps [.irq, .ring, .trip, .fst, .chn, .fio] s6 s6.restartFast.followOutputs := keeps_followOutputs rfl (keeps_restartFast rfl (Keeps.refl _ _))
  have h6 : s6.sch = s5.sch ∧ s6.sys = s5.sys := modFio_keep s5 _
  have h3 : s3.sch = { s2.assignPlaces.initStore.sch with placed := true } ∧ s3.sys = s2.assignPlaces.initStore.sys := modSch_keep s2.assignPlaces.initStore (fun x => { x with placed := true })
  have h2 : s2.sch = s1.sch ∧ s2.sys = s1.sys := ⟨rfl, rfl⟩
  clear_value s6
  clear_value s5
  clear_value s4
  clear_value s3
  clear_value s2
  clear_value s1
  constructor
  · rw [Keeps.same k7 (p := .sch) (by decide), h6.1, Keeps.same k5 (p := .sch) (by decide), Keeps.same k4 (p := .sch) (by decide), h3.1, Keeps.same k2 (p := .sch) (by decide), h2.1, Keeps.same k1 (p := .sch) (by decide)]
  · rw [(Keeps.same k7 (p := .st) (by decide)).1, h6.2, (Keeps.same k5 (p := .st) (by decide)).1, (Keeps.same k4 (p := .st) (by decide)).1, h3.2, (Keeps.same k2 (p := .st) (by decide)).1, h2.2, (Keeps.same k1 (p := .st) (by decide)).1]

theorem finishAct_eq (s : State) : s.finishAct.sch = { s.sch with act := .idle, actHinge := false, actTicket := 0, actResult := 2, lost := false, fallback := false, blockedUs := s.pe.tickOt - s.sch.actOt } ∧ s.finishAct.sys.st = s.sys.st ∧ s.finishAct.pe = s.pe := by
  have ea : ∀ a b, (s.endAct a b).sch = s.sch ∧ (s.endAct a b).sys.st = s.sys.st ∧ (s.endAct a b).pe = s.pe := by
    intro a b; unfold State.endAct; split
    · exact ⟨rfl, rfl, rfl⟩
    · exact ⟨endJob_sch .., endJob_st .., endJob_pe ..⟩
  unfold State.finishAct
  simp [State.modSch, (ea _ _).1, (ea _ _).2]

theorem gain_mod (u : State) (a : Nat) (f : AfeCh → AfeCh) (hf : ∀ x, (f x).gain = x.gain) (c : Nat) : ((u.modAfeCh a f).afeCh c).gain = (u.afeCh c).gain := by
  by_cases hac : a = c
  · subst hac
    by_cases hl : a < u.afe.ch.length
    · rw [afeCh_modAfeCh _ _ _ hl]; exact hf _
    · have : (u.modAfeCh a f).afe.ch = u.afe.ch := by
        simp only [State.modAfeCh, modNth]
        exact List.modify_eq_self (by omega)
      unfold State.afeCh; rw [this]
  · unfold State.afeCh; exact congrArg AfeCh.gain (nth_modNth_ne hac)

theorem gain_fold (l : List Nat) (f : State → Nat → State) (hf : ∀ u a c, ((f u a).afeCh c).gain = (u.afeCh c).gain) : ∀ u c, ((l.foldl f u).afeCh c).gain = (u.afeCh c).gain := by
  induction l with
  | nil => intro u c; rfl
  | cons a r ih => intro u c; rw [List.foldl_cons, ih, hf]

theorem gain_judge (q : State) (c : Nat) : (q.judgePilots.afeCh c).gain = (q.afeCh c).gain := by
  have : q.judgePilots.afe = q.afe := Keeps.same (keeps_judgePilots (K := [.causes]) rfl (Keeps.refl _ q)) (p := .afe) (by decide)
  unfold State.afeCh; rw [this]

theorem gain_clear (u : State) (b c : Nat) : ((u.clearSuspects b).afeCh c).gain = (u.afeCh c).gain := by
  unfold State.clearSuspects
  rw [gain_judge]
  refine gain_fold _ _ (fun u a c => ?_) _ _
  exact gain_mod u a _ (by intro; rfl) c

theorem gain_eval (u : State) (b c : Nat) : ((u.evalPilot b).afeCh c).gain = (u.afeCh c).gain := by
  unfold State.evalPilot
  extract_lets o p v w
  have hw : (w.afeCh c).gain = (u.afeCh c).gain := by
    simp only [w]; split
    · unfold State.afeCh; rw [stage_afe]; rfl
    · rfl
  split
  · exact hw
  · exact (gain_clear _ _ _).trans hw

theorem retune_gain (u : State) (c : Nat) : (u.retunePilots.afeCh c).gain = (u.afeCh c).gain := by
  unfold State.retunePilots
  refine (gain_eval _ _ _).trans ((gain_eval _ _ _).trans ?_)
  refine gain_fold _ _ (fun u a c => ?_) _ _
  exact gain_mod u a _ (by intro; rfl) c

end Sys2Proof.Facts.SchemeJobs
end

