-- ==== Sys2Proof/Laws/StateMoves.lean ====
section
/-! SUPPORT. What each command does to the operating state, and what each register write may change. Lemmas about the operations of these rows, for the proofs of the statements about them. -/

namespace Sys2Proof.Facts.StateMoves

open Sys2Proof Sys2Proof.Machine

theorem w0x1800 {K : List Part} (cls : KeyClass) (v : Word) (s : State) (hM : Within [.irq, .key, .ring, .trip, .nv, .flt, .regs] K) : Keeps K s (s.write cls 0x1800 v) :=
  keeps_write_at (hr := rfl) (hM := hM.up rfl) (Keeps.refl _ s) (by
    rw [show s.applyReg cls 0x1800 v = s.writeFltCfg v from rfl]
    exact keeps_writeFltCfg _ (hM := hM.up rfl) (Keeps.refl _ s))

theorem w0x1C24 {K : List Part} (cls : KeyClass) (v : Word) (s : State) (hM : Within [.irq, .key, .ring, .trip, .aux] K) : Keeps K s (s.write cls 0x1C24 v) :=
  keeps_write_at (hr := rfl) (hM := hM.up rfl) (Keeps.refl _ s) (by
    rw [show s.applyReg cls 0x1C24 v = (if bitAt v 0 then s.injTrigger 2 else s, false) from rfl]
    dsimp only; exact Keeps.ite (fun _ => keeps_injTrigger _ (hM := hM.up rfl) (Keeps.refl _ s)) (fun _ => Keeps.refl _ s))

theorem w0x403C {K : List Part} (cls : KeyClass) (v : Word) (s : State) (hM : Within [.irq, .key, .ring, .trip, .chn] K) : Keeps K s (s.write cls 0x403C v) :=
  keeps_write_at (hr := rfl) (hM := hM.up rfl) (Keeps.refl _ s) (by
    rw [show s.applyReg cls 0x403C v = (if bitAt v 0 then s.remoteGo else s, false) from rfl]
    dsimp only; exact Keeps.ite (fun _ => keeps_remoteGo (hM := hM.up rfl) (Keeps.refl _ s)) (fun _ => Keeps.refl _ s))

theorem w0x0800 {K : List Part} (cls : KeyClass) (v : Word) (s : State) (hM : Within [.irq, .key, .ring, .trip, .clk, .nv, .regs] K) : Keeps K s (s.write cls 0x0800 v) :=
  keeps_write_at (hr := rfl) (hM := hM.up rfl) (Keeps.refl _ s) (by
    rw [show s.applyReg cls 0x0800 v = s.writeClkCfg v from rfl]
    exact keeps_writeClkCfg _ (hM := hM.up rfl) (Keeps.refl _ s))

theorem w0x0820 {K : List Part} (cls : KeyClass) (v : Word) (s : State) (hM : Within [.irq, .key, .ring, .trip, .clk, .regs] K) : Keeps K s (s.write cls 0x0820 v) :=
  keeps_write_at (hr := rfl) (hM := hM.up rfl) (Keeps.refl _ s) (by
    rw [show s.applyReg cls 0x0820 v = s.writeMeas v from by simp [State.applyReg, State.applyClk]]
    exact keeps_writeMeas _ (hM := hM.up rfl) (Keeps.refl _ s))

theorem w0x0814 {K : List Part} (cls : KeyClass) (v : Word) (s : State) (hM : Within [.irq, .key, .ring, .trip, .clk, .regs] K) : Keeps K s (s.write cls 0x0814 v) :=
  keeps_write_at (hr := rfl) (hM := hM.up rfl) (Keeps.refl _ s) (by
    rw [show s.applyReg cls 0x0814 v = s.writeGate v from rfl]
    exact keeps_writeGate _ (hM := hM.up rfl) (Keeps.refl _ s))

theorem ap2D40 (cls : KeyClass) (v : Word) (s : State) : (s.applyReg cls 0x2D40 v).1 = s.crossClear v := by simp [State.applyReg, State.applyFio]

theorem w0x2D40 {K : List Part} (cls : KeyClass) (v : Word) (s : State) (hM : Within [.irq, .key, .ring, .trip, .fio] K) : Keeps K s (s.write cls 0x2D40 v) := by
  refine keeps_write_at (hr := rfl) (hM := hM.up rfl) (Keeps.refl _ s) ?_
  rw [ap2D40]
  exact keeps_crossClear v (hM.up rfl) (Keeps.refl _ s)

theorem w0x4400 {K : List Part} (cls : KeyClass) (v : Word) (s : State) (hM : Within [.irq, .key, .ring, .trip, .nv, .hng, .regs, .free] K) : Keeps K s (s.write cls 0x4400 v) :=
  keeps_write_at (hr := rfl) (hM := hM.up rfl) (Keeps.refl _ s) (by
    rw [show s.applyReg cls 0x4400 v = s.writeHngCtl v from rfl]
    exact keeps_writeHngCtl _ (hM := hM.up rfl) (Keeps.refl _ s))

theorem w0x0010 {K : List Part} (cls : KeyClass) (v : Word) (s : State) (hM : Within [.irq, .key, .ring, .trip] K) : Keeps K s (s.write cls 0x0010 v) :=
  keeps_write_at (hr := rfl) (hM := hM.up rfl) (Keeps.refl _ s) (by
    rw [show s.applyReg cls 0x0010 v = ({ s with sys := { s.sys with irq := clearBits s.sys.irq v } }, false) from rfl]
    exact Keeps.setIrq (hM.mem rfl) (Keeps.refl _ s) rfl)

theorem w0x0018 {K : List Part} (cls : KeyClass) (v : Word) (s : State) (hM : Within [.irq, .key, .ring, .trip, .nme] K) : Keeps K s (s.write cls 0x0018 v) :=
  keeps_write_at (hr := rfl) (hM := hM.up rfl) (Keeps.refl _ s) (by
    rw [show s.applyReg cls 0x0018 v = ({ s with sys := { s.sys with nme := clearBits s.sys.nme v } }, false) from rfl]
    exact Keeps.setNme (hM.mem rfl) (Keeps.refl _ s) rfl)

theorem w0x0418 {K : List Part} (cls : KeyClass) (v : Word) (s : State) (hM : Within [.irq, .key, .ring, .trip, .pwr] K) : Keeps K s (s.write cls 0x0418 v) :=
  keeps_write_at (hr := rfl) (hM := hM.up rfl) (Keeps.refl _ s) (by
    rw [show s.applyReg cls 0x0418 v = s.writePwrCtl v from rfl]
    exact keeps_writePwrCtl _ (hM := hM.up rfl) (Keeps.refl _ s))

theorem w0x0004 {K : List Part} (cls : KeyClass) (v : Word) (s : State) (hM : Within [.irq, .key, .ring, .trip, .req, .due] K) : Keeps K s (s.write cls 0x0004 v) :=
  keeps_write_at (hr := rfl) (hM := hM.up rfl) (Keeps.refl _ s) (by
    rw [show s.applyReg cls 0x0004 v = s.writeReq (bitsOf v 7 4) from rfl]
    exact keeps_writeReq _ (hM := hM.up rfl) (Keeps.refl _ s))

theorem w0x3014 {K : List Part} (cls : KeyClass) (v : Word) (s : State) (hM : Within [.irq, .key, .ring, .trip, .ledger] K) : Keeps K s (s.write cls 0x3014 v) :=
  keeps_write_at (hr := rfl) (hM := hM.up rfl) (Keeps.refl _ s) (by
    rw [show s.applyReg cls 0x3014 v = (s.cursorOp cls (bitsOf v 2 0), false) from rfl]
    exact keeps_cursorOp _ _ (hM := hM.up rfl) (Keeps.refl _ s))

theorem w0x3404 {K : List Part} (cls : KeyClass) (v : Word) (s : State) (hM : Within [.irq, .key, .ring, .trip, .cap] K) : Keeps K s (s.write cls 0x3404 v) :=
  keeps_write_at (hr := rfl) (hM := hM.up rfl) (Keeps.refl _ s) (by
    rw [show s.applyReg cls 0x3404 v = (s.writeCapCtl v, false) from rfl]
    exact keeps_writeCapCtl _ (hM := hM.up rfl) (Keeps.refl _ s))

theorem w0x3414 {K : List Part} (cls : KeyClass) (v : Word) (s : State) (hM : Within [.irq, .key, .ring, .trip, .cap, .dm, .mram] K) : Keeps K s (s.write cls 0x3414 v) :=
  keeps_write_at (hr := rfl) (hM := hM.up rfl) (Keeps.refl _ s) (by
    rw [show s.applyReg cls 0x3414 v = (s.writeSlotCtl cls v, false) from rfl]
    exact keeps_writeSlotCtl _ _ (hM := hM.up rfl) (Keeps.refl _ s))

theorem w0x2418 {K : List Part} (cls : KeyClass) (v : Word) (s : State) (hM : Within [.irq, .key, .ring, .trip, .job, .sch, .regs] K) : Keeps K s (s.write cls 0x2418 v) :=
  keeps_write_at (hr := rfl) (hM := hM.up rfl) (Keeps.refl _ s) (by
    rw [show s.applyReg cls 0x2418 v = (s.writeXfer v, false) from rfl]
    exact keeps_writeXfer _ (hM := hM.up rfl) (Keeps.refl _ s))

theorem w0x2430 {K : List Part} (cls : KeyClass) (v : Word) (s : State) (hM : Within [.irq, .key, .ring, .trip, .nv, .sch] K) : Keeps K s (s.write cls 0x2430 v) :=
  keeps_write_at (hr := rfl) (hM := hM.up rfl) (Keeps.refl _ s) (by
    rw [show s.applyReg cls 0x2430 v = s.writeGroup v from rfl]
    exact keeps_writeGroup _ (hM := hM.up rfl) (Keeps.refl _ s))

theorem w0x243C {K : List Part} (cls : KeyClass) (v : Word) (s : State) (hM : Within [.irq, .key, .ring, .trip, .sch] K) : Keeps K s (s.write cls 0x243C v) :=
  keeps_write_at (hr := rfl) (hM := hM.up rfl) (Keeps.refl _ s) (by
    rw [show s.applyReg cls 0x243C v = s.writeParam v from rfl]
    exact keeps_writeParam _ (hM := hM.up rfl) (Keeps.refl _ s))

theorem w0x3828 {K : List Part} (cls : KeyClass) (v : Word) (s : State) (hM : Within [.irq, .key, .ring, .trip, .clk, .ptp, .svc] K) : Keeps K s (s.write cls 0x3828 v) :=
  keeps_write_at (hr := rfl) (hM := hM.up rfl) (Keeps.refl _ s) (by
    rw [show s.applyReg cls 0x3828 v = (s.writeForce v, false) from rfl]
    exact keeps_writeForce _ (hM := hM.up rfl) (Keeps.refl _ s))

theorem w0x3800 {K : List Part} (cls : KeyClass) (v : Word) (s : State) (hM : Within [.irq, .key, .ring, .trip, .clk, .nv, .ptp, .regs] K) : Keeps K s (s.write cls 0x3800 v) :=
  keeps_write_at (hr := rfl) (hM := hM.up rfl) (Keeps.refl _ s) (by
    rw [show s.applyReg cls 0x3800 v = s.writePtpCtl v from rfl]
    exact keeps_writePtpCtl _ (hM := hM.up rfl) (Keeps.refl _ s))

theorem w0x1000 {K : List Part} (cls : KeyClass) (v : Word) (s : State) (hM : Within [.irq, .key, .ring, .trip, .causes, .job, .cap, .clk, .dm, .afe, .flt, .pe, .sch, .ptp, .chn, .hng, .mram] K) : Keeps K s (s.write cls 0x1000 v) :=
  keeps_write_at (hr := rfl) (hM := hM.up rfl) (Keeps.refl _ s) (by
    rw [show s.applyReg cls 0x1000 v = s.writeSubmit cls v from rfl]
    exact keeps_writeSubmit _ _ (hM := hM.up rfl) (Keeps.refl _ s))

theorem target_low (a lo : Nat) (h : lo ≤ a % 0x10000 ∧ a % 0x10000 < lo + 0x400) (hl : lo + 0x400 ≤ 0x8000) : targetOf a = none ∨ ((∃ r, targetOf a = some (.reg r)) ∧ a = a % 0x10000) := by
  unfold targetOf
  by_cases g : a < 0x8000
  · rw [if_pos g]
    split
    · exact .inl rfl
    · cases rowOf a with
      | none => exact .inl rfl
      | some r => exact .inr ⟨⟨r, rfl⟩, by omega⟩
  · left
    split
    · rfl
    · rw [if_neg (by omega), if_neg (by omega), if_neg (by omega), if_neg (by omega)]

theorem write_none {s : State} {cls : KeyClass} {a : Nat} {v : Word} (h : targetOf a = none) : s.write cls a v = s := by
  unfold State.write State.busWrite; rw [h]; split <;> rfl

theorem touchFst (cls : KeyClass) (addr : Nat) (v : Word) (s : State) : Keeps (touches (.fastCfgWrite cls addr v)) s (if isFast addr then s.write cls addr v else s) := by
  split
  · next h =>
    have h : 0x2800 ≤ addr % 0x10000 ∧ addr % 0x10000 < 0x2C00 := of_decide_eq_true h
    rcases target_low addr 0x2800 h (by omega) with e | ⟨⟨r, e⟩, l⟩
    · rw [write_none e]; exact Keeps.refl _ s
    · refine keeps_write_at (hr := e) (hM := rfl) (Keeps.refl _ s) ?_
      have q : s.applyReg cls addr v = s.applyFst cls addr v := by unfold State.applyReg; rw [show addr / 0x400 = 10 by omega]; rfl
      rw [q]; exact keeps_applyFst _ _ _ (hM := rfl) (Keeps.refl _ s)
  · exact Keeps.refl _ s

theorem touchFio (cls : KeyClass) (addr : Nat) (v : Word) (s : State) : Keeps (touches (.fioCfgWrite cls addr v)) s (if isField addr then s.write cls addr v else s) := by
  split
  · next h =>
    have h : 0x2C00 ≤ addr % 0x10000 ∧ addr % 0x10000 < 0x3000 := of_decide_eq_true h
    rcases target_low addr 0x2C00 h (by omega) with e | ⟨⟨r, e⟩, l⟩
    · rw [write_none e]; exact Keeps.refl _ s
    · refine keeps_write_at (hr := e) (hM := rfl) (Keeps.refl _ s) ?_
      have q : s.applyReg cls addr v = s.applyFio cls addr v := by unfold State.applyReg; rw [show addr / 0x400 = 11 by omega]; rfl
      rw [q]; exact keeps_applyFio _ _ _ (hM := rfl) (Keeps.refl _ s)
  · exact Keeps.refl _ s

theorem auto_st (u : State) (n : OpState) (c : Nat) : (u.autoState n c).sys.st = n := by
  unfold State.autoState
  have q1 := changeState_st u n c
  generalize u.changeState n c = v at q1 ⊢
  exact q1

theorem stO {K : List Part} {s t : State} (k : Keeps K s t) (h : Part.st ∉ K) : t.sys.st = s.sys.st := (k.same (p := .st) h).1

theorem stg (s : State) (a b : Nat) (l : List Byte) : (s.stage a b l).sys.st = s.sys.st := (stage_same s a b l (p := .st) (by decide)).1

theorem stgT (s : State) (a b : Nat) (l : List Byte) : (s.stageTick a b l).sys.st = s.sys.st := (stageTick_same s a b l (p := .st) (by decide)).1

theorem reset_st (s : State) (st : OpState) (b : Bool) (c r : Nat) : (s.resetTo st b c r).sys.st = st := rfl

theorem take_st (s : State) : s.takeover.sys.st = .inService := by
  unfold State.takeover
  extract_lets r a b
  have ha : a.sys.st = .inService := by
    simp only [a]
    have q := changeState_st s .inService 9
    generalize s.changeState .inService 9 = v at q ⊢
    exact q
  have hb : b.sys.st = a.sys.st := rfl
  clear_value b
  rw [stg, hb, ha]

theorem bf_st (s : State) : s.bootFails.sys.st = .failsafe := by
  unfold State.bootFails; rw [changeState_st]

theorem br_st (s : State) (n : Nat) : (s.bootRow n).sys.st = s.sys.st := by unfold State.bootRow; split <;> rfl

theorem fe_st (s : State) (k : Nat) : (s.failsafeEntry k).sys.st = s.sys.st ∨ (s.sys.st ∈ [.blocked, .inService, .standby, .test] ∧ (s.failsafeEntry k).sys.st = .failsafe) := by
  unfold State.failsafeEntry
  split
  · next h =>
    right
    refine ⟨?_, ?_⟩
    · have h := h.1; unfold running at h; revert h; cases s.sys.st <;> decide
    · dsimp only
      have q := auto_st s .failsafe k
      generalize s.autoState .failsafe k = v at q ⊢
      exact q
  · exact .inl rfl

theorem cc_st (s : State) : s.causeCleared.sys.st = s.sys.st ∨ (s.sys.st = .failsafe ∧ s.causeCleared.sys.st ∈ [.inService, .blocked]) := by
  unfold State.causeCleared
  split
  · next h =>
    cases e : s.returnState with
    | none => exact .inl rfl
    | some n =>
      dsimp only
      refine .inr ⟨h.1, ?_⟩
      rw [auto_st]
      unfold State.returnState at e
      split at e
      · split at e
        · cases e
        · cases e; decide
      · cases e; decide
      · cases e; decide
      · cases e
  · exact .inl rfl

theorem hc_st (s : State) : s.hingeCycle.sys.st = s.sys.st ∨ (s.sys.st ∈ [.blocked, .standby] ∧ s.hingeCycle.sys.st = .inService) := by
  unfold State.hingeCycle
  split
  · exact .inl rfl
  · extract_lets x d u
    have hu : u.sys.st = s.sys.st := by simp only [u]; split <;> rfl
    clear_value u
    split
    · next h =>
      right
      refine ⟨?_, take_st u⟩
      have h2 : u.standsBy = true := by
        simp only [Bool.and_eq_true] at h; exact h.1.2
      unfold State.standsBy at h2
      rw [hu] at h2
      revert h2; cases s.sys.st <;> simp
    · exact .inl hu

theorem release_st (s : State) : s.releaseAtUpdate.sys.st = s.sys.st ∨ (s.sys.st = .inService ∧ s.releaseAtUpdate.sys.st = .standby) := by
  unfold State.releaseAtUpdate
  split
  · next h =>
    split
    · exact .inl rfl
    · refine .inr ⟨h.2.2, ?_⟩
      dsimp only
      rw [stg, changeState_st]
  · split
    · extract_lets a
      have ha : a.sys.st = s.sys.st := rfl
      clear_value a
      split
      · exact .inl ((stO (keeps_actTripped (K := [.irq, .job, .ring, .trip, .sch]) rfl (Keeps.refl _ a)) (by decide)).trans ha)
      · exact .inl ((stO (keeps_relinquish (K := [.irq, .ring, .trip, .fio, .hng]) 3 rfl (Keeps.refl _ a)) (by decide)).trans ha)
    · exact .inl rfl

def Fe (s t : State) : Prop := t.sys.st = s.sys.st ∨ (s.sys.st ∈ [.blocked, .inService, .standby, .test] ∧ t.sys.st = .failsafe)

theorem Fe.of {s u t : State} (h : u.sys.st = s.sys.st) (g : Fe u t) : Fe s t := by unfold Fe at *; rw [h] at g; exact g

theorem lvl2_st (s : State) (k : Nat) : Fe s (s.enterLevel2 k) := by
  unfold State.enterLevel2
  extract_lets a b r c d
  have hb : d.sys.st = s.sys.st := by
    simp only [d]; rw [stg]
    show (a.abortMeasure).sys.st = _
    rw [stO (keeps_abortMeasure (K := [.clk]) rfl (Keeps.refl _ a)) (by decide)]
    rfl
  clear_value d
  have hf : (d.fastQual.found 4).sys.st = d.sys.st :=
    stO (keeps_found (K := [.causes, .irq, .ring, .trip, .fio, .hng, .clk, .fst, .chn]) (hM := rfl) 4 (keeps_fastQual (hM := rfl) (Keeps.refl _ d))) (by decide)
  exact Fe.of (hf.trans hb) (fe_st _ 4)

theorem fall_st (s : State) (k : Nat) : Fe s (s.fallBack k) := by
  unfold State.fallBack; split
  · exact .inl (stO (keeps_enterLevel1 (K := [.irq, .nme, .ring, .trip, .clk, .pe, .fst, .chn]) (hM := rfl) k (Keeps.refl _ s)) (by decide))
  · exact lvl2_st s k

theorem ref_st (s : State) (k : Nat) : Fe s (s.refFails k) := by
  unfold State.refFails
  extract_lets used a
  have ha : a.sys.st = s.sys.st := rfl
  clear_value a
  split
  · exact Fe.of ha (fall_st a k)
  · exact .inl ha

theorem irc_st (s : State) : Fe s s.ircFails := by
  unfold State.ircFails
  extract_lets only a
  have ha : a.sys.st = s.sys.st := by simp only [a]; rw [stg]; rfl
  clear_value a
  split
  · exact Fe.of ha (lvl2_st a 4)
  · exact .inl ha

theorem clk_st (s : State) (c : ClockFail) : Fe s (s.clockFailure c) := by
  unfold State.clockFailure
  split
  · exact .inl rfl
  · have lf : Fe s s.lfoFails := .inl (stO (keeps_lfoFails (K := [.irq, .ring, .trip, .clk]) rfl (Keeps.refl _ s)) (by decide))
    split <;> split <;> first | exact ref_st s _ | exact fall_st s _ | exact irc_st s | exact lf | exact .inl rfl

theorem lvl2rec_st (s : State) : s.level2Recovered.sys.st = s.sys.st ∨ (s.sys.st = .failsafe ∧ s.level2Recovered.sys.st ∈ [.inService, .blocked]) := by
  unfold State.level2Recovered
  split
  · have h := cc_st ((s.dropCause 4).clkRestored)
    have e : ((s.dropCause 4).clkRestored).sys.st = s.sys.st := stO (keeps_clkRestored (K := [.irq, .ring, .trip, .causes]) (hM := rfl) (keeps_dropCause (hM := rfl) 4 (Keeps.refl _ s))) (by decide)
    rw [e] at h; exact h
  · exact .inl rfl

def Hc (s t : State) : Prop := t.sys.st = s.sys.st ∨ (s.sys.st ∈ [.blocked, .standby] ∧ t.sys.st = .inService)

theorem newCycle_st (s : State) : Hc s s.newCycle := by
  unfold State.newCycle
  extract_lets a
  have ha : a.sys.st = s.sys.st := rfl
  clear_value a
  have hg : a.ageCodes.sys.st = a.sys.st := stO (keeps_ageCodes (K := [.fst]) rfl (Keeps.refl _ a)) (by decide)
  have h := hc_st a.ageCodes
  have e : ((a.ageCodes.hingeCycle.repeatGroups [0, 1]).sendSlot).sys.st = a.ageCodes.hingeCycle.sys.st := stO (keeps_sendSlot (K := [.irq, .ring, .trip, .fst, .chn, .hng]) (hM := rfl) (keeps_repeatGroups (hM := rfl) [0, 1] (Keeps.refl _ a.ageCodes.hingeCycle))) (by decide)
  unfold Hc; rw [e, ← ha, ← hg]; exact h

theorem moveTime_st (s : State) (f : State → State) (h : (f s).sys.st = s.sys.st) : (s.moveTime f).sys.st = s.sys.st :=
  (stO (keeps_moveTime (K := [.clk, .ptp]) (f := f) rfl (Keeps.refl _ (f s))) (by decide)).trans h

theorem cyc_st (s : State) : Hc s s.chainCycle := by
  unfold State.chainCycle
  split
  · exact .inl rfl
  · extract_lets start a k b
    have ha : a.sys.st = s.sys.st := moveTime_st s _ rfl
    have hb : b.sys.st = a.sys.st := rfl
    clear_value b
    have h := newCycle_st b
    have e : ((b.newCycle).sendMgmt).sys.st = b.newCycle.sys.st := stO (keeps_sendMgmt (K := [.chn, .free]) rfl (Keeps.refl _ b.newCycle)) (by decide)
    unfold Hc at *; rw [e, ← ha, ← hb]; exact h

theorem markNew_st (s : State) (p a c : Nat) : Hc s (s.markNew p a c) := by
  unfold State.markNew
  extract_lets u
  have hu : u.sys.st = s.sys.st := moveTime_st s _ rfl
  clear_value u
  have h := newCycle_st u
  unfold Hc at *; rw [← hu]; exact h

theorem mark_st (s : State) (p : Nat) (r : Rat) (a c ph : Nat) : Hc s (s.cycleMark p r a c ph) := by
  unfold State.cycleMark
  split
  · exact .inl rfl
  · extract_lets same first u
    split
    · exact .inl rfl
    · have hu : u.sys.st = s.sys.st := rfl
      clear_value u
      split
      · have h := markNew_st u p a c
        have e := stO (keeps_markTime (K := [.irq, .ring, .trip, .clk, .ptp, .svc]) ((u.markNew p a c).markOffset r a c ph) rfl (Keeps.refl _ (u.markNew p a c))) (by decide)
        unfold Hc at *; rw [e, ← hu]; exact h
      · exact .inl hu

theorem upd_st (s : State) : s.outputUpdate.sys.st = s.sys.st ∨ (s.sys.st = .inService ∧ s.outputUpdate.sys.st = .standby) := by
  unfold State.outputUpdate
  split
  · have h := release_st s
    have e : (((s.releaseAtUpdate).engineUpdate).afterUpdate).sys.st = s.releaseAtUpdate.sys.st := stO (keeps_afterUpdate (K := [.health, .irq, .ring, .trip, .nv, .pe, .fio, .hng]) (hM := rfl) (keeps_engineUpdate (hM := rfl) (Keeps.refl _ s.releaseAtUpdate))) (by decide)
    rw [e]; exact h
  · exact .inl rfl

theorem act_st (s : State) : s.actReference.sys.st = s.sys.st ∨ (s.sys.st ∈ [.inService, .standby] ∧ s.actReference.sys.st = .blocked) := by
  unfold State.actReference
  split
  · exact .inl rfl
  · next h =>
    split
    · exact .inl (stO (keeps_actTripped (K := [.irq, .job, .ring, .trip, .sch]) rfl (Keeps.refl _ s)) (by decide))
    extract_lets a r b c
    have hb : c.sys.st = a.sys.st := rfl
    have e : c.applyScheme.sys.st = c.sys.st := stO (keeps_applyScheme (K := [.causes, .irq, .key, .ring, .cap, .trip, .nv, .afe, .pe, .trk, .sch, .fst, .fio, .svc, .chn, .hng, .regs, .defer]) rfl (Keeps.refl _ c)) (by decide)
    rw [e, hb]
    by_cases g : s.sys.st = .blocked
    · left; simp only [a]; rw [if_pos g]
    · right
      have ha : a.sys.st = .blocked := by simp only [a]; rw [if_neg g]; exact auto_st _ _ _
      refine ⟨?_, ha⟩
      have h : s.actMayStart = true := by simpa using h
      unfold State.actMayStart at h
      rw [Bool.and_eq_true] at h
      have h := h.2
      revert h g
      cases s.sys.st <;> simp

theorem fin_st (s : State) : s.finishAct.sys.st = s.sys.st := stO (keeps_finishAct (K := [.irq, .job, .ring, .trip, .sch]) rfl (Keeps.refl _ s)) (by decide)

theorem activated_st (s : State) : s.activated.sys.st = s.sys.st ∨ (s.sys.st = .blocked ∧ s.activated.sys.st = .inService) := by
  unfold State.activated
  split
  · exact .inl rfl
  · split
    · unfold State.standbyActivated
      extract_lets a
      have ha : a.sys.st = s.sys.st := fin_st s
      clear_value a
      split
      · left
        show (a.pushFrame 3 []).sys.st = _
        rw [stO (keeps_pushFrame (K := [.hng]) 3 [] rfl (Keeps.refl _ a)) (by decide), ha]
      · split
        · next h => exact .inr ⟨ha ▸ h.2.1, take_st _⟩
        · exact .inl ha
    · split
      · exact .inl rfl
      · extract_lets a
        have ha : a.sys.st = s.sys.st := fin_st s
        clear_value a
        split
        · next h => exact .inr ⟨ha ▸ h.1, auto_st _ _ _⟩
        · exact .inl ha

theorem standby_st (s : State) : s.enterStandby.sys.st = s.sys.st ∨ (s.sys.st ∈ [.blocked, .failsafe] ∧ s.enterStandby.sys.st = .standby) := by
  unfold State.enterStandby
  split
  · next h =>
    right
    have hs : s.hingeStandby.sys.st = .standby := by
      unfold State.hingeStandby; rw [if_pos h, stgT]; exact auto_st _ _ _
    refine ⟨?_, ?_⟩
    · unfold State.standbyDue at h
      simp only [Bool.and_eq_true] at h
      have h := h.1.1.1.1
      unfold State.rejoining at h
      simp only [Bool.and_eq_true] at h
      have h := h.2
      revert h; cases s.sys.st <;> simp
    · dsimp only
      split
      · rw [fin_st, hs]
      · exact hs
  · exact .inl rfl

theorem req_st (s : State) : s.requestTaken.sys.st = s.sys.st ∨ (s.sys.st ∈ [.inService, .standby, .test, .failsafe] ∧ s.requestTaken.sys.st = .blocked) ∨ (s.sys.st = .blocked ∧ s.requestTaken.sys.st ∈ [.inService, .test]) := by
  unfold State.requestTaken
  split
  · exact .inl rfl
  · next code _ =>
    split
    · exact .inl rfl
    · extract_lets x a y r b
      have ha : a.sys.st = s.sys.st := rfl
      split
      · exact .inl rfl
      · have hb : b.sys.st = s.sys.st := rfl
        have hr : r = a.judgeReq code := rfl
        clear_value b
        split
        · next h2 =>
          rw [hr] at h2
          unfold State.carryOut
          rw [hb]
          split
          · exact .inl hb
          · next n1 =>
            split
            · left
              unfold State.startShutdown
              extract_lets u
              rw [stg]; exact hb
            · next n7 =>
              unfold State.judgeReq at h2
              rw [ha, if_neg n1] at h2
              have fin : ∀ st : OpState, ¬ stCode st = code → ¬ code = 7 → (match code, st with
                | 2, .inService => if a.tripAsserted then 4 else 2
                | 2, .standby => 2
                | 2, .test => 2
                | 2, .failsafe => if a.sys.causes = [] then 2 else 6
                | 3, .blocked => if !a.enabled then 5 else if a.hinged then 3 else 2
                | 5, .blocked => 2
                | 7, .blocked => if a.tripAsserted then 4 else 2
                | 7, .failsafe => if a.tripAsserted then 4 else 2
                | _, _ => 3) = 2 → (st ∈ [.inService, .standby, .test, .failsafe] ∧ reqState code = .blocked) ∨ (st = .blocked ∧ reqState code ∈ [.inService, .test]) := by
                intro st m1 m7 hm
                split at hm <;> first | exact .inl ⟨by decide, rfl⟩ | exact .inr ⟨rfl, by decide⟩ | exact absurd rfl m7 | (exfalso; revert hm; decide)
              have q := fin s.sys.st n1 n7 h2
              right
              split
              · rw [changeState_st]; exact q
              · rw [changeState_st]; exact q
        · exact .inl hb

theorem fcc_st (s : State) (a : Nat) : (if a ∈ s.sys.causes then s else s.causeCleared).sys.st = s.sys.st ∨ (s.sys.st = .failsafe ∧ (if a ∈ s.sys.causes then s else s.causeCleared).sys.st ∈ [.inService, .blocked]) := by
  split
  · exact .inl rfl
  · exact cc_st s

theorem peer_st (s : State) (b : Bool) : (s.peerChange b).sys.st = s.sys.st ∨ (s.sys.st ∈ [.blocked, .standby] ∧ (s.peerChange b).sys.st = .inService) := by
  unfold State.peerChange
  extract_lets u
  have hu : u.sys.st = s.sys.st := rfl
  clear_value u
  split
  · next h =>
    right
    refine ⟨?_, take_st u⟩
    have h2 : u.standsBy = true := by simp only [Bool.and_eq_true] at h; exact h.1.2
    unfold State.standsBy at h2
    rw [hu] at h2
    revert h2; cases s.sys.st <;> simp
  · exact .inl hu

theorem claim_st (s : State) : s.hingeClaim.sys.st = s.sys.st ∨ (s.sys.st = .blocked ∧ s.hingeClaim.sys.st = .inService) := by
  unfold State.hingeClaim
  split
  · next h =>
    right
    unfold State.claimDue at h
    simp only [Bool.and_eq_true, decide_eq_true_eq] at h
    refine ⟨h.1.1.1.1.1.1.2, ?_⟩
    have q := auto_st s .inService 2
    generalize s.autoState .inService 2 = v at q ⊢
    exact q
  · exact .inl rfl

theorem recheck_st (s : State) (b : Bool) : (s.claimRecheck b).sys.st = s.sys.st ∨ (s.sys.st = .inService ∧ (s.claimRecheck b).sys.st = .blocked) := by
  unfold State.claimRecheck
  split
  · exact .inl rfl
  · next h =>
    have hs : s.sys.st = .inService := by
      simp only [Bool.or_eq_true, Bool.not_eq_true', decide_eq_true_eq, not_or, not_not] at h; exact h.2
    extract_lets u v
    have hu : u.sys.st = s.sys.st := rfl
    have hv : v.sys.st = s.sys.st := rfl
    clear_value v u
    split
    · by_cases g : v.preferred = true
      · rw [if_pos g, stg]; exact .inl hv
      · rw [if_neg g, stg]; exact .inr ⟨hs, changeState_st _ _ _⟩
    · exact .inl hu

theorem fs_st (s : State) : s.filterSettled.sys.st = s.sys.st ∨ (s.sys.st = .boot ∧ s.filterSettled.sys.st = .blocked) := by
  unfold State.filterSettled
  split
  · next h => extract_lets ms u; exact .inr ⟨h.1, (stg _ _ _ _).trans (auto_st _ _ _)⟩
  · exact .inl rfl

theorem wv_st (s : State) : s.windowsValid.sys.st = s.sys.st ∨ (s.sys.st = .blocked ∧ s.windowsValid.sys.st = .inService) := by
  unfold State.windowsValid
  split
  · next h =>
    unfold State.serviceDue at h
    simp only [Bool.and_eq_true, decide_eq_true_eq] at h
    exact .inr ⟨h.1.1.1.1.1.1.1, auto_st _ _ _⟩
  · exact .inl rfl

theorem bk_st (s : State) (c r : Nat) (p : Power → Power) : ((s.resetFor c r).modPwr p).sys.st = .boot := rfl

theorem back_st (s : State) : s.powerBack.sys.st = s.sys.st ∨ s.powerBack.sys.st = .boot := by
  unfold State.powerBack
  extract_lets a w b
  have hb : b.sys.st = s.sys.st := by
    simp only [b]
    rw [stO (keeps_reopenRing (K := [.irq, .ring, .trip]) rfl (Keeps.refl _ _)) (by decide)]
    show a.sys.st = _
    exact stO (keeps_completeCommit (K := [.irq, .ring, .ledger, .trip, .pwr, .dm, .mram]) rfl (Keeps.refl _ s)) (by decide)
  clear_value b
  split
  · exact .inr rfl
  · exact .inl hb

theorem fin_in (s : State) (f mv : Nat) : (s.feedIn f mv).sys.st = s.sys.st ∨ (s.sys.st ∉ [.off, .dormant] ∧ (s.feedIn f mv).sys.st = .boot) := by
  unfold State.feedIn
  split
  · exact .inl rfl
  · extract_lets was dark u v w
    have hu : u.sys.st = s.sys.st := rfl
    have hv : v.sys.st = s.sys.st := (stO (keeps_dropCause (K := [.causes]) 6 rfl (Keeps.refl _ u)) (by decide)).trans hu
    have hw : w.sys.st = s.sys.st ∨ w.sys.st = .boot := by
      simp only [w]; split
      · exact .inl hv
      · rcases back_st v with h | h
        · exact .inl (h.trans hv)
        · exact .inr h
    clear_value w
    split
    · exact .inl hu
    · next hd =>
      have nd : s.sys.st ∉ [.off, .dormant] := by
        simp only [dark, State.dark, Bool.or_eq_true, decide_eq_true_eq, not_or] at hd
        have h1 := hd.1.1; have h2 := hd.1.2
        revert h1 h2; cases s.sys.st <;> simp
      have fin : ∀ x : State, x.sys.st = w.sys.st → x.sys.st = s.sys.st ∨ (s.sys.st ∉ [.off, .dormant] ∧ x.sys.st = .boot) := by
        intro x hx; rcases hw with h | h
        · exact .inl (hx.trans h)
        · exact .inr ⟨nd, hx.trans h⟩
      split
      · exact fin _ (stg _ _ _ _)
      · exact fin _ rfl

theorem hre_st (s : State) : s.hostResetEffect.sys.st = s.sys.st ∨ (s.sys.st ∉ [.off, .dormant] ∧ s.hostResetEffect.sys.st = .boot) := by
  unfold State.hostResetEffect
  split
  · next h =>
    refine .inr ⟨?_, rfl⟩
    have h := h.2.1
    simp only [State.alive, State.dark, Bool.and_eq_true, Bool.not_eq_true', Bool.or_eq_false_iff, decide_eq_false_iff_not] at h
    have h1 := h.1.1.1; have h2 := h.1.1.2
    revert h1 h2; cases s.sys.st <;> simp
  · exact .inl rfl

theorem dor_st (s : State) : s.dormantEntry.sys.st = s.sys.st ∨ (s.sys.st ∈ [.blocked, .failsafe] ∧ s.dormantEntry.sys.st ∈ [.dormant, .boot]) := by
  unfold State.dormantEntry
  split
  · next h =>
    refine .inr ⟨by rcases h.2.2 with h | h <;> rw [h] <;> decide, ?_⟩
    extract_lets a b w ot x
    have hx : x.sys.st = .dormant := rfl
    clear_value x
    split
    · rw [show x.wakeUp.sys.st = .boot from rfl]; decide
    · rw [hx]; decide
  · exact .inl rfl

theorem rise_st (s : State) (f mv : Nat) : (s.feedRise f mv).sys.st = s.sys.st ∨ (s.sys.st = .off ∧ (s.feedRise f mv).sys.st = .boot) := by
  unfold State.feedRise
  split
  · next h => exact .inr ⟨h.1, rfl⟩
  · exact .inl rfl

theorem cd_st (s : State) : s.commitDone.sys.st = s.sys.st ∨ s.commitDone.sys.st = .boot := by
  unfold State.commitDone
  split
  · extract_lets w a
    have ha : a.sys.st = s.sys.st := (stO (keeps_writeBlock (K := [.pwr]) true rfl (Keeps.refl _ s)) (by decide) : (s.writeBlock true).sys.st = s.sys.st)
    clear_value a
    split
    · exact .inr rfl
    · exact .inl ha
  · exact .inl rfl

theorem spent_st (s : State) (mv : Nat) : (s.holdSpent mv).sys.st = s.sys.st ∨ (s.sys.st ≠ .off ∧ (s.holdSpent mv).sys.st = .off) := by
  unfold State.holdSpent
  split
  · next h => exact .inr ⟨h.1, rfl⟩
  · exact .inl rfl

theorem rail_st (s : State) (r : Nat) : (s.railFault r).sys.st = s.sys.st ∨ (s.sys.st ≠ .off ∧ (s.railFault r).sys.st = .boot) := by
  unfold State.railFault
  split
  · exact .inl rfl
  · next h =>
    have h := (not_or.mp h).1
    split
    · exact .inr ⟨h, rfl⟩
    · split
      · exact .inl rfl
      · exact .inr ⟨h, rfl⟩

theorem low_st (s : State) : s.resetLow.sys.st = s.sys.st ∨ (s.sys.st ≠ .off ∧ s.resetLow.sys.st = .boot) := by
  unfold State.resetLow
  split
  · exact .inl rfl
  · next h =>
    split
    · exact .inl rfl
    · exact .inr ⟨(not_or.mp h).1, rfl⟩

theorem wake_st (s : State) (b : Nat) : (s.wakeEvent b).sys.st = s.sys.st ∨ (s.sys.st = .dormant ∧ (s.wakeEvent b).sys.st = .boot) := by
  unfold State.wakeEvent
  split
  · exact .inl rfl
  · split
    · next h => exact .inr ⟨h, rfl⟩
    · split
      · exact .inl rfl
      · exact .inl rfl

theorem timer_st (s : State) (ot : Nat) : (s.wakeTimer ot).sys.st = s.sys.st ∨ (s.sys.st = .dormant ∧ (s.wakeTimer ot).sys.st = .boot) := by
  unfold State.wakeTimer
  split
  · exact wake_st (s.modPwr (fun p => { p with ot := ot })) 2
  · exact .inl rfl

theorem fwake_st (s : State) (f : Nat) : (s.feedWake f).sys.st = s.sys.st ∨ (s.sys.st = .dormant ∧ (s.feedWake f).sys.st = .boot) := by
  unfold State.feedWake
  split
  · exact .inl rfl
  · split
    · split
      · exact wake_st (s.modPwr (fun p => { p with feedOk := p.feedOk.set f true, feedHigh := p.feedHigh.set f false, feedSup := p.feedSup.set f true })) 1
      · exact .inl rfl
    · exact wake_st s 1

theorem map_st (s : State) (ok : Bool) : (s.mapRead ok).sys.st = s.sys.st ∨ (s.sys.st = .boot ∧ (s.mapRead ok).sys.st = .failsafe) := by
  unfold State.mapRead
  split
  · exact .inl rfl
  · next h =>
    have hb : s.sys.st = .boot := by
      simp only [Bool.or_eq_true, Bool.not_eq_true', decide_eq_true_eq, not_or, not_not] at h; exact h.1.1.2
    extract_lets u s1 v
    have hu : u.sys.st = s.sys.st := br_st s 8
    split
    · exact .inr ⟨hb, bf_st u⟩
    · have hv : v.sys.st = s.sys.st := by
        simp only [v]; split
        · exact hu
        · rw [stg]; exact hu
      clear_value v
      left
      rw [br_st, stO (keeps_applyMap (K := [.irq, .ring, .trip, .afe, .pe]) rfl (Keeps.refl _ _)) (by decide)]
      exact hv

theorem foldP_st (l : List Nat) (s : State) : (l.foldl (fun s p => if s.pairGood p then s.mapOutPair p 0 else s) s).sys.st = s.sys.st := by
  induction l generalizing s with
  | nil => rfl
  | cons a r ih =>
    rw [List.foldl_cons, ih]; split
    · exact stO (keeps_mapOutPair (K := [.irq, .ring, .trip, .dm, .pe]) a 0 rfl (Keeps.refl _ s)) (by decide)
    · rfl

theorem foldC_st (l : List Nat) (s : State) : (l.foldl (fun s c => if s.coreGood c then s.mapOutCore c else s) s).sys.st = s.sys.st := by
  induction l generalizing s with
  | nil => rfl
  | cons a r ih =>
    rw [List.foldl_cons, ih]; split
    · exact stO (keeps_mapOutCore (K := [.irq, .ring, .trip, .dm, .afe]) a rfl (Keeps.refl _ s)) (by decide)
    · rfl

theorem tested_st (s : State) (x : SelfTestIn) : (s.selfTested x).sys.st = s.sys.st ∨ (s.sys.st = .boot ∧ (s.selfTested x).sys.st = .failsafe) := by
  unfold State.selfTested
  split
  · exact .inl rfl
  · next h =>
    have hb : s.sys.st = .boot := by
      simp only [Bool.or_eq_true, Bool.not_eq_true', decide_eq_true_eq, not_or, not_not] at h; exact h.1.1.2
    extract_lets a b c d
    have hd : d.sys.st = s.sys.st := by
      show c.sys.st = _
      simp only [c]
      rw [br_st, stO (keeps_applyMap (K := [.irq, .ring, .trip, .afe, .pe, .dm, .mram]) (hM := rfl) (keeps_writeBothMaps (hM := rfl) (Keeps.refl _ b))) (by decide)]
      simp only [b, a]
      rw [foldC_st, foldP_st]
    clear_value d
    split
    · exact .inr ⟨hb, bf_st d⟩
    · exact .inl hd

theorem nme_st (s : State) (b : Nat) : (s.setNme b).sys.st = s.sys.st := rfl

theorem stK {c : Instr} {s t : State} (k : Keeps (touches c) s t) (h : (touches c).contains .st = false) : t.sys.st = s.sys.st := stO k (by intro g; rw [List.contains_eq_mem, decide_eq_false_iff_not] at h; exact h g)

theorem be_st (s : State) : s.bootEntered.sys.st = s.sys.st := by
  unfold State.bootEntered; split
  · rw [stg]; rfl
  · rfl

theorem rails_st (s : State) (b : BootIn) : (s.railsUp b).sys.st = s.sys.st := by
  unfold State.railsUp
  split
  · rfl
  · extract_lets u
    have hu : u.sys.st = s.sys.st := by
      simp only [u]; rw [be_st]
      exact stO (keeps_timeBack (K := [.irq, .ring, .trip, .pwr, .host, .key]) (hM := rfl) (keeps_incPcc (hM := rfl) (keeps_portsOn (hM := rfl) b (keeps_railsOn (hM := rfl) b (Keeps.refl _ s))))) (by decide)
    clear_value u
    rw [br_st, ← hu]
    exact stO (keeps_auxCalBegin (K := [.irq, .ring, .ledger, .cap, .trip, .nv, .afe, .sch, .regs, .aux]) (hM := rfl) (keeps_bootRecords (hM := rfl) b (keeps_regsBack (hM := rfl) b (Keeps.refl _ u)))) (by decide)

theorem pf_st (s : State) (mv : Nat) : (s.powerFail mv).sys.st = s.sys.st := by
  unfold State.powerFail
  split
  · rfl
  · split
    · rfl
    · extract_lets a src b
      have hb : (b.setNme 2).sys.st = s.sys.st := rfl
      rw [← hb]
      exact stO (keeps_voidCal (K := [.causes, .irq, .job, .ring, .cap, .trip, .dm, .nv, .afe, .flt, .pe, .sch, .mram]) (hM := rfl) (keeps_writeLatches (hM := rfl) (keeps_closeRing (hM := rfl) (keeps_dropCaptures (hM := rfl) (keeps_abandonJobs (hM := rfl) (keeps_testsLost (hM := rfl) (Keeps.refl _ (b.setNme 2)))))))) (by decide)

theorem xbar_st (s : State) : s.crossbarFailure.sys.st = s.sys.st ∨ (s.sys.st = .boot ∧ s.crossbarFailure.sys.st = .failsafe) := by
  unfold State.crossbarFailure
  split
  · exact .inl (stO (keeps_found (K := [.causes, .irq, .ring, .trip, .fio, .hng]) 8 rfl (Keeps.refl _ s)) (by decide))
  · split
    · next h => exact .inr ⟨h.1, bf_st _⟩
    · exact .inl rfl

end Sys2Proof.Facts.StateMoves
end

