-- ==== Sys2Proof/Laws/StreamRules.lean ====
section
/-! SUPPORT. Links, management frames, subscribed and published streams. Lemmas about the operations of these rows, for the proofs of the statements about them. -/

namespace Sys2Proof.Facts.StreamRules

open Sys2Proof Sys2Proof.Machine

theorem hold2 (s : State) (c : Nat) (h : s.ptp.state = 1 ∨ s.ptp.state = 2) : (s.holdover c).ptp.state = 3 ∧ c ∈ (s.holdover c).ptp.causes := by
  unfold State.holdover
  extract_lets add sy adj
  rw [if_pos h, stage_ptp]
  have : c ∈ (add s.ptp).causes := by simp only [add]; split <;> simp_all
  unfold State.leaveLock
  split <;> exact ⟨rfl, this⟩

theorem hold_svc (s : State) (c : Nat) : (s.holdover c).svc = s.svc :=
  Keeps.same (keeps_holdover (K := [.irq, .ring, .trip, .clk, .ptp]) c rfl (Keeps.refl _ s)) (p := .svc) (by decide)

theorem serve_len (s : State) (l : List (List Byte)) : (s.serveAll l).2.length = l.length := by
  induction l generalizing s with
  | nil => rfl
  | cons a r ih => simp only [State.serveAll, List.length_cons, ih]

theorem ctx_mod (s : State) (i : Nat) (f) (h : i < s.svc.ctx.length) : (s.modCtx i f).ctx i = f (s.ctx i) := nth_modNth_self h

theorem ctx_ne (s : State) (i k : Nat) (f) (h : k ≠ i) : (s.modCtx i f).ctx k = s.ctx k := nth_modNth_ne (Ne.symm h)

theorem ctx_len (s : State) (i : Nat) (f) : (s.modCtx i f).svc.ctx.length = s.svc.ctx.length := by simp [State.modCtx, State.modSvc]

theorem ctx_stage (s : State) (a b c) (k : Nat) : (s.stage a b c).ctx k = s.ctx k := by simp [State.ctx]

theorem prp_dup (s : State) (m src q l : Nat) (p : Nat × Nat × Nat × Nat) (h1 : p ∈ s.svc.seen) (h2 : p.1 = src) (h3 : p.2.1 = q) (h4 : s.pwr.ot ≤ p.2.2.2 + 400000) :
    (s.prp m src (some (q, l))).2 = true ∧ (s.prp m src (some (q, l))).1.svc.ctx = s.svc.ctx ∧ (s.prp m src (some (q, l))).1.svc.dups = satInc 65535 s.svc.dups := by
  unfold State.prp
  dsimp only
  have : (List.any (s.svc.seen.filter (fun p => decide (s.pwr.ot ≤ p.2.2.2 + 400000))) (fun p => decide (p.1 = src ∧ p.2.1 = q))) = true := by
    rw [List.any_eq_true]
    exact ⟨p, List.mem_filter.mpr ⟨h1, by simpa using h4⟩, by simp [h2, h3]⟩
  rw [this]
  exact ⟨rfl, rfl, rfl⟩

theorem prp_fresh (s : State) (m src : Nat) (t : Option (Nat × Nat)) (h : Fresh s src t) :
    ∃ f, s.prp m src t = (s.modSvc f, false) ∧ (∀ x, (f x).ctx = x.ctx) ∧ (f s.svc).mac.length = s.svc.mac.length ∧ ∀ k, (nth (f s.svc).mac k).dropped = (nth s.svc.mac k).dropped := by
  unfold State.prp
  cases t with
  | none => exact ⟨id, rfl, fun _ => rfl, rfl, fun _ => rfl⟩
  | some p =>
    obtain ⟨q, l⟩ := p
    dsimp only
    have : (List.any (s.svc.seen.filter (fun p => decide (s.pwr.ot ≤ p.2.2.2 + 400000))) (fun p => decide (p.1 = src ∧ p.2.1 = q))) = false := by
      rw [List.any_eq_false]
      intro x hx
      rw [List.mem_filter] at hx
      simp only [decide_eq_true_eq, not_and]
      intro h1 h2
      have := h q l rfl x hx.1 h1 h2
      simp at hx; omega
    rw [this]
    refine ⟨_, rfl, fun _ => rfl, by simp, fun k => ?_⟩
    dsimp only
    by_cases hk : k = m
    · subst hk
      by_cases hl : k < s.svc.mac.length
      · rw [nth_modNth_self hl]
      · simp [nth, modNth, hl]
    · rw [nth_modNth_ne (Ne.symm hk)]

theorem flat_len {α β : Type} (n : Nat) (l : List α) (f : Nat → α → β) : ((List.range n).flatMap (fun k => l.map (f k))).length = n * l.length := by
  rw [List.length_flatMap]; simp

end Sys2Proof.Facts.StreamRules
end

