-- ==== Sys2Proof/Laws/Ticks.lean ====
section
/-! SUPPORT. Protection ticks, output updates, attempts and spares. Lemmas about the operations of these rows, for the proofs of the statements about them. -/

namespace Sys2Proof.Facts.Ticks

open Sys2Proof Sys2Proof.Machine

theorem mismatch_upd (s : State) (a b : Nat) : (s.mismatch a b).pe.updDue = s.pe.updDue := by
  have pc : ∀ x : State, x.poolCheck.pe.updDue = x.pe.updDue := by
    intro x; unfold State.poolCheck; dsimp only; split <;> simp [State.modPe]
  have iso : ∀ (x : State) a b c, (x.isolate a b c).pe.updDue = x.pe.updDue := by
    intro x a b c; simp [State.isolate, State.modPe, State.setPair, State.stageTick]
    exact congrArg Engines.updDue (Keeps.same (keeps_stageWith (K := [.irq, .ring, .trip]) true _ _ _ rfl (Keeps.refl _ x)) (p := .pe) (by decide))
  have ro : ∀ (x : State), x.raiseOp.pe = x.pe := fun x => Keeps.same (keeps_raiseOp (K := [.clk]) rfl (Keeps.refl _ x)) (p := .pe) (by decide)
  have fo : ∀ (x : State) c, (x.found c).pe = x.pe := fun x c => Keeps.same (keeps_found (K := [.causes, .irq, .ring, .trip, .fio, .hng]) c rfl (Keeps.refl _ x)) (p := .pe) (by decide)
  have str : ∀ (x : State) a, (x.strand a).pe.updDue = x.pe.updDue := by
    intro x a; simp [State.strand, fo, State.modPlace, State.modAtt, State.modPe]
  unfold State.mismatch
  split
  · rfl
  · split
    · dsimp only
      split
      · simp [str, ro, iso]
      · simp [pc, State.modPlace, State.modAtt, State.modPe, State.takeSpare, State.setPair, ro, iso]
    · split
      · dsimp only
        split
        · simp [str, ro, iso]
        · simp [pc, State.modPlace, State.modAtt, State.modPe, State.takeSpare, State.setPair, ro, iso]
      · rfl

theorem mm_upd (l : List (Nat × Nat)) (s : State) : (l.foldl (fun s m => s.mismatch m.1 m.2) s).pe.updDue = s.pe.updDue := by
  induction l generalizing s with
  | nil => rfl
  | cons a r ih => simp [ih, mismatch_upd]

theorem markHeld_ne (s : State) (pl : Nat) (h : Bool) : ∃ b a, (s.markHeld pl h) = { s with pe := { s.pe with bnets := b, anets := a } } ∧ ∀ n, (nth b n).v = (nth s.pe.bnets n).v := by
  unfold State.markHeld
  generalize s.netsOf pl = l
  refine List.foldlRecOn (motive := fun t => ∃ (b : List BNet) (a : List ANet), t = { s with pe := { s.pe with bnets := b, anets := a } } ∧ ∀ n, (nth b n).v = (nth s.pe.bnets n).v) l _ ⟨s.pe.bnets, s.pe.anets, rfl, fun _ => rfl⟩ ?_
  rintro t ⟨b, a, rfl, k⟩ r _
  dsimp only
  split
  · refine ⟨_, a, rfl, fun n => ?_⟩
    rw [← k n]
    simp only [State.modPe, nth, modNth]
    simp [List.getD_eq_getElem?_getD, List.getElem?_modify]
    cases b[n]? <;> simp
    split <;> rfl
  · exact ⟨b, _, rfl, k⟩

def PeOk (s t : State) : Prop := t.pe.els = s.pe.els ∧ t.pe.att = s.pe.att ∧ t.pe.probeSeq = s.pe.probeSeq ∧ ∀ n, (nth t.pe.bnets n).v = (nth s.pe.bnets n).v

theorem holdPlace_ok (s : State) (pl : Nat) : PeOk s (s.holdPlace pl) := by
  obtain ⟨b, a, e, k⟩ := markHeld_ne s pl true
  unfold State.holdPlace
  simp only [e]
  split
  · simp only [PeOk, stageTick_pe]; exact ⟨rfl, rfl, rfl, k⟩
  · exact ⟨rfl, rfl, rfl, k⟩

theorem holds_ok (l : List Nat) (s : State) : PeOk s (l.foldl State.holdPlace s) := by
  induction l generalizing s with
  | nil => exact ⟨rfl, rfl, rfl, fun _ => rfl⟩
  | cons a r ih =>
    obtain ⟨h1, h2, h3, h4⟩ := ih (s.holdPlace a)
    obtain ⟨k1, k2, k3, k4⟩ := holdPlace_ok s a
    exact ⟨h1.trans k1, h2.trans k2, h3.trans k3, fun n => (h4 n).trans (k4 n)⟩

theorem holdLate_ok (s : State) : s.holdLate.pe.els = s.pe.els ∧ s.holdLate.pe.probeSeq = s.pe.probeSeq ∧ (∀ a ∈ s.holdLate.pe.att, a.st = .committed ∨ a.st = .held) ∧ ∀ n, (nth s.holdLate.pe.bnets n).v = (nth s.pe.bnets n).v := by
  unfold State.holdLate
  extract_lets late u
  obtain ⟨h1, h2, h3, h4⟩ := holds_ok late u
  refine ⟨h1, h3, ?_, h4⟩
  rw [h2]
  simp only [u, State.modPe, List.mem_map]
  rintro a ⟨b, _, rfl⟩
  split
  · left; assumption
  · right; rfl

theorem follow_cmd (s : State) (n : Nat) : (s.followOutputs.outp n).cmd = (s.outp n).cmd := by
  unfold State.followOutputs
  generalize List.range 12 = l
  induction l generalizing s with
  | nil => rfl
  | cons a r ih =>
    rw [List.foldl_cons, ih]
    split <;> (simp only [State.outp, State.modDo, State.modFio, nth, modNth]; simp [List.getD_eq_getElem?_getD, List.getElem?_modify]; cases s.fio.dos[n]? <;> simp; split <;> rfl)

theorem updateOutputs_cmd (s : State) (n : Nat) (hn : n < 12) : (s.updateOutputs.outp n).cmd = s.binRef (bitsOf (s.doCfg n) 15 0) := by
  unfold State.updateOutputs
  dsimp only
  rw [follow_cmd]
  have : ∀ t : State, (State.outp (if s.fio.ready then t.stage 0x00D3 0 [] else t) n) = t.outp n := by
    intro t; split <;> simp [State.outp]
  rw [this]
  simp [State.outp, State.modFio, nth, hn, State.latchOutput]
  split
  · rfl
  · split
    · split
      · split <;> rfl
      · rfl
    · rfl

theorem latch_same (s t : State) (n : Nat) (h : ∀ n, (nth t.pe.bnets n).v = (nth s.pe.bnets n).v) (hf : t.fst = s.fst) (hi : t.fio = s.fio) (hr : t.regs = s.regs) (ht : t.trk = s.trk) : t.binRef (bitsOf (t.doCfg n) 15 0) = s.binRef (bitsOf (s.doCfg n) 15 0) := by
  have e : ∀ r, t.binRef r = s.binRef r := by
    intro r
    simp only [State.binRef, State.bnet, State.modBin, h, hf, hi, ht]
  rw [e]; simp [State.doCfg, State.reg, hr]

theorem upd_all (s : State) (h : s.ticking = true) (hd : s.pe.updDue = true) : s.outputUpdate.pe.updDue = false ∧ s.outputUpdate.pe.probeSeq = (s.pe.probeSeq + 1) % 2 ^ 32 ∧ s.outputUpdate.pe.probeB = s.outputUpdate.pe.bnets ∧ s.outputUpdate.pe.probeA = s.outputUpdate.pe.anets ∧
      s.outputUpdate.pe.els = s.pe.els ∧ (∀ a ∈ s.outputUpdate.pe.att, a.st = .committed ∨ a.st = .held) ∧
      (s.hng.hoAck = false → s.hng.readyIn = false → ∀ n < 12, (s.outputUpdate.outp n).cmd = s.binRef (bitsOf (s.doCfg n) 15 0)) := by
  have e : s.outputUpdate = ((s.releaseAtUpdate).engineUpdate).afterUpdate := by
    unfold State.outputUpdate; simp [State.canUpdate, h, hd]
  rw [e]
  have k1 : _ = _ := Keeps.same (keeps_releaseAtUpdate (K := [.st, .irq, .nme, .job, .ring, .trip, .pwr, .afe, .flt, .sch, .fst, .fio, .chn, .hng]) rfl (Keeps.refl _ s)) (p := .pe) (by decide)
  have rel : s.hng.hoAck = false → s.hng.readyIn = false → s.releaseAtUpdate = s := by
    intro a b; simp [State.releaseAtUpdate, a, b]
  generalize s.releaseAtUpdate = s1 at k1 rel ⊢
  have k2 := keeps_afterUpdate (K := [.ring, .hng]) rfl (Keeps.refl _ s1.engineUpdate)
  generalize (s1.engineUpdate).afterUpdate = s3 at k2 ⊢
  have p2 : _ = _ := Keeps.same k2 (p := .pe) (by decide)
  have f2 : _ = _ := Keeps.same k2 (p := .fio) (by decide)
  have hl := holdLate_ok s1
  have hk := keeps_holdLate (K := [.irq, .ring, .trip, .nv, .pe]) rfl (Keeps.refl _ s1)
  have uo : _ = _ := Keeps.same (keeps_updateOutputs (K := [.health, .irq, .ring, .trip, .fio]) rfl (Keeps.refl _ s1.holdLate)) (p := .pe) (by decide)
  have cm := updateOutputs_cmd s1.holdLate
  simp only [State.engineUpdate] at p2 f2
  generalize s1.holdLate.updateOutputs = s2 at p2 f2 uo cm
  simp only [State.probe, State.modPe] at p2 f2
  rw [p2]
  refine ⟨rfl, ?_, rfl, rfl, ?_, ?_, ?_⟩
  · show (s2.pe.probeSeq + 1) % 2 ^ 32 = _
    rw [uo, hl.2.1, k1]
  · show s2.pe.els = _
    rw [uo, hl.1, k1]
  · show ∀ a ∈ s2.pe.att, _
    rw [uo]; exact hl.2.2.1
  · intro a b n hn
    have := rel a b
    subst this
    simp only [State.outp] at cm ⊢
    rw [f2, cm n hn]
    exact latch_same _ _ n hl.2.2.2 (Keeps.same hk (p := .fst) (by decide)) (Keeps.same hk (p := .fio) (by decide)) (Keeps.same hk (p := .regs) (by decide)) (Keeps.same hk (p := .trk) (by decide))

theorem poolCheck_pe (s : State) : ∃ b, s.poolCheck.pe = { s.pe with noSpare := b } := by
  refine ⟨s.spares.isEmpty, ?_⟩
  unfold State.poolCheck
  dsimp only
  split <;> simp

theorem mismatch_iso (s : State) (pl c : Nat) (a : Attempt) (h : s.attOf pl = some a) (hs : a.st = .running) (hp : a.pair < 16) (hl : s.pe.roles.length = 16) :
   (s.mismatch pl c).role a.pair = .isolated ∧ (s.mismatch pl c).pe.mismatches = satInc 65535 s.pe.mismatches ∧ (a.pair, TestKind.isolation) ∈ (s.mismatch pl c).pe.tests := by
  unfold State.mismatch
  simp only [h, hs, if_true]
  have e : (s.isolate a.pair pl c).raiseOp.pe = { s.pe with roles := s.pe.roles.set a.pair .isolated, mismatches := satInc 65535 s.pe.mismatches, tests := s.pe.tests.filter (fun t => t.1 ≠ a.pair) ++ [(a.pair, .isolation)] } := by
    have : _ = _ := Keeps.same (keeps_raiseOp (K := [.clk]) rfl (Keeps.refl _ (s.isolate a.pair pl c))) (p := .pe) (by decide)
    rw [this]
    simp [State.isolate, State.setPair, State.modPe]
  generalize (s.isolate a.pair pl c).raiseOp = u at e ⊢
  split
  · have : _ = _ := Keeps.same (keeps_found (K := [.causes, .irq, .ring, .trip, .fio, .hng]) 5 rfl (Keeps.refl _ (((u.modAtt pl (fun a => { a with st := .held })).modPlace pl (fun p => { p with stuck := true, told := false }))))) (p := .pe) (by decide)
    simp only [State.strand, State.role, this]
    simp [State.modPlace, State.modAtt, e, hl, hp]
  · rename_i p r hsp
    obtain ⟨b, hb⟩ := poolCheck_pe ((((u.takeSpare p).modAtt pl (fun a => { a with pair := p, st := .reexecWait })).modPlace pl (fun x => { x with pair := some p })))
    have hpp : p ≠ a.pair := by
      rintro rfl
      have : a.pair ∈ u.spares := by rw [hsp]; simp
      simp [State.spares, State.role, e, hl, hp] at this
    simp only [State.role, hb]
    simp [State.modPlace, State.modAtt, State.takeSpare, State.setPair, e, hl, hp, hpp]
    exact fun h => hpp h.symm

theorem writes_net (l : List (Nat × Bool)) (b : List BNet) (n : Nat) (v : Bool) (h : l.find? (fun p => decide (p.1 = n)) = some (n, v)) (hn : n < b.length) :
    (nth (l.reverse.foldl (fun l p => modNth l p.1 (fun n => { n with v := p.2 })) b) n).v = v := by
  rw [List.foldl_reverse]
  have len : ∀ l : List (Nat × Bool), (l.foldr (fun p l => modNth l p.1 (fun n => { n with v := p.2 })) b).length = b.length := by
    intro l; induction l with
    | nil => rfl
    | cons a r ih => simpa [modNth] using ih
  induction l with
  | nil => simp at h
  | cons a r ih =>
    obtain ⟨m, w⟩ := a
    rw [List.find?_cons] at h
    have hl := len r
    simp only [List.foldr_cons]
    by_cases hm : m = n
    · subst hm
      simp at h; subst h
      have hn' : m < (r.foldr (fun p l => modNth l p.1 (fun n => { n with v := p.2 })) b).length := by rw [hl]; exact hn
      simp only [nth, modNth, List.getD_eq_getElem?_getD, List.getElem?_modify] at hn' ⊢
      rw [List.getElem?_eq_getElem hn']
      simp
    · simp [hm] at h
      have := ih (by simpa using h)
      rw [← this]
      simp [nth, modNth, List.getD_eq_getElem?_getD, List.getElem?_modify, hl, hn, hm]

theorem markHeld_pe (s : State) (pl : Nat) (h : Bool) : ∃ (b : List BNet) (a : List ANet), (s.markHeld pl h) = { s with pe := { s.pe with bnets := b, anets := a } } ∧ b.length = s.pe.bnets.length := by
  unfold State.markHeld
  generalize s.netsOf pl = l
  refine List.foldlRecOn (motive := fun t => ∃ (b : List BNet) (a : List ANet), t = { s with pe := { s.pe with bnets := b, anets := a } } ∧ b.length = s.pe.bnets.length) l _ ⟨s.pe.bnets, s.pe.anets, rfl, rfl⟩ ?_
  rintro t ⟨b, a, rfl, k⟩ r _
  dsimp only
  split
  · exact ⟨_, a, rfl, by simp [modNth, k]⟩
  · exact ⟨b, _, rfl, k⟩

theorem foldStage_pe (l : List Ev) (s : State) : (l.foldl (fun s e => s.stageTick e.code e.sev e.body) s).pe = s.pe := by
  induction l generalizing s with
  | nil => rfl
  | cons a r ih => rw [List.foldl_cons, ih]; simp

theorem applyWrites_pe (s : State) (b a els evs) : (s.applyWrites b a els evs).pe = ((s.modPe (fun x => { x with els := putEls x.els els })).writeNets b a).pe := by
  unfold State.applyWrites
  extract_lets rise s1 s2 s3
  have h4 : (s3.injEdge.sendGroups).pe = s3.pe := Keeps.same (keeps_sendGroups (K := [.irq, .ring, .trip, .aux, .fst, .chn]) rfl (keeps_injEdge rfl (Keeps.refl _ s3))) (p := .pe) (by decide)
  have h3 : s3.pe = s2.pe := by
    simp only [s3]; split
    · exact Keeps.same (keeps_raiseOp (K := [.clk]) rfl (Keeps.refl _ s2)) (p := .pe) (by decide)
    · rfl
  rw [h4, h3, foldStage_pe]
  rfl

theorem att_map (l : List Attempt) (pl : Nat) (f : Attempt → Attempt) (hf : ∀ a, (f a).pl = a.pl) : (l.map (fun a => if a.pl = pl then f a else a)).find? (fun a => decide (a.pl = pl)) = (l.find? (fun a => decide (a.pl = pl))).map f := by
  induction l with
  | nil => rfl
  | cons a r ih =>
    simp only [List.map_cons, List.find?_cons]
    by_cases h : a.pl = pl
    · simp [h, hf]
    · simp [h, ih]

end Sys2Proof.Facts.Ticks
end

