-- ==== Sys2Proof/Laws/TimeKeeping.lean ====
section
/-! SUPPORT. The time counter, PTP and the force registers. Lemmas about the operations of these rows, for the proofs of the statements about them. -/

namespace Sys2Proof.Facts.TimeKeeping

open Sys2Proof Sys2Proof.Machine

theorem ptpTotal_of (p : Ptp) (t : Nat) : ptpTotal (ptpOf p t) = t := by
  simp only [ptpTotal, ptpOf]; omega

theorem endH (s : State) : s.endHoldover.ptp = if s.ptp.state = 3 ∧ s.ptp.causes = [] then { s.ptp with state := 1, good := 0, bad := 0 } else s.ptp := by
  unfold State.endHoldover
  split
  · rename_i h; simp [State.toAcquiring, State.leaveLock, h.1]
  · rfl

theorem toAcq (s : State) : s.toAcquiring.ptp = { s.ptp with state := 1, good := 0, bad := 0 } := by
  unfold State.toAcquiring State.leaveLock; split <;> rfl

theorem hold (s : State) (c : Nat) : (s.holdover c).ptp.sec = s.ptp.sec ∧ (s.holdover c).ptp.ns = s.ptp.ns ∧ (s.holdover c).ptp.frac = s.ptp.frac ∧ (s.holdover c).ptp.refused = s.ptp.refused ∧ (s.holdover c).ptp.steps = s.ptp.steps ∧
   (s.holdover c).ptp.offset = s.ptp.offset ∧ (s.ptp.state ∈ [1, 2, 3] → (s.holdover c).ptp.state = 3 ∧ c ∈ (s.holdover c).ptp.causes) := by
  unfold State.holdover State.leaveLock
  extract_lets add sy adj
  have ha : c ∈ (add s.ptp).causes := by
    simp only [add]; split <;> simp_all
  split
  · split <;> simp [add] <;> (split <;> simp_all)
  · split
    · rename_i h1 h2; refine ⟨rfl, rfl, rfl, rfl, rfl, rfl, fun _ => ⟨h2, ha⟩⟩
    · rename_i h1 h2; refine ⟨rfl, rfl, rfl, rfl, rfl, rfl, fun h => ?_⟩
      simp only [not_or] at h1
      simp_all

theorem end2 (s : State) : ∃ g b st, (if s.ptp.state = 3 then s.endHoldover else s.toAcquiring).endHoldover.ptp = { s.ptp with good := g, bad := b, state := st } ∧ (s.ptp.state ≠ 3 → st = 1) := by
  by_cases h3 : s.ptp.state = 3
  · rw [if_pos h3]
    by_cases h4 : s.ptp.state = 3 ∧ s.ptp.causes = []
    · have : s.endHoldover.ptp.state = 1 := by rw [endH, if_pos h4]
      rw [endH, if_neg (by rw [this]; simp), endH, if_pos h4]
      exact ⟨_, _, _, rfl, fun _ => rfl⟩
    · have : s.endHoldover.ptp = s.ptp := by rw [endH, if_neg h4]
      rw [endH, this, if_neg h4]
      exact ⟨_, _, _, rfl, fun h => absurd h3 h⟩
  · rw [if_neg h3, endH, toAcq, if_neg (by simp)]
    exact ⟨_, _, _, rfl, fun _ => rfl⟩

theorem step_spec (s : State) (o : Rat) (k : Nat) : let t := (s.stepBy o k).endHoldover
    ptpTotal t.ptp = (((ptpTotal s.ptp : Nat) : Int) - roundAway (o * 65536)).toNat ∧ t.ptp.set = true ∧ t.ptp.realign = true ∧ t.ptp.refused = false ∧
        t.ptp.steps = satInc 65535 s.ptp.steps ∧ (s.ptp.state ≠ 3 → t.ptp.state = 1) ∧ (t.ptp.armed = (s.ptp.armed && decide (k ≠ 0))) ∧ t.ptp.offset = s.ptp.offset := by
  intro t
  simp only [t]
  unfold State.stepBy
  extract_lets old tt s1 s2
  have e2 : s2.ptp = { ptpOf s.ptp tt.toNat with refused := false, armed := s.ptp.armed && decide (k ≠ 0), causes := s.ptp.causes.filter (fun c => c ∉ [5]), set := true, stepped := true, realign := true, steps := satInc 65535 s.ptp.steps, good := 0, bad := 0 } := by
    simp only [s2, State.afterStep, State.flushStreams]
    rw [stageTick_ptp]; rfl
  obtain ⟨g, b, st, e, h⟩ := end2 s2
  rw [e]
  have e3 : s2.ptp.state = s.ptp.state := by rw [e2]; rfl
  rw [e3] at h
  rw [e2]
  refine ⟨?_, rfl, rfl, rfl, rfl, h, rfl, rfl⟩
  exact ptpTotal_of s.ptp _

theorem refuse_spec (s : State) (o : Rat) : let t := (s.refuseStep o).endHoldover
    ptpTotal t.ptp = ptpTotal s.ptp ∧ t.ptp.refused = true ∧ t.ptp.steps = s.ptp.steps ∧ (s.ptp.state ∈ [1, 2, 3] → t.ptp.state = 3 ∧ 5 ∈ t.ptp.causes) ∧ t.ptp.offset = s.ptp.offset := by
  intro t
  obtain ⟨s1, hs1, e⟩ : ∃ s1 : State, (s1.ptp.sec = s.ptp.sec ∧ s1.ptp.ns = s.ptp.ns ∧ s1.ptp.frac = s.ptp.frac ∧ s1.ptp.refused = true ∧ s1.ptp.steps = s.ptp.steps ∧ s1.ptp.offset = s.ptp.offset ∧ s1.ptp.state = s.ptp.state) ∧ t = (s1.holdover 5).endHoldover := by
    simp only [t]; unfold State.refuseStep
    extract_lets n again sA sB
    refine ⟨sB, ?_, rfl⟩
    simp only [sB]; split <;> (try rw [stage_ptp]) <;> exact ⟨rfl, rfl, rfl, rfl, rfl, rfl, rfl⟩
  obtain ⟨a1, a2, a3, a4, a5, a6, a7⟩ := hs1
  obtain ⟨b1, b2, b3, b4, b5, b6, b7⟩ := hold s1 5
  rw [e, endH]
  rw [a7] at b7
  split
  · rename_i h
    by_cases hm : s.ptp.state ∈ [1, 2, 3]
    · have := (b7 hm).2; rw [h.2] at this; cases this
    · refine ⟨?_, ?_, ?_, fun hh => absurd hh hm, ?_⟩
      · simp only [ptpTotal, b1, b2, b3, a1, a2, a3]
      all_goals simp_all
  · refine ⟨?_, ?_, ?_, b7, ?_⟩
    · simp only [ptpTotal, b1, b2, b3, a1, a2, a3]
    all_goals simp_all

theorem roundAway_le {q : Rat} {n : Int} (h : q ≤ n) : roundAway q ≤ n := by
  unfold roundAway
  split
  · have h1 : ((q + 1 / 2).floor : Rat) ≤ q + 1 / 2 := Int.floor_le _
    have : ((q + 1 / 2).floor : Rat) < (n : Rat) + 1 := by linarith
    have : (q + 1 / 2).floor < n + 1 := by exact_mod_cast this
    omega
  · have h1 : -q + 1 / 2 < ((-q + 1 / 2).floor : Rat) + 1 := Int.lt_floor_add_one _
    have : -((-q + 1 / 2).floor : Rat) < (n : Rat) + 1 := by linarith
    have : -((-q + 1 / 2).floor) < n + 1 := by exact_mod_cast this
    omega

theorem le_roundAway {q : Rat} {n : Int} (h : (n : Rat) ≤ q) : n ≤ roundAway q := by
  unfold roundAway
  split
  · have h1 : q + 1 / 2 < ((q + 1 / 2).floor : Rat) + 1 := Int.lt_floor_add_one _
    have : (n : Rat) < ((q + 1 / 2).floor : Rat) + 1 := by linarith
    have : n < (q + 1 / 2).floor + 1 := by exact_mod_cast this
    omega
  · have h1 : ((-q + 1 / 2).floor : Rat) ≤ -q + 1 / 2 := Int.floor_le _
    have : (n : Rat) < -((-q + 1 / 2).floor : Rat) + 1 := by linarith
    have : n < -((-q + 1 / 2).floor) + 1 := by exact_mod_cast this
    omega

theorem servo_adj (s : State) (o : Rat) : ∃ i a l, (s.servo o).ptp = { s.ptp with integ := i, adj := a, adjLog := l } ∧ -500000 ≤ a ∧ a ≤ 500000 := by
  unfold State.servo
  extract_lets w integ raw lim adj
  have hl : -500000 ≤ lim ∧ lim ≤ 500000 := by
    simp only [lim]
    split
    · norm_num
    · split
      · norm_num
      · constructor <;> linarith
  refine ⟨_, _, _, rfl, ?_, ?_⟩
  · have h : (-50000000 : Int) ≤ roundAway (lim * 100) := le_roundAway (by push_cast; linarith [hl.1])
    have : ((-50000000 : Int) : Rat) ≤ (roundAway (lim * 100) : Rat) := by exact_mod_cast h
    simp only [adj]; push_cast at this; linarith
  · have h : roundAway (lim * 100) ≤ (50000000 : Int) := roundAway_le (by push_cast; linarith [hl.2])
    have : (roundAway (lim * 100) : Rat) ≤ ((50000000 : Int) : Rat) := by exact_mod_cast h
    simp only [adj]; push_cast at this; linarith

theorem toLocked_ptp (s : State) : s.toLocked.ptp = { s.ptp with state := 2, bad := 0, recorded := none } := by
  unfold State.toLocked; rw [stage_ptp]; rfl

theorem lock_spec (s : State) (o : Rat) : let t := (s.lockJudge o true).endHoldover
    (∃ g b st r, t.ptp = { s.ptp with good := g, bad := b, state := st, recorded := r }) ∧
    (s.ptp.state = 1 → (t.ptp.state = 2 ↔ absR o ≤ 100 ∧ s.ptp.realign = false ∧ 15 ≤ s.ptp.good)) ∧
    (s.ptp.state = 2 → (t.ptp.state = 1 ↔ 1000 < absR o ∧ 3 ≤ s.ptp.bad)) := by
  intro t
  simp only [t]
  unfold State.lockJudge
  extract_lets m good bad s1
  have e1 : s1.ptp = { s.ptp with good := min good 16, bad := min bad 4 } := rfl
  have e2 : s1.ptp.state = s.ptp.state := rfl
  have hg : 16 ≤ good ↔ absR o ≤ 100 ∧ s.ptp.realign = false ∧ 15 ≤ s.ptp.good := by
    simp only [good, m]; split <;> rename_i h
    · simp [h.1, h.2]
    · simp only [not_and] at h; constructor
      · omega
      · rintro ⟨a, b, _⟩; exact absurd b (h a)
  have hb : 4 ≤ bad ↔ 1000 < absR o ∧ 3 ≤ s.ptp.bad := by
    simp only [bad, m]; split <;> rename_i h
    · simp [h]
    · simp [h]
  clear_value good bad
  clear_value s1
  rw [← hg, ← hb, ← e2]
  split
  · rename_i h
    split
    · rename_i hh
      rw [endH, if_neg (by rw [toLocked_ptp]; simp), toLocked_ptp]
      refine ⟨⟨_, _, _, _, by rw [e1]⟩, fun _ => ⟨fun _ => hh.1, fun _ => rfl⟩, fun h2 => ?_⟩
      rw [h] at h2; cases h2
    · rename_i hh
      rw [endH, if_neg (by rw [h]; simp)]
      refine ⟨⟨_, _, _, _, e1⟩, fun _ => ⟨fun h2 => ?_, fun h3 => absurd ⟨h3, rfl⟩ hh⟩, fun h2 => ?_⟩
      · rw [h] at h2; cases h2
      · rw [h] at h2; cases h2
  · rename_i h
    split
    · rename_i hh
      rw [endH, if_neg (by rw [toAcq]; simp), toAcq]
      refine ⟨⟨_, _, _, _, by rw [e1]⟩, fun h2 => ?_, fun _ => ⟨fun _ => by simpa using hh, fun _ => rfl⟩⟩
      rw [h] at h2; cases h2
    · rename_i hh
      rw [endH, if_neg (by rw [h]; simp)]
      refine ⟨⟨_, _, _, _, e1⟩, fun h2 => ?_, fun _ => ⟨fun h2 => ?_, fun h3 => absurd (Or.inl h3) hh⟩⟩
      · rw [h] at h2; cases h2
      · rw [h] at h2; cases h2
  · rename_i h1 h2
    refine ⟨?_, fun h => absurd h h1, fun h => absurd h h2⟩
    rw [endH]
    split <;> exact ⟨_, _, _, _, by rw [e1]⟩

theorem take_spec (s : State) (o : Rat) : let t := (s.takeOffset o true).endHoldover
    ptpTotal t.ptp = ptpTotal s.ptp ∧ t.ptp.refused = false ∧ t.ptp.steps = s.ptp.steps ∧ t.ptp.armed = s.ptp.armed ∧ -500000 ≤ t.ptp.adj ∧ t.ptp.adj ≤ 500000 ∧
        (s.ptp.state = 1 → (t.ptp.state = 2 ↔ absR o ≤ 100 ∧ s.ptp.realign = false ∧ 15 ≤ s.ptp.good)) ∧
        (s.ptp.state = 2 → (t.ptp.state = 1 ↔ 1000 < absR o ∧ 3 ≤ s.ptp.bad)) ∧ t.ptp.offset = s.ptp.offset := by
  intro t
  simp only [t]
  unfold State.takeOffset
  extract_lets s1
  obtain ⟨i, a, l, e1, ha, hb⟩ : ∃ i a l, s1.ptp = { ((s.modPtp (fun p => { p with refused := false })).dropHold [5]).endHoldover.ptp with integ := i, adj := a, adjLog := l } ∧ -500000 ≤ a ∧ a ≤ 500000 := servo_adj _ _
  clear_value s1
  obtain ⟨⟨g, b, st, r, e2⟩, k1, k2⟩ := lock_spec s1 o
  have e4 : s.ptp.state ≠ 3 → s1.ptp = { s.ptp with refused := false, causes := s.ptp.causes.filter (fun c => c ∉ [5]), integ := i, adj := a, adjLog := l } := by
    intro h
    rw [e1, endH, if_neg (by intro hh; exact h hh.1)]; rfl
  have e5 : ∃ g b st, s1.ptp = { s.ptp with refused := false, causes := s.ptp.causes.filter (fun c => c ∉ [5]), integ := i, adj := a, adjLog := l, good := g, bad := b, state := st } := by
    rw [e1, endH]; split <;> exact ⟨_, _, _, rfl⟩
  refine ⟨?_, ?_, ?_, ?_, ?_, ?_, ?_, ?_, ?_⟩
  · rw [e2]; obtain ⟨_, _, _, e5⟩ := e5; rw [e5]; rfl
  · rw [e2]; obtain ⟨_, _, _, e5⟩ := e5; rw [e5]
  · rw [e2]; obtain ⟨_, _, _, e5⟩ := e5; rw [e5]
  · rw [e2]; obtain ⟨_, _, _, e5⟩ := e5; rw [e5]
  · rw [e2]; obtain ⟨_, _, _, e5⟩ := e5; rw [e5]; exact ha
  · rw [e2]; obtain ⟨_, _, _, e5⟩ := e5; rw [e5]; exact hb
  · intro h; have e := e4 (by rw [h]; decide); rw [e] at k1; exact k1 h
  · intro h; have e := e4 (by rw [h]; decide); rw [e] at k2; exact k2 h
  · rw [e2]; obtain ⟨_, _, _, e5⟩ := e5; rw [e5]

theorem judge_spec (s0 : State) (o : Rat) : let t := ((s0.dropHold [1, 2, 3]).judgeOffset o true).endHoldover
   t.ptp.offset = roundAway o ∧
      (s0.ptp.set = false ∨ (s0.ptp.armed = true ∧ (20000 ≤ absR o ∨ (s0.stepThr : Rat) ≤ absR o)) ∨ (20000 ≤ absR o ∧ absR o < (s0.stepThr : Rat)) →
        ptpTotal t.ptp = (((ptpTotal s0.ptp : Nat) : Int) - roundAway (o * 65536)).toNat ∧ t.ptp.set = true ∧ t.ptp.realign = true ∧ t.ptp.refused = false ∧
        t.ptp.steps = satInc 65535 s0.ptp.steps ∧ (s0.ptp.state ≠ 3 → t.ptp.state = 1) ∧ (s0.ptp.set = true → t.ptp.armed = false)) ∧
      (s0.ptp.set = true → s0.ptp.armed = false → (s0.stepThr : Rat) ≤ absR o →
        ptpTotal t.ptp = ptpTotal s0.ptp ∧ t.ptp.refused = true ∧ t.ptp.steps = s0.ptp.steps ∧ (s0.ptp.state ∈ [1, 2, 3] → t.ptp.state = 3 ∧ 5 ∈ t.ptp.causes)) ∧
      (s0.ptp.set = true → absR o < 20000 → absR o < (s0.stepThr : Rat) →
        ptpTotal t.ptp = ptpTotal s0.ptp ∧ t.ptp.refused = false ∧ t.ptp.steps = s0.ptp.steps ∧ t.ptp.armed = s0.ptp.armed ∧ -500000 ≤ t.ptp.adj ∧ t.ptp.adj ≤ 500000 ∧
        (s0.ptp.state = 1 → (t.ptp.state = 2 ↔ absR o ≤ 100 ∧ s0.ptp.realign = false ∧ 15 ≤ s0.ptp.good)) ∧
        (s0.ptp.state = 2 → (t.ptp.state = 1 ↔ 1000 < absR o ∧ 3 ≤ s0.ptp.bad))) := by
  intro t
  simp only [t]
  unfold State.judgeOffset
  extract_lets s1 m
  have x1 : s1.ptp.set = s0.ptp.set := rfl
  have x2 : s1.ptp.armed = s0.ptp.armed := rfl
  have x3 : s1.ptp.offset = roundAway o := rfl
  have x4 : ptpTotal s1.ptp = ptpTotal s0.ptp := rfl
  have x5 : s1.ptp.state = s0.ptp.state := rfl
  have x6 : s1.ptp.steps = s0.ptp.steps := rfl
  have x7 : s1.ptp.realign = s0.ptp.realign := rfl
  have x8 : s1.ptp.good = s0.ptp.good := rfl
  have x9 : s1.ptp.bad = s0.ptp.bad := rfl
  have x10 : s1.stepThr = s0.stepThr := rfl
  have hm : m = absR o := rfl
  clear_value s1 m
  subst hm
  rw [← x1, ← x2, ← x4, ← x5, ← x6, ← x7, ← x8, ← x9, ← x10]
  split
  · rename_i h
    obtain ⟨b1, b2, b3, b4, b5, b6, b7, b8⟩ := step_spec s1 o 2
    refine ⟨by rw [b8, x3], fun _ => ⟨b1, b2, b3, b4, b5, b6, fun hh => ?_⟩, fun hh => ?_, fun hh => ?_⟩ <;> (rw [h] at hh; cases hh)
  · rename_i h
    have h' : s1.ptp.set = true := by simpa using h
    split
    · rename_i h2
      obtain ⟨b1, b2, b3, b4, b5, b6, b7, b8⟩ := step_spec s1 o 0
      refine ⟨by rw [b8, x3], fun _ => ⟨b1, b2, b3, b4, b5, b6, fun _ => by rw [b7]; simp⟩, fun _ hh => ?_, fun _ h3 h4 => ?_⟩
      · rw [h2.1] at hh; cases hh
      · rcases h2.2 with h5 | h5 <;> exact absurd h5 (not_le.mpr (by assumption))
    · rename_i h2
      split
      · rename_i h3
        obtain ⟨b1, b2, b3, b4, b5⟩ := refuse_spec s1 o
        refine ⟨by rw [b5, x3], fun hh => ?_, fun _ _ _ => ⟨b1, b2, b3, b4⟩, fun _ _ h4 => absurd h3 (not_le.mpr h4)⟩
        rcases hh with hh | hh | hh
        · rw [h'] at hh; cases hh
        · exact absurd hh h2
        · exact absurd h3 (not_le.mpr hh.2)
      · rename_i h3
        split
        · rename_i h4
          obtain ⟨b1, b2, b3, b4, b5, b6, b7, b8⟩ := step_spec s1 o 1
          have ha : s1.ptp.armed = false := by
            cases hh : s1.ptp.armed
            · rfl
            · exact absurd ⟨hh, Or.inl h4⟩ h2
          refine ⟨by rw [b8, x3], fun _ => ⟨b1, b2, b3, b4, b5, b6, fun _ => by rw [b7, ha]; rfl⟩, fun _ _ h5 => absurd h5 h3, fun _ h5 => absurd h4 (not_le.mpr h5)⟩
        · rename_i h4
          obtain ⟨b1, b2, b3, b4, b5, b6, b7, b8, b9⟩ := take_spec s1 o
          refine ⟨by rw [b9, x3], fun hh => ?_, fun _ _ h5 => absurd h5 h3, fun _ _ _ => ⟨b1, b2, b3, b4, b5, b6, b7, b8⟩⟩
          rcases hh with hh | hh | hh
          · rw [h'] at hh; cases hh
          · exact absurd hh h2
          · exact absurd hh.1 h4

theorem hold2 (s : State) (c : Nat) (h : s.ptp.state = 1 ∨ s.ptp.state = 2) : (s.holdover c).ptp = { s.ptp with
    causes := if c ∈ s.ptp.causes then s.ptp.causes else s.ptp.causes ++ [c], state := 3, synch := s.smpSynch, hoOt := s.pwr.ot, adj := s.heldAdj, good := 0, bad := 0 } := by
  unfold State.holdover
  extract_lets add sy adj
  rw [if_pos h, stage_ptp]
  unfold State.leaveLock
  split <;> rfl

theorem resel (s : State) : s.reselect.ptp = { s.ptp with port := s.bestPort, gm := if (if s.bestPort = 0 then none else nth s.ptp.masters (s.bestPort - 1)).isSome then (if s.bestPort = 0 then none else nth s.ptp.masters (s.bestPort - 1)) else s.ptp.gm } := by
  unfold State.reselect
  extract_lets p gm ch s1
  have : s1.ptp = { s.ptp with port := p, gm := if gm.isSome then gm else s.ptp.gm } := rfl
  have key : ∀ (s1 : State) (g : Option AnnounceIn), (match g with
      | some a => if ch = true then s1.stage 0x00F2 0 (b8 a.gm) else s1
      | none => s1).ptp = s1.ptp := by
    intro s1 g
    cases g
    · rfl
    · dsimp only; split
      · rw [stage_ptp]
      · rfl
  exact (key s1 gm).trans this

theorem dropEnd (s : State) (l : List Nat) : (s.dropHold l).endHoldover.ptp.masters = s.ptp.masters ∧ (s.dropHold l).endHoldover.ptp.port = s.ptp.port ∧ (s.dropHold l).endHoldover.ptp.gm = s.ptp.gm := by
  unfold State.endHoldover
  split
  · unfold State.toAcquiring State.leaveLock; split <;> exact ⟨rfl, rfl, rfl⟩
  · exact ⟨rfl, rfl, rfl⟩

theorem best_none (s : State) (p : Nat) (hp : p < 2) (h1 : nth s.ptp.masters p = none) (h2 : nth s.ptp.masters (1 - p) = none) : s.bestPort = 0 := by
  unfold State.bestPort
  have : p = 0 ∨ p = 1 := by omega
  rcases this with rfl | rfl
  · simp at h2; simp [h1, h2]
  · simp at h2; simp [h1, h2]

theorem best_some (s : State) (p : Nat) (a : AnnounceIn) (hp : s.ptpOn p = true) (h1 : nth s.ptp.masters p = some a) : s.bestPort ≠ 0 ∧ ∃ b, nth s.ptp.masters (s.bestPort - 1) = some b := by
  have hp2 : p < 2 := by simp [State.ptpOn] at hp; omega
  have hpr : s.profile ≠ 0 := by simp [State.ptpOn] at hp; exact hp.1.1.1.2
  have hen : s.portEn p = true := by simp [State.ptpOn] at hp; exact hp.1.1.2
  have hq : ∀ k b, (if s.portEn k = true ∧ s.profile ≠ 0 then nth s.ptp.masters k else none) = some b → nth s.ptp.masters k = some b := by
    intro k b h; split at h
    · exact h
    · cases h
  have hp' : (if s.portEn p = true ∧ s.profile ≠ 0 then nth s.ptp.masters p else none) = some a := by rw [if_pos ⟨hen, hpr⟩]; exact h1
  unfold State.bestPort
  extract_lets q
  split
  · rename_i k1 k2
    have : p = 0 ∨ p = 1 := by omega
    rcases this with rfl | rfl
    · simp only [q] at k1; rw [hp'] at k1; cases k1
    · simp only [q] at k2; rw [hp'] at k2; cases k2
  · rename_i b k1 k2; exact ⟨by decide, b, hq _ _ k1⟩
  · rename_i b k1 k2; exact ⟨by decide, b, hq _ _ k2⟩
  · rename_i b c k1 k2
    split
    · exact ⟨by decide, c, hq _ _ k2⟩
    · exact ⟨by decide, b, hq _ _ k1⟩

theorem tgttime : (∃ r, targetOf 0x3828 = some (.reg r) ∧ r.mask ≠ 0) ∧ (∃ r, targetOf 0x3800 = some (.reg r) ∧ r.mask ≠ 0) ∧ (∃ t, targetOf 0x380C = some t) := ⟨⟨_, rfl, by decide⟩, ⟨_, rfl, by decide⟩, ⟨_, rfl⟩⟩

theorem resel_state (s : State) : s.reselect.ptp.state = s.ptp.state := by
  unfold State.reselect
  extract_lets p gm ch s1
  have key : ∀ (s1 : State) (g : Option AnnounceIn), (match g with
      | some a => if ch = true then s1.stage 0x00F2 0 (b8 a.gm) else s1
      | none => s1).ptp = s1.ptp := by
    intro s1 g
    cases g
    · rfl
    · dsimp only; split
      · rw [stage_ptp]
      · rfl
  exact (congrArg Ptp.state (key s1 gm)).trans rfl

theorem bits32 (v : Word) : bitsOf (v &&& 0xFF3F#32) 3 2 = bitsOf v 3 2 := by
  unfold bitsOf
  apply Nat.eq_of_testBit_eq
  intro i
  simp only [Nat.testBit_mod_two_pow, Nat.testBit_div_two_pow, BitVec.toNat_and, Nat.testBit_and]
  by_cases h : i < 2
  · have : i = 0 ∨ i = 1 := by omega
    rcases this with rfl | rfl <;> simp [Nat.testBit]
  · simp [h]

theorem force_eq (s : State) : s.writeForce 2 =
    (let old := wallAt s.ptp s.pwr.ot
    let unset := !s.ptp.set
    let sec := (s.reg 0x382C).toNat * 2 ^ 32 + (s.reg 0x3830).toNat
    let s1 := s.modPtp (fun p => { p with sec := sec, ns := (s.reg 0x3834).toNat, frac := 0, ot := s.pwr.ot, armed := false, waiting := [none, none] })
    let s2 := s1.afterStep old 0
    if unset then (if s2.srcEff = 0 then s2.modPtp (fun p => { p with state := 4 }) else s2.toAcquiring)
    else if s2.ptp.state = 2 then s2.toAcquiring
    else s2) := rfl

end Sys2Proof.Facts.TimeKeeping
end

