-- ==== Sys2Proof/WellFormed.lean ====
section
/-! DEFINITION. Well-formed commands: operands that lie in the ranges the spec gives them. A command that is not well-formed names something the module does not have. -/

namespace Sys2Proof

/-- A number below a bound. -/
def below (n x : Nat) : Bool := decide (x < n)

/-- A number in a range. -/
def between (a b x : Nat) : Bool := decide (a ≤ x) && decide (x ≤ b)

/-- A list of a length. -/
def len {α : Type} (n : Nat) (l : List α) : Bool := decide (l.length = n)

/-- The operands of a command lie in their ranges. -/
def Instr.wf (i : Instr) : Bool :=
  match i with
  | .tick i => len 16 i.codes
  | .outputUpdate => true
  | .placementCommit pl _ => below 16 pl
  | .attemptOverrun pl _ => below 16 pl
  | .pairStall pl _ => below 16 pl
  | .reexecutionStart pl => below 16 pl
  | .pairSelftestEnd pair _ => below 16 pair
  | .spareSelftestStart pair => below 16 pair
  | .selftestSwap => true
  | .reqBlocked _ => true
  | .reqInService _ => true
  | .reqTest _ => true
  | .reqDormant _ => true
  | .reqWithdraw _ => true
  | .reqBadCode _ code => (below 16 code && decide (code ∉ [0, 2, 3, 5, 7]))
  | .requestTaken => true
  | .failsafeEntry _ => true
  | .failsafeCauseCleared _ => true
  | .healthOpen => true
  | .rotationStepStart bank => below 2 bank
  | .handover bank m => below 2 bank && len 64 m.words
  | .coreCalibrationEnd bank c => below 2 bank && len 5 c.corr && len 5 c.residuals
  | .coreHardFault core => below 18 core
  | .pilotWindowEnd ch _ _ => below 16 ch
  | .suspectServiceStart bank => below 2 bank
  | .refdacCheck bank point _ => below 2 bank && below 5 point
  | .refdacRecheck bank errs => below 2 bank && len 5 errs
  | .refdacResume bank => below 2 bank
  | .fltCfgWrite _ _ => true
  | .filterBoundary => true
  | .gainBoundary ch => below 16 ch
  | .settingApply => true
  | .auxEntryDone entry convs => below 32 entry && decide (convs.length ≤ 64)
  | .auxInjTrigGo _ => true
  | .injectedGroupStart => true
  | .injectedGroupDone convs => decide (convs.length ≤ 4)
  | .auxCalStart => true
  | .auxCalStepDone _ _ => true
  | .auxCalLate => true
  | .definiteTimeExpiry inst => below 65536 inst
  | .curveIntegratorFull inst => below 65536 inst
  | .resetTimeExpiry inst => below 65536 inst
  | .invalidTimeout inst => below 65536 inst
  | .trackingLost => true
  | .directionalMemoryExpiry inst => below 65536 inst
  | .inrushHoldExpiry inst phase => below 65536 inst && below 3 phase
  | .coldLoadArm inst => below 65536 inst
  | .coldLoadActiveEnd inst => below 65536 inst
  | .tripMinPulseExpiry inst => below 65536 inst
  | .bfRetrip inst => below 65536 inst
  | .bfTrip inst => below 65536 inst
  | .arReadyTimer inst => below 65536 inst
  | .arOpenTimeout inst => below 65536 inst
  | .arDeadTimeExpiry inst => below 65536 inst
  | .arSyncTimeout inst => below 65536 inst
  | .arClosePulseExpiry inst => below 65536 inst
  | .arReclaimExpiry inst => below 65536 inst
  | .arDiscriminationExpiry inst => below 65536 inst
  | .zoneHoldoverLimit inst => below 65536 inst
  | .zsiTimeExpiry inst => below 65536 inst
  | .zsiBlockWindowExpiry inst => below 65536 inst
  | .faultLocation inst => below 65536 inst
  | .twMatchTimeout inst => below 65536 inst
  | .syncConfirmExpiry inst => below 65536 inst
  | .tcsAlarmExpiry inst => below 65536 inst
  | .tcsTripBlankExpiry inst => below 65536 inst
  | .persistentLatchWrite inst => below 65536 inst
  | .logicTimerExpiry inst => below 65536 inst
  | .comparatorAssert c _ _ => below 64 c
  | .comparatorRelease c _ => below 64 c
  | .arcWindowExpiry c _ => below 64 c
  | .expressReceived p _ _ => below 2 p
  | .expressCodeTimeout code => between 4 255 code
  | .fastCfgWrite _ addr _ => between 0x2800 0x2BFF addr
  | .imageLoad _ arg => below 65536 arg
  | .chunkCommit _ _ => true
  | .imageActivation _ arg => below 65536 arg
  | .templateActivation _ arg => below 65536 arg
  | .activationReferenceTick => true
  | .activationBoundary => true
  | .activated => true
  | .schGroupWrite _ _ => true
  | .groupSwitch => true
  | .templateParamWrite _ _ => true
  | .couplerFail cpl _ => below 32 cpl
  | .couplerOk cpl _ => below 32 cpl
  | .outputHoldExpiry out => below 12 out
  | .inputAccepted di _ _ sec us => below 16 di && below (2 ^ 32) sec && below 1000000 us
  | .fieldSupplyReading _ _ _ => true
  | .fieldSagEnd => true
  | .fieldBrownout => true
  | .fieldReady => true
  | .stuckOn out => below 12 out
  | .outShort out => below 12 out
  | .thermalShutdown out => below 12 out
  | .thermalOffExpiry out => below 12 out
  | .crossDrive out by_ => below 12 out && below 12 by_
  | .outFailOff out => below 12 out
  | .outOpen out _ => below 12 out
  | .outOverload out _ => below 12 out
  | .crossInhClear _ _ => true
  | .fioCfgWrite _ addr _ => between 0x2C00 0x2FFF addr
  | .tcsContinuityChange n _ => below 2 n
  | .ledgerWrite => true
  | .tokenReturn code => below 0x600 code
  | .cursorSeek _ => true
  | .cursorOldest _ => true
  | .cursorNewest _ => true
  | .cursorNext _ => true
  | .cursorPrev _ => true
  | .cursorFirst _ => true
  | .cursorMoveDone _ => true
  | .ledgerCommission _ arg => below 65536 arg
  | .ledgerClear _ arg => below 65536 arg
  | .ledgerScanDone => true
  | .capTrig _ => true
  | .captureEnd => true
  | .slotProtect _ => true
  | .slotUnprotect _ => true
  | .captureExport _ arg => below 65536 arg
  | .leaseTimeout slot => below 16 slot
  | .ptpSync p _ => below 2 p
  | .ptpFollowUp p _ _ _ => below 2 p
  | .ptpAnnounce p _ => below 2 p
  | .ptpPdelayReq p _ _ _ => below 2 p
  | .ptpPdelayResp p _ _ _ _ => below 2 p
  | .syncTimeout => true
  | .announceTimeout p => below 2 p
  | .timeRealigned => true
  | .forceAcceptNext _ => true
  | .forceSet _ => true
  | .forceDisarm _ => true
  | .ptpCtlWrite _ _ => true
  | .ptpTimeSecLoRead _ => true
  | .ethLink m _ speed => below 2 m && below 3 speed
  | .prpSupervision => true
  | .prpLanFault lan => below 2 lan
  | .svFrameReceived m _ => below 2 m
  | .eventMessageReceived m _ => below 2 m
  | .mgmtFrame m _ => below 2 m
  | .svPublish ctx => below 128 ctx
  | .eventMessageRepeat ctx => below 128 ctx
  | .eventContextExpiry ctx => below 128 ctx
  | .portClockReceived p => below 2 p
  | .trainingAdvance p _ => below 2 p
  | .trainingTimeout p => below 2 p
  | .recoveryEntry p _ => below 2 p
  | .recoveryDone p _ => below 2 p
  | .chainCycle => true
  | .cycleMarkReceived p _ _ cycle phase => below 2 p && below 76800 cycle && below 33 phase
  | .managementSlotReceived p slot => below 2 p && len 1016 slot
  | .unitSlotReceived p pos slot => below 2 p && between 1 63 pos && len 232 slot
  | .slotLoss addr => between 1 63 addr
  | .walkStart => true
  | .chainWalk _ _ => true
  | .chainRewalk _ arg => below 65536 arg
  | .chainRingOpen => true
  | .chainRingClosed => true
  | .chainDeputyActive => true
  | .chainNoRoot => true
  | .chainTimeLost => true
  | .remoteGo _ => true
  | .remoteTransaction m entry => below 8 m && len 16 entry
  | .remoteAnswer m entry => below 8 m && len 16 entry
  | .remoteTimeout m => below 8 m
  | .chnXcpData0Read _ => true
  | .feedOutOfRange f _ => below 2 f
  | .feedInRange f _ => below 2 f
  | .hingePeerChange _ => true
  | .hingeClaim => true
  | .claimRecheck _ => true
  | .anchorFrameReceived _ _ => true
  | .anchorAdopt => true
  | .activateOrder _ => true
  | .readyReport => true
  | .handoverWrite _ _ => true
  | .handoverRequest => true
  | .handoverAcknowledge => true
  | .handoverTimeout => true
  | .hingeStandby => true
  | .hingeWireFault => true
  | .wireFaultClear => true
  | .hingeCtlNoTick => true
  | .hostRead _ frame => len 9 frame
  | .hostWrite _ frame => len 9 frame
  | .hostQuadRead _ frame => len 9 frame
  | .hostQuadWrite _ frame => len 9 frame
  | .badCommand _ frame => len 9 frame
  | .frameEndedShort _ n => below 9 n
  | .registerWrite _ addr _ => below 65536 addr
  | .irqStatClear _ _ => true
  | .nmeStatClear _ _ => true
  | .pairSelfTest _ arg => below 65536 arg
  | .foregroundAfeCalibration _ arg => below 65536 arg
  | .mramScrub _ arg => below 65536 arg
  | .breakerWearReset _ arg => below 65536 arg
  | .jobCancel _ ticket => below 65536 ticket
  | .jobStep _ => true
  | .clockFailure _ => true
  | .sysPllRelock => true
  | .convPllLock => true
  | .ircRestart => true
  | .ircStable => true
  | .refclkStable _ => true
  | .refOk => true
  | .refReturn _ => true
  | .refEnWrite _ _ => true
  | .level2RecoveryValid => true
  | .trim _ _ => true
  | .measurementGo _ _ => true
  | .measurementDone _ => true
  | .railSettled => true
  | .engineFrequencyChange => true
  | .opLower => true
  | .leafOffRequest _ _ => true
  | .leafGated leaf => below 5 leaf
  | .leafRestart _ _ => true
  | .groupOffRequest _ _ => true
  | .feedRise f _ => below 2 f
  | .powerOnResetRelease => true
  | .railsInRegulation _ => true
  | .pllsLocked => true
  | .defectMapRead _ => true
  | .shortSelfTestDone _ => true
  | .slotSelection _ => true
  | .afeReferenceSettled => true
  | .filterSettled => true
  | .windowsValid => true
  | .powerFailDeclared _ => true
  | .flushEnd => true
  | .commitDone => true
  | .holdSpent _ => true
  | .holdReady _ => true
  | .holdFault _ => true
  | .railFault rail => below 9 rail
  | .resetNLow => true
  | .resetNRise => true
  | .hostReset _ => true
  | .hostResetEffect => true
  | .hcRestart => true
  | .counterBlockWrite ot => below (2 ^ 56) ot
  | .dormantEntry => true
  | .persistenceWake ot => below (2 ^ 56) ot
  | .wakePin => true
  | .wakeTimer ot => below (2 ^ 56) ot
  | .feedWake f => below 2 f
  | .pwrOtLoRead _ => true
  | .defectMapWrite => true
  | .ssRowSpared row reason => below 512 row && between 1 2 reason
  | .ssScrub _ _ => true
  | .mramRowSpared row _ => below 16384 row
  | .mramScrubStep _ _ => true
  | .mramFail => true
  | .crossbarFailure => true
  | .lfoStable => true
  | .refclkAbsent => true
  | .pllHoldStop => true
  | .localCycle p => below 2 p

end Sys2Proof
end

