-- ==== Sys2Proof/Tests/Slice0.lean ====
section
/-! SUPPORT. Tests: ill-formed commands that the check refuses, small runs of one command, and for every statement with hypotheses a state and operands that meet them. Expected values come from the rules named in each comment. -/

namespace Sys2Proof.Tests

open Sys2Proof Sys2Proof.Machine

set_option Elab.async false

/-! ### States -/

/-- A module past the start-up: in BLOCKED, its words valid, its host port up, every PLL locked. -/
def up : State := { State.reset with
  sys := { st := .blocked, bootFrom := none }, host := { up := true }, flt := { running := true, ch := List.replicate 16 { word := 0x80#32 } },
  clk := { sysLock := true, convLock := true, laneLock := true, ircOk := true, refStable := true, ircTrimmed := true, lfoTrimmed := true, ref := 0, refOk := true, op := true },
  pwr := { ot := 1000000, resumed := true, untrimmed := false, feedOk := [true, true], holdReady := true, bootStep := 15, mapRead := true, tested := true },
  fio := { state := 0, mgmtUp := true } }

/-- The same module in another operating state. -/
def inSt (x : OpState) : State := { up with sys := { up.sys with st := x } }

/-- Settings that all read 1. -/
def ones : List Word := List.replicate 48 0x3F800000#32

/-- An instance with the number 1 of a kind. -/
def cfgOf (kind : Nat) (ws : List Word := ones) (ins : List Nat := []) : InstCfg := { num := 1, kind := kind, place := 0, sets := [ws], ins := ins }

/-- An attempt that holds one record. -/
def att1 (e : ElemSt) : Attempt := { pl := 0, pair := 0, st := .running, bnets := [], anets := [], els := [e], evs := [] }

/-- A module whose running attempt holds one instance. -/
def one (kind : Nat) (e : ElemSt) (ws : List Word := ones) (ins : List Nat := []) : State :=
  { up with sch := { up.sch with cfg := { insts := [cfgOf kind ws ins] } }, pe := { up.pe with els := [e], att := [att1 e] } }

/-- A module whose last channel is as given, its pilots on. -/
def wPilot (x : AfeCh) : State := { up with afe := { up.afe with ch := List.replicate 15 {} ++ [x], banks := up.afe.banks.map (fun k => { k with kEff := 4 }) } }

/-! ### One command at a time, against the worked examples and rules of the spec -/

/-- The state after the one step that takes a command. -/
def after (c : Instr) (s : State) : State :=
  match step { s with pending := [c] } with
  | .next t => t
  | _ => s

/-- What the host reads at an address. -/
def reads (s : State) (a : Nat) : Word := (s.busRead .host a 0).2.data

/-- CRC-16/CCITT-FALSE of "123456789" (R384 names that CRC). -/
theorem test_crc16 : crc16 [0x31, 0x32, 0x33, 0x34, 0x35, 0x36, 0x37, 0x38, 0x39] = 0x29B1 := by decide +kernel

/-- CRC-32C of "123456789" (the code of R231). -/
theorem test_crc32c : crc32c [0x31, 0x32, 0x33, 0x34, 0x35, 0x36, 0x37, 0x38, 0x39] = 0xE3069283 := by decide +kernel

/-- Worked example of 03_filter_chain.md: 0x0083_149F asks for L1 = 160, D1 = 32, L2 = 4, D2 = 4 at the product in effect, and is accepted. -/
theorem test_flt_write : (after (.fltCfgWrite .host 0x0083149F) up).flt.pend = some { l1 := 160, d1 := 32, l2 := 4, d2 := 4, preset := 0 } := by decide +kernel

/-- The same example: delay 104,574 ns; n_filter = 1, n_gain = 2, n_route = 2; every k usable, k = 5 nearest to 38.4 kHz. -/
theorem test_flt_figures :
    let f : FltSet := { l1 := 160, d1 := 32, l2 := 4, d2 := 4, preset := 0 }
    gdNs f = 104574 ∧ invalidCount f 0 = 1 ∧ invalidCount f 4 = 2 ∧ invalidCount f 6 = 2 ∧ kAuto 160 = 5 := by decide +kernel

/-- Worked example of 02_analogue_front_end.md, pilots of the hinge pair: k = 4 of its own, and k = 5 where the register says 5. -/
theorem test_pilot_choice : pilotChoice 0x000A0A10 128 = (4, 0) ∧ pilotChoice 0x000A0A15 128 = (5, 0) := by decide +kernel

/-- A bank about to hand CH2 over, after the steps that gave CH0 to A8 and CH1 to A0. -/
def third : State := up.modBank 0 (fun k => { k with map := [some 8, some 0, some 2, some 3, some 4, some 5, some 6, some 7], spare := some 1, rotCh := 2, phase := .compare, shCmp := 65 })

/-- Worked example of 02_analogue_front_end.md: after the third handover AFE_MAP_A reads 0x7654_3108 and A2 is released for calibration. -/
theorem test_third_handover :
    let t := after (.handover 0 { words := List.replicate 64 (0, 0), ampSpare := 1, phSpare := 0, ampServ := 1, phServ := 0 }) third
    reads t 0x1450 = 0x76543108 ∧ (t.bank 0).spare = some 2 ∧ (t.bank 0).phase = .calibrate := by decide +kernel

/-- Worked example of 04_auxiliary_converter.md: four conversions of 1.200 V at AUX2 give the code 31,457 with the valid bit. -/
theorem test_injected_group :
    reads (after (.injectedGroupDone [List.replicate 4 (6 / 5)]) { up with regs := [(0x1C20, 0x62)], aux := { up.aux with injRun := true } }) 0x1D60 = 0x00017AE1 := by decide +kernel

/-- Worked example of 05_protection_engines.md: PL0 on PP0, PL1 on PP1, PL2 on PP2; PP0 mismatches and PP3 takes PL0. -/
def threePlaces : State := { inSt .inService with pe := { up.pe with
  roles := List.replicate 3 .placed ++ List.replicate 13 .spare,
  place := [{ pair := some 0 }, { pair := some 1 }, { pair := some 2 }],
  att := [{ pl := 0, pair := 0, st := .running, bnets := [], anets := [], els := [], evs := [] }] } }

theorem test_mismatch : reads (after (.pairStall 0 65) threePlaces) 0x2008 = 0xFFFFF213 := by decide +kernel

/-- Worked example of 08_fast_path.md: FST_ROUTE_0 reads 0x0000_1001 once the scheme's host writes it. -/
theorem test_fast_route : reads (after (.fastCfgWrite .host 0x2900 0x1001) { up with regs := [(0x2804, 0x1C)] }) 0x2900 = 0x1001 := by decide +kernel

/-- Worked example of 08_fast_path.md: on unit 1 code (3, 0) is index 12, so FST_XASSERT_0 reads 0x0000_1000. -/
theorem test_express_word : reads { up with fst := { up.fst with x := [12] } } 0x2A80 = 0x1000 := by decide +kernel

/-- Worked example of 11_recorder.md: with no token left, the returned one is spent on the summary of the suppressed occurrences. -/
theorem test_summary :
    let s := { up with ldg := { up.ldg with scanning := false, buckets := [(0x210, { lacks := 8, pending := 42, first := 16000, last := 98000 })] } }
    let t := after (.tokenReturn 0x210) s
    (lookupD t.ldg.buckets 0x210 {}).pending = 0 ∧ (lookupD t.ldg.buckets 0x210 {}).summaries = 1 ∧ t.ldg.ring.length = 1 := by decide +kernel

/-- Worked example of 12_time_and_streams.md: the SC96 filter delays by 52,490 ns. -/
theorem test_delay_of_sc96 : gdNs { l1 := 128, d1 := 128, l2 := 1, d2 := 1, preset := 1 } = 52490 := by decide +kernel

/-- Worked example of 13_chain_link.md: CHN_RING reads 0x0010_075C, CHN_TIME 0x0010_03B3 and CHN_STAT 0x0204_4103. -/
theorem test_chain_registers :
    reads { up with chn := { up.chn with addr := 1, sender := true, tr := some 1884, measured := true, d1 := some 0 } } 0x4018 = 0x0010075C ∧
    reads { up with chn := { up.chn with addr := 4, tr := some 1884, measured := true, d1 := some 947 } } 0x401C = 0x001003B3 ∧
    reads { up with chn := { up.chn with addr := 3, ring := 1, members := 4, senderAddr := 1, deputy := 2 } } 0x4000 = 0x02044103 := by decide +kernel

/-- Worked example of 14_hinge_and_feeds.md: gap 58 µs and one takeover read 0x0001_003A. -/
theorem test_takeover_word : reads { up with sch := { up.sch with cfg := { hinge := some { peer := 2, pref := true, mask := 1, insts := [] } } }, hng := { up.hng with gap := 58, takeovers := 1 } } 0x4414 = 0x0001003A := by decide +kernel

/-- Worked example of 15_host_and_keyway.md: the quad write of JOB_SUBMIT = 0x0000_0107 is accepted, and JOB_TICKET of ticket 12 reads 0x0001_000C. -/
theorem test_job_frame :
    let f : List Byte := [0x32, 0x10, 0x00, 0x00, 0x00, 0x01, 0x07]
    let s := { inSt .inService with job := { up.job with next := 12 }, pe := threePlaces.pe }
    reads (after (.hostQuadWrite .host (f ++ (b2 (crc16 f)).reverse)) s) 0x1004 = 0x0001000C := by decide +kernel

/-- A request whose CRC fails is answered bad_crc with data 0 and counts in SYS_PORT (R384, R387, R405). -/
theorem test_bad_crc :
    let t := after (.hostRead .host [0x0B, 0, 0, 0, 0, 0, 0, 0, 0]) up
    t.host.crcErr = 1 ∧ t.host.answer.map (fun p => (p.2.take 1).map (fun b => b.toNat % 16)) = some [2] := by decide +kernel

/-- Worked example of 16_clocks.md: after the loss of REFCLK, CLK_STAT reads 0x0002_9F91. -/
theorem test_clk_stat :
    let s := { inSt .inService with clk := { up.clk with ref := 0, refOk := true } }
    reads (after .convPllLock (after .sysPllRelock (after (.clockFailure .refStopped) s))) 0x0804 = 0x00029F91 := by decide +kernel

/-- Worked example of 17_power_and_startup.md: 330 µF charged in 82.5 ms reads 0x0339_014A in PWR_HOLD. -/
theorem test_pwr_hold : reads (after (.holdReady 825) { up with pwr := { up.pwr with holdReady := false, charging := true } }) 0x0414 = 0x0339014A := by decide +kernel

/-- Worked example of 10_field_io.md: a brownout turns every driver off and opens the field supply. -/
theorem test_brownout :
    let t := after .fieldBrownout { inSt .inService with fio := { up.fio with dos := List.replicate 12 { cmd := true, drv := true } } }
    t.fio.state = 2 ∧ ((List.range 12).all (fun n => !t.outOn n)) = true := by decide +kernel

/-- Worked example of 06_measuring_elements.md: the IEC normal inverse at TMS 0.10 and M = 6 operates after 383,719 µs. -/
theorem test_curve_time :
    let c := cfgOf 3 ((ones.set 3 1).set 4 0x3DCCCCCD)
    ((up.env (att1 { num := 1 }) c).opTime c 6 * 1000000).floor = 383719 := by decide +kernel

/-- 08_fast_path.md: with the pilot at 38.4 kHz the floor of a mode-1 threshold is 206. -/
theorem test_mode1_floor : (wPilot {}).floorOf 0x901#32 = 206 ∧ up.floorOf 0x901#32 = 0 := by decide +kernel

/-- R329: a slot that comes with a symbol in violation counts it, and goes on with K30.7 in its place. -/
theorem test_error_forwarded :
    let s := { up with chn := { up.chn with addr := 1, ports := [{ st := .up }, { st := .up }] } }
    let t := after (.unitSlotReceived 0 5 [.data 5, .violation, .error]) s
    (t.port 0).violations = 1 ∧ (t.port 0).k307 = 1 ∧ (t.port 0).crc = 1 ∧ (t.port 1).relay = [(5, [.data 5, .error, .error])] := by decide +kernel

/-! ### Well-formed commands: for each check an ill-formed term just outside the range, the other operands in theirs; the same commands at an end of their ranges -/

theorem test_wf_refuses_1 : ∀ i ∈ ([.tick { ot := 0, codes := [], ecc := [], mismatch := [] }, .placementCommit 16 default, .attemptOverrun 16 default, .pairStall 16 default, .reexecutionStart 16, .pairSelftestEnd 16 default, .spareSelftestStart 16, .reqBadCode default 16, .reqBadCode default 7, .rotationStepStart 2, .handover 2 { words := List.replicate 64 (0, 0), ampSpare := 0, phSpare := 0, ampServ := 0, phServ := 0 }, .handover (2 - 1) { words := List.replicate 63 (0, 0), ampSpare := 0, phSpare := 0, ampServ := 0, phServ := 0 }, .coreCalibrationEnd 2 { offset := 0, gainPpm := 0, corr := List.replicate 5 0, residuals := List.replicate 5 0, noise := 0 }, .coreCalibrationEnd (2 - 1) { offset := 0, gainPpm := 0, corr := List.replicate 4 0, residuals := List.replicate 5 0, noise := 0 }, .coreCalibrationEnd (2 - 1) { offset := 0, gainPpm := 0, corr := List.replicate 5 0, residuals := List.replicate 6 0, noise := 0 }, .coreHardFault 18, .pilotWindowEnd 16 default default, .suspectServiceStart 2, .refdacCheck 2 (5 - 1) default, .refdacCheck (2 - 1) 5 default, .refdacRecheck 2 (List.replicate 5 0), .refdacRecheck (2 - 1) (List.replicate 4 0), .refdacResume 2, .gainBoundary 16, .auxEntryDone 32 (List.replicate 64 0), .auxEntryDone (32 - 1) (List.replicate 65 0), .injectedGroupDone (List.replicate 5 []), .definiteTimeExpiry 65536, .curveIntegratorFull 65536, .resetTimeExpiry 65536, .invalidTimeout 65536, .directionalMemoryExpiry 65536, .inrushHoldExpiry 65536 (3 - 1), .inrushHoldExpiry (65536 - 1) 3, .coldLoadArm 65536, .coldLoadActiveEnd 65536, .tripMinPulseExpiry 65536, .bfRetrip 65536, .bfTrip 65536, .arReadyTimer 65536] : List Instr), i.wf = false := by decide +kernel

theorem test_wf_refuses_2 : ∀ i ∈ ([.arOpenTimeout 65536, .arDeadTimeExpiry 65536, .arSyncTimeout 65536, .arClosePulseExpiry 65536, .arReclaimExpiry 65536, .arDiscriminationExpiry 65536, .zoneHoldoverLimit 65536, .zsiTimeExpiry 65536, .zsiBlockWindowExpiry 65536, .faultLocation 65536, .twMatchTimeout 65536, .syncConfirmExpiry 65536, .tcsAlarmExpiry 65536, .tcsTripBlankExpiry 65536, .persistentLatchWrite 65536, .logicTimerExpiry 65536, .comparatorAssert 64 default default, .comparatorRelease 64 default, .arcWindowExpiry 64 default, .expressReceived 2 default default, .expressCodeTimeout (255 + 1), .expressCodeTimeout (4 - 1), .fastCfgWrite default (0x2BFF + 1) default, .fastCfgWrite default (0x2800 - 1) default, .imageLoad default 65536, .imageActivation default 65536, .templateActivation default 65536, .couplerFail 32 default, .couplerOk 32 default, .outputHoldExpiry 12, .inputAccepted 16 default default ((2 ^ 32) - 1) (1000000 - 1), .inputAccepted (16 - 1) default default (2 ^ 32) (1000000 - 1), .inputAccepted (16 - 1) default default ((2 ^ 32) - 1) 1000000, .stuckOn 12, .outShort 12, .thermalShutdown 12, .thermalOffExpiry 12, .crossDrive 12 (12 - 1), .crossDrive (12 - 1) 12, .outFailOff 12] : List Instr), i.wf = false := by decide +kernel

theorem test_wf_refuses_3 : ∀ i ∈ ([.outOpen 12 default, .outOverload 12 default, .fioCfgWrite default (0x2FFF + 1) default, .fioCfgWrite default (0x2C00 - 1) default, .tcsContinuityChange 2 default, .tokenReturn 0x600, .ledgerCommission default 65536, .ledgerClear default 65536, .captureExport default 65536, .leaseTimeout 16, .ptpSync 2 default, .ptpFollowUp 2 default default default, .ptpAnnounce 2 default, .ptpPdelayReq 2 default default default, .ptpPdelayResp 2 default default default default, .announceTimeout 2, .ethLink 2 default (3 - 1), .ethLink (2 - 1) default 3, .prpLanFault 2, .svFrameReceived 2 default, .eventMessageReceived 2 default, .mgmtFrame 2 default, .svPublish 128, .eventMessageRepeat 128, .eventContextExpiry 128, .portClockReceived 2, .trainingAdvance 2 default, .trainingTimeout 2, .recoveryEntry 2 default, .recoveryDone 2 default, .cycleMarkReceived 2 default default (76800 - 1) (33 - 1), .cycleMarkReceived (2 - 1) default default 76800 (33 - 1), .cycleMarkReceived (2 - 1) default default (76800 - 1) 33, .managementSlotReceived 2 (List.replicate 1016 .violation), .managementSlotReceived (2 - 1) (List.replicate 1015 .violation), .unitSlotReceived 2 63 (List.replicate 232 .violation), .unitSlotReceived (2 - 1) (63 + 1) (List.replicate 232 .violation), .unitSlotReceived (2 - 1) (1 - 1) (List.replicate 232 .violation), .unitSlotReceived (2 - 1) 63 (List.replicate 231 .violation), .slotLoss (63 + 1)] : List Instr), i.wf = false := by decide +kernel

theorem test_wf_refuses_4 : ∀ i ∈ ([.slotLoss (1 - 1), .chainRewalk default 65536, .remoteTransaction 8 (List.replicate 16 0), .remoteTransaction (8 - 1) (List.replicate 15 0), .remoteAnswer 8 (List.replicate 16 0), .remoteAnswer (8 - 1) (List.replicate 15 0), .remoteTimeout 8, .feedOutOfRange 2 default, .feedInRange 2 default, .hostRead default (List.replicate 8 0), .hostWrite default (List.replicate 8 0), .hostQuadRead default (List.replicate 8 0), .hostQuadWrite default (List.replicate 8 0), .badCommand default (List.replicate 8 0), .frameEndedShort default 9, .registerWrite default 65536 default, .pairSelfTest default 65536, .foregroundAfeCalibration default 65536, .mramScrub default 65536, .breakerWearReset default 65536, .jobCancel default 65536, .leafGated 5, .feedRise 2 default, .railFault 9, .counterBlockWrite (2 ^ 56), .persistenceWake (2 ^ 56), .wakeTimer (2 ^ 56), .feedWake 2, .ssRowSpared 512 2, .ssRowSpared (512 - 1) (2 + 1), .ssRowSpared (512 - 1) (1 - 1), .mramRowSpared 16384 default, .localCycle 2] : List Instr), i.wf = false := by decide +kernel

theorem test_wf_accepts_1 : ∀ i ∈ ([.tick { ot := 0, codes := List.replicate 16 [], ecc := [], mismatch := [] }, .placementCommit (16 - 1) default, .attemptOverrun (16 - 1) default, .pairStall (16 - 1) default, .reexecutionStart (16 - 1), .pairSelftestEnd (16 - 1) default, .spareSelftestStart (16 - 1), .reqBadCode default 15, .reqBadCode default 1, .rotationStepStart (2 - 1), .handover (2 - 1) { words := List.replicate 64 (0, 0), ampSpare := 0, phSpare := 0, ampServ := 0, phServ := 0 }, .coreCalibrationEnd (2 - 1) { offset := 0, gainPpm := 0, corr := List.replicate 5 0, residuals := List.replicate 5 0, noise := 0 }, .coreHardFault (18 - 1), .pilotWindowEnd (16 - 1) default default, .suspectServiceStart (2 - 1), .refdacCheck (2 - 1) (5 - 1) default, .refdacRecheck (2 - 1) (List.replicate 5 0), .refdacResume (2 - 1), .gainBoundary (16 - 1), .auxEntryDone (32 - 1) (List.replicate 64 0), .injectedGroupDone (List.replicate 4 []), .definiteTimeExpiry (65536 - 1), .curveIntegratorFull (65536 - 1), .resetTimeExpiry (65536 - 1), .invalidTimeout (65536 - 1), .directionalMemoryExpiry (65536 - 1), .inrushHoldExpiry (65536 - 1) (3 - 1), .coldLoadArm (65536 - 1), .coldLoadActiveEnd (65536 - 1), .tripMinPulseExpiry (65536 - 1), .bfRetrip (65536 - 1), .bfTrip (65536 - 1), .arReadyTimer (65536 - 1), .arOpenTimeout (65536 - 1), .arDeadTimeExpiry (65536 - 1), .arSyncTimeout (65536 - 1), .arClosePulseExpiry (65536 - 1), .arReclaimExpiry (65536 - 1), .arDiscriminationExpiry (65536 - 1), .zoneHoldoverLimit (65536 - 1)] : List Instr), i.wf = true := by decide +kernel

theorem test_wf_accepts_2 : ∀ i ∈ ([.zsiTimeExpiry (65536 - 1), .zsiBlockWindowExpiry (65536 - 1), .faultLocation (65536 - 1), .twMatchTimeout (65536 - 1), .syncConfirmExpiry (65536 - 1), .tcsAlarmExpiry (65536 - 1), .tcsTripBlankExpiry (65536 - 1), .persistentLatchWrite (65536 - 1), .logicTimerExpiry (65536 - 1), .comparatorAssert (64 - 1) default default, .comparatorRelease (64 - 1) default, .arcWindowExpiry (64 - 1) default, .expressReceived (2 - 1) default default, .expressCodeTimeout 255, .expressCodeTimeout 4, .fastCfgWrite default 0x2BFF default, .fastCfgWrite default 0x2800 default, .imageLoad default (65536 - 1), .imageActivation default (65536 - 1), .templateActivation default (65536 - 1), .couplerFail (32 - 1) default, .couplerOk (32 - 1) default, .outputHoldExpiry (12 - 1), .inputAccepted (16 - 1) default default ((2 ^ 32) - 1) (1000000 - 1), .stuckOn (12 - 1), .outShort (12 - 1), .thermalShutdown (12 - 1), .thermalOffExpiry (12 - 1), .crossDrive (12 - 1) (12 - 1), .outFailOff (12 - 1), .outOpen (12 - 1) default, .outOverload (12 - 1) default, .fioCfgWrite default 0x2FFF default, .fioCfgWrite default 0x2C00 default, .tcsContinuityChange (2 - 1) default, .tokenReturn (0x600 - 1), .ledgerCommission default (65536 - 1), .ledgerClear default (65536 - 1), .captureExport default (65536 - 1), .leaseTimeout (16 - 1)] : List Instr), i.wf = true := by decide +kernel

theorem test_wf_accepts_3 : ∀ i ∈ ([.ptpSync (2 - 1) default, .ptpFollowUp (2 - 1) default default default, .ptpAnnounce (2 - 1) default, .ptpPdelayReq (2 - 1) default default default, .ptpPdelayResp (2 - 1) default default default default, .announceTimeout (2 - 1), .ethLink (2 - 1) default (3 - 1), .prpLanFault (2 - 1), .svFrameReceived (2 - 1) default, .eventMessageReceived (2 - 1) default, .mgmtFrame (2 - 1) default, .svPublish (128 - 1), .eventMessageRepeat (128 - 1), .eventContextExpiry (128 - 1), .portClockReceived (2 - 1), .trainingAdvance (2 - 1) default, .trainingTimeout (2 - 1), .recoveryEntry (2 - 1) default, .recoveryDone (2 - 1) default, .cycleMarkReceived (2 - 1) default default (76800 - 1) (33 - 1), .managementSlotReceived (2 - 1) (List.replicate 1016 .violation), .unitSlotReceived (2 - 1) 63 (List.replicate 232 .violation), .unitSlotReceived (2 - 1) 1 (List.replicate 232 .violation), .slotLoss 63, .slotLoss 1, .chainRewalk default (65536 - 1), .remoteTransaction (8 - 1) (List.replicate 16 0), .remoteAnswer (8 - 1) (List.replicate 16 0), .remoteTimeout (8 - 1), .feedOutOfRange (2 - 1) default, .feedInRange (2 - 1) default, .hostRead default (List.replicate 9 0), .hostWrite default (List.replicate 9 0), .hostQuadRead default (List.replicate 9 0), .hostQuadWrite default (List.replicate 9 0), .badCommand default (List.replicate 9 0), .frameEndedShort default (9 - 1), .registerWrite default (65536 - 1) default, .pairSelfTest default (65536 - 1), .foregroundAfeCalibration default (65536 - 1)] : List Instr), i.wf = true := by decide +kernel

theorem test_wf_accepts_4 : ∀ i ∈ ([.mramScrub default (65536 - 1), .breakerWearReset default (65536 - 1), .jobCancel default (65536 - 1), .leafGated (5 - 1), .feedRise (2 - 1) default, .railFault (9 - 1), .counterBlockWrite ((2 ^ 56) - 1), .persistenceWake ((2 ^ 56) - 1), .wakeTimer ((2 ^ 56) - 1), .feedWake (2 - 1), .ssRowSpared (512 - 1) 2, .ssRowSpared (512 - 1) 1, .mramRowSpared (16384 - 1) default, .localCycle (2 - 1)] : List Instr), i.wf = true := by decide +kernel

/-! ### The hypotheses of the statements can be met -/

theorem grants_write {s : State} {cls : KeyClass} {a : Nat} (h : (targetOf a).any (fun t => s.may cls a (romWrite t) 1) = true) : s.grantsWrite cls a := by
  unfold State.grantsWrite
  cases q : targetOf a with
  | none => rw [q] at h; exact absurd h (by simp)
  | some t => rw [q] at h; simpa using h

theorem may_write {s : State} {cls : KeyClass} {a : Nat}
    (h : s.pathUp cls = true ∧ s.pwr.pf = PfStage.none ∧ s.sys.st ≠ OpState.boot ∧ (targetOf a).any (fun t => s.may cls a (romWrite t) 1) = true) : s.mayWrite cls a :=
  ⟨h.1, h.2.1, h.2.2.1, grants_write h.2.2.2⟩

theorem may_read {s : State} {cls : KeyClass} {a : Nat}
    (h : s.pathUp cls = true ∧ s.pwr.pf = PfStage.none ∧ (targetOf a).any (fun t => s.may cls a (romRead t) 0) = true) : s.mayRead cls a := by
  refine ⟨h.1, h.2.1, ?_⟩
  cases q : targetOf a with
  | none => have h := h.2.2; rw [q] at h; exact absurd h (by simp)
  | some t => have h := h.2.2; rw [q] at h; simpa using h

theorem mask_ok {a : Nat} (h : (match targetOf a with | some (.reg r) => decide (r.mask ≠ 0) | _ => true) = true) : ∀ r, targetOf a = some (.reg r) → r.mask ≠ 0 := by
  intro r q; rw [q] at h; simpa using h

/-- A module with one attempt on pair 3. -/
def wAtt (x : AttSt) : State := { up with pe := { up.pe with place := [{ pair := some 3, charge := 10 }], att := [{ pl := 0, pair := 3, st := x, bnets := [], anets := [], els := [], evs := [] }] } }

/-- A module whose second bank is as given. -/
def wBank (x : Bank) : State := { up with afe := { up.afe with banks := [{ map := [], spare := none }, x] } }

/-- Bytes with their CRC-32C after them. -/
def sealB (l : List Byte) : List Byte := l ++ b4 (crc32c l)

/-- Words with their CRC-32C after them. -/
def sealW (l : List Word) : List Word := l ++ [BitVec.ofNat 32 (crc32c (l.flatMap (fun w => b4 w.toNat)))]

/-- A request of nine bytes with its CRC. -/
def req (cmd a : Nat) (d : Word) : List Byte :=
  let b := b1 cmd ++ (b2 a).reverse ++ (b4 d.toNat).reverse
  b ++ (b2 (crc16 b)).reverse

/-! ### A smallest image (R212-R219): required sections only, no element -/

/-- Its header up to the CRC, with every revision bit set. -/
def imgHead : List Byte := [0x5A#8, 0x58#8, 0x53#8, 0x49#8] ++ b2 0x0100 ++ b2 4 ++ b4 424 ++ b2 0x6340 ++ b2 0xFFFF ++ b4 42 ++ b4 0 ++ b2 1 ++ b1 1 ++ b1 0 ++ zeros 32

/-- CHANMAP, FILTER with preset 2, ELEMENTS with one group, NETS without a net. -/
def imgBody : List Byte :=
  b2 1 ++ b2 0 ++ b4 292 ++ (b1 50 ++ b1 0 ++ b1 0xFF ++ b1 10 ++ zeros 288) ++
  b2 2 ++ b2 0 ++ b4 8 ++ (b1 2 ++ zeros 7) ++
  b2 4 ++ b2 0 ++ b4 16 ++ (zeros 3 ++ b1 1 ++ zeros 12) ++
  b2 5 ++ b2 0 ++ b4 8 ++ zeros 8

/-- The image; both CRC-32C values are written out. -/
def img : List Byte := imgHead ++ b4 1671239678 ++ imgBody ++ b4 3387498745

/-- Its hallmark block. -/
def hall : List Byte := b4 0x4B4D585A ++ b4 42 ++ b4 424 ++ b4 3387498745 ++ zeros 44 ++ b4 3592290685

/-- Cells that hold bytes from an offset upward. -/
def cells (a : Nat) (l : List Byte) : List Host.Cell := (l.zipIdx a).filterMap (fun p => if p.1 = 0 then none else some (p.2, p.1))

/-- A state whose slot A holds the image under its hallmark. -/
def loaded (s : State) : State := { s with mram := cells 0 img ++ cells 0x17FFC0 hall }

theorem loaded_slot : (loaded up).hallSet 0 = true ∧ (loaded up).hallOk 0 = true ∧ (loaded up).slotImage 0 = img ∧ (loaded up).slotLen 0 = 424 := by
  set_option maxRecDepth 1000000 in decide +kernel

theorem rev_runs : (field img 0x0E 2).testBit Config.rev = true := by
  have h : ∀ r : Fin 16, (field img 0x0E 2).testBit r = true := by decide +kernel
  exact h Config.rev

/-- Every check of R231 passes on it. -/
theorem test_image_passes : (loaded up).checkImage img 424 = none := by
  unfold State.checkImage badHead
  rw [rev_runs]
  set_option maxRecDepth 1000000 in decide +kernel

/-- A standby whose slot A holds the image. -/
def wLoaded : State := loaded { inSt .standby with sch := { up.sch with image := true, cfg := { enable := true, hinge := some { peer := 2, pref := true, mask := 0, insts := [] } } }, hng := {  } }

theorem loaded_find : (List.range 2).find? (fun k => wLoaded.hallSet k && wLoaded.hallOk k && decide (field (wLoaded.slotImage k) 0x10 4 = 42) && (wLoaded.checkImage (wLoaded.slotImage k) (wLoaded.slotLen k)).isNone) = some 0 := by
  have h1 : wLoaded.slotImage 0 = img ∧ wLoaded.slotLen 0 = 424 := loaded_slot.2.2
  have h2 : wLoaded.checkImage img 424 = none := by
    unfold State.checkImage badHead
    rw [rev_runs]
    set_option maxRecDepth 1000000 in decide +kernel
  have h3 : (wLoaded.hallSet 0 && wLoaded.hallOk 0 && decide (field img 0x10 4 = 42)) = true := by
    set_option maxRecDepth 1000000 in decide +kernel
  have e : List.range 2 = [0, 1] := rfl
  rw [e, List.find?_cons, h1.1, h1.2, h2, h3]; rfl

/-- An invariant that reset meets and a step from it. -/
theorem witness_StepKeepsInv : ∃ s t : State, s.Inv ∧ step s = .next t :=
  ⟨State.reset, _, ⟨by decide +kernel, by decide +kernel, by decide +kernel, List.Pairwise.nil⟩, rfl⟩

/-- A feed that rises moves an OFF module to BOOT. -/
theorem witness_StateMoves : ∃ (c : Instr) (s t : State), exec c s = .next t ∧ t.sys.st ≠ s.sys.st :=
  ⟨.feedRise 0 6000, inSt .off, _, rfl, by decide +kernel⟩

/-- A good copy of a unit's slot meets the premises of R337. -/
theorem witness_good_slot : ∃ b : List Byte, SlotSealed 0xE4 b ∧ field b 0 1 = 5 ∧ (up.src 5).taken = false :=
  ⟨sealB (b1 5 ++ zeros 227), Facts.ChainRules.sealed_mk _ _ (by decide +kernel), by decide +kernel, by decide +kernel⟩

theorem witness_StepTakesFront :
    (∃ (c : Instr) (cs : List Instr) (s : State), s.pending = c :: cs) :=
  ⟨.healthOpen, [], { up with pending := [.healthOpen] }, by decide +kernel⟩

theorem witness_IdleStep :
    (∃ (s : State), s.pending = [] ∧ s.sys.st ≠ .off) :=
  ⟨up, by decide +kernel⟩

theorem witness_RequestWrites :
    (∃ (cls : KeyClass) (s : State), s.mayWrite cls 0x0004 ∧ s.sys.shutting = false) ∧
    (∃ (cls : KeyClass) (s : State), s.mayWrite cls 0x0004 ∧ s.sys.shutting = false) ∧
    (∃ (cls : KeyClass) (s : State), s.mayWrite cls 0x0004 ∧ s.sys.shutting = false) ∧
    (∃ (cls : KeyClass) (s : State), s.mayWrite cls 0x0004 ∧ s.sys.shutting = false) ∧
    (∃ (cls : KeyClass) (s : State), s.mayWrite cls 0x0004 ∧ s.sys.pend.isSome) ∧
    (∃ (cls : KeyClass) (code : Nat) (s : State), s.mayWrite cls 0x0004 ∧ code < 16 ∧ code ∉ [0, 2, 3, 5, 7]) :=
  ⟨⟨.host, up, may_write (by decide +kernel), by decide +kernel⟩,
   ⟨.chain, up, may_write (by decide +kernel), by decide +kernel⟩,
   ⟨.host, up, may_write (by decide +kernel), by decide +kernel⟩,
   ⟨.chain, up, may_write (by decide +kernel), by decide +kernel⟩,
   ⟨.host, { up with sys := { up.sys with st := .blocked, pend := some 2 } }, may_write (by decide +kernel), by decide +kernel⟩,
   ⟨.host, 15, up, may_write (by decide +kernel), by decide +kernel⟩⟩

theorem witness_RequestsTaken :
    (∃ (s : State) (code : Nat), s.sys.pend = some code ∧ s.canTake = true ∧ s.outrun = true) ∧
    (∃ (s : State) (code : Nat), s.sys.pend = some code ∧ s.canTake = true ∧ s.outrun = false ∧ stCode s.sys.st = code) ∧
    (∃ (s : State) (code : Nat), s.sys.pend = some code ∧ s.canTake = true ∧ s.outrun = false ∧ code = 2 ∧ s.sys.st = .inService ∧ s.tripAsserted = true) ∧
    (∃ (s : State) (code : Nat), s.sys.pend = some code ∧ s.canTake = true ∧ s.outrun = false ∧ code = 2 ∧ s.sys.st = .failsafe ∧ s.sys.causes ≠ []) ∧
    (∃ (s : State) (code : Nat), s.sys.pend = some code ∧ s.canTake = true ∧ s.outrun = false ∧ code = 3 ∧ s.sys.st = .blocked ∧ s.enabled = false) ∧
    (∃ (s : State) (code : Nat), s.sys.pend = some code ∧ s.canTake = true ∧ s.outrun = false ∧ code = 5 ∧ s.sys.st = .inService) ∧
    (∃ (s : State) (code : Nat), s.sys.pend = some code ∧ s.canTake = true ∧ s.outrun = false ∧ code = 3 ∧ s.sys.st = .blocked ∧ s.enabled = true ∧ s.hinged = false) ∧
    (∃ (s : State) (code : Nat), s.sys.pend = some code ∧ s.canTake = true ∧ s.outrun = false ∧ code = 2 ∧ (s.sys.st = .standby ∨ s.sys.st = .test ∨ (s.sys.st = .inService ∧ s.tripAsserted = false) ∨ (s.sys.st = .failsafe ∧ s.sys.causes = []))) ∧
    (∃ (s : State) (code : Nat), s.sys.pend = some code ∧ s.canTake = true ∧ s.outrun = false ∧ code = 5 ∧ s.sys.st = .blocked) ∧
    (∃ (s : State) (code : Nat), s.sys.pend = some code ∧ s.canTake = true ∧ s.outrun = false ∧ code = 7 ∧ (s.sys.st = .blocked ∨ s.sys.st = .failsafe) ∧ s.tripAsserted = false) :=
  ⟨⟨{ up with sys := { up.sys with reqDue := true, st := .blocked, pend := some 2, autoTick := some 0 } }, 2, by decide +kernel⟩,
   ⟨{ up with sys := { up.sys with reqDue := true, st := .blocked, pend := some 2 } }, 2, by decide +kernel⟩,
   ⟨{ inSt .inService with sys := { up.sys with reqDue := true, st := .inService, pend := some 2 }, regs := [(0x2CC0, 0x10000#32)], fio := { up.fio with dos := [{ cmd := true }] ++ List.replicate 11 {} } }, 2, by decide +kernel⟩,
   ⟨{ up with sys := { up.sys with reqDue := true, st := .failsafe, pend := some 2, causes := [4] } }, 2, by decide +kernel⟩,
   ⟨{ up with sys := { up.sys with reqDue := true, st := .blocked, pend := some 3 } }, 3, by decide +kernel⟩,
   ⟨{ up with sys := { up.sys with reqDue := true, st := .inService, pend := some 5 } }, 5, by decide +kernel⟩,
   ⟨{ { up with sys := { up.sys with reqDue := true, st := .blocked, pend := some 3 } } with sch := { up.sch with image := true, cfg := { enable := true } } }, 3, by decide +kernel⟩,
   ⟨{ up with sys := { up.sys with reqDue := true, st := .standby, pend := some 2 } }, 2, by decide +kernel⟩,
   ⟨{ up with sys := { up.sys with reqDue := true, st := .blocked, pend := some 5 } }, 5, by decide +kernel⟩,
   ⟨{ up with sys := { up.sys with reqDue := true, st := .failsafe, pend := some 7 } }, 7, by decide +kernel⟩⟩

theorem witness_FailsafeMoves :
    (∃ (cause : Nat) (s : State), s.sys.st ∈ [.blocked, .inService, .standby, .test] ∧ cause ∈ s.sys.causes ∧ s.sys.shutting = false) ∧
    (∃ (s : State), s.sys.st = .failsafe ∧ s.sys.causes = [] ∧ s.sys.shutting = false ∧ s.sys.failFrom = .inService ∧ s.hinged = false) ∧
    (∃ (s : State), s.sys.st = .failsafe ∧ s.sys.causes = [] ∧ s.sys.shutting = false ∧ (s.sys.failFrom = .blocked ∨ s.sys.failFrom = .test)) ∧
    (∃ (s : State), s.sys.st ∈ [.blocked, .inService, .standby, .test, .failsafe]) ∧
    (∃ (s : State), s.sys.st = .boot ∧ s.alive = true) ∧
    (∃ (s : State), s.sys.st ∉ [.inService, .standby]) :=
  ⟨⟨4, { up with sys := { up.sys with st := .test, causes := [4] } }, by decide +kernel⟩,
   ⟨{ up with sys := { up.sys with st := .failsafe, failFrom := .inService } }, by decide +kernel⟩,
   ⟨{ up with sys := { up.sys with st := .failsafe, failFrom := .test } }, by decide +kernel⟩,
   ⟨inSt .failsafe, by decide +kernel⟩,
   ⟨inSt .boot, by decide +kernel⟩,
   ⟨inSt .test, by decide +kernel⟩⟩

theorem witness_TickAndUpdate :
    (∃ (s : State), s.ticking = true) ∧
    (∃ (s : State), s.ticking = true ∧ s.pe.updDue = true) :=
  ⟨⟨up, by decide +kernel⟩,
   ⟨{ up with pe := { updDue := true } }, by decide +kernel⟩⟩

theorem witness_EngineGate :
    (∃ (pl : Nat) (cycles : Nat) (s : State) (a : Attempt), s.attOf pl = some a ∧ (a.st = .running ∨ a.st = .reexec) ∧ cycles ≤ (nth s.pe.place pl).charge) ∧
    (∃ (pl : Nat) (cycles : Nat) (s : State) (a : Attempt), s.attOf pl = some a ∧ a.st = .running ∧ (nth s.pe.place pl).charge < cycles ∧ a.pair < 16 ∧ s.pe.roles.length = 16) ∧
    (∃ (pl : Nat) (gap : Nat) (s : State) (a : Attempt), s.attOf pl = some a ∧ a.st = .running ∧ 64 < gap ∧ a.pair < 16 ∧ s.pe.roles.length = 16) ∧
    (∃ (pl : Nat) (s : State) (a : Attempt), s.attOf pl = some a ∧ a.st = .reexecWait ∧ s.clk.level ≠ 2 ∧ s.clk.sysSrc = 0 ∧ s.clk.op = true) ∧
    (∃ (p : Nat) (s : State), p < 16 ∧ s.pe.roles.length = 16 ∧ s.dm.map.pairs.length = 16 ∧ (s.pe.tests.find? (fun t => t.1 = p) = some (p, .isolation))) ∧
    (∃ (p : Nat) (s : State), (s.pe.tests.find? (fun t => t.1 = p) = some (p, .background))) ∧
    (∃ (p : Nat) (s : State), p < 16 ∧ s.role p = .spare ∧ (∀ t ∈ s.pe.tests, t.1 ≠ p)) ∧
    (∃ (p : Nat) (i : Nat) (q : Nat) (u : List Nat) (r : List Nat) (s : State), s.pe.swaps = p :: u ∧ (s.pe.place.findIdx? (fun x => decide (x.pair = some p)) = some i) ∧ s.spares = q :: r ∧ p < 16 ∧ s.pe.roles.length = 16 ∧ s.role p ≠ .spare) :=
  ⟨⟨0, 10, wAtt .running, { pl := 0, pair := 3, st := .running, bnets := [], anets := [], els := [], evs := [] }, by decide +kernel⟩,
   ⟨0, 11, wAtt .running, { pl := 0, pair := 3, st := .running, bnets := [], anets := [], els := [], evs := [] }, by decide +kernel⟩,
   ⟨0, 65, wAtt .running, { pl := 0, pair := 3, st := .running, bnets := [], anets := [], els := [], evs := [] }, by decide +kernel⟩,
   ⟨0, wAtt .reexecWait, { pl := 0, pair := 3, st := .reexecWait, bnets := [], anets := [], els := [], evs := [] }, by decide +kernel⟩,
   ⟨15, { up with pe := { tests := [(15, .isolation)] } }, by decide +kernel⟩,
   ⟨15, { up with pe := { tests := [(15, .background)] } }, by decide +kernel⟩,
   ⟨15, { up with pe := { roles := List.replicate 16 .spare } }, by decide +kernel⟩,
   ⟨0, 0, 1, [], [], { up with pe := { roles := [.placed, .spare] ++ List.replicate 14 .placed, place := [{ pair := some 0 }], swaps := [0] } }, by decide +kernel⟩⟩

theorem witness_AnnealRotation :
    (∃ (b : Nat) (sp : Nat) (s : State), b < s.afe.banks.length ∧ coreNo b sp < s.afe.cores.length ∧ (s.bank b).spare = some sp ∧ s.canRotate b = true ∧ (s.bank b).phase = .waiting) ∧
    (∃ (b : Nat) (sp : Nat) (serv : Nat) (m : CompareIn) (s : State), b < s.afe.banks.length ∧ coreNo b sp < s.afe.cores.length ∧ coreNo b serv < s.afe.cores.length ∧ sp ≠ serv ∧ (s.bank b).phase = .compare ∧ (s.bank b).kind = .rotation ∧ (s.bank b).restart = false ∧ (s.bank b).refdacFail = false ∧ (s.bank b).shLeft = 0 ∧ 65 ≤ (s.bank b).shCmp ∧ (s.bank b).rotCh < (s.bank b).map.length ∧ (s.bank b).spare = some sp ∧ (s.bank b).map.getD (s.bank b).rotCh none = some serv ∧ s.coreGood (coreNo b serv) = true ∧ (s.afeCh (8 * b + (s.bank b).rotCh)).suspect = false ∧ coresAgree m (decide ((s.bank b).kEff = 0)) = true) ∧
    (∃ (b : Nat) (sp : Nat) (m : CalIn) (s : State), b < s.afe.banks.length ∧ coreNo b sp < s.afe.cores.length ∧ (s.bank b).spare = some sp ∧ (s.bank b).phase = .calibrate ∧ (s.bank b).restart = false ∧ (s.bank b).void = false ∧ s.coreGood (coreNo b sp) = true ∧ calPasses m = true ∧ bitAt (s.bankCtl b) 5 = true) ∧
    (∃ (c : Nat) (sp : Nat) (j : Nat) (s : State), c / 9 < s.afe.banks.length ∧ c < s.afe.cores.length ∧ c < s.dm.map.cores.length ∧ s.coreGood c = true ∧ (s.bank (c / 9)).spare = some sp ∧ ((List.range 8).find? (fun j => (s.bank (c / 9)).map.getD j none = some (c % 9)) = some j) ∧ coreNo (c / 9) sp ≠ c) :=
  ⟨⟨1, 8, up, by decide +kernel⟩,
   ⟨1, 8, 7, { words := List.replicate 64 (0, 0), ampSpare := 1, phSpare := 0, ampServ := 1, phServ := 0 }, { up with afe := { banks := List.replicate 2 { map := (List.range 8).map some, spare := some 8, phase := .compare, rotCh := 7, shCmp := 65 } } }, by decide +kernel⟩,
   ⟨0, 8, { offset := 2097, gainPpm := -10000, corr := [0, 0, 0, 0, 0], residuals := [50, 0, 0, 0, -50], noise := 4 }, { up with regs := [(0x1440, 0x20#32)], afe := { banks := List.replicate 2 { map := (List.range 8).map some, spare := some 8, phase := .calibrate } } }, by decide +kernel⟩,
   ⟨16, 8, 7, up, by decide +kernel⟩⟩

theorem witness_PilotAndRefdac :
    (∃ (c : Nat) (s : State), c < s.afe.ch.length ∧ (s.afeCh c).gain < (s.afeCh c).base.length ∧ s.baseline c = none ∧ (s.bank (c / 8)).kEff ≠ 0) ∧
    (∃ (c : Nat) (amp : Rat) (ph : Rat) (p : Rat × Rat) (s : State), c < s.afe.ch.length ∧ s.baseline c = some p ∧ bitAt (s.reg (0x1400 + 4 * c)) 2 = false ∧ (s.bank (c / 8)).kEff ≠ 0 ∧ inWindow (s.bankCtl (c / 8)) p amp ph = false ∧ (s.afeCh c).suspect = false) ∧
    (∃ (c : Nat) (amp : Rat) (ph : Rat) (p : Rat × Rat) (s : State), c < s.afe.ch.length ∧ s.baseline c = some p ∧ bitAt (s.reg (0x1400 + 4 * c)) 2 = false ∧ (s.bank (c / 8)).kEff ≠ 0 ∧ inWindow (s.bankCtl (c / 8)) p amp ph = true ∧ (s.afeCh c).suspect = true ∧ (s.afeCh c).inside < 2) ∧
    (∃ (c : Nat) (amp : Rat) (ph : Rat) (p : Rat × Rat) (s : State), c < s.afe.ch.length ∧ s.baseline c = some p ∧ bitAt (s.reg (0x1400 + 4 * c)) 2 = false ∧ (s.bank (c / 8)).kEff ≠ 0 ∧ inWindow (s.bankCtl (c / 8)) p amp ph = true ∧ (s.afeCh c).suspect = true ∧ (s.afeCh c).inside = 2) ∧
    (∃ (c : Nat) (s : State), (s.bank (c / 8)).kEff = 0) ∧
    (∃ (b : Nat) (i : Nat) (sp : Nat) (s : State), b < s.afe.banks.length ∧ coreNo b sp < s.afe.cores.length ∧ s.suspectCh b = some i ∧ s.canRotate b = true ∧ (s.bank b).phase = .waiting ∧ (s.bank b).spare = some sp) ∧
    (∃ (b : Nat) (pt : Nat) (sp : Nat) (err : Rat) (s : State), b < s.afe.banks.length ∧ coreNo b sp < s.afe.cores.length ∧ pt < 5 ∧ refdacOk err = false ∧ (s.bank b).refdacFail = false ∧ (s.bank b).spare = some sp) ∧
    (∃ (b : Nat) (errs : List Rat) (s : State), (s.bank b).refdacFail = true ∧ errs.length = 5 ∧ (∀ e ∈ errs, refdacOk e = true)) ∧
    (∃ (b : Nat) (sp : Nat) (s : State), (s.bank b).resume = true ∧ (s.bank b).phase = .stopped ∧ (s.bank b).spare = some sp) :=
  ⟨⟨15, wPilot {}, by decide +kernel⟩,
   ⟨15, 2, 0, (1, 0), wPilot { base := [some (1, 0), none, none, none] }, by decide +kernel⟩,
   ⟨15, 1, 0, (1, 0), wPilot { base := [some (1, 0), none, none, none], suspect := true, inside := 1 }, by decide +kernel⟩,
   ⟨15, 1, 0, (1, 0), wPilot { base := [some (1, 0), none, none, none], suspect := true, inside := 2 }, by decide +kernel⟩,
   ⟨15, up, by decide +kernel⟩,
   ⟨1, 7, 8, wPilot { suspect := true }, by decide +kernel⟩,
   ⟨1, 4, 8, 3, up, by decide +kernel⟩,
   ⟨1, [5 / 2, 0, 0, 0, -5 / 2], wBank { map := [], spare := some 8, refdacFail := true }, by decide +kernel⟩,
   ⟨1, 8, wBank { map := [], spare := some 8, phase := .stopped, resume := true }, by decide +kernel⟩⟩

theorem witness_PilotFailure :
    (∃ (s : State), (7 ∈ s.sys.causes ↔ 2 < (s.afe.ch.filter (fun x => x.suspect)).length)) :=
  ⟨{ up with afe := { up.afe with ch := List.replicate 2 { suspect := true } ++ List.replicate 14 { base := [some (1, 0), none, none, none] } } }, by decide +kernel⟩

theorem witness_BoundarySettings :
    (∃ (cls : KeyClass) (v : Word) (f : FltSet) (s : State), s.mayWrite cls 0x1800 ∧ fltOfWord v = some f ∧ fltCheck f ≠ 0) ∧
    (∃ (cls : KeyClass) (v : Word) (f : FltSet) (s : State), s.mayWrite cls 0x1800 ∧ fltOfWord v = some f ∧ fltCheck f = 0 ∧ f.d1 * f.d2 ≠ s.flt.eff.d1 * s.flt.eff.d2) ∧
    (∃ (cls : KeyClass) (v : Word) (f : FltSet) (s : State), s.mayWrite cls 0x1800 ∧ fltOfWord v = some f ∧ fltCheck f = 0 ∧ f.d1 * f.d2 = s.flt.eff.d1 * s.flt.eff.d2 ∧ s.actSpan = false ∧ sameFlt f s.flt.eff = false) ∧
    (∃ (f : FltSet) (s : State), s.ticking = true ∧ s.flt.pend = some f) ∧
    (∃ (c : Nat) (g : Nat) (s : State), s.ticking = true ∧ c < s.afe.ch.length ∧ c < s.flt.ch.length ∧ (s.afeCh c).gainPend = some g ∧ (s.afeCh c).cal = false) ∧
    (∃ (s : State), s.ticking = true ∧ (s.defer.map Prod.fst).Nodup) :=
  ⟨⟨.host, 0#32, { l1 := 1, d1 := 1, l2 := 1, d2 := 1, preset := 0 }, up, may_write (by decide +kernel), by decide +kernel⟩,
   ⟨.chain, 0x01000000#32, { l1 := 256, d1 := 128, l2 := 2, d2 := 2, preset := 1 }, up, may_write (by decide +kernel), by decide +kernel⟩,
   ⟨.chain, 0x05000000#32, { l1 := 128, d1 := 128, l2 := 1, d2 := 1, preset := 5 }, up, may_write (by decide +kernel), by decide +kernel⟩,
   ⟨{ l1 := 64, d1 := 32, l2 := 4, d2 := 4, preset := 0 }, { up with flt := { running := true, pend := some { l1 := 64, d1 := 32, l2 := 4, d2 := 4, preset := 0 } } }, by decide +kernel⟩,
   ⟨15, 3, wPilot { gainPend := some 3 }, by decide +kernel⟩,
   ⟨{ up with defer := [(0x2C40, 0x00000005#32)] }, by decide +kernel⟩⟩

theorem witness_AuxiliaryConverter :
    (∃ (n : Nat) (convs : List Rat) (s : State), s.auxSeek.auxEntryGo n convs = true ∧ n < s.aux.res.length) ∧
    (∃ (cls : KeyClass) (s : State), s.mayWrite cls 0x1C24 ∧ s.aux.injPend = false) ∧
    (∃ (cls : KeyClass) (s : State), s.mayWrite cls 0x1C24 ∧ s.aux.injPend = true ∧ s.injJoins 2 = true) ∧
    (∃ (cls : KeyClass) (s : State), s.mayWrite cls 0x1C24 ∧ s.aux.injPend = true ∧ s.injJoins 2 = false) ∧
    (∃ (s : State), s.aux.injPend = true ∧ s.aux.injRun = false) ∧
    (∃ (convs : List (List Rat)) (s : State), s.injGo convs = true) ∧
    (∃ (s : State), s.aux.calBusy = false ∧ s.dark = false ∧ s.aux.calOt + bitsOf (s.reg 0x1C00) 15 8 * 1000000 ≤ s.pwr.ot) ∧
    (∃ (s : State), s.aux.calBusy = true ∧ s.aux.injRun = false ∧ s.aux.injPend = false ∧ s.aux.calStep < 3) ∧
    (∃ (o : Int) (g : Int) (s : State), s.aux.calBusy = true ∧ s.aux.injRun = false ∧ s.aux.injPend = false ∧ 3 ≤ s.aux.calStep ∧ o.natAbs ≤ 64 ∧ g.natAbs ≤ 10000) ∧
    (∃ (o : Int) (g : Int) (s : State), s.aux.calBusy = true ∧ s.aux.injRun = false ∧ s.aux.injPend = false ∧ 3 ≤ s.aux.calStep ∧ (64 < o.natAbs ∨ 10000 < g.natAbs)) ∧
    (∃ (s : State), s.aux.calBusy = true ∧ s.aux.calLate = false ∧ s.aux.calOt + 60000000 ≤ s.pwr.ot) :=
  ⟨⟨0, List.replicate (up.auxConvs 0) 1, up, by decide +kernel⟩,
   ⟨.net, { up with aux := { injRun := true } }, may_write (by decide +kernel), by decide +kernel⟩,
   ⟨.host, { up with aux := { injPend := true, injSrc := 1, injAt := 1000000 } }, may_write (by decide +kernel), by decide +kernel⟩,
   ⟨.host, { up with aux := { injRun := true, injPend := true, injSrc := 2 } }, may_write (by decide +kernel), by decide +kernel⟩,
   ⟨{ up with aux := { injPend := true } }, by decide +kernel⟩,
   ⟨[], { up with aux := { injRun := true } }, by decide +kernel⟩,
   ⟨{ up with regs := [(0x1C00, 0x100#32)] }, by decide +kernel⟩,
   ⟨{ up with aux := { calBusy := true, calStep := 2 } }, by decide +kernel⟩,
   ⟨-64, 10000, { up with aux := { calBusy := true, calStep := 3 } }, by decide +kernel⟩,
   ⟨65, 0, { up with aux := { calBusy := true, calStep := 3 } }, by decide +kernel⟩,
   ⟨{ up with pwr := { up.pwr with ot := 60000000 }, aux := { calBusy := true } }, by decide +kernel⟩⟩

theorem witness_StageTimers :
    (∃ (n : Nat) (s : State) (att : Attempt) (c : InstCfg) (e : ElemSt), s.holds att n [3, 4, 5, 6] c e ∧ (s.env att c).choice c 3 = 0 ∧ e.started = true ∧ e.operate = false ∧ (s.env att c).num c 5 ≤ (e.count : Rat) / (s.fp : Rat)) ∧
    (∃ (n : Nat) (s : State) (att : Attempt) (c : InstCfg) (e : ElemSt), s.holds att n [3, 4, 5, 6] c e ∧ (s.env att c).choice c 3 ≠ 0 ∧ e.started = true ∧ e.operate = false ∧ 1 ≤ e.integ) ∧
    (∃ (n : Nat) (s : State) (att : Attempt) (c : InstCfg) (e : ElemSt), s.holds att n [0x0A, 0x0B] c e ∧ (s.env att c).choice c 3 ≠ 1 ∧ e.started = true ∧ e.operate = false ∧ (s.env att c).num c 4 ≤ (e.count : Rat) / (s.fp : Rat)) ∧
    (∃ (n : Nat) (s : State) (att : Attempt) (c : InstCfg) (e : ElemSt), s.holds att n [0x0C] c e ∧ e.started = true ∧ e.operate = false ∧ (s.env att c).num c 3 ≤ (e.count : Rat) / (s.fp : Rat)) ∧
    (∃ (n : Nat) (s : State) (att : Attempt) (c : InstCfg) (e : ElemSt), s.holds att n [0x0D] c e ∧ (∃ k < 2, (nth e.ph k).on = true ∧ (nth e.ph k).hold ≠ 1 ∧ (s.env att c).num c (5 + 5 * k) ≤ ((nth e.ph k).cnt : Rat) / (s.fp : Rat))) ∧
    (∃ (n : Nat) (s : State) (att : Attempt) (c : InstCfg) (e : ElemSt), s.holds att n [0x0D] c e ∧ (∃ k < 2, (nth e.ph k).on = true ∧ (nth e.ph k).hold ≠ 1 ∧ (s.env att c).num c (5 + 5 * k) ≤ ((nth e.ph k).cnt : Rat) / (s.fp : Rat))) ∧
    (∃ (n : Nat) (s : State) (att : Attempt) (c : InstCfg) (e : ElemSt), s.holds att n [3, 4, 5, 6, 0x16] c e ∧ e.started = false ∧ (s.env att c).choice c 7 = 1 ∧ (s.env att c).num c 8 ≤ (e.rcount : Rat) / (s.fp : Rat) ∧ (e.integ ≠ 0 ∨ e.count ≠ 0)) ∧
    (∃ (n : Nat) (s : State) (att : Attempt) (c : InstCfg) (e : ElemSt), s.holds att n invalidKinds c e ∧ e.valid = false ∧ e.tout = false ∧ (s.env att c).num c 0 < (e.bad : Rat) / (s.fp : Rat)) ∧
    (∃ (n : Nat) (s : State) (att : Attempt) (c : InstCfg) (e : ElemSt), s.holds att n [0x16] c e ∧ e.started = true ∧ e.operate = false ∧ (s.env att c).ocDue c e = true ∧ e.tcount = 0 ∧ (s.env att c).num c 14 ≤ (e.count : Rat) / (s.fp : Rat) ∧ (∀ x ∈ c.zsiCodes, s.srcLost (x / 4) = false)) ∧
    (∃ (n : Nat) (s : State) (att : Attempt) (c : InstCfg) (e : ElemSt), s.holds att n [0x16] c e ∧ e.tcount = 1 ∧ (∀ x ∈ c.zsiCodes, x ∉ s.fst.netX)) :=
  ⟨⟨1, one 3 { num := 1, started := true, count := 9600 } (ones.set 3 0), att1 { num := 1, started := true, count := 9600 }, cfgOf 3 (ones.set 3 0), { num := 1, started := true, count := 9600 }, ⟨by decide +kernel, by decide +kernel, by decide +kernel, by decide +kernel, by decide +kernel, by decide +kernel⟩, by decide +kernel⟩,
   ⟨1, one 6 { num := 1, started := true, integ := 1 } (ones), att1 { num := 1, started := true, integ := 1 }, cfgOf 6 (ones), { num := 1, started := true, integ := 1 }, ⟨by decide +kernel, by decide +kernel, by decide +kernel, by decide +kernel, by decide +kernel, by decide +kernel⟩, by decide +kernel⟩,
   ⟨1, one 0x0B { num := 1, started := true, count := 9600 } (ones.set 3 0), att1 { num := 1, started := true, count := 9600 }, cfgOf 0x0B (ones.set 3 0), { num := 1, started := true, count := 9600 }, ⟨by decide +kernel, by decide +kernel, by decide +kernel, by decide +kernel, by decide +kernel, by decide +kernel⟩, by decide +kernel⟩,
   ⟨1, one 0x0C { num := 1, started := true, count := 9600 } (ones), att1 { num := 1, started := true, count := 9600 }, cfgOf 0x0C (ones), { num := 1, started := true, count := 9600 }, ⟨by decide +kernel, by decide +kernel, by decide +kernel, by decide +kernel, by decide +kernel, by decide +kernel⟩, by decide +kernel⟩,
   ⟨1, one 0x0D { num := 1, ph := [{}, { on := true, cnt := 9600 }] } (ones), att1 { num := 1, ph := [{}, { on := true, cnt := 9600 }] }, cfgOf 0x0D (ones), { num := 1, ph := [{}, { on := true, cnt := 9600 }] }, ⟨by decide +kernel, by decide +kernel, by decide +kernel, by decide +kernel, by decide +kernel, by decide +kernel⟩, by decide +kernel⟩,
   ⟨1, one 0x0D { num := 1, ph := [{}, { on := true, cnt := 9600 }] } (ones), att1 { num := 1, ph := [{}, { on := true, cnt := 9600 }] }, cfgOf 0x0D (ones), { num := 1, ph := [{}, { on := true, cnt := 9600 }] }, ⟨by decide +kernel, by decide +kernel, by decide +kernel, by decide +kernel, by decide +kernel, by decide +kernel⟩, by decide +kernel⟩,
   ⟨1, one 0x16 { num := 1, rcount := 9600, count := 3 } (ones.set 7 1), att1 { num := 1, rcount := 9600, count := 3 }, cfgOf 0x16 (ones.set 7 1), { num := 1, rcount := 9600, count := 3 }, ⟨by decide +kernel, by decide +kernel, by decide +kernel, by decide +kernel, by decide +kernel, by decide +kernel⟩, by decide +kernel⟩,
   ⟨1, one 0x1A { num := 1, valid := false, bad := 9601 } (ones), att1 { num := 1, valid := false, bad := 9601 }, cfgOf 0x1A (ones), { num := 1, valid := false, bad := 9601 }, ⟨by decide +kernel, by decide +kernel, by decide +kernel, by decide +kernel, by decide +kernel, by decide +kernel⟩, by decide +kernel⟩,
   ⟨1, one 0x16 { num := 1, started := true, count := 9600, integ := 1 } (ones), att1 { num := 1, started := true, count := 9600, integ := 1 }, cfgOf 0x16 (ones), { num := 1, started := true, count := 9600, integ := 1 }, ⟨by decide +kernel, by decide +kernel, by decide +kernel, by decide +kernel, by decide +kernel, by decide +kernel⟩, by decide +kernel⟩,
   ⟨1, one 0x16 { num := 1, tcount := 1 } (ones), att1 { num := 1, tcount := 1 }, cfgOf 0x16 (ones), { num := 1, tcount := 1 }, ⟨by decide +kernel, by decide +kernel, by decide +kernel, by decide +kernel, by decide +kernel, by decide +kernel⟩, by decide +kernel⟩⟩

theorem witness_ElementTimers :
    (∃ (n : Nat) (s : State) (att : Attempt) (c : InstCfg) (e : ElemSt), ∃ (ph : _), s.holds att n [7] c e ∧ e.mode = 1 ∧ (s.env att c).num c 6 ≤ (e.tcount : Rat) / (s.fp : Rat) ∧ (ph = e.ph.map (fun p => { p with dir := if (s.env att c).choice c 7 = 1 ∧ p.on = true then 1 else 0 }))) ∧
    (∃ (n : Nat) (i : Nat) (s : State) (att : Attempt) (c : InstCfg) (e : ElemSt), s.holds att n [0x0F] c e ∧ i < e.ph.length ∧ (nth e.ph i).on = true ∧ (nth e.ph i).hold ≠ 0 ∧ (s.env att c).num c 5 ≤ ((nth e.ph i).hold : Rat) / (s.fp : Rat)) ∧
    (∃ (n : Nat) (i : Nat) (s : State) (att : Attempt) (c : InstCfg) (e : ElemSt), s.holds att n [0x0F] c e ∧ i < e.ph.length ∧ (nth e.ph i).on = true ∧ (nth e.ph i).hold ≠ 0 ∧ (s.env att c).num c 5 ≤ ((nth e.ph i).hold : Rat) / (s.fp : Rat)) ∧
    (∃ (n : Nat) (i : Nat) (s : State) (att : Attempt) (c : InstCfg) (e : ElemSt), ∃ (j : _), s.holds att n [0x0F] c e ∧ i < e.ph.length ∧ (nth e.ph i).on = true ∧ (nth e.ph i).hold ≠ 0 ∧ (s.env att c).num c 5 ≤ ((nth e.ph i).hold : Rat) / (s.fp : Rat) ∧ j ≠ i) ∧
    (∃ (n : Nat) (i : Nat) (s : State) (att : Attempt) (c : InstCfg) (e : ElemSt), s.holds att n [0x0F] c e ∧ i < e.ph.length ∧ (nth e.ph i).cnt = 1) ∧
    (∃ (n : Nat) (i : Nat) (s : State) (att : Attempt) (c : InstCfg) (e : ElemSt), s.holds att n [0x0F] c e ∧ i < e.ph.length ∧ (nth e.ph i).cnt = 1) ∧
    (∃ (n : Nat) (s : State) (att : Attempt) (c : InstCfg) (e : ElemSt), s.holds att n [0x10] c e ∧ e.mode = 0 ∧ e.count ≠ 0 ∧ (s.env att c).num c 2 ≤ (e.count : Rat) / (s.fp : Rat)) ∧
    (∃ (n : Nat) (s : State) (att : Attempt) (c : InstCfg) (e : ElemSt), s.holds att n [0x10] c e ∧ e.mode = 2 ∧ ((s.env att c).num c 3 ≤ (e.tcount : Rat) / (s.fp : Rat) ∨ (e.rcount ≠ 0 ∧ (s.env att c).num c 5 ≤ (e.rcount : Rat) / (s.fp : Rat)))) ∧
    (∃ (n : Nat) (s : State) (att : Attempt) (c : InstCfg) (e : ElemSt), s.holds att n [0x11] c e ∧ e.operate = true ∧ (∀ r ∈ c.ins.drop 2, (s.env att c).ref r = false) ∧ (s.env att c).num c 2 ≤ (e.count : Rat) / (s.fp : Rat) ∧ ((s.env att c).choice c 3 = 0 ∨ (s.env att c).ref (c.inp 1) = false ∨ (s.env att c).ref (c.inp 0) = true)) ∧
    (∃ (n : Nat) (s : State) (att : Attempt) (c : InstCfg) (e : ElemSt), s.holds att n [0x13] c e ∧ e.started = true ∧ e.count ≠ 0 ∧ e.shot ≠ 1 ∧ (s.env att c).num c 4 ≤ (e.count : Rat) / (s.fp : Rat)) ∧
    (∃ (n : Nat) (s : State) (att : Attempt) (c : InstCfg) (e : ElemSt), s.holds att n [0x13] c e ∧ e.started = true ∧ e.count ≠ 0 ∧ e.operate = false ∧ (s.env att c).num c 5 ≤ (e.count : Rat) / (s.fp : Rat)) ∧
    (∃ (n : Nat) (s : State) (att : Attempt) (c : InstCfg) (e : ElemSt), s.holds att n [0x18] c e ∧ e.started = true ∧ (s.env att c).num c 8 ≤ (e.count : Rat) / (s.fp : Rat) ∧ e.operate ≠ !(s.env att c).lockedOut c 2) ∧
    (∃ (n : Nat) (s : State) (att : Attempt) (c : InstCfg) (e : ElemSt), s.holds att n [0x19] c e ∧ e.started = true ∧ e.operate = false ∧ (s.env att c).num c 2 ≤ (e.count : Rat) / (s.fp : Rat)) ∧
    (∃ (n : Nat) (s : State) (att : Attempt) (c : InstCfg) (e : ElemSt), s.holds att n [0x19] c e ∧ e.mode = 1 ∧ 1 ≤ (e.rcount : Rat) / (s.fp : Rat)) ∧
    (∃ (n : Nat) (s : State) (att : Attempt) (c : InstCfg) (e : ElemSt), s.holds att n [0x23, 0x24, 0x25] c e ∧ e.count ≠ 0 ∧ (s.env att c).num c 2 ≤ (e.count : Rat) / (s.fp : Rat) ∧ c.kind = 0x23 ∧ e.operate = false) ∧
    (∃ (n : Nat) (s : State) (att : Attempt) (c : InstCfg) (e : ElemSt), s.holds att n [0x23, 0x24, 0x25] c e ∧ e.count ≠ 0 ∧ (s.env att c).num c 2 ≤ (e.count : Rat) / (s.fp : Rat) ∧ c.kind = 0x24) ∧
    (∃ (n : Nat) (s : State) (att : Attempt) (c : InstCfg) (e : ElemSt), s.holds att n [0x23, 0x24, 0x25] c e ∧ e.count ≠ 0 ∧ (s.env att c).num c 2 ≤ (e.count : Rat) / (s.fp : Rat) ∧ c.kind = 0x25) :=
  ⟨⟨1, one 7 { num := 1, mode := 1, tcount := 9600 } (ones), att1 { num := 1, mode := 1, tcount := 9600 }, cfgOf 7 (ones), { num := 1, mode := 1, tcount := 9600 }, [], ⟨by decide +kernel, by decide +kernel, by decide +kernel, by decide +kernel, by decide +kernel, by decide +kernel⟩, by decide +kernel⟩,
   ⟨1, 2, one 0x0F { num := 1, ph := [{}, {}, { on := true, hold := 9600 }] } (ones), att1 { num := 1, ph := [{}, {}, { on := true, hold := 9600 }] }, cfgOf 0x0F (ones), { num := 1, ph := [{}, {}, { on := true, hold := 9600 }] }, ⟨by decide +kernel, by decide +kernel, by decide +kernel, by decide +kernel, by decide +kernel, by decide +kernel⟩, by decide +kernel⟩,
   ⟨1, 2, one 0x0F { num := 1, ph := [{}, {}, { on := true, hold := 9600 }] } (ones), att1 { num := 1, ph := [{}, {}, { on := true, hold := 9600 }] }, cfgOf 0x0F (ones), { num := 1, ph := [{}, {}, { on := true, hold := 9600 }] }, ⟨by decide +kernel, by decide +kernel, by decide +kernel, by decide +kernel, by decide +kernel, by decide +kernel⟩, by decide +kernel⟩,
   ⟨1, 2, one 0x0F { num := 1, ph := [{}, {}, { on := true, hold := 9600 }] } (ones), att1 { num := 1, ph := [{}, {}, { on := true, hold := 9600 }] }, cfgOf 0x0F (ones), { num := 1, ph := [{}, {}, { on := true, hold := 9600 }] }, 0, ⟨by decide +kernel, by decide +kernel, by decide +kernel, by decide +kernel, by decide +kernel, by decide +kernel⟩, by decide +kernel⟩,
   ⟨1, 0, one 0x0F { num := 1, ph := [{ cnt := 1 }] } (ones), att1 { num := 1, ph := [{ cnt := 1 }] }, cfgOf 0x0F (ones), { num := 1, ph := [{ cnt := 1 }] }, ⟨by decide +kernel, by decide +kernel, by decide +kernel, by decide +kernel, by decide +kernel, by decide +kernel⟩, by decide +kernel⟩,
   ⟨1, 0, one 0x0F { num := 1, ph := [{ cnt := 1 }] } (ones), att1 { num := 1, ph := [{ cnt := 1 }] }, cfgOf 0x0F (ones), { num := 1, ph := [{ cnt := 1 }] }, ⟨by decide +kernel, by decide +kernel, by decide +kernel, by decide +kernel, by decide +kernel, by decide +kernel⟩, by decide +kernel⟩,
   ⟨1, one 0x10 { num := 1, count := 9600 } (ones), att1 { num := 1, count := 9600 }, cfgOf 0x10 (ones), { num := 1, count := 9600 }, ⟨by decide +kernel, by decide +kernel, by decide +kernel, by decide +kernel, by decide +kernel, by decide +kernel⟩, by decide +kernel⟩,
   ⟨1, one 0x10 { num := 1, mode := 2, tcount := 9600 } (ones), att1 { num := 1, mode := 2, tcount := 9600 }, cfgOf 0x10 (ones), { num := 1, mode := 2, tcount := 9600 }, ⟨by decide +kernel, by decide +kernel, by decide +kernel, by decide +kernel, by decide +kernel, by decide +kernel⟩, by decide +kernel⟩,
   ⟨1, one 0x11 { num := 1, operate := true, count := 9600 } (ones.set 3 0), att1 { num := 1, operate := true, count := 9600 }, cfgOf 0x11 (ones.set 3 0), { num := 1, operate := true, count := 9600 }, ⟨by decide +kernel, by decide +kernel, by decide +kernel, by decide +kernel, by decide +kernel, by decide +kernel⟩, by decide +kernel⟩,
   ⟨1, one 0x13 { num := 1, started := true, count := 9600 } (ones), att1 { num := 1, started := true, count := 9600 }, cfgOf 0x13 (ones), { num := 1, started := true, count := 9600 }, ⟨by decide +kernel, by decide +kernel, by decide +kernel, by decide +kernel, by decide +kernel, by decide +kernel⟩, by decide +kernel⟩,
   ⟨1, one 0x13 { num := 1, started := true, count := 9600 } (ones), att1 { num := 1, started := true, count := 9600 }, cfgOf 0x13 (ones), { num := 1, started := true, count := 9600 }, ⟨by decide +kernel, by decide +kernel, by decide +kernel, by decide +kernel, by decide +kernel, by decide +kernel⟩, by decide +kernel⟩,
   ⟨1, one 0x18 { num := 1, started := true, count := 9600 } (ones), att1 { num := 1, started := true, count := 9600 }, cfgOf 0x18 (ones), { num := 1, started := true, count := 9600 }, ⟨by decide +kernel, by decide +kernel, by decide +kernel, by decide +kernel, by decide +kernel, by decide +kernel⟩, by decide +kernel⟩,
   ⟨1, one 0x19 { num := 1, started := true, count := 9600 } (ones), att1 { num := 1, started := true, count := 9600 }, cfgOf 0x19 (ones), { num := 1, started := true, count := 9600 }, ⟨by decide +kernel, by decide +kernel, by decide +kernel, by decide +kernel, by decide +kernel, by decide +kernel⟩, by decide +kernel⟩,
   ⟨1, one 0x19 { num := 1, mode := 1, rcount := 9600 } (ones), att1 { num := 1, mode := 1, rcount := 9600 }, cfgOf 0x19 (ones), { num := 1, mode := 1, rcount := 9600 }, ⟨by decide +kernel, by decide +kernel, by decide +kernel, by decide +kernel, by decide +kernel, by decide +kernel⟩, by decide +kernel⟩,
   ⟨1, one 0x23 { num := 1, count := 9600 } (ones), att1 { num := 1, count := 9600 }, cfgOf 0x23 (ones), { num := 1, count := 9600 }, ⟨by decide +kernel, by decide +kernel, by decide +kernel, by decide +kernel, by decide +kernel, by decide +kernel⟩, by decide +kernel⟩,
   ⟨1, one 0x24 { num := 1, count := 9600 } (ones), att1 { num := 1, count := 9600 }, cfgOf 0x24 (ones), { num := 1, count := 9600 }, ⟨by decide +kernel, by decide +kernel, by decide +kernel, by decide +kernel, by decide +kernel, by decide +kernel⟩, by decide +kernel⟩,
   ⟨1, one 0x25 { num := 1, count := 9600 } (ones), att1 { num := 1, count := 9600 }, cfgOf 0x25 (ones), { num := 1, count := 9600 }, ⟨by decide +kernel, by decide +kernel, by decide +kernel, by decide +kernel, by decide +kernel, by decide +kernel⟩, by decide +kernel⟩⟩

theorem witness_AutorecloseTimers :
    (∃ (n : Nat) (s : State) (att : Attempt) (c : InstCfg) (e : ElemSt), s.holds att n [0x14] c e ∧ e.mode = arNotReady ∧ (s.env att c).lockedOut c 7 = false ∧ (s.env att c).num c 11 ≤ (e.rcount : Rat) / (s.fp : Rat)) ∧
    (∃ (n : Nat) (s : State) (att : Attempt) (c : InstCfg) (e : ElemSt), s.holds att n [0x14] c e ∧ e.mode = arInit ∧ (s.env att c).num c 13 ≤ (e.count : Rat) / (s.fp : Rat)) ∧
    (∃ (n : Nat) (s : State) (att : Attempt) (c : InstCfg) (e : ElemSt), s.holds att n [0x14] c e ∧ e.mode = arDead ∧ (s.env att c).deadTime c e ≤ (e.count : Rat) / (s.fp : Rat)) ∧
    (∃ (n : Nat) (s : State) (att : Attempt) (c : InstCfg) (e : ElemSt), s.holds att n [0x14] c e ∧ e.mode = arSyncWait ∧ (s.env att c).num c 18 ≤ (e.count : Rat) / (s.fp : Rat)) ∧
    (∃ (n : Nat) (s : State) (att : Attempt) (c : InstCfg) (e : ElemSt), s.holds att n [0x14] c e ∧ e.mode = arClosing ∧ (s.env att c).ref (c.inp 3) = true ∧ (s.env att c).num c 12 ≤ (e.count : Rat) / (s.fp : Rat)) ∧
    (∃ (n : Nat) (s : State) (att : Attempt) (c : InstCfg) (e : ElemSt), s.holds att n [0x14] c e ∧ e.mode = arReclaim ∧ (s.env att c).num c 11 ≤ (e.count : Rat) / (s.fp : Rat)) ∧
    (∃ (n : Nat) (s : State) (att : Attempt) (c : InstCfg) (e : ElemSt), s.holds att n [0x14] c e ∧ (nth e.ph 1).on = false ∧ (s.env att c).num c 19 ≠ 0 ∧ (s.env att c).num c 19 < (e.tcount : Rat) / (s.fp : Rat)) :=
  ⟨⟨1, one 0x14 { num := 1, mode := 0, rcount := 9600 } (ones), att1 { num := 1, mode := 0, rcount := 9600 }, cfgOf 0x14 (ones), { num := 1, mode := 0, rcount := 9600 }, ⟨by decide +kernel, by decide +kernel, by decide +kernel, by decide +kernel, by decide +kernel, by decide +kernel⟩, by decide +kernel⟩,
   ⟨1, one 0x14 { num := 1, mode := 2, count := 9600 } (ones), att1 { num := 1, mode := 2, count := 9600 }, cfgOf 0x14 (ones), { num := 1, mode := 2, count := 9600 }, ⟨by decide +kernel, by decide +kernel, by decide +kernel, by decide +kernel, by decide +kernel, by decide +kernel⟩, by decide +kernel⟩,
   ⟨1, one 0x14 { num := 1, mode := 3, shot := 1, count := 9600 } (ones), att1 { num := 1, mode := 3, shot := 1, count := 9600 }, cfgOf 0x14 (ones), { num := 1, mode := 3, shot := 1, count := 9600 }, ⟨by decide +kernel, by decide +kernel, by decide +kernel, by decide +kernel, by decide +kernel, by decide +kernel⟩, by decide +kernel⟩,
   ⟨1, one 0x14 { num := 1, mode := 4, count := 9600 } (ones), att1 { num := 1, mode := 4, count := 9600 }, cfgOf 0x14 (ones), { num := 1, mode := 4, count := 9600 }, ⟨by decide +kernel, by decide +kernel, by decide +kernel, by decide +kernel, by decide +kernel, by decide +kernel⟩, by decide +kernel⟩,
   ⟨1, one 20 { num := 1, mode := 5, count := 9600 } ones [0, 0, 0, 0x8000], att1 { num := 1, mode := 5, count := 9600 }, cfgOf 20 ones [0, 0, 0, 0x8000], { num := 1, mode := 5, count := 9600 }, ⟨by decide +kernel, by decide +kernel, by decide +kernel, by decide +kernel, by decide +kernel, by decide +kernel⟩, by decide +kernel⟩,
   ⟨1, one 0x14 { num := 1, mode := 6, count := 9600 } (ones), att1 { num := 1, mode := 6, count := 9600 }, cfgOf 0x14 (ones), { num := 1, mode := 6, count := 9600 }, ⟨by decide +kernel, by decide +kernel, by decide +kernel, by decide +kernel, by decide +kernel, by decide +kernel⟩, by decide +kernel⟩,
   ⟨1, one 0x14 { num := 1, tcount := 9601 } (ones), att1 { num := 1, tcount := 9601 }, cfgOf 0x14 (ones), { num := 1, tcount := 9601 }, ⟨by decide +kernel, by decide +kernel, by decide +kernel, by decide +kernel, by decide +kernel, by decide +kernel⟩, by decide +kernel⟩⟩

theorem witness_ZoneLocatorLatch :
    (∃ (n : Nat) (s : State) (att : Attempt) (c : InstCfg) (e : ElemSt), s.holds att n [0x15] c e ∧ e.mode = 0 ∧ (∃ k < (s.env att c).ends c, srcKind ((s.env att c).endSrc c k) = 2) ∧ (∃ p ∈ e.ph.drop 3, (s.env att c).num c 7 < (p.cnt : Rat) / (s.fp : Rat))) ∧
    (∃ (n : Nat) (s : State) (att : Attempt) (c : InstCfg) (e : ElemSt), s.holds att n [0x17] c e ∧ e.mode ≠ 0) ∧
    (∃ (n : Nat) (s : State) (att : Attempt) (c : InstCfg) (e : ElemSt), s.holds att n [0x17] c e ∧ e.rcount ≠ 0 ∧ 60 / 1000 ≤ (e.rcount : Rat) / (s.fp : Rat)) ∧
    (∃ (n : Nat) (s : State) (c : InstCfg) (e : ElemSt), n ∈ s.nv.latchDirty ∧ s.dm.mramFail = false ∧ (s.sch.cfg.insts.find? (fun c => c.num = n) = some c) ∧ (s.pe.els.find? (fun e => e.num = n) = some e)) :=
  ⟨⟨1, one 0x15 { num := 1, ph := [{}, {}, {}, { cnt := 9601 }] } (ones.set 14 2), att1 { num := 1, ph := [{}, {}, {}, { cnt := 9601 }] }, cfgOf 0x15 (ones.set 14 2), { num := 1, ph := [{}, {}, {}, { cnt := 9601 }] }, ⟨by decide +kernel, by decide +kernel, by decide +kernel, by decide +kernel, by decide +kernel, by decide +kernel⟩, by decide +kernel⟩,
   ⟨1, one 0x17 { num := 1, mode := 2 } (ones), att1 { num := 1, mode := 2 }, cfgOf 0x17 (ones), { num := 1, mode := 2 }, ⟨by decide +kernel, by decide +kernel, by decide +kernel, by decide +kernel, by decide +kernel, by decide +kernel⟩, by decide +kernel⟩,
   ⟨1, one 0x17 { num := 1, rcount := 576 } (ones), att1 { num := 1, rcount := 576 }, cfgOf 0x17 (ones), { num := 1, rcount := 576 }, ⟨by decide +kernel, by decide +kernel, by decide +kernel, by decide +kernel, by decide +kernel, by decide +kernel⟩, by decide +kernel⟩,
   ⟨1, { one 0x12 { num := 1 } with nv := { latchDirty := [1] } }, cfgOf 0x12, { num := 1 }, by decide +kernel⟩⟩

theorem witness_Comparators :
    (∃ (c : Nat) (k : CodeIn) (p : List Int) (s : State), c < 64 ∧ c < s.fst.cmp.length ∧ cfgEn (s.cmpCfg c) = true ∧ cfgMode (s.cmpCfg c) ≠ 3 ∧ ((s.modCmp c (fun x => { x with codeBad := false })).plainReason c = 0) ∧ k.ok = true ∧ k.blanked = false ∧ (s.cmp c).asserted = false ∧ p = (if (s.cmp c).ch = cfgCh (s.cmpCfg c) then (s.cmp c).prev else []) ∧ sampleMet (s.cmpCfg c) k.code p (s.thrG c) = true ∧ needed (s.cmpCfg c) ≤ (s.cmp c).count + 1) ∧
    (∃ (c : Nat) (k : CodeIn) (p : List Int) (s : State), c < 64 ∧ c < s.fst.cmp.length ∧ cfgEn (s.cmpCfg c) = true ∧ cfgMode (s.cmpCfg c) ≠ 3 ∧ ((s.modCmp c (fun x => { x with codeBad := false })).plainReason c = 0) ∧ k.ok = true ∧ k.blanked = false ∧ (s.cmp c).asserted = true ∧ p = (if (s.cmp c).ch = cfgCh (s.cmpCfg c) then (s.cmp c).prev else []) ∧ sampleMet (s.cmpCfg c) k.code p (s.thrG c) = false) ∧
    (∃ (c : Nat) (s : State), c < 64 ∧ c < s.fst.cmp.length ∧ cfgLight (s.cmpCfg c) < s.fst.lights.length ∧ cfgEn (s.cmpCfg c) = true ∧ cfgMode (s.cmpCfg c) = 3 ∧ s.cmpReason c = 0 ∧ (s.cmp c).curWin = true ∧ s.arcWin c ≠ 0) ∧
    (∃ (c : Nat) (s : State), c < 64 ∧ c < s.fst.cmp.length ∧ cfgMode (s.cmpCfg c) = 3 ∧ s.arcLight c = false) ∧
    (∃ (c : Nat) (s : State), c < 64 ∧ c < s.fst.cmp.length ∧ cfgMode (s.cmpCfg c) = 3 ∧ (s.cmp (cfgCur (s.cmpCfg c))).asserted = false) :=
  ⟨⟨63, { code := 100, ok := true, blanked := false, t := 0, ot := 0 }, [], { up with regs := [(0x2804 + 0x10000 * 63, 0xC#32), (0x2808 + 0x10000 * 63, 0x64#32)], flt := { running := true, ch := List.replicate 16 { word := 0x80#32 } }, fst := { cmp := List.replicate 63 {} ++ [{ count := 1 }] } }, by decide +kernel⟩,
   ⟨63, { code := 99, ok := true, blanked := false, t := 0, ot := 0 }, [], { up with regs := [(0x2804 + 0x10000 * 63, 4#32), (0x2808 + 0x10000 * 63, 0x64#32)], flt := { running := true, ch := List.replicate 16 { word := 0x80#32 } }, fst := { cmp := List.replicate 63 {} ++ [{ asserted := true }] } }, by decide +kernel⟩,
   ⟨63, { up with regs := [(0x280C + 0x10000 * 63, 0x10000#32), (0x2804 + 0x10000 * 63, 0x0000C007#32 ||| 0x003F0000#32), (0x2C7C, 0x100#32)], flt := { running := true, ch := List.replicate 16 { word := 0x80#32 } }, fst := { cmp := List.replicate 63 {} ++ [{ curWin := true }] }, fio := { up.fio with di := List.replicate 16 { accepted := true } } }, by decide +kernel⟩,
   ⟨63, { up with regs := [(0x2804 + 0x10000 * 63, 7#32), (0x2808 + 0x10000 * 63, 0x64#32)], flt := { running := true, ch := List.replicate 16 { word := 0x80#32 } }, fst := { cmp := List.replicate 63 {} ++ [{}] } }, by decide +kernel⟩,
   ⟨63, { up with regs := [(0x2804 + 0x10000 * 63, 7#32), (0x2808 + 0x10000 * 63, 0x64#32)], flt := { running := true, ch := List.replicate 16 { word := 0x80#32 } }, fst := { cmp := List.replicate 63 {} ++ [{}] } }, by decide +kernel⟩⟩

theorem witness_ExpressAndFastConfig :
    (∃ (p : Nat) (code : Nat) (a : LaneIn) (b : LaneIn) (s : State), p < 2 ∧ (nth s.chn.ports p).st = .up ∧ expressCode a b = some code ∧ code / 4 ≠ s.chn.addr) ∧
    (∃ (p : Nat) (code : Nat) (a : LaneIn) (b : LaneIn) (s : State), p < 2 ∧ (nth s.chn.ports p).st = .up ∧ expressCode a b = some code ∧ code / 4 = s.chn.addr) ∧
    (∃ (code : Nat) (s : State), s.codeStale code = true) ∧
    (∃ (code : Nat) (s : State), s.codeStale code = false) ∧
    (∃ (cls : KeyClass) (a : Nat) (key : Nat) (v : Word) (s : State), isFast a = true ∧ s.mayWrite cls a ∧ a ≠ 0x2800 ∧ s.fastKey a = some key ∧ s.fastAsserted a (v &&& BitVec.ofNat 32 (fastMask a)) = true) ∧
    (∃ (cls : KeyClass) (a : Nat) (key : Nat) (v : Word) (s : State), isFast a = true ∧ s.mayWrite cls a ∧ a ≠ 0x2800 ∧ s.fastKey a = some key ∧ s.fastCheck a (v &&& BitVec.ofNat 32 (fastMask a)) ≠ 0) ∧
    (∃ (cls : KeyClass) (a : Nat) (key : Nat) (v : Word) (s : State), isFast a = true ∧ s.mayWrite cls a ∧ a ≠ 0x2800 ∧ s.fastKey a = some key ∧ s.fastCheck a (v &&& BitVec.ofNat 32 (fastMask a)) = 0) :=
  ⟨⟨1, 255, { head := .express, code := .data 255 }, { head := .express, code := .data 255 }, { up with chn := { addr := 62, ports := [{}, { st := .up }] } }, by decide +kernel⟩,
   ⟨1, 255, { head := .express, code := .data 255 }, { head := .express, code := .data 255 }, { up with chn := { addr := 63, ports := [{}, { st := .up }] } }, by decide +kernel⟩,
   ⟨255, up, by decide +kernel⟩,
   ⟨5, { up with fst := { up.fst with xAge := [(5, 0, 1000000)] } }, by decide +kernel⟩,
   ⟨.host, 0x2808, 0x2808, 1#32, { up with fst := { cmp := [{ asserted := true }] ++ List.replicate 63 {} } }, by decide +kernel, may_write (by decide +kernel), by decide +kernel⟩,
   ⟨.host, 0x2808, 0x2808, 1#32, { up with fst := { cmp := [{ asserted := true }] ++ List.replicate 63 {} } }, by decide +kernel, may_write (by decide +kernel), by decide +kernel⟩,
   ⟨.chain, 0x2A4C, 0x2A4C, 0#32, up, by decide +kernel, may_write (by decide +kernel), by decide +kernel⟩⟩

theorem witness_JobSubmission :
    (∃ (cls : KeyClass) (arg : Nat) (s : State), ∃ p ∈ [(Instr.imageLoad cls arg, 1), (.imageActivation cls arg, 2), (.templateActivation cls arg, 3), (.ledgerCommission cls arg, 4), (.ledgerClear cls arg, 5), (.captureExport cls arg, 6), (.pairSelfTest cls arg, 7), (.foregroundAfeCalibration cls arg, 8), (.chainRewalk cls arg, 9), (.mramScrub cls arg, 10), (.breakerWearReset cls arg, 11)], s.mayWrite cls 0x1000 ∧ arg < 65536 ∧ s.jobRefusal cls p.2 arg = 0) ∧
    (∃ (cls : KeyClass) (arg : Nat) (s : State), ∃ p ∈ [(Instr.imageLoad cls arg, 1), (.imageActivation cls arg, 2), (.templateActivation cls arg, 3), (.ledgerCommission cls arg, 4), (.ledgerClear cls arg, 5), (.captureExport cls arg, 6), (.pairSelfTest cls arg, 7), (.foregroundAfeCalibration cls arg, 8), (.chainRewalk cls arg, 9), (.mramScrub cls arg, 10), (.breakerWearReset cls arg, 11)], s.mayWrite cls 0x1000 ∧ arg < 65536 ∧ s.jobRefusal cls p.2 arg ≠ 0) ∧
    (∃ (cls : KeyClass) (n : Nat) (s : State), s.mayWrite cls 0x1000 ∧ n < 65536 ∧ (s.job.out.find? (fun j => j.ticket = n) = none)) ∧
    (∃ (cls : KeyClass) (n : Nat) (s : State), ∃ (j : _), s.mayWrite cls 0x1000 ∧ n < 65536 ∧ (s.job.out.find? (fun j => j.ticket = n) = some j) ∧ j.cls ≠ cls ∧ s.classIn cls 1 = false) ∧
    (∃ (cls : KeyClass) (n : Nat) (s : State), ∃ (j : _), s.mayWrite cls 0x1000 ∧ n < 65536 ∧ (s.job.out.find? (fun j => j.ticket = n) = some j) ∧ (j.cls = cls ∨ s.classIn cls 1 = true) ∧ s.cancellable j = false) ∧
    (∃ (cls : KeyClass) (n : Nat) (s : State), ∃ (j : _), s.mayWrite cls 0x1000 ∧ n < 65536 ∧ (s.job.out.find? (fun j => j.ticket = n) = some j) ∧ (j.cls = cls ∨ s.classIn cls 1 = true) ∧ s.cancellable j = true) :=
  ⟨⟨.chain, 0, up, (.mramScrub .chain 0, 10), by decide +kernel, may_write (by decide +kernel), by decide +kernel⟩,
   ⟨.net, 0, up, (.imageLoad .net 0, 1), by decide +kernel, may_write (by decide +kernel), by decide +kernel⟩,
   ⟨.host, 65535, up, may_write (by decide +kernel), by decide +kernel⟩,
   ⟨.net, 7, { up with job := { out := [{ ticket := 7, code := 1, arg := 0, cls := .chain, step := 0 }] } }, { ticket := 7, code := 1, arg := 0, cls := .chain, step := 0 }, may_write (by decide +kernel), by decide +kernel⟩,
   ⟨.chain, 7, { up with job := { out := [{ ticket := 7, code := 4, arg := 0, cls := .chain, step := 0 }] } }, { ticket := 7, code := 4, arg := 0, cls := .chain, step := 0 }, may_write (by decide +kernel), by decide +kernel⟩,
   ⟨.host, 7, { up with job := { out := [{ ticket := 7, code := 10, arg := 0, cls := .chain, step := 0 }] } }, { ticket := 7, code := 10, arg := 0, cls := .chain, step := 0 }, may_write (by decide +kernel), by decide +kernel⟩⟩

theorem witness_SchemeCommands :
    (∃ (cls : KeyClass) (s : State), s.mayWrite cls 0x2418 ∧ (s.loading = false ∨ s.sch.ready = false)) ∧
    (∃ (cls : KeyClass) (v : Word) (s : State), s.mayWrite cls 0x2418 ∧ s.loading = true ∧ s.sch.ready = true ∧ bitsOf v 8 0 = s.sch.chunk) ∧
    (∃ (cls : KeyClass) (v : Word) (s : State), s.mayWrite cls 0x2418 ∧ s.loading = true ∧ s.sch.ready = true ∧ bitsOf v 8 0 ≠ s.sch.chunk) ∧
    (∃ (cls : KeyClass) (v : Word) (s : State), s.mayWrite cls 0x2430 ∧ (s.sch.cfg.groupNets ≠ [] ∨ s.sch.cfg.nGroups ≤ bitsOf v 2 0)) ∧
    (∃ (cls : KeyClass) (v : Word) (s : State), s.mayWrite cls 0x2430 ∧ s.sch.cfg.groupNets = [] ∧ bitsOf v 2 0 < s.sch.cfg.nGroups ∧ s.actSpan = false) ∧
    (∃ (s : State), ∃ (g : _), s.ticking = true ∧ s.actSpan = false ∧ s.sch.groupPend = some g) ∧
    (∃ (s : State), s.ticking = true ∧ s.actSpan = false ∧ s.sch.groupPend = none ∧ s.sch.cfg.groupNets ≠ []) ∧
    (∃ (cls : KeyClass) (v : Word) (s : State), s.mayWrite cls 0x243C ∧ paramOk s.parTpl s.parsSeen s.parSel v = true ∧ s.parTpl = s.sch.tpl) ∧
    (∃ (cls : KeyClass) (v : Word) (s : State), s.mayWrite cls 0x243C ∧ paramOk s.parTpl s.parsSeen s.parSel v = true ∧ s.parTpl ≠ s.sch.tpl) ∧
    (∃ (s : State), s.actMayStart = true ∧ (s.sys.st = .inService → s.hng.leaving = none → s.tripAsserted = false)) ∧
    (∃ (s : State), s.actMayStart = true ∧ s.sys.st = .inService ∧ s.hng.leaving = none ∧ s.tripAsserted = true) ∧
    (∃ (s : State), s.sch.act = .blocked ∧ s.ticking = true) ∧
    (∃ (s : State), s.sch.act = .settling ∧ s.sch.actLeft = 0 ∧ s.ticking = true ∧ s.sch.actHinge = false) :=
  ⟨⟨.host, up, may_write (by decide +kernel), by decide +kernel⟩,
   ⟨.host, 2#32, { { up with job := { out := [{ ticket := 7, code := 1, arg := 0, cls := .chain, step := 0 }] } } with sch := { up.sch with ready := true, chunk := 2 } }, may_write (by decide +kernel), by decide +kernel⟩,
   ⟨.chain, 511#32, { { up with job := { out := [{ ticket := 7, code := 1, arg := 0, cls := .chain, step := 0 }] } } with sch := { up.sch with ready := true, chunk := 2 } }, may_write (by decide +kernel), by decide +kernel⟩,
   ⟨.net, 1#32, up, may_write (by decide +kernel), by decide +kernel⟩,
   ⟨.net, 7#32, { up with sch := { up.sch with cfg := { nGroups := 8 } } }, may_write (by decide +kernel), by decide +kernel⟩,
   ⟨{ up with sch := { up.sch with groupPend := some 7 } }, 7, by decide +kernel⟩,
   ⟨{ up with sch := { up.sch with cfg := { nGroups := 2, groupNets := [0] } } }, by decide +kernel⟩,
   ⟨.host, 0x42480000#32, { up with regs := [(0x2438, 0x7D8#32)], sch := { up.sch with tpl := 1 } }, may_write (by decide +kernel), by decide +kernel⟩,
   ⟨.host, 0x42480000#32, { up with regs := [(0x2438, 0x7D8#32)], sch := { up.sch with act := .accepted, actIx := 1 } }, may_write (by decide +kernel), by decide +kernel⟩,
   ⟨{ inSt .inService with sch := { up.sch with act := .accepted } }, by decide +kernel⟩,
   ⟨{ inSt .inService with sch := { up.sch with act := .accepted }, regs := [(0x2CC0, 0x10000#32)], fio := { up.fio with dos := [{ cmd := true }] ++ List.replicate 11 {} } }, by decide +kernel⟩,
   ⟨{ up with sch := { up.sch with act := .blocked } }, by decide +kernel⟩,
   ⟨{ up with sch := { up.sch with act := .settling } }, by decide +kernel⟩⟩

theorem witness_OutputFaults :
    (∃ (s : State), s.alive = false) ∧
    (∃ (n : Nat) (s : State), s.alive = true ∧ n < 12 ∧ n < s.fio.dos.length ∧ s.outOn n = false ∧ s.fio.state ≠ 2 ∧ s.cplFailed (16 + n) = false ∧ (s.outp n).stuck = false ∧ (s.outp n).cross = false ∧ (s.hinged = false ∨ s.doShared n = false)) ∧
    (∃ (n : Nat) (s : State), s.alive = true ∧ n < 12 ∧ n < s.fio.dos.length ∧ s.outOn n = false ∧ s.fio.state ≠ 2 ∧ s.cplFailed (16 + n) = false ∧ (s.outp n).stuck = false ∧ (s.outp n).cross = false ∧ s.hinged = true ∧ s.doShared n = true) ∧
    (∃ (n : Nat) (s : State), s.alive = true ∧ n < 12 ∧ n < s.fio.dos.length ∧ s.outOn n = true ∧ (s.outp n).limit = false) ∧
    (∃ (n : Nat) (s : State), s.alive = true ∧ n < 12 ∧ n < s.fio.dos.length ∧ s.outOn n = true ∧ (s.outp n).limit = true) ∧
    (∃ (n : Nat) (s : State), s.alive = true ∧ n < 12 ∧ n < s.fio.dos.length ∧ s.outOn n = true ∧ (s.outp n).limit = false ∧ (s.outp n).failOff = false) ∧
    (∃ (n : Nat) (s : State), ∃ (cur : _), s.alive = true ∧ n < 12 ∧ n < s.fio.dos.length ∧ s.outOn n = true ∧ cur < 10 ∧ (s.outp n).failOff = false ∧ (s.outp n).openLd = false) ∧
    (∃ (n : Nat) (s : State), ∃ (cur : _), s.alive = true ∧ n < 12 ∧ n < s.fio.dos.length ∧ s.outOn n = true ∧ s.overLimit n < cur ∧ (s.outp n).overload = false) ∧
    (∃ (n : Nat) (s : State), n < s.fio.dos.length ∧ (s.outp n).thermal = true) ∧
    (∃ (n : Nat) (m : Nat) (s : State), s.alive = true ∧ n < 12 ∧ m < 12 ∧ n ≠ m ∧ n < s.fio.dos.length ∧ s.outOn n = false ∧ s.outOn m = true ∧ s.grouped n m = false ∧ (s.outp n).cross = false) ∧
    (∃ (cls : KeyClass) (s : State), s.mayWrite cls 0x2D40 ∧ s.fio.dos.length = 12) ∧
    (∃ (n : Nat) (s : State), n < s.fio.dos.length) :=
  ⟨⟨inSt .off, by decide +kernel⟩,
   ⟨11, up, by decide +kernel⟩,
   ⟨11, { up with regs := [(0x2CEC, 0x40000#32)], sch := { up.sch with cfg := { hinge := some { peer := 2, pref := true, mask := 0, insts := [] } } } }, by decide +kernel⟩,
   ⟨11, { inSt .inService with fio := { up.fio with dos := (List.replicate 12 {}).set 11 { drv := true } } }, by decide +kernel⟩,
   ⟨11, { inSt .inService with fio := { up.fio with dos := (List.replicate 12 {}).set 11 { drv := true, limit := true } } }, by decide +kernel⟩,
   ⟨11, { inSt .inService with fio := { up.fio with dos := (List.replicate 12 {}).set 11 { drv := true } } }, by decide +kernel⟩,
   ⟨11, { inSt .inService with fio := { up.fio with dos := (List.replicate 12 {}).set 11 { drv := true } } }, 9, by decide +kernel⟩,
   ⟨11, { inSt .inService with fio := { up.fio with dos := (List.replicate 12 {}).set 11 { drv := true } } }, 601, by decide +kernel⟩,
   ⟨11, { inSt .inService with fio := { up.fio with dos := (List.replicate 12 {}).set 11 { thermal := true } } }, by decide +kernel⟩,
   ⟨0, 11, { inSt .inService with fio := { up.fio with dos := (List.replicate 12 {}).set 11 { drv := true } } }, by decide +kernel⟩,
   ⟨.chain, up, may_write (by decide +kernel), by decide +kernel⟩,
   ⟨11, up, by decide +kernel⟩⟩

theorem witness_FieldCouplersAndSupply :
    (∃ (k : Nat) (frames : Nat) (s : State), s.alive = true ∧ k < 32 ∧ k < s.fio.failed.length ∧ s.cplFailed k = false ∧ 4 ≤ frames) ∧
    (∃ (k : Nat) (frames : Nat) (s : State), s.alive = true ∧ k < 32 ∧ k < s.fio.failed.length ∧ s.cplFailed k = true ∧ 1000 ≤ frames) ∧
    (∃ (n : Nat) (count : Nat) (sec : Nat) (s : State), s.alive = true ∧ s.inputGo n count = true ∧ n < s.fio.di.length ∧ sec < 2 ^ 32) ∧
    (∃ (s : State), s.alive = true ∧ s.cplFailed 31 = false ∧ s.fio.state = 0) ∧
    (∃ (s : State), s.alive = true ∧ (s.fio.state = 1 ∨ s.fio.state = 3) ∧ 100 ≤ s.fio.backs) ∧
    (∃ (s : State), s.alive = true ∧ s.fio.state ≠ 2) ∧
    (∃ (s : State), s.alive = true ∧ s.fio.state = 2) ∧
    (∃ (n : Nat) (present : Bool) (s : State), s.alive = true ∧ s.tcsValid n = true ∧ n < 2 ∧ bitAt (s.reg (0x2D48 + 4 * n)) 0 = true ∧ 20 ≤ (if present then (nth s.fio.tcs n).ups else (nth s.fio.tcs n).downs)) ∧
    (∃ (cls : KeyClass) (a : Nat) (v : Word) (s : State), isField a = true ∧ a ≠ 0x2C84 ∧ a ≠ 0x2D40 ∧ s.mayWrite cls a ∧ (∀ r, targetOf a = some (.reg r) → r.mask ≠ 0) ∧ s.fioCheck a (v &&& BitVec.ofNat 32 (fioMask a)) ≠ 0) ∧
    (∃ (cls : KeyClass) (a : Nat) (v : Word) (s : State), isField a = true ∧ a ≠ 0x2C84 ∧ a ≠ 0x2D40 ∧ s.mayWrite cls a ∧ (∀ r, targetOf a = some (.reg r) → r.mask ≠ 0) ∧ s.fioCheck a (v &&& BitVec.ofNat 32 (fioMask a)) = 0) :=
  ⟨⟨31, 4, up, by decide +kernel⟩,
   ⟨31, 1000, { up with fio := { up.fio with failed := List.replicate 32 true } }, by decide +kernel⟩,
   ⟨15, up.debounce 15, 4294967295, up, by decide +kernel⟩,
   ⟨up, by decide +kernel⟩,
   ⟨{ up with fio := { state := 3, backs := 100 } }, by decide +kernel⟩,
   ⟨up, by decide +kernel⟩,
   ⟨{ up with fio := {} }, by decide +kernel⟩,
   ⟨1, true, { up with regs := [(0x2D4C, 1#32)], fio := { up.fio with tcs := [{}, { ups := 20 }] } }, by decide +kernel⟩,
   ⟨.host, 0x2C40, 3#32, up, by decide +kernel, by decide +kernel, by decide +kernel, may_write (by decide +kernel), mask_ok (by decide +kernel), by decide +kernel⟩,
   ⟨.chain, 0x2C40, 0#32, up, by decide +kernel, by decide +kernel, by decide +kernel, may_write (by decide +kernel), mask_ok (by decide +kernel), by decide +kernel⟩⟩

theorem witness_LedgerWriting :
    (∃ (s : State) (e : Entry) (r : List Entry), s.ldg.ring = e :: r ∧ s.canWrite e = true ∧ s.ldg.ovLow = 0 ∧ s.ldg.ovHigh = 0 ∧ Memory.wf s.mram = true ∧ s.ldg.commissioned = true ∧ s.ldg.firstFull = false ∧ s.ldg.firstPos + recLen e ≤ firstSize) ∧
    (∃ (s : State) (e : Entry) (r : List Entry), s.ldg.ring = e :: r ∧ s.canWrite e = true ∧ s.ldg.ovLow = 0 ∧ s.ldg.ovHigh = 0 ∧ Memory.wf s.mram = true ∧ (s.ldg.commissioned = false ∨ s.ldg.firstFull = true) ∧ s.ldg.circPos + recLen e ≤ circSize) ∧
    (∃ (code : Nat) (s : State), s.ldg.ovLow = 0 ∧ s.ldg.ovHigh = 0 ∧ (s.bucket code).lacks ≠ 0 ∧ (s.bucket code).pending = 0) ∧
    (∃ (code : Nat) (s : State), s.ldg.ovLow = 0 ∧ s.ldg.ovHigh = 0 ∧ (s.bucket code).lacks ≠ 0 ∧ (s.bucket code).pending ≠ 0) :=
  ⟨⟨{ up with ldg := { ring := [{ ot := 3, qual := 0, pcc := 1, code := 0x20, sev := 0, flags := 0, annex := none, body := [] }], scanning := false, commissioned := true, firstPos := 0x7FFE0 } }, { ot := 3, qual := 0, pcc := 1, code := 0x20, sev := 0, flags := 0, annex := none, body := [] }, [], by decide +kernel⟩,
   ⟨{ up with ldg := { ring := [{ ot := 3, qual := 0, pcc := 1, code := 0x20, sev := 0, flags := 0, annex := none, body := [] }], scanning := false, circPos := 0 } }, { ot := 3, qual := 0, pcc := 1, code := 0x20, sev := 0, flags := 0, annex := none, body := [] }, [], by decide +kernel⟩,
   ⟨0x20, { up with ldg := { buckets := [(0x20, { lacks := 1 })] } }, by decide +kernel⟩,
   ⟨0x20, { up with ldg := { buckets := [(0x20, { lacks := 8, pending := 3 })] } }, by decide +kernel⟩⟩

theorem witness_LedgerReading :
    (∃ (cls : KeyClass) (s : State), s.mayWrite cls 0x3014 ∧ clsIx cls < s.ldg.cursors.length) ∧
    (∃ (cls : KeyClass) (s : State) (c : Cursor), clsIx cls < s.ldg.cursors.length ∧ nth s.ldg.cursors (clsIx cls) = c) ∧
    (∃ (s : State), s.alive = true ∧ s.ldg.scanning = true) :=
  ⟨⟨.debug, { up with key := { dbgEn := true } }, may_write (by decide +kernel), by decide +kernel⟩,
   ⟨.debug, up, {}, by decide +kernel⟩,
   ⟨up, by decide +kernel⟩⟩

theorem witness_Captures :
    (∃ (cls : KeyClass) (s : State), s.mayWrite cls 0x3404) ∧
    (∃ (s : State) (c : Capture), s.cap.recording = some c ∧ c.want ≤ c.ticks.length) ∧
    (∃ (cls : KeyClass) (s : State), s.mayWrite cls 0x3414 ∧ s.selSlot cls < s.cap.slots.length ∧ (s.capSlot (s.selSlot cls)).state = 1 ∧ s.dm.mramFail = false ∧ Memory.wf s.mram = true) ∧
    (∃ (k : Nat) (n : Nat) (s : State) (j : Job), (s.capSlot k).lease = some n ∧ (s.job.out.find? (fun j => j.ticket = n) = some j)) :=
  ⟨⟨.chain, up, may_write (by decide +kernel)⟩,
   ⟨{ up with cap := { recording := some { slot := 0, num := 1, want := 1, ticks := [{ words := [], nets := 0, ot := 0 }], trigIx := 0, trigs := [], moreTrigs := false, ot := 0, qual := 0, pcc := 0, wall := { sec := 0, ns := 0, qual := 0 }, test := false, protect := false, chans := 0, netRefs := [], gen := 0, gd := 0, fp := 9600, gains := [], ks := [] } } }, { slot := 0, num := 1, want := 1, ticks := [{ words := [], nets := 0, ot := 0 }], trigIx := 0, trigs := [], moreTrigs := false, ot := 0, qual := 0, pcc := 0, wall := { sec := 0, ns := 0, qual := 0 }, test := false, protect := false, chans := 0, netRefs := [], gen := 0, gd := 0, fp := 9600, gains := [], ks := [] }, by decide +kernel⟩,
   ⟨.host, { up with cap := { slots := List.replicate 16 { state := 1 } } }, may_write (by decide +kernel), by decide +kernel⟩,
   ⟨15, 7, { { up with job := { out := [{ ticket := 7, code := 6, arg := 0, cls := .chain, step := 0 }] } } with cap := { slots := List.replicate 15 {} ++ [{ lease := some 7 }] } }, { ticket := 7, code := 6, arg := 0, cls := .chain, step := 0 }, by decide +kernel⟩⟩

theorem witness_OffsetJudged :
    (∃ (s : State) (p : Nat) (c : Instr) (o : Rat), s.ptpOn p = true ∧ s.srcEff = 1 ∧ s.ptp.port = p + 1 ∧ ((∃ m : SyncIn, c = .ptpSync p m ∧ m.oneStep = true ∧ o = s.offsetOf p m.t1 m.t2 m.corr) ∨
     (∃ (m : SyncIn) (t1 corr : Int), c = .ptpFollowUp p m.seq t1 corr ∧ nth s.ptp.waiting p = some m ∧ o = s.offsetOf p t1 m.t2 (m.corr + corr)))) :=
  ⟨{ up with regs := [(0x3800, 0x35#32)], ptp := { port := 2 } }, 1, .ptpSync 1 { seq := 4, oneStep := true, t1 := 5, t2 := 9, corr := 0 }, ({ up with regs := [(0x3800, 0x35#32)], ptp := { port := 2 } }).offsetOf 1 5 9 0, by decide +kernel, by decide +kernel, by decide +kernel, Or.inl ⟨_, rfl, rfl, rfl⟩⟩

theorem witness_PtpMessages :
    (∃ (p : Nat) (m : SyncIn) (s : State), s.ptpOn p = true ∧ s.srcEff = 1 ∧ s.ptp.port = p + 1 ∧ m.oneStep = false) ∧
    (∃ (p : Nat) (s : State), s.ptpOn p = true) ∧
    (∃ (p : Nat) (s : State), s.ptpOn p = true ∧ p < s.ptp.delays.length) ∧
    (∃ (p : Nat) (a : AnnounceIn) (s : State), s.ptpOn p = true ∧ a.domain = bitsOf s.ptpCtl 15 8 ∧ p < s.ptp.masters.length ∧ nth s.ptp.masters p = none) ∧
    (∃ (p : Nat) (a : AnnounceIn) (s : State), ∃ (o : _), s.ptpOn p = true ∧ a.domain = bitsOf s.ptpCtl 15 8 ∧ p < s.ptp.masters.length ∧ nth s.ptp.masters p = some o ∧ o.gm ≠ a.gm ∧ better (masterKey a) (masterKey o) = false) ∧
    (∃ (s : State), s.srcEff = 1 ∧ (s.ptp.state = 1 ∨ s.ptp.state = 2)) ∧
    (∃ (p : Nat) (a : AnnounceIn) (s : State), p < 2 ∧ s.ptp.masters.length = 2 ∧ nth s.ptp.masters p = some a ∧ nth s.ptp.masters (1 - p) = none ∧ s.ptp.port = p + 1 ∧ s.srcEff = 1 ∧ (s.ptp.state = 1 ∨ s.ptp.state = 2)) ∧
    (∃ (s : State), s.ptp.realign = true) :=
  ⟨⟨1, { seq := 4, oneStep := false, t1 := 5, t2 := 9, corr := 0 }, { up with regs := [(0x3800, 0x35#32)], ptp := { port := 2 } }, by decide +kernel⟩,
   ⟨1, { up with regs := [(0x3800, 0x35#32)], ptp := {  } }, by decide +kernel⟩,
   ⟨1, { up with regs := [(0x3800, 0x35#32)], ptp := {  } }, by decide +kernel⟩,
   ⟨1, { domain := 0, gm := 5, prio1 := 128, clockClass := 6, accuracy := 0x21, variance := 0, prio2 := 128, steps := 1, utc := 37 }, { up with regs := [(0x3800, 0x35#32)], ptp := {  } }, by decide +kernel⟩,
   ⟨1, { domain := 0, gm := 5, prio1 := 128, clockClass := 6, accuracy := 0x21, variance := 0, prio2 := 128, steps := 1, utc := 37 }, { up with regs := [(0x3800, 0x35#32)], ptp := { masters := [none, some { domain := 0, gm := 4, prio1 := 127, clockClass := 6, accuracy := 0x21, variance := 0, prio2 := 128, steps := 1, utc := 37 }] } }, { domain := 0, gm := 4, prio1 := 127, clockClass := 6, accuracy := 0x21, variance := 0, prio2 := 128, steps := 1, utc := 37 }, by decide +kernel⟩,
   ⟨{ up with regs := [(0x3800, 0x35#32)], ptp := { state := 2 } }, by decide +kernel⟩,
   ⟨1, { domain := 0, gm := 5, prio1 := 128, clockClass := 6, accuracy := 0x21, variance := 0, prio2 := 128, steps := 1, utc := 37 }, { up with regs := [(0x3800, 0x35#32)], ptp := { state := 2, port := 2, masters := [none, some { domain := 0, gm := 5, prio1 := 128, clockClass := 6, accuracy := 0x21, variance := 0, prio2 := 128, steps := 1, utc := 37 }] } }, by decide +kernel⟩,
   ⟨{ up with regs := [(0x3800, 0x35#32)], ptp := { realign := true } }, by decide +kernel⟩⟩

theorem witness_TimeRegisters :
    (∃ (cls : KeyClass) (s : State), s.mayWrite cls 0x3828) ∧
    (∃ (cls : KeyClass) (s : State), s.mayWrite cls 0x3828) ∧
    (∃ (cls : KeyClass) (s : State), s.mayWrite cls 0x3828) ∧
    (∃ (cls : KeyClass) (v : Word) (s : State), s.mayWrite cls 0x3800 ∧ bitsOf v 1 0 ≠ 3 ∧ bitsOf v 3 2 ≠ 3) ∧
    (∃ (cls : KeyClass) (s : State), s.mayRead cls 0x380C) :=
  ⟨⟨.host, up, may_write (by decide +kernel)⟩,
   ⟨.host, up, may_write (by decide +kernel)⟩,
   ⟨.host, up, may_write (by decide +kernel)⟩,
   ⟨.chain, 0x36#32, up, may_write (by decide +kernel), by decide +kernel⟩,
   ⟨.net, up, may_read (by decide +kernel)⟩⟩

theorem witness_LinksAndManagement :
    (∃ (m : Nat) (v : Nat) (s : State), m < 2 ∧ m < s.svc.mac.length ∧ v < 4) ∧
    (∃ (s : State), (s.macOn 0 = true ∨ s.macOn 1 = true)) ∧
    (∃ (l : Nat) (s : State), l < 2 ∧ l < s.svc.mac.length) ∧
    (∃ (m : Nat) (f : MgmtIn) (s : State), s.macOn m = true ∧ s.alive = true ∧ bitAt (s.reg 0x3C0C) m = true ∧ 1 ≤ f.count ∧ f.count ≤ 32 ∧ f.count = f.txns.length) ∧
    (∃ (m : Nat) (f : MgmtIn) (s : State), s.macOn m = true ∧ s.alive = true ∧ (bitAt (s.reg 0x3C0C) m = false ∨ f.count = 0 ∨ 32 < f.count ∨ f.count ≠ f.txns.length)) :=
  ⟨⟨1, 3, up, by decide +kernel⟩,
   ⟨up, by decide +kernel⟩,
   ⟨1, up, by decide +kernel⟩,
   ⟨1, { src := 1, seq := 1, count := 1, txns := [[]] }, { up with regs := [(0x3C0C, 2#32)] }, by decide +kernel⟩,
   ⟨1, { src := 1, seq := 1, count := 0, txns := [] }, { up with regs := [(0x3C0C, 2#32)] }, by decide +kernel⟩⟩

theorem witness_SubscribedStreams :
    (∃ (m : Nat) (q : Nat) (s : State) (p : Nat × Nat × Nat × Nat), s.macOn m = true ∧ p ∈ s.svc.seen ∧ p.2.1 = q ∧ s.pwr.ot ≤ p.2.2.2 + 400000) ∧
    (∃ (m : Nat) (f : SvIn) (s : State), s.macOn m = true ∧ m < s.svc.mac.length ∧ Fresh s f.src f.trailer ∧ s.matchCtx 0 m f.mac f.appid f.hash = none) ∧
    (∃ (m : Nat) (i : Nat) (f : SvIn) (c : StreamCfg) (s : State), s.macOn m = true ∧ Fresh s f.src f.trailer ∧ s.matchCtx 0 m f.mac f.appid f.hash = some i ∧ s.ctxCfg i = some c ∧ i < s.svc.ctx.length) ∧
    (∃ (m : Nat) (i : Nat) (f : EventIn) (c : StreamCfg) (s : State), s.macOn m = true ∧ Fresh s f.src f.trailer ∧ s.matchCtx 1 m f.mac f.appid f.hash = some i ∧ s.ctxCfg i = some c ∧ i < s.svc.ctx.length ∧ f.members.length = c.count ∧ (∀ b ∈ f.members, b ≠ none) ∧ ((s.ctx i).started = true → (s.ctx i).last = f.stNum → (s.ctx i).sq ≠ f.sqNum)) ∧
    (∃ (i : Nat) (c : StreamCfg) (s : State), s.ctxCfg i = some c ∧ c.kind = 1 ∧ (s.ctx i).valid = true ∧ i < s.svc.ctx.length) :=
  ⟨⟨1, 9, { up with svc := { seen := [(3, 9, 0, 600000)] } }, (3, 9, 0, 600000), by decide +kernel⟩,
   ⟨1, { src := 1, trailer := none, mac := 0x010CCD010001, appid := 0x4000, hash := 4, rate := 0, smpCnt := 0, smpSynch := 2, items := [(1, 1)] }, { up with sch := { up.sch with cfg := { streams := [{ kind := 0, mac := 2, delay := 2, items := 1, dst := 0x010CCD010001, appid := 0x4000, hash := 5, first := 0, rate := 0, vlan := 0 }] } }, svc := { ctx := [{}] } }, by decide +kernel, by decide +kernel, (fun _ _ h => nomatch h), by decide +kernel⟩,
   ⟨1, 0, { src := 1, trailer := none, mac := 0x010CCD010001, appid := 0x4000, hash := 5, rate := 0, smpCnt := 0, smpSynch := 2, items := [(1, 1)] }, { kind := 0, mac := 2, delay := 2, items := 1, dst := 0x010CCD010001, appid := 0x4000, hash := 5, first := 0, rate := 0, vlan := 0 }, { up with sch := { up.sch with cfg := { streams := [{ kind := 0, mac := 2, delay := 2, items := 1, dst := 0x010CCD010001, appid := 0x4000, hash := 5, first := 0, rate := 0, vlan := 0 }] } }, svc := { ctx := [{}] } }, by decide +kernel, (fun _ _ h => nomatch h), by decide +kernel⟩,
   ⟨1, 0, { src := 1, trailer := none, mac := 0x010CCD010001, appid := 0x4000, hash := 5, stNum := 1, sqNum := 0, ttl := 1000, test := false, sim := false, ndsCom := false, members := [some true] }, { kind := 1, mac := 2, delay := 2, items := 1, dst := 0x010CCD010001, appid := 0x4000, hash := 5, first := 0, rate := 0, vlan := 0 }, { up with sch := { up.sch with cfg := { streams := [{ kind := 1, mac := 2, delay := 2, items := 1, dst := 0x010CCD010001, appid := 0x4000, hash := 5, first := 0, rate := 0, vlan := 0 }] } }, svc := { ctx := [{}] } }, by decide +kernel, (fun _ _ h => nomatch h), by decide +kernel⟩,
   ⟨0, { kind := 1, mac := 2, delay := 2, items := 1, dst := 0x010CCD010001, appid := 0x4000, hash := 5, first := 0, rate := 0, vlan := 0 }, { up with sch := { up.sch with cfg := { streams := [{ kind := 1, mac := 2, delay := 2, items := 1, dst := 0x010CCD010001, appid := 0x4000, hash := 5, first := 0, rate := 0, vlan := 0 }] } }, svc := { ctx := [{ valid := true }] } }, by decide +kernel⟩⟩

theorem witness_PublishedStreams :
    (∃ (i : Nat) (c : StreamCfg) (s : State), s.ctxCfg i = some c ∧ c.kind = 2 ∧ s.publishes = true ∧ s.canSend c = true ∧ i < s.svc.ctx.length ∧ ((s.ctx i).started = true → (s.ctx i).last ≠ (s.pubFrame c).1)) ∧
    (∃ (i : Nat) (c : StreamCfg) (s : State), s.ctxCfg i = some c ∧ c.kind = 2 ∧ s.publishes = true ∧ s.canSend c = true ∧ i < s.svc.ctx.length ∧ c.code = 0) ∧
    (∃ (i : Nat) (c : StreamCfg) (s : State), s.ctxCfg i = some c ∧ c.kind = 2 ∧ s.publishes = true ∧ s.canSend c = true ∧ i < s.svc.ctx.length ∧ c.code = 0) ∧
    (∃ (i : Nat) (c : StreamCfg) (s : State), s.ctxCfg i = some c ∧ c.kind = 2 ∧ s.publishes = true ∧ s.canSend c = true ∧ i < s.svc.ctx.length ∧ c.code = 1) ∧
    (∃ (i : Nat) (c : StreamCfg) (s : State), s.ctxCfg i = some c ∧ c.kind = 2 ∧ s.publishes = true ∧ s.canSend c = true ∧ i < s.svc.ctx.length ∧ c.code = 1) ∧
    (∃ (i : Nat) (c : StreamCfg) (s : State), s.ctxCfg i = some c ∧ c.kind = 2 ∧ s.publishes = true ∧ s.canSend c = true ∧ i < s.svc.ctx.length ∧ c.code = 2) ∧
    (∃ (i : Nat) (c : StreamCfg) (s : State), s.ctxCfg i = some c ∧ c.kind = 2 ∧ s.publishes = true ∧ s.canSend c = true ∧ i < s.svc.ctx.length ∧ c.code = 2) ∧
    (∃ (i : Nat) (c : StreamCfg) (s : State), s.ctxCfg i = some c ∧ c.kind = 3 ∧ s.publishes = true ∧ s.canSend c = true ∧ (s.ctx i).started = true ∧ i < s.svc.ctx.length) :=
  ⟨⟨0, { kind := 2, mac := 2, delay := 2, items := 1, dst := 0x010CCD010001, appid := 0x4000, hash := 5, first := 0, rate := 0, vlan := 0 }, { up with sch := { up.sch with cfg := { streams := [{ kind := 2, mac := 2, delay := 2, items := 1, dst := 0x010CCD010001, appid := 0x4000, hash := 5, first := 0, rate := 0, vlan := 0 }] } }, svc := { ctx := [{}] } }, by decide +kernel⟩,
   ⟨0, { kind := 2, mac := 2, delay := 2, items := 1, dst := 0x010CCD010001, appid := 0x4000, hash := 5, first := 0, rate := 0, vlan := 0 }, { up with sch := { up.sch with cfg := { streams := [{ kind := 2, mac := 2, delay := 2, items := 1, dst := 0x010CCD010001, appid := 0x4000, hash := 5, first := 0, rate := 0, vlan := 0 }] } }, svc := { ctx := [{}] } }, by decide +kernel⟩,
   ⟨0, { kind := 2, mac := 2, delay := 2, items := 1, dst := 0x010CCD010001, appid := 0x4000, hash := 5, first := 0, rate := 0, vlan := 0 }, { up with sch := { up.sch with cfg := { streams := [{ kind := 2, mac := 2, delay := 2, items := 1, dst := 0x010CCD010001, appid := 0x4000, hash := 5, first := 0, rate := 0, vlan := 0 }] } }, svc := { ctx := [{}] } }, by decide +kernel⟩,
   ⟨0, { kind := 2, mac := 2, delay := 2, items := 1, dst := 0x010CCD010001, appid := 0x4000, hash := 5, first := 0, rate := 1, vlan := 0 }, { up with sch := { up.sch with cfg := { streams := [{ kind := 2, mac := 2, delay := 2, items := 1, dst := 0x010CCD010001, appid := 0x4000, hash := 5, first := 0, rate := 1, vlan := 0 }] } }, svc := { ctx := [{}] } }, by decide +kernel⟩,
   ⟨0, { kind := 2, mac := 2, delay := 2, items := 1, dst := 0x010CCD010001, appid := 0x4000, hash := 5, first := 0, rate := 1, vlan := 0 }, { up with sch := { up.sch with cfg := { streams := [{ kind := 2, mac := 2, delay := 2, items := 1, dst := 0x010CCD010001, appid := 0x4000, hash := 5, first := 0, rate := 1, vlan := 0 }] } }, svc := { ctx := [{}] } }, by decide +kernel⟩,
   ⟨0, { kind := 2, mac := 2, delay := 2, items := 1, dst := 0x010CCD010001, appid := 0x4000, hash := 5, first := 0, rate := 2, vlan := 0 }, { up with sch := { up.sch with cfg := { streams := [{ kind := 2, mac := 2, delay := 2, items := 1, dst := 0x010CCD010001, appid := 0x4000, hash := 5, first := 0, rate := 2, vlan := 0 }] } }, svc := { ctx := [{}] } }, by decide +kernel⟩,
   ⟨0, { kind := 2, mac := 2, delay := 2, items := 1, dst := 0x010CCD010001, appid := 0x4000, hash := 5, first := 0, rate := 2, vlan := 0 }, { up with sch := { up.sch with cfg := { streams := [{ kind := 2, mac := 2, delay := 2, items := 1, dst := 0x010CCD010001, appid := 0x4000, hash := 5, first := 0, rate := 2, vlan := 0 }] } }, svc := { ctx := [{}] } }, by decide +kernel⟩,
   ⟨0, { kind := 3, mac := 2, delay := 2, items := 1, dst := 0x010CCD010001, appid := 0x4000, hash := 5, first := 0, rate := 0, vlan := 0 }, { up with sch := { up.sch with cfg := { streams := [{ kind := 3, mac := 2, delay := 2, items := 1, dst := 0x010CCD010001, appid := 0x4000, hash := 5, first := 0, rate := 0, vlan := 0 }] } }, svc := { ctx := [{ started := true }] } }, by decide +kernel⟩⟩

theorem witness_PortTraining :
    (∃ (p : Nat) (s : State), s.portMay p = true ∧ (s.port p).st = .down) ∧
    (∃ (p : Nat) (s : State), s.portMay p = true ∧ p < s.chn.ports.length) ∧
    (∃ (p : Nat) (s : State), p < s.chn.ports.length ∧ (s.port p).st ∈ [PortState.clock, .align, .deskew, .spare, .switch]) ∧
    (∃ (p : Nat) (c : RecoveryCause) (s : State), p < s.chn.ports.length ∧ s.portUp p = true ∧ recoveryDue c = true) ∧
    (∃ (p : Nat) (s : State), p < s.chn.ports.length ∧ (s.port p).st = .recovery) :=
  ⟨⟨1, up, by decide +kernel⟩,
   ⟨1, up, by decide +kernel⟩,
   ⟨1, { up with chn := { ports := [{}, { st := .switch }] } }, by decide +kernel⟩,
   ⟨1, .violations 0 1024, { up with chn := { ports := [{}, { st := .up }] } }, by decide +kernel⟩,
   ⟨1, { up with chn := { ports := [{}, { st := .recovery }] } }, by decide +kernel⟩⟩

theorem witness_RingAndWalk :
    (∃ (s : State), s.chn.sender = true ∧ s.pwr.rootStrap = true ∧ (s.chn.ring = 1 ∨ s.chn.ring = 3) ∧ (∃ p ∈ s.chn.ports, 2 ≤ p.missed)) ∧
    (∃ (s : State), s.chn.sender = true ∧ s.pwr.rootStrap = true ∧ s.chn.ring = 2 ∧ (∀ p ∈ s.chn.ports, 8 ≤ p.back)) ∧
    (∃ (s : State), s.chn.sender = true ∧ s.pwr.rootStrap = true ∧ s.chn.ring = 1 ∧ s.portUp 0 = true ∧ s.portUp 1 = true ∧ s.chn.walkDue = true) ∧
    (∃ (s : State), s.chn.ring = 3 ∧ s.chn.sender = true ∧ s.chn.pass = 4) ∧
    (∃ (s : State), s.chn.ring = 3 ∧ s.chn.sender = false) ∧
    (∃ (s : State), s.chn.addr ≠ 0 ∧ s.chn.deputy = s.chn.addr ∧ s.chn.sender = false ∧ s.anyUp = true ∧ s.chn.upstream.isSome = true) ∧
    (∃ (s : State), s.chn.sender = false ∧ s.chn.noRoot = false ∧ s.anyUp = true ∧ (s.chn.marksLost = true ∨ ∃ p ∈ [0, 1], s.portUp p = true ∧ (s.port p).marks = false ∧ (s.port p).upOt + 5000 ≤ s.pwr.ot)) ∧
    (∃ (s : State), s.follower = true ∧ s.chn.sender = false ∧ s.chn.upstream.isSome = true ∧ s.chn.marksLost = false) :=
  ⟨⟨{ up with chn := { ports := [{}, { missed := 2 }], sender := true, ring := 3 }, pwr := { up.pwr with rootStrap := true } }, by decide +kernel⟩,
   ⟨{ up with chn := { sender := true, ring := 2, ports := [{ back := 8 }, { back := 8 }] }, pwr := { up.pwr with rootStrap := true } }, by decide +kernel⟩,
   ⟨{ up with chn := { ports := [{ st := .up }, { st := .up }], sender := true, ring := 1, walkDue := true }, pwr := { up.pwr with rootStrap := true } }, by decide +kernel⟩,
   ⟨{ up with chn := { ports := [{}, {}], sender := true, ring := 3, pass := 4 } }, by decide +kernel⟩,
   ⟨{ up with chn := { ports := [{}, {}], ring := 3 } }, by decide +kernel⟩,
   ⟨{ up with chn := { ports := [{ st := .up }, { st := .up }], addr := 63, deputy := 63, upstream := some 0 } }, by decide +kernel⟩,
   ⟨{ up with chn := { ports := [{ st := .up }, { st := .up }], marksLost := true } }, by decide +kernel⟩,
   ⟨{ up with chn := { ports := [{ st := .up }, { st := .up }], upstream := some 1 } }, by decide +kernel⟩⟩

theorem witness_UnitSlots :
    (∃ (p : Nat) (n : Nat) (l : List RxSym) (s : State), s.portUp p = true ∧ 1 ≤ n ∧ n ≤ 63 ∧ (l.all (fun b => b = .data 0) = false) ∧ p < s.chn.ports.length) ∧
    (∃ (a : Nat) (s : State), (∃ q ∈ s.chn.src, q.1 = a) ∧ (s.src a).lost = false ∧ (3 ≤ (s.src a).absent ∨ ((s.src a).taken = false ∧ (s.chn.marksLost = true ∨ s.anyUp = false)))) ∧
    (∃ (p : Nat) (s : State), s.portUp p = true ∧ s.chn.sender = false ∧ ((s.port (1 - p)).marks = false ∨ s.chn.marksLost = true)) :=
  ⟨⟨1, 63, [.violation], { up with chn := { ports := [{}, { st := .up }] } }, by decide +kernel⟩,
   ⟨5, { up with chn := { ports := [{}, {}], src := [(5, { absent := 3 })] } }, by decide +kernel⟩,
   ⟨1, { up with chn := { ports := [{}, { st := .up }] } }, by decide +kernel⟩⟩

theorem witness_ChainCycles :
    (∃ (s : State), s.maySend = true) ∧
    (∃ (p : Nat) (s : State), s.portUp p = true ∧ p < s.chn.ports.length ∧ s.chn.sender = true) ∧
    (∃ (p : Nat) (sec : Nat) (cyc : Nat) (s : State), s.portUp p = true ∧ p < s.chn.ports.length ∧ s.chn.sender = false ∧ s.chn.second = sec ∧ s.chn.cycle = cyc ∧ s.chn.upstream.isSome = true) ∧
    (∃ (p : Nat) (sec : Nat) (cyc : Nat) (s : State), s.portUp p = true ∧ p < s.chn.ports.length ∧ s.chn.sender = false ∧ (s.chn.second ≠ sec ∨ s.chn.cycle ≠ cyc ∨ s.chn.upstream = none)) ∧
    (∃ (p : Nat) (l : List RxSym) (s : State), s.portUp p = true ∧ p < s.chn.ports.length ∧ (∀ b, l = b.map RxSym.data → ¬ SlotSealed 0x3F4 b)) ∧
    (∃ (p : Nat) (l : List RxSym) (s : State), ∃ (b : _), s.portUp p = true ∧ l = b.map RxSym.data ∧ SlotSealed 0x3F4 b ∧ field b 0x10 1 = 0 ∧ (∀ x ∈ slice b 0x20 16, x = 0)) ∧
    (∃ (p : Nat) (l : List RxSym) (s : State), ∃ (b : _), s.portUp p = true ∧ l = b.map RxSym.data ∧ SlotSealed 0x3F4 b ∧ field b 0x10 1 ≠ 0 ∧ s.chn.sender = false) ∧
    (∃ (p : Nat) (l : List RxSym) (s : State), ∃ (b : _), s.portUp p = true ∧ l = b.map RxSym.data ∧ SlotSealed 0x3F4 b ∧ field b 0x10 1 ≠ 0 ∧ s.chn.sender = true ∧ field b 0x10 1 ≠ s.chn.addr ∧ s.chn.deputyActs = true) ∧
    (∃ (p : Nat) (l : List RxSym) (s : State), ∃ (b : _), s.portUp p = true ∧ l = b.map RxSym.data ∧ SlotSealed 0x3F4 b ∧ field b 0x10 1 ≠ 0 ∧ s.chn.sender = true ∧ field b 0x10 1 ≠ s.chn.addr ∧ s.chn.deputyActs = false ∧ field b 0x10 1 ≠ s.chn.deputy) ∧
    (∃ (p : Nat) (l : List RxSym) (s : State), ∃ (b : _), s.portUp p = true ∧ l = b.map RxSym.data ∧ SlotSealed 0x3F4 b ∧ field b 0x10 1 ≠ 0 ∧ s.chn.sender = true ∧ field b 0x10 1 ≠ s.chn.addr ∧ s.chn.deputyActs = false ∧ field b 0x10 1 = s.chn.deputy) :=
  ⟨⟨{ up with chn := { ports := [{ st := .up }, { st := .up }], sender := true } }, by decide +kernel⟩,
   ⟨1, { up with chn := { ports := [{ st := .up }, { st := .up }], sender := true } }, by decide +kernel⟩,
   ⟨1, 0, 0, { up with chn := { ports := [{ st := .up }, { st := .up }], upstream := some 0 } }, by decide +kernel⟩,
   ⟨1, 0, 76799, { up with chn := { ports := [{ st := .up }, { st := .up }], upstream := some 0 } }, by decide +kernel⟩,
   ⟨1, [.violation], { up with chn := { ports := [{}, { st := .up }] } }, by decide +kernel, by decide +kernel, fun b h => absurd h (by cases b <;> simp)⟩,
   ⟨1, (sealB (zeros 1012)).map .data, { up with chn := { ports := [{}, { st := .up }] } }, sealB (zeros 1012), by decide +kernel, rfl, Facts.ChainRules.sealed_mk _ _ (by decide +kernel), by decide +kernel, by decide +kernel⟩,
   ⟨1, (sealB (zeros 16 ++ b1 2 ++ zeros 995)).map .data, { up with chn := { ports := [{}, { st := .up }] } }, sealB (zeros 16 ++ b1 2 ++ zeros 995), by decide +kernel, rfl, Facts.ChainRules.sealed_mk _ _ (by decide +kernel), by decide +kernel, by decide +kernel⟩,
   ⟨1, (sealB (zeros 16 ++ b1 2 ++ zeros 995)).map .data, { up with chn := { ports := [{}, { st := .up }], sender := true, addr := 5, deputyActs := true } }, sealB (zeros 16 ++ b1 2 ++ zeros 995), by decide +kernel, rfl, Facts.ChainRules.sealed_mk _ _ (by decide +kernel), by decide +kernel, by decide +kernel, by decide +kernel, by decide +kernel⟩,
   ⟨1, (sealB (zeros 16 ++ b1 2 ++ zeros 995)).map .data, { up with chn := { ports := [{}, { st := .up }], sender := true, addr := 5, deputy := 6 } }, sealB (zeros 16 ++ b1 2 ++ zeros 995), by decide +kernel, rfl, Facts.ChainRules.sealed_mk _ _ (by decide +kernel), by decide +kernel, by decide +kernel, by decide +kernel, by decide +kernel, by decide +kernel⟩,
   ⟨1, (sealB (zeros 16 ++ b1 2 ++ zeros 995)).map .data, { up with chn := { ports := [{}, { st := .up }], sender := true, addr := 5, deputy := 2 } }, sealB (zeros 16 ++ b1 2 ++ zeros 995), by decide +kernel, rfl, Facts.ChainRules.sealed_mk _ _ (by decide +kernel), by decide +kernel, by decide +kernel, by decide +kernel, by decide +kernel, by decide +kernel⟩⟩

theorem witness_RemoteAccess :
    (∃ (cls : KeyClass) (s : State), s.mayWrite cls 0x403C ∧ s.mboxSel < s.chn.mbox.length ∧ (s.mbox s.mboxSel).busy = false) ∧
    (∃ (m : Nat) (e : List Byte) (s : State), m < 8 ∧ s.chn.addr ≠ 0 ∧ field e 0 1 = s.chn.addr ∧ nth s.chn.tags m ≠ field e 1 1 ∧ s.chn.sender = false ∧ s.alive = true) ∧
    (∃ (m : Nat) (e : List Byte) (s : State), m < 8 ∧ m < s.chn.mbox.length ∧ (s.mbox m).busy = true ∧ (s.mbox m).due = false ∧ field e 1 1 = (s.mbox m).tag ∧ field e 0 1 = (s.mbox m).target) ∧
    (∃ (m : Nat) (s : State), m < 8 ∧ m < s.chn.mbox.length ∧ (s.mbox m).busy = true ∧ (s.mbox m).due = false ∧ 8 ≤ (s.mbox m).age) ∧
    (∃ (cls : KeyClass) (s : State), s.mayRead cls 0x4050) :=
  ⟨⟨.host, { up with regs := [(0x4030, 7#32)] }, may_write (by decide +kernel), by decide +kernel⟩,
   ⟨7, b1 63 ++ b1 1 ++ zeros 14, { up with chn := { addr := 63 } }, by decide +kernel⟩,
   ⟨7, b1 63 ++ b1 1 ++ zeros 14, { up with chn := { mbox := List.replicate 8 { target := 63, busy := true, tag := 1 } } }, by decide +kernel⟩,
   ⟨7, { up with chn := { mbox := List.replicate 8 { busy := true, age := 8 } } }, by decide +kernel⟩,
   ⟨.net, up, may_read (by decide +kernel)⟩⟩

theorem witness_HingeRoles :
    (∃ (s : State), (s.standsBy = false ∨ s.hng.wireFault = true)) ∧
    (∃ (s : State), s.standsBy = true ∧ s.hng.wireFault = false) ∧
    (∃ (s : State), s.hinged = true ∧ s.sys.st = .blocked ∧ s.enabled = true ∧ s.ticking = true ∧ s.hng.peer = false ∧ s.actSpan = false ∧ s.sys.shutting = false ∧ (s.preferred = true ∨ s.hng.freeOt + 200000 ≤ s.pwr.ot)) ∧
    (∃ (s : State), s.hng.claimed = true ∧ s.sys.st = .inService) ∧
    (∃ (s : State), s.standbyDue = true) :=
  ⟨⟨up, by decide +kernel⟩,
   ⟨{ inSt .standby with sch := { up.sch with image := true, cfg := { enable := true, hinge := some { peer := 2, pref := true, mask := 0, insts := [] } } }, hng := {  } }, by decide +kernel⟩,
   ⟨{ inSt .blocked with sch := { up.sch with image := true, cfg := { enable := true, hinge := some { peer := 2, pref := true, mask := 0, insts := [] } } }, hng := { freeOt := 800000 } }, by decide +kernel, by decide +kernel, by decide +kernel, by decide +kernel, by decide +kernel, by decide +kernel, by decide +kernel, Or.inr (by decide +kernel)⟩,
   ⟨{ inSt .inService with sch := { up.sch with image := true, cfg := { enable := true, hinge := some { peer := 2, pref := true, mask := 0, insts := [] } } }, hng := { claimed := true } }, by decide +kernel⟩,
   ⟨{ inSt .blocked with sch := { up.sch with image := true, cfg := { enable := true, hinge := some { peer := 2, pref := true, mask := 0, insts := [] } } }, hng := { peer := true, comparing := true, adopted := some 0, calm := 9600 } }, by decide +kernel⟩⟩

theorem witness_AnchorsAndHandover :
    (∃ (l : List Word) (a : Bool) (s : State), s.hinged = true ∧ (a = true ∨ frameOk l = false)) ∧
    (∃ (l : List Word) (a : Bool) (s : State), s.hinged = true ∧ a = false ∧ frameOk l = true ∧ bitsOf (nth l 0) 23 16 = 1 ∧ s.takesAnchors = true) ∧
    (∃ (s : State), s.hng.frame ≠ none ∧ s.takesAnchors = false) ∧
    (∃ (s : State), s.hng.frame ≠ none ∧ s.takesAnchors = true) ∧
    (∃ (g : Nat) (k : Nat) (s : State), s.hinged = true ∧ s.sys.st = .standby ∧ s.sch.act = .idle ∧ ((List.range 2).find? (fun k => s.hallSet k && s.hallOk k && decide (field (s.slotImage k) 0x10 4 = g) && (s.checkImage (s.slotImage k) (s.slotLen k)).isNone) = some k)) ∧
    (∃ (s : State), s.sch.actHinge = true ∧ s.sys.st = .inService) ∧
    (∃ (cls : KeyClass) (s : State), s.mayWrite cls 0x4400 ∧ s.hinged = true) ∧
    (∃ (s : State), s.hinged = true ∧ s.sys.st = .standby) ∧
    (∃ (s : State), s.hng.hoResult = 1) ∧
    (∃ (s : State), s.hng.hoResult = 1 ∧ s.hng.hoAck = false) ∧
    (∃ (s : State), s.hinged = true ∧ s.sys.st = .standby ∧ 3 ≤ s.hng.differ) ∧
    (∃ (s : State), s.hng.differ = 0) :=
  ⟨⟨[], true, { inSt .blocked with sch := { up.sch with image := true, cfg := { enable := true, hinge := some { peer := 2, pref := true, mask := 0, insts := [] } } }, hng := {  } }, by decide +kernel⟩,
   ⟨sealW [0x0001484E#32, 0x00000000#32, 0x00000000#32], false, { inSt .standby with sch := { up.sch with image := true, cfg := { enable := true, hinge := some { peer := 2, pref := true, mask := 0, insts := [] } } }, hng := {  } }, by decide +kernel⟩,
   ⟨{ inSt .blocked with sch := { up.sch with image := true, cfg := { enable := true, hinge := some { peer := 2, pref := true, mask := 0, insts := [] } } }, hng := { frame := some [] } }, by decide +kernel⟩,
   ⟨{ inSt .standby with sch := { up.sch with image := true, cfg := { enable := true, hinge := some { peer := 2, pref := true, mask := 0, insts := [] } } }, hng := { frame := some [] } }, by decide +kernel⟩,
   ⟨42, 0, wLoaded, by decide +kernel, by decide +kernel, by decide +kernel, loaded_find⟩,
   ⟨{ inSt .inService with sch := { up.sch with image := true, cfg := { enable := true, hinge := some { peer := 2, pref := true, mask := 0, insts := [] } }, actHinge := true }, hng := {  } }, by decide +kernel⟩,
   ⟨.chain, { inSt .inService with sch := { up.sch with image := true, cfg := { enable := true, hinge := some { peer := 2, pref := true, mask := 0, insts := [] } } }, hng := {  } }, may_write (by decide +kernel), by decide +kernel⟩,
   ⟨{ inSt .standby with sch := { up.sch with image := true, cfg := { enable := true, hinge := some { peer := 2, pref := true, mask := 0, insts := [] } } }, hng := {  } }, by decide +kernel⟩,
   ⟨{ inSt .blocked with sch := { up.sch with image := true, cfg := { enable := true, hinge := some { peer := 2, pref := true, mask := 0, insts := [] } } }, hng := { hoResult := 1 } }, by decide +kernel⟩,
   ⟨{ inSt .blocked with sch := { up.sch with image := true, cfg := { enable := true, hinge := some { peer := 2, pref := true, mask := 0, insts := [] } } }, hng := { hoResult := 1 } }, by decide +kernel⟩,
   ⟨{ inSt .standby with sch := { up.sch with image := true, cfg := { enable := true, hinge := some { peer := 2, pref := true, mask := 0, insts := [] } } }, hng := { differ := 3 } }, by decide +kernel⟩,
   ⟨{ inSt .blocked with sch := { up.sch with image := true, cfg := { enable := true, hinge := some { peer := 2, pref := true, mask := 0, insts := [] } } }, hng := { wireFault := true } }, by decide +kernel⟩⟩

theorem witness_HostFrames :
    (∃ p ∈ [((fun (cls : KeyClass) (f : List Byte) => Instr.hostRead cls f), 0x0B, false), (fun cls f => .hostWrite cls f, 0x02, true), (fun cls f => .hostQuadRead cls f, 0xEB, false), (fun cls f => .hostQuadWrite cls f, 0x32, true)], ∃ (cls : KeyClass) (f : List Byte) (s : State), s.pathUp cls = true ∧ f.length = 9 ∧ reqCmd f = p.2.1 ∧ reqCrcOk f = false) ∧
    (∃ p ∈ [((fun (cls : KeyClass) (f : List Byte) => Instr.hostRead cls f), 0x0B, false), (fun cls f => .hostWrite cls f, 0x02, true), (fun cls f => .hostQuadRead cls f, 0xEB, false), (fun cls f => .hostQuadWrite cls f, 0x32, true)], ∃ (cls : KeyClass) (f : List Byte) (s : State), s.pathUp cls = true ∧ f.length = 9 ∧ reqCmd f = p.2.1 ∧ reqCrcOk f = true ∧ cls = .debug ∧ (p.2.1 = 0xEB ∨ p.2.1 = 0x32)) ∧
    (∃ p ∈ [((fun (cls : KeyClass) (f : List Byte) => Instr.hostRead cls f), 0x0B, false), (fun cls f => .hostWrite cls f, 0x02, true), (fun cls f => .hostQuadRead cls f, 0xEB, false), (fun cls f => .hostQuadWrite cls f, 0x32, true)], ∃ (cls : KeyClass) (f : List Byte) (s : State), s.pathUp cls = true ∧ f.length = 9 ∧ reqCmd f = p.2.1 ∧ reqCrcOk f = true ∧ (cls ≠ .debug ∨ p.2.1 = 0x0B ∨ p.2.1 = 0x02) ∧ s.pwr.pf ≠ .none) ∧
    (∃ p ∈ [((fun (cls : KeyClass) (f : List Byte) => Instr.hostRead cls f), 0x0B, false), (fun cls f => .hostWrite cls f, 0x02, true), (fun cls f => .hostQuadRead cls f, 0xEB, false), (fun cls f => .hostQuadWrite cls f, 0x32, true)], ∃ (cls : KeyClass) (f : List Byte) (s : State), ∃ (u : State) (code : Nat) (vr : Bool) (d : Word), s.pathUp cls = true ∧ f.length = 9 ∧ reqCmd f = p.2.1 ∧ reqCrcOk f = true ∧ (cls ≠ .debug ∨ p.2.1 = 0x0B ∨ p.2.1 = 0x02) ∧ s.pwr.pf = .none ∧ ((targetOf (reqAddr f) = none ∧ u = s ∧ code = 4 ∧ vr = false ∧ d = 0) ∨
            (∃ g, targetOf (reqAddr f) = some g ∧
              ((p.2.2 = false ∧ s.may cls (reqAddr f) (romRead g) 0 = true ∧ u = s.readEffect (reqAddr f) ∧ code = 0 ∧ vr = false ∧ d = s.wordView cls (reqAddr f) g) ∨
                (p.2.2 = false ∧ s.may cls (reqAddr f) (romRead g) 0 = false ∧ u = s.keyRefused cls 0 (reqAddr f) (reqData f) ∧ code = 1 ∧ vr = false ∧ d = 0) ∨
                (p.2.2 = true ∧ writable g = true ∧ s.may cls (reqAddr f) (romWrite g) 1 = false ∧ u = s.keyRefused cls 1 (reqAddr f) (reqData f) ∧ code = 1 ∧ vr = false ∧ d = 0) ∨
                (p.2.2 = true ∧ (writable g = true → s.may cls (reqAddr f) (romWrite g) 1 = true) ∧ s.sys.st = .boot ∧ reqAddr f ∉ [0x0010, 0x0014, 0x0018] ∧ u = s ∧ code = 5 ∧ vr = false ∧ d = 0) ∨
                (p.2.2 = true ∧ writable g = true ∧ s.may cls (reqAddr f) (romWrite g) 1 = true ∧ (s.sys.st ≠ .boot ∨ reqAddr f ∈ [0x0010, 0x0014, 0x0018]) ∧
                  (u, vr) = s.applyWord cls (reqAddr f) (reqData f) g ∧ code = 0 ∧ d = u.wordView cls (reqAddr f) g) ∨
                (p.2.2 = true ∧ writable g = false ∧ (s.sys.st ≠ .boot ∨ reqAddr f ∈ [0x0010, 0x0014, 0x0018]) ∧ u = s ∧ code = 0 ∧ vr = false ∧ d = s.wordView cls (reqAddr f) g))))) :=
  ⟨⟨((fun (cls : KeyClass) (f : List Byte) => Instr.hostRead cls f), 0x0B, false), List.mem_cons_self, .host, [0x0B, 0, 4, 0, 0, 0, 0, 0, 0], up, by decide +kernel⟩,
   ⟨((fun (cls : KeyClass) (f : List Byte) => Instr.hostQuadWrite cls f), 0x32, true), by simp, .debug, req 0x32 4 0x30, up, by decide +kernel⟩,
   ⟨((fun (cls : KeyClass) (f : List Byte) => Instr.hostRead cls f), 0x0B, false), List.mem_cons_self, .net, req 0x0B 4 0, { inSt .blocked with pwr := { up.pwr with pf := .flushing } }, by decide +kernel⟩,
   ⟨((fun (cls : KeyClass) (f : List Byte) => Instr.hostRead cls f), 0x0B, false), List.mem_cons_self, .net, req 0x0B 4 0, up, up.readEffect (reqAddr (req 0x0B 4 0)), 0, false, up.wordView .net (reqAddr (req 0x0B 4 0)) (.reg ⟨0x0004, 1, 0xF0, 0, 3⟩), by decide +kernel, by decide +kernel, by decide +kernel, by decide +kernel, by decide +kernel, (by decide +kernel), Or.inr ⟨.reg ⟨0x0004, 1, 0xF0, 0, 3⟩, by decide +kernel, Or.inl ⟨rfl, by decide +kernel, rfl, rfl, rfl, rfl⟩⟩⟩⟩

theorem witness_BrokenFramesAndWrites :
    (∃ (cls : KeyClass) (f : List Byte) (s : State), s.pathUp cls = true ∧ f.length = 9 ∧ reqCmd f ≠ 0x0B ∧ reqCmd f ≠ 0x02 ∧ (cls = .debug ∨ (reqCmd f ≠ 0xEB ∧ reqCmd f ≠ 0x32))) ∧
    (∃ (cls : KeyClass) (n : Nat) (s : State), s.pathUp cls = true ∧ n < 9) ∧
    (∃ (cls : KeyClass) (a : Nat) (s : State), ∃ (g : _), targetOf a = some g ∧ s.pathUp cls = true ∧ s.pwr.pf = .none ∧ writable g = true ∧ s.may cls a (romWrite g) 1 = true ∧ (s.sys.st ≠ .boot ∨ a ∈ [0x0010, 0x0014, 0x0018])) ∧
    (∃ (cls : KeyClass) (a : Nat) (s : State), ∃ (g : _), targetOf a = some g ∧ s.pathUp cls = true ∧ s.pwr.pf = .none ∧ writable g = true ∧ s.may cls a (romWrite g) 1 = false) ∧
    (∃ (cls : KeyClass) (s : State), s.pathUp cls = true ∧ s.pwr.pf = .none ∧ s.grantsWrite cls 0x0010) ∧
    (∃ (cls : KeyClass) (s : State), s.pathUp cls = true ∧ s.pwr.pf = .none ∧ s.grantsWrite cls 0x0018) :=
  ⟨⟨.debug, req 0xEB 4 0, up, by decide +kernel⟩,
   ⟨.host, 8, up, by decide +kernel⟩,
   ⟨.chain, 0x0004, up, .reg ⟨0x0004, 1, 0xF0, 0, 3⟩, by decide +kernel⟩,
   ⟨.net, 0x0004, up, .reg ⟨0x0004, 1, 0xF0, 0, 3⟩, by decide +kernel⟩,
   ⟨.host, { State.reset with host := { up := true } }, by decide +kernel, by decide +kernel, grants_write (by decide +kernel)⟩,
   ⟨.host, { State.reset with host := { up := true } }, by decide +kernel, by decide +kernel, grants_write (by decide +kernel)⟩⟩

theorem witness_KeywayTable :
    (∃ p ∈ ([(0x0000, 0x000F, [.host, .chain]), (0x0010, 0x03FF, [.host]), (0x0400, 0x07FF, [.host]), (0x0800, 0x0BFF, [.host, .chain]), (0x0C00, 0x0FFF, [.host, .chain, .net, .debug]), (0x1000, 0x1003, [.host, .chain, .net]), (0x1004, 0x13FF, [.host, .chain, .net, .debug]), (0x1400, 0x145F, [.host, .chain]), (0x1460, 0x1463, [.host, .chain, .net, .debug]), (0x1464, 0x146F, [.host, .chain]), (0x1470, 0x1473, [.host, .chain, .net, .debug]), (0x1474, 0x17FF, [.host, .chain]), (0x1800, 0x1BFF, [.host, .chain]), (0x1C00, 0x1C23, [.host, .chain]), (0x1C24, 0x1C27, [.host, .chain, .net]), (0x1C28, 0x1FFF, [.host, .chain]), (0x2000, 0x23FF, [.host, .chain, .net, .debug]), (0x2400, 0x242F, [.host, .chain]), (0x2430, 0x2433, [.host, .chain, .net]), (0x2434, 0x2437, [.host, .chain]), (0x2438, 0x243B, [.host, .chain, .net, .debug]), (0x243C, 0x27FF, [.host, .chain]), (0x2800, 0x2803, [.host, .chain, .net, .debug]), (0x2804, 0x2BFF, [.host, .chain]), (0x2C00, 0x2C83, [.host, .chain]), (0x2C84, 0x2C87, [.host, .chain, .net, .debug]), (0x2C88, 0x2FFF, [.host, .chain]), (0x3000, 0x3023, [.host, .chain, .net, .debug]), (0x3024, 0x33FF, [.host, .chain]), (0x3400, 0x3407, [.host, .chain]), (0x3408, 0x340B, [.host, .chain, .net, .debug]), (0x340C, 0x37FF, [.host]), (0x3800, 0x3827, [.host, .chain]), (0x3828, 0x3837, [.host]), (0x3838, 0x3BFF, [.host, .chain]), (0x3C00, 0x3C0F, [.host]), (0x3C10, 0x3FFF, [.host, .chain, .net, .debug]), (0x4000, 0x402F, [.host, .chain]), (0x4030, 0x403F, [.host]), (0x4040, 0x43FF, [.host, .chain, .net, .debug]), (0x4400, 0x47FF, [.host, .chain]), (0x9000, 0x9FFF, [.host, .chain])] : List (Nat × Nat × List KeyClass)), ∃ (a : Nat) (g : Target), ∃ (s : State), p.1 ≤ a ∧ a ≤ p.2.1 ∧ targetOf a = some g ∧ writable g = true ∧ s.key.entries = []) ∧
    (∃ (a : Nat) (g : Target) (s : State), targetOf a = some g ∧ s.key.entries = []) ∧
    (∃ (a : Nat) (g : Target), targetOf a = some g ∧ (g = .ledgerWin ∨ g = .captureWin ∨ g = .probeWin)) ∧
    (∃ (cls : KeyClass) (f : List Byte) (g : Target) (s : State), s.pathUp cls = true ∧ f.length = 9 ∧ reqCmd f = 0x02 ∧ reqCrcOk f = true ∧ s.pwr.pf = .none ∧ s.sys.st ≠ .boot ∧ targetOf (reqAddr f) = some g ∧ writable g = false) :=
  ⟨⟨(0x9000, 0x9FFF, [.host, .chain]), by decide +kernel, 0x9FFC, .transferWin, up, by decide +kernel⟩,
   ⟨0x9FFC, .transferWin, up, by decide +kernel⟩,
   ⟨0xFFFC, .probeWin, by decide +kernel⟩,
   ⟨.net, req 0x02 0xFFFC 1, .probeWin, up, by decide +kernel⟩⟩

theorem witness_KeywayRefusal :
    (∃ p ∈ [((fun (cls : KeyClass) (f : List Byte) => Instr.hostRead cls f), 0x0B, 0), (fun cls f => .hostWrite cls f, 0x02, 1), (fun cls f => .hostQuadRead cls f, 0xEB, 0), (fun cls f => .hostQuadWrite cls f, 0x32, 1)], ∃ (cls : KeyClass) (f : List Byte) (g : Target) (s : State), s.pathUp cls = true ∧ f.length = 9 ∧ reqCmd f = p.2.1 ∧ reqCrcOk f = true ∧ s.pwr.pf = .none ∧ (cls = .debug → p.2.1 = 0x0B ∨ p.2.1 = 0x02) ∧ targetOf (reqAddr f) = some g ∧ (p.2.2 = 0 → s.may cls (reqAddr f) (romRead g) 0 = false) ∧ (p.2.2 = 1 → writable g = true ∧ s.may cls (reqAddr f) (romWrite g) 1 = false)) :=
  ⟨((fun (cls : KeyClass) (f : List Byte) => Instr.hostRead cls f), 0x0B, 0), List.mem_cons_self, .net, req 0x0B 0x9000 0, .transferWin, up, by decide +kernel⟩

theorem witness_JobSteps :
    (∃ (s : State), s.alive = true ∧ s.pwr.pf = .none ∧ s.jobOrder ≠ []) ∧
    (∃ (s : State), ∃ (t : Nat) (round : List Nat), s.alive = true ∧ s.pwr.pf = .none ∧ ((∃ a b, s.jobOrder = a ++ t :: b ∧ (∀ x ∈ a, x ∈ s.job.round) ∧ t ∉ s.job.round ∧ round = s.job.round ++ [t]) ∨ ((∀ x ∈ s.jobOrder, x ∈ s.job.round) ∧ s.jobOrder.head? = some t ∧ round = [t])) ∧ t = 0x10000) ∧
    (∃ (s : State), ∃ (t : Nat) (round : List Nat), s.alive = true ∧ s.pwr.pf = .none ∧ ((∃ a b, s.jobOrder = a ++ t :: b ∧ (∀ x ∈ a, x ∈ s.job.round) ∧ t ∉ s.job.round ∧ round = s.job.round ++ [t]) ∨ ((∀ x ∈ s.jobOrder, x ∈ s.job.round) ∧ s.jobOrder.head? = some t ∧ round = [t])) ∧ t = 0x10001) ∧
    (∃ (s : State), ∃ (t : Nat) (round : List Nat), ∃ (j : _), s.alive = true ∧ s.pwr.pf = .none ∧ ((∃ a b, s.jobOrder = a ++ t :: b ∧ (∀ x ∈ a, x ∈ s.job.round) ∧ t ∉ s.job.round ∧ round = s.job.round ++ [t]) ∨ ((∀ x ∈ s.jobOrder, x ∈ s.job.round) ∧ s.jobOrder.head? = some t ∧ round = [t])) ∧ t ≠ 0x10000 ∧ t ≠ 0x10001 ∧ (s.job.out.find? (fun x => x.ticket = t) = some j)) :=
  ⟨⟨{ up with job := { out := [{ ticket := 7, code := 1, arg := 0, cls := .chain, step := 0 }] } }, by decide +kernel⟩,
   ⟨{ up with cap := { writing := true } }, 0x10000, [0x10000], by decide +kernel, by decide +kernel, Or.inl ⟨[], [], by decide +kernel, by simp, by decide +kernel, rfl⟩, rfl⟩,
   ⟨{ up with pe := { tests := [(3, .isolation)] } }, 0x10001, [0x10001], by decide +kernel, by decide +kernel, Or.inl ⟨[], [], by decide +kernel, by simp, by decide +kernel, rfl⟩, rfl⟩,
   ⟨{ up with job := { out := [{ ticket := 7, code := 4, arg := 0, cls := .chain, step := 0 }], round := [7] } }, 7, [7], { ticket := 7, code := 4, arg := 0, cls := .chain, step := 0 }, by decide +kernel, by decide +kernel, Or.inr ⟨by decide +kernel, by decide +kernel, rfl⟩, by decide +kernel, by decide +kernel, by decide +kernel⟩⟩

theorem witness_ClockFallback :
    (∃ (s : State), ∃ p ∈ [(ClockFail.refStopped, 1, false), (.refFreq, 2, true)], s.alive = true ∧ s.clk.refStable = true ∧ (p.2.2 = false ∨ s.clk.ircOk = true) ∧ (s.clk.level ≠ 0 ∨ s.clk.ref ≠ 0)) ∧
    (∃ (s : State), ∃ p ∈ [(ClockFail.refStopped, 1, false), (.refFreq, 2, true)], s.alive = true ∧ s.clk.refStable = true ∧ (p.2.2 = false ∨ s.clk.ircOk = true) ∧ s.clk.level = 0 ∧ s.clk.ref = 0 ∧ s.clk.ircOk = true) ∧
    (∃ (s : State), ∃ p ∈ [(ClockFail.refStopped, 1, false), (.refFreq, 2, true)], s.alive = true ∧ s.clk.refStable = true ∧ (p.2.2 = false ∨ s.clk.ircOk = true) ∧ s.clk.level = 0 ∧ s.clk.ref = 0 ∧ s.clk.ircOk = false) ∧
    (∃ (s : State), s.alive = true ∧ s.clk.sysLock = true ∧ s.clk.sysSrc = 0 ∧ s.clk.ircOk = true) ∧
    (∃ (s : State), ∃ p ∈ [(ClockFail.sysStopped, false), (.sysFreq, true)], s.alive = true ∧ s.clk.sysLock = true ∧ s.clk.sysSrc = 0 ∧ p.2 = false ∧ s.clk.ircOk = false) ∧
    (∃ (s : State), s.alive = true ∧ s.clk.ircOk = true ∧ s.clk.level = 0 ∧ s.clk.ref ≠ 1) ∧
    (∃ (s : State), s.alive = true ∧ s.clk.ircOk = true ∧ (s.clk.level = 1 ∨ (s.clk.level = 0 ∧ s.clk.ref = 1))) ∧
    (∃ (s : State), s.alive = true ∧ s.clk.lfoFail = false) ∧
    (∃ (s : State), s.alive = true ∧ s.sys.st = .boot ∧ s.clk.ircOk = true ∧ s.refEn = true ∧ s.clk.refStable = false ∧ s.clk.level = 0 ∧ s.clk.sysLock = false) :=
  ⟨⟨{ inSt .blocked with clk := { up.clk with level := 1 } }, (.refFreq, 2, true), by decide +kernel, by decide +kernel⟩,
   ⟨up, (.refFreq, 2, true), by decide +kernel, by decide +kernel⟩,
   ⟨{ inSt .blocked with clk := { up.clk with ircOk := false } }, (.refStopped, 1, false), by decide +kernel, by decide +kernel⟩,
   ⟨up, by decide +kernel⟩,
   ⟨{ inSt .blocked with clk := { up.clk with ircOk := false } }, (.sysStopped, false), by decide +kernel, by decide +kernel⟩,
   ⟨up, by decide +kernel⟩,
   ⟨{ inSt .blocked with clk := { up.clk with level := 1 } }, by decide +kernel⟩,
   ⟨up, by decide +kernel⟩,
   ⟨{ inSt .boot with clk := { up.clk with refStable := false, sysLock := false }, regs := [(0x0800, 1#32)] }, by decide +kernel⟩⟩

theorem witness_ClockRecovery :
    (∃ (s : State), s.clk.level = 1 ∧ s.clk.sysSrc = 1 ∧ s.clk.ircOk = true) ∧
    (∃ (s : State), s.alive = true ∧ s.clk.ircOk = true ∧ s.clk.level = 1 ∧ s.clk.convHold = true ∧ (s.refEn = true ∨ s.clk.sysLock = false)) ∧
    (∃ (s : State), s.alive = true ∧ s.clk.ircOk = true ∧ s.clk.level = 1 ∧ s.clk.convHold = true ∧ s.refEn = false ∧ s.clk.sysLock = true) ∧
    (∃ (s : State), s.alive = true ∧ s.clk.ircOk = true ∧ s.clk.level = 2 ∧ s.clk.sysSrc = 1) ∧
    (∃ (s : State), s.alive = true ∧ s.clk.level = 2 ∧ s.clk.ircOk = false) ∧
    (∃ (s : State), s.alive = true ∧ s.clk.ircOk = false) ∧
    (∃ (f : Nat) (s : State), ∃ p ∈ [(10, 1), (20, 2), (25, 3)], s.alive = true ∧ s.clk.ircOk = true ∧ 95 * p.1 ≤ 100 * f ∧ 100 * f ≤ 105 * p.1) ∧
    (∃ (s : State), s.alive = true ∧ s.refEn = true ∧ s.clk.refStable = true ∧ s.clk.ref = 1 ∧ s.clk.level ≤ 1 ∧ s.clk.sysLock = true ∧ s.clk.convLock = true ∧ s.clk.level = 0) ∧
    (∃ (s : State), s.alive = true ∧ s.refEn = true ∧ s.clk.refStable = true ∧ s.clk.ref = 1 ∧ s.clk.level ≤ 1 ∧ s.clk.sysLock = true ∧ s.clk.convLock = true ∧ s.clk.level = 1 ∧ s.autoReturn = false) ∧
    (∃ (s : State), s.alive = true ∧ s.refEn = true ∧ s.clk.refStable = true ∧ s.clk.ref = 1 ∧ s.clk.level ≤ 1 ∧ s.clk.sysLock = true ∧ s.clk.convLock = true ∧ s.clk.level = 1 ∧ s.autoReturn = true) ∧
    (∃ (cls : KeyClass) (v : Word) (s : State), ∃ p ∈ [(Instr.refEnWrite cls v, v), (.refReturn cls, s.reg 0x0800 ||| 4)], s.mayWrite cls 0x0800 ∧ (bitAt p.2 2 = false ∨ s.refGood = true)) ∧
    (∃ (s : State), 4 ∈ s.sys.causes ∧ s.clk.level ≠ 2 ∧ (s.wordsValid = true ∨ (s.sys.st = .boot ∧ s.flt.running = false))) ∧
    (∃ (s : State), s.clk.level = 2 ∧ (s.clk.convHold = true ∨ s.clk.laneHold = true)) :=
  ⟨⟨{ inSt .blocked with clk := { up.clk with level := 1, sysSrc := 1 } }, by decide +kernel⟩,
   ⟨{ inSt .blocked with clk := { up.clk with level := 1, convHold := true, sysLock := false } }, by decide +kernel⟩,
   ⟨{ inSt .blocked with clk := { up.clk with level := 1, convHold := true }, regs := [(0x0800, 0#32)] }, by decide +kernel⟩,
   ⟨{ inSt .blocked with clk := { up.clk with level := 2, sysSrc := 1 } }, by decide +kernel⟩,
   ⟨{ inSt .blocked with clk := { up.clk with level := 2, ircOk := false } }, by decide +kernel⟩,
   ⟨{ inSt .blocked with clk := { up.clk with ircOk := false } }, by decide +kernel⟩,
   ⟨26, up, (25, 3), by decide +kernel, by decide +kernel⟩,
   ⟨{ inSt .blocked with clk := { up.clk with ref := 1 }, regs := [(0x0800, 1#32)] }, by decide +kernel⟩,
   ⟨{ inSt .blocked with clk := { up.clk with ref := 1, level := 1 }, regs := [(0x0800, 1#32)] }, by decide +kernel⟩,
   ⟨{ inSt .blocked with clk := { up.clk with ref := 1, level := 1 }, regs := [(0x0800, 3#32)] }, by decide +kernel⟩,
   ⟨.chain, 3#32, up, (.refEnWrite .chain 3#32, 3#32), by decide +kernel, may_write (by decide +kernel), by decide +kernel⟩,
   ⟨{ up with sys := { up.sys with st := .failsafe, causes := [4] } }, by decide +kernel⟩,
   ⟨{ inSt .blocked with clk := { up.clk with level := 2, laneHold := true } }, by decide +kernel⟩⟩

theorem witness_TrimsGatesAndOperatingPoint :
    (∃ (s : State), s.clk.lfoFail = true ∧ s.clk.ircOk = true) ∧
    (∃ (s : State), s.alive = true ∧ s.trimSrc ≠ 0 ∧ s.clk.ircOk = true) ∧
    (∃ (cls : KeyClass) (v : Word) (s : State), s.mayWrite cls 0x0820 ∧ bitsOf v 2 0 < 6) ∧
    (∃ (s : State), s.clk.measBusy = true) ∧
    (∃ (s : State), s.clk.ramping = true) ∧
    (∃ (s : State), s.clk.railHigh = true ∧ s.clk.settled = true ∧ s.clk.op = false ∧ s.asleep = true ∧ s.clk.sysLock = true ∧ s.clk.sysSrc = 0) ∧
    (∃ (s : State), s.clk.railHigh = true ∧ s.asleep = true ∧ s.opPin = 1) ∧
    (∃ (s : State), s.clk.railHigh = true ∧ s.asleep = true ∧ s.opPin ≠ 2 ∧ (∀ e ∈ s.pe.els, e.started = false ∧ e.operate = false) ∧ (∀ c ∈ s.fst.cmp, c.asserted = false) ∧ s.ldg.ring = [] ∧ s.clk.lastRaise + 2000000 ≤ s.pwr.ot) ∧
    (∃ (cls : KeyClass) (v : Word) (s : State), s.mayWrite cls 0x0814 ∧ bitAt v 2 = true ∧ (s.leafRuns 0 = true ∨ s.leafRuns 1 = true)) ∧
    (∃ (cls : KeyClass) (v : Word) (s : State), s.mayWrite cls 0x0814 ∧ (bitAt v 2 = false ∨ (s.leafRuns 0 = false ∧ s.leafRuns 1 = false)) ∧ bitAt v 5 = true ∧ (s.leafRuns 2 = true ∨ s.leafRuns 3 = true)) ∧
    (∃ (cls : KeyClass) (v : Word) (s : State), s.mayWrite cls 0x0814 ∧ (bitAt v 2 = false ∨ (s.leafRuns 0 = false ∧ s.leafRuns 1 = false)) ∧ (bitAt v 5 = false ∨ (s.leafRuns 2 = false ∧ s.leafRuns 3 = false))) ∧
    (∃ (n : Nat) (b : Nat) (s : State), (n, b) ∈ [(0, 0), (1, 1), (2, 3), (3, 4), (4, 6)] ∧ n < s.clk.leaf.length ∧ s.leafRuns n = true ∧ bitAt (s.reg 0x0814) b = true) :=
  ⟨⟨{ inSt .blocked with clk := { up.clk with lfoFail := true } }, by decide +kernel⟩,
   ⟨{ inSt .blocked with clk := { up.clk with ref := 0 }, regs := [(0x0800, 1#32)] }, by decide +kernel⟩,
   ⟨.chain, 5#32, up, may_write (by decide +kernel), by decide +kernel⟩,
   ⟨{ up with clk := { up.clk with measBusy := true } }, by decide +kernel⟩,
   ⟨{ inSt .blocked with clk := { up.clk with ramping := true } }, by decide +kernel⟩,
   ⟨{ inSt .blocked with clk := { up.clk with op := false, railHigh := true } }, by decide +kernel⟩,
   ⟨{ inSt .blocked with clk := { up.clk with railHigh := true }, regs := [(0x0810, 1#32)] }, by decide +kernel⟩,
   ⟨{ inSt .blocked with clk := { up.clk with railHigh := true }, pwr := { up.pwr with ot := 2000000 } }, by decide +kernel⟩,
   ⟨.chain, 4#32, { up with chn := { ports := [{ st := .up }, {}] } }, may_write (by decide +kernel), by decide +kernel⟩,
   ⟨.chain, 0x20#32, { up with regs := [(0x3800, 0x11#32)] }, may_write (by decide +kernel), by decide +kernel⟩,
   ⟨.chain, 0#32, up, may_write (by decide +kernel), by decide +kernel⟩,
   ⟨4, 6, { up with regs := [(0x0814, 0x40#32)] }, by decide +kernel⟩⟩

theorem witness_Resets :
    (∃ (s : State), s.sys.st ≠ .off ∧ s.pwr.held = false ∧ (s.pwr.pf = .flushing ∨ s.pwr.pf = .committing)) ∧
    (∃ (s : State), s.sys.st ≠ .off ∧ s.pwr.held = false ∧ (s.pwr.pf = .none ∨ s.pwr.pf = .committed)) ∧
    (∃ (r : Nat) (s : State), s.sys.st ≠ .off ∧ r = 0) ∧
    (∃ (r : Nat) (s : State), s.sys.st ≠ .off ∧ 1 ≤ r ∧ r < 9 ∧ s.sys.st ≠ .dormant ∧ s.pwr.held = false) ∧
    (∃ (cls : KeyClass) (s : State), s.mayWrite cls 0x0418 ∧ s.tripAsserted = false) ∧
    (∃ (s : State), s.pwr.hostReset = true ∧ s.alive = true ∧ (s.pwr.pf = .none ∨ s.pwr.pf = .committed)) ∧
    (∃ (s : State), s.alive = true) ∧
    (∃ (ot : Nat) (s : State), s.alive = true ∧ s.pwr.pf = .none ∧ s.pwr.ot ≤ ot) :=
  ⟨⟨{ inSt .blocked with pwr := { up.pwr with pf := .committing } }, by decide +kernel⟩,
   ⟨{ inSt .blocked with pwr := { up.pwr with pf := .committed } }, by decide +kernel⟩,
   ⟨0, inSt .dormant, by decide +kernel⟩,
   ⟨8, up, by decide +kernel⟩,
   ⟨.host, up, may_write (by decide +kernel), by decide +kernel⟩,
   ⟨{ inSt .blocked with pwr := { up.pwr with hostReset := true } }, by decide +kernel⟩,
   ⟨up, by decide +kernel⟩,
   ⟨1000000, up, by decide +kernel⟩⟩

theorem witness_FeedsAndPowerFail :
    (∃ (f : Nat) (mv : Nat) (s : State), s.sys.st ≠ .off ∧ f < 2 ∧ (nth s.pwr.feedOk f = true ∨ nth s.pwr.feedWasOut f = false) ∧ (mv < 5900 ∨ 40500 < mv) ∧ (s.sys.st = .dormant ∨ s.pwr.held = true)) ∧
    (∃ (f : Nat) (mv : Nat) (s : State), s.sys.st ≠ .off ∧ f < 2 ∧ (nth s.pwr.feedOk f = true ∨ nth s.pwr.feedWasOut f = false) ∧ (mv < 5900 ∨ 40500 < mv) ∧ s.sys.st ≠ .dormant ∧ s.pwr.held = false) ∧
    (∃ (f : Nat) (mv : Nat) (s : State), s.sys.st ≠ .off ∧ f < 2 ∧ nth s.pwr.feedOk f = false ∧ 6100 ≤ mv ∧ mv ≤ 39500 ∧ (s.sys.st = .dormant ∨ s.pwr.held = true)) ∧
    (∃ (f : Nat) (mv : Nat) (s : State), s.sys.st ≠ .off ∧ f < 2 ∧ nth s.pwr.feedOk f = false ∧ 6100 ≤ mv ∧ mv ≤ 39500 ∧ s.sys.st ≠ .dormant ∧ s.pwr.held = false ∧ s.pwr.pf = .none) ∧
    (∃ (f : Nat) (mv : Nat) (s : State), s.sys.st ≠ .off ∧ f < 2 ∧ nth s.pwr.feedOk f = false ∧ 6100 ≤ mv ∧ mv ≤ 39500 ∧ s.sys.st ≠ .dormant ∧ s.pwr.held = false ∧ s.pwr.pf = .committed ∧ s.pwr.resetWaits = false) ∧
    (∃ (f : Nat) (mv : Nat) (s : State), s.sys.st ≠ .off ∧ f < 2 ∧ nth s.pwr.feedOk f = false ∧ 6100 ≤ mv ∧ mv ≤ 39500 ∧ s.sys.st ≠ .dormant ∧ s.pwr.held = false ∧ s.pwr.pf = .committing ∧ s.pwr.resetWaits = false ∧ (s.clk.level ≠ 2 ∨ s.clk.ircOk = true) ∧ s.dm.mramFail = false) ∧
    (∃ (s : State), (s.sys.st = .dormant ∨ s.pwr.held = true) ∧ s.sys.st ≠ .off ∧ s.pwr.pf = .none) ∧
    (∃ (s : State), s.sys.st ≠ .off ∧ s.sys.st ≠ .dormant ∧ s.pwr.held = false ∧ s.pwr.pf = .none) ∧
    (∃ (s : State), s.pwr.pf = .flushing ∧ (s.clk.level ≠ 2 ∨ s.clk.ircOk = true)) ∧
    (∃ (s : State), s.pwr.pf = .committing ∧ (s.clk.level ≠ 2 ∨ s.clk.ircOk = true)) ∧
    (∃ (mv : Nat) (s : State), s.sys.st ≠ .off ∧ s.pwr.pf ≠ .none ∧ mv < 5000) ∧
    (∃ (s : State), s.pwr.charging = true ∧ s.pwr.holdReady = false ∧ s.alive = true) ∧
    (∃ (k : HoldJudge) (s : State), s.alive = true ∧ s.pwr.pf = .none ∧ s.holdBad k = true) ∧
    (∃ (s : State), s.pwr.charging = true) :=
  ⟨⟨1, 5899, inSt .dormant, by decide +kernel⟩,
   ⟨1, 40501, up, by decide +kernel⟩,
   ⟨0, 6100, { inSt .dormant with pwr := { up.pwr with feedOk := [false, true] } }, by decide +kernel⟩,
   ⟨0, 39500, { inSt .blocked with pwr := { up.pwr with feedOk := [false, true] } }, by decide +kernel⟩,
   ⟨0, 6100, { inSt .blocked with pwr := { up.pwr with feedOk := [false, true], pf := .committed } }, by decide +kernel⟩,
   ⟨0, 6100, { inSt .blocked with pwr := { up.pwr with feedOk := [false, true], pf := .committing } }, by decide +kernel⟩,
   ⟨{ inSt .blocked with pwr := { up.pwr with held := true } }, by decide +kernel⟩,
   ⟨up, by decide +kernel⟩,
   ⟨{ inSt .blocked with pwr := { up.pwr with pf := .flushing } }, by decide +kernel⟩,
   ⟨{ inSt .blocked with pwr := { up.pwr with pf := .committing } }, by decide +kernel⟩,
   ⟨4999, { inSt .blocked with pwr := { up.pwr with pf := .committed } }, by decide +kernel⟩,
   ⟨{ inSt .blocked with pwr := { up.pwr with charging := true, holdReady := false } }, by decide +kernel⟩,
   ⟨.short 999 10, { inSt .blocked with pwr := { up.pwr with charging := true, holdReady := false } }, by decide +kernel⟩,
   ⟨{ inSt .blocked with pwr := { up.pwr with charging := true } }, by decide +kernel⟩⟩

theorem witness_StartUpSupplies :
    (∃ (f : Nat) (mv : Nat) (s : State), s.sys.st = .off ∧ f < 2 ∧ 6000 ≤ mv ∧ mv ≤ 40000) ∧
    (∃ (s : State), s.sys.st = .boot ∧ s.host.up = false ∧ s.pwr.held = false ∧ s.pwr.bootStep < 2) ∧
    (∃ (s : State), s.sys.st = .boot ∧ s.host.up = false ∧ s.pwr.held = false ∧ 2 ≤ s.pwr.bootStep) ∧
    (∃ (s : State), s.alive = true ∧ s.sys.st = .boot ∧ s.clk.ircOk = true ∧ s.clk.sysLock = false ∧ ((s.clk.level = 2 ∧ s.clk.sysSrc = 1) ∨ s.clk.level = 1 ∨ (s.clk.level ≠ 2 ∧ (s.refEn = false ∨ s.clk.refStable = true)))) :=
  ⟨⟨1, 6000, inSt .off, by decide +kernel⟩,
   ⟨State.reset, by decide +kernel⟩,
   ⟨{ State.reset with pwr := { bootStep := 2 } }, by decide +kernel⟩,
   ⟨{ inSt .boot with clk := { up.clk with sysLock := false }, regs := [(0x0800, 0#32)] }, by decide +kernel⟩⟩

theorem witness_DormantAndWake :
    (∃ (s : State), s.sys.shutting = true ∧ s.pwr.pf = .none ∧ (s.sys.st = .blocked ∨ s.sys.st = .failsafe)) ∧
    (∃ (ot : Nat) (s : State), s.sys.st = .dormant ∧ s.pwr.held = false ∧ s.pwr.pf = .none ∧ s.pwr.ot ≤ ot) ∧
    (∃ (s : State), bitAt (s.reg 0x041C) 0 = true ∧ s.pwr.held = false ∧ s.sys.st = .dormant) ∧
    (∃ (s : State), bitAt (s.reg 0x041C) 0 = true ∧ s.pwr.held = false ∧ s.sys.st ≠ .dormant ∧ s.sys.shutting = true) ∧
    (∃ (ot : Nat) (s : State), s.sys.st = .dormant ∧ s.pwr.ot ≤ ot ∧ s.pwr.dormantOt + 1000000 * bitsOf (s.reg 0x041C) 31 8 ≤ ot ∧ bitAt (s.reg 0x041C) 2 = true ∧ s.pwr.held = false) ∧
    (∃ (ot : Nat) (s : State), s.sys.st = .dormant ∧ s.pwr.ot ≤ ot ∧ s.pwr.dormantOt + 1000000 * bitsOf (s.reg 0x041C) 31 8 ≤ ot ∧ (bitAt (s.reg 0x041C) 2 = false ∨ s.pwr.held = true)) ∧
    (∃ (f : Nat) (s : State), f < 2 ∧ s.sys.st = .dormant ∧ s.pwr.held = false ∧ nth s.pwr.feedWasOut f = true ∧ bitAt (s.reg 0x041C) 1 = true) ∧
    (∃ (f : Nat) (s : State), f < 2 ∧ s.sys.st = .dormant ∧ s.pwr.held = false ∧ nth s.pwr.feedWasOut f = true ∧ bitAt (s.reg 0x041C) 1 = false) ∧
    (∃ (f : Nat) (s : State), f < 2 ∧ s.sys.st ≠ .off ∧ s.sys.st ≠ .dormant ∧ s.pwr.held = false ∧ s.sys.shutting = true ∧ bitAt (s.reg 0x041C) 1 = true) ∧
    (∃ (cls : KeyClass) (s : State), s.mayRead cls 0x040C) :=
  ⟨⟨{ up with sys := { up.sys with shutting := true } }, by decide +kernel⟩,
   ⟨1000000, inSt .dormant, by decide +kernel⟩,
   ⟨{ inSt .dormant with regs := [(0x041C, 1#32)] }, by decide +kernel⟩,
   ⟨{ up with sys := { up.sys with shutting := true }, regs := [(0x041C, 1#32)] }, by decide +kernel⟩,
   ⟨3000000, { inSt .dormant with regs := [(0x041C, 0x204#32)], pwr := { up.pwr with dormantOt := 1000000 } }, by decide +kernel⟩,
   ⟨3000000, { inSt .dormant with regs := [(0x041C, 0x200#32)], pwr := { up.pwr with dormantOt := 1000000 } }, by decide +kernel⟩,
   ⟨1, { inSt .dormant with regs := [(0x041C, 2#32)], pwr := { up.pwr with feedWasOut := [false, true] } }, by decide +kernel⟩,
   ⟨1, { inSt .dormant with regs := [(0x041C, 0#32)], pwr := { up.pwr with feedWasOut := [false, true] } }, by decide +kernel⟩,
   ⟨1, { up with sys := { up.sys with shutting := true }, regs := [(0x041C, 2#32)] }, by decide +kernel⟩,
   ⟨.net, up, may_read (by decide +kernel)⟩⟩

theorem witness_StartUpTests :
    (∃ (ok : Bool) (s : State), s.alive = true ∧ s.sys.st = .boot ∧ s.clk.sysLock = true ∧ s.pwr.mapRead = false ∧ (ok = false ∨ s.dm.mramFail = true)) ∧
    (∃ (ok : Bool) (s : State), s.alive = true ∧ s.sys.st = .boot ∧ s.clk.sysLock = true ∧ s.pwr.mapRead = false ∧ ok = true ∧ s.dm.mramFail = false) ∧
    (∃ (s : State), s.alive = true ∧ s.sys.st = .boot ∧ s.pwr.mapRead = true ∧ s.pwr.tested = false ∧ s.dm.map.pairs.length = 16 ∧ s.dm.map.cores.length = 18) ∧
    (∃ (s : State), s.alive = true ∧ s.sys.st = .boot ∧ s.pwr.tested = true ∧ s.sch.placed = false) ∧
    (∃ (s : State), s.alive = true ∧ s.sys.st = .boot ∧ s.sch.placed = true ∧ s.clk.convLock = true ∧ s.flt.running = false) ∧
    (∃ (s : State), s.sys.st = .boot ∧ s.wordsValid = true) ∧
    (∃ (s : State), (s.sys.st = .blocked ∧ s.sys.lastCause = 2 ∧ s.pwr.toService = 0 ∧ s.enabled = true ∧ s.hinged = false ∧ s.actSpan = false ∧ s.sys.shutting = false ∧ s.wordsValid = true ∧ ceilDiv s.fp s.sch.cfg.fn ≤ s.sys.ticks)) :=
  ⟨⟨false, { inSt .boot with pwr := { up.pwr with mapRead := false } }, by decide +kernel⟩,
   ⟨true, { inSt .boot with pwr := { up.pwr with mapRead := false } }, by decide +kernel⟩,
   ⟨{ inSt .boot with pwr := { up.pwr with tested := false } }, by decide +kernel⟩,
   ⟨inSt .boot, by decide +kernel⟩,
   ⟨{ inSt .boot with sch := { up.sch with placed := true }, flt := {} }, by decide +kernel⟩,
   ⟨inSt .boot, by decide +kernel⟩,
   ⟨{ up with sys := { up.sys with lastCause := 2, ticks := 192 }, sch := { up.sch with image := true, cfg := { enable := true } } }, by decide +kernel⟩⟩

theorem witness_RepairRows :
    (∃ (s : State), ∃ (k : Nat) (u : Nat), s.dm.dirty = true ∧ s.alive = true ∧ s.pwr.mapRead = true ∧ s.dm.mramFail = false ∧ s.dm.copies.length = 2 ∧ s.dm.map.pairs.length = 16 ∧ s.dm.map.cores.length = 18 ∧ s.dm.map.lanes.length = 10 ∧ s.dm.map.ssRows.length = 16 ∧ s.dm.map.mramRows.length = 64 ∧ Memory.wf s.mram = true ∧ (match s.mapCount 0, s.mapCount 1 with
        | some a, some b => (k = if a ≤ b then 0 else 1) ∧ u = max a b + 1
        | some a, none => k = 1 ∧ u = a + 1
        | none, some b => k = 0 ∧ u = b + 1
        | none, none => k = 0 ∧ u = 1)) ∧
    (∃ (row : Nat) (reason : Nat) (s : State), ∃ (k : _), (s.alive = true ∧ s.pe.updDue = false ∧ row < 512 ∧ ((reason = 1 ∧ ∀ d ∈ s.dm.ssDue, d.2 = 1 → row ≤ d.1) ∨ (reason = 2 ∧ (row, 2) ∈ s.dm.ssDue ∧ ∀ d ∈ s.dm.ssDue, d.2 = 2 ∧ row ≤ d.1))) ∧ k < s.dm.map.ssRows.length ∧ s.dm.map.ssRows.getD k none = none ∧ (∀ j, j < k → s.dm.map.ssRows.getD j none ≠ none)) ∧
    (∃ (row : Nat) (reason : Nat) (s : State), (s.alive = true ∧ s.pe.updDue = false ∧ row < 512 ∧ ((reason = 1 ∧ ∀ d ∈ s.dm.ssDue, d.2 = 1 → row ≤ d.1) ∨ (reason = 2 ∧ (row, 2) ∈ s.dm.ssDue ∧ ∀ d ∈ s.dm.ssDue, d.2 = 2 ∧ row ≤ d.1))) ∧ (∀ r ∈ s.dm.map.ssRows, r ≠ none)) ∧
    (∃ (s : State), s.alive = true ∧ s.asleep = true) ∧
    (∃ (row : Nat) (b : Bool) (s : State), (s.alive = true ∧ s.dm.mramFail = false ∧ row < 16384 ∧ (b = true ∨ (row, 2) ∈ s.dm.mramDue))) ∧
    (∃ (s : State), s.alive = true ∧ s.dm.mramFail = false) :=
  ⟨⟨{ up with dm := { dirty := true } }, 1, 2, by decide +kernel, by decide +kernel, by decide +kernel, by decide +kernel, by decide +kernel, (by decide +kernel), by decide +kernel, by decide +kernel, by decide +kernel, by decide +kernel, by decide +kernel, ⟨rfl, rfl⟩⟩,
   ⟨511, 1, up, 0, by decide +kernel⟩,
   ⟨511, 2, { up with dm := { ssDue := [(511, 2)], map := { ssRows := List.replicate 16 (some (0, 1)) } } }, by decide +kernel⟩,
   ⟨up, by decide +kernel⟩,
   ⟨16383, true, up, by decide +kernel⟩,
   ⟨up, by decide +kernel⟩⟩

theorem witness_TrackingLoss :
    (∃ (s : State), 2 * s.fp ≤ s.trk.hold ∧ s.trk.lost = false) ∧
    (∃ (s : State), (s.trk.hold < 2 * s.fp ∨ s.trk.lost = true)) :=
  ⟨⟨{ up with trk := { hold := 19200 } }, by decide +kernel⟩,
   ⟨up, by decide +kernel⟩⟩

theorem witness_RecorderSteps :
    (∃ (s : State), s.ldg.ring = []) ∧
    (∃ (s : State) (e : Entry) (r : List Entry), s.ldg.ring = e :: r ∧ s.canWrite e = false) ∧
    (∃ (s : State) (e : Entry) (r : List Entry), s.ldg.ring = e :: r ∧ s.canWrite e = true ∧ s.ldg.ovLow = 0 ∧ s.ldg.ovHigh = 0 ∧ s.ldg.commissioned = true ∧ s.ldg.firstFull = false ∧ firstSize < s.ldg.firstPos + recLen e) ∧
    (∃ (code : Nat) (s : State), s.ldg.ovLow = 0 ∧ s.ldg.ovHigh = 0 ∧ (s.bucket code).lacks = 0) ∧
    (∃ (code : Nat) (s : State), s.ldg.ovLow = 0 ∧ s.ldg.ovHigh = 0 ∧ (s.bucket code).lacks ≠ 0 ∧ (s.bucket code).pending = 0) ∧
    (∃ (code : Nat) (s : State), s.ldg.ovLow = 0 ∧ s.ldg.ovHigh = 0 ∧ (s.bucket code).lacks ≠ 0 ∧ (s.bucket code).pending ≠ 0 ∧ s.ldg.closed = false ∧ s.ldg.ring.length < 480) :=
  ⟨⟨up, by decide +kernel⟩,
   ⟨{ up with ldg := { ring := [{ ot := 3, qual := 0, pcc := 1, code := 0x20, sev := 0, flags := 0, annex := none, body := [] }], scanning := true } }, { ot := 3, qual := 0, pcc := 1, code := 0x20, sev := 0, flags := 0, annex := none, body := [] }, [], by decide +kernel⟩,
   ⟨{ up with ldg := { ring := [{ ot := 3, qual := 0, pcc := 1, code := 0x20, sev := 0, flags := 0, annex := none, body := [] }], scanning := false, commissioned := true, firstPos := 0x7FFFF } }, { ot := 3, qual := 0, pcc := 1, code := 0x20, sev := 0, flags := 0, annex := none, body := [] }, [], by decide +kernel⟩,
   ⟨0x20, up, by decide +kernel⟩,
   ⟨0x20, { up with ldg := { buckets := [(0x20, { lacks := 1 })] } }, by decide +kernel⟩,
   ⟨0x20, { up with ldg := { buckets := [(0x20, { lacks := 8, pending := 3 })] } }, by decide +kernel⟩⟩

theorem witness_SingleWrites :
    (∃ (cls : KeyClass) (s : State), s.pathUp cls = true ∧ s.pwr.pf = PfStage.none ∧ s.sys.st ≠ .boot ∧ s.grantsWrite cls 0x3828) ∧
    (∃ (cls : KeyClass) (s : State), s.pathUp cls = true ∧ s.pwr.pf = PfStage.none ∧ s.sys.st ≠ .boot ∧ s.grantsWrite cls 0x3828) ∧
    (∃ (cls : KeyClass) (s : State), s.pathUp cls = true ∧ s.pwr.pf = PfStage.none ∧ s.sys.st ≠ .boot ∧ s.grantsWrite cls 0x3828) ∧
    (∃ (cls : KeyClass) (s : State), ∃ (v : Word), s.pathUp cls = true ∧ s.pwr.pf = PfStage.none ∧ s.sys.st ≠ .boot ∧ s.grantsWrite cls 0x3800 ∧ bitsOf v 1 0 ≠ 3 ∧ bitsOf v 3 2 ≠ 3) ∧
    (∃ (cls : KeyClass) (s : State), s.pathUp cls = true ∧ s.pwr.pf = PfStage.none ∧ s.mayRead cls 0x380C) ∧
    (∃ (cls : KeyClass) (s : State), s.pathUp cls = true ∧ s.pwr.pf = PfStage.none ∧ s.grantsWrite cls 0x0014) ∧
    (∃ (cls : KeyClass) (s : State), s.pathUp cls = true ∧ s.pwr.pf = PfStage.none ∧ s.grantsWrite cls 0x0010) ∧
    (∃ (cls : KeyClass) (s : State), s.pathUp cls = true ∧ s.pwr.pf = PfStage.none ∧ s.grantsWrite cls 0x0018) ∧
    (∃ (cls : KeyClass) (s : State), ∃ (f : List Byte), s.pathUp cls = true ∧ s.pwr.pf = PfStage.none ∧ f.length = 9 ∧ reqCmd f ≠ 0x0B ∧ reqCmd f ≠ 0x02 ∧ (cls = .debug ∨ (reqCmd f ≠ 0xEB ∧ reqCmd f ≠ 0x32)) ∧ reqCrcOk f = true) ∧
    (∃ (cls : KeyClass) (s : State), ∃ (n : Nat), s.pathUp cls = true ∧ s.pwr.pf = PfStage.none ∧ n < 9) :=
  ⟨⟨.host, up, by decide +kernel, by decide +kernel, by decide +kernel, grants_write (by decide +kernel)⟩,
   ⟨.host, up, by decide +kernel, by decide +kernel, by decide +kernel, grants_write (by decide +kernel)⟩,
   ⟨.host, up, by decide +kernel, by decide +kernel, by decide +kernel, grants_write (by decide +kernel)⟩,
   ⟨.chain, up, 0x36#32, by decide +kernel, by decide +kernel, by decide +kernel, grants_write (by decide +kernel), by decide +kernel⟩,
   ⟨.net, up, by decide +kernel, by decide +kernel, may_read (by decide +kernel)⟩,
   ⟨.host, { State.reset with host := { up := true } }, by decide +kernel, by decide +kernel, grants_write (by decide +kernel)⟩,
   ⟨.host, { State.reset with host := { up := true } }, by decide +kernel, by decide +kernel, grants_write (by decide +kernel)⟩,
   ⟨.host, { State.reset with host := { up := true } }, by decide +kernel, by decide +kernel, grants_write (by decide +kernel)⟩,
   ⟨.debug, up, req 0xEB 4 0, by decide +kernel⟩,
   ⟨.host, up, 8, by decide +kernel⟩⟩

end Sys2Proof.Tests
end

section
/-! ### Broken frames and writes of one register (R387-R391, R396) -/

namespace Sys2Proof.Proofs.BrokenFrames

open Sys2Proof Sys2Proof.Machine Sys2Proof.Facts.HostPort

/-! #### Frames with an unknown command byte (R387) -/

/-- The error of a frame whose command byte its path does not know: the CRC is checked first (R387). -/
def unknownError (f : List Byte) : Nat := if reqCrcOk f = true then 3 else 2

theorem unknownError_crcOk {f : List Byte} (h : reqCrcOk f = true) : unknownError f = 3 := if_pos h

theorem unknownError_crcBad {f : List Byte} (h : reqCrcOk f = false) : unknownError f = 2 := if_neg (by simp [h])

theorem badFrame_other {s : State} {cls : KeyClass} {f : List Byte} (h : s.pathUp cls = false ∨ f.length ≠ 9 ∨ cmdOp cls (reqCmd f) ≠ none) :
    s.badFrame cls f = s :=
  frame_miss (h.imp_right (Or.imp_right fun hk => Option.isNone_eq_false_iff.mpr (Option.isSome_iff_ne_none.mpr hk)))

/-- A command byte that the path does not know is counted and answered, and nothing is carried out. -/
theorem perform_unknown {s : State} {cls : KeyClass} {f : List Byte} (h : cmdOp cls (reqCmd f) = none) :
    s.perform cls f = (s.frameError cls (unknownError f), .bad (if s.pwr.pf = .none then unknownError f else 6), false) := by
  cases hc : reqCrcOk f <;> by_cases hp : s.pwr.pf = .none <;> simp [State.perform, unknownError, hc, h, hp]

theorem badFrame_unknown {s : State} {cls : KeyClass} {f : List Byte} (hu : s.pathUp cls = true) (hl : f.length = 9) (hk : cmdOp cls (reqCmd f) = none) :
    s.badFrame cls f =
      let e := s.frameError cls (unknownError f)
      { e with host := { e.host with answer := some (cls, answerBytes ((if s.pwr.pf = .none then unknownError f else 6) + 64 * b2n e.irqOut + 128 * b2n s.nmeOut) (reqAddr f) 0) } } := by
  rw [State.badFrame, frame_hit hu hl (by simp [hk]), serve_of (perform_unknown hk), note_not, reply_status]
  rfl

theorem frameError_same (s : State) (cls : KeyClass) (e : Nat) : SameBut [.irq, .host, .ring, .trip] s (s.frameError cls e) :=
  (keeps_frameError (K := [.irq, .host, .ring, .trip]) cls e rfl (Keeps.refl _ s)).1

/-! One counter of the host port per error; frames of the other paths are counted by the record alone (R387). -/

theorem frameError_crcErr (s : State) (cls : KeyClass) : (s.frameError cls 2).host = { s.host with crcErr := if cls = .host then satInc 255 s.host.crcErr else s.host.crcErr } := by
  rw [err_host]
  by_cases h : cls = .host <;> simp [h]

theorem frameError_badCmd (s : State) (cls : KeyClass) : (s.frameError cls 3).host = { s.host with badCmd := if cls = .host then satInc 255 s.host.badCmd else s.host.badCmd } := by
  rw [err_host]
  by_cases h : cls = .host <;> simp [h]

theorem frameError_frameErr (s : State) (cls : KeyClass) : (s.frameError cls 0x0F).host = { s.host with frameErr := if cls = .host then satInc 255 s.host.frameErr else s.host.frameErr } := by
  rw [err_host]
  by_cases h : cls = .host <;> simp [h]

/-- What an unknown command byte leaves behind: the count of its error and the answer. -/
theorem badFrame_leads {s : State} {cls : KeyClass} {f : List Byte} (hu : s.pathUp cls = true) (hl : f.length = 9) (hk : cmdOp cls (reqCmd f) = none) :
    Leads (exec (.badCommand cls f) s) fun t => SameBut [.irq, .host, .ring, .trip] s t ∧
      t.host = { (s.frameError cls (unknownError f)).host with
        answer := some (cls, answerBytes ((if s.pwr.pf = .none then unknownError f else 6) + 64 * b2n t.irqOut + 128 * b2n s.nmeOut) (reqAddr f) 0) } :=
  ⟨_, congrArg Host.Outcome.next (badFrame_unknown hu hl hk), host_answer_same (frameError_same _ _ _) (by decide), rfl⟩

theorem shortFrame_other {s : State} {cls : KeyClass} {n : Nat} (h : s.pathUp cls = false ∨ 9 ≤ n) : s.shortFrame cls n = s := by
  refine if_neg ?_
  rintro ⟨hu, hn⟩
  rcases h with h | h
  · simp [h] at hu
  · omega

theorem shortFrame_counted {s : State} {cls : KeyClass} {n : Nat} (hu : s.pathUp cls = true) (hn : n < 9) : s.shortFrame cls n = s.frameError cls 0x0F :=
  if_pos ⟨hu, hn⟩

/-! #### The write of one register (R387, R388, R396) -/

theorem write_notServed {s : State} {cls : KeyClass} {a : Nat} {v : Word} (h : s.pathUp cls = false ∨ s.pwr.pf ≠ .none) : s.write cls a v = s := by
  refine if_neg ?_
  rintro ⟨hu, hp⟩
  rcases h with h | h
  · simp [h] at hu
  · exact h hp

theorem write_unmapped {s : State} {cls : KeyClass} {a : Nat} {v : Word} (ht : targetOf a = none) : s.write cls a v = s := by
  simp [State.write, State.busWrite, ht]

section
variable {s : State} {cls : KeyClass} {a : Nat} {v : Word} (hu : s.pathUp cls = true) (hp : s.pwr.pf = .none)
include hu hp

theorem write_served : s.write cls a v = (s.busWrite cls a v).1 := if_pos ⟨hu, hp⟩

variable {g : Target} (ht : targetOf a = some g)
include ht

theorem write_readOnly (hw : writable g = false) : s.write cls a v = s := by
  rw [write_served hu hp, State.busWrite, ht]
  by_cases hb : s.sys.st = .boot ∧ a ∉ bootWrites <;> simp [hw, hb]

theorem write_inBoot (hm : s.may cls a (romWrite g) 1 = true) (hb : s.sys.st = .boot) (ha : a ∉ bootWrites) : s.write cls a v = s := by
  rw [write_served hu hp, State.busWrite, ht]
  simp [hm, hb, ha]

theorem write_granted (hw : writable g = true) (hm : s.may cls a (romWrite g) 1 = true) (hb : s.sys.st ≠ .boot ∨ a ∈ bootWrites) :
    s.write cls a v = (s.applyWord cls a v g).1 := by
  have hb : ¬(s.sys.st = .boot ∧ a ∉ bootWrites) := fun h => hb.elim (fun k => k h.1) h.2
  rw [write_served hu hp, State.busWrite, ht]
  simp [hw, hm, hb]

theorem write_keyRefused (hw : writable g = true) (hm : s.may cls a (romWrite g) 1 = false) : s.write cls a v = s.keyRefused cls 1 a v := by
  rw [write_served hu hp, State.busWrite, ht]
  simp [hw, hm]

end

theorem keyRefused_same (s : State) (cls : KeyClass) (op a : Nat) (v : Word) : SameBut [.irq, .key, .ring, .trip] s (s.keyRefused cls op a v) :=
  (keeps_keyRefused (K := [.irq, .key, .ring, .trip]) cls op a v rfl (Keeps.refl _ s)).1

theorem keyRefused_key (s : State) (cls : KeyClass) (op a : Nat) (v : Word) :
    (s.keyRefused cls op a v).key = { s.key with refused := modNth s.key.refused (clsIx cls) (satInc 255) } := stage_key _ _ _ _

/-- A register that BOOT does not lock, written by a class that the keyway admits, in whatever state. -/
theorem write_unlocked {s : State} {cls : KeyClass} {a : Nat} {v : Word} {r : RegRow} (hu : s.pathUp cls = true) (hp : s.pwr.pf = .none)
    (ht : targetOf a = some (.reg r)) (hw : r.mask ≠ 0) (hg : s.grantsWrite cls a) (ha : a ∈ bootWrites) : s.write cls a v = (s.applyReg cls a v).1 := by
  simp only [State.grantsWrite, ht] at hg
  exact write_granted hu hp ht (by simpa [writable] using hw) hg (.inr ha)

/-- Settles O45: the clauses are the cases of the frame's check (R387) and of the bus write (R388, R396); in BOOT only the status words and the mask take writes. -/
theorem brokenFramesAndWrites : Obligations.BrokenFramesAndWrites := by
  refine ⟨fun cls f s => ⟨fun h => ?_, fun hu hl h1 h2 h3 => ?_⟩, fun cls n s => ⟨fun h => ?_, fun hu hn => ?_⟩,
    fun cls a v s => ⟨fun h => ?_, fun g ht hu hp => ⟨fun h => ?_, fun hw hm hb => ?_, fun hw hm => ?_⟩⟩, fun cls v s hu hp => ⟨fun hg => ?_, fun hg => ?_⟩⟩
  · refine congrArg Host.Outcome.next (badFrame_other (h.imp_right (Or.imp_right fun hk => ?_)))
    rw [ne_eq, cmd_none]
    tauto
  · obtain ⟨t, ht, hs, hh⟩ := badFrame_leads hu hl ((cmd_none cls (reqCmd f)).mpr ⟨h1, h2, h3⟩)
    refine ⟨t, ht, hs, fun hc => ?_, fun hc => ?_⟩
    · rw [hh, unknownError_crcOk hc, frameError_badCmd]
    · rw [hh, unknownError_crcBad hc, frameError_crcErr]
  · exact congrArg Host.Outcome.next (shortFrame_other h)
  · exact ⟨_, congrArg Host.Outcome.next (shortFrame_counted hu hn), frameError_same s cls _, frameError_frameErr s cls⟩
  · refine congrArg Host.Outcome.next ?_
    rcases h with hu | hp | ht
    · exact write_notServed (.inl hu)
    · exact write_notServed (.inr hp)
    · exact write_unmapped ht
  · refine congrArg Host.Outcome.next ?_
    rcases h with hw | ⟨hm, hb, ha⟩
    · exact write_readOnly hu hp ht hw
    · exact write_inBoot hu hp ht hm hb ha
  · exact congrArg Host.Outcome.next (write_granted hu hp ht hw hm hb)
  · exact ⟨_, congrArg Host.Outcome.next (write_keyRefused hu hp ht hw hm), keyRefused_same s cls 1 a v, keyRefused_key s cls 1 a v⟩
  · obtain ⟨r, hr, hw⟩ := tgt10
    exact congrArg Host.Outcome.next (write_unlocked hu hp hr hw hg (by decide))
  · obtain ⟨r, hr, hw⟩ := tgt18
    exact congrArg Host.Outcome.next (write_unlocked hu hp hr hw hg (by decide))

end Sys2Proof.Proofs.BrokenFrames
end

section
/-! ### Settings that wait for a boundary (R8, R65, R66, R74, R75, R78, R79) -/

namespace Sys2Proof.Proofs.Boundaries

open Sys2Proof Sys2Proof.Machine Sys2Proof.Facts.FrontEnd

/-! #### Writes of FLT_CFG (R65, R66, R74) -/

theorem exec_fltCfgWrite {s : State} {cls : KeyClass} {v : Word} (h : s.mayWrite cls 0x1800) :
    exec (.fltCfgWrite cls v) s = .next (s.writeFltCfg v).1 := by
  obtain ⟨r, hr, hw⟩ := tgt
  exact congrArg Host.Outcome.next (write_applies h hr hw)

section
variable {s : State} {v : Word} {f : FltSet} (hf : fltOfWord v = some f)
include hf

theorem writeFltCfg_badSet (hc : fltCheck f ≠ 0) : (s.writeFltCfg v).1 = s.refuseFlt (fltCheck f) := by
  simp [State.writeFltCfg, hf, hc]

theorem writeFltCfg_otherRate (hc : fltCheck f = 0) (hd : f.d1 * f.d2 ≠ s.flt.eff.d1 * s.flt.eff.d2) : (s.writeFltCfg v).1 = s.refuseFlt 6 := by
  simp [State.writeFltCfg, hf, hc, hd]

theorem writeFltCfg_waits (hc : fltCheck f = 0) (hd : f.d1 * f.d2 = s.flt.eff.d1 * s.flt.eff.d2) (ha : s.actSpan = false) (hn : sameFlt f s.flt.eff = false) :
    (s.writeFltCfg v).1 = { s.setStored 0x1800 (wordOfFlt f) with flt := { s.flt with pend := some f, result := 1 } } := by
  simp [State.writeFltCfg, hf, hc, hd, ha, hn]

end

/-! #### The filter boundary (R74, R75, R78) -/

theorem nth_map {α : Type} [Inhabited α] {g : α → α} {l : List α} {i : Nat} (h : i < l.length) : nth (l.map g) i = g (nth l i) := by
  simp [nth, List.getD_eq_getElem?_getD, h]

/-- The waiting set becomes the set in effect, and every channel's outputs are invalid as after a change on its path that discards no sample. -/
theorem filterBoundary_flt {s : State} {f : FltSet} (h : s.flt.pend = some f) :
    s.filterBoundary.flt = { s.flt with eff := f, pend := none, result := 2, ch := s.flt.ch.map (fun x => x.spoil f 0) } := by
  rw [State.filterBoundary, h]
  dsimp only
  rw [State.filterApplied, stage_flt]
  exact Keeps.same (keeps_retunePilots (K := [.causes, .irq, .ring, .trip, .afe]) rfl (keeps_abandonAll rfl (Keeps.refl _ _))) (p := .flt) (by decide)

/-! #### The gain boundary (R74, R75, R79) -/

section
variable {s : State} {c g : Nat} (hg : (s.afeCh c).gainPend = some g) (hc : (s.afeCh c).cal = false)
include hg hc

theorem gainBoundary_taken : s.gainBoundary c = (((s.modAfeCh c (fun x => { x with gain := g, gainPend := none })).restartCorr c).abandonCompare c).spoil c 4 := by
  simp [State.gainBoundary, hg, hc]

theorem gainBoundary_afeCh (ha : c < s.afe.ch.length) :
    (s.gainBoundary c).afeCh c = { s.afeCh c with gain := g, gainPend := none, fresh := true, ampDev := 0, phDev := 0, inside := 0 } := by
  rw [gainBoundary_taken hg hc]
  show ((s.modAfeCh c _).restartCorr c).afeCh c = _
  rw [State.restartCorr, afeCh_modAfeCh _ _ _ (by simpa using ha), afeCh_modAfeCh _ _ _ ha]

theorem gainBoundary_flt : (s.gainBoundary c).flt = { s.flt with ch := modNth s.flt.ch c (fun x => x.spoil s.flt.eff 4) } := by
  rw [gainBoundary_taken hg hc]
  rfl

end

/-! #### Deferred writes (R8) -/

theorem reg_congr {s t : State} (h : t.regs = s.regs) (k : Nat) : t.reg k = s.reg k := by rw [State.reg, State.reg, h]

theorem settled_regs (s : State) (k : Nat) : (s.settled k).regs = s.regs :=
  Keeps.same (keeps_settled (K := [.causes, .irq, .ring, .trip, .afe, .fio]) k rfl (Keeps.refl _ s)) (p := .regs) (by decide)

theorem reg_applyOne (s : State) (p : Nat × Word) (k : Nat) : (s.applyOne p).reg k = if p.1 = k then p.2 else s.reg k := by
  unfold State.applyOne
  split
  · rename_i h
    split
    · rename_i hk
      rw [← hk, h]
    · rfl
  · rw [reg_congr (settled_regs _ _), reg_setReg]

theorem reg_applyAll_other {l : List (Nat × Word)} {k : Nat} (h : k ∉ l.map Prod.fst) (s : State) : (l.foldl State.applyOne s).reg k = s.reg k := by
  induction l generalizing s with
  | nil => rfl
  | cons p r ih =>
    simp only [List.map_cons, List.mem_cons, not_or] at h
    rw [List.foldl_cons, ih h.2, reg_applyOne, if_neg (Ne.symm h.1)]

/-- Of writes to different registers each one is in force in the end: no later one touches its register. -/
theorem reg_applyAll {l : List (Nat × Word)} (hl : (l.map Prod.fst).Nodup) {p : Nat × Word} (hp : p ∈ l) (s : State) : (l.foldl State.applyOne s).reg p.1 = p.2 := by
  induction l generalizing s with
  | nil => cases hp
  | cons q r ih =>
    rw [List.map_cons, List.nodup_cons] at hl
    rw [List.foldl_cons]
    rcases List.mem_cons.mp hp with rfl | hr
    · rw [reg_applyAll_other hl.1, reg_applyOne, if_pos rfl]
    · exact ih hl.2 hr _

theorem applyAll_defer (l : List (Nat × Word)) (s : State) : (l.foldl State.applyOne s).defer = s.defer :=
  Keeps.same (Keeps.foldl (l := [.causes, .irq, .ring, .trip, .afe, .fio, .regs]) (Keeps.refl _ s) fun _ p h => keeps_applyOne p rfl h) (p := .defer) (by decide)

/-- After the waiting values the apply only judges the comparators' floors, drives the outputs and takes parameters. -/
theorem settingApply_tail {s : State} (ht : s.ticking = true) :
    s.settingApply.regs = (s.defer.foldl State.applyOne { s with defer := [] }).regs ∧ s.settingApply.defer = [] := by
  unfold State.settingApply
  rw [if_neg (by simp [ht])]
  extract_lets l a b c d
  have ha : a.defer = [] := applyAll_defer _ _
  let K : List Part := [.irq, .ring, .trip, .clk, .fst, .chn, .fio, .sch]
  have hb : Keeps K a b := Keeps.opt (keeps_modFst _ rfl (Keeps.refl _ a)) (Keeps.refl _ a)
  have hc : Keeps K a c := Keeps.opt (keeps_modFio _ rfl hb) hb
  have hd : Keeps K a d := Keeps.opt hc (keeps_followOutputs rfl (keeps_fastFloors rfl hc))
  have hp : Keeps K a d.applyParams := keeps_applyParams rfl hd
  exact ⟨hp.same (p := .regs) (by decide), (hp.same (p := .defer) (by decide)).trans ha⟩

/-- Settles O16: a write of FLT_CFG either waits or leaves the settings alone, and at the boundary the waiting set (cfg_result then reads applied, log entry 140), gain or values come into force with the invalid outputs that they cause. -/
theorem boundarySettings : Obligations.BoundarySettings := by
  refine ⟨fun cls v f s hm hf => ?_, fun f s ht hp => ?_, fun c g s ht ha hl hg hc => ?_, fun s ht hn => ?_⟩
  · rw [exec_fltCfgWrite hm]
    refine ⟨fun hc => ⟨_, rfl, ?_⟩, fun hc hd => ⟨_, rfl, ?_⟩, fun hc hd ha hn => ⟨_, rfl, ?_⟩⟩
    · dsimp only
      rw [writeFltCfg_badSet hf hc, refuse]
    · dsimp only
      rw [writeFltCfg_otherRate hf hc hd, refuse]
    · rw [writeFltCfg_waits hf hc hd ha hn]
      exact ⟨rfl, (reg_setStored s 0x1800 0x1800 _).trans (if_pos rfl)⟩
  · refine ⟨_, congrArg Host.Outcome.next (if_pos ht), ?_⟩
    have hflt : s.filterBoundary.fastFloors.flt = s.filterBoundary.flt := floors (p := .flt) _ (by decide)
    dsimp only
    rw [hflt, filterBoundary_flt hp]
    refine ⟨rfl, rfl, rfl, fun c hc => ?_⟩
    rw [nth_map hc]
    simp [FltCh.spoil]
  · refine ⟨_, congrArg Host.Outcome.next (if_pos ht), ?_⟩
    have hafe : (s.gainBoundary c).fastFloors.afe = (s.gainBoundary c).afe := floors (p := .afe) _ (by decide)
    have hflt : (s.gainBoundary c).fastFloors.flt = (s.gainBoundary c).flt := floors (p := .flt) _ (by decide)
    have hch : (s.gainBoundary c).fastFloors.afeCh c = (s.gainBoundary c).afeCh c := by rw [State.afeCh, State.afeCh, hafe]
    dsimp only
    rw [hch, gainBoundary_afeCh hg hc ha, hflt, gainBoundary_flt hg hc, nth_modNth_self hl]
    exact ⟨rfl, rfl, rfl⟩
  · obtain ⟨hr, hd⟩ := settingApply_tail ht
    exact ⟨_, rfl, hd, fun p hp => (reg_congr hr p.1).trans (reg_applyAll hn hp _)⟩

end Sys2Proof.Proofs.Boundaries
end

section
/-! ### The start-up up to the locks (R10, R388, R393, R408, R436, R441, R442, R448) -/

namespace Sys2Proof.Proofs.StartUp

open Sys2Proof Sys2Proof.Machine Sys2Proof.Facts.PowerRules

/-! #### The first feed (R448 row 1) -/

theorem feedRise_ignored {s : State} {f mv : Nat} (h : s.sys.st ≠ .off ∨ 2 ≤ f ∨ mv < 6000 ∨ 40000 < mv) : s.feedRise f mv = s := by
  refine if_neg ?_
  rintro ⟨hs, hf, hl, hu⟩
  rcases h with h | h
  · exact h hs
  · omega

theorem feedRise_taken {s : State} {f mv : Nat} (hs : s.sys.st = .off) (hf : f < 2) (hl : 6000 ≤ mv) (hu : mv ≤ 40000) :
    s.feedRise f mv = (s.resetTo .boot true 0 15).modPwr (fun p => { p with bootStep := 1, feedSup := p.feedSup.set f true }) :=
  if_pos ⟨hs, hf, hl, hu⟩

/-- A reset into BOOT from another state keeps that state for the record of the entry (R26, R30). -/
theorem resetTo_bootFrom {s : State} {cold : Bool} {cause rail : Nat} (h : s.sys.st ≠ .boot) : (s.resetTo .boot cold cause rail).sys.bootFrom = some (stCode s.sys.st) := by
  show (if OpState.boot ≠ .boot then none else if s.sys.st = .boot then s.sys.bootFrom else some (stCode s.sys.st)) = _
  rw [if_neg (not_not_intro rfl), if_neg h]

/-! #### The release of the power-on reset (R448 row 2) -/

theorem porRelease_taken {s : State} (h : s.sys.st = .boot ∧ s.host.up = false ∧ s.pwr.held = false ∧ s.pwr.bootStep < 2) :
    s.porRelease = { s with pwr := { s.pwr with bootStep := 2 } } := if_pos h

theorem porRelease_ignored {s : State} (h : s.sys.st ≠ .boot ∨ s.host.up = true ∨ s.pwr.held = true ∨ 2 ≤ s.pwr.bootStep) : s.porRelease = s := by
  refine if_neg ?_
  rintro ⟨hs, hh, hr, hb⟩
  rcases h with h | h | h | h
  · exact h hs
  · simp [hh] at h
  · simp [hr] at h
  · omega

/-! #### The rails (R388, R393, R436, R441, R442, R448 rows 3 and 4) -/

/-- The first half of row 3: straps and ports, then PCC, OT and the record of the entry into BOOT. -/
def supplied (s : State) (b : BootIn) : State := ((s.railsOn b).portsOn b).incPcc.timeBack.bootEntered

/-- The second half of rows 3 and 4: stored registers, records of the start, the auxiliary calibration. -/
def restored (s : State) (b : BootIn) : State := (((supplied s b).regsBack b).bootRecords b).auxCalBegin

theorem railsUp_ignored {s : State} {b : BootIn} (h : s.sys.st ≠ .boot ∨ s.host.up = true ∨ s.pwr.held = true ∨ s.pwr.bootStep < 2) : s.railsUp b = s := if_pos h

theorem railsUp_taken {s : State} {b : BootIn} (hs : s.sys.st = .boot) (hh : s.host.up = false) (hr : s.pwr.held = false) (hb : 2 ≤ s.pwr.bootStep) :
    s.railsUp b = (restored s b).bootRow 4 := by
  refine if_neg ?_
  rintro (h | h | h | h)
  · exact h hs
  · simp [hh] at h
  · simp [hr] at h
  · omega

theorem railsUp_same (s : State) (b : BootIn) : SameBut [.st, .irq, .host, .key, .ring, .ledger, .cap, .trip, .pwr, .nv, .afe, .aux, .sch, .regs] s (s.railsUp b) :=
  (keeps_railsUp (K := [.st, .irq, .host, .key, .ring, .ledger, .cap, .trip, .pwr, .nv, .afe, .aux, .sch, .regs]) b rfl (Keeps.refl _ s)).1

theorem supplied_keeps (s : State) (b : BootIn) : Keeps [.st, .irq, .ring, .trip, .pwr] ((s.railsOn b).portsOn b) (supplied s b) :=
  keeps_bootEntered rfl (keeps_timeBack rfl (keeps_incPcc rfl (Keeps.refl _ _)))

theorem restored_keeps (s : State) (b : BootIn) : Keeps [.irq, .ring, .ledger, .cap, .trip, .nv, .afe, .aux, .sch, .regs] (supplied s b) (restored s b) :=
  keeps_auxCalBegin rfl (keeps_bootRecords b rfl (keeps_regsBack b rfl (Keeps.refl _ _)))

theorem supplied_pwr (s : State) (b : BootIn) : (supplied s b).pwr = ((s.railsOn b).portsOn b).incPcc.timeBack.pwr :=
  Keeps.same (keeps_bootEntered (K := [.st, .irq, .ring, .trip]) rfl (Keeps.refl _ _)) (p := .pwr) (by decide)

theorem restored_pwr (s : State) (b : BootIn) : (restored s b).pwr = ((s.railsOn b).portsOn b).incPcc.timeBack.pwr :=
  ((restored_keeps s b).same (p := .pwr) (by decide)).trans (supplied_pwr s b)

/-- The part of the state logic: the module stays where it was, and the entry into BOOT has been recorded. -/
theorem restored_st (s : State) (b : BootIn) : (restored s b).sys.st = s.sys.st ∧ (restored s b).sys.bootFrom = none := by
  obtain ⟨hst, -, -, -, -, hfrom⟩ := (restored_keeps s b).same (p := .st) (by decide)
  obtain ⟨hfrom', hst', -⟩ := bootEntered_of ((s.railsOn b).portsOn b).incPcc.timeBack
  have hpre : Keeps [.irq, .ring, .trip, .pwr] ((s.railsOn b).portsOn b) ((s.railsOn b).portsOn b).incPcc.timeBack :=
    keeps_timeBack rfl (keeps_incPcc rfl (Keeps.refl _ _))
  exact ⟨hst.trans (hst'.trans (hpre.same (p := .st) (by decide)).1), hfrom.trans hfrom'⟩

theorem restored_host (s : State) (b : BootIn) : (restored s b).host = { s.host with up := true } :=
  ((restored_keeps s b).same (p := .host) (by decide)).trans ((supplied_keeps s b).same (p := .host) (by decide))

theorem restored_key (s : State) (b : BootIn) : (restored s b).key = { s.key with dbgEn := b.dbgEn } :=
  ((restored_keeps s b).same (p := .key) (by decide)).trans ((supplied_keeps s b).same (p := .key) (by decide))

/-- No record opens or closes the ring, so it stays as the power fail stage has put it. -/
theorem restored_closed (s : State) (b : BootIn) : (restored s b).ldg.closed = decide (s.pwr.pf ≠ .none) := by
  have haux : (restored s b).ldg.closed = (((supplied s b).regsBack b).bootRecords b).ldg.closed := rfl
  obtain ⟨hpcc, -⟩ := incPcc_of ((s.railsOn b).portsOn b)
  obtain ⟨htime, -⟩ := timeBack_of ((s.railsOn b).portsOn b).incPcc
  obtain ⟨-, -, hentry⟩ := bootEntered_of ((s.railsOn b).portsOn b).incPcc.timeBack
  rw [haux, records_closed, regsBack_closed, supplied, hentry, htime, hpcc]
  rfl

/-- PCC and OT come back without touching the straps, the charging of HOLD, the power fail stage, the cause of the reset and the row reached. -/
theorem restored_power (s : State) (b : BootIn) : (restored s b).pwr.rootStrap = b.chainRoot ∧ (restored s b).pwr.charging = decide (s.pwr.pf = .none) ∧
    (restored s b).pwr.pf = s.pwr.pf ∧ (restored s b).pwr.cause = s.pwr.cause ∧ (restored s b).pwr.bootStep = s.pwr.bootStep := by
  obtain ⟨-, hpcc, -⟩ := incPcc_of ((s.railsOn b).portsOn b)
  obtain ⟨-, htime, -⟩ := timeBack_of ((s.railsOn b).portsOn b).incPcc
  rw [restored_pwr, htime, hpcc]
  exact ⟨rfl, rfl, rfl, rfl, rfl⟩

theorem restored_pcc (s : State) (b : BootIn) :
    (restored s b).pwr.pcc = ((s.railsOn b).portsOn b).incPcc.pwr.pcc ∧ (restored s b).pwr.pccCopies = ((s.railsOn b).portsOn b).incPcc.pwr.pccCopies := by
  obtain ⟨-, htime, -⟩ := timeBack_of ((s.railsOn b).portsOn b).incPcc
  rw [restored_pwr, htime]
  exact ⟨rfl, rfl⟩

theorem railsOn_pccCopies (s : State) (b : BootIn) : (s.railsOn b).pwr.pccCopies = if b.pccFail || s.dm.mramFail then [none, none] else s.pwr.pccCopies := rfl

theorem railsOn_blocks (s : State) (b : BootIn) : (s.railsOn b).pwr.blocks = if b.countersFail || s.dm.mramFail then [none, none] else s.pwr.blocks := rfl

/-- PCC counts on from the higher of two valid copies, and the lower copy takes it (R441). -/
theorem restored_pcc_valid {s : State} {b : BootIn} {x y : Nat} (hxy : s.pwr.pccCopies = [some x, some y]) (hp : b.pccFail = false) (hm : s.dm.mramFail = false) :
    (restored s b).pwr.pcc = min 0xFFFFFFFF (x.max y + 1) ∧ (restored s b).pwr.pccCopies = s.pwr.pccCopies.set (if x ≤ y then 0 else 1) (some (restored s b).pwr.pcc) := by
  have hcopies : (s.railsOn b).pwr.pccCopies = s.pwr.pccCopies := by simp [railsOn_pccCopies, hp, hm]
  obtain ⟨hn, hput⟩ := restored_pcc s b
  obtain ⟨-, -, hvalid, -⟩ := incPcc_of ((s.railsOn b).portsOn b)
  rw [hn, hput, ← hcopies]
  exact hvalid x y (hcopies.trans hxy) hm

/-- With both copies lost PCC starts again (R441). -/
theorem restored_pcc_lost {s : State} {b : BootIn} (hp : b.pccFail = true) : (restored s b).pwr.pcc = 1 := by
  have hcopies : (s.railsOn b).pwr.pccCopies = [none, none] := by simp [railsOn_pccCopies, hp]
  obtain ⟨hn, -⟩ := restored_pcc s b
  obtain ⟨-, -, -, hlost⟩ := incPcc_of ((s.railsOn b).portsOn b)
  exact hn.trans (hlost hcopies)

/-- OT runs through a reset that is no power-on (R442). -/
theorem restored_ot_kept {s : State} {b : BootIn} (hc : s.pwr.cause ≠ 0) : (restored s b).pwr.ot = s.pwr.ot := by
  obtain ⟨-, hpcc, -⟩ := incPcc_of ((s.railsOn b).portsOn b)
  obtain ⟨-, -, hkept, -⟩ := timeBack_of ((s.railsOn b).portsOn b).incPcc
  rw [restored_pwr, hkept (by rw [hpcc]; exact hc), hpcc]
  rfl

/-- After a power-on OT resumes from the newest counter block (R442). -/
theorem restored_ot_resumed {s : State} {b : BootIn} {k : CounterBlock} (hc : s.pwr.cause = 0) (hb : b.countersFail = false) (hm : s.dm.mramFail = false)
    (hk : s.pwr.blocks.getD s.pwr.newest none = some k) : (restored s b).pwr.ot = k.ot % 2 ^ 56 ∧ (restored s b).pwr.resumed = !k.pf := by
  obtain ⟨-, hpcc, -⟩ := incPcc_of ((s.railsOn b).portsOn b)
  obtain ⟨-, -, -, hnewest⟩ := timeBack_of ((s.railsOn b).portsOn b).incPcc
  have hblocks : (s.railsOn b).pwr.blocks = s.pwr.blocks := by simp [railsOn_blocks, hb, hm]
  rw [restored_pwr]
  refine hnewest (by rw [hpcc]; exact hc) k ?_
  rw [hpcc]
  show (s.railsOn b).pwr.blocks.getD s.pwr.newest none = some k
  rw [hblocks, hk]

/-! #### The locks (R408, R448 row 7) -/

/-- What PLLS_LOCKED waits for beside the IRC: the SYS domain on the IRC at level 2, REFCLK stable where the module uses it at level 0. -/
def lockReady (s : State) : Prop := (s.clk.level = 2 ∧ s.clk.sysSrc = 1) ∨ s.clk.level = 1 ∨ (s.clk.level ≠ 2 ∧ (s.refEn = false ∨ s.clk.refStable = true))

theorem lockReady_iff (s : State) :
    (if s.clk.level = 2 then decide (s.clk.sysSrc = 1) else decide (s.clk.level = 1) || !s.refEn || s.clk.refStable) = true ↔ lockReady s := by
  unfold lockReady
  by_cases h : s.clk.level = 2 <;> simp [h, or_assoc]

theorem pllsLocked_taken {s : State} (ha : s.alive = true) (hs : s.sys.st = .boot) (hi : s.clk.ircOk = true) (hl : s.clk.sysLock = false) (hr : lockReady s) :
    s.pllsLocked = s.lockAll.bootRow 7 := if_pos ⟨ha, hs, hi, hl, (lockReady_iff s).mpr hr⟩

theorem pllsLocked_ignored {s : State} (h : s.alive = false ∨ s.sys.st ≠ .boot ∨ s.clk.ircOk = false ∨ s.clk.sysLock = true ∨ ¬lockReady s) : s.pllsLocked = s := by
  refine if_neg ?_
  rintro ⟨ha, hs, hi, hl, hr⟩
  rcases h with h | h | h | h | h
  · simp [ha] at h
  · exact h hs
  · simp [hi] at h
  · simp [hl] at h
  · exact h ((lockReady_iff s).mp hr)

theorem lockAll_level (s : State) (h : s.clk.level ≠ 2) : s.lockAll.clk.level = s.clk.level := if_neg h

theorem lockAll_ref (s : State) : s.lockAll.clk.ref = if s.lockAll.clk.level = 0 ∧ s.refEn = true then 0 else 1 := rfl

/-- Settles O54: each row of the start-up acts in its own condition alone, and what the rails bring back is read off the steps of row 3 one by one. -/
theorem startUpSupplies : Obligations.StartUpSupplies := by
  refine ⟨fun f mv s => ⟨fun h => ?_, fun hs hf hl hu => ?_⟩, fun s => ⟨fun hs hh hr hb => ?_, fun h => ?_⟩,
    fun b s => ⟨fun h => ?_, fun hs hh hr hb => ?_⟩, fun s => ⟨fun ha hs hi hl hr => ?_, fun h => ?_⟩⟩
  · exact congrArg Host.Outcome.next (feedRise_ignored h)
  · have hfrom := resetTo_bootFrom (s := s) (cold := true) (cause := 0) (rail := 15) (by simp [hs])
    rw [hs] at hfrom
    exact ⟨_, congrArg Host.Outcome.next (feedRise_taken hs hf hl hu), rfl, hfrom, rfl, rfl, rfl, rfl, rfl, rfl, rfl, rfl, rfl, rfl⟩
  · exact congrArg Host.Outcome.next (porRelease_taken ⟨hs, hh, hr, hb⟩)
  · exact congrArg Host.Outcome.next (porRelease_ignored h)
  · exact congrArg Host.Outcome.next (railsUp_ignored h)
  · obtain ⟨hst, hfrom⟩ := restored_st s b
    have hrow := (railsUp_taken (b := b) hs hh hr hb).trans (bootRow_of _ 4 (hst.trans hs))
    obtain ⟨hstrap, hcharge, hpf, hcause, hstep⟩ := restored_power s b
    have hsame := railsUp_same s b
    rw [hrow] at hsame
    refine ⟨_, congrArg Host.Outcome.next hrow, hsame, hst.trans hs, hfrom, restored_host s b, restored_key s b, restored_closed s b, ?_⟩
    exact ⟨hstrap, hcharge, hpf, hcause, congrArg (Nat.max · 4) hstep, fun x y hxy h1 h2 => restored_pcc_valid hxy h1 h2, restored_pcc_lost, restored_ot_kept,
      fun hc h1 h2 k hk => restored_ot_resumed hc h1 h2 hk⟩
  · have hrow := (pllsLocked_taken ha hs hi hl hr).trans (bootRow_of s.lockAll 7 hs)
    refine ⟨_, congrArg Host.Outcome.next hrow, ?_, rfl, rfl, rfl, rfl, rfl, lockAll_level s, fun he h0 => ?_, fun h => ?_⟩
    · exact hrow ▸ (keeps_pllsLocked (K := [.clk, .pwr]) rfl (Keeps.refl _ s)).1
    · exact (lockAll_ref s).trans (if_pos ⟨h0, he⟩)
    · refine (lockAll_ref s).trans (if_neg ?_)
      rintro ⟨h0, he⟩
      rcases h with h | h
      · simp [he] at h
      · exact h h0
  · exact congrArg Host.Outcome.next (pllsLocked_ignored h)

end Sys2Proof.Proofs.StartUp
end

section
/-! ### The operating state (R26) -/

namespace Sys2Proof.Proofs.StateMoves

open Sys2Proof Sys2Proof.Machine Sys2Proof.Facts.StateMoves

/-- Every command answers a next state, and keeps the parts that its row does not name and the invariant of the stores: the law of the operation that its arm carries out. -/
theorem exec_keeps (c : Instr) (s : State) : Leads (exec c s) (Keeps (touches c) s) :=
  have k {K : List Part} : Keeps K s s := Keeps.refl K s
  match c with
  | .tick .. => ⟨_, rfl, keeps_tick _ rfl k⟩
  | .outputUpdate => ⟨_, rfl, keeps_outputUpdate rfl k⟩
  | .placementCommit .. => ⟨_, rfl, keeps_placementCommit _ _ rfl k⟩
  | .attemptOverrun .. => ⟨_, rfl, keeps_overrun _ _ rfl k⟩
  | .pairStall .. => ⟨_, rfl, keeps_stall _ _ rfl k⟩
  | .reexecutionStart .. => ⟨_, rfl, keeps_reexecStart _ rfl k⟩
  | .pairSelftestEnd .. => ⟨_, rfl, keeps_selftestEnd _ _ rfl k⟩
  | .spareSelftestStart .. => ⟨_, rfl, keeps_spareTest _ rfl k⟩
  | .selftestSwap => ⟨_, rfl, keeps_selftestSwap rfl k⟩
  | .reqBlocked .. | .reqInService .. | .reqTest .. | .reqDormant .. | .reqWithdraw .. => ⟨_, rfl, w0x0004 _ _ s rfl⟩
  | .reqBadCode .. => ⟨_, rfl, .opt (w0x0004 _ _ s rfl) k⟩
  | .requestTaken => ⟨_, rfl, keeps_requestTaken rfl k⟩
  | .failsafeEntry .. => ⟨_, rfl, keeps_failsafeEntry _ rfl k⟩
  | .failsafeCauseCleared .. => ⟨_, rfl, .opt k (keeps_causeCleared rfl k)⟩
  | .healthOpen => ⟨_, rfl, keeps_healthOpen rfl k⟩
  | .rotationStepStart .. => ⟨_, rfl, keeps_rotationStart _ rfl k⟩
  | .handover .. => ⟨_, rfl, keeps_handover _ _ rfl k⟩
  | .coreCalibrationEnd .. => ⟨_, rfl, keeps_calibrationEnd _ _ rfl k⟩
  | .coreHardFault .. => ⟨_, rfl, keeps_hardFault _ rfl k⟩
  | .pilotWindowEnd .. => ⟨_, rfl, keeps_pilotWindow _ _ _ rfl k⟩
  | .suspectServiceStart .. => ⟨_, rfl, keeps_suspectStart _ rfl k⟩
  | .refdacCheck .. => ⟨_, rfl, .opt (keeps_refdacCheck _ _ rfl k) k⟩
  | .refdacRecheck .. => ⟨_, rfl, keeps_refdacRecheck _ _ rfl k⟩
  | .refdacResume .. => ⟨_, rfl, keeps_refdacResume _ rfl k⟩
  | .fltCfgWrite .. => ⟨_, rfl, w0x1800 _ _ s rfl⟩
  | .filterBoundary => ⟨_, rfl, keeps_filterEdge rfl k⟩
  | .gainBoundary .. => ⟨_, rfl, keeps_gainEdge _ rfl k⟩
  | .settingApply => ⟨_, rfl, keeps_settingApply rfl k⟩
  | .auxEntryDone .. => ⟨_, rfl, .opt (keeps_auxEntry _ _ rfl (keeps_auxSeek rfl k)) k⟩
  | .auxInjTrigGo .. => ⟨_, rfl, w0x1C24 _ _ s rfl⟩
  | .injectedGroupStart => ⟨_, rfl, keeps_injStart rfl k⟩
  | .injectedGroupDone .. => ⟨_, rfl, .opt (keeps_injDone _ rfl k) k⟩
  | .auxCalStart => ⟨_, rfl, keeps_auxCalStart rfl k⟩
  | .auxCalStepDone .. => ⟨_, rfl, keeps_auxCalStep _ _ rfl k⟩
  | .auxCalLate => ⟨_, rfl, keeps_auxCalLate rfl k⟩
  | .definiteTimeExpiry .. | .curveIntegratorFull .. | .resetTimeExpiry .. | .invalidTimeout .. | .directionalMemoryExpiry .. | .inrushHoldExpiry ..
  | .coldLoadArm .. | .coldLoadActiveEnd .. | .tripMinPulseExpiry .. | .bfRetrip .. | .bfTrip .. | .arReadyTimer .. | .arOpenTimeout .. | .arDeadTimeExpiry ..
  | .arSyncTimeout .. | .arClosePulseExpiry .. | .arReclaimExpiry .. | .arDiscriminationExpiry .. | .zoneHoldoverLimit .. | .zsiTimeExpiry ..
  | .zsiBlockWindowExpiry .. | .faultLocation .. | .twMatchTimeout .. | .syncConfirmExpiry .. | .tcsAlarmExpiry .. | .tcsTripBlankExpiry ..
  | .logicTimerExpiry .. => ⟨_, rfl, keeps_modInst _ _ _ rfl k⟩
  | .trackingLost => ⟨_, rfl, keeps_trackingLost rfl k⟩
  | .persistentLatchWrite .. => ⟨_, rfl, keeps_latchWrite _ rfl k⟩
  | .comparatorAssert .. => ⟨_, rfl, keeps_cmpAssert _ _ _ rfl k⟩
  | .comparatorRelease .. => ⟨_, rfl, keeps_feed _ _ rfl k⟩
  | .arcWindowExpiry .. => ⟨_, rfl, keeps_arcExpiry _ _ rfl k⟩
  | .expressReceived .. => ⟨_, rfl, keeps_expressIn _ _ _ rfl k⟩
  | .expressCodeTimeout .. => ⟨_, rfl, keeps_expressTimeout _ rfl k⟩
  | .fastCfgWrite .. => ⟨_, rfl, touchFst _ _ _ s⟩
  | .imageLoad .. | .imageActivation .. | .templateActivation .. | .ledgerCommission .. | .ledgerClear .. | .captureExport .. | .chainRewalk ..
  | .pairSelfTest .. | .foregroundAfeCalibration .. | .mramScrub .. | .breakerWearReset .. | .jobCancel .. => ⟨_, rfl, w0x1000 _ _ s rfl⟩
  | .chunkCommit .. => ⟨_, rfl, w0x2418 _ _ s rfl⟩
  | .activationReferenceTick => ⟨_, rfl, keeps_actReference rfl k⟩
  | .activationBoundary => ⟨_, rfl, keeps_actBoundary rfl k⟩
  | .activated => ⟨_, rfl, keeps_activated rfl k⟩
  | .schGroupWrite .. => ⟨_, rfl, w0x2430 _ _ s rfl⟩
  | .groupSwitch => ⟨_, rfl, keeps_groupSwitch rfl k⟩
  | .templateParamWrite .. => ⟨_, rfl, w0x243C _ _ s rfl⟩
  | .couplerFail .. => ⟨_, rfl, keeps_whileAlive rfl k (keeps_couplerFail _ _ rfl k)⟩
  | .couplerOk .. => ⟨_, rfl, keeps_whileAlive rfl k (keeps_couplerOk _ _ rfl k)⟩
  | .outputHoldExpiry .. => ⟨_, rfl, keeps_holdExpiry _ rfl k⟩
  | .inputAccepted .. => ⟨_, rfl, keeps_whileAlive rfl k (.opt (keeps_inputAccepted _ _ _ _ rfl k) k)⟩
  | .fieldSupplyReading .. => ⟨_, rfl, keeps_whileAlive rfl k (keeps_supplyReading _ _ _ rfl k)⟩
  | .fieldSagEnd => ⟨_, rfl, keeps_whileAlive rfl k (keeps_sagEnd rfl k)⟩
  | .fieldBrownout => ⟨_, rfl, keeps_whileAlive rfl k (keeps_enterLost rfl k)⟩
  | .fieldReady => ⟨_, rfl, keeps_whileAlive rfl k (keeps_fieldReady rfl k)⟩
  | .stuckOn .. => ⟨_, rfl, keeps_whileAlive rfl k (keeps_stuckOn _ rfl k)⟩
  | .outShort .. => ⟨_, rfl, keeps_whileAlive rfl k (keeps_outShort _ rfl k)⟩
  | .thermalShutdown .. => ⟨_, rfl, keeps_whileAlive rfl k (keeps_thermalOff _ rfl k)⟩
  | .thermalOffExpiry .. => ⟨_, rfl, keeps_thermalRetry _ rfl k⟩
  | .crossDrive .. => ⟨_, rfl, keeps_whileAlive rfl k (keeps_crossDrive _ _ rfl k)⟩
  | .outFailOff .. => ⟨_, rfl, keeps_whileAlive rfl k (keeps_outFailOff _ rfl k)⟩
  | .outOpen .. => ⟨_, rfl, keeps_whileAlive rfl k (keeps_outOpen _ _ rfl k)⟩
  | .outOverload .. => ⟨_, rfl, keeps_whileAlive rfl k (keeps_outOverload _ _ rfl k)⟩
  | .crossInhClear .. => ⟨_, rfl, w0x2D40 _ _ s rfl⟩
  | .fioCfgWrite .. => ⟨_, rfl, touchFio _ _ _ s⟩
  | .tcsContinuityChange .. => ⟨_, rfl, keeps_whileAlive rfl k (keeps_tcsChange _ _ rfl k)⟩
  | .ledgerWrite => ⟨_, rfl, keeps_ledgerWrite rfl k⟩
  | .tokenReturn .. => ⟨_, rfl, keeps_tokenReturn _ rfl k⟩
  | .cursorSeek .. | .cursorOldest .. | .cursorNewest .. | .cursorNext .. | .cursorPrev .. | .cursorFirst .. => ⟨_, rfl, w0x3014 _ _ s rfl⟩
  | .cursorMoveDone .. => ⟨_, rfl, keeps_cursorDone _ rfl k⟩
  | .ledgerScanDone => ⟨_, rfl, keeps_ledgerScanned rfl k⟩
  | .capTrig .. => ⟨_, rfl, w0x3404 _ _ s rfl⟩
  | .captureEnd => ⟨_, rfl, keeps_captureEnd rfl k⟩
  | .slotProtect .. | .slotUnprotect .. => ⟨_, rfl, w0x3414 _ _ s rfl⟩
  | .leaseTimeout .. => ⟨_, rfl, keeps_leaseTimeout _ rfl k⟩
  | .ptpSync .. => ⟨_, rfl, keeps_ptpSync _ _ rfl k⟩
  | .ptpFollowUp .. => ⟨_, rfl, keeps_ptpFollowUp _ _ _ _ rfl k⟩
  | .ptpAnnounce .. => ⟨_, rfl, keeps_announce _ _ rfl k⟩
  | .ptpPdelayReq .. => ⟨_, rfl, keeps_pdelayReq _ _ _ _ rfl k⟩
  | .ptpPdelayResp .. => ⟨_, rfl, keeps_pdelayResp _ _ _ _ _ rfl k⟩
  | .syncTimeout => ⟨_, rfl, keeps_syncTimeout rfl k⟩
  | .announceTimeout .. => ⟨_, rfl, keeps_announceTimeout _ rfl k⟩
  | .timeRealigned => ⟨_, rfl, keeps_realigned rfl k⟩
  | .forceAcceptNext .. | .forceSet .. | .forceDisarm .. => ⟨_, rfl, w0x3828 _ _ s rfl⟩
  | .ptpCtlWrite .. => ⟨_, rfl, w0x3800 _ _ s rfl⟩
  | .ptpTimeSecLoRead .. => ⟨_, rfl, keeps_read_at rfl k (keeps_latchTime rfl k)⟩
  | .ethLink .. => ⟨_, rfl, keeps_ethLink _ _ _ rfl k⟩
  | .prpSupervision => ⟨_, rfl, keeps_supervision rfl k⟩
  | .prpLanFault .. => ⟨_, rfl, keeps_lanFault _ rfl k⟩
  | .svFrameReceived .. => ⟨_, rfl, keeps_svFrame _ _ rfl k⟩
  | .eventMessageReceived .. => ⟨_, rfl, keeps_eventFrame _ _ rfl k⟩
  | .mgmtFrame .. => ⟨_, rfl, keeps_mgmtFrame _ _ rfl k⟩
  | .svPublish .. => ⟨_, rfl, keeps_svPublish _ rfl k⟩
  | .eventMessageRepeat .. => ⟨_, rfl, keeps_eventRepeat _ rfl k⟩
  | .eventContextExpiry .. => ⟨_, rfl, keeps_eventExpiry _ rfl k⟩
  | .portClockReceived .. => ⟨_, rfl, keeps_portClock _ rfl k⟩
  | .trainingAdvance .. => ⟨_, rfl, keeps_trainAdvance _ _ rfl k⟩
  | .trainingTimeout .. => ⟨_, rfl, keeps_trainTimeout _ rfl k⟩
  | .recoveryEntry .. => ⟨_, rfl, keeps_recoveryEntry _ _ rfl k⟩
  | .recoveryDone .. => ⟨_, rfl, keeps_recoveryDone _ _ rfl k⟩
  | .chainCycle => ⟨_, rfl, keeps_chainCycle rfl k⟩
  | .cycleMarkReceived .. => ⟨_, rfl, keeps_cycleMark _ _ _ _ _ rfl k⟩
  | .managementSlotReceived .. => ⟨_, rfl, keeps_managementSlot _ _ rfl k⟩
  | .unitSlotReceived .. => ⟨_, rfl, keeps_unitSlot _ _ _ rfl k⟩
  | .slotLoss .. => ⟨_, rfl, keeps_slotLoss _ rfl k⟩
  | .walkStart => ⟨_, rfl, keeps_walkStart rfl k⟩
  | .chainWalk .. => ⟨_, rfl, keeps_walkEnd _ _ rfl k⟩
  | .chainRingOpen => ⟨_, rfl, keeps_ringOpen rfl k⟩
  | .chainRingClosed => ⟨_, rfl, keeps_ringClosed rfl k⟩
  | .chainDeputyActive => ⟨_, rfl, keeps_deputyActive rfl k⟩
  | .chainNoRoot => ⟨_, rfl, keeps_noRootFound rfl k⟩
  | .chainTimeLost => ⟨_, rfl, keeps_chainTimeLost rfl k⟩
  | .remoteGo .. => ⟨_, rfl, w0x403C _ _ s rfl⟩
  | .remoteTransaction .. => ⟨_, rfl, keeps_remoteTransaction _ _ rfl k⟩
  | .remoteAnswer .. => ⟨_, rfl, keeps_remoteAnswer _ _ rfl k⟩
  | .remoteTimeout .. => ⟨_, rfl, keeps_remoteTimeout _ rfl k⟩
  | .chnXcpData0Read .. => ⟨_, rfl, keeps_read_at rfl k (keeps_latchXcp rfl k)⟩
  | .feedOutOfRange .. => ⟨_, rfl, keeps_feedOut _ _ rfl k⟩
  | .feedInRange .. => ⟨_, rfl, keeps_feedIn _ _ rfl k⟩
  | .hingePeerChange .. => ⟨_, rfl, keeps_peerChange _ rfl k⟩
  | .hingeClaim => ⟨_, rfl, keeps_hingeClaim rfl k⟩
  | .claimRecheck .. => ⟨_, rfl, keeps_claimRecheck _ rfl k⟩
  | .anchorFrameReceived .. => ⟨_, rfl, keeps_frameIn _ _ rfl k⟩
  | .anchorAdopt => ⟨_, rfl, keeps_adopt _ rfl k⟩
  | .activateOrder .. => ⟨_, rfl, keeps_activateOrder _ rfl k⟩
  | .readyReport => ⟨_, rfl, keeps_readyReport rfl k⟩
  | .handoverWrite .. => ⟨_, rfl, w0x4400 _ _ s rfl⟩
  | .handoverRequest => ⟨_, rfl, keeps_handoverIn rfl k⟩
  | .handoverAcknowledge => ⟨_, rfl, keeps_handoverAck rfl k⟩
  | .handoverTimeout => ⟨_, rfl, keeps_handoverTimeout rfl k⟩
  | .hingeStandby => ⟨_, rfl, keeps_enterStandby rfl k⟩
  | .hingeWireFault => ⟨_, rfl, keeps_wireFaultSet rfl k⟩
  | .wireFaultClear => ⟨_, rfl, keeps_wireFaultClear rfl k⟩
  | .hingeCtlNoTick => ⟨_, rfl, keeps_ctlNoTick rfl k⟩
  | .hostRead .. | .hostWrite .. | .hostQuadRead .. | .hostQuadWrite .. => ⟨_, rfl, keeps_frameOf _ _ _ rfl k⟩
  | .badCommand .. => ⟨_, rfl, keeps_badFrame _ _ rfl k⟩
  | .frameEndedShort .. => ⟨_, rfl, keeps_shortFrame _ _ rfl k⟩
  | .registerWrite .. => ⟨_, rfl, keeps_write _ _ _ rfl k⟩
  | .irqStatClear .. => ⟨_, rfl, w0x0010 _ _ s rfl⟩
  | .nmeStatClear .. => ⟨_, rfl, w0x0018 _ _ s rfl⟩
  | .jobStep .. => ⟨_, rfl, keeps_jobStep _ rfl k⟩
  | .clockFailure .. => ⟨_, rfl, keeps_clockFailure _ rfl k⟩
  | .sysPllRelock => ⟨_, rfl, keeps_sysRelock rfl k⟩
  | .convPllLock => ⟨_, rfl, keeps_convLocked rfl k⟩
  | .ircRestart => ⟨_, rfl, keeps_ircRestart rfl k⟩
  | .ircStable => ⟨_, rfl, keeps_ircStable rfl k⟩
  | .refclkStable .. => ⟨_, rfl, keeps_refclkStable _ rfl k⟩
  | .refOk => ⟨_, rfl, keeps_refOkSet rfl k⟩
  | .refReturn .. | .refEnWrite .. => ⟨_, rfl, w0x0800 _ _ s rfl⟩
  | .level2RecoveryValid => ⟨_, rfl, keeps_level2Recovered rfl k⟩
  | .trim .. => ⟨_, rfl, keeps_trim _ _ rfl k⟩
  | .measurementGo .. => ⟨_, rfl, w0x0820 _ _ s rfl⟩
  | .measurementDone .. => ⟨_, rfl, keeps_measureDone _ rfl k⟩
  | .railSettled => ⟨_, rfl, keeps_railSettled rfl k⟩
  | .engineFrequencyChange => ⟨_, rfl, keeps_freqChange rfl k⟩
  | .opLower => ⟨_, rfl, keeps_opLower rfl k⟩
  | .leafOffRequest .. | .leafRestart .. | .groupOffRequest .. => ⟨_, rfl, w0x0814 _ _ s rfl⟩
  | .leafGated .. => ⟨_, rfl, keeps_leafGated _ rfl k⟩
  | .feedRise .. => ⟨_, rfl, keeps_feedRise _ _ rfl k⟩
  | .powerOnResetRelease => ⟨_, rfl, keeps_porRelease rfl k⟩
  | .railsInRegulation .. => ⟨_, rfl, keeps_railsUp _ rfl k⟩
  | .pllsLocked => ⟨_, rfl, keeps_pllsLocked rfl k⟩
  | .defectMapRead .. => ⟨_, rfl, keeps_mapRead _ rfl k⟩
  | .shortSelfTestDone .. => ⟨_, rfl, keeps_selfTested _ rfl k⟩
  | .slotSelection .. => ⟨_, rfl, keeps_slotsSelected _ rfl k⟩
  | .afeReferenceSettled => ⟨_, rfl, keeps_afeSettled rfl k⟩
  | .filterSettled => ⟨_, rfl, keeps_filterSettled rfl k⟩
  | .windowsValid => ⟨_, rfl, keeps_windowsValid rfl k⟩
  | .powerFailDeclared .. => ⟨_, rfl, keeps_powerFail _ rfl k⟩
  | .flushEnd => ⟨_, rfl, keeps_flushOver rfl k⟩
  | .commitDone => ⟨_, rfl, keeps_commitDone rfl k⟩
  | .holdSpent .. => ⟨_, rfl, keeps_holdSpent _ rfl k⟩
  | .holdReady .. => ⟨_, rfl, keeps_holdReadySet _ rfl k⟩
  | .holdFault .. => ⟨_, rfl, keeps_holdFaultSet _ rfl k⟩
  | .railFault .. => ⟨_, rfl, keeps_railFault _ rfl k⟩
  | .resetNLow => ⟨_, rfl, keeps_resetLow rfl k⟩
  | .resetNRise => ⟨_, rfl, keeps_resetRise rfl k⟩
  | .hostReset .. => ⟨_, rfl, w0x0418 _ _ s rfl⟩
  | .hostResetEffect => ⟨_, rfl, keeps_hostResetEffect rfl k⟩
  | .hcRestart => ⟨_, rfl, keeps_hcRestart rfl k⟩
  | .counterBlockWrite .. => ⟨_, rfl, keeps_blockDue _ rfl k⟩
  | .dormantEntry => ⟨_, rfl, keeps_dormantEntry rfl k⟩
  | .persistenceWake .. => ⟨_, rfl, keeps_persistWake _ rfl k⟩
  | .wakePin => ⟨_, rfl, keeps_wakeEvent _ rfl k⟩
  | .wakeTimer .. => ⟨_, rfl, keeps_wakeTimer _ rfl k⟩
  | .feedWake .. => ⟨_, rfl, keeps_feedWake _ rfl k⟩
  | .pwrOtLoRead .. => ⟨_, rfl, keeps_read_at rfl k (keeps_latchOt rfl k)⟩
  | .defectMapWrite => ⟨_, rfl, keeps_mapWrite rfl k⟩
  | .ssRowSpared .. => ⟨_, rfl, keeps_ssSpare _ _ rfl k⟩
  | .ssScrub .. => ⟨_, rfl, keeps_ssScrub _ _ rfl k⟩
  | .mramRowSpared .. => ⟨_, rfl, keeps_mramSpare _ _ rfl k⟩
  | .mramScrubStep .. => ⟨_, rfl, keeps_mramScrubStep _ _ rfl k⟩
  | .mramFail => ⟨_, rfl, keeps_mramFails rfl k⟩
  | .crossbarFailure => ⟨_, rfl, keeps_crossbarFailure rfl k⟩
  | .lfoStable => ⟨_, rfl, keeps_lfoStable rfl k⟩
  | .refclkAbsent => ⟨_, rfl, keeps_refclkAbsent rfl k⟩
  | .pllHoldStop => ⟨_, rfl, keeps_pllHoldStop rfl k⟩
  | .localCycle .. => ⟨_, rfl, keeps_localCycle _ rfl k⟩

/-- What a command does to the operating state: one that does not name it in its row leaves it by its frame; each other one keeps it, or moves it as its row of R26 says. -/
theorem exec_moves (c : Instr) (s : State) : Leads (exec c s) fun t => t.sys.st = s.sys.st ∨ mayMove c s.sys.st t.sys.st := by
  by_cases hc : (touches c).contains .st = false
  · obtain ⟨t, ht, hk⟩ := exec_keeps c s
    exact ⟨t, ht, .inl (stK hk hc)⟩
  · cases c with
    | feedRise f mv => exact ⟨_, rfl, rise_st s f mv⟩
    | holdSpent mv => exact ⟨_, rfl, spent_st s mv⟩
    | dormantEntry => exact ⟨_, rfl, dor_st s⟩
    | wakePin => exact ⟨_, rfl, wake_st s 0⟩
    | wakeTimer ot => exact ⟨_, rfl, timer_st s ot⟩
    | feedWake f => exact ⟨_, rfl, fwake_st s f⟩
    | resetNLow => exact ⟨_, rfl, low_st s⟩
    | railFault r => exact ⟨_, rfl, rail_st s r⟩
    | hostResetEffect => exact ⟨_, rfl, hre_st s⟩
    | feedInRange f mv => exact ⟨_, rfl, fin_in s f mv⟩
    | commitDone => exact ⟨_, rfl, cd_st s⟩
    | filterSettled => exact ⟨_, rfl, fs_st s⟩
    | defectMapRead ok => exact ⟨_, rfl, map_st s ok⟩
    | shortSelfTestDone x => exact ⟨_, rfl, tested_st s x⟩
    | crossbarFailure => exact ⟨_, rfl, xbar_st s⟩
    | windowsValid => exact ⟨_, rfl, wv_st s⟩
    | hingeClaim => exact ⟨_, rfl, claim_st s⟩
    | activated => exact ⟨_, rfl, activated_st s⟩
    | claimRecheck b => exact ⟨_, rfl, recheck_st s b⟩
    | hingePeerChange b => exact ⟨_, rfl, peer_st s b⟩
    | chainCycle => exact ⟨_, rfl, cyc_st s⟩
    | cycleMarkReceived p r a n ph => exact ⟨_, rfl, mark_st s p r a n ph⟩
    | hingeStandby => exact ⟨_, rfl, standby_st s⟩
    | outputUpdate => exact ⟨_, rfl, upd_st s⟩
    | activationReferenceTick => exact ⟨_, rfl, act_st s⟩
    | failsafeEntry k => exact ⟨_, rfl, fe_st s k⟩
    | clockFailure k => exact ⟨_, rfl, clk_st s k⟩
    | failsafeCauseCleared k => exact ⟨_, rfl, fcc_st s k⟩
    | level2RecoveryValid => exact ⟨_, rfl, lvl2rec_st s⟩
    | requestTaken => exact ⟨_, rfl, req_st s⟩
    | railsInRegulation b => exact ⟨_, rfl, .inl (rails_st s b)⟩
    | powerFailDeclared mv => exact ⟨_, rfl, .inl (pf_st s mv)⟩
    | _ => exact absurd rfl hc

/-- Settles O7: a command that does not keep the state has moved it in its row of R26. -/
theorem stateMoves : Obligations.StateMoves := by
  intro c s t h hne
  obtain ⟨u, hu, hm⟩ := exec_moves c s
  obtain rfl : u = t := Host.Outcome.next.inj (hu.symm.trans h)
  exact hm.resolve_left hne

end Sys2Proof.Proofs.StateMoves
end

section
/-! ### Requests for an operating state (R26-R28, R30, R32, R450) -/

namespace Sys2Proof.Proofs.Requests

open Sys2Proof Sys2Proof.Machine Sys2Proof.Facts.Requests

/-! #### Writes of SYS_STATE (R28, R32) -/

theorem write_sysState {s : State} {cls : KeyClass} (h : s.mayWrite cls 0x0004) (v : Word) : s.write cls 0x0004 v = (s.writeReq (bitsOf v 7 4)).1 := by
  obtain ⟨r, hr, hw⟩ := tgt4
  exact write_applies h hr hw

theorem reqOf_pack : ∀ code < 16, bitsOf (pack [(4, 4, code)]) 7 4 = code := by decide

/-- A code of R28 is left pending. -/
theorem writeReq_pends {s : State} {code : Nat} (hs : s.sys.shutting = false) (hc : code ∈ [2, 3, 5, 7]) :
    (s.writeReq code).1 = { s with sys := { s.sys with
      reqVal := code, pend := some code, reqResult := 1, reqOt := s.pwr.ot, reqDue := false, reqHold := decide (s.clk.level = 2) || s.actSpan } } := by
  have h0 : code ≠ 0 := by rintro rfl; simp at hc
  simp [State.writeReq, h0, hc, hs]

theorem writeReq_withdraws {s : State} (h : s.sys.pend.isSome) : (s.writeReq 0).1 = { s with sys := { s.sys with pend := none, reqResult := 9 } } := by
  obtain ⟨code, hp⟩ := Option.isSome_iff_exists.mp h
  simp [State.writeReq, hp]

theorem writeReq_refuses {s : State} {code : Nat} (hc : code ∉ [0, 2, 3, 5, 7]) : (s.writeReq code).1 = { s with sys := { s.sys with reqResult := 8 } } := by
  simp only [List.mem_cons, not_or] at hc
  simp [State.writeReq, hc]

/-- Settles O8: the word of each command spells its code, and the write judges the code. -/
theorem requestWrites : Obligations.RequestWrites := by
  refine ⟨fun cls s hm hs => ?_, fun cls s hm hp => ?_, fun cls code s hm hlt hc => ?_⟩
  · have pends {code : Nat} (hc : code ∈ [2, 3, 5, 7]) (hlt : code < 16) := (write_sysState hm (pack [(4, 4, code)])).trans (by rw [reqOf_pack code hlt, writeReq_pends hs hc])
    exact ⟨congrArg Host.Outcome.next (pends (by decide) (by decide)), congrArg Host.Outcome.next (pends (by decide) (by decide)),
      congrArg Host.Outcome.next (pends (by decide) (by decide)), congrArg Host.Outcome.next (pends (by decide) (by decide))⟩
  · exact congrArg Host.Outcome.next ((write_sysState hm 0).trans (writeReq_withdraws hp))
  · have hcode : code ∈ [1, 4, 6, 8, 9, 10, 11, 12, 13, 14, 15] := by
      simp only [List.mem_cons, not_or] at hc ⊢
      omega
    refine congrArg Host.Outcome.next ((if_pos hcode).trans ((write_sysState hm _).trans ?_))
    rw [reqOf_pack code hlt, writeReq_refuses hc]

/-! #### A due request at its tick (R26, R27, R28, R450) -/

/-- The request is no longer pending, and its result reads a code (R28). -/
def answered (s : State) (r : Nat) : State := { s with sys := { s.sys with pend := none, reqResult := r } }

section
variable {s : State} {code : Nat} (hp : s.sys.pend = some code) (hc : s.canTake = true)
include hp hc

theorem requestTaken_outrun (ho : s.outrun = true) : s.requestTaken = answered s 7 := by
  rw [State.requestTaken, hp]
  exact (if_neg (by simp [hc])).trans (if_pos ho)

theorem requestTaken_judged (ho : s.outrun = false) :
    s.requestTaken = if s.judgeReq code = 2 then (answered s (s.judgeReq code)).carryOut code else answered s (s.judgeReq code) := by
  rw [State.requestTaken, hp]
  exact (if_neg (by simp [hc])).trans (if_neg (show ¬s.outrun = true by simp [ho]))

theorem requestTaken_granted (ho : s.outrun = false) (hj : s.judgeReq code = 2) : s.requestTaken = (answered s 2).carryOut code := by
  rw [requestTaken_judged hp hc ho, hj, if_pos rfl]

theorem requestTaken_refused (ho : s.outrun = false) {r : Nat} (hj : s.judgeReq code = r) (hr : r ≠ 2) : s.requestTaken = answered s r := by
  rw [requestTaken_judged hp hc ho, hj, if_neg hr]

end

theorem judgeReq_same {s : State} {code : Nat} (h : stCode s.sys.st = code) : s.judgeReq code = 2 := if_pos h

/-- A request for the state the module is in is done at once. -/
theorem carryOut_same {s : State} {code : Nat} (h : stCode s.sys.st = code) : s.carryOut code = s := if_pos h

/-- A granted request moves the module to the state it names, with cause 1, whether or not a hinged unit relinquishes first. -/
theorem carryOut_moves {s : State} {code : Nat} (h : stCode s.sys.st ≠ code) (h7 : code ≠ 7) :
    (s.carryOut code).sys.st = reqState code ∧ (s.carryOut code).sys.reqResult = s.sys.reqResult ∧ (s.carryOut code).sys.lastCause = 1 ∧ (s.carryOut code).sys.pend = s.sys.pend := by
  rw [State.carryOut, if_neg h, if_neg h7]
  split
  · obtain ⟨hpend, hres⟩ := relinquish_req s 1
    simp [hpend, hres]
  · simp

theorem carryOut_shutdown {s : State} (h : stCode s.sys.st ≠ 7) : s.carryOut 7 = s.startShutdown := (if_neg h).trans (if_pos rfl)

theorem startShutdown_of (s : State) : s.startShutdown.sys.shutting = true ∧ s.startShutdown.sys.st = s.sys.st ∧ s.startShutdown.sys.reqResult = s.sys.reqResult ∧
    s.startShutdown.sys.lastCause = 1 ∧ s.startShutdown.sys.pend = s.sys.pend ∧ s.startShutdown.pwr.bootStep = 15 := by
  simp [State.startShutdown]

/-- Settles O9: the verdict on a request (R26, R27) is read off its code and the state, and a granted one is carried out. -/
theorem requestsTaken : Obligations.RequestsTaken := by
  refine ⟨fun s code hp hc ho => congrArg Host.Outcome.next (requestTaken_outrun hp hc ho), fun s code hp hc ho => ?_⟩
  have refused {r : Nat} (hj : s.judgeReq code = r) (hr : r ≠ 2) : exec .requestTaken s = .next (answered s r) :=
    congrArg Host.Outcome.next (requestTaken_refused hp hc ho hj hr)
  have granted (hj : s.judgeReq code = 2) : exec .requestTaken s = .next ((answered s 2).carryOut code) :=
    congrArg Host.Outcome.next (requestTaken_granted hp hc ho hj)
  have moved (hj : s.judgeReq code = 2) (hs : stCode s.sys.st ≠ code) (h7 : code ≠ 7) :
      Leads (exec .requestTaken s) fun t => t.sys.st = reqState code ∧ t.sys.reqResult = 2 ∧ t.sys.lastCause = 1 ∧ t.sys.pend = none :=
    ⟨_, granted hj, carryOut_moves (s := answered s 2) hs h7⟩
  refine ⟨fun hs => ?_, fun h2 hs ht => ?_, fun h2 hs hf => ?_, fun h3 hs he => ?_, fun h5 hs => ?_, fun h3 hs he hh => ?_, fun h2 hs => ?_, fun h5 hs => ?_, fun h7 hs ht => ?_⟩
  · exact (granted (judgeReq_same hs)).trans (congrArg Host.Outcome.next (carryOut_same hs))
  · subst h2
    exact refused (by simp [State.judgeReq, hs, stCode, ht]) (by decide)
  · subst h2
    exact refused (by simp [State.judgeReq, hs, stCode, hf]) (by decide)
  · subst h3
    exact refused (by simp [State.judgeReq, hs, stCode, he]) (by decide)
  · subst h5
    exact refused (by simp [State.judgeReq, hs, stCode]) (by decide)
  · subst h3
    exact moved (by simp [State.judgeReq, hs, stCode, he, hh]) (by simp [hs, stCode]) (by decide)
  · subst h2
    rcases hs with hs | hs | ⟨hs, ht⟩ | ⟨hs, hf⟩
    · exact moved (by simp [State.judgeReq, hs, stCode]) (by simp [hs, stCode]) (by decide)
    · exact moved (by simp [State.judgeReq, hs, stCode]) (by simp [hs, stCode]) (by decide)
    · exact moved (by simp [State.judgeReq, hs, stCode, ht]) (by simp [hs, stCode]) (by decide)
    · exact moved (by simp [State.judgeReq, hs, stCode, hf]) (by simp [hs, stCode]) (by decide)
  · subst h5
    exact moved (by simp [State.judgeReq, hs, stCode]) (by simp [hs, stCode]) (by decide)
  · subst h7
    have hcode : stCode s.sys.st ≠ 7 := by rcases hs with hs | hs <;> simp [hs, stCode]
    have hj : s.judgeReq 7 = 2 := by rcases hs with hs | hs <;> simp [State.judgeReq, hs, stCode, ht]
    exact ⟨_, (granted hj).trans (congrArg Host.Outcome.next (carryOut_shutdown hcode)), startShutdown_of _⟩

end Sys2Proof.Proofs.Requests
end

section
/-! ### FAILSAFE: entry, return, the crossbar and the HEALTH driver (R24, R26, R30, R259, R366, R391, R449) -/

namespace Sys2Proof.Proofs.Failsafe

open Sys2Proof Sys2Proof.Machine Sys2Proof.Facts.Requests

/-! #### Causes (R26, R373) -/

theorem mem_addCause (s : State) (c : Nat) : c ∈ (s.addCause c).sys.causes := by
  show c ∈ if c ∈ s.sys.causes then s.sys.causes else s.sys.causes ++ [c]
  split
  · assumption
  · simp

theorem mem_addCause_of_mem {s : State} {c : Nat} (d : Nat) (h : c ∈ s.sys.causes) : c ∈ (s.addCause d).sys.causes := by
  show c ∈ if d ∈ s.sys.causes then s.sys.causes else s.sys.causes ++ [d]
  split
  · exact h
  · exact List.mem_append_left _ h

/-- A cause that is found holds, and the module stays in its state: at most a hinged unit relinquishes. -/
theorem found_of (s : State) (c : Nat) : c ∈ (s.found c).sys.causes ∧ (s.found c).sys.st = s.sys.st := by
  have hk : Keeps [.irq, .ring, .trip, .fio, .hng] (s.addCause c) (s.found c) := keeps_checkCauses rfl (Keeps.refl _ _)
  have hcauses : (s.found c).sys.causes = (s.addCause c).sys.causes := hk.same (p := .causes) (by decide)
  exact ⟨hcauses ▸ mem_addCause s c, (hk.same (p := .st) (by decide)).1⟩

/-! #### Entry and return (R26, R30) -/

/-- An automatic transition is a change of state that leaves the tick it was made at. -/
theorem autoState_eq (s : State) (n : OpState) (c : Nat) :
    s.autoState n c = { s.changeState n c with sys := { (s.changeState n c).sys with autoTick := some s.pe.tickOt } } := rfl

theorem autoState_st (s : State) (n : OpState) (c : Nat) : (s.autoState n c).sys.st = n ∧ (s.autoState n c).sys.lastCause = c := by
  have hst := changeState_st s n c
  have hcause := changeState_lastCause s n c
  rw [autoState_eq]
  generalize s.changeState n c = t at hst hcause ⊢
  exact ⟨hst, hcause⟩

/-- An automatic entry into FAILSAFE keeps the state left and the tick, sets the FAILSAFE bit of NME and lets go of HINGE_CTL (R30, R366, R391). -/
theorem autoState_failsafe (s : State) (c : Nat) : (s.autoState .failsafe c).sys.failFrom = s.sys.st ∧ (s.autoState .failsafe c).sys.nme = setBit s.sys.nme 0 ∧
    (s.autoState .failsafe c).hng.ctl = false ∧ (s.autoState .failsafe c).sys.autoTick = some s.pe.tickOt := by
  have hfrom := changeState_failFrom s c
  have hnme := (changeState_nme s .failsafe c).trans (if_pos rfl)
  have hctl := changeState_ctl s .failsafe c (by decide)
  rw [autoState_eq]
  generalize s.changeState .failsafe c = t at hfrom hnme hctl ⊢
  exact ⟨hfrom, hnme, hctl, rfl⟩

/-- A cause that holds in a running state leads into FAILSAFE, and a hinged unit no longer compares digests. -/
theorem failsafeEntry_taken {s : State} {c : Nat} (hs : s.sys.st ∈ [OpState.blocked, .inService, .standby, .test]) (hc : c ∈ s.sys.causes) (hsh : s.sys.shutting = false) :
    ∃ t, s.failsafeEntry c = { t with hng := { t.hng with comparing := false } } ∧ s.autoState .failsafe c = t :=
  ⟨_, if_pos ⟨(Facts.ClockRules.run_iff s.sys.st).mpr hs, hc, hsh⟩, rfl⟩

theorem causeCleared_returns {s : State} {n : OpState} (hs : s.sys.st = .failsafe) (hc : s.sys.causes = []) (hsh : s.sys.shutting = false) (hr : s.returnState = some n) :
    s.causeCleared = s.autoState n 0xB := by
  rw [State.causeCleared, if_pos ⟨hs, hc, hsh⟩, hr]

/-- Settles O10: each move is a change of state of R30, and the crossbar's cause comes up beside it. -/
theorem failsafeMoves : Obligations.FailsafeMoves := by
  refine ⟨fun c s hs hc hsh => ?_, fun c s hs hc hsh => ?_, fun s => ⟨fun hs => ?_, fun hs ha => ?_⟩, fun s hs => ?_⟩
  · obtain ⟨t, he, ht⟩ := failsafeEntry_taken hs hc hsh
    obtain ⟨hst, hcause⟩ := autoState_st s .failsafe c
    obtain ⟨hfrom, hnme, hctl, htick⟩ := autoState_failsafe s c
    rw [ht] at hst hcause hfrom hnme hctl htick
    exact ⟨_, congrArg Host.Outcome.next he, hst, hcause, hfrom, hnme, hctl, htick⟩
  · have returns {n : OpState} (hr : s.returnState = some n) : Leads (exec (.failsafeCauseCleared c) s) fun t => t.sys.st = n ∧ t.sys.lastCause = 0xB :=
      ⟨_, congrArg Host.Outcome.next ((if_neg (by simp [hc])).trans (causeCleared_returns hs hc hsh hr)), autoState_st s n 0xB⟩
    refine ⟨fun hf hh => returns (by simp [State.returnState, hf, hh]), fun hf => ?_⟩
    rcases hf with hf | hf <;> exact returns (by simp [State.returnState, hf])
  · refine ⟨_, congrArg Host.Outcome.next (if_pos ?_), found_of s 8⟩
    revert hs
    cases s.sys.st <;> decide
  · have hrun : ¬(running s.sys.st = true ∨ s.sys.st = .failsafe) := by rw [hs]; decide
    obtain ⟨hst, hcause, -⟩ := Facts.PowerRules.fails_of (s.addCause 8)
    refine ⟨_, congrArg Host.Outcome.next ((if_neg hrun).trans (if_pos ⟨hs, ha⟩)), ?_, hst, hcause⟩
    rw [State.bootFails, changeState_causes]
    exact mem_addCause_of_mem 12 (mem_addCause s 8)
  · exact congrArg Host.Outcome.next (if_neg (by simpa using hs))

end Sys2Proof.Proofs.Failsafe
end

section
/-! ### The protection tick and its output update (R12, R13, R15, R102, R110, R120) -/

namespace Sys2Proof.Proofs.Tick

open Sys2Proof Sys2Proof.Machine Sys2Proof.Facts.Ticks

/-- What has been latched and judged at a tick when the engines wake (R13, R18-R20, R101). -/
def beforeWake (s : State) (i : TickIn) : State :=
  (((((s.captureTick.tickTime i.ot).actTick).groupTick).latchAll i.codes).digestTick.ctlTick).adopt 0

theorem tick_eq {s : State} (h : s.ticking = true) (i : TickIn) :
    s.tick i = (((((beforeWake s i).wakeAll i.ecc i.mismatch).captureDue).couplerFlush).injEdge).reqTick s.causeDue := if_neg (by simp [h])

/-- After the tick's time is set, nothing up to the wake touches the state logic, the time or the tick count. -/
theorem beforeWake_keeps (s : State) (i : TickIn) :
    Keeps [.irq, .job, .ring, .trip, .sch, .clk, .afe, .flt, .aux, .pe, .fst, .fio, .svc, .chn, .hng] (s.captureTick.tickTime i.ot) (beforeWake s i) :=
  keeps_adopt _ rfl (keeps_ctlTick rfl (keeps_digestTick rfl (keeps_latchAll _ rfl (keeps_groupTick rfl (keeps_actTick rfl (Keeps.refl _ _))))))

theorem tick_keeps {s : State} (h : s.ticking = true) (i : TickIn) :
    Keeps [.due, .causes, .irq, .ring, .cap, .trip, .clk, .nv, .aux, .pe, .trk, .fio, .hng] (beforeWake s i) (s.tick i) := by
  rw [tick_eq h]
  exact keeps_reqTick _ rfl (keeps_injEdge rfl (keeps_couplerFlush rfl (keeps_captureDue rfl (keeps_wakeAll _ _ rfl (Keeps.refl _ _)))))

theorem captureTick_keeps (s : State) : Keeps [.irq, .ring, .cap, .trip, .clk] s s.captureTick := keeps_captureTick rfl (Keeps.refl _ s)

theorem tick_ot {s : State} (h : s.ticking = true) (i : TickIn) : (s.tick i).pwr.ot = i.ot := by
  have hpwr : (s.tick i).pwr = (s.captureTick.tickTime i.ot).pwr := ((tick_keeps h i).same (p := .pwr) (by decide)).trans ((beforeWake_keeps s i).same (p := .pwr) (by decide))
  rw [hpwr]
  rfl

/-- Ticks are counted from BLOCKED on (R12). -/
theorem tickTime_ticks (s : State) (ot : Nat) : (s.tickTime ot).sys.ticks = if s.sys.st = .boot then s.sys.ticks else (s.sys.ticks + 1) % 2 ^ 32 := by
  have hk : Keeps [.ptp] s (s.ptpTick ot) := keeps_ptpTick _ rfl (Keeps.refl _ s)
  have hticks : (s.ptpTick ot).sys.ticks = s.sys.ticks := hk.same (p := .ticks) (by decide)
  obtain ⟨hst, -⟩ := hk.same (p := .st) (by decide)
  rw [← hst, ← hticks]
  rfl

theorem tick_ticks {s : State} (h : s.ticking = true) (i : TickIn) : (s.tick i).sys.ticks = if s.sys.st = .boot then s.sys.ticks else (s.sys.ticks + 1) % 2 ^ 32 := by
  have hticks : (s.tick i).sys.ticks = (s.captureTick.tickTime i.ot).sys.ticks :=
    ((tick_keeps h i).same (p := .ticks) (by decide)).trans ((beforeWake_keeps s i).same (p := .ticks) (by decide))
  obtain ⟨hst, -⟩ := (captureTick_keeps s).same (p := .st) (by decide)
  have hcount : s.captureTick.sys.ticks = s.sys.ticks := (captureTick_keeps s).same (p := .ticks) (by decide)
  rw [hticks, tickTime_ticks, hst, hcount]

/-! #### The wake (R77, R102, R238) -/

theorem beforeWake_st (s : State) (i : TickIn) : (beforeWake s i).sys.st = s.sys.st ∧ (beforeWake s i).sys.shutting = s.sys.shutting := by
  have htime : Keeps [.ticks, .pwr, .pe, .ptp] s.captureTick (s.captureTick.tickTime i.ot) := keeps_tickTime _ rfl (Keeps.refl _ _)
  obtain ⟨h1, -, -, -, h1', -⟩ := (captureTick_keeps s).same (p := .st) (by decide)
  obtain ⟨h2, -, -, -, h2', -⟩ := htime.same (p := .st) (by decide)
  obtain ⟨h3, -, -, -, h3', -⟩ := (beforeWake_keeps s i).same (p := .st) (by decide)
  exact ⟨h3.trans (h2.trans h1), h3'.trans (h2'.trans h1')⟩

theorem setGroup_act (s : State) (g : Nat) : (s.setGroup g).sch.act = s.sch.act := by
  unfold State.setGroup
  split
  · rfl
  · rw [stageTick_sch]
    rfl

theorem groupTick_act (s : State) : s.groupTick.sch.act = s.sch.act := by
  unfold State.groupTick
  split
  · rfl
  · split
    · exact setGroup_act s _
    · rfl

/-- Without an activation the tick counts nothing down. -/
theorem actTick_idle {s : State} (h : s.sch.act = .idle) : s.actTick = s := by simp [State.actTick, State.hingeActLost, h]

theorem beforeWake_act {s : State} (i : TickIn) (h : s.sch.act = .idle) : (beforeWake s i).sch.act = .idle := by
  have hcap : s.captureTick.sch = s.sch := (captureTick_keeps s).same (p := .sch) (by decide)
  have htime : (s.captureTick.tickTime i.ot).sch = s.captureTick.sch := Keeps.same (keeps_tickTime (K := [.ticks, .pwr, .pe, .ptp]) _ rfl (Keeps.refl _ _)) (p := .sch) (by decide)
  have hidle : (s.captureTick.tickTime i.ot).sch.act = .idle := by rw [htime, hcap, h]
  have hlatch : Keeps [.irq, .ring, .trip, .clk, .afe, .flt, .aux, .pe, .fst, .fio, .svc, .chn, .hng] (s.captureTick.tickTime i.ot).actTick.groupTick (beforeWake s i) :=
    keeps_adopt _ rfl (keeps_ctlTick rfl (keeps_digestTick rfl (keeps_latchAll _ rfl (Keeps.refl _ _))))
  have hsch : (beforeWake s i).sch = (s.captureTick.tickTime i.ot).actTick.groupTick.sch := hlatch.same (p := .sch) (by decide)
  rw [hsch, groupTick_act, actTick_idle hidle, hidle]

/-- Engines that run leave an output update due; a mismatch does not take it back. -/
theorem wakeAll_updDue {s : State} (h : s.enginesMay = true) (ecc : List Nat) (mm : List (Nat × Nat)) : (s.wakeAll ecc mm).pe.updDue = true := by
  rw [State.wakeAll, if_pos h, mm_upd]
  rfl

theorem tick_updDue {s : State} (h : s.ticking = true) (i : TickIn) (hb : s.sys.st ≠ .boot) (hsh : s.sys.shutting = false) (ha : s.sch.act = .idle) : (s.tick i).pe.updDue = true := by
  obtain ⟨hst, hshut⟩ := beforeWake_st s i
  have hact := beforeWake_act i ha
  have hmay : (beforeWake s i).enginesMay = true := by simp [State.enginesMay, hst, hshut, hact, hb, hsh]
  have hpe : (s.tick i).pe = ((beforeWake s i).wakeAll i.ecc i.mismatch).pe := by
    rw [tick_eq h]
    exact Keeps.same (keeps_reqTick (K := [.due, .cap, .irq, .ring, .trip, .fio, .aux]) _ rfl (keeps_injEdge rfl (keeps_couplerFlush rfl (keeps_captureDue rfl (Keeps.refl _ _))))) (p := .pe) (by decide)
  rw [hpe]
  exact wakeAll_updDue hmay _ _

/-- Settles O11: what follows the tick's time leaves time and count, and the engines' wake makes the update due; the update is the law of its steps. -/
theorem tickAndUpdate : Obligations.TickAndUpdate := by
  refine ⟨fun i s h => ⟨_, rfl, tick_ot h i, tick_ticks h i, tick_updDue h i⟩, fun s h hd => ⟨_, rfl, upd_all s h hd⟩⟩

end Sys2Proof.Proofs.Tick
end

section
/-! ### Published streams (R23, R313, R316, R319) -/

namespace Sys2Proof.Proofs.Streams

open Sys2Proof Sys2Proof.Machine Sys2Proof.Facts.StreamRules

/-! #### Sampled values (R313, R316) -/

/-- The context after it has sent a frame of the newest group. -/
def sampled (s : State) (c : StreamCfg) (x : CtxSt) : CtxSt :=
  { x with frames := (x.frames + 1) % 65536, last := (s.pubFrame c).1, started := true, valid := (s.pubFrame c).2.all (fun it => it.2 % 4 ≠ 1), test := decide (s.sys.st = .test) }

section
variable {s : State} {i : Nat} {c : StreamCfg} (hc : s.ctxCfg i = some c) (hk : c.kind = 2) (hp : s.publishes = true) (hm : s.canSend c = true)
include hc hk hp hm

theorem svPublish_mayPublish : s.svPublish i =
    if (s.ctx i).started ∧ (s.ctx i).last = (s.pubFrame c).1 then s
    else (s.modCtx i (sampled s c)).send [.sv i (s.pubFrame c).1 s.smpSynch (s.pubFrame c).2 (decide (s.sys.st = .test))] := by
  rw [State.svPublish, hc]
  exact if_neg (by simp [hk, hp, hm])

theorem svPublish_sentBefore (hs : (s.ctx i).started = true) (hl : (s.ctx i).last = (s.pubFrame c).1) : s.svPublish i = s := by
  rw [svPublish_mayPublish hc hk hp hm, if_pos ⟨hs, hl⟩]

theorem svPublish_sends (h : (s.ctx i).started = true → (s.ctx i).last ≠ (s.pubFrame c).1) :
    s.svPublish i = (s.modCtx i (sampled s c)).send [.sv i (s.pubFrame c).1 s.smpSynch (s.pubFrame c).2 (decide (s.sys.st = .test))] := by
  rw [svPublish_mayPublish hc hk hp hm, if_neg fun hs => h hs.1 hs.2]

end

/-- Ticks of fp (R316). -/
theorem pubFrame_ticks {s : State} {c : StreamCfg} (h : c.code = 0) : (s.pubFrame c).1 = s.tickNear % s.fp ∧ (s.pubFrame c).2.length = c.chans.length := by
  simp [State.pubFrame, h]

/-- A frame at a published rate counts its groups in a second, and carries one item per channel and group (R316). -/
theorem pubFrame_rate {s : State} {c : StreamCfg} (h : c.code ≠ 0) (hr : 0 < (pubRate c.code).1) :
    (s.pubFrame c).1 < (pubRate c.code).1 ∧ (s.pubFrame c).2.length = (pubRate c.code).2.1 * c.chans.length := by
  unfold State.pubFrame
  rw [if_neg h]
  exact ⟨Nat.mod_lt _ hr, flat_len ..⟩

/-! #### Event messages (R319) -/

/-- The interval of a context doubles up to T0. -/
def nextIval (s : State) (i : Nat) (c : StreamCfg) : Nat := min (2 * (s.ctx i).ival) (eventT0 c)

/-- A context that has repeated its message and waits for an interval. -/
def repeated (s : State) (next : Nat) (x : CtxSt) : CtxSt :=
  { x with sq := x.sq + 1, ival := next, ttl := 2 * next, frames := (x.frames + 1) % 65536, test := decide (s.sys.st = .test) }

theorem eventRepeat_sends {s : State} {i : Nat} {c : StreamCfg} (hc : s.ctxCfg i = some c) (hk : c.kind = 3) (hp : s.publishes = true) (hm : s.canSend c = true)
    (hs : (s.ctx i).started = true) :
    s.eventRepeat i = (s.modCtx i (repeated s (nextIval s i c))).send [(s.modCtx i (repeated s (nextIval s i c))).eventOut i] := by
  rw [State.eventRepeat, hc]
  exact if_neg (by simp [hk, hp, hm, hs])

/-- Settles O36: a frame or message goes out with the context that it leaves, other contexts stay, and the states that do not publish leave everything. -/
theorem publishedStreams : Obligations.PublishedStreams := by
  refine ⟨fun i c s hc hk hp hm hi => ⟨fun hs hl => ?_, fun h => ?_, pubFrame_ticks, fun h => ?_, fun h => ?_⟩, fun i c s hc hk hp hm hs hi => ?_, fun i s hp => ⟨?_, ?_⟩⟩
  · exact congrArg Host.Outcome.next (svPublish_sentBefore hc hk hp hm hs hl)
  · refine ⟨_, congrArg Host.Outcome.next (svPublish_sends hc hk hp hm h), rfl, fun k hki => ctx_ne s i k _ hki, ?_⟩
    have hx := ctx_mod s i (sampled s c) hi
    exact ⟨congrArg CtxSt.last hx, congrArg CtxSt.started hx, congrArg CtxSt.frames hx⟩
  · simpa [h, pubRate] using pubFrame_rate (s := s) (c := c) (by simp [h]) (by simp [h, pubRate])
  · simpa [h, pubRate] using pubFrame_rate (s := s) (c := c) (by simp [h]) (by simp [h, pubRate])
  · have hx := ctx_mod s i (repeated s (nextIval s i c)) hi
    have hival := congrArg CtxSt.ival hx
    have httl := congrArg CtxSt.ttl hx
    refine ⟨_, congrArg Host.Outcome.next (eventRepeat_sends hc hk hp hm hs), fun k hki => ctx_ne s i k _ hki, congrArg CtxSt.sq hx, (congrArg CtxSt.last hx :), hival, httl.trans (congrArg (2 * ·) hival.symm), ?_⟩
    rw [State.eventOut, hx]
    exact congrArg (fun n => [NetOut.event i (s.ctx i).last ((s.ctx i).sq + 1) n (s.ctx i).bits (decide (s.sys.st = .test))]) httl.symm
  · refine congrArg Host.Outcome.next ?_
    cases hc : s.ctxCfg i <;> simp [State.svPublish, hc, hp]
  · refine congrArg Host.Outcome.next ?_
    cases hc : s.ctxCfg i <;> simp [State.eventRepeat, hc, hp]

end Sys2Proof.Proofs.Streams
end

section
/-! ### Clock failures and the levels they lead to (R26, R408, R414-R417, R419, R420, R429) -/

namespace Sys2Proof.Proofs.ClockFallback

open Sys2Proof Sys2Proof.Machine Sys2Proof.Facts.ClockRules

/-! #### Which failures count (R414) -/

theorem clockFailure_dead {s : State} (c : ClockFail) (h : s.alive = false) : s.clockFailure c = s := if_pos (by simp [h])

section
variable {s : State} (ha : s.alive = true)
include ha

/-- A failure of REFCLK counts while REFCLK is stable, and one of its frequency only against a stable IRC. -/
theorem clockFailure_ref {c : ClockFail} {k : Nat} {byIrc : Bool} (h : (c, k, byIrc) ∈ [(ClockFail.refStopped, 1, false), (.refFreq, 2, true)]) :
    s.clockFailure c = if s.clk.refStable && (!byIrc || s.clk.ircOk) then s.refFails k else s := by
  simp only [List.mem_cons, List.not_mem_nil, or_false, Prod.mk.injEq] at h
  rcases h with ⟨rfl, rfl, rfl⟩ | ⟨rfl, rfl, rfl⟩ <;> simp [State.clockFailure, ha]

/-- A failure of the SYS PLL counts while it supplies the SYS domain. -/
theorem clockFailure_sys {c : ClockFail} {byIrc : Bool} (h : (c, byIrc) ∈ [(ClockFail.sysStopped, false), (.sysFreq, true)]) :
    s.clockFailure c = if s.sysRuns && (!byIrc || s.clk.ircOk) then s.fallBack 3 else s := by
  simp only [List.mem_cons, List.not_mem_nil, or_false, Prod.mk.injEq] at h
  rcases h with ⟨rfl, rfl⟩ | ⟨rfl, rfl⟩ <;> simp [State.clockFailure, ha]

theorem clockFailure_irc {c : ClockFail} (h : c ∈ [ClockFail.ircStopped, .ircFreq]) : s.clockFailure c = if s.clk.ircOk then s.ircFails else s := by
  simp only [List.mem_cons, List.not_mem_nil, or_false] at h
  rcases h with rfl | rfl <;> simp [State.clockFailure, ha]

theorem clockFailure_lfo {c : ClockFail} (h : c ∈ [ClockFail.lfoStopped, .lfoFreq]) : s.clockFailure c = if s.clk.lfoFail then s else s.lfoFails := by
  simp only [List.mem_cons, List.not_mem_nil, or_false] at h
  rcases h with rfl | rfl <;> simp [State.clockFailure, ha]

end

theorem sysRuns_iff (s : State) : s.sysRuns = true ↔ s.clk.sysLock = true ∧ s.clk.sysSrc = 0 := by simp [State.sysRuns]

/-! #### What they lead to (R414, R415, R420, R429) -/

theorem fallBack_one {s : State} (k : Nat) (h : s.clk.ircOk = true) : FellToOne k s (s.fallBack k) ∧ (s.fallBack k).clk.refStable = s.clk.refStable := by
  obtain ⟨hfell, hstable, -⟩ := level1_fell s k
  rw [State.fallBack, if_pos h]
  exact ⟨hfell, hstable⟩

theorem fallBack_two {s : State} (k : Nat) (h : s.clk.ircOk = false) : FellToTwo k s (s.fallBack k) ∧ (s.fallBack k).clk.refStable = s.clk.refStable := by
  obtain ⟨hfell, hstable, -⟩ := level2_fell s k
  rw [State.fallBack, if_neg (by simp [h])]
  exact ⟨hfell, hstable⟩

/-- The IRC is no longer judged good, and IRC_FAIL says so. -/
def ircTold (s : State) : State := ({ s with clk := { s.clk with ircOk := false } } : State).stage 0x0133 2 []

theorem ircTold_of (s : State) : SameBut [.irq, .ring, .trip, .clk] s (ircTold s) ∧ (ircTold s).clk = { s.clk with ircOk := false } := ⟨sb_stage s _ _ _ _, stage_clk _ _ _ _⟩

/-- Beside REFCLK an IRC failure changes no level. -/
theorem ircFails_spare {s : State} (hl : s.clk.level = 0) (hr : s.clk.ref ≠ 1) : s.ircFails = ircTold s := if_neg (by simp [hl, hr])

/-- The IRC as the only reference: level 2. -/
theorem ircFails_only {s : State} (h : s.clk.level = 1 ∨ (s.clk.level = 0 ∧ s.clk.ref = 1)) : FellToTwo 4 s s.ircFails ∧ s.ircFails.clk.ircOk = false := by
  have he : s.ircFails = (ircTold s).enterLevel2 4 := if_pos (by simpa using h)
  obtain ⟨hsame, hclk⟩ := ircTold_of s
  obtain ⟨hfell, -, -, hirc⟩ := level2_fell (ircTold s) 4
  obtain ⟨hst, -, -, -, hshut, -⟩ := hsame.2 .st (by decide)
  have hnme : (ircTold s).sys.nme = s.sys.nme := hsame.2 .nme (by decide)
  rw [he, hirc, hclk]
  exact ⟨fell2_of hfell (by simp [hclk]) ⟨hst, hshut, hnme⟩, rfl⟩

theorem lfoFails_of (s : State) : SameBut [.irq, .ring, .trip, .clk] s s.lfoFails ∧ s.lfoFails.clk = { s.clk with lfoFail := true } := ⟨sb_stage s _ _ _ _, stage_clk _ _ _ _⟩

/-! #### A start without REFCLK (R408) -/

theorem refclkAbsent_taken {s : State} (h : s.alive = true ∧ s.sys.st = .boot ∧ s.clk.ircOk = true ∧ s.refEn = true ∧ s.clk.refStable = false ∧ s.clk.level = 0 ∧ s.clk.sysLock = false) :
    s.refclkAbsent.clk = { s.clk with level := 1, cause := 5, level1 := satInc 255 s.clk.level1, ref := 1 } ∧ s.refclkAbsent.sys.st = .boot ∧
      s.refclkAbsent.pwr.bootStep = s.pwr.bootStep.max 6 ∧ s.refclkAbsent.sys.nme = setBit s.sys.nme 1 := by
  obtain ⟨-, hst, -⟩ := id h
  have he : s.refclkAbsent = ((({ s with clk := { s.clk with level := 1, cause := 5, level1 := satInc 255 s.clk.level1, ref := 1 } } : State).setNme 1).stage 0x0130 2 (b1 5)).bootRow 6 := if_pos h
  rw [he, Facts.PowerRules.bootRow_of _ 6 (by simpa using hst)]
  simp [hst, State.setNme]

/-- Settles O49: a failure that counts leads to the level that the reference and the IRC leave; every other leaves the clocks, by the same conditions. -/
theorem clockFallback : Obligations.ClockFallback := by
  refine ⟨fun c s h => congrArg Host.Outcome.next (clockFailure_dead c h), fun s ha p hp => ⟨fun h => ?_, fun h1 h2 => ?_⟩, fun s ha p hp => ⟨fun h => ?_, fun h1 h2 h3 => ?_, fun h1 h2 h3 h4 => ?_⟩,
    fun s ha c hc => ⟨fun h => ?_, fun h1 h2 h3 => ?_, fun h1 h2 => ?_⟩, fun s ha c hc => ⟨fun h => ?_, fun h => ?_⟩, fun s => ⟨fun ha hs hi hr hst hl hk => ?_, fun h => ?_⟩⟩
  · refine congrArg Host.Outcome.next ((clockFailure_ref ha hp).trans (if_neg ?_))
    rcases h with h | ⟨hb, hi⟩
    · simp [h]
    · simp [hb, hi]
  · have he : exec (.clockFailure p.1) s = .next (s.refFails p.2.1) := by
      refine congrArg Host.Outcome.next ((clockFailure_ref ha hp).trans (if_pos ?_))
      rcases h2 with hb | hi
      · simp [h1, hb]
      · simp [h1, hi]
    obtain ⟨hother, hone, htwo⟩ := refFails_of s p.2.1
    exact ⟨fun h => he.trans (congrArg Host.Outcome.next (hother h)), fun hl hr hi => ⟨_, he, hone hl hr hi⟩, fun hl hr hi => ⟨_, he, htwo hl hr hi⟩⟩
  · refine congrArg Host.Outcome.next ((clockFailure_sys ha hp).trans (if_neg ?_))
    rcases h with h | h | ⟨hb, hi⟩
    · simp [State.sysRuns, h]
    · simp [State.sysRuns, h]
    · simp [hb, hi]
  · exact ⟨_, congrArg Host.Outcome.next ((clockFailure_sys ha hp).trans (if_pos (by simp [sysRuns_iff, h1, h2, h3]))), fallBack_one 3 h3⟩
  · exact ⟨_, congrArg Host.Outcome.next ((clockFailure_sys ha hp).trans (if_pos (by simp [sysRuns_iff, h1, h2, h3]))), fallBack_two 3 h4⟩
  · exact congrArg Host.Outcome.next ((clockFailure_irc ha hc).trans (if_neg (by simp [h])))
  · exact ⟨_, congrArg Host.Outcome.next (((clockFailure_irc ha hc).trans (if_pos h1)).trans (ircFails_spare h2 h3)), ircTold_of s⟩
  · exact ⟨_, congrArg Host.Outcome.next ((clockFailure_irc ha hc).trans (if_pos h1)), ircFails_only h2⟩
  · exact congrArg Host.Outcome.next ((clockFailure_lfo ha hc).trans (if_pos h))
  · exact ⟨_, congrArg Host.Outcome.next ((clockFailure_lfo ha hc).trans (if_neg (by simp [h]))), lfoFails_of s⟩
  · exact ⟨_, rfl, refclkAbsent_taken ⟨ha, hs, hi, hr, hst, hl, hk⟩⟩
  · refine congrArg Host.Outcome.next (if_neg ?_)
    rintro ⟨ha, hs, hi, hr, hst, hl, hk⟩
    simp [ha, hs, hi, hr, hst, hl, hk] at h

end Sys2Proof.Proofs.ClockFallback
end

section
/-! ### Back from a clock fallback (R26, R352, R408-R410, R415-R419) -/

namespace Sys2Proof.Proofs.ClockRecovery

open Sys2Proof Sys2Proof.Machine Sys2Proof.Facts.ClockRules

/-! #### The SYS PLL (R416, R417) -/

/-- The SYS PLL supplies the SYS domain again, and discarded work runs from its beginning. -/
def relocked (s : State) : State :=
  { s with clk := { s.clk with sysSrc := 0, sysLock := true }, pe := { s.pe with att := s.pe.att.map (fun a => if a.st = .discarded then { a with st := .running } else a) } }

theorem sysRelock_taken {s : State} (h : s.clk.level = 1 ∧ s.clk.sysSrc = 1 ∧ s.clk.ircOk = true) :
    s.sysRelock = (relocked s).fastQual.stageTick 0x00B5 1 (b8 s.pwr.ot) := if_pos h

/-- Comparators that qualify again at most raise the operating point. -/
theorem requalified_of (s : State) (l : List Byte) : ClkRaise (relocked s) ((relocked s).fastQual.stageTick 0x00B5 1 l) ∧
    ((relocked s).fastQual.stageTick 0x00B5 1 l).sys.st = s.sys.st ∧ ((relocked s).fastQual.stageTick 0x00B5 1 l).pe = (relocked s).pe := by
  obtain ⟨hst, -⟩ := qual_keeps (relocked s) (p := .st) (by decide)
  refine ⟨(fastQual_clk (relocked s)).trans (.of (stageTick_clk _ _ _ _)), (stageTick_sys_st _ _ _ _).trans hst, ?_⟩
  exact (stageTick_pe _ _ _ _).trans (qual_keeps (relocked s) (p := .pe) (by decide))

/-! #### The CONV PLL (R416, R418, R419) -/

/-- At level 1 the CONV PLL locks out of its hold, and the LANE PLL with it. -/
def convHeld (s : State) : State := { s with clk := { s.clk with convLock := true, convHold := false, laneLock := s.clk.laneLock || s.clk.laneHold, laneHold := false } }

theorem convLocked_ignored {s : State} (h : s.alive = false ∨ s.clk.ircOk = false ∨ (s.clk.level = 1 ∧ s.clk.convHold = false) ∨ s.clk.level = 0 ∨ (s.clk.level = 2 ∧ s.clk.sysSrc ≠ 1)) :
    s.convLocked = s := by
  unfold State.convLocked
  rcases h with h | h | ⟨h, h'⟩ | h | ⟨h, h'⟩ <;> simp [h] <;> simp [h']

section
variable {s : State} (ha : s.alive = true) (hi : s.clk.ircOk = true)
include ha hi

theorem convLocked_one (hl : s.clk.level = 1) (hc : s.clk.convHold = true) : s.convLocked = (convHeld s).returnIrc :=
  (if_neg (by simp [ha, hi])).trans (if_pos ⟨hl, hc⟩)

theorem convLocked_two (hl : s.clk.level = 2) (hs : s.clk.sysSrc = 1) : s.convLocked = s.lockAll.spoilAll 6 :=
  (if_neg (by simp [ha, hi])).trans ((if_neg (by simp [hl])).trans (if_pos ⟨hl, hs⟩))

end

/-- Off level 2 the module comes to REFCLK where it is enabled and stable, to level 1 where it is not stable, and stays on the IRC where it is not enabled (R419). -/
theorem lockAll_after_two {s : State} (h : s.clk.level = 2) :
    (s.refEn = true → s.clk.refStable = true → s.lockAll.clk.level = 0 ∧ s.lockAll.clk.ref = 0) ∧ (s.refEn = true → s.clk.refStable = false → s.lockAll.clk.level = 1 ∧ s.lockAll.clk.ref = 1) ∧
      (s.refEn = false → s.lockAll.clk.level = 0 ∧ s.lockAll.clk.ref = 1) := by
  simp +contextual [State.lockAll, State.modClk, h]

/-- Blanking every channel's path touches the filter chain alone. -/
theorem spoilAll_same {s t : State} (h : SameBut [.clk] s t) (b : Nat) : SameBut [.clk, .flt] s (t.spoilAll b) :=
  sameTrans (sameUp h (by decide)) (keeps_spoilAll (K := [.clk, .flt]) b rfl (Keeps.refl _ t)).1

/-! #### Oscillators and REFCLK judged (R408-R410, R418, R419) -/

theorem bootRow_eq (s : State) (n : Nat) : s.bootRow n = { s with pwr := if s.sys.st = .boot then { s.pwr with bootStep := s.pwr.bootStep.max n } else s.pwr } := by
  unfold State.bootRow
  split <;> rfl

theorem ircStable_taken {s : State} (ha : s.alive = true) (hi : s.clk.ircOk = false) :
    s.ircStable = ({ s with clk := { s.clk with ircOk := true, ircTries := 0, sysSrc := if s.clk.level = 2 then 1 else s.clk.sysSrc } } : State).bootRow 5 := if_pos ⟨ha, hi⟩

theorem refclkStable_taken {s : State} {f : Nat} (ha : s.alive = true) (hi : s.clk.ircOk = true) (hf : freqCode f ≠ 0) :
    s.refclkStable f = ({ s with clk := { s.clk with refStable := true, freq := freqCode f } } : State).bootRow 6 := if_pos ⟨ha, hi, hf⟩

/-- REFCLK has been judged good. -/
def refJudged (s : State) : State := { s with clk := { s.clk with refOk := true } }

theorem refOkSet_taken {s : State} (h : s.alive = true ∧ s.refEn = true ∧ s.clk.refStable = true ∧ s.clk.ref = 1 ∧ s.clk.level ≤ 1 ∧ s.clk.sysLock = true ∧ s.clk.convLock = true) :
    s.refOkSet = if s.clk.level = 0 ∨ s.autoReturn = true then (refJudged s).returnRef else refJudged s := if_pos h

/-! #### CLK_CFG (R418) -/

theorem write_clkCfg {s : State} {cls : KeyClass} (h : s.mayWrite cls 0x0800) (v : Word) : s.write cls 0x0800 v = (s.writeClkCfg v).1 := by
  obtain ⟨r, hr, hw⟩ := tgtcfg
  exact write_applies h hr hw

/-! #### The end of the level 2 cause (R26, R419) -/

/-- Cause 4 has ended, and CLK_RESTORED tells the level. -/
def causeEnded (s : State) : State := (s.dropCause 4).clkRestored

theorem level2Recovered_taken {s : State} (hc : 4 ∈ s.sys.causes) (hl : s.clk.level ≠ 2) (hw : s.wordsValid = true ∨ (s.sys.st = .boot ∧ s.flt.running = false)) :
    s.level2Recovered = (causeEnded s).causeCleared := if_pos ⟨hc, hl, hw⟩

theorem causeEnded_causes (s : State) : (causeEnded s).sys.causes = s.sys.causes.filter (fun x => x ≠ 4) := stage_sys_causes _ _ _ _

theorem causeEnded_keeps (s : State) : Keeps [.causes, .irq, .ring, .trip] s (causeEnded s) := keeps_clkRestored rfl (keeps_dropCause _ rfl (Keeps.refl _ s))

theorem causeEnded_st (s : State) : (causeEnded s).sys.st = s.sys.st ∧ (causeEnded s).sys.failFrom = s.sys.failFrom ∧ (causeEnded s).sys.shutting = s.sys.shutting := by
  obtain ⟨hst, -, hfrom, -, hshut, -⟩ := (causeEnded_keeps s).same (p := .st) (by decide)
  exact ⟨hst, hfrom, hshut⟩

theorem causeEnded_hinged (s : State) : (causeEnded s).hinged = s.hinged :=
  congrArg (fun x : Scheme => x.cfg.hinge.isSome) ((causeEnded_keeps s).same (p := .sch) (by decide))

theorem causeCleared_causes (s : State) : s.causeCleared.sys.causes = s.sys.causes ∧ s.causeCleared.clk = s.clk := by
  have hk : Keeps [.st, .irq, .nme, .job, .ring, .trip, .pwr, .afe, .flt, .fst, .fio, .chn, .hng] s s.causeCleared := keeps_causeCleared rfl (Keeps.refl _ s)
  exact ⟨hk.same (p := .causes) (by decide), hk.same (p := .clk) (by decide)⟩

theorem noneLeft_iff (s : State) : (causeEnded s).sys.causes = [] ↔ ∀ c ∈ s.sys.causes, c = 4 := by
  rw [causeEnded_causes]
  simp

/-- Outside FAILSAFE, with another cause left and during the shutdown the module stays where it is. -/
theorem causeCleared_stays {s : State} (h : s.sys.st ≠ .failsafe ∨ (∃ c ∈ s.sys.causes, c ≠ 4) ∨ s.sys.shutting = true) : (causeEnded s).causeCleared.sys.st = s.sys.st := by
  obtain ⟨hst, -, hshut⟩ := causeEnded_st s
  rw [State.causeCleared, if_neg, hst]
  rintro ⟨hs, hc, hsh⟩
  rcases h with h | ⟨c, hc', h4⟩ | h
  · exact h (hst ▸ hs)
  · exact h4 ((noneLeft_iff s).mp hc c hc')
  · simp [← hshut, hsh] at h

/-- Without a cause left the module returns by the row of the state it left, and stays where no row returns it. -/
theorem causeCleared_moves {s : State} (hs : s.sys.st = .failsafe) (hc : ∀ c ∈ s.sys.causes, c = 4) (hsh : s.sys.shutting = false) :
    (causeEnded s).causeCleared.sys.st = (s.returnState).getD .failsafe := by
  obtain ⟨hst, hfrom, hshut⟩ := causeEnded_st s
  have hret : (causeEnded s).returnState = s.returnState := by
    unfold State.returnState
    rw [hfrom, causeEnded_hinged]
  unfold State.causeCleared
  rw [if_pos ⟨hst.trans hs, (noneLeft_iff s).mpr hc, hshut.trans hsh⟩, hret]
  cases s.returnState with
  | none => exact hst.trans hs
  | some n => exact auto_st _ n

/-! #### PLLs in hold stop (R352, R415) -/

theorem pllHoldStop_taken {s : State} (hl : s.clk.level = 2) (h : s.clk.convHold = true ∨ s.clk.laneHold = true) :
    s.pllHoldStop = (({ s with clk := { s.clk with convHold := false, laneHold := false } } : State).portDown 0).portDown 1 := if_pos ⟨hl, h⟩

/-- A port that is down stays so when a port goes down. -/
theorem portDown_down {s : State} {p q : Nat} (h : (s.port p).st = .down) : ((s.portDown q).port p).st = .down := by
  unfold State.port
  rw [portDown_ports]
  by_cases hpq : q = p
  · subst hpq
    by_cases hl : q < s.chn.ports.length
    · rw [nth_modNth_self hl]
    · rw [modNth, List.modify_eq_self (Nat.le_of_not_lt hl)]
      exact h
  · rw [nth_modNth_ne hpq]
    exact h

theorem portsDown {s : State} {p : Nat} (hp : p < 2) (hl : p < s.chn.ports.length) : (((s.portDown 0).portDown 1).port p).st = .down := by
  have hlen : (s.portDown 0).chn.ports.length = s.chn.ports.length := by rw [portDown_ports, length_modNth]
  interval_cases p
  · exact portDown_down (portDown_st s 0 hl)
  · exact portDown_st (s.portDown 0) 1 (hlen.symm ▸ hl)

/-- Settles O50: each step back from a fallback where its row lets it happen, and no change otherwise. -/
theorem clockRecovery : Obligations.ClockRecovery := by
  refine ⟨fun s => ⟨fun h1 h2 h3 => ?_, fun h => ?_⟩, fun s => ⟨fun h => congrArg Host.Outcome.next (convLocked_ignored h), fun ha hi hl hc => ⟨fun h => ?_, fun h1 h2 => ?_⟩, fun ha hi hl hs => ?_⟩,
    fun s => ⟨fun h1 h2 h3 => congrArg Host.Outcome.next (if_pos ⟨h1, h2, h3⟩), fun h => ?_⟩,
    fun s => ⟨fun h1 h2 => congrArg Host.Outcome.next ((ircStable_taken h1 h2).trans (bootRow_eq _ 5)), fun h => ?_⟩, fun f s => ⟨fun p hp ha hi h1 h2 => ?_, fun h => ?_⟩,
    fun s => ⟨fun h1 h2 h3 h4 h5 h6 h7 => ?_, fun h => ?_⟩, fun cls v s hmay p hp => ?_, fun s => ⟨fun h1 h2 h3 => ?_, fun h => ?_⟩, fun s => ⟨fun h1 h2 => ?_, fun h => ?_⟩⟩
  · obtain ⟨hclk, hst, hpe⟩ := requalified_of s (b8 s.pwr.ot)
    exact ⟨_, congrArg Host.Outcome.next (sysRelock_taken ⟨h1, h2, h3⟩), hclk, hst, congrArg Engines.att hpe⟩
  · refine congrArg Host.Outcome.next (if_neg ?_)
    rintro ⟨h1, h2, h3⟩
    simp [h1, h2, h3] at h
  · refine congrArg Host.Outcome.next ((convLocked_one ha hi hl hc).trans ((returnIrc_of _).2 ?_))
    rintro ⟨-, hr, hk, -⟩
    rcases h with h | h
    · exact absurd (h.symm.trans hr) (by decide)
    · exact absurd (h.symm.trans hk) (by decide)
  · obtain ⟨hsame, hclk⟩ := (returnIrc_of (convHeld s)).1 ⟨hl, h1, h2, rfl⟩
    exact ⟨_, congrArg Host.Outcome.next (convLocked_one ha hi hl hc), sameTrans (sameClk s _ _ (by decide)) hsame, hclk⟩
  · obtain ⟨hon, hoff, hirc⟩ := lockAll_after_two hl
    exact ⟨_, congrArg Host.Outcome.next (convLocked_two ha hi hl hs), spoilAll_same (sameClk s _ _ (by decide)) 6, rfl, rfl, rfl, rfl, rfl, rfl, hon, hoff, hirc, rfl⟩
  · refine congrArg Host.Outcome.next (if_neg ?_)
    rintro ⟨h1, h2, h3⟩
    simp [h1, h2, h3] at h
  · refine congrArg Host.Outcome.next (if_neg ?_)
    rintro ⟨h1, h2⟩
    simp [h1, h2] at h
  · have hf := (freq_of f).1 p hp h1 h2
    have hp2 : p.2 ≠ 0 := by
      simp only [List.mem_cons, List.not_mem_nil, or_false] at hp
      rcases hp with rfl | rfl | rfl <;> decide
    rw [← hf] at hp2 ⊢
    exact congrArg Host.Outcome.next ((refclkStable_taken ha hi hp2).trans (bootRow_eq _ 6))
  · refine congrArg Host.Outcome.next (if_neg ?_)
    rintro ⟨h1, h2, h3⟩
    rcases h with h | h | h
    · simp [h1] at h
    · simp [h2] at h
    · exact h3 ((freq_of f).2 h)
  · have he : exec .refOk s = .next (if s.clk.level = 0 ∨ s.autoReturn = true then (refJudged s).returnRef else refJudged s) :=
      congrArg Host.Outcome.next (refOkSet_taken ⟨h1, h2, h3, h4, h5, h6, h7⟩)
    obtain ⟨hzero, hone⟩ := returnRef_of (refJudged s)
    refine ⟨fun hl => ?_, fun hl hr => ?_, fun hl hr => ?_⟩
    · rw [he, if_pos (.inl hl), hzero hl]
      rfl
    · rw [he, if_neg (by simp [hl, hr])]
      rfl
    · rw [if_pos (.inr hr)] at he
      obtain ⟨hsame, hclk⟩ := hone (by show s.clk.level ≠ 0; omega)
      exact ⟨_, he, sameTrans (sameClk s _ _ (by decide)) hsame, hclk⟩
  · refine congrArg Host.Outcome.next (if_neg ?_)
    rintro ⟨h1, h2, h3, h4, h5, h6, h7⟩
    simp only [h1, h2, h3, h4, h6, h7, ne_eq, not_true_eq_false, reduceCtorEq, false_or, or_false] at h
    exact absurd h (Nat.not_lt.mpr h5)
  · have he : exec p.1 s = .next (s.writeClkCfg p.2).1 := by
      simp only [List.mem_cons, List.not_mem_nil, or_false] at hp
      rcases hp with rfl | rfl
      · exact congrArg Host.Outcome.next (write_clkCfg hmay v)
      · exact congrArg Host.Outcome.next (write_clkCfg hmay _)
    obtain ⟨hrefused, htaken⟩ := writeCfg_of s p.2
    exact ⟨fun h1 h2 => he.trans (congrArg Host.Outcome.next (hrefused h1 h2)), fun h => ⟨_, he, htaken h⟩⟩
  · obtain ⟨hcauses, hclk⟩ := causeCleared_causes (causeEnded s)
    refine ⟨_, congrArg Host.Outcome.next (level2Recovered_taken h1 h2 h3), hcauses.trans (causeEnded_causes s), hclk.trans (stage_clk _ _ _ _), causeCleared_stays, fun hs hc hsh => ?_⟩
    rw [causeCleared_moves hs hc hsh]
    unfold State.returnState
    refine ⟨fun hf hh => by simp [hf, hh], fun hf hh => by simp [hf, hh], fun hf => ?_⟩
    rcases hf with hf | hf <;> simp [hf]
  · refine congrArg Host.Outcome.next (if_neg ?_)
    rintro ⟨h1, h2, h3⟩
    rcases h with h | h | ⟨hw, hb⟩
    · exact h h1
    · exact h2 h
    · simp [hw] at h3
      simp [h3] at hb
  · refine ⟨_, congrArg Host.Outcome.next (pllHoldStop_taken h1 h2), ?_, ?_, fun p hp hl => portsDown hp hl⟩
    · exact ((portDown_hold _ 1).1.trans (portDown_hold _ 0).1)
    · exact ((portDown_hold _ 1).2.trans (portDown_hold _ 0).2)
  · refine congrArg Host.Outcome.next (if_neg ?_)
    rintro ⟨h1, h2⟩
    rcases h with h | ⟨h, h'⟩
    · exact h h1
    · simp [h, h'] at h2

end Sys2Proof.Proofs.ClockRecovery
end

section
/-! ### Trimming, the measurement counter, the operating point and the gates (R17, R411, R414, R422-R426, R428, R429) -/

namespace Sys2Proof.Proofs.ClockGates

open Sys2Proof Sys2Proof.Machine Sys2Proof.Facts.ClockRules

/-! #### Trimming (R411, R429) -/

/-- The clocks after a trim. -/
def trimmed (s : State) (irc lfo : Nat) : Clocks :=
  { s.clk with
    ircCode := if s.clk.ref = 1 then oneStep s.clk.ircCode (min irc 200) else min irc 200
    lfoCode := if s.clk.lfoFail then s.clk.lfoCode else min lfo 3000
    ircTrimmed := true
    lfoTrimmed := s.clk.lfoTrimmed || !s.clk.lfoFail }

@[simp] theorem trimLimit_clk (s : State) (osc old new top : Nat) : (s.trimLimit osc old new top).clk = s.clk :=
  Keeps.same (keeps_trimLimit (K := [.irq, .ring, .trip]) osc old new top rfl (Keeps.refl _ s)) (p := .clk) (by decide)

@[simp] theorem trimLimit_pwr (s : State) (osc old new top : Nat) : (s.trimLimit osc old new top).pwr = s.pwr :=
  Keeps.same (keeps_trimLimit (K := [.irq, .ring, .trip]) osc old new top rfl (Keeps.refl _ s)) (p := .pwr) (by decide)

theorem trim_ignored {s : State} (i l : Nat) (h : s.alive = false ∨ s.trimSrc = 0 ∨ s.clk.ircOk = false) : s.trim i l = s :=
  if_pos (by rcases h with h | h | h <;> simp [h])

theorem trim_taken {s : State} (i l : Nat) (ha : s.alive = true) (ht : s.trimSrc ≠ 0) (hi : s.clk.ircOk = true) :
    (s.trim i l).clk = trimmed s i l ∧ (s.trim i l).pwr = { s.pwr with untrimmed := s.pwr.untrimmed && s.clk.lfoFail } := by
  unfold State.trim
  rw [if_neg (by simp [ha, ht, hi])]
  simp [State.modClk, trimmed]

/-! #### The measurement counter (R428) -/

theorem write_measCtl {s : State} {cls : KeyClass} (h : s.mayWrite cls 0x0820) (v : Word) : s.write cls 0x0820 v = (s.writeMeas v).1 := by
  obtain ⟨⟨r, hr, hw⟩, -⟩ := tgtn
  exact write_applies h hr hw

theorem writeMeas_refused {s : State} {v : Word} (h : 6 ≤ bitsOf v 2 0) : (s.writeMeas v).1 = s := congrArg Prod.fst (if_pos h)

/-- A written go starts a count unless one runs. -/
theorem writeMeas_go {s : State} {v : Word} (h : bitsOf v 2 0 < 6) (hgo : bitAt v 4 = true) :
    (s.writeMeas v).1 = { s.setReg 0x0820 (v &&& 0xF#32) with clk := if s.clk.measBusy then s.clk else { s.clk with measBusy := true, measDone := false, measUnlocked := false } } := by
  unfold State.writeMeas
  rw [if_neg (Nat.not_le.mpr h)]
  cases hb : s.clk.measBusy <;> simp [hgo, hb, State.modClk, State.setReg]

/-! #### The operating point (R17, R424-R426) -/

theorem quiet_iff (s : State) : s.quiet = true ↔ (∀ e ∈ s.pe.els, e.started = false ∧ e.operate = false) ∧ ∀ c ∈ s.fst.cmp, c.asserted = false := by
  simp [State.quiet, List.all_eq_true]

theorem canLower_iff (s : State) : s.canLower = true ↔ (s.clk.railHigh = true ∧ s.asleep = true ∧ s.opPin ≠ 2) ∧ (s.opPin = 1 ∨ (s.quiet = true ∧ s.ldg.ring = []) ∧ s.clk.lastRaise + 2000000 ≤ s.pwr.ot) := by
  simp [State.canLower, and_assoc]

/-- Something keeps the engines at OP-HIGH. -/
theorem canLower_not {s : State} (h : s.clk.railHigh = false ∨ s.asleep = false ∨ s.opPin = 2 ∨ (s.opPin ≠ 1 ∧ ((∃ e ∈ s.pe.els, e.started = true ∨ e.operate = true) ∨ (∃ c ∈ s.fst.cmp, c.asserted = true) ∨ s.ldg.ring ≠ [] ∨ s.pwr.ot < s.clk.lastRaise + 2000000))) :
    ¬ s.canLower = true := by
  rw [canLower_iff, quiet_iff]
  rintro ⟨⟨hr, ha, hp⟩, hq⟩
  rcases h with h | h | h | ⟨hn, h⟩
  · simp [hr] at h
  · simp [ha] at h
  · exact hp h
  · obtain ⟨⟨⟨hels, hcmp⟩, hring⟩, hot⟩ := hq.resolve_left hn
    rcases h with ⟨e, he, h⟩ | ⟨c, hc, h⟩ | h | h
    · simp [hels e he] at h
    · simp [hcmp c hc] at h
    · exact h hring
    · omega

/-! #### Writes of CLK_GATE (R422, R423) -/

theorem write_gate {s : State} {cls : KeyClass} (h : s.mayWrite cls 0x0814) (v : Word) : s.write cls 0x0814 v = (s.writeGate v).1 := by
  obtain ⟨-, r, hr, hw⟩ := tgtn
  exact write_applies h hr hw

theorem writeGate_refused {s : State} {v : Word} {g : Nat} (h : s.groupRefused v = some g) : (s.writeGate v).1 = { s with clk := { s.clk with cgRefused := g } } := by
  rw [State.writeGate, h]
  rfl

/-- The state after a write of CLK_GATE that is accepted. -/
def gated (s : State) (v : Word) : State :=
  (s.setReg 0x0814 (v &&& 0x7F#32)).modClk (fun c => { c with leaf := (List.range 5).map (fun n => leafAfter v n (nth c.leaf n)) })

theorem writeGate_taken {s : State} {v : Word} (h : s.groupRefused v = none) : (s.writeGate v).1 = gated s v := by
  rw [State.writeGate, h]
  rfl

theorem gated_runs (s : State) (v : Word) {n : Nat} (h : n < 5) : (gated s v).leafRuns n = leafAfter v n (s.leafRuns n) := by
  have hl : n < ((List.range 5).map (fun k => leafAfter v k (nth s.clk.leaf k))).length := by simpa using h
  show nth ((List.range 5).map (fun k => leafAfter v k (nth s.clk.leaf k))) n = _
  rw [nth, List.getD_eq_getElem _ _ hl]
  simp [State.leafRuns]

theorem leafAfter_runs (v : Word) (n : Nat) : leafAfter v n true = true := rfl

/-- The group bit of a leaf keeps it off. -/
theorem leafAfter_off {v : Word} {n b : Nat} {grp : Bool} (h : (n, b, grp) ∈ [(0, 0, bitAt v 2), (1, 1, bitAt v 2), (2, 3, bitAt v 5), (3, 4, bitAt v 5), (4, 6, false)]) :
    leafAfter v n false = (!bitAt v b && !grp) := by
  simp only [List.mem_cons, List.not_mem_nil, or_false, Prod.mk.injEq] at h
  rcases h with ⟨rfl, rfl, rfl⟩ | ⟨rfl, rfl, rfl⟩ | ⟨rfl, rfl, rfl⟩ | ⟨rfl, rfl, rfl⟩ | ⟨rfl, rfl, rfl⟩ <;> simp [leafAfter, leafBit]

theorem gateLeaf_lt {v : Word} {n b : Nat} {grp : Bool} (h : (n, b, grp) ∈ [(0, 0, bitAt v 2), (1, 1, bitAt v 2), (2, 3, bitAt v 5), (3, 4, bitAt v 5), (4, 6, false)]) : n < 5 := by
  simp only [List.mem_cons, List.not_mem_nil, or_false, Prod.mk.injEq] at h
  omega

/-! #### LEAF_GATED (R423, R429) -/

/-- A leaf that no longer runs. -/
def leafOff (s : State) (n : Nat) : State := { s with clk := { s.clk with leaf := s.clk.leaf.set n false } }

theorem leafOff_runs {s : State} {n : Nat} (h : n < s.clk.leaf.length) : (leafOff s n).leafRuns n = false ∧ ∀ k, k ≠ n → (leafOff s n).leafRuns k = s.leafRuns k :=
  ⟨nth_set_self h, fun _ hk => nth_set_ne hk.symm⟩

theorem leafGated_ignored {s : State} {n : Nat} (h : ¬ (n < 5 ∧ s.leafRuns n = true ∧ bitAt (s.reg 0x0814) (leafBit n) = true)) : s.leafGated n = s := if_neg h

section
variable {s : State} {n : Nat} (h : n < 5 ∧ s.leafRuns n = true ∧ bitAt (s.reg 0x0814) (leafBit n) = true)
include h

theorem leafGated_taken : s.leafGated n = if n < 2 then (leafOff s n).portDown n else if n < 4 then ((leafOff s n).ethLink (n - 2) false 0).announceTimeout (n - 2) else leafOff s n := if_pos h

theorem leafGated_leaf : (s.leafGated n).clk.leaf = (leafOff s n).clk.leaf := by
  rw [leafGated_taken h]
  split
  · exact portDown_leaf _ _
  · split
    · exact (announce_leaf _ _).trans (eth_leaf _ _).1
    · rfl

theorem leafGated_port (hn : n < 2) (hl : n < s.chn.ports.length) : ((s.leafGated n).port n).st = .down := by
  rw [leafGated_taken h, if_pos hn]
  exact portDown_st (leafOff s n) n hl

theorem leafGated_link (hn : n = 2 ∨ n = 3) (hl : n - 2 < s.svc.mac.length) : (nth (s.leafGated n).svc.mac (n - 2)).link = false := by
  have hsvc : ∀ t : State, (t.announceTimeout (n - 2)).svc = t.svc := fun t => Keeps.same (keeps_announceTimeout (K := [.irq, .ring, .trip, .clk, .ptp]) _ rfl (Keeps.refl _ t)) (p := .svc) (by decide)
  rw [leafGated_taken h, if_neg (by omega), if_pos (by omega), hsvc]
  exact (eth_leaf (leafOff s n) (n - 2)).2 (by omega) hl

theorem leafGated_debug (hn : n = 4) : SameBut [.clk] s (s.leafGated n) := by
  rw [leafGated_taken h, if_neg (by omega), if_neg (by omega)]
  exact sameClkOnly s _

end

/-- Settles O51: each command changes what its rule names where its condition holds, and nothing otherwise. -/
theorem trimsGatesAndOperatingPoint : Obligations.TrimsGatesAndOperatingPoint := by
  refine ⟨fun s => ⟨fun h1 h2 => congrArg Host.Outcome.next (if_pos (by simp [h1, h2])), fun h => congrArg Host.Outcome.next (if_neg (by rcases h with h | h <;> simp [h]))⟩,
    fun i l s => ⟨fun h => congrArg Host.Outcome.next (trim_ignored i l h), fun ha ht hi => ?_⟩, fun cls v s hmay => ?_,
    fun n s => ⟨fun h => congrArg Host.Outcome.next (if_pos h), fun h => congrArg Host.Outcome.next (if_neg (by simp [h]))⟩,
    fun s => ⟨fun h => congrArg Host.Outcome.next (if_pos h), fun h => congrArg Host.Outcome.next (if_neg (by simp [h]))⟩,
    fun s => ⟨fun h1 h2 h3 h4 h5 h6 => congrArg Host.Outcome.next (if_pos (by simp [State.canSpeedUp, h1, h2, h3, h4, h5, h6])), fun h => congrArg Host.Outcome.next (if_neg ?_)⟩,
    fun s => ?_, fun cls v s hmay i hi => ?_, fun n b s hnb hl => ?_, fun n s h => congrArg Host.Outcome.next (leafGated_ignored (by omega))⟩
  · obtain ⟨hclk, hpwr⟩ := trim_taken i l ha ht hi
    refine ⟨_, rfl, (keeps_trim (K := [.irq, .ring, .trip, .clk, .pwr]) i l rfl (Keeps.refl _ s)).1, ?_⟩
    rw [hclk, hpwr]
    refine ⟨fun h => by simp [trimmed, h], fun h => by simp [trimmed, h, oneStep], fun h => by simp [trimmed, h], fun h => by simp [trimmed, h], rfl, rfl, rfl⟩
  · obtain ⟨hsrc, hgo, hmask⟩ := go_bits v
    have he : exec (.measurementGo cls v) s = .next (s.writeMeas (v ||| 0x10#32)).1 := congrArg Host.Outcome.next (write_measCtl hmay _)
    refine ⟨fun h => he.trans (congrArg Host.Outcome.next (writeMeas_refused (by rwa [hsrc]))), fun h => ⟨_, he, ?_⟩⟩
    rw [writeMeas_go (by rwa [hsrc]) hgo, hmask]
    exact ⟨sameClkRegs _ _ rfl, (reg_setReg s 0x0820 0x0820 _).trans (if_pos rfl), rfl⟩
  · rcases h with h | h | h | h | h | h <;> simp [State.canSpeedUp, h]
  · refine ⟨fun h1 h2 h3 => ?_, fun h1 h2 h3 h4 h5 h6 h7 => ?_, fun h => congrArg Host.Outcome.next (if_neg (canLower_not h))⟩
    · exact congrArg Host.Outcome.next (if_pos ((canLower_iff s).mpr ⟨⟨h1, h2, by omega⟩, .inl h3⟩))
    · exact congrArg Host.Outcome.next (if_pos ((canLower_iff s).mpr ⟨⟨h1, h2, h3⟩, .inr ⟨⟨(quiet_iff s).mpr ⟨h4, h5⟩, h6⟩, h7⟩⟩))
  · have he : exec i s = .next (s.writeGate v).1 := by
      simp only [List.mem_cons, List.not_mem_nil, or_false] at hi
      rcases hi with rfl | rfl | rfl <;> exact congrArg Host.Outcome.next (write_gate hmay v)
    have hgroup : ∀ {b : Bool} {x y : Nat}, b = false ∨ (s.leafRuns x = false ∧ s.leafRuns y = false) → (b && (s.leafRuns x || s.leafRuns y)) = false := by
      rintro b x y (h | ⟨h, h'⟩) <;> simp [*]
    refine ⟨fun h1 h2 => he.trans (congrArg Host.Outcome.next (writeGate_refused (if_pos (by simpa [h1] using h2)))),
      fun h1 h2 h3 => he.trans (congrArg Host.Outcome.next (writeGate_refused ((if_neg (by simp [hgroup h1])).trans (if_pos (by simpa [h2] using h3))))), fun h1 h2 => ?_⟩
    have hnone : s.groupRefused v = none := (if_neg (by simp [hgroup h1])).trans (if_neg (by simp [hgroup h2]))
    refine ⟨_, he.trans (congrArg Host.Outcome.next (writeGate_taken hnone)), sameClkRegs _ _ rfl, (reg_setReg s 0x0814 0x0814 _).trans (if_pos rfl), rfl, fun p hp => ?_⟩
    rw [gated_runs s v (gateLeaf_lt hp)]
    exact ⟨fun h => by rw [h, leafAfter_runs], fun h => by rw [h, leafAfter_off hp]⟩
  · obtain ⟨hbit, hn⟩ := leafBit_of hnb
    refine ⟨fun h => congrArg Host.Outcome.next (leafGated_ignored ?_), fun h1 h2 => ?_⟩
    · rintro ⟨-, hr, hg⟩
      rw [hbit] at hg
      simp [hr, hg] at h
    · have hc : n < 5 ∧ s.leafRuns n = true ∧ bitAt (s.reg 0x0814) (leafBit n) = true := ⟨hn, h1, hbit ▸ h2⟩
      have hruns : ∀ k, (s.leafGated n).leafRuns k = (leafOff s n).leafRuns k := fun k => congrArg (nth · k) (leafGated_leaf hc)
      obtain ⟨hoff, hother⟩ := leafOff_runs hl
      exact ⟨_, rfl, (hruns n).trans hoff, fun k hk => (hruns k).trans (hother k hk), leafGated_port hc, leafGated_link hc, leafGated_debug hc⟩

end Sys2Proof.Proofs.ClockGates
end

section
/-! ### DORMANT: the shutdown, the wakes and the persistence wake (R34, R440, R450-R453, R455) -/

namespace Sys2Proof.Proofs.Dormant

open Sys2Proof Sys2Proof.Machine Sys2Proof.Facts.PowerRules

/-! #### The counter block (R440) -/

theorem writeBlock_keeps (s : State) (pf : Bool) : SameBut [.pwr] s (s.writeBlock pf) := (keeps_writeBlock (K := [.pwr]) pf rfl (Keeps.refl _ s)).1

/-- A block leaves OT, what the latest reset left, and the wake that waits. -/
theorem writeBlock_pwr (s : State) (pf : Bool) :
    (s.writeBlock pf).pwr.ot = s.pwr.ot ∧ (s.writeBlock pf).pwr.cause = s.pwr.cause ∧ (s.writeBlock pf).pwr.rail = s.pwr.rail ∧ (s.writeBlock pf).pwr.wakeAfter = s.pwr.wakeAfter := by
  unfold State.writeBlock
  split <;> exact ⟨rfl, rfl, rfl, rfl⟩

theorem writeBlock_written {s : State} (pf : Bool) (h : s.dm.mramFail = false) :
    s.writeBlock pf = { s with pwr := { s.pwr with blocks := s.pwr.blocks.set (1 - s.pwr.newest) (some (s.counterBlock pf)), newest := 1 - s.pwr.newest } } := if_neg (by simp [h])

/-! #### The shutdown (R450, R453) -/

/-- What waits is written: captures, the ring, the latches, and a counter block. -/
def shutFlushed (s : State) : State := s.capFlush.flushRing.writeLatches.writeBlock true

/-- The record of the entry stands as well. -/
def shutRecorded (s : State) : State := (shutFlushed s).writeRecord ((shutFlushed s).entryOf false 0x0146 0 0 []) false

/-- The module in DORMANT, before a wake that waited. -/
def asleepAt (u : State) : State := (u.resetTo .dormant false u.pwr.cause u.pwr.rail).modPwr (fun p => { p with dormantOt := u.pwr.ot, bootStep := 15 })

theorem dormantEntry_taken {s : State} (h : s.sys.shutting = true ∧ s.pwr.pf = .none ∧ (s.sys.st = .blocked ∨ s.sys.st = .failsafe)) :
    s.dormantEntry = if (shutRecorded s).pwr.wakeAfter then (asleepAt (shutRecorded s)).wakeUp else asleepAt (shutRecorded s) := if_pos h

theorem shutRecorded_keeps (s : State) : SameBut [.irq, .ring, .ledger, .cap, .trip, .dm, .nv, .pwr, .mram] s (shutRecorded s) :=
  (keeps_writeRecord (K := [.irq, .ring, .ledger, .cap, .trip, .dm, .nv, .pwr, .mram]) _ _ rfl (keeps_writeBlock true rfl (keeps_writeLatches rfl (keeps_flushRing rfl (keeps_capFlush rfl (Keeps.refl _ s)))))).1

/-- The flush leaves what a counter block leaves. -/
theorem shutRecorded_pwr (s : State) :
    (shutRecorded s).pwr.ot = s.pwr.ot ∧ (shutRecorded s).pwr.cause = s.pwr.cause ∧ (shutRecorded s).pwr.rail = s.pwr.rail ∧ (shutRecorded s).pwr.wakeAfter = s.pwr.wakeAfter := by
  have hrec : (shutRecorded s).pwr = (shutFlushed s).pwr := Keeps.same (keeps_writeRecord (K := [.irq, .ring, .ledger, .trip, .dm, .mram]) _ _ rfl (Keeps.refl _ (shutFlushed s))) (p := .pwr) (by decide)
  have hflush : s.capFlush.flushRing.writeLatches.pwr = s.pwr :=
    Keeps.same (keeps_writeLatches (K := [.irq, .ring, .ledger, .cap, .trip, .dm, .nv, .mram]) rfl (keeps_flushRing rfl (keeps_capFlush rfl (Keeps.refl _ s)))) (p := .pwr) (by decide)
  rw [hrec, ← hflush]
  exact writeBlock_pwr _ true

theorem asleepAt_wasReset (u : State) : WasReset .dormant u.pwr.cause u.pwr.rail u (asleepAt u) := was_resetO4 u .dormant u.pwr.cause u.pwr.rail

/-- The DORMANT entry is timed, ends the last row of the start-up, and keeps the cause of the last change. -/
theorem asleepAt_pwr (u : State) : (asleepAt u).pwr.dormantOt = u.pwr.ot ∧ (asleepAt u).pwr.bootStep = 15 ∧ (asleepAt u).sys.lastCause = u.sys.lastCause := ⟨rfl, rfl, rfl⟩

/-! #### Wakes (R452, R453) -/

section
variable {s : State} {n : Nat}

theorem wakeEvent_ignored (h : bitAt (s.reg 0x041C) n = false ∨ s.pwr.held = true) : s.wakeEvent n = s := if_pos h

theorem wakeEvent_idle (hst : s.sys.st ≠ .dormant) (hsh : s.sys.shutting = false) : s.wakeEvent n = s := by simp [State.wakeEvent, hst, hsh]

variable (hb : bitAt (s.reg 0x041C) n = true) (hh : s.pwr.held = false)
include hb hh

theorem wakeEvent_dormant (hst : s.sys.st = .dormant) : s.wakeEvent n = s.wakeUp := (if_neg (by simp [State.wakeWord, hb, hh])).trans (if_pos hst)

theorem wakeEvent_shutting (hst : s.sys.st ≠ .dormant) (hsh : s.sys.shutting = true) : s.wakeEvent n = { s with pwr := { s.pwr with wakeAfter := true } } :=
  (if_neg (by simp [State.wakeWord, hb, hh])).trans ((if_neg hst).trans (if_pos hsh))

end

/-- A feed that was out of range is back. -/
def feedBack (s : State) (f : Nat) : State := { s with pwr := { s.pwr with feedOk := s.pwr.feedOk.set f true, feedHigh := s.pwr.feedHigh.set f false, feedSup := s.pwr.feedSup.set f true } }

theorem feedWake_dark {s : State} {f : Nat} (hf : f < 2) (hst : s.sys.st = .dormant) : s.feedWake f = if nth s.pwr.feedWasOut f then (feedBack s f).wakeEvent 1 else s :=
  (if_neg (Nat.not_le.mpr hf)).trans (if_pos (by simp [State.dark, hst]))

theorem feedWake_alive {s : State} {f : Nat} (hf : f < 2) (ho : s.sys.st ≠ .off) (hst : s.sys.st ≠ .dormant) (hh : s.pwr.held = false) : s.feedWake f = s.wakeEvent 1 :=
  (if_neg (Nat.not_le.mpr hf)).trans (if_neg (by simp [State.dark, ho, hst, hh]))

/-! #### OT read in two halves (R34, R455) -/

theorem target_otLo : ∃ r, targetOf 0x040C = some (.reg r) := ⟨_, rfl⟩

theorem read_otLo {s : State} {cls : KeyClass} (h : s.mayRead cls 0x040C) : s.read cls 0x040C = s.latchOt := by
  obtain ⟨r, hr⟩ := target_otLo
  rw [read_applies h hr]
  simp [State.readEffect]

theorem latchOt_eq (s : State) : s.latchOt = { s with pwr := { s.pwr with otHi := pack [(0, 24, s.pwr.ot / 2 ^ 32), (24, 8, 2 * b2n s.pwr.resumed + 4 * b2n s.pwr.untrimmed)] } } := by
  simp [State.latchOt, State.modPwr, State.otQual, b2n]

/-- Settles O55: the shutdown by what its flush leaves, the wakes by the one rule of a wake event, the block by what a block changes. -/
theorem dormantAndWake : Obligations.DormantAndWake := by
  refine ⟨fun s => ⟨fun h => congrArg Host.Outcome.next (if_neg ?_), fun h1 h2 h3 => ⟨_, congrArg Host.Outcome.next (dormantEntry_taken ⟨h1, h2, h3⟩), ?_⟩⟩,
    fun ot s => ⟨fun h => congrArg Host.Outcome.next (if_neg ?_), fun h1 h2 h3 h4 => ⟨_, congrArg Host.Outcome.next (if_pos ⟨h1, h2, h3, h4⟩), ?_⟩⟩,
    fun s => ⟨fun h => ?_, fun hb hh hst => ⟨_, congrArg Host.Outcome.next (wakeEvent_dormant hb hh hst), wake_of s⟩, fun hb hh hst hsh => congrArg Host.Outcome.next (wakeEvent_shutting hb hh hst hsh)⟩,
    fun ot s => ⟨fun h => congrArg Host.Outcome.next (if_neg ?_), fun h1 h2 h3 => ?_⟩,
    fun f s => ⟨fun hf => congrArg Host.Outcome.next (if_pos hf), fun hf hst hh hw => ?_, fun hf hst hh hw => ?_, fun hf ho hst hh => ?_⟩,
    fun cls s h => congrArg Host.Outcome.next ((read_otLo h).trans (latchOt_eq s))⟩
  · rintro ⟨h1, h2, h3⟩
    rcases h with h | h | ⟨h, h'⟩
    · simp [h1] at h
    · exact h h2
    · exact h3.elim h h'
  · have hkeep := shutRecorded_keeps s
    obtain ⟨hkept, hpcause, hrail, hwake⟩ := shutRecorded_pwr s
    obtain ⟨-, hlast, -⟩ := hkeep.2 .st (by decide)
    have hreset := asleepAt_wasReset (shutRecorded s)
    obtain ⟨hot, hstep, hcause⟩ := asleepAt_pwr (shutRecorded s)
    rw [hpcause, hrail] at hreset
    rw [hwake]
    refine ⟨shutRecorded s, asleepAt (shutRecorded s), hkeep, hkept, hreset, hot.trans hkept, hstep, hcause.trans hlast, fun hw => by simp [hw], fun hw => ?_⟩
    rw [if_pos hw]
    exact wake_of _
  · rintro ⟨h1, h2, h3, h4⟩
    rcases h with h | h | h | h
    · exact h h1
    · simp [h2] at h
    · exact h h3
    · omega
  · refine ⟨sameTransO2 (sameAnyO2 [.pwr] s { s.pwr with ot := ot } (by decide)) (writeBlock_keeps _ false), (writeBlock_pwr _ false).1, fun hm => ?_⟩
    rw [writeBlock_written (s := s.modPwr (fun p => { p with ot := ot })) false hm]
    exact ⟨rfl, _, rfl, rfl, rfl, rfl⟩
  · refine congrArg Host.Outcome.next ?_
    rcases h with h | h | ⟨h, h'⟩
    · exact wakeEvent_ignored (.inl h)
    · exact wakeEvent_ignored (.inr h)
    · exact wakeEvent_idle h h'
  · rintro ⟨h1, h2, h3⟩
    rcases h with h | h | h
    · exact h h1
    · omega
    · exact absurd h3 (Nat.not_le.mpr h)
  · have he : exec (.wakeTimer ot) s = .next (({ s with pwr := { s.pwr with ot := ot } } : State).wakeEvent 2) := congrArg Host.Outcome.next (if_pos ⟨h1, h2, h3⟩)
    exact ⟨fun hb hh => ⟨_, he.trans (congrArg Host.Outcome.next (wakeEvent_dormant hb hh h1)), (wake_of _).1⟩, fun h => he.trans (congrArg Host.Outcome.next (wakeEvent_ignored h))⟩
  · exact congrArg Host.Outcome.next ((feedWake_dark hf hst).trans (if_neg (by simp [hw])))
  · have he : exec (.feedWake f) s = .next ((feedBack s f).wakeEvent 1) := congrArg Host.Outcome.next ((feedWake_dark hf hst).trans (if_pos hw))
    exact ⟨fun hb => ⟨_, he.trans (congrArg Host.Outcome.next (wakeEvent_dormant hb hh hst)), wake_of _⟩, fun hb => he.trans (congrArg Host.Outcome.next (wakeEvent_ignored (.inl hb)))⟩
  · have he : exec (.feedWake f) s = .next (s.wakeEvent 1) := congrArg Host.Outcome.next (feedWake_alive hf ho hst hh)
    refine ⟨fun hsh hb => he.trans (congrArg Host.Outcome.next (wakeEvent_shutting hb hh hst hsh)), fun h => he.trans (congrArg Host.Outcome.next ?_)⟩
    rcases h with h | h
    · exact wakeEvent_idle hst h
    · exact wakeEvent_ignored (.inl h)

end Sys2Proof.Proofs.Dormant
end

section
/-! ### The start-up from the defect map to the first entry into service (R26, R41, R77, R233, R448, R449, R459) -/

namespace Sys2Proof.Proofs.StartUp

open Sys2Proof Sys2Proof.Machine Sys2Proof.Facts.PowerRules

/-! #### The defect map (R448 rows 8 and 9, R459) -/

theorem mapRead_ignored {s : State} (ok : Bool) (h : s.alive = false ∨ s.sys.st ≠ .boot ∨ s.clk.sysLock = false ∨ s.pwr.mapRead = true) : s.mapRead ok = s :=
  if_pos (by rcases h with h | h | h | h <;> simp [h])

section
variable {s : State} (ha : s.alive = true) (hs : s.sys.st = .boot) (hk : s.clk.sysLock = true) (hm : s.pwr.mapRead = false)
include ha hs hk hm

theorem mapRead_fails {ok : Bool} (h : ok = false ∨ s.dm.mramFail = true) : s.mapRead ok = (s.bootRow 8).bootFails := by
  unfold State.mapRead
  rw [if_neg (by simp [ha, hs, hk, hm]), bootRow_of s 8 hs]
  exact if_pos (by rcases h with h | h <;> simp [h])

/-- The map in force is the best copy, or an empty one where no copy is good; then it is applied. -/
theorem mapRead_good (hd : s.dm.mramFail = false) :
    ∃ u : State, s.mapRead true = ((u.modPwr (fun p => { p with mapRead := true })).applyMap).bootRow 9 ∧ u.pwr = { s.pwr with bootStep := s.pwr.bootStep.max 8 } ∧ u.sys.st = .boot ∧
      (∀ k c, s.bestMap = some k → s.dm.copies.getD k none = some c → u.dm.map = c.map ∧ u.dm.copy = k) ∧ (s.bestMap = none → u.dm.map = {} ∧ u.dm.rebuilt = true) := by
  unfold State.mapRead
  rw [if_neg (by simp [ha, hs, hk, hm]), bootRow_of s 8 hs]
  dsimp only
  rw [if_neg (by simp [hd]), show State.bestMap { s with pwr := { s.pwr with bootStep := s.pwr.bootStep.max 8 } } = s.bestMap from rfl]
  cases s.bestMap with
  | none => exact ⟨_, rfl, stage_pwr _ _ _ _, by simpa using hs, by simp, fun _ => by simp⟩
  | some k => exact ⟨_, rfl, rfl, hs, fun k' c hk' hc => by obtain rfl := Option.some.inj hk'; exact ⟨by dsimp only; rw [hc]; rfl, rfl⟩, by simp⟩

end

/-- Pairs and cores that the map marks alike are good alike. -/
theorem pairGood_congr {s t : State} (h : t.dm.map.pairs = s.dm.map.pairs) : t.pairGood = s.pairGood := funext fun p => by rw [State.pairGood, h, State.pairGood]

theorem coreGood_congr {s t : State} (h : t.dm.map.cores = s.dm.map.cores) : t.coreGood = s.coreGood := funext fun c => by rw [State.coreGood, h, State.coreGood]

/-- The map in force is applied: a good pair is a spare, and another is mapped out. -/
theorem mapApplied {u : State} (hu : u.sys.st = .boot) {t : State} (ht : t = ((u.modPwr (fun p => { p with mapRead := true })).applyMap).bootRow 9) :
    t.sys.st = .boot ∧ t.pwr = { u.pwr with mapRead := true, bootStep := u.pwr.bootStep.max 9 } ∧ t.dm = u.dm ∧ ∀ p, p < 16 → t.role p = if t.pairGood p then .spare else .mappedOut := by
  obtain ⟨hdm, hpwr, hst, hroles⟩ := applyMap_of (u.modPwr (fun p => { p with mapRead := true }))
  have hgood := pairGood_congr (congrArg (fun d : Defects => d.map.pairs) hdm)
  generalize (u.modPwr (fun p => { p with mapRead := true })).applyMap = v at ht hdm hpwr hst hroles hgood
  rw [bootRow_of v 9 (hst.trans hu), hpwr] at ht
  subst ht
  refine ⟨hst.trans hu, rfl, hdm, fun p hp => ?_⟩
  show v.role p = if v.pairGood p then .spare else .mappedOut
  rw [State.role, hroles, hgood, List.getD_eq_getElem _ _ (by simpa using hp)]
  simp

/-! #### The short self-test (R448 row 10, R449) -/

theorem selfTested_ignored {s : State} (x : SelfTestIn) (h : s.alive = false ∨ s.sys.st ≠ .boot ∨ s.pwr.mapRead = false ∨ s.pwr.tested = true) : s.selfTested x = s :=
  if_pos (by rcases h with h | h | h | h <;> simp [h])

/-- Every pair and core that failed is mapped out. -/
def failedOut (s : State) (x : SelfTestIn) : State :=
  (x.cores.filter (fun c => decide (c < 18))).foldl (fun s c => if s.coreGood c then s.mapOutCore c else s)
    ((x.pairs.filter (fun p => decide (p < 16))).foldl (fun s p => if s.pairGood p then s.mapOutPair p 0 else s) s)

/-- The map is written and applied, and the row is done. -/
def testRow (s : State) (x : SelfTestIn) : State := ((failedOut s x).writeBothMaps.applyMap.bootRow 10).modPwr (fun p => { p with tested := true })

theorem failedOut_of {s : State} (x : SelfTestIn) (hp : s.dm.map.pairs.length = 16) (hc : s.dm.map.cores.length = 18) :
    (failedOut s x).pwr = s.pwr ∧ (failedOut s x).sys.st = s.sys.st ∧ (∀ p, p < 16 → (failedOut s x).pairGood p = (s.pairGood p && decide (p ∉ x.pairs))) ∧
      ∀ c, c < 18 → (failedOut s x).coreGood c = (s.coreGood c && decide (c ∉ x.cores)) := by
  obtain ⟨-, hcores, hpwr, hst, hgood⟩ := foldPairs (x.pairs.filter (fun p => decide (p < 16))) s hp
  obtain ⟨-, hpairs', hpwr', hst', hgood'⟩ := foldCores (x.cores.filter (fun c => decide (c < 18))) _ (hcores ▸ hc)
  refine ⟨hpwr'.trans hpwr, hst'.trans hst, fun p h => ?_, fun c h => ?_⟩
  · exact (congrFun (pairGood_congr hpairs') p).trans ((hgood p h).trans (by simp [h]))
  · exact (hgood' c h).trans (by simp [coreGood_congr hcores, h])

theorem testRow_of {s : State} (x : SelfTestIn) (hs : s.sys.st = .boot) (hp : s.dm.map.pairs.length = 16) (hc : s.dm.map.cores.length = 18) :
    (testRow s x).sys.st = .boot ∧ (testRow s x).pwr.tested = true ∧ (testRow s x).pwr.bootStep = s.pwr.bootStep.max 10 ∧
      (∀ p, p < 16 → (testRow s x).pairGood p = (s.pairGood p && decide (p ∉ x.pairs))) ∧ ∀ c, c < 18 → (testRow s x).coreGood c = (s.coreGood c && decide (c ∉ x.cores)) := by
  obtain ⟨hpwr, hst, hpair, hcore⟩ := failedOut_of x hp hc
  obtain ⟨hmap, hpwr', hst'⟩ := bothMaps_of (failedOut s x)
  obtain ⟨hdm, hpwr'', hst'', -⟩ := applyMap_of (failedOut s x).writeBothMaps
  have hboot : (failedOut s x).writeBothMaps.applyMap.sys.st = .boot := by rw [hst'', hst', hst, hs]
  have hkept : (failedOut s x).writeBothMaps.applyMap.pwr = s.pwr := by rw [hpwr'', hpwr', hpwr]
  have hrow : testRow s x = { (failedOut s x).writeBothMaps.applyMap with pwr := { s.pwr with bootStep := s.pwr.bootStep.max 10, tested := true } } := by
    rw [testRow, bootRow_of _ 10 hboot, hkept]
    rfl
  have hm : (testRow s x).dm.map = (failedOut s x).dm.map := by rw [hrow, hdm, hmap]
  obtain ⟨hpg, hcg⟩ := good_congr hm
  rw [hpg, hcg]
  exact ⟨by rw [hrow]; exact hboot, by rw [hrow], by rw [hrow], hpair, hcore⟩

theorem selfTested_taken {s : State} (x : SelfTestIn) (ha : s.alive = true) (hs : s.sys.st = .boot) (hm : s.pwr.mapRead = true) (ht : s.pwr.tested = false) :
    s.selfTested x = if !x.storeOk || !(List.range 16).any (testRow s x).pairGood then (testRow s x).bootFails else testRow s x := if_neg (by simp [ha, hs, hm, ht])

/-- The test ends the start-up where the state store is bad or no good pair has passed. -/
theorem testFails_iff {s : State} {x : SelfTestIn} (hpair : ∀ p, p < 16 → (testRow s x).pairGood p = (s.pairGood p && decide (p ∉ x.pairs))) :
    (!x.storeOk || !(List.range 16).any (testRow s x).pairGood) = true ↔ x.storeOk = false ∨ ∀ p, p < 16 → s.pairGood p = true → p ∈ x.pairs := by
  have hany : (List.range 16).any (testRow s x).pairGood = true ↔ ∃ p, p < 16 ∧ s.pairGood p = true ∧ p ∉ x.pairs := by
    simp only [List.any_eq_true, List.mem_range]
    exact exists_congr fun p => and_congr_right fun hp => by simp [hpair p hp]
  rw [Bool.or_eq_true, Bool.not_eq_true', Bool.not_eq_true', ← Bool.not_eq_true ((List.range 16).any _), hany]
  push Not
  rfl

/-! #### The choice of the scheme (R233, R448 row 12) -/

/-- What the choice is made on: the slots have been scanned. -/
def scanned (s : State) : State := ((s.modSch (fun x => { x with bootReason := 0 })).scanSlot 0).scanSlot 1

/-- The scan changes no image, no hallmark and no check of one. -/
theorem scanned_sch (s : State) : ∃ f, scanned s = s.modSch f := by
  obtain ⟨f, hf⟩ := scan_sch (s.modSch (fun x => { x with bootReason := 0 })) 0
  obtain ⟨g, hg⟩ := scan_sch ((s.modSch (fun x => { x with bootReason := 0 })).scanSlot 0) 1
  exact ⟨fun x => g (f { x with bootReason := 0 }), by rw [scanned, hg, hf]; rfl⟩

theorem scanned_slot (s : State) : (scanned s).slotBad = s.slotBad ∧ (scanned s).hallSet = s.hallSet ∧ (scanned s).slotImage = s.slotImage ∧ (scanned s).mramGet = s.mramGet := by
  obtain ⟨f, hf⟩ := scanned_sch s
  rw [hf]
  exact ⟨funext fun k => (bad_sch s f k).1, funext fun k => (bad_sch s f k).2.1, funext fun k => (bad_sch s f k).2.2, rfl⟩

theorem tellGroup_sch (s : State) : s.tellGroup.sch = s.sch := by
  unfold State.tellGroup
  split
  · exact stage_same _ _ _ _ (p := .sch) (by decide)
  · rfl

/-- The scheme that starts is the chosen one. -/
theorem slotSelection_sch (s : State) (l : List Nat) :
    (s.slotSelection l).sch.placed = true ∧ (s.slotSelection l).sch.image = (scanned s).chooseScheme.sch.image ∧ (s.slotSelection l).sch.lost = (scanned s).chooseScheme.sch.lost ∧
      (s.slotSelection l).sch.slot = (scanned s).chooseScheme.sch.slot ∧ (s.slotSelection l).sch.fallback = (scanned s).chooseScheme.sch.fallback ∧ (s.slotSelection l).sch.cfg = (scanned s).chooseScheme.sch.cfg := by
  have h := boot_sch (scanned s).chooseScheme.tellGroup l
  rw [tellGroup_sch] at h
  exact h

theorem slotSelection_keeps (s : State) (l : List Nat) : (s.slotSelection l).sys.st = s.sys.st ∧ (s.slotSelection l).pwr = s.pwr := by
  have hk : Keeps [.causes, .irq, .key, .ring, .trip, .clk, .nv, .afe, .flt, .pe, .trk, .sch, .fst, .fio, .svc, .chn, .hng, .regs, .defer] s (s.slotSelection l) := keeps_slotSelection l rfl (Keeps.refl _ s)
  exact ⟨(hk.same (p := .st) (by decide)).1, hk.same (p := .pwr) (by decide)⟩

/-- A chosen slot supplies the scheme. -/
theorem slotSelection_slot {s : State} {k : Nat} (l : List Nat) (h : (scanned s).chooseScheme = (scanned s).bootSlot k false) :
    (s.slotSelection l).sch.image = true ∧ (s.slotSelection l).sch.slot = k ∧ (s.slotSelection l).sch.fallback = false ∧ (s.slotSelection l).sch.cfg = schemeOf (s.slotImage k) := by
  obtain ⟨-, himage, -, hslot, hfb, hcfg⟩ := slotSelection_sch s l
  obtain ⟨-, -, himg, -⟩ := scanned_slot s
  rw [himage, hslot, hfb, hcfg, h, bootSlot_sch, himg]
  exact ⟨rfl, rfl, rfl, rfl⟩

/-- Of two good slots the newer one, and the first where neither is newer. -/
theorem chooseScheme_newer {s : State} {k : Nat} (h0 : s.hallSet 0 = true) (h1 : s.hallSet 1 = true) (hb0 : s.slotBad 0 = none) (hb1 : s.slotBad 1 = none)
    (hk : k = if field (s.mramGet (hallAt 0 + 4) 4) 0 4 < field (s.mramGet (hallAt 1 + 4) 4) 0 4 then 1 else 0) : (scanned s).chooseScheme = (scanned s).bootSlot k false := by
  obtain ⟨hbad, hhall, -, hget⟩ := scanned_slot s
  rw [← hhall] at h0 h1
  rw [← hbad] at hb0 hb1
  rw [← hget] at hk
  rw [hk]
  exact choose_two _ h0 h1 hb0 hb1

/-- No slot that can run: the template. -/
theorem slotSelection_template {s : State} {lost : Bool} (l : List Nat) (h : (scanned s).chooseScheme = (scanned s).bootTemplate lost) :
    (s.slotSelection l).sch.image = false ∧ (s.slotSelection l).sch.lost = lost := by
  obtain ⟨-, himage, hlost, -⟩ := slotSelection_sch s l
  rw [himage, hlost, h]
  exact bootTemplate_sch _ lost

theorem slotsSelected_taken {s : State} (l : List Nat) (h : s.alive = true ∧ s.sys.st = .boot ∧ s.pwr.tested = true ∧ s.sch.placed = false) :
    s.slotsSelected l = { s.slotSelection l with pwr := { s.pwr with bootStep := s.pwr.bootStep.max 12 } } := by
  obtain ⟨-, hs, -⟩ := id h
  obtain ⟨hst, hpwr⟩ := slotSelection_keeps s l
  rw [State.slotsSelected, if_pos h, bootRow_of _ 12 (hst.trans hs), hpwr]

/-! #### The filter chain and the end of BOOT (R26, R77, R448 rows 13 to 15) -/

theorem afeSettled_taken {s : State} (h : s.alive = true ∧ s.sys.st = .boot ∧ s.sch.placed = true ∧ s.clk.convLock = true ∧ s.flt.running = false) :
    s.afeSettled = { ({ s with flt := { s.flt with running := true } } : State).spoilAll 6 with pwr := { s.pwr with bootStep := s.pwr.bootStep.max 13 } } := by
  obtain ⟨-, hs, -⟩ := id h
  exact (if_pos h).trans (bootRow_of _ 13 hs)

/-- The last row of BOOT is timed. -/
def bootDone (s : State) : State := (s.bootRow 14).modPwr (fun p => { p with toBlocked := s.bootMs })

theorem filterSettled_taken {s : State} (h : s.sys.st = .boot ∧ s.wordsValid = true) :
    s.filterSettled.sys.st = .blocked ∧ s.filterSettled.sys.lastCause = 2 ∧ s.filterSettled.pwr.toBlocked = s.bootMs ∧ s.filterSettled.pwr.bootStep = s.pwr.bootStep.max 14 := by
  obtain ⟨l, he⟩ : ∃ l, s.filterSettled = ((bootDone s).autoState .blocked 2).stage 0x0141 0 l := ⟨_, if_pos h⟩
  obtain ⟨hst, hcause, hpwr⟩ := toBlocked_of (bootDone s) 2
  generalize (bootDone s).autoState .blocked 2 = u at he hst hcause hpwr
  obtain ⟨hst', hcause', -⟩ := stage_same u 0x0141 0 l (p := .st) (by decide)
  rw [he, stage_pwr, hpwr, bootDone, bootRow_of s 14 h.1]
  exact ⟨hst'.trans hst, hcause'.trans hcause, rfl, rfl⟩

theorem serviceDue_iff (s : State) : s.serviceDue = true ↔
    s.sys.st = .blocked ∧ s.sys.lastCause = 2 ∧ s.pwr.toService = 0 ∧ s.enabled = true ∧ s.hinged = false ∧ s.actSpan = false ∧ s.sys.shutting = false ∧ s.wordsValid = true ∧ ceilDiv s.fp s.sch.cfg.fn ≤ s.sys.ticks := by
  simp [State.serviceDue, and_assoc]

/-- Settles O56: each row of the start-up by what its last step leaves. -/
theorem startUpTests : Obligations.StartUpTests := by
  refine ⟨fun ok s => ⟨fun h => congrArg Host.Outcome.next (mapRead_ignored ok h), fun ha hs hk hm => ⟨fun h => ?_, fun hok hd => ?_⟩⟩,
    fun x s => ⟨fun h => congrArg Host.Outcome.next (selfTested_ignored x h), fun ha hs hm ht hp hc => ?_⟩,
    fun l s => ⟨fun h => congrArg Host.Outcome.next (if_neg ?_), fun ha hs ht hpl => ?_⟩,
    fun s => ⟨fun h1 h2 h3 h4 h5 => congrArg Host.Outcome.next (afeSettled_taken ⟨h1, h2, h3, h4, h5⟩), fun h => congrArg Host.Outcome.next (if_neg ?_)⟩,
    fun s => ⟨fun h1 h2 => ⟨_, rfl, filterSettled_taken ⟨h1, h2⟩⟩, fun h => congrArg Host.Outcome.next (if_neg ?_)⟩,
    fun s => ⟨fun h => ⟨_, congrArg Host.Outcome.next (if_pos ((serviceDue_iff s).mpr h)), auto_of s .inService 2⟩, fun h => congrArg Host.Outcome.next (if_neg (fun hd => h ((serviceDue_iff s).mp hd)))⟩⟩
  · obtain ⟨hst, hlast, hcause, hpwr, -⟩ := fails_of (s.bootRow 8)
    refine ⟨_, congrArg Host.Outcome.next (mapRead_fails ha hs hk hm h), hst, hlast, hcause, ?_⟩
    rw [hpwr, bootRow_of s 8 hs]
  · subst hok
    obtain ⟨u, he, hpwr, hst, hsome, hnone⟩ := mapRead_good ha hs hk hm hd
    generalize ht : ((u.modPwr (fun p => { p with mapRead := true })).applyMap).bootRow 9 = t at he
    obtain ⟨hst', hpwr', hdm, hrole⟩ := mapApplied hst ht.symm
    refine ⟨t, congrArg Host.Outcome.next he, hst', by rw [hpwr'], by rw [hpwr', hpwr], hrole, ?_, ?_⟩
    · rwa [hdm]
    · rwa [hdm]
  · obtain ⟨hst, htested, hstep, hpair, hcore⟩ := testRow_of x hs hp hc
    obtain ⟨hfst, hflast, hfcause, hfpwr, hfdm⟩ := fails_of (testRow s x)
    refine ⟨_, congrArg Host.Outcome.next (selfTested_taken x ha hs hm ht), ?_⟩
    by_cases hbad : (!x.storeOk || !(List.range 16).any (testRow s x).pairGood) = true
    · obtain ⟨hpg, hcg⟩ := good_congr (congrArg Defects.map hfdm)
      rw [if_pos hbad, hpg, hcg, hfpwr]
      refine ⟨hpair, hcore, htested, hstep, fun hok ⟨p, hp, hg, hnot⟩ => ?_, fun _ => ⟨hfst, hflast, hfcause⟩⟩
      rcases (testFails_iff hpair).mp hbad with h | h
      · simp [hok] at h
      · exact absurd (h p hp hg) hnot
    · rw [if_neg hbad]
      exact ⟨hpair, hcore, htested, hstep, fun _ _ => hst, fun h => absurd ((testFails_iff hpair).mpr h) hbad⟩
  · rintro ⟨h1, h2, h3, h4⟩
    simp [h1, h2, h3, h4] at h
  · obtain ⟨hbad, hhall, himg, hmram⟩ := scanned_slot s
    refine ⟨_, congrArg Host.Outcome.next (slotsSelected_taken l ⟨ha, hs, ht, hpl⟩), (slotSelection_keeps s l).1.trans hs, (slotSelection_sch s l).1, rfl, fun h0 h1 => ?_, fun h hb => ?_, fun k hk h hb ho => ?_, fun h0 h1 hb0 hb1 k hk => ?_⟩
    · exact slotSelection_template l (choose_none _ (by rwa [hhall]) (by rwa [hhall]))
    · exact slotSelection_template l (choose_bad _ (by rwa [hhall]) (by rwa [hhall, hbad]))
    · exact slotSelection_slot l (choose_one _ k hk (by rwa [hhall]) (by rwa [hbad]) (by rwa [hhall]))
    · exact slotSelection_slot l (chooseScheme_newer h0 h1 hb0 hb1 hk)
  · rintro ⟨h1, h2, h3, h4, h5⟩
    simp [h1, h2, h3, h4, h5] at h
  · rintro ⟨h1, h2⟩
    simp [h1, h2] at h

end Sys2Proof.Proofs.StartUp
end

section
/-! ### The banks, cores and channels of the front end (R35-R62) -/

namespace Sys2Proof.Proofs.FrontEnd

open Sys2Proof Sys2Proof.Machine

/-! #### What reads a record and what leaves it alone -/

theorem bank_congr {s t : State} (h : t.afe = s.afe) : t.bank = s.bank := funext fun b => by rw [State.bank, h, State.bank]

theorem core_congr {s t : State} (h : t.afe = s.afe) : t.core = s.core := funext fun c => by rw [State.core, h, State.core]

theorem afeCh_congr {s t : State} (h : t.afe = s.afe) : t.afeCh = s.afeCh := funext fun c => by rw [State.afeCh, h, State.afeCh]

@[simp] theorem stage_bank (s : State) (n v : Nat) (l : List Byte) : (s.stage n v l).bank = s.bank := bank_congr (stage_afe s n v l)

@[simp] theorem stage_core (s : State) (n v : Nat) (l : List Byte) : (s.stage n v l).core = s.core := core_congr (stage_afe s n v l)

@[simp] theorem stage_afeCh (s : State) (n v : Nat) (l : List Byte) : (s.stage n v l).afeCh = s.afeCh := afeCh_congr (stage_afe s n v l)

@[simp] theorem setRole_bank (s : State) (c : Nat) (r : CoreRole) : (s.setRole c r).bank = s.bank := rfl

@[simp] theorem setRole_banks (s : State) (c : Nat) (r : CoreRole) : (s.setRole c r).afe.banks = s.afe.banks := rfl

@[simp] theorem setRole_cores (s : State) (c : Nat) (r : CoreRole) : (s.setRole c r).afe.cores.length = s.afe.cores.length := length_modNth

@[simp] theorem setRole_coreGood (s : State) (c : Nat) (r : CoreRole) : (s.setRole c r).coreGood = s.coreGood := rfl

@[simp] theorem modBank_core (s : State) (b : Nat) (f : Bank → Bank) : (s.modBank b f).core = s.core := rfl

@[simp] theorem modBank_coreGood (s : State) (b : Nat) (f : Bank → Bank) : (s.modBank b f).coreGood = s.coreGood := rfl

@[simp] theorem modBank_bankCtl (s : State) (b : Nat) (f : Bank → Bank) : (s.modBank b f).bankCtl = s.bankCtl := rfl

theorem core_setRole {s : State} {c : Nat} (r : CoreRole) (h : c < s.afe.cores.length) : (s.setRole c r).core c = { s.core c with role := r } := core_modCore s c _ h

theorem setRole_role {s : State} {c : Nat} (r : CoreRole) (h : c < s.afe.cores.length) : ((s.setRole c r).core c).role = r := by rw [core_setRole r h]

/-- Two cores of a bank have two numbers. -/
theorem coreNo_ne {b i j : Nat} (h : i ≠ j) : coreNo b i ≠ coreNo b j := fun e => h (Nat.add_left_cancel e)

end Sys2Proof.Proofs.FrontEnd
end

section
/-! ### The anneal rotation of a bank (R42-R50) -/

namespace Sys2Proof.Proofs.Rotation

open Sys2Proof Sys2Proof.Machine Sys2Proof.Facts.FrontEnd Sys2Proof.Proofs.FrontEnd

/-! #### The step starts (R42, R51) -/

/-- The spare is connected to the channel of the step, and its shadow filter starts afresh. -/
theorem startStep_of {s : State} {b sp : Nat} (ch : Nat) (k : StepKind) (hb : b < s.afe.banks.length) (hc : coreNo b sp < s.afe.cores.length) (hsp : (s.bank b).spare = some sp) :
    (s.startStep b ch k).bank b = { s.bank b with rotCh := ch, phase := .compare, kind := k, restart := false, shLeft := invalidCount s.flt.eff 6, shCmp := 0 } ∧
      ((s.startStep b ch k).core (coreNo b sp)).role = .comparing := by
  rw [State.startStep, hsp]
  exact ⟨bank_modBank _ b _ hb, setRole_role _ hc⟩

theorem rotationStart_waiting {s : State} {b : Nat} (hr : s.canRotate b = true) (hp : (s.bank b).phase = .waiting) :
    s.rotationStart b = s.startStep b (s.nextChan b (s.bank b).rotCh) (s.bank b).kind := if_pos (by simp [hr, hp])

/-! #### The handover (R42-R44) -/

section
variable {s : State} {b sp serv : Nat} (hsp : (s.bank b).spare = some sp) (hserv : (s.bank b).map.getD (s.bank b).rotCh none = some serv)
include hsp hserv

/-- The two cores change places, and neither of them turns good or bad by it. -/
theorem swapCores_of (hb : b < s.afe.banks.length) (hc : coreNo b sp < s.afe.cores.length) (hd : coreNo b serv < s.afe.cores.length) (hne : sp ≠ serv) :
    (s.swapCores b).bank b = { s.bank b with map := (s.bank b).map.set (s.bank b).rotCh (some sp), spare := some serv, phase := .calibrate } ∧
      ((s.swapCores b).core (coreNo b sp)).role = .inService ∧ ((s.swapCores b).core (coreNo b serv)).role = .calibrating ∧
      (s.swapCores b).coreGood = s.coreGood ∧ (s.swapCores b).afe.banks.length = s.afe.banks.length := by
  rw [State.swapCores]
  dsimp only
  rw [hsp, hserv]
  refine ⟨bank_modBank _ b _ hb, ?_, setRole_role _ (by simpa using hd), rfl, by simp⟩
  rw [modBank_core, role_ne _ _ _ _ (coreNo_ne hne.symm), setRole_role _ hc]

/-- Cores that agree change places, and the released one is dealt with. -/
theorem handover_agreed {m : CompareIn} (hp : (s.bank b).phase = .compare) (hk : (s.bank b).kind = .rotation) (hr : (s.bank b).restart = false) (hl : (s.bank b).shLeft = 0) (hn : 65 ≤ (s.bank b).shCmp)
    (hsus : (s.afeCh (8 * b + (s.bank b).rotCh)).suspect = false) (ha : coresAgree m (decide ((s.bank b).kEff = 0)) = true) :
    s.handover b m = (s.swapCores b).afterHandover b 1 := by
  have hw : m.words.length = 64 := by
    simp only [coresAgree, Bool.and_eq_true, decide_eq_true_eq] at ha
    exact ha.1.1
  rw [State.handover]
  dsimp only
  rw [hsp, hserv]
  dsimp only
  rw [if_neg (by simp [hp, hr, hl, hw, Nat.not_lt.mpr hn]), if_neg (by simp [hk, hsus]), if_pos ha]

end

/-- A good core that is released while the reference DAC holds only counts the step. -/
theorem afterHandover_good {s : State} {b r : Nat} (n : Nat) (hsp : (s.bank b).spare = some r) (hg : s.coreGood (coreNo b r) = true) (hf : (s.bank b).refdacFail = false) :
    s.afterHandover b n = s.modBank b (fun x => { x with steps := x.steps + n }) := by
  simp [State.afterHandover, hsp, hg, hf]

/-! #### The calibration of the released core (R42, R45) -/

theorem fst_nth_modNth {α β : Type} [Inhabited α] [Inhabited β] (l : List (α × β)) (i j : Nat) (y : β) : (nth (modNth l i (fun x => (x.1, y))) j).1 = (nth l j).1 := by
  by_cases hij : i = j
  · subst hij
    by_cases hi : i < l.length
    · rw [nth_modNth_self hi]
    · rw [modNth, List.modify_eq_self (Nat.le_of_not_lt hi)]
  · rw [nth_modNth_ne hij]

/-- The count of a core's failures says nothing of whether it is good. -/
theorem setFails_coreGood (s : State) (c n : Nat) : (s.setFails c n).coreGood = s.coreGood := by
  unfold State.setFails
  split
  · rfl
  · exact funext fun d => by rw [State.coreGood, fst_nth_modNth, State.coreGood]

theorem setFails_afe (s : State) (c n : Nat) : (s.setFails c n).afe = s.afe := by
  unfold State.setFails
  split <;> rfl

theorem setFails_bankCtl (s : State) (c n : Nat) : (s.setFails c n).bankCtl = s.bankCtl := by
  unfold State.setFails
  split <;> rfl

/-- A pass stores the core's coefficients and leaves the banks alone. -/
theorem calResult_passed {s : State} {c : Nat} {m : CalIn} (h : calPasses m = true) (hc : c < s.afe.cores.length) :
    (s.calResult c m).core c = { s.core c with offset := m.offset, gainErr := m.gainPpm, corr := m.corr, calCount := satInc 65535 (s.core c).calCount } ∧
      (s.calResult c m).coreGood = s.coreGood ∧ (s.calResult c m).afe.banks = s.afe.banks ∧ (s.calResult c m).afe.cores.length = s.afe.cores.length ∧ (s.calResult c m).bankCtl = s.bankCtl := by
  rw [State.calResult, if_pos h]
  refine ⟨?_, setFails_coreGood _ c 0, ?_, ?_, setFails_bankCtl _ c 0⟩
  · rw [core_congr (setFails_afe _ c 0), core_modCore s c _ hc]
  · rw [setFails_afe]
    rfl
  · rw [setFails_afe]
    exact length_modNth

/-- At the slower pace the next step waits, on the channel that follows. -/
theorem nextStep_paced {s : State} {b : Nat} (hb : b < s.afe.banks.length) (hr : (s.bank b).restart = false) (hp : bitAt (s.bankCtl b) 5 = true) :
    ((s.nextStep b).bank b).phase = .waiting ∧ ((s.nextStep b).bank b).rotCh = ((s.bank b).rotCh + 1) % 8 ∧ ((s.nextStep b).bank b).spare = (s.bank b).spare ∧ (s.nextStep b).core = s.core := by
  unfold State.nextStep
  dsimp only
  rw [if_pos (.inl hp), bank_modBank s b _ hb, hr]
  exact ⟨rfl, rfl, rfl, rfl⟩

theorem calibrationEnd_good {s : State} {b sp : Nat} {m : CalIn} (hsp : (s.bank b).spare = some sp) (hp : (s.bank b).phase = .calibrate) (hv : (s.bank b).void = false)
    (hg : (s.calResult (coreNo b sp) m).coreGood (coreNo b sp) = true) : s.calibrationEnd b m = ((s.calResult (coreNo b sp) m).setRole (coreNo b sp) .idle).nextStep b := by
  simp [State.calibrationEnd, hp, hsp, hv, hg]

/-! #### A core is lost (R49, R50) -/

theorem bankNoSpare_of {s : State} {b : Nat} (hb : b < s.afe.banks.length) :
    (s.bankNoSpare b).bank b = { s.bank b with spare := none, noSpare := true, phase := .stopped } ∧ (s.bankNoSpare b).core = s.core ∧ (s.bankNoSpare b).dm = s.dm := by
  unfold State.bankNoSpare
  dsimp only
  rw [stage_bank, stage_core, stage_dm]
  exact ⟨bank_modBank s b _ hb, rfl, rfl⟩

/-- A core mapped out is bad in the defect map, which is to be written. -/
theorem mapOutCore_of {s : State} {c : Nat} (hc : c < s.afe.cores.length) (hm : c < s.dm.map.cores.length) :
    ((s.mapOutCore c).core c).role = .mappedOut ∧ (s.mapOutCore c).coreGood c = false ∧ (s.mapOutCore c).dm.dirty = true ∧ (s.mapOutCore c).afe.banks = s.afe.banks := by
  unfold State.mapOutCore
  dsimp only
  rw [stage_core, stage_dm, stage_afe, State.coreGood, stage_dm]
  refine ⟨setRole_role _ hc, ?_, rfl, rfl⟩
  show decide ((nth (s.dm.map.cores.set c (2, 0)) c).1 = 0) = false
  rw [nth_set_self hm]
  rfl

/-- The spare takes the channel of the core that is lost, and the bank is left without a spare. -/
theorem coreLost_spare {s : State} {c sp j : Nat} (hb : c / 9 < s.afe.banks.length) (hsp : (s.bank (c / 9)).spare = some sp)
    (hj : (List.range 8).find? (fun j => (s.bank (c / 9)).map.getD j none = some (c % 9)) = some j) (hne : coreNo (c / 9) sp ≠ c) :
    (s.coreLost c).bank (c / 9) = { s.bank (c / 9) with map := (s.bank (c / 9)).map.set j (some sp), spare := none, noSpare := true, phase := .stopped } ∧
      (s.coreLost c).core c = s.core c ∧ (s.coreLost c).dm = s.dm := by
  rw [State.coreLost]
  dsimp only
  rw [hj, hsp]
  obtain ⟨hbank, hcore, hdm⟩ := bankNoSpare_of (s := (s.setRole (coreNo (c / 9) sp) .inService).modBank (c / 9) (fun x => { x with map := x.map.set j (some sp) })) (b := c / 9) (by simpa using hb)
  refine ⟨hbank.trans ?_, (congrFun hcore c).trans (role_ne s _ c _ hne), hdm⟩
  rw [bank_modBank _ _ _ (by simpa using hb), setRole_bank]

theorem hardFault_good {s : State} {c : Nat} (h : s.coreGood c = true) : s.hardFault c = ((s.stage 0x0063 2 (b1 c ++ zeros 3)).mapOutCore c).coreLost c := if_pos h

/-- Settles O13: each clause is one event of the rotation, from the spare's comparison through the handover and the calibration to the loss of a core. -/
theorem annealRotation : Obligations.AnnealRotation := by
  refine ⟨fun b sp s hb hc hsp hr hp => ?_, fun b sp serv m s hb hc hd hne hp hk hr hf hl hn hrot hsp hserv hg hsus ha => ?_,
    fun b sp m s hb hc hsp hp hr hv hg hpass hpace => ?_, fun c sp j s hb hc hm hg hsp hj hne => ?_⟩
  · obtain ⟨hbank, hrole⟩ := startStep_of (s.nextChan b (s.bank b).rotCh) (s.bank b).kind hb hc hsp
    refine ⟨_, congrArg Host.Outcome.next (rotationStart_waiting hr hp), ?_⟩
    dsimp only
    rw [hbank]
    exact ⟨rfl, rfl, hrole, rfl, rfl, rfl⟩
  · obtain ⟨hbank, hnew, hold, hgood, hlen⟩ := swapCores_of hsp hserv hb hc hd hne
    have hafter := afterHandover_good (s := s.swapCores b) (b := b) (r := serv) 1 (by rw [hbank]) (by rw [hgood, hg]) (by rw [hbank, hf])
    refine ⟨_, congrArg Host.Outcome.next ((handover_agreed hsp hserv hp hk hr hl hn hsus ha).trans hafter), ?_⟩
    dsimp only
    rw [bank_modBank _ b _ (hlen ▸ hb), hbank]
    exact ⟨rfl, rfl, rfl, rfl, hnew, hold⟩
  · obtain ⟨hcore, hgood, hbanks, hcores, hctl⟩ := calResult_passed hpass hc
    have hbank : (s.calResult (coreNo b sp) m).bank = s.bank := funext fun k => by rw [State.bank, hbanks, State.bank]
    refine ⟨_, congrArg Host.Outcome.next (calibrationEnd_good hsp hp hv (by rw [hgood, hg])), ?_⟩
    generalize s.calResult (coreNo b sp) m = u at hcore hbanks hcores hctl hbank
    obtain ⟨hphase, hch, hspare, hkept⟩ := nextStep_paced (s := u.setRole (coreNo b sp) .idle) (b := b) (by simpa [hbanks] using hb) (by simpa [hbank] using hr) ((congrArg (bitAt · 5) (congrFun hctl b)).trans hpace)
    rw [hphase, hch, hspare, hkept, core_setRole _ (hcores ▸ hc), hcore, setRole_bank, hbank]
    exact ⟨rfl, rfl, rfl, rfl, rfl, rfl, hsp⟩
  · obtain ⟨hrole, hbad, hdirty, hbanks⟩ := mapOutCore_of (s := s.stage 0x0063 2 (b1 c ++ zeros 3)) (c := c) (by simpa using hc) (by simpa using hm)
    refine ⟨_, congrArg Host.Outcome.next (hardFault_good hg), ?_⟩
    generalize (s.stage 0x0063 2 (b1 c ++ zeros 3)).mapOutCore c = u at hrole hbad hdirty hbanks
    rw [stage_afe] at hbanks
    have hbank : u.bank (c / 9) = s.bank (c / 9) := by rw [State.bank, hbanks, State.bank]
    obtain ⟨hleft, hcore, hdm⟩ := coreLost_spare (s := u) (c := c) (sp := sp) (j := j) (hbanks ▸ hb) (by rw [hbank, hsp]) (by rw [hbank]; exact hj) hne
    rw [hleft, hcore, hdm, State.coreGood, hdm, hbank]
    exact ⟨rfl, rfl, rfl, hrole, hbad, hdirty⟩

end Sys2Proof.Proofs.Rotation
end

section
/-! ### The pilot's judgement, the reference DAC's and pilot failure (R51, R52, R55-R57, R90) -/

namespace Sys2Proof.Proofs.Pilot

open Sys2Proof Sys2Proof.Machine Sys2Proof.Facts.FrontEnd Sys2Proof.Proofs.FrontEnd Sys2Proof.Proofs.Rotation

/-! #### The end of a window (R54-R57) -/

theorem pilotWindow_off {s : State} {c : Nat} {amp ph : Rat} (h : (s.bank (c / 8)).kEff = 0) : s.pilotWindow c amp ph = s := if_pos h

/-- What a window measures on a channel that has a baseline. -/
def measuredCh (p : Rat × Rat) (amp ph : Rat) (x : AfeCh) : AfeCh :=
  { x with fresh := false, ampDev := if p.1 = 0 then 0 else roundAway ((amp - p.1) / p.1 * 10000), phDev := roundAway (wrapDeg (ph - p.2) * 100) }

/-- How a measured window is judged: one outside makes the channel suspect, the third inside in a row makes it sound again (R55, R57). -/
def judgedCh (ok : Bool) (x : AfeCh) : AfeCh :=
  if !ok then if x.suspect then { x with inside := 0 } else { x with suspect := true, inside := 0, served := false }
  else if x.suspect then if 3 ≤ x.inside + 1 then { x with suspect := false, inside := 0 } else { x with inside := x.inside + 1 }
  else x

section
variable {s : State} {c : Nat} {amp ph : Rat} (hc : c < s.afe.ch.length) (hk : (s.bank (c / 8)).kEff ≠ 0)
include hc hk

/-- The first window at a gain is the baseline of the channel there (R56). -/
theorem pilotWindow_first (hb : s.baseline c = none) :
    (s.pilotWindow c amp ph).afeCh c = { s.afeCh c with fresh := false, base := (s.afeCh c).base.set (s.afeCh c).gain (some (amp, ph)) } := by
  unfold State.pilotWindow
  dsimp only
  rw [if_neg hk, hb]
  dsimp only
  rw [stage_afeCh, afeCh_modAfeCh _ _ _ hc]

theorem pilotWindow_judged {p : Rat × Rat} (hb : s.baseline c = some p) (hx : bitAt (s.reg (0x1400 + 4 * c)) 2 = false) :
    (s.pilotWindow c amp ph).afeCh c = judgedCh (inWindow (s.bankCtl (c / 8)) p amp ph) (measuredCh p amp ph (s.afeCh c)) := by
  unfold State.pilotWindow
  extract_lets a first dev
  rw [if_neg hk]
  split
  · next hn => rw [hb] at hn; cases hn
  · next q hq =>
    obtain rfl : q = p := Option.some.inj (hq.symm.trans hb)
    extract_lets ad pd ok u outside sound
    have hu : u.afeCh c = measuredCh q amp ph (s.afeCh c) := afeCh_modAfeCh s c _ hc
    have again (f : AfeCh → AfeCh) : (u.modAfeCh c f).afeCh c = f (measuredCh q amp ph (s.afeCh c)) := (afeCh_modAfeCh u c f (by simpa [u] using hc)).trans (congrArg f hu)
    obtain ⟨hsus, hin⟩ : (measuredCh q amp ph (s.afeCh c)).suspect = a.suspect ∧ (measuredCh q amp ph (s.afeCh c)).inside = a.inside := ⟨rfl, rfl⟩
    rw [if_neg (Bool.eq_false_iff.mp hx : ¬bitAt (u.reg (0x1400 + 4 * c)) 2 = true), judgedCh, hsus, hin, show inWindow (s.bankCtl (c / 8)) q amp ph = ok from rfl]
    split
    · split
      · exact again _
      · rw [afeCh_congr (jp _), stage_afeCh]
        exact again _
    · split
      · split
        · rw [afeCh_congr (jp _), stage_afeCh]
          exact again _
        · exact again _
      · exact hu

end

/-! #### The service of a suspect channel (R51) -/

theorem suspectStart_waiting {s : State} {b i : Nat} (hi : s.suspectCh b = some i) (hr : s.canRotate b = true) (hp : (s.bank b).phase = .waiting) :
    s.suspectStart b = s.startStep b i .suspect := by
  simp [State.suspectStart, hi, hr, hp]

/-! #### The reference DAC (R52, R90) -/

/-- The spare is parked and the rotation stops. -/
theorem parked_of {s : State} {b sp : Nat} (r : Bool) (hb : b < s.afe.banks.length) (hc : coreNo b sp < s.afe.cores.length) :
    ((s.setRole (coreNo b sp) .parked).modBank b (fun x => { x with phase := .stopped, restart := r })).bank b = { s.bank b with phase := .stopped, restart := r } ∧
      (((s.setRole (coreNo b sp) .parked).modBank b (fun x => { x with phase := .stopped, restart := r })).core (coreNo b sp)).role = .parked :=
  ⟨bank_modBank _ b _ hb, setRole_role _ hc⟩

/-- A failed check holds the bank; outside a comparison the spare is parked at once. -/
theorem refdacCheck_failed {s : State} {b sp : Nat} {err : Rat} (hb : b < s.afe.banks.length) (hc : coreNo b sp < s.afe.cores.length) (he : refdacOk err = false)
    (hf : (s.bank b).refdacFail = false) (hsp : (s.bank b).spare = some sp) :
    ((s.refdacCheck b err).bank b).refdacFail = true ∧
      ((s.bank b).phase ≠ .compare → ((s.refdacCheck b err).bank b).phase = .stopped ∧ ((s.refdacCheck b err).core (coreNo b sp)).role = .parked) := by
  have hheld := bank_modBank s b (fun x => { x with refdacFail := true }) hb
  have parked (r : Bool) := parked_of (s := s.modBank b (fun x => { x with refdacFail := true })) (b := b) (sp := sp) r (by simpa using hb) hc
  unfold State.refdacCheck
  dsimp only
  rw [if_neg (by simp [he, hf]), stage_bank, stage_core, hsp]
  cases hp : (s.bank b).phase with
  | compare => exact ⟨congrArg Bank.refdacFail hheld, fun h => absurd rfl h⟩
  | waiting =>
    obtain ⟨hbank, hrole⟩ := parked true
    exact ⟨(congrArg Bank.refdacFail hbank).trans (congrArg Bank.refdacFail hheld), fun _ => ⟨congrArg Bank.phase hbank, hrole⟩⟩
  | calibrate | stopped =>
    obtain ⟨hbank, hrole⟩ := parked false
    exact ⟨(congrArg Bank.refdacFail hbank).trans (congrArg Bank.refdacFail hheld), fun _ => ⟨congrArg Bank.phase hbank, hrole⟩⟩

theorem refdacRecheck_passed {s : State} {b : Nat} {errs : List Rat} (hf : (s.bank b).refdacFail = true) (hl : errs.length = 5) (he : ∀ e ∈ errs, refdacOk e = true) :
    s.refdacRecheck b errs = s.modBank b (fun x => { x with refdacFail := false, resume := true }) :=
  if_pos (by rw [hf, List.all_eq_true.mpr he]; simp [hl])

theorem refdacResume_taken {s : State} {b sp : Nat} (hr : (s.bank b).resume = true) (hp : (s.bank b).phase = .stopped) (hsp : (s.bank b).spare = some sp) :
    s.refdacResume b = (s.setRole (coreNo b sp) .calibrating).modBank b (fun x => { x with phase := .calibrate, resume := false }) := by
  rw [State.refdacResume, hr, hp, hsp]

/-- Settles O14: a window takes the baseline or is judged against it, and the checks of the reference DAC hold and release the bank. -/
theorem pilotAndRefdac : Obligations.PilotAndRefdac := by
  refine ⟨fun c amp ph s hc hg hb hk => ?_, fun c amp ph p s hc hb hx hk => ?_, fun c amp ph s hk => congrArg Host.Outcome.next (pilotWindow_off hk),
    fun b i sp s hb hc hi hr hp hsp => ?_, fun b pt sp err s hb hc hpt he hf hsp => ?_,
    fun b errs s hf hl he => congrArg Host.Outcome.next (refdacRecheck_passed hf hl he), fun b sp s hr hp hsp => congrArg Host.Outcome.next (refdacResume_taken hr hp hsp)⟩
  · refine ⟨_, rfl, ?_⟩
    dsimp only
    rw [State.baseline, pilotWindow_first hc hk hb]
    exact ⟨by simp [hg], rfl, rfl⟩
  · have hch : (s.pilotWindow c amp ph).afeCh c = _ := pilotWindow_judged hc hk hb hx
    refine ⟨fun ho hs => ⟨_, rfl, ?_⟩, fun ho hs hn => ⟨_, rfl, ?_⟩, fun ho hs hn => ⟨_, rfl, ?_⟩⟩
    · dsimp only
      rw [hch]
      simp [judgedCh, measuredCh, ho, hs]
    · dsimp only
      rw [hch]
      simp [judgedCh, measuredCh, ho, hs, show ¬2 ≤ (s.afeCh c).inside by omega]
    · dsimp only
      rw [hch]
      simp [judgedCh, measuredCh, ho, hs, hn]
  · obtain ⟨hbank, hrole⟩ := startStep_of i .suspect hb hc hsp
    refine ⟨_, congrArg Host.Outcome.next (suspectStart_waiting hi hr hp), ?_⟩
    dsimp only
    rw [hbank]
    exact ⟨rfl, rfl, rfl, hrole⟩
  · exact ⟨_, congrArg Host.Outcome.next (if_pos hpt), refdacCheck_failed hb hc he hf hsp⟩

/-! #### Pilot failure (R26, R57) -/

/-- After a step the cause of R57 stands exactly when more than 2 channels are suspect, and with 2 or fewer it is cleared. -/
def PilotCause (s t : State) : Prop :=
  (7 ∈ t.sys.causes ↔ 2 < (t.afe.ch.filter (fun x => x.suspect)).length) ∧
    ((t.afe.ch.filter (fun x => x.suspect)).length ≤ 2 → t.sys.causes = s.sys.causes.filter (fun x => x ≠ 7))

/-- Where neither the causes nor the number of suspect channels change, the cause stays right. -/
theorem pilotCause_unchanged {s t : State} (h : 7 ∈ s.sys.causes ↔ 2 < (s.afe.ch.filter (fun x => x.suspect)).length) (hcauses : t.sys.causes = s.sys.causes)
    (hlen : (t.afe.ch.filter (fun x => x.suspect)).length = (s.afe.ch.filter (fun x => x.suspect)).length) : PilotCause s t := by
  refine ⟨by rw [hcauses, hlen, h], fun hle => ?_⟩
  have hno : 7 ∉ s.sys.causes := fun h7 => absurd (h.mp h7) (by omega)
  rw [hcauses, List.filter_eq_self.mpr fun x hx => decide_eq_true (ne_of_mem_of_not_mem hx hno)]

theorem pilotWindow_cause {s : State} (c : Nat) (amp ph : Rat) (h : 7 ∈ s.sys.causes ↔ 2 < (s.afe.ch.filter (fun x => x.suspect)).length) :
    PilotCause s (s.pilotWindow c amp ph) :=
  pw s c amp ph (PilotCause s) (fun _ => pilotCause_unchanged h) (fun u hu => jpc' s u hu)

theorem pilotWindow_st (s : State) (c : Nat) (amp ph : Rat) : (s.pilotWindow c amp ph).sys.st = s.sys.st :=
  (Keeps.same (keeps_pilotWindow (K := [.causes, .irq, .ring, .trip, .afe]) c amp ph rfl (Keeps.refl _ s)) (p := .st) (by decide)).1

/-- Settles O15: the cause is right after every window, and where it stands R26 takes the module into FAILSAFE. -/
theorem pilotFailure : Obligations.PilotFailure := by
  intro c amp ph s h
  obtain ⟨hcause, hclear⟩ := pilotWindow_cause c amp ph h
  refine ⟨_, rfl, hcause, pilotWindow_st s c amp ph, fun hmany hst hsh => ?_, hclear⟩
  obtain ⟨t, he, ht⟩ := Failsafe.failsafeEntry_taken hst (hcause.mpr hmany) hsh
  obtain ⟨hfail, hlast⟩ := Failsafe.autoState_st (s.pilotWindow c amp ph) .failsafe 7
  rw [ht] at hfail hlast
  exact ⟨_, congrArg Host.Outcome.next he, hfail, hlast⟩

end Sys2Proof.Proofs.Pilot
end

section
/-! ### One step of a job (R61, R182, R265, R282, R288, R398, R401, R403, R464) -/

namespace Sys2Proof.Proofs.JobSteps

open Sys2Proof Sys2Proof.Machine Sys2Proof.Facts.HostPort Sys2Proof.Facts.SchemeJobs Sys2Proof.Facts.ClockRules

/-! #### Whose step it is (R401) -/

theorem jobOrder_nil {s : State} (hw : s.cap.writing = false) (ht : s.pe.tests.any (fun t => decide (t.2 = TestKind.isolation)) = false) (ho : s.job.out = []) : s.jobOrder = [] := by
  simp [State.jobOrder, State.moduleJobs, hw, ht, ho]

theorem jobStep_stopped {s : State} (i : JobIn) (h : s.alive = false ∨ s.pwr.pf ≠ .none) : s.jobStep i = s := if_pos h

/-- With no job outstanding no step is taken. -/
theorem jobStep_idle {s : State} (i : JobIn) (h : s.jobOrder = []) : s.jobStep i = s := by
  unfold State.jobStep
  split
  · rfl
  · simp [State.nextStepOf, h]

/-- A ticket's step has been given out: the round stands, and the job counts the step. -/
def counted (s : State) (t : Nat) (round : List Nat) : State := (s.modJob (fun j => { j with round := round })).countStep t

/-- The jobs once a ticket's step is counted. -/
def countedJobs (s : State) (t : Nat) (round : List Nat) : Jobs :=
  { s.job with round := round, out := s.job.out.map (fun (k : Job) => if k.ticket = t then { k with step := k.step + 1 } else k) }

/-- The jobs once a ticket's step was its last. -/
def endedJobs (s : State) (t : Nat) (round : List Nat) : Jobs :=
  { s.job with round := round.filter (fun x => x ≠ t), out := s.job.out.filter (fun x => x.ticket ≠ t), hist := (({ ticket := t, state := jobDone, reason := 0 } : JobEnd) :: s.job.hist).take 16 }

theorem counted_job (s : State) (t : Nat) (round : List Nat) : (counted s t round).job = countedJobs s t round := rfl

theorem counted_keeps {K : List Part} (s : State) (t : Nat) (round : List Nat) (hM : Within [.job] K) : Keeps K s (counted s t round) :=
  keeps_countStep t hM (keeps_modJob hM (Keeps.refl K s) le_rfl)

section
variable {s : State} {t : Nat} {round : List Nat} (hal : s.alive = true) (hp : s.pwr.pf = .none) (hn : s.nextStepOf = some (t, round))
include hal hp hn

theorem jobStep_capture (i : JobIn) (ht : t = 0x10000) : s.jobStep i = (s.modJob (fun j => { j with round := round })).capStep := by
  rw [step_eq s i t round hal hp hn, if_pos ht]

theorem jobStep_isolation (i : JobIn) (ht : t = 0x10001) : s.jobStep i = s.modJob (fun j => { j with round := round }) := by
  rw [step_eq s i t round hal hp hn, if_neg (by omega), if_pos ht]

theorem jobStep_ticket {j : Job} (i : JobIn) (h0 : t ≠ 0x10000) (h1 : t ≠ 0x10001) (hj : s.job.out.find? (fun x => x.ticket = t) = some j) :
    s.jobStep i = (counted s t round).stepJob j i := by
  rw [step_eq s i t round hal hp hn, if_neg h0, if_neg h1, modJob_job, hj]
  rfl

end

/-! #### The capture write (R288) -/

theorem mramPut_cap (s : State) (off : Nat) (l : List Byte) : (s.mramPut off l).cap = s.cap := by
  unfold State.mramPut
  split <;> rfl

/-- A piece of the slot is written: the pieces are counted, and the slot is marked as being written. -/
theorem capStep_piece {s : State} {c : Capture} {cs : List Capture} (hc : s.cap.waiting = c :: cs) (hw : s.cap.writing = true) (hf : s.dm.mramFail = false) (hlt : s.cap.written < (capPieces c).length) :
    s.capStep.cap.written = s.cap.written + 1 ∧ (c.slot < s.cap.slots.length → (nth s.capStep.cap.slots c.slot).state = 2) := by
  unfold State.capStep
  rw [hc]
  dsimp only
  rw [if_neg (by simp [hw, hf]), if_pos hlt, mramPut_cap]
  exact ⟨rfl, fun hs => congrArg CapSlot.state (modSlot_nth s c.slot _ hs)⟩

/-- The capture write's step leaves every other job alone. -/
theorem captureStep_of (s : State) (round : List Nat) :
    SameBut [.irq, .job, .ring, .cap, .trip, .dm, .mram] s (s.modJob (fun j => { j with round := round })).capStep ∧
      (s.modJob (fun j => { j with round := round })).capStep.job = { s.job with round := round } :=
  ⟨(keeps_capStep (K := [.irq, .job, .ring, .cap, .trip, .dm, .mram]) rfl (keeps_modJob rfl (Keeps.refl _ s) le_rfl)).1,
    Keeps.same (keeps_capStep (K := [.irq, .ring, .cap, .trip, .dm, .mram]) rfl (Keeps.refl _ _)) (p := .job) (by decide)⟩

/-! #### The steps of the submitted jobs -/

theorem endJob_ledger (s : State) (n a b : Nat) : Same s (s.endJob n a b) .ledger := Keeps.same (keeps_endJob (K := [.irq, .job, .ring, .trip]) n a b rfl (Keeps.refl _ s)) (by decide)

theorem wearReset_els (s : State) (n : Nat) : (s.wearReset n).pe.els = s.pe.els.map (wearCleared n) := congrArg Engines.els (stage_pe _ _ _ _)

section
variable {s : State} {t : Nat} {round : List Nat} {j : Job} (hj : s.job.out.find? (fun x => x.ticket = t) = some j)
include hj

/-- A job that ends after an operation that touches no job leaves the list of jobs without it, and changes what the operation changes and what tells of the end. -/
theorem ended_of {K L : List Part} {v : State} (hv : Keeps K (counted s t round) v) (hK : Part.job ∉ K) (hE : Within [.irq, .job, .ring, .trip] L) (hL : Within K L) :
    (v.endJob j.ticket jobDone 0).job = endedJobs s t round ∧ SameBut L s (v.endJob j.ticket jobDone 0) := by
  refine ⟨?_, sameTrans (counted_keeps s t round (hE.up rfl)).1 (keeps_endJob j.ticket jobDone 0 hE (keeps_mono hv hL)).1⟩
  rw [find_ticket hj]
  exact end_counted s v t round j hj (hv.same hK)

/-- A job of n steps goes on until its last one, and ends with it. -/
theorem untilLast_of {K L : List Part} {v : State} (n : Nat) (hv : Keeps K (counted s t round) v) (hK : Part.job ∉ K) (hE : Within [.irq, .job, .ring, .trip] L) (hL : Within K L) :
    (if j.step + 1 < n then v else v.endJob j.ticket jobDone 0).job = (if j.step + 1 < n then countedJobs s t round else endedJobs s t round) ∧
      SameBut L s (if j.step + 1 < n then v else v.endJob j.ticket jobDone 0) := by
  split
  · exact ⟨hv.same hK, sameTrans (counted_keeps s t round (hE.up rfl)).1 (keeps_mono hv hL).1⟩
  · exact ended_of hj hv hK hE hL

variable (i : JobIn)

/-- Commissioning is done in one step (R265). -/
theorem commission_of (hc : j.code = 4) :
    ((counted s t round).stepJob j i).ldg.commissioned = true ∧ ((counted s t round).stepJob j i).job = endedJobs s t round ∧
      SameBut [.irq, .job, .ring, .ledger, .trip] s ((counted s t round).stepJob j i) := by
  rw [State.stepJob, hc]
  refine ⟨?_, ended_of hj (Keeps.setLedger (l := [.ledger]) (by decide) (Keeps.refl _ _) rfl) (by decide) rfl rfl⟩
  obtain ⟨-, hdone, -⟩ := endJob_ledger { counted s t round with ldg := { (counted s t round).ldg with commissioned := true } } j.ticket jobDone 0
  exact hdone

/-- The ledger is cleared in one step (R282). -/
theorem clear_of (hc : j.code = 5) :
    ((counted s t round).stepJob j i).ldg.floor = s.ldg.nextSeq ∧ ((counted s t round).stepJob j i).job = endedJobs s t round ∧
      SameBut [.irq, .job, .ring, .ledger, .trip] s ((counted s t round).stepJob j i) := by
  rw [State.stepJob, hc]
  refine ⟨?_, ended_of hj (keeps_clearLedger (K := [.irq, .ring, .ledger, .trip]) rfl (Keeps.refl _ _)) (by decide) rfl rfl⟩
  obtain ⟨-, -, -, -, hfloor, -⟩ := endJob_ledger (counted s t round).clearLedger j.ticket jobDone 0
  exact hfloor.trans (stage_ldg_floor _ _ _ _)

/-- A wear record is cleared in one step (R182). -/
theorem wear_of (hc : j.code = 11) :
    ((counted s t round).stepJob j i).pe.els = s.pe.els.map (wearCleared j.arg) ∧ ((counted s t round).stepJob j i).job = endedJobs s t round ∧
      SameBut [.irq, .job, .ring, .trip, .nv, .pe] s ((counted s t round).stepJob j i) := by
  rw [State.stepJob, hc]
  exact ⟨(congrArg Engines.els (endJob_pe _ _ _ _)).trans (wearReset_els (counted s t round) j.arg),
    ended_of hj (keeps_wearReset (K := [.irq, .ring, .trip, .nv, .pe]) j.arg rfl (Keeps.refl _ _)) (by decide) rfl rfl⟩

/-- A scrub ends with the last KiB of MRAM (R464). -/
theorem scrub_of (hc : j.code = 10) :
    ((counted s t round).stepJob j i).job = (if j.step + 1 < 16384 then countedJobs s t round else endedJobs s t round) ∧
      SameBut [.irq, .job, .ring, .cap, .trip, .dm, .nv] s ((counted s t round).stepJob j i) := by
  rw [State.stepJob, hc]
  exact untilLast_of hj 16384 (keeps_mramScrub (K := [.irq, .ring, .cap, .trip, .dm, .nv]) _ _ rfl (Keeps.refl _ _)) (by decide) rfl rfl

/-- A foreground calibration ends with the last core of its last bank (R61). -/
theorem calibration_of (hc : j.code = 8) :
    ((counted s t round).stepJob j i).job = (if j.step + 1 < calSteps * (calBanks j.arg).length then countedJobs s t round else endedJobs s t round) ∧
      SameBut [.irq, .job, .ring, .trip, .dm, .afe, .flt] s ((counted s t round).stepJob j i) := by
  rw [State.stepJob, hc]
  exact untilLast_of hj _ (keeps_foreground (K := [.irq, .ring, .trip, .dm, .afe, .flt]) _ _ i rfl (Keeps.refl _ _)) (by decide) rfl rfl

end

/-- A later step of a pair's self-test is counted with the pair under test. -/
theorem selftest_of {s : State} {t : Nat} {round : List Nat} {j : Job} (i : JobIn) (hc : j.code = 7) (hs : j.step ≠ 0) :
    ((counted s t round).stepJob j i).pe = (if s.pe.bistPair = j.arg then { s.pe with bistStep := satInc 65535 s.pe.bistStep } else s.pe) ∧
      ((counted s t round).stepJob j i).job = countedJobs s t round := by
  rw [State.stepJob, hc]
  dsimp only
  rw [if_neg hs]
  exact ⟨rfl, rfl⟩

/-- Activations, leases and walks go on at their own events. -/
theorem stepJob_event (s : State) {j : Job} (i : JobIn) (hc : j.code = 2 ∨ j.code = 3 ∨ j.code = 6 ∨ j.code = 9) : s.stepJob j i = s := by
  rcases hc with hc | hc | hc | hc <;> simp [State.stepJob, hc]

/-- Settles O48: the round says whose step it is, and each kind of job what the step does. -/
theorem jobSteps : Obligations.JobSteps := by
  refine fun i s => ⟨fun h => congrArg Host.Outcome.next ?_, fun _ _ _ => ⟨_, rfl⟩, fun hal hp t round hround => ?_⟩
  · rcases h with h | h | ⟨hw, ht, ho⟩
    · exact jobStep_stopped i (.inl h)
    · exact jobStep_stopped i (.inr h)
    · exact jobStep_idle i (jobOrder_nil hw ht ho)
  · have hn := next_step hround
    refine ⟨fun ht => ?_, fun ht => congrArg Host.Outcome.next (jobStep_isolation hal hp hn i ht), fun j h0 h1 hj => ?_⟩
    · obtain ⟨hsame, hjob⟩ := captureStep_of s round
      exact ⟨_, congrArg Host.Outcome.next (jobStep_capture hal hp hn i ht), hsame, hjob, fun c cs hc hw hf hlt => capStep_piece (s := s.modJob (fun j => { j with round := round })) hc hw hf hlt⟩
    · exact ⟨_, congrArg Host.Outcome.next (jobStep_ticket hal hp hn i h0 h1 hj), commission_of hj i, clear_of hj i, wear_of hj i, scrub_of hj i, calibration_of hj i, selftest_of i,
        fun hc => by rw [stepJob_event _ i hc]; exact ⟨rfl, (counted_keeps (K := [.job]) s t round rfl).1⟩⟩

end Sys2Proof.Proofs.JobSteps
end

section
/-! ### The auxiliary converter: entries, the injected group, the calibration (R83, R85-R89) -/

namespace Sys2Proof.Proofs.AuxConverter

open Sys2Proof Sys2Proof.Machine Sys2Proof.Facts.FrontEnd Sys2Proof.Proofs.Boundaries

/-! #### The sequence and its results (R83, R84) -/

theorem auxNext_congr {s t : State} (h : t.regs = s.regs) : t.auxNext = s.auxNext := by
  funext n
  simp only [State.auxNext, State.auxEnabled, State.reg, h]

theorem auxAdvance_res_length (s : State) (n : Nat) : (s.auxAdvance n).aux.res.length = s.aux.res.length := by
  simp only [State.auxAdvance, modAux_aux]
  split
  · exact List.length_map _
  · rfl

theorem auxSeek_res_length (s : State) : s.auxSeek.aux.res.length = s.aux.res.length := by
  unfold State.auxSeek
  split
  · rfl
  · exact auxAdvance_res_length s _

/-- The end of a pass ages a result; its code and its validity stay. -/
theorem auxAdvance_auxRes {s : State} (n : Nat) {i : Nat} (h : i < s.aux.res.length) :
    ((s.auxAdvance n).auxRes i).code = (s.auxRes i).code ∧ ((s.auxAdvance n).auxRes i).valid = (s.auxRes i).valid := by
  simp only [State.auxAdvance, State.auxRes, modAux_aux]
  split
  · rw [nth_map h]
    exact ⟨rfl, rfl⟩
  · exact ⟨rfl, rfl⟩

/-- Inside its limits or outside, a result takes the new code and is valid. -/
theorem auxJudge_result (r : AuxRes) (code low high : Nat) : (auxJudge r code low high).1.code = code ∧ (auxJudge r code low high).1.valid = true := by
  unfold auxJudge
  extract_lets lo hi
  split <;> exact ⟨rfl, rfl⟩

/-- A finished entry: the judged result stands, the references checked on it change no result, and the sequence goes on. -/
theorem auxEntry_of {s : State} {n : Nat} (convs : List Rat) (h : n < s.aux.res.length) :
    ((s.auxEntry n convs).auxRes n).code = auxMean (convs.map (s.auxConv (s.auxInput n))) ∧ ((s.auxEntry n convs).auxRes n).valid = true ∧
      (s.auxEntry n convs).aux.entry = (s.auxNext n).1 ∧ (s.auxEntry n convs).aux.passes = (if (s.auxNext n).2 then (s.aux.passes + 1) % 65536 else s.aux.passes) := by
  unfold State.auxEntry
  extract_lets code lim j u v
  obtain ⟨hcode, hvalid⟩ := auxJudge_result (s.auxRes n) code (bitsOf lim 15 0) (bitsOf lim 31 16)
  have hv : v.aux = { s.aux with res := s.aux.res.set n j.1 } ∧ v.regs = s.regs := by
    simp only [v]
    split
    · exact ⟨stage_aux .., stage_regs ..⟩
    · exact ⟨rfl, rfl⟩
  obtain ⟨haux, hvregs⟩ := hv
  obtain ⟨hres, -, hpasses, hregs⟩ := refs_aux v n code
  rw [haux] at hres hpasses
  have hnext : (v.auxRefs n code).auxNext = s.auxNext := auxNext_congr (hregs.trans hvregs)
  have hj : (v.auxRefs n code).auxRes n = j.1 := by rw [State.auxRes, hres, nth_set_self h]
  obtain ⟨hc, hva⟩ := auxAdvance_auxRes (s := v.auxRefs n code) n (i := n) (by rw [hres, List.length_set]; exact h)
  refine ⟨hc.trans (hj ▸ hcode), hva.trans (hj ▸ hvalid), ?_, ?_⟩
  · simp only [State.auxAdvance, modAux_aux, hnext]
  · simp only [State.auxAdvance, modAux_aux, hnext, hpasses]

/-! #### The injected group (R85-R87) -/

theorem exec_auxInjTrigGo {s : State} {cls : KeyClass} (h : s.mayWrite cls 0x1C24) : exec (.auxInjTrigGo cls) s = .next (s.injTrigger 2) := by
  obtain ⟨r, hr, hw⟩ := tgt_c4
  exact congrArg Host.Outcome.next (write_applies h hr hw)

theorem injTrigger_held {s : State} (src : Nat) (h : s.aux.injPend = false) :
    s.injTrigger src = s.modAux (fun a => { a with injPend := true, injSrc := src, injAt := s.pwr.ot }) :=
  if_pos h

theorem injTrigger_joined {s : State} {src : Nat} (h : s.aux.injPend = true) (hj : s.injJoins src = true) :
    s.injTrigger src = s.modAux (fun a => { a with injSrc := 3 }) := by
  rw [State.injTrigger, if_neg (by simp [h]), if_pos hj]

theorem injTrigger_missed {s : State} {src : Nat} (h : s.aux.injPend = true) (hj : s.injJoins src = false) :
    (s.injTrigger src).aux = { s.aux with missed := satInc 255 s.aux.missed } := by
  rw [State.injTrigger, if_neg (by simp [h]), if_neg (by simp [hj]), stage_aux, modAux_aux]

/-- The result of every slot is the mean of its conversions, and none for a slot outside the group. -/
theorem injDone_slot {s : State} (convs : List (List Rat)) {m : Nat} (h : m < 4) :
    (s.injDone convs).aux.injRes.getD m none =
      (((s.injSlots.zip convs).map (fun p => (p.1, auxMean (p.2.map (s.auxConv (s.injInput p.1)))))).find? (fun p => decide (p.1 = m))).map (fun p => p.2) := by
  simp [State.injDone, h]

/-! #### The calibration (R88, R89) -/

theorem auxCalStart_due {s : State} (hb : s.aux.calBusy = false) (hd : s.dark = false) (ht : s.aux.calOt + bitsOf (s.reg 0x1C00) 15 8 * 1000000 ≤ s.pwr.ot) :
    s.auxCalStart = s.auxCalBegin := by
  rw [State.auxCalStart, if_neg (by simp [hb, hd, ht])]

section
variable {s : State} (o g : Int) (hb : s.aux.calBusy = true) (hr : s.aux.injRun = false) (hp : s.aux.injPend = false)
include hb hr hp

/-- While no group runs or waits, the step that ends is the calibration's. -/
theorem auxCalStep_goes : s.auxCalStep o g =
    if s.aux.calStep < 3 then s.modAux (fun a => { a with calStep := a.calStep + 1 })
    else if o.natAbs ≤ 64 ∧ g.natAbs ≤ 10000 then s.modAux (fun a => { a with calBusy := false, calStep := 0, calLate := false, offset := o, gainPpm := g })
    else (s.modAux (fun a => { a with calStep := 0 })).stage 0x0082 1 [] := by
  rw [State.auxCalStep, if_neg (by simp [hb, hr, hp])]

theorem auxCalStep_next (h : s.aux.calStep < 3) : s.auxCalStep o g = s.modAux (fun a => { a with calStep := a.calStep + 1 }) := by
  rw [auxCalStep_goes o g hb hr hp, if_pos h]

theorem auxCalStep_commits (h : 3 ≤ s.aux.calStep) (ho : o.natAbs ≤ 64) (hg : g.natAbs ≤ 10000) :
    s.auxCalStep o g = s.modAux (fun a => { a with calBusy := false, calStep := 0, calLate := false, offset := o, gainPpm := g }) := by
  rw [auxCalStep_goes o g hb hr hp, if_neg (by omega), if_pos ⟨ho, hg⟩]

theorem auxCalStep_fails (h : 3 ≤ s.aux.calStep) (hbad : 64 < o.natAbs ∨ 10000 < g.natAbs) : (s.auxCalStep o g).aux = { s.aux with calStep := 0 } := by
  rw [auxCalStep_goes o g hb hr hp, if_neg (by omega), if_neg (by omega), stage_aux, modAux_aux]

end

theorem auxCalLate_due {s : State} (hb : s.aux.calBusy = true) (hl : s.aux.calLate = false) (ht : s.aux.calOt + 60000000 ≤ s.pwr.ot) :
    s.auxCalLate.aux = { s.aux with calLate := true } := by
  rw [State.auxCalLate, if_pos ⟨hb, hl, ht⟩, stage_aux, modAux_aux]

/-- Settles O17: an entry's result and the sequence after it, the three answers to a trigger, the group's run and results, and the calibration step by step. -/
theorem auxiliaryConverter : Obligations.AuxiliaryConverter := by
  refine ⟨fun n convs s hgo hn => ?_, fun cls s hw => ⟨fun hp => ?_, fun hp hj => ?_, fun hp hj => ?_⟩, fun s hp hr => ?_, fun convs s hgo => ?_,
    fun s hb hd ht => ?_, fun o g s hb hr hp => ⟨fun h => ?_, fun h ho hg => ?_, fun h hbad => ?_⟩, fun s hb hl ht => ⟨_, rfl, auxCalLate_due hb hl ht⟩⟩
  · exact ⟨_, congrArg Host.Outcome.next (if_pos hgo), auxEntry_of convs (by rw [auxSeek_res_length]; exact hn)⟩
  · rw [exec_auxInjTrigGo hw, injTrigger_held 2 hp]
  · rw [exec_auxInjTrigGo hw, injTrigger_joined hp hj]
  · exact ⟨_, exec_auxInjTrigGo hw, injTrigger_missed hp hj⟩
  · exact congrArg Host.Outcome.next (if_pos ⟨hp, hr⟩)
  · exact ⟨_, congrArg Host.Outcome.next (if_pos hgo), rfl, rfl, fun m hm => injDone_slot convs hm⟩
  · exact congrArg Host.Outcome.next (auxCalStart_due hb hd ht)
  · exact congrArg Host.Outcome.next (auxCalStep_next o g hb hr hp h)
  · exact congrArg Host.Outcome.next (auxCalStep_commits o g hb hr hp h ho hg)
  · exact ⟨_, rfl, auxCalStep_fails o g hb hr hp h hbad⟩

end Sys2Proof.Proofs.AuxConverter
end

section
/-! ### Couplers, inputs, field supply and field configuration (R92, R244-R260) -/

namespace Sys2Proof.Proofs.FieldSupply

open Sys2Proof Sys2Proof.Machine Sys2Proof.Facts.FieldPorts Sys2Proof.Proofs.Boundaries

theorem whileAlive_alive {s : State} (f : State → State) (h : s.alive = true) : s.whileAlive f = f s := if_pos h

theorem fastQual_fio (s : State) : s.fastQual.fio = s.fio := (fq s).1

theorem fastQual_health (s : State) : s.fastQual.sys.health = s.sys.health := (fq s).2

/-! #### Couplers (R244, R246, R256) -/

/-- One entry of the couplers' failures set: that coupler's state, and every other one's as before. -/
theorem cplFailed_of_set {s t : State} {k : Nat} {b : Bool} (h : t.fio.failed = s.fio.failed.set k b) (hk : k < s.fio.failed.length) :
    t.cplFailed k = b ∧ ∀ j, j ≠ k → t.cplFailed j = s.cplFailed j := by
  simp only [State.cplFailed, h]
  exact setTrue s.fio.failed k b hk

theorem cplFailed_couplerFlush (s : State) (k : Nat) : s.couplerFlush.cplFailed k = s.cplFailed k := by
  rw [State.cplFailed, (cf_fail s).1, State.cplFailed]

/-- A coupler fails with its fourth bad frame; the coupler of HEALTH opens it, whatever is judged of the field then. -/
theorem couplerFail_taken {s : State} {k frames : Nat} (hk : k < 32) (hf : s.cplFailed k = false) (h4 : 4 ≤ frames) :
    (s.couplerFail k frames).fio.failed = s.fio.failed.set k true ∧ (k = 30 → (s.couplerFail k frames).sys.health = false) := by
  unfold State.couplerFail
  extract_lets u on v w sys x
  rw [if_neg (by rw [cplFailed_couplerFlush]; simp [hf]; omega), fastQual_fio, fastQual_health]
  have hv : v.fio.failed = s.fio.failed := by
    simp only [v]
    split <;> exact (cf_fail s).1
  have hx : x.fio.failed = s.fio.failed.set k true ∧ (k = 30 → x.sys.health = false) := by
    simp only [x]
    split
    · exact ⟨congrArg (·.set k true) hv, fun _ => rfl⟩
    · next hne => exact ⟨congrArg (·.set k true) hv, fun h => absurd h hne⟩
  obtain ⟨hfailed, hhealth⟩ := jl x
  exact ⟨hfailed.trans hx.1, fun h => hhealth (hx.2 h)⟩

theorem couplerOk_taken {s : State} {k frames : Nat} (hk : k < 32) (hf : s.cplFailed k = true) (h : 1000 ≤ frames) :
    (s.couplerOk k frames).fio.failed = s.fio.failed.set k false := by
  unfold State.couplerOk
  extract_lets u v w
  rw [if_neg (by rw [cplFailed_couplerFlush]; simp [hf]; omega)]
  obtain ⟨-, hfollow, -⟩ := dok_follow (w.stage 0x00D6 0 (b1 k)).fastQual
  rw [hfollow, fastQual_fio, stage_fio]
  have hv : v.fio.failed = s.fio.failed.set k false := congrArg (·.set k false) (cf_fail s).1
  simp only [w]
  split <;> exact hv

/-! #### Inputs and continuity (R248, R260) -/

theorem inputAccepted_fio (s : State) (n : Nat) (level : Bool) {sec : Nat} (us : Nat) (h : sec < 2 ^ 32) :
    (s.inputAccepted n level sec us).fio =
      { s.fio with di := modNth s.fio.di n (fun d => { d with level := level, accepted := true, sec := sec, us := us, edge := level, hold := decide (s.ptp.state ≠ 2) }) } := by
  rw [State.inputAccepted, fastQual_fio, Nat.mod_eq_of_lt h]
  rfl

theorem tcsChange_taken {s : State} {n : Nat} {present : Bool} (hv : s.tcsValid n = true) (hn : n < 2) (he : bitAt (s.reg (0x2D48 + 4 * n)) 0 = true)
    (h : 20 ≤ (if present then (nth s.fio.tcs n).ups else (nth s.fio.tcs n).downs)) :
    s.tcsChange n present = s.modFio (fun x => { x with tcs := modNth x.tcs n (fun t => { t with cont := present }) }) := by
  simp only [State.tcsChange, hv, hn, he, h, decide_true, Bool.and_self, if_true]

/-! #### The field supply (R92, R255, R257) -/

/-- The second reading in a row below 16.8 V is a sag, the second above 30.2 V a high supply. -/
theorem supplyReading_normal {s : State} (vf t0 t1 : Nat) (hc : s.cplFailed 31 = false) (h : s.fio.state = 0) :
    (s.supplyReading vf t0 t1).fio.vf = vf ∧ (s.supplyReading vf t0 t1).fio.vfRead = true ∧
      (s.supplyReading vf t0 t1).fio.state = (if vf < 1680 ∧ 1 ≤ s.fio.lows then 1 else if 3020 < vf ∧ 1 ≤ s.fio.highs then 3 else 0) := by
  unfold State.supplyReading
  extract_lets u
  have hlow : 2 ≤ u.fio.lows ↔ vf < 1680 ∧ 1 ≤ s.fio.lows := by
    simp only [u, modFio_fio]
    split <;> omega
  have hhigh : 2 ≤ u.fio.highs ↔ 3020 < vf ∧ 1 ≤ s.fio.highs := by
    simp only [u, modFio_fio]
    split <;> omega
  rw [if_neg (by simp [hc]), if_neg (show ¬u.fio.state ≠ 0 from not_not_intro h)]
  simp only [hlow, hhigh]
  split
  · simp [u]
  · split
    · simp [u]
    · exact ⟨rfl, rfl, h⟩

theorem sagEnd_taken {s : State} (h : s.fio.state = 1 ∨ s.fio.state = 3) (hb : 100 ≤ s.fio.backs) :
    s.sagEnd.fio = { s.fio with state := 0, lows := 0, highs := 0, backs := 0 } := by
  rw [State.sagEnd, if_pos ⟨h, hb⟩, stage_fio, modFio_fio]

/-- An output without field supply: no hold and no fault stands. -/
def unsupplied (o : DoSt) : DoSt :=
  { o with hold := false, holding := false, limit := false, thermal := false, stuck := false, failOff := false, openLd := false, overload := false, peer := false, current := 0 }

theorem enterLost_taken {s : State} (h : s.fio.state ≠ 2) :
    s.enterLost.fio = { s.fio with state := 2, lostCount := satInc 255 s.fio.lostCount, lostTold := false, lows := 0, highs := 0, ready := false, dos := s.fio.dos.map unsupplied } ∧
      s.enterLost.sys.health = false := by
  rw [State.enterLost, if_neg h, fastQual_fio, fastQual_health]
  exact ⟨rfl, rfl⟩

theorem fieldReady_taken {s : State} (h : s.fio.state = 2) :
    s.fieldReady.fio = { s.fio with
      state := 0, ready := true, mgmtUp := true, failPend := [], failed := if s.fio.lostTold then List.replicate 32 false else s.fio.failed,
      di := s.fio.di.map (fun d => { d with accepted := false }) } := by
  rw [State.fieldReady, if_neg (not_not_intro h), fastQual_fio]
  rfl

/-! #### Field configuration (R249, R253, R254) -/

/-- A mapped address of the field block is a register there, never a window. -/
theorem target_field {a : Nat} {g : Target} (hf : isField a = true) (ht : targetOf a = some g) : a / 0x400 = 11 ∧ ∃ r, g = .reg r := by
  simp only [isField, decide_eq_true_eq] at hf
  unfold targetOf at ht
  split_ifs at ht with _ hlow
  · obtain ⟨r, -, hr⟩ := Option.map_eq_some_iff.mp ht
    exact ⟨by omega, r, hr.symm⟩
  all_goals omega

/-- A field write that the keyway allows is judged by the field's own rule. -/
theorem exec_fioCfgWrite {s : State} {cls : KeyClass} {a : Nat} {v : Word} (hf : isField a = true) (hsel : a ≠ 0x2C84) (hclear : a ≠ 0x2D40) (h : s.mayWrite cls a)
    (hmask : ∀ r, targetOf a = some (.reg r) → r.mask ≠ 0) : exec (.fioCfgWrite cls a v) s = .next (s.writeFio a v).1 := by
  obtain ⟨g, ht⟩ : ∃ g, targetOf a = some g := by
    obtain ⟨-, -, -, hg⟩ := h
    rw [State.grantsWrite] at hg
    split at hg
    · next g ht => exact ⟨g, ht⟩
    · exact hg.elim
  obtain ⟨ha, r, rfl⟩ := target_field hf ht
  refine congrArg Host.Outcome.next ((if_pos hf).trans ((write_applies h ht (hmask r ht)).trans ?_))
  simp only [State.applyReg, ha, State.applyFio, hsel, hclear, if_false]

/-- A refused write changes the result alone, besides the record. -/
theorem writeFio_refused {s : State} {a : Nat} {v : Word} (h : s.fioCheck a (v &&& BitVec.ofNat 32 (fioMask a)) ≠ 0) :
    (s.writeFio a v).1.fio = { s.fio with result := s.fioCheck a (v &&& BitVec.ofNat 32 (fioMask a)) } ∧
      (s.writeFio a v).1.defer = s.defer ∧ (s.writeFio a v).1.regs = s.regs ∧ (s.writeFio a v).1.nv = s.nv := by
  rw [State.writeFio, if_pos h]
  dsimp only
  split
  · rw [stage_fio, stage_defer, stage_regs, stage_nv]
    exact ⟨rfl, rfl, rfl, rfl⟩
  · exact ⟨rfl, rfl, rfl, rfl⟩

theorem writeFio_accepted {s : State} {a : Nat} {v : Word} (h : s.fioCheck a (v &&& BitVec.ofNat 32 (fioMask a)) = 0) :
    (s.writeFio a v).1 = ((s.deferReg a (v &&& BitVec.ofNat 32 (fioMask a))).store a (v &&& BitVec.ofNat 32 (fioMask a))).modFio (fun x => { x with result := 1 }) := by
  rw [State.writeFio, if_neg (not_not_intro h)]

/-- A stored value waits for its boundary and is what a read returns meanwhile. -/
theorem regSeen_store_defer (s : State) (a : Nat) (w : Word) : ((s.deferReg a w).store a w).regSeen a = w := by
  simp only [State.regSeen, State.reg, store_defer, store_regs]
  exact regSeen_defer s a w

theorem store_ovr {s : State} (a : Nat) (w : Word) (h : s.dm.mramFail = false) : lookupD (s.store a w).nv.ovr a 0 = w := by
  rw [State.store, if_neg (by simp [h]), lookupD_insertKey, if_pos rfl]

/-- Settles O27: each command of the field side, taken where its condition holds, and the two outcomes of a configuration write. -/
theorem fieldCouplersAndSupply : Obligations.FieldCouplersAndSupply := by
  refine ⟨fun k frames s ha hk hl => ⟨fun hf h4 => ?_, fun hf h => ?_⟩, fun n level count sec us s ha hgo hn hsec => ?_, fun vf t0 t1 s ha hc h => ?_,
    fun s ha h hb => ?_, fun s ha h => ?_, fun s ha h => ?_, fun n present s ha hv hn he h => ?_,
    fun cls a v s hf hsel hclear hw hmask => ⟨fun h => ?_, fun h => ?_⟩⟩
  · obtain ⟨hset, hhealth⟩ := couplerFail_taken hk hf h4
    obtain ⟨hself, hothers⟩ := cplFailed_of_set hset hl
    exact ⟨_, congrArg Host.Outcome.next (whileAlive_alive _ ha), hself, hothers, hhealth⟩
  · exact ⟨_, congrArg Host.Outcome.next (whileAlive_alive _ ha), cplFailed_of_set (couplerOk_taken hk hf h) hl⟩
  · exact ⟨_, congrArg Host.Outcome.next ((whileAlive_alive _ ha).trans (if_pos hgo)), inputAccepted_fio s n level us hsec⟩
  · exact ⟨_, congrArg Host.Outcome.next (whileAlive_alive _ ha), supplyReading_normal vf t0 t1 hc h⟩
  · exact ⟨_, congrArg Host.Outcome.next (whileAlive_alive _ ha), sagEnd_taken h hb⟩
  · obtain ⟨hfio, hhealth⟩ := enterLost_taken h
    refine ⟨_, congrArg Host.Outcome.next (whileAlive_alive _ ha), ?_⟩
    dsimp only [State.outp]
    rw [hfio]
    exact ⟨rfl, hhealth, rfl, fun n hn => by rw [nth_map hn, unsupplied], rfl⟩
  · refine ⟨_, congrArg Host.Outcome.next (whileAlive_alive _ ha), ?_⟩
    dsimp only
    rw [fieldReady_taken h]
    exact ⟨rfl, rfl, rfl, List.forall_mem_map.mpr fun _ _ => rfl, rfl⟩
  · exact congrArg Host.Outcome.next ((whileAlive_alive _ ha).trans (tcsChange_taken hv hn he h))
  · exact ⟨_, exec_fioCfgWrite hf hsel hclear hw hmask, writeFio_refused h⟩
  · refine ⟨_, exec_fioCfgWrite hf hsel hclear hw hmask, ?_⟩
    rw [writeFio_accepted h]
    exact ⟨by simp, regSeen_store_defer s a _, by simp, fun hm => store_ovr (s := s.deferReg a _) a _ hm⟩

end Sys2Proof.Proofs.FieldSupply
end

section
/-! ### The commit gate, stopped attempts and pair self-tests (R99, R102, R106-R115, R462) -/

namespace Sys2Proof.Proofs.EngineGate

open Sys2Proof Sys2Proof.Machine Sys2Proof.Facts.Ticks

/-! #### Roles of pairs (R95, R96) -/

theorem role_congr {s t : State} (h : t.pe = s.pe) (p : Nat) : t.role p = s.role p := by rw [State.role, State.role, h]

theorem role_setPair {s : State} {p : Nat} (r : PairRole) (hp : p < s.pe.roles.length) : (s.setPair p r).role p = r := by
  simp [State.role, State.setPair, hp]

theorem role_setPair_ne (s : State) {p q : Nat} (r : PairRole) (h : p ≠ q) : (s.setPair p r).role q = s.role q := by
  simp [State.role, State.setPair, h]

theorem roles_length_setPair (s : State) (p : Nat) (r : PairRole) : (s.setPair p r).pe.roles.length = s.pe.roles.length := by
  simp [State.setPair]

theorem mem_spares {s : State} {p : Nat} : p ∈ s.spares ↔ p < 16 ∧ s.role p = .spare := by
  simp [State.spares]

theorem role_poolCheck (s : State) (p : Nat) : s.poolCheck.role p = s.role p := by
  obtain ⟨b, hb⟩ := poolCheck_pe s
  rw [State.role, hb, State.role]

/-! #### The commit gate (R99, R102, R106) -/

/-- A commit within the charge changes of the engines the records, the nets, the attempt and the placement's peak; the buffer's binary values are written over as many nets as before (their held bits may have been cleared). -/
theorem placementCommit_pe {s : State} {pl cycles : Nat} {a : Attempt} (h : s.attOf pl = some a) (hst : a.st = .running ∨ a.st = .reexec) (hc : cycles ≤ (nth s.pe.place pl).charge) :
    ∃ (b : List BNet) (an : List ANet), b.length = s.pe.bnets.length ∧ (s.placementCommit pl cycles).pe =
      { s.pe with els := putEls s.pe.els a.els, bnets := a.bnets.reverse.foldl (fun l p => modNth l p.1 (fun n => { n with v := p.2 })) b, anets := an,
                  att := (s.modAtt pl (fun x => { x with st := .committed })).pe.att, place := modNth s.pe.place pl (fun p => { p with peak := p.peak.max cycles, told := false }) } := by
  obtain ⟨b, an, hheld, hlen⟩ := markHeld_pe s pl false
  refine ⟨b, a.anets.reverse.foldl (fun l p => modNth l p.1 (fun _ => p.2)) an, hlen, ?_⟩
  have hpub : (s.placementCommit pl cycles).pe = (s.commit pl cycles).pe := Keeps.same (keeps_publishEvents (K := [.svc]) rfl (Keeps.refl _ _)) (p := .pe) (by decide)
  have hwr := applyWrites_pe (s.markHeld pl false) a.bnets a.anets a.els a.evs
  rw [hpub, State.commit, h]
  dsimp only
  rw [if_pos ⟨hst, hc⟩]
  have htold (u : State) : (if a.st = .reexec then u.stageTick 0x0091 0 [] else u).pe = u.pe := by
    split
    · exact stageTick_pe u _ _ _
    · rfl
  rw [htold]
  rw [hheld] at hwr ⊢
  simp only [State.modPlace, State.modAtt, modPe_pe, hwr, State.writeNets]

theorem attOf_placementCommit {s : State} {pl cycles : Nat} {a : Attempt} (h : s.attOf pl = some a) (hst : a.st = .running ∨ a.st = .reexec) (hc : cycles ≤ (nth s.pe.place pl).charge) :
    (s.placementCommit pl cycles).attOf pl = some { a with st := .committed } := by
  obtain ⟨_, _, _, hpe⟩ := placementCommit_pe h hst hc
  have hmod := att_map s.pe.att pl (fun x => { x with st := .committed }) fun _ => rfl
  rw [State.attOf, hpe]
  exact hmod.trans (congrArg (Option.map _) h)

/-! #### Re-execution (R109) -/

theorem reexecStart_taken {s : State} {pl : Nat} {a : Attempt} (h : s.attOf pl = some a) (hst : a.st = .reexecWait) (hl : s.clk.level ≠ 2) (hsys : s.clk.sysSrc = 0) (hop : s.clk.op = true) :
    s.reexecStart pl = s.modAtt pl (fun x => { x with st := .reexec }) := by
  rw [State.reexecStart, h]
  exact if_pos ⟨hst, hl, hsys, Or.inl hop⟩

/-! #### The end of a self-test, and the test of a spare (R112, R114, R462) -/

/-- The pair is no longer under any test. -/
def untested (s : State) (p : Nat) : State := s.modPe (fun e => { e with tests := e.tests.filter (fun t => t.1 ≠ p) })

theorem selftestEnd_isolation_failed {s : State} {p : Nat} (h : s.pe.tests.find? (fun t => t.1 = p) = some (p, .isolation)) :
    s.selftestEnd p false = (untested s p).mapOutPair p 0 := by
  rw [State.selftestEnd, h]
  rfl

theorem selftestEnd_background_passed {s : State} {p : Nat} (h : s.pe.tests.find? (fun t => t.1 = p) = some (p, .background)) :
    s.selftestEnd p true = untested s p := by
  rw [State.selftestEnd, h]
  rfl

theorem mapOutPair_role {s : State} {p : Nat} (reason : Nat) (hp : p < s.pe.roles.length) : (s.mapOutPair p reason).role p = .mappedOut := by
  rw [State.mapOutPair, role_congr (stage_pe _ _ _ _)]
  exact role_setPair _ hp

theorem mapOutPair_dm (s : State) (p reason : Nat) : (s.mapOutPair p reason).dm = (s.modDefPair p (fun d => { d with state := 2, reason := reason })).dm :=
  stage_dm _ _ _ _

/-- A pair mapped out is not good any more, and the map is due to be written. -/
theorem mapOutPair_map {s : State} {p : Nat} (reason : Nat) (hp : p < s.dm.map.pairs.length) : (s.mapOutPair p reason).pairGood p = false ∧ (s.mapOutPair p reason).dm.dirty = true := by
  rw [State.pairGood, mapOutPair_dm]
  have hstate : (nth (s.modDefPair p (fun d => { d with state := 2, reason := reason })).dm.map.pairs p).state = 2 := congrArg DefPair.state (nth_modNth_self hp)
  exact ⟨decide_eq_false (by rw [hstate]; decide), rfl⟩

theorem spareTest_taken {s : State} {p : Nat} (hp : p < 16) (hr : s.role p = .spare) (ht : ∀ t ∈ s.pe.tests, t.1 ≠ p) :
    s.spareTest p = s.modPe (fun e => { e with tests := e.tests ++ [(p, .background)] }) :=
  if_pos ⟨hp, hr, List.all_eq_true.mpr fun t h => decide_eq_true (ht t h)⟩

/-! #### The swap before a job's self-test (R115) -/

/-- The placement goes over to the spare, and the pair it had leaves it for the job's test. -/
def swapped (s : State) (u : List Nat) (p i q : Nat) : State :=
  ((((s.modPe (fun e => { e with swaps := u })).takeSpare q).modPlace i (fun x => { x with pair := some q })).setPair p .isolated).modPe (fun e => { e with tests := e.tests ++ [(p, .job)] })

section
variable {s : State} {u : List Nat} {p i q : Nat}

theorem selftestSwap_taken {r : List Nat} (hu : s.pe.swaps = p :: u) (hi : s.pe.place.findIdx? (fun x => decide (x.pair = some p)) = some i) (hq : s.spares = q :: r) :
    s.selftestSwap = (swapped s u p i q).poolCheck := by
  have hspares : (s.modPe (fun e => { e with swaps := u })).spares = q :: r := hq
  rw [State.selftestSwap, hu]
  dsimp only
  rw [modPe_pe, hi, hspares]
  rfl

theorem role_swapped_pair (hp : p < s.pe.roles.length) : (swapped s u p i q).role p = .isolated :=
  role_setPair (s := ((s.modPe (fun e => { e with swaps := u })).takeSpare q).modPlace i (fun x => { x with pair := some q })) .isolated (by rwa [← roles_length_setPair s q .placed] at hp)

theorem role_swapped_spare (hq : q < s.pe.roles.length) (hne : p ≠ q) : (swapped s u p i q).role q = .placed :=
  (role_setPair_ne (((s.modPe (fun e => { e with swaps := u })).takeSpare q).modPlace i (fun x => { x with pair := some q })) .isolated hne).trans (role_setPair (s := s) .placed hq)

end

theorem place_swapped (s : State) (u : List Nat) (p q : Nat) {i : Nat} (hi : i < s.pe.place.length) : (nth (swapped s u p i q).pe.place i).pair = some q :=
  congrArg Placement.pair (nth_modNth_self hi)

theorem tests_swapped (s : State) (u : List Nat) (p i q : Nat) : (p, TestKind.job) ∈ (swapped s u p i q).pe.tests :=
  List.mem_append_right _ List.mem_cons_self

/-- The swap leaves the pair isolated under the job's test and the spare in its placement. -/
theorem selftestSwap_result {s : State} {u r : List Nat} {p i q : Nat} (hu : s.pe.swaps = p :: u) (hi : s.pe.place.findIdx? (fun x => decide (x.pair = some p)) = some i)
    (hq : s.spares = q :: r) (hp : p < 16) (hl : s.pe.roles.length = 16) (hr : s.role p ≠ .spare) :
    (nth s.selftestSwap.pe.place i).pair = some q ∧ s.selftestSwap.role p = .isolated ∧ s.selftestSwap.role q = .placed ∧ (p, TestKind.job) ∈ s.selftestSwap.pe.tests ∧ s.selftestSwap.pe.swaps = u := by
  have hmem : q ∈ s.spares := hq ▸ List.mem_cons_self
  obtain ⟨hq16, hqspare⟩ := mem_spares.mp hmem
  have hne : p ≠ q := fun e => hr (e ▸ hqspare)
  have hplace : i < s.pe.place.length := (List.findIdx?_eq_some_iff_getElem.mp hi).1
  obtain ⟨b, hpool⟩ := poolCheck_pe (swapped s u p i q)
  rw [selftestSwap_taken hu hi hq, role_poolCheck, role_poolCheck, hpool]
  exact ⟨place_swapped s u p q hplace, role_swapped_pair (hl.symm ▸ hp), role_swapped_spare (hl.symm ▸ hq16) hne, tests_swapped s u p i q, rfl⟩

/-- Settles O12: the gate commits the buffer whole, a stopped attempt isolates its pair, a re-execution runs on, and the self-tests end, start and swap as R112 to R115 say. -/
theorem engineGate : Obligations.EngineGate := by
  refine ⟨fun pl cycles s a h hst hc => ⟨_, rfl, ?commit⟩, fun pl cycles s a h hst hc hp hl => ⟨_, rfl, ?overrun⟩, fun pl gap s a h hst hg hp hl => ⟨_, rfl, ?stall⟩,
    fun pl s a h hst hl hsys hop => congrArg Host.Outcome.next (reexecStart_taken h hst hl hsys hop), fun p s hp hl hm ht => ⟨_, rfl, ?failed⟩,
    fun p s ht => congrArg Host.Outcome.next (selftestEnd_background_passed ht), fun p s hp hr ht => congrArg Host.Outcome.next (spareTest_taken hp hr ht),
    fun p i q u r s hu hi hq hp hl hr => ⟨_, rfl, selftestSwap_result hu hi hq hp hl hr⟩⟩
  case commit =>
    obtain ⟨b, an, hlen, hpe⟩ := placementCommit_pe h hst hc
    rw [attOf_placementCommit h hst hc, hpe]
    exact ⟨rfl, rfl, fun n v hw hn => writes_net a.bnets b n v hw (hlen ▸ hn), fun hpl => congrArg Placement.peak (nth_modNth_self hpl)⟩
  case overrun =>
    rw [State.overrun, if_pos hc]
    exact mismatch_iso s pl 3 a h hst hp hl
  case stall =>
    rw [State.stall, if_pos hg]
    exact mismatch_iso s pl 2 a h hst hp hl
  case failed =>
    rw [selftestEnd_isolation_failed ht]
    exact ⟨mapOutPair_role 0 (hl.symm ▸ hp : p < s.pe.roles.length), mapOutPair_map 0 (hm.symm ▸ hp : p < s.dm.map.pairs.length)⟩

end Sys2Proof.Proofs.EngineGate
end

section
/-! ### The loss of the tracking sources (R130) -/

namespace Sys2Proof.Proofs.TrackingLoss

open Sys2Proof Sys2Proof.Machine

theorem expire_due {t : Track} {fp fn : Nat} (hd : 2 * fp ≤ t.hold) (hl : t.lost = false) : t.expire fp fn = { t with ft := fn, fm := [], lost := true, back := 0 } :=
  if_pos ⟨hd, hl⟩

theorem expire_same {t : Track} {fp : Nat} (fn : Nat) (h : t.hold < 2 * fp ∨ t.lost = true) : t.expire fp fn = t :=
  if_neg fun ⟨hd, hl⟩ => h.elim (Nat.not_lt.mpr hd) (by simp [hl])

theorem trackingLost_same {s : State} (h : s.trk.hold < 2 * s.fp ∨ s.trk.lost = true) : s.trackingLost = s := by
  rw [State.trackingLost, expire_same _ h]

theorem trackingLost_due {s : State} (hd : 2 * s.fp ≤ s.trk.hold) (hl : s.trk.lost = false) :
    s.trackingLost = { s with trk := { s.trk with ft := s.sch.cfg.fn, fm := [], lost := true, back := 0 } } := by
  rw [State.trackingLost, expire_due hd hl]

/-- Settles O58: the command writes the track alone, whose expiry is one condition. -/
theorem trackingLoss : Obligations.TrackingLoss :=
  fun _ => ⟨fun hd hl => congrArg Host.Outcome.next (trackingLost_due hd hl), fun h => congrArg Host.Outcome.next (trackingLost_same h)⟩

end Sys2Proof.Proofs.TrackingLoss
end

section
/-! ### Timers of the overcurrent, voltage, frequency and zone-selective stages (R123, R127, R135, R136, R148-R150, R176) -/

namespace Sys2Proof.Proofs.StageTimers

open Sys2Proof Sys2Proof.Machine Sys2Proof.Facts.ElementTimers

theorem kind_of_holds {s : State} {att : Attempt} {n : Nat} {kinds : List Nat} {c : InstCfg} {e : ElemSt} (h : s.holds att n kinds c e) : c.kind ∈ kinds := by
  obtain ⟨-, -, -, -, -, hk⟩ := h
  exact hk

section
variable {v : Env} {c : InstCfg} {e : ElemSt}

/-! #### Definite times and integrators (R127, R135, R148, R149) -/

/-- The step that definite times, integrators and the interlock share: a started stage that is due operates. -/
theorem operate_of_due {due : Bool} (hs : e.started = true) (hd : due = true) : { e with operate := e.operate || (e.started && due) } = { e with operate := true } := by
  rw [hs, hd, Bool.and_self, Bool.or_true]

theorem settleDefinite_overcurrent (hk : c.kind ∈ [3, 4, 5, 6]) (hc : v.choice c 3 = 0) (hs : e.started = true) (ht : v.reached e.count (v.num c 5) = true) :
    v.settleDefinite c e = { e with operate := true } := by
  simp only [List.mem_cons, List.not_mem_nil, or_false] at hk
  rw [Env.settleDefinite]
  rcases hk with hk | hk | hk | hk <;> rw [hk] <;> exact (if_pos hc).trans (operate_of_due hs ht)

theorem settleDefinite_voltage (hk : c.kind ∈ [0x0A, 0x0B]) (hc : v.choice c 3 ≠ 1) (hs : e.started = true) (ht : v.reached e.count (v.num c 4) = true) :
    v.settleDefinite c e = { e with operate := true } := by
  simp only [List.mem_cons, List.not_mem_nil, or_false] at hk
  rw [Env.settleDefinite]
  rcases hk with hk | hk <;> rw [hk] <;> exact (if_neg hc).trans (operate_of_due hs ht)

theorem settleDefinite_residual (hk : c.kind = 0x0C) (hs : e.started = true) (ht : v.reached e.count (v.num c 3) = true) :
    v.settleDefinite c e = { e with operate := true } := by
  rw [Env.settleDefinite, hk]
  exact operate_of_due hs ht

theorem settleIntegral_full (hc : v.choice c 3 ≠ 0) (hs : e.started = true) (hi : 1 ≤ e.integ) : v.settleIntegral c e = { e with operate := true } := by
  rw [Env.settleIntegral, if_neg hc, operate_of_due hs (decide_eq_true hi)]

/-! #### The two stages of a frequency element (R150) -/

/-- One stage of a frequency element under its definite time: hold is its operate. -/
def stageTimed (v : Env) (p : PhaseSt) (t : Rat) : PhaseSt := if p.on ∧ v.reached p.cnt t then { p with hold := 1 } else p

theorem settleDefinite_frequency_ph (hk : c.kind = 0x0D) : (v.settleDefinite c e).ph = [stageTimed v (nth e.ph 0) (v.num c 5), stageTimed v (nth e.ph 1) (v.num c 10)] := by
  rw [Env.settleDefinite, hk]
  rfl

theorem settleDefinite_frequency_operate (hk : c.kind = 0x0D) : (v.settleDefinite c e).operate = (v.settleDefinite c e).ph.any (fun p => decide (p.hold = 1)) := by
  simp only [Env.settleDefinite, hk]

theorem nth_settleDefinite_frequency (hk : c.kind = 0x0D) {k : Nat} (h : k < 2) : nth (v.settleDefinite c e).ph k = stageTimed v (nth e.ph k) (v.num c (5 + 5 * k)) := by
  rw [settleDefinite_frequency_ph hk]
  match k, h with
  | 0, _ => rfl
  | 1, _ => rfl

theorem settleDefinite_frequency_hold (hk : c.kind = 0x0D) {k : Nat} (h : k < 2) (hon : (nth e.ph k).on = true) (ht : v.reached (nth e.ph k).cnt (v.num c (5 + 5 * k)) = true) :
    (nth (v.settleDefinite c e).ph k).hold = 1 := by
  rw [nth_settleDefinite_frequency hk h, stageTimed, if_pos ⟨hon, ht⟩]

theorem settleDefinite_frequency_operates (hk : c.kind = 0x0D) {k : Nat} (h : k < 2) (hh : (nth (v.settleDefinite c e).ph k).hold = 1) : (v.settleDefinite c e).operate = true := by
  have hlen : k < (v.settleDefinite c e).ph.length := by rw [settleDefinite_frequency_ph hk]; exact h
  rw [nth, List.getD_eq_getElem _ _ hlen] at hh
  rw [settleDefinite_frequency_operate hk]
  exact List.any_eq_true.mpr ⟨_, List.getElem_mem hlen, decide_eq_true hh⟩

/-! #### Reset time and invalid timeout (R123, R136) -/

theorem settleReset_due (hs : e.started = false) (hc : v.choice c 7 = 1) (ht : v.reached e.rcount (v.num c 8) = true) : v.settleReset c e = { e with integ := 0, count := 0 } :=
  if_pos ⟨hs, hc, ht⟩

theorem cleared_ne (h : e.integ ≠ 0 ∨ e.count ≠ 0) : { e with integ := 0, count := 0 } ≠ e :=
  h.elim (fun hi => nec ElemSt.integ (Ne.symm hi)) fun hn => nec ElemSt.count (Ne.symm hn)

theorem settleInvalid_due {reset : ElemSt → ElemSt} (hv : e.valid = false) (ho : e.tout = false) (ht : v.exceeds e.bad (v.num c 0) = true) : v.settleInvalid c reset e = timedOut reset e :=
  if_pos ⟨hv, ho, ht⟩

theorem timedOut_ne (reset : ElemSt → ElemSt) (h : e.tout = false) : timedOut reset e ≠ e :=
  nec ElemSt.tout (by simp [timedOut, h])

/-! #### The zone-selective interlock (R176, R177) -/

theorem zsiFree_of_sources (ht : v.reached e.count (v.num c 14) = true) (hw : e.tcount = 0) (hl : ∀ x ∈ c.zsiCodes, v.s.srcLost (x / 4) = false) : v.zsiFree c e = true := by
  have hlost : c.zsiCodes.any (fun x => v.s.srcLost (x / 4)) = false := List.any_eq_false.mpr fun x hx => by simp [hl x hx]
  simp [Env.zsiFree, ht, hw, hlost]

theorem settleZsi_free (hs : e.started = true) (hd : v.ocDue c e = true) (hf : v.zsiFree c e = true) : v.settleZsi c e = { e with operate := true } := by
  rw [Env.settleZsi, Bool.and_assoc, operate_of_due hs (by rw [hd, hf, Bool.and_self])]

theorem settleWindow_quiet (hw : e.tcount = 1) (hq : ∀ x ∈ c.zsiCodes, x ∉ v.s.fst.netX) :
    v.settleWindow c e = v.settleZsi c { e with tcount := 0, z := e.z.map (fun _ => 0) } :=
  if_pos ⟨hw.le, List.any_eq_false.mpr fun x hx => by simp [hq x hx]⟩

end

/-! #### The statement -/

/-- Settles O18: each row is the one condition of its element's settling, which writes the record that the running attempt holds (log entry 11). -/
theorem stageTimers : Obligations.StageTimers := by
  refine ⟨fun n s att c e h => ⟨fun hc hs ho ht => ?definite, fun hc hs ho hi => ?integral⟩, fun n s att c e h hc hs ho ht => ?voltage, fun n s att c e h hs ho ht => ?residual,
    fun n s att c e h ⟨k, hk, hon, hh, ht⟩ => ?frequency, fun n s att c e h hs hc ht hne => ?reset, fun n s att c e h hv ho ht => ?invalid,
    fun n s att c e h => ⟨fun hs ho hd hw ht hl => ?zsi, fun hw hq => ?window⟩, fun s => ⟨_, rfl, rfl⟩⟩
  case definite => exact modInst_settles (kinds_sub h (by decide)) (settleDefinite_overcurrent (kind_of_holds h) hc hs (reached_of ht)) (op_ne ho)
  case integral => exact modInst_settles (kinds_sub h (by decide)) (settleIntegral_full hc hs hi) (op_ne ho)
  case voltage => exact modInst_settles (kinds_sub h (by decide)) (settleDefinite_voltage (kind_of_holds h) hc hs (reached_of ht)) (op_ne ho)
  case residual => exact modInst_settles (kinds_sub h (by decide)) (settleDefinite_residual (List.mem_singleton.mp (kind_of_holds h)) hs (reached_of ht)) (op_ne ho)
  case frequency =>
    have hkind := List.mem_singleton.mp (kind_of_holds h)
    have hhold := settleDefinite_frequency_hold hkind hk hon (reached_of ht)
    exact ⟨modInst_settles (kinds_sub h (by decide)) rfl (nec (fun x => (nth x.ph k).hold) fun hx => hh (hx.symm.trans hhold)), settleDefinite_frequency_operates hkind hk hhold⟩
  case reset => exact modInst_settles h (settleReset_due hs hc (reached_of ht)) (cleared_ne hne)
  case invalid => exact modInst_settles h (settleInvalid_due hv ho (decide_eq_true ht)) (timedOut_ne _ ho)
  case zsi => exact modInst_settles h (settleZsi_free hs hd (zsiFree_of_sources (reached_of ht) hw hl)) (op_ne ho)
  case window => exact modInst_settles h (settleWindow_quiet hw hq) (nec ElemSt.tcount (by rw [hw]; exact Nat.zero_ne_one))

end Sys2Proof.Proofs.StageTimers
end

section
/-! ### Timers of the other protection elements (R144, R155, R156, R160, R162, R180, R181, R183) -/

namespace Sys2Proof.Proofs.ElementTimers

open Sys2Proof Sys2Proof.Machine Sys2Proof.Facts.ElementTimers

section
variable {v : Env} {c : InstCfg} {e : ElemSt}

/-! #### Directional memory, inrush, cold load (R144, R155, R156) -/

theorem settleMemory_spent (hm : e.mode = 1) (ht : v.memSpent c e = true) {ph : List PhaseSt} (hph : ph = e.ph.map (fun p => { p with dir := if v.choice c 7 = 1 ∧ p.on = true then 1 else 0 })) :
    v.settleMemory c e = { e with mode := 2, ph := ph, own := dirOwn ph (ownQ e.own) } := by
  subst hph
  exact if_pos ⟨hm, ht⟩

theorem holdSpent_cnt (p : PhaseSt) : (v.holdSpent c p).cnt = p.cnt := by
  rw [Env.holdSpent]
  split <;> rfl

theorem holdSpent_due {p : PhaseSt} (hon : p.on = true) (hh : p.hold ≠ 0) (ht : v.reached p.hold (v.num c 5) = true) : v.holdSpent c p = { p with on := false, hold := 0 } :=
  if_pos ⟨hon, hh, ht⟩

/-- The end of a phase's first cycle. -/
def cycleEnded (p : PhaseSt) : PhaseSt := if p.cnt = 1 then { p with cnt := 0 } else p

theorem cycleEnded_on (p : PhaseSt) : (cycleEnded p).on = p.on := by
  rw [cycleEnded]
  split <;> rfl

theorem cycleEnded_cnt {p : PhaseSt} (h : p.cnt = 1) : (cycleEnded p).cnt = 0 := by
  rw [cycleEnded, if_pos h]

theorem nth_settleInrush_self {i : Nat} (hi : i < e.ph.length) : nth (v.settleInrush c i e).ph i = cycleEnded (v.holdSpent c (nth e.ph i)) :=
  nth_modNth_self hi

theorem nth_settleInrush_ne {i j : Nat} (h : j ≠ i) : nth (v.settleInrush c i e).ph j = nth e.ph j :=
  nth_modNth_ne h.symm

theorem settleInrush_on {i : Nat} (hi : i < e.ph.length) (hon : (nth e.ph i).on = true) (hh : (nth e.ph i).hold ≠ 0) (ht : v.reached (nth e.ph i).hold (v.num c 5) = true) :
    (nth (v.settleInrush c i e).ph i).on = false := by
  rw [nth_settleInrush_self hi, cycleEnded_on, holdSpent_due hon hh ht]

theorem settleInrush_cnt {i : Nat} (hi : i < e.ph.length) (hc : (nth e.ph i).cnt = 1) : (nth (v.settleInrush c i e).ph i).cnt = 0 := by
  rw [nth_settleInrush_self hi, cycleEnded_cnt ((holdSpent_cnt _).trans hc)]

theorem settleArm_due (hm : e.mode = 0) (hn : e.count ≠ 0) (ht : v.reached e.count (v.num c 2) = true) : v.settleArm c e = { e with mode := 1, started := true } :=
  if_pos ⟨hm, hn, ht⟩

theorem settleCold_due (hm : e.mode = 2) (ht : v.reached e.tcount (v.num c 3) = true ∨ (e.rcount ≠ 0 ∧ v.reached e.rcount (v.num c 5) = true)) :
    v.settleCold c e = { e with mode := 0, tcount := 0, rcount := 0, started := false, operate := false } :=
  if_pos ⟨hm, ht⟩

/-! #### Trip logic and breaker failure (R160, R162) -/

theorem settleTrip_clear (ho : e.operate = true) (hin : ∀ r ∈ c.ins.drop 2, v.ref r = false) (ht : v.reached e.count (v.num c 2) = true)
    (hs : v.choice c 3 = 0 ∨ v.ref (c.inp 1) = false ∨ v.ref (c.inp 0) = true) : v.settleTrip c e = { e with operate := false, count := 0, flags := e.flags / 8 * 8 } := by
  have hany : ((c.ins.drop 2).map v.ref).any id = false := by
    rw [List.any_map]
    exact List.any_eq_false.mpr fun r hr => by simp [hin r hr]
  have hclear : v.tripClear c (((c.ins.drop 2).map v.ref).any id) (v.ref (c.inp 1)) (v.ref (c.inp 0)) e = true := by
    rw [hany]
    simpa [Env.tripClear, ht, or_assoc] using hs
  exact if_pos ⟨ho, hclear⟩

theorem settleBf_shot (hs : e.started = true) (hn : e.count ≠ 0) (ht : v.reached e.count (v.num c 4) = true) : (v.settleBf c e).shot = 1 := by
  rw [Env.settleBf, if_pos ⟨hs, hn⟩, ht]
  simp [b2n]

theorem settleBf_operate (hs : e.started = true) (hn : e.count ≠ 0) (ht : v.reached e.count (v.num c 5) = true) : (v.settleBf c e).operate = true := by
  rw [Env.settleBf, if_pos ⟨hs, hn⟩, ht]
  exact Bool.or_true _

theorem settleRetrip_due (hs : e.started = true) (hn : e.count ≠ 0) (ht : v.reached e.count (v.num c 4) = true) : v.settleRetrip c e = bfOwn { e with shot := 1 } := by
  rw [Env.settleRetrip, settleBf_shot hs hn ht]

theorem settleBfTrip_due (hs : e.started = true) (hn : e.count ≠ 0) (ht : v.reached e.count (v.num c 5) = true) : v.settleBfTrip c e = bfOwn { e with operate := true } := by
  rw [Env.settleBfTrip, settleBf_operate hs hn ht]

/-! #### Synchrocheck, trip-circuit supervision, logic timers (R180, R181, R183) -/

theorem settleSync_due (hs : e.started = true) (ht : v.reached e.count (v.num c 8) = true) : v.settleSync c e = { e with operate := !v.lockedOut c 2 } :=
  if_pos ⟨hs, ht⟩

theorem settleTcs_due (hs : e.started = true) (ht : v.reached e.count (v.num c 2) = true) : v.settleTcs c e = { e with operate := true } :=
  if_pos ⟨hs, ht⟩

theorem settleBlank_due (ht : v.reached e.rcount 1 = true) : v.settleBlank e = { e with mode := 0, rcount := 0 } :=
  if_pos ht

section
variable (hn : e.count ≠ 0) (ht : v.reached e.count (v.num c 2) = true)
include hn ht

theorem settleTimer_pickup (hk : c.kind = 0x23) : v.settleTimer c e = { e with operate := true } := by
  simp only [Env.settleTimer, if_neg hn, if_pos ht, hk]

theorem settleTimer_dropoff (hk : c.kind = 0x24) : v.settleTimer c e = { e with operate := false, count := 0 } := by
  simp only [Env.settleTimer, if_neg hn, if_pos ht, hk]

theorem settleTimer_pulse (hk : c.kind = 0x25) : v.settleTimer c e = e := by
  simp only [Env.settleTimer, if_neg hn, if_pos ht, hk]

end
end

/-! #### The statement -/

/-- Settles O19: each row is the one condition of its element's settling; a pulse that has run its time is still 1, so its record stays (R183). -/
theorem elementTimers : Obligations.ElementTimers := by
  refine ⟨fun n s att c e h hm ht ph hph => ?memory, fun n i s att c e h hi => ⟨fun hon hh ht => ?hold, fun hc => ?cycle⟩,
    fun n s att c e h => ⟨fun hm hn ht => ?arm, fun hm ht => ?cold⟩, fun n s att c e h ho hin ht hs => ?trip,
    fun n s att c e h hs hn => ⟨fun hr ht => ?retrip, fun ho ht => ?bfTrip⟩, fun n s att c e h hs ht hne => ?sync,
    fun n s att c e h => ⟨fun hs ho ht => ?alarm, fun hm ht => ?blank⟩, fun n s att c e h hn ht => ⟨fun hk ho => ?pickup, fun hk => ?dropoff, fun hk => ?pulse⟩⟩
  case memory => exact modInst_settles h (settleMemory_spent hm (reached_of ht) hph) (nec ElemSt.mode (by simp [hm]))
  case hold =>
    have hoff := settleInrush_on hi hon hh (reached_of ht)
    exact ⟨modInst_settles h rfl (nec (fun x => (nth x.ph i).on) (by simp [hoff, hon])), hoff, fun j hj => nth_settleInrush_ne hj⟩
  case cycle =>
    have hend := settleInrush_cnt (v := s.env att c) (c := c) hi hc
    exact ⟨modInst_settles h rfl (nec (fun x => (nth x.ph i).cnt) (by simp [hend, hc])), hend⟩
  case arm => exact modInst_settles h (settleArm_due hm hn (reached_of ht)) (nec ElemSt.mode (by simp [hm]))
  case cold => exact modInst_settles h (settleCold_due hm (ht.imp reached_of (And.imp_right reached_of))) (nec ElemSt.mode (by simp [hm]))
  case trip => exact modInst_settles h (settleTrip_clear ho hin (reached_of ht) hs) (nec ElemSt.operate (by simp [ho]))
  case retrip => exact modInst_settles h (settleRetrip_due hs hn (reached_of ht)) (nec ElemSt.shot (Ne.symm hr))
  case bfTrip => exact modInst_settles h (settleBfTrip_due hs hn (reached_of ht)) (nec ElemSt.operate (by simp [bfOwn, ho]))
  case sync => exact modInst_settles h (settleSync_due hs (reached_of ht)) (nec ElemSt.operate (Ne.symm hne))
  case alarm => exact modInst_settles h (settleTcs_due hs (reached_of ht)) (op_ne ho)
  case blank => exact modInst_settles h (settleBlank_due (reached_of ht)) (nec ElemSt.mode (by simp [hm]))
  case pickup => exact modInst_settles h (settleTimer_pickup hn (reached_of ht) hk) (op_ne ho)
  case dropoff => exact modInst_settles h (settleTimer_dropoff hn (reached_of ht) hk) (nec ElemSt.count (Ne.symm hn))
  case pulse => exact modInst_same h (settleTimer_pulse hn (reached_of ht) hk)

end Sys2Proof.Proofs.ElementTimers
end

section
/-! ### Timers of the autoreclose (R165, R168) -/

namespace Sys2Proof.Proofs.AutorecloseTimers

open Sys2Proof Sys2Proof.Machine Sys2Proof.Facts.ElementTimers

section
variable {v : Env} {c : InstCfg} {e : ElemSt}

/-! #### The running timer (R168) -/

/-- In NOT_READY the ticks with the breaker closed are counted (R165). -/
theorem arOut_notReady (hm : e.mode = arNotReady) (ht : v.reached e.rcount (v.num c 11) = true) : v.arOut c e = true := by
  rw [Env.arOut, if_pos hm, Env.arTime, hm]
  exact ht

/-- In every other state the ticks since its entry are counted (R127). -/
theorem arOut_entered {st : Nat} {t : Rat} (hm : e.mode = st) (hst : st ≠ arNotReady) (htime : v.arTime c e = t) (ht : v.reached e.count t = true) : v.arOut c e = true := by
  rw [Env.arOut, if_neg (hm ▸ hst), htime, ht]

theorem arTime_init (hm : e.mode = arInit) : v.arTime c e = v.num c 13 := by rw [Env.arTime, hm]; rfl

theorem arTime_dead (hm : e.mode = arDead) : v.arTime c e = v.deadTime c e := by rw [Env.arTime, hm]; rfl

theorem arTime_syncWait (hm : e.mode = arSyncWait) : v.arTime c e = v.num c 18 := by rw [Env.arTime, hm]; rfl

theorem arTime_closing (hm : e.mode = arClosing) : v.arTime c e = v.num c 12 := by rw [Env.arTime, hm]; rfl

theorem arTime_reclaim (hm : e.mode = arReclaim) : v.arTime c e = v.num c 11 := by rw [Env.arTime, hm]; rfl

/-! #### The moves of the timers (R165) -/

theorem arEnter_ready (e : ElemSt) : arEnter arReady e = { e with mode := arReady, count := 1, shot := 0 } := rfl

/-- Entering a state other than READY and DEAD leaves the shot counter. -/
theorem arEnter_keeps_shot {st : Nat} (e : ElemSt) (hr : st ≠ arReady) (hd : st ≠ arDead) : arEnter st e = { e with mode := st, count := 1 } := by
  rw [arEnter, if_neg hr, if_neg hd]

theorem settleReady_due (hm : e.mode = arNotReady) (ho : v.arOut c e = true) (hl : v.lockedOut c 7 = false) : v.settleReady c e = { e with mode := arReady, count := 1, shot := 0 } :=
  (if_pos ⟨hm, ho, hl⟩).trans (arEnter_ready e)

theorem settleWait_due {st : Nat} (hm : e.mode = st) (ho : v.arOut c e = true) : v.settleWait c st e = { e with mode := arLockout, count := 1 } :=
  (if_pos ⟨hm, ho⟩).trans (arEnter_keeps_shot e (by decide) (by decide))

theorem settleClose_due (hm : e.mode = arClosing) (hopen : v.ref (c.inp 3) = true) (ho : v.arOut c e = true) : v.settleClose c e = { e with mode := arLockout, count := 1 } :=
  (if_pos hopen).trans (settleWait_due hm ho)

/-- The state that follows a dead time: by the shot's setting the synchrocheck is awaited. -/
def afterDead (v : Env) (c : InstCfg) (e : ElemSt) : Nat := if v.choice c (14 + (e.shot - 1)) = 1 then arSyncWait else arClosing

theorem afterDead_cases (v : Env) (c : InstCfg) (e : ElemSt) : afterDead v c e = arSyncWait ∨ afterDead v c e = arClosing := by
  rw [afterDead]
  split
  · exact .inl rfl
  · exact .inr rfl

theorem afterDead_ne {st : Nat} (hs : st ≠ arSyncWait) (hc : st ≠ arClosing) : afterDead v c e ≠ st := by
  rcases afterDead_cases v c e with h | h <;> rw [h]
  · exact hs.symm
  · exact hc.symm

theorem settleDead_due (hm : e.mode = arDead) (ho : v.arOut c e = true) : v.settleDead c e = { e with mode := afterDead v c e, count := 1 } :=
  (if_pos ⟨hm, ho⟩).trans (arEnter_keeps_shot e (afterDead_ne (by decide) (by decide)) (afterDead_ne (by decide) (by decide)))

theorem settleReclaim_due (hm : e.mode = arReclaim) (ho : v.arOut c e = true) : v.settleReclaim c e = { e with mode := arReady, count := 1, shot := 0 } :=
  (if_pos ⟨hm, ho⟩).trans (arEnter_ready e)

theorem settleDisc_due (hn : v.num c 19 ≠ 0) (ht : v.exceeds e.tcount (v.num c 19) = true) : v.settleDisc c e = { e with ph := [nth e.ph 0, { on := true }] } :=
  if_pos (by rw [Env.startLong, ht, decide_eq_true hn, Bool.and_self])

end

/-! #### A move with the nets that follow (R165, R166) -/

/-- A timer that alters a part of the record which the nets' view leaves (the state code, the trip's marks) settles the moved record with its nets. -/
theorem arSettle_settles {s : State} {att : Attempt} {n : Nat} {c : InstCfg} {e e' : ElemSt} {f : Env → InstCfg → ElemSt → ElemSt} {α : Type} (g : ElemSt → α)
    (h : s.holds att n [0x14] c e) (hf : f (s.env att c) c e = e') (hview : g ((s.env att c).arView c e') = g e') (hg : g e' ≠ g e) :
    Settles (.next (s.modInst n [0x14] (Env.arSettle f))) s att ((s.env att c).arView c e') :=
  modInst_settles h (arSettle_of hf (nec g hg)) (nec g (hview ▸ hg))

theorem arSettle_moves {s : State} {att : Attempt} {n st : Nat} (st' : Nat) {c : InstCfg} {e e' : ElemSt} {f : Env → InstCfg → ElemSt → ElemSt}
    (h : s.holds att n [0x14] c e) (hm : e.mode = st) (hf : f (s.env att c) c e = e') (hm' : e'.mode = st') (hne : st' ≠ st) :
    Settles (.next (s.modInst n [0x14] (Env.arSettle f))) s att ((s.env att c).arView c e') :=
  arSettle_settles ElemSt.mode h hf rfl (by rwa [hm', hm])

/-! #### The statement -/

/-- Settles O20: each timer that has run out makes the one move of its state, which changes the state code, and the discrimination marks the trip to come. The record is the one that the running attempt holds (log entry 11); settings and inputs are read by their places (log entry 9). -/
theorem autorecloseTimers : Obligations.AutorecloseTimers := by
  refine fun n s att c e h => ⟨fun hm hl ht => ?ready, fun hm ht => ?openTimeout, fun hm ht => ?dead, fun hm ht => ?sync, fun hm hopen ht => ?close, fun hm ht => ?reclaim,
    fun hoff hn ht => ?disc⟩
  case ready => exact arSettle_moves arReady h hm (settleReady_due hm (arOut_notReady hm (reached_of ht)) hl) rfl (by decide)
  case openTimeout => exact arSettle_moves arLockout h hm (settleWait_due hm (arOut_entered hm (by decide) (arTime_init hm) (reached_of ht))) rfl (by decide)
  case dead => exact arSettle_moves (afterDead (s.env att c) c e) h hm (settleDead_due hm (arOut_entered hm (by decide) (arTime_dead hm) (reached_of ht))) rfl (afterDead_ne (by decide) (by decide))
  case sync => exact arSettle_moves arLockout h hm (settleWait_due hm (arOut_entered hm (by decide) (arTime_syncWait hm) (reached_of ht))) rfl (by decide)
  case close => exact arSettle_moves arLockout h hm (settleClose_due hm hopen (arOut_entered hm (by decide) (arTime_closing hm) (reached_of ht))) rfl (by decide)
  case reclaim => exact arSettle_moves arReady h hm (settleReclaim_due hm (arOut_entered hm (by decide) (arTime_reclaim hm) (reached_of ht))) rfl (by decide)
  case disc => exact arSettle_settles (fun x => (nth x.ph 1).on) h (settleDisc_due hn (decide_eq_true ht)) rfl (by rw [hoff]; exact Bool.noConfusion)

end Sys2Proof.Proofs.AutorecloseTimers
end

section
/-! ### The line differential's holdover limit, the fault locator, the persistent latch (R173, R178, R179, R182, R184) -/

namespace Sys2Proof.Proofs.ZoneLocatorLatch

open Sys2Proof Sys2Proof.Machine Sys2Proof.Facts.ElementTimers

section
variable {v : Env} {c : InstCfg} {e : ElemSt}

/-! #### The holdover limit (R173) -/

theorem settleHoldLimit_due (hm : e.mode = 0) (hs : ∃ k < v.ends c, srcKind (v.endSrc c k) = 2) (hp : ∃ p ∈ e.ph.drop 3, v.holdLimit c p = true) :
    v.settleHoldLimit c e = { zoneOwn { e with mode := 2 } 0 with valid := false } := by
  obtain ⟨k, hk, hsrc⟩ := hs
  have hstream : (List.range (v.ends c)).any (fun k => decide (srcKind (v.endSrc c k) = 2)) = true := List.any_eq_true.mpr ⟨k, List.mem_range.mpr hk, decide_eq_true hsrc⟩
  exact if_pos ⟨hm, hstream, List.any_eq_true.mpr hp⟩

/-! #### The fault locator (R178, R179) -/

theorem settleLoc_running (hm : e.mode ≠ 0) : settleLoc e = locOwn { e with mode := 0, operate := true, shot := e.mode } := if_neg hm

theorem settleTw_unmatched (hr : e.rcount ≠ 0) (ht : v.reached e.rcount (60 / 1000) = true) : v.settleTw e = locOwn { e with flags := 0, rcount := 0 } := if_pos ⟨hr, ht⟩

end

/-! #### The values kept across power cycles (R182, R184) -/

/-- The latch no longer waits for its write. -/
def latchDone (nv : NonVol) (n : Nat) : NonVol := { nv with latchDirty := nv.latchDirty.filter (fun m => m ≠ n) }

theorem not_mem_latchDone (nv : NonVol) (n : Nat) : n ∉ (latchDone nv n).latchDirty := by simp [latchDone]

section
variable {s : State} {n : Nat} {c : InstCfg} {e : ElemSt} (hn : n ∈ s.nv.latchDirty) (hm : s.dm.mramFail = false)
  (hc : s.sch.cfg.insts.find? (fun c => c.num = n) = some c) (he : s.pe.els.find? (fun e => e.num = n) = some e)
include hn hm hc he

theorem latchWrite_nv : (s.latchWrite n).nv =
    if c.kind = 0x1A then { latchDone s.nv n with wear := insertKey s.nv.wear c.name ((List.range 3).map (fun i => e.z.getD i 0), e.shot) }
    else { latchDone s.nv n with latches := insertKey s.nv.latches c.name e.operate } := by
  have hgo : ¬(n ∉ s.nv.latchDirty ∨ s.dm.mramFail = true) := by simp [hn, hm]
  rw [State.latchWrite, if_neg hgo, he, hc]
  rfl

theorem latchWrite_wear (hk : c.kind = 0x1A) :
    (s.latchWrite n).nv = { latchDone s.nv n with wear := insertKey s.nv.wear c.name ((List.range 3).map (fun i => e.z.getD i 0), e.shot) } :=
  (latchWrite_nv hn hm hc he).trans (if_pos hk)

theorem latchWrite_latch (hk : c.kind ≠ 0x1A) : (s.latchWrite n).nv = { latchDone s.nv n with latches := insertKey s.nv.latches c.name e.operate } :=
  (latchWrite_nv hn hm hc he).trans (if_neg hk)

theorem latchWrite_clean : n ∉ (s.latchWrite n).nv.latchDirty := by
  by_cases hk : c.kind = 0x1A
  · rw [latchWrite_wear hn hm hc he hk]
    exact not_mem_latchDone s.nv n
  · rw [latchWrite_latch hn hm hc he hk]
    exact not_mem_latchDone s.nv n

end

theorem lookupD_insertKey_same {α : Type} (l : List (Nat × α)) (k : Nat) (v d : α) : lookupD (insertKey l k v) k d = v := by
  rw [lookupD_insertKey, if_pos rfl]

/-! #### The statement -/

/-- Settles O21: a zone at its holdover limit blocks, a location that runs is published, arrivals that found no match leave no result, and a changed value goes to the store of its kind. The records are those that the running attempt holds (log entry 11), settings are read by their places (log entry 9), and kept values stand under the instance's name (log entry 73). -/
theorem zoneLocatorLatch : Obligations.ZoneLocatorLatch := by
  refine ⟨fun n s att c e h hm hs ⟨p, hp, ht⟩ => ?holdover, fun n s att c e h => ⟨fun hm => ?location, fun hr ht => ?unmatched⟩, fun n s c e hn hm hc he => ⟨_, rfl, ?latch⟩⟩
  case holdover => exact modInst_settles h (settleHoldLimit_due hm hs ⟨p, hp, decide_eq_true ht⟩) (nec ElemSt.mode (by rw [hm]; exact two_ne_zero))
  case location => exact modInst_settles h (settleLoc_running hm) (nec ElemSt.mode (Ne.symm hm))
  case unmatched => exact modInst_settles h (settleTw_unmatched hr (reached_of ht)) (nec ElemSt.rcount (Ne.symm hr))
  case latch =>
    refine ⟨latchWrite_clean hn hm hc he, fun hk => ?_, fun hk => ?_⟩
    · rw [latchWrite_wear hn hm hc he hk]
      exact ⟨lookupD_insertKey_same _ _ _ _, rfl⟩
    · rw [latchWrite_latch hn hm hc he hk]
      exact ⟨lookupD_insertKey_same _ _ _ _, rfl⟩

end Sys2Proof.Proofs.ZoneLocatorLatch
end

section
/-! ### Comparators of the fast path (R187-R194, R425) -/

namespace Sys2Proof.Proofs.Comparators

open Sys2Proof Sys2Proof.Machine Sys2Proof.Facts.FastRoutes

/-! #### One code judged by a comparator of mode 0, 1 or 2 (R187-R191, R193) -/

/-- The earlier codes that count: those of the channel that the configuration names. -/
def earlier (w : Word) (x : CmpSt) : List Int := if x.ch = cfgCh w then x.prev else []

/-- A comparator's record as the judgement of a good code finds it, where nothing else disqualifies it. -/
def ready (w : Word) (x : CmpSt) : CmpSt := { x with codeBad := false, ch := cfgCh w, prev := earlier w x, qualified := true, reason := 0 }

/-- The code completes the assert condition (R189). -/
def rises (w : Word) (met : Bool) (x : CmpSt) : Bool := !x.asserted && met && decide (needed w ≤ x.count + 1)

/-- The code ends the hold (R190). -/
def falls (hold : Nat) (met : Bool) (x : CmpSt) : Bool := x.asserted && !met && decide (hold ≤ x.idle + 1)

/-- The count is cleared by a code that fails the condition (R190), and such a code asserts nothing. -/
theorem rises_of_count (w : Word) (met : Bool) (x : CmpSt) : (!x.asserted && met && decide (needed w ≤ if met then x.count + 1 else 0)) = rises w met x := by
  cases met
  · simp [rises]
  · rfl

theorem falls_of_idle (hold : Nat) (met : Bool) (x : CmpSt) :
    (x.asserted && !met && decide (hold ≤ if x.asserted && !met then x.idle + 1 else 0)) = falls hold met x := by
  rw [falls]
  cases x.asserted && !met
  · rfl
  · rfl

/-- The record with an arrival, where one has been captured (R191). -/
def captured (a : Option Arrival) (x : CmpSt) : CmpSt := { x with arr := a <|> x.arr, fresh := a.isSome || x.fresh }

/-- The record after a code whose judgement is `met` (R189, R190). -/
def judged (w : Word) (hold : Nat) (met : Bool) (k : CodeIn) (x : CmpSt) : CmpSt :=
  let on := (x.asserted && !falls hold met x) || rises w met x
  { x with
    asserted := on, count := min (if met then x.count + 1 else 0) 32, idle := if on then (if x.asserted && !met then x.idle + 1 else 0) else 0
    seen := x.seen || on, ops := if rises w met x then satInc 65535 x.ops else x.ops, prev := (k.code :: x.prev).take 9, prevT := k.t }

theorem sur_symm {s t : State} (h : Sur s t) : Sur t s := by
  obtain ⟨h1, h2, h3, h4, h5, h6, h7, h8⟩ := h
  exact ⟨h1.symm, h2.symm, h3.symm, h4.symm, h5.symm, h6.symm, h7.symm, h8.symm⟩

theorem sur_length {s t : State} (h : Sur s t) {c : Nat} (hc : c < s.fst.cmp.length) : c < t.fst.cmp.length := by
  obtain ⟨-, -, -, -, -, -, -, hlen⟩ := h
  exact hlen.symm ▸ hc

theorem cmpK_ite {c : Nat} {s t u : State} {p : Prop} [Decidable p] (ht : CmpK c s t) (hu : CmpK c s u) : CmpK c s (if p then t else u) := by
  split
  · exact ht
  · exact hu

/-- Without a bad code the channel of the codes held does not bear on the reason (R193). -/
theorem plainReason_goodCode {s t : State} {c : Nat} (h : Sur s t) (hs : (s.cmp c).codeBad = false) (ht : (t.cmp c).codeBad = false)
    (hd : (t.cmp c).disarmed = (s.cmp c).disarmed) : t.plainReason c = s.plainReason c := by
  obtain ⟨-, -, hflt, -, hlock, hsrc, -⟩ := id h
  simp only [State.plainReason, State.word, h.cfg, hs, ht, hd, hflt, hlock, hsrc, Bool.false_and]

/-- A capture gives the record an arrival and nothing else; where there is none, the record stays. -/
theorem capture_captured {s : State} {c : Nat} (hc : c < s.fst.cmp.length) (p : Prop) [Decidable p] (x : Int) (t : Nat) :
    ∃ a : Option Arrival, (p → a.isSome = true) ∧ (if p then s.capture c x t else s).cmp c = captured a (s.cmp c) ∧ Sur s (if p then s.capture c x t else s) := by
  by_cases h : p
  · obtain ⟨y, hy, hs⟩ := capture_cmp s c x t hc
    simp only [h, if_true]
    exact ⟨some y, fun _ => rfl, hy, hs⟩
  · simp only [h, if_false]
    exact ⟨none, False.elim, rfl, .rfl⟩

/-- The state in which a comparator judges a code: the code noted, the qualification set (R193). -/
def offered (s : State) (c : Nat) (k : CodeIn) : State :=
  let t := s.modCmp c (fun x => { x with codeBad := !k.ok || k.blanked, ch := cfgCh (s.cmpCfg c), prev := earlier (s.cmpCfg c) x })
  t.qualify c (t.plainReason c)

theorem offered_sur (s : State) (c : Nat) (k : CodeIn) : Sur s (offered s c k) := (sur_modCmp ..).trans (qualify_sur ..)

section
variable {s : State} {c : Nat} {k : CodeIn} (hc : c < s.fst.cmp.length) (hok : k.ok = true) (hbl : k.blanked = false)
  (hq : (s.modCmp c (fun x => { x with codeBad := false })).plainReason c = 0)
include hc hok hbl hq

theorem plainReason_offered {prev : CmpSt → List Int} :
    (s.modCmp c (fun x => { x with codeBad := !k.ok || k.blanked, ch := cfgCh (s.cmpCfg c), prev := prev x })).plainReason c = 0 := by
  refine (plainReason_goodCode ((sur_symm (sur_modCmp s c _)).trans (sur_modCmp s c _)) ?_ ?_ ?_).trans hq
  · rw [modCmp_eq s c _ hc]
  · rw [modCmp_eq s c _ hc, hok, hbl]
    rfl
  · rw [modCmp_eq s c _ hc, modCmp_eq s c _ hc]

theorem offered_cmp : (offered s c k).cmp c = ready (s.cmpCfg c) (s.cmp c) := by
  rw [offered, qualify_cmp, modCmp_eq _ c _ (sur_length (sur_modCmp s c _) hc), plainReason_offered hc hok hbl hq, modCmp_eq s c _ hc, hok, hbl]
  rfl

variable {met : Bool} (hen : cfgEn (s.cmpCfg c) = true) (hmode : cfgMode (s.cmpCfg c) ≠ 3)
  (hmet : sampleMet (s.cmpCfg c) k.code (earlier (s.cmpCfg c) (s.cmp c)) (s.thrG c) = met)
include hen hmode hmet

/-- What follows the judgement of a code is the operating point and the arc comparators that name this one. -/
theorem feedCode_cmp : ∃ a : Option Arrival, (rises (s.cmpCfg c) met (s.cmp c) = true → cfgMode (s.cmpCfg c) = 2 → a.isSome = true) ∧
    (s.feedCode c k).cmp c = judged (s.cmpCfg c) (s.cmpHold c) met k (captured a (ready (s.cmpCfg c) (s.cmp c))) := by
  unfold State.feedCode
  extract_lets w was s1 reason s2 o t met' cnt rise idle fall on s3 s4 s5
  rw [if_neg (by simp [w, hen, hmode])]
  have hsur : Sur s s2 := offered_sur s c k
  have ho : o = ready w (s.cmp c) := offered_cmp hc hok hbl hq
  have hmet' : met' = met := by
    show (decide (reason = 0) && sampleMet w k.code o.prev (s2.thrG c)) = met
    rw [show reason = 0 from plainReason_offered hc hok hbl hq, ho, hsur.thr]
    exact hmet
  have hrise : rise = rises w met (s.cmp c) := by
    simp only [rise, cnt, hmet', ho]
    exact rises_of_count w met (ready w (s.cmp c))
  have hfall : fall = falls (s.cmpHold c) met (s.cmp c) := by
    simp only [fall, idle, hmet', ho, hsur.hold]
    exact falls_of_idle (s.cmpHold c) met (ready w (s.cmp c))
  obtain ⟨a, ha, hcap, hs3⟩ := capture_captured (sur_length hsur hc) ((rise && decide (cfgMode w = 2)) = true) k.code t
  have hs4 : s4.cmp c = judged w (s.cmpHold c) met k (captured a (ready w (s.cmp c))) := by
    have hs3 : c < s3.fst.cmp.length := sur_length (hsur.trans hs3) hc
    have hx3 : s3.cmp c = captured a (ready w (s.cmp c)) := hcap.trans (congrArg _ ho)
    rw [modCmp_eq s3 c _ hs3, hx3]
    simp only [on, idle, cnt, hrise, hfall, hmet', ho]
    cases a
    · rfl
    · rfl
  have h5 : CmpK c s4 s5 := cmpK_ite (raise_ck c s4) .rfl
  have hmode5 : cfgMode (s5.cmpCfg c) ≠ 3 := by
    rw [(((hsur.trans hs3).trans (sur_modCmp s3 c _)).trans h5.2).cfg]
    exact hmode
  have hend := cmpK_ite (p := (rise || fall || decide (was ≠ reason)) = true) (h5.trans (arcFollow_ck s5 c c hmode5)) h5
  exact ⟨a, fun hr hm => ha (by simp [hrise, w, hr, hm]), hend.1.trans hs4⟩

/-- One code offered to a channel, as a comparator that names the channel judges it (R187, log entry 150). -/
theorem feed_cmp (hlt : c < 64) : ∃ a : Option Arrival, (rises (s.cmpCfg c) met (s.cmp c) = true → cfgMode (s.cmpCfg c) = 2 → a.isSome = true) ∧
    (s.feed c [k]).cmp c = judged (s.cmpCfg c) (s.cmpHold c) met k (captured a (ready (s.cmpCfg c) (s.cmp c))) := by
  obtain ⟨u, ⟨hx, hu⟩, hfeed⟩ := feedChannel_cmp s c k hlt hmode
  have hcu : c < u.fst.cmp.length := sur_length hu hc
  have hqu : (u.modCmp c (fun x => { x with codeBad := false })).plainReason c = 0 := by
    refine (plainReason_goodCode ((sur_symm (sur_modCmp s c _)).trans (hu.trans (sur_modCmp u c _))) ?_ ?_ ?_).trans hq
    · rw [modCmp_eq s c _ hc]
    · rw [modCmp_eq u c _ hcu]
    · rw [modCmp_eq u c _ hcu, modCmp_eq s c _ hc, hx]
  obtain ⟨a, ha, hcode⟩ := feedCode_cmp hcu hok hbl hqu (met := met) (by rwa [hu.cfg]) (by rwa [hu.cfg]) (by rwa [hu.cfg, hx, hu.thr])
  rw [hu.cfg, hu.hold, hx] at hcode
  rw [hu.cfg, hx] at ha
  refine ⟨a, ha, ?_⟩
  rw [State.feed, if_neg (by simp [hen, hmode])]
  exact hfeed.trans hcode

end

theorem rises_met {w : Word} {x : CmpSt} (hx : x.asserted = false) (hn : needed w ≤ x.count + 1) : rises w true x = true := by simp [rises, hx, hn]

theorem judged_rise {w : Word} {hold : Nat} {k : CodeIn} {x : CmpSt} (hx : x.asserted = false) (hn : needed w ≤ x.count + 1) :
    judged w hold true k x = { x with
      asserted := true, count := min (x.count + 1) 32, idle := 0, seen := true, ops := satInc 65535 x.ops, prev := (k.code :: x.prev).take 9, prevT := k.t } := by
  simp [judged, rises_met hx hn, hx]

theorem judged_unmet {w : Word} {hold : Nat} {k : CodeIn} {x : CmpSt} (hx : x.asserted = true) :
    judged w hold false k x = { x with
      asserted := !decide (hold ≤ x.idle + 1), count := 0, idle := if hold ≤ x.idle + 1 then 0 else x.idle + 1
      seen := x.seen || !decide (hold ≤ x.idle + 1), prev := (k.code :: x.prev).take 9, prevT := k.t } := by
  by_cases h : hold ≤ x.idle + 1 <;> simp [judged, rises, falls, hx, h]

/-! #### The two inputs of an arc comparator (R192) -/

theorem length_seenNow (s : State) : s.seenNow.fst.cmp.length = 64 := by simp [State.seenNow, State.modFst]

theorem seenNow_windows (s : State) {c : Nat} (hlt : c < 64) : (s.seenNow.cmp c).lightWin = (s.cmp c).lightWin ∧ (s.seenNow.cmp c).curWin = (s.cmp c).curWin := by
  rw [seenNow_cmp s hlt]
  exact ⟨rfl, rfl⟩

/-- An arc comparator is qualified by its current comparator and by its light input alone (R193). -/
theorem cmpReason_arc {s t : State} {c : Nat} (hm : cfgMode (s.cmpCfg c) = 3) (hregs : t.regs = s.regs) (hfio : t.fio = s.fio)
    (hp : t.plainReason (cfgCur (s.cmpCfg c)) = s.plainReason (cfgCur (s.cmpCfg c))) : t.cmpReason c = s.cmpReason c := by
  have hcfg : t.cmpCfg c = s.cmpCfg c := by rw [State.cmpCfg, State.cmpCfg, State.reg, State.reg, hregs]
  have hvalid (n : Nat) : t.diValid n = s.diValid n := by rw [State.diValid, State.diValid, hfio]
  have hfast (n : Nat) : t.diFast n = s.diFast n := by rw [State.diFast, State.diFast, State.reg, State.reg, hregs]
  simp only [State.cmpReason, hcfg, hm, if_true, hp, hvalid, hfast]

/-- A light input under its new level, what was asserted before noted (R192, R198). -/
def lightSet (s : State) (n : Nat) (on : Bool) : State := s.seenNow.modFst (fun x => { x with lights := x.lights.set n on })

theorem length_lightSet (s : State) (n : Nat) (on : Bool) : (lightSet s n on).fst.cmp.length = 64 := length_seenNow s

theorem plainReason_lightSet (s : State) (n : Nat) (on : Bool) {x : Nat} (hx : x < 64) : (lightSet s n on).plainReason x = s.plainReason x := by
  have hcmp : (lightSet s n on).cmp x = _ := seenNow_cmp s hx
  simp only [State.plainReason, hcmp]
  rfl

/-- With its current still counting as active, a qualified arc comparator asserts at its light (R192). -/
theorem arcJudge_asserts {s : State} {c : Nat} (hc : c < s.fst.cmp.length) (hen : cfgEn (s.cmpCfg c) = true) (hq : s.cmpReason c = 0)
    (hcur : (s.cmp c).curWin = true) (hwin : s.arcWin c ≠ 0) (hlight : s.arcLight c = true) :
    ((s.arcJudge c).cmp c).asserted = true ∧ ((s.arcJudge c).cmp c).lightWin = true := by
  unfold State.arcJudge
  extract_lets keep t cur
  have hst : Sur s t := qualify_sur ..
  have hct : c < t.fst.cmp.length := sur_length hst hc
  have hx : (t.cmp c).qualified = true ∧ (t.cmp c).curWin = true := by
    simp only [t, qualify_cmp, modCmp_eq s c _ hc, hq, hcur, decide_true, and_self]
  rw [arcEval_eq _ c (sur_length (sur_modCmp t c _) hct), modCmp_eq t c _ hct, (hst.trans (sur_modCmp t c _)).cfg]
  simp [hx, hst.light, hlight, hen, keep, hwin]

/-- The light comes while the current counts as active (R192). -/
theorem lightLevel_asserts {s : State} {c : Nat} (hlt : c < 64) (hen : cfgEn (s.cmpCfg c) = true) (hm : cfgMode (s.cmpCfg c) = 3)
    (hl : cfgLight (s.cmpCfg c) < s.fst.lights.length) (hq : s.cmpReason c = 0) (hcur : (s.cmp c).curWin = true) (hwin : s.arcWin c ≠ 0) :
    ((s.lightLevel c true).cmp c).asserted = true ∧ (s.lightLevel c true).arcLight c = true ∧ ((s.lightLevel c true).cmp c).lightWin = true := by
  obtain ⟨u, hu, hsame, hx, hend, hleft⟩ := lightLevel_cmp s c true hlt hen hm
  have hu : Sur (lightSet s (cfgLight (s.cmpCfg c)) true) u := hu
  obtain ⟨hregs, -, -, hfio, -, -, -, hlen⟩ := id hu
  obtain ⟨hbad, hch, hdis⟩ := hsame (cfgCur (s.cmpCfg c))
  have hcu : c < u.fst.cmp.length := (hlen.trans (length_lightSet ..)).symm ▸ hlt
  have hqu : u.cmpReason c = 0 :=
    (cmpReason_arc hm hregs hfio ((plain_of hu _ hbad hch hdis).trans (plainReason_lightSet s _ true (Facts.HingePairs.bits_lt _ 21 16)))).trans hq
  have hlight : u.arcLight c = true := (hu.light c).trans (nth_set_self hl)
  have hcur : (u.cmp c).curWin = true := by rw [hx, (seenNow_windows s hlt).2, hcur]
  obtain ⟨hon, hlw⟩ := arcJudge_asserts hcu ((congrArg cfgEn (hu.cfg c)).trans hen) hqu hcur (by rw [hu.win]; exact hwin) hlight
  rw [hend, hleft.light, (arcJudge_sur u c).light]
  exact ⟨hon, hlight, hlw⟩

/-- An input that no longer counts as active releases the arc comparator (R192). -/
theorem arcEval_releases {s : State} {c : Nat} (hc : c < s.fst.cmp.length) (h : (s.cmp c).lightWin = false ∨ (s.cmp c).curWin = false) :
    ((s.arcEval c).cmp c).asserted = false ∧ ((s.arcEval c).cmp c).lightWin = (s.cmp c).lightWin ∧ ((s.arcEval c).cmp c).curWin = (s.cmp c).curWin := by
  rw [arcEval_eq s c hc]
  refine ⟨?_, rfl, rfl⟩
  rcases h with h | h <;> simp [h]

/-- A window ends: one input, which `f` names, no longer counts as active (R192). -/
def windowEnd (s : State) (c : Nat) (f : CmpSt → CmpSt) : State := ((s.seenNow.modCmp c f).arcEval c).fastSettle

theorem windowEnd_cmp {s : State} {c : Nat} {f : CmpSt → CmpSt} (hlt : c < 64) (h : (f (s.seenNow.cmp c)).lightWin = false ∨ (f (s.seenNow.cmp c)).curWin = false) :
    ((windowEnd s c f).cmp c).asserted = false ∧ ((windowEnd s c f).cmp c).lightWin = (f (s.seenNow.cmp c)).lightWin ∧
      ((windowEnd s c f).cmp c).curWin = (f (s.seenNow.cmp c)).curWin := by
  have hc : c < s.seenNow.fst.cmp.length := (length_seenNow s).symm ▸ hlt
  have hx := modCmp_eq s.seenNow c f hc
  rw [windowEnd, settle_cmp, ← hx]
  exact arcEval_releases (sur_length (sur_modCmp s.seenNow c f) hc) (hx.symm ▸ h)

theorem arcExpiry_light {s : State} {c : Nat} (hm : cfgMode (s.cmpCfg c) = 3) (hl : s.arcLight c = false) :
    s.arcExpiry c true = windowEnd s c (fun y => { y with lightWin := false }) := by
  simp [State.arcExpiry, windowEnd, hm, hl]

theorem arcExpiry_current {s : State} {c : Nat} (hm : cfgMode (s.cmpCfg c) = 3) (hcur : (s.cmp (cfgCur (s.cmpCfg c))).asserted = false) :
    s.arcExpiry c false = windowEnd s c (fun y => { y with curWin := false }) := by
  simp [State.arcExpiry, windowEnd, hm, hcur]

/-! #### The statement -/

/-- Settles O22: a good code is judged by the comparator that it is offered to as if it were alone (log entry 150 offers it to every comparator that names the channel), and an arc comparator follows what counts as active of its two inputs. -/
theorem comparators : Obligations.Comparators := by
  refine ⟨fun c k light p s hlt hc hen hm hq hok hbl hx hp hmet hn => ?assert, fun c k p s hlt hc hen hm hq hok hbl hx hp hmet => ?hold,
    fun c codes s hlt hc hl hen hm hq hcur hwin => ?light, fun c s hlt hc hm => ⟨fun hl => ?lightEnd, fun hcur => ?currentEnd⟩⟩
  case assert =>
    subst hp
    obtain ⟨a, ha, hj⟩ := feed_cmp hc hok hbl hq hen hm hmet hlt
    refine ⟨_, congrArg Host.Outcome.next (if_neg hm), ?_⟩
    dsimp only
    rw [hj, judged_rise (x := captured a (ready (s.cmpCfg c) (s.cmp c))) hx hn]
    refine ⟨rfl, rfl, rfl, rfl, rfl, fun hm2 => ?_⟩
    obtain ⟨y, rfl⟩ := Option.isSome_iff_exists.mp (ha (rises_met hx hn) hm2)
    exact ⟨rfl, rfl⟩
  case hold =>
    subst hp
    obtain ⟨a, -, hj⟩ := feed_cmp hc hok hbl hq hen hm hmet hlt
    refine ⟨_, rfl, ?_⟩
    dsimp only
    rw [hj, judged_unmet (x := captured a (ready (s.cmpCfg c) (s.cmp c))) hx]
    exact ⟨rfl, rfl, rfl, rfl⟩
  case light => exact ⟨_, congrArg Host.Outcome.next (if_pos hm), lightLevel_asserts hlt hen hm hl hq hcur hwin⟩
  case lightEnd =>
    refine ⟨_, congrArg Host.Outcome.next (arcExpiry_light hm hl), ?_⟩
    obtain ⟨hoff, hlight, hcurrent⟩ := windowEnd_cmp (s := s) (f := fun y => { y with lightWin := false }) hlt (.inl rfl)
    exact ⟨hoff, hlight, hcurrent.trans (seenNow_windows s hlt).2⟩
  case currentEnd =>
    refine ⟨_, congrArg Host.Outcome.next (arcExpiry_current hm hcur), ?_⟩
    obtain ⟨hoff, hlight, hcurrent⟩ := windowEnd_cmp (s := s) (f := fun y => { y with curWin := false }) hlt (.inr rfl)
    exact ⟨hoff, hcurrent, hlight.trans (seenNow_windows s hlt).1⟩

end Sys2Proof.Proofs.Comparators
end

section
/-! ### Express intertrips and writes of FAST settings (R199, R200, R205, R345, R346) -/

namespace Sys2Proof.Proofs.ExpressAndFastConfig

open Sys2Proof Sys2Proof.Machine Sys2Proof.Facts.FastRoutes

/-! #### A received pair (R200, R345, R346) -/

/-- A received pair counted and forwarded, whatever its code. -/
def forwarded (s : State) (p : Nat) (a b : LaneIn) : State := (s.countPair p a b).relayPair p a b

theorem relayPair_other (s : State) (p : Nat) (a b : LaneIn) :
    (s.relayPair p a b).fst = s.fst ∧ (s.relayPair p a b).pwr = s.pwr ∧ (s.relayPair p a b).chn.addr = s.chn.addr := by
  unfold State.relayPair
  split
  · exact ⟨rfl, rfl, rfl⟩
  · exact ⟨rfl, rfl, rfl⟩

theorem forwarded_other (s : State) (p : Nat) (a b : LaneIn) :
    (forwarded s p a b).fst = s.fst ∧ (forwarded s p a b).pwr = s.pwr ∧ (forwarded s p a b).chn.addr = s.chn.addr := relayPair_other (s.countPair p a b) p a b

theorem expressIn_own {s : State} {p code : Nat} {a b : LaneIn} (hp : (nth s.chn.ports p).st = .up) (hc : expressCode a b = some code) (ha : code / 4 = s.chn.addr) :
    (s.expressIn p a b).fst = s.fst := by
  obtain ⟨hfst, -, haddr⟩ := forwarded_other s p a b
  rw [State.expressIn, if_neg (not_not_intro hp), hc]
  exact (congrArg State.fst (if_pos (ha.trans haddr.symm))).trans hfst

/-- A passing copy of another unit's code: beside it only a record comes before the routes settle. -/
theorem expressIn_other {s : State} {p code : Nat} {a b : LaneIn} (hp : (nth s.chn.ports p).st = .up) (hc : expressCode a b = some code) (ha : code / 4 ≠ s.chn.addr) :
    ∃ t : State, t.fst = ((forwarded s p a b).copyCame code).fst ∧ s.expressIn p a b = t.fastSettle := by
  obtain ⟨-, -, haddr⟩ := forwarded_other s p a b
  rw [State.expressIn, if_neg (not_not_intro hp), hc]
  refine ⟨_, ?_, if_neg (fun h => ha (h.trans haddr))⟩
  split
  · exact stageTick_fst ..
  · rfl

theorem copyCame_fst (s : State) (code : Nat) :
    code ∈ (s.copyCame code).fst.x ∧ (∀ y ∈ s.fst.x, y ∈ (s.copyCame code).fst.x) ∧ (s.copyCame code).fst.cmp = s.fst.cmp ∧
      lookupD (s.copyCame code).fst.xAge code (3, 0) = (0, s.pwr.ot) := by
  have hx : (s.copyCame code).fst.x = if code ∈ s.fst.x then s.fst.x else code :: s.fst.x := rfl
  rw [hx]
  refine ⟨?_, fun y hy => ?_, rfl, (lookupD_insertKey ..).trans (if_pos rfl)⟩
  · split
    · assumption
    · exact List.mem_cons_self
  · split
    · exact hy
    · exact List.mem_cons_of_mem _ hy

theorem fastSettle_fst (s : State) : s.fastSettle.fst.cmp = s.fst.cmp ∧ s.fastSettle.fst.x = s.fst.x ∧ s.fastSettle.fst.xAge = s.fst.xAge := by
  obtain ⟨hcmp, hx, -⟩ := fk_settle s
  exact ⟨hcmp, hx, settle_age s⟩

/-! #### A code that no copy renews (R200) -/

theorem expressTimeout_stale {s : State} {code : Nat} (h : s.codeStale code = true) :
    s.expressTimeout code = (s.modFst (fun x => { x with x := x.x.filter (fun y => y ≠ code), xAge := x.xAge.filter (fun e => e.1 ≠ code) })).fastSettle := if_pos h

theorem expressTimeout_renewed {s : State} {code : Nat} (h : s.codeStale code = false) : s.expressTimeout code = s := if_neg (by simp [h])

/-! #### Writes of FAST settings (R205) -/

/-- The writable bits of a value (R9). -/
def written (a : Nat) (v : Word) : Word := v &&& BitVec.ofNat 32 (fastMask a)

section
variable {s : State} {a key : Nat} (hk : s.fastKey a = some key)
include hk

theorem fastKey_range : a = 0x2804 ∨ a = 0x2808 ∨ a = 0x280C ∨ (((0x2880 ≤ a ∧ a < 0x28C0) ∨ (0x2900 ≤ a ∧ a < 0x2A50)) ∧ a % 4 = 0) := by
  rw [State.fastKey] at hk
  split at hk
  case isTrue h => omega
  case isFalse =>
    split at hk
    case isTrue h =>
      split at hk
      case isTrue h4 => exact .inr (.inr (.inr ⟨h, h4⟩))
      case isFalse => cases hk
    case isFalse => cases hk

theorem exec_fastCfgWrite {cls : KeyClass} {v : Word} (hf : isFast a = true) (hw : s.mayWrite cls a) (hsel : a ≠ 0x2800) :
    exec (.fastCfgWrite cls a v) s = .next (s.writeFast a v).1 := by
  have hrange := fastKey_range hk
  have hblock : a / 0x400 = 10 := by omega
  obtain ⟨r, hr, hm⟩ := fast_target a (by omega) (by omega) hrange
  refine congrArg Host.Outcome.next ?_
  rw [if_pos hf, write_applies hw hr hm, State.applyReg, hblock]
  simp only [State.applyFst, hsel, if_false]

theorem writeFast_refused {v : Word} (h : s.fastCheck a (written a v) ≠ 0) :
    (s.writeFast a v).1 = (s.modFst (fun x => { x with result := s.fastCheck a (written a v) })).stageTick 0x00B6 1
      (b1 (s.fastCheck a (written a v)) ++ zeros 3 ++ b8 s.pwr.ot) := by
  rw [State.writeFast, hk]
  exact congrArg Prod.fst (if_pos h)

theorem writeFast_taken {v : Word} (h : s.fastCheck a (written a v) = 0) :
    (s.writeFast a v).1 = ((s.deferReg key (written a v)).store key (written a v)).modFst (fun x => { x with result := 1 }) := by
  rw [State.writeFast, hk]
  exact congrArg Prod.fst (if_neg (not_not_intro h))

/-- A refused write leaves its reason and a record. -/
theorem fastCfgWrite_refused {cls : KeyClass} {v : Word} (hf : isFast a = true) (hw : s.mayWrite cls a) (hsel : a ≠ 0x2800) (h : s.fastCheck a (written a v) ≠ 0) :
    Leads (exec (.fastCfgWrite cls a v) s) fun t => t.fst.result = s.fastCheck a (written a v) ∧ t.defer = s.defer ∧ t.regs = s.regs ∧ t.nv = s.nv := by
  refine ⟨_, exec_fastCfgWrite hk hf hw hsel, ?_⟩
  dsimp only
  rw [writeFast_refused hk h, stageTick_fst, stageTick_defer, stageTick_regs, stageTick_nv]
  exact ⟨rfl, rfl, rfl, rfl⟩

end

/-- A write that touches what is asserted is refused for that before anything else (R205). -/
theorem fastCheck_asserted {s : State} {a : Nat} {v : Word} (h : s.fastAsserted a v = true) : s.fastCheck a v = 3 := if_pos h

theorem regSeen_stored (s : State) (k : Nat) (v : Word) : ((s.deferReg k v).store k v).regSeen k = v := by
  rw [State.regSeen, State.reg, store_defer, store_regs]
  exact regSeen_defer s k v

theorem ovr_stored {s : State} (hm : s.dm.mramFail = false) (k : Nat) (v : Word) : ((s.deferReg k v).store k v).nv.ovr = insertKey s.nv.ovr k v := by
  simp [State.store, hm]

/-! #### The statement -/

/-- Settles O23: a passing code is asserted from its first copy on and ages anew from each, a stale one falls, and a write of a FAST setting is checked in the order of R205. That a code not yet stale stays is log entry 1; the comparator that a check finds absent is log entry 17. -/
theorem expressAndFastConfig : Obligations.ExpressAndFastConfig := by
  refine ⟨fun p code a b s hp hup hc => ⟨fun ha => ?other, fun ha => ?own⟩, fun code s => ⟨fun h => ?stale, fun h => ?renewed⟩,
    fun cls a key v s hf hw hsel hk => ⟨fun h => ?asserted, fun h => ?refused, fun h => ?taken⟩⟩
  case other =>
    obtain ⟨t, ht, hin⟩ := expressIn_other hup hc ha
    obtain ⟨hfst, hpwr, -⟩ := forwarded_other s p a b
    obtain ⟨hcmp, hx, hage⟩ := fastSettle_fst t
    obtain ⟨hset, hkept, hsame, hnew⟩ := copyCame_fst (forwarded s p a b) code
    refine ⟨_, congrArg Host.Outcome.next hin, ?_⟩
    dsimp only
    rw [hx, hcmp, hage, ht, ← hfst, ← hpwr]
    exact ⟨hset, hkept, hsame, hnew⟩
  case own => exact ⟨_, rfl, expressIn_own hup hc ha⟩
  case stale =>
    refine ⟨_, congrArg Host.Outcome.next (expressTimeout_stale h), ?_⟩
    obtain ⟨hcmp, hx, -⟩ := fastSettle_fst (s.modFst (fun x => { x with x := x.x.filter (fun y => y ≠ code), xAge := x.xAge.filter (fun e => e.1 ≠ code) }))
    rw [hx, hcmp]
    exact ⟨fun y => by simp, rfl⟩
  case renewed => exact congrArg Host.Outcome.next (expressTimeout_renewed h)
  case asserted =>
    have hc : s.fastCheck a (written a v) = 3 := fastCheck_asserted h
    have hr := fastCfgWrite_refused hk hf hw hsel (v := v) (by omega)
    rwa [hc] at hr
  case refused => exact fastCfgWrite_refused hk hf hw hsel h
  case taken =>
    refine ⟨_, exec_fastCfgWrite hk hf hw hsel, ?_⟩
    rw [writeFast_taken hk h]
    refine ⟨?_, regSeen_stored s key (written a v), ?_, fun hm => ?_⟩
    · rw [modFst_fst, store_fst]
      rfl
    · rw [modFst_regs, store_regs]
      rfl
    · rw [modFst_nv, ovr_stored hm]
      exact (lookupD_insertKey ..).trans (if_pos rfl)

end Sys2Proof.Proofs.ExpressAndFastConfig
end

section
/-! ### Jobs submitted, refused and cancelled (R235, R238, R290, R348, R398, R399, R400, R402) -/

namespace Sys2Proof.Proofs.JobSubmission

open Sys2Proof Sys2Proof.Machine Sys2Proof.Facts.HostPort Sys2Proof.Facts.SchemeJobs

/-! #### The commands that submit a job (R399) -/

/-- The eleven jobs of R399, each with its code. -/
def submissions (cls : KeyClass) (arg : Nat) : List (Instr × Nat) :=
  [(.imageLoad cls arg, 1), (.imageActivation cls arg, 2), (.templateActivation cls arg, 3), (.ledgerCommission cls arg, 4), (.ledgerClear cls arg, 5), (.captureExport cls arg, 6),
    (.pairSelfTest cls arg, 7), (.foregroundAfeCalibration cls arg, 8), (.chainRewalk cls arg, 9), (.mramScrub cls arg, 10), (.breakerWearReset cls arg, 11)]

theorem submissions_spec {cls : KeyClass} {arg : Nat} {p : Instr × Nat} (hp : p ∈ submissions cls arg) (s : State) : exec p.1 s = .next (s.submitJob cls p.2 arg) ∧ 0 < p.2 ∧ p.2 < 12 := by
  simp only [submissions, List.mem_cons, List.not_mem_nil, or_false] at hp
  rcases hp with rfl | rfl | rfl | rfl | rfl | rfl | rfl | rfl | rfl | rfl | rfl <;> exact ⟨rfl, by simp, by simp⟩

theorem exec_submission {cls : KeyClass} {arg : Nat} {p : Instr × Nat} {s : State} (hp : p ∈ submissions cls arg) (hw : s.mayWrite cls 0x1000) (ha : arg < 65536) :
    exec p.1 s = .next (s.submit cls p.2 arg).1 := by
  obtain ⟨hexec, hpos, hlt⟩ := submissions_spec hp s
  rw [hexec, submit_eq hw p.2 arg (by omega) ha (by omega), if_neg (by omega)]

/-! #### Acceptance (R398, R400) -/

/-- A job as it begins: outstanding under the next ticket, with what its block takes, its ticket shown to the class. -/
def begun (s : State) (cls : KeyClass) (code arg : Nat) : State := ((s.addJob cls code arg).jobBegins code arg s.job.next).setTicket cls s.job.next 1

theorem submit_accepted {s : State} {cls : KeyClass} {code arg : Nat} (h : s.jobRefusal cls code arg = 0) : (s.submit cls code arg).1 = begun s cls code arg := by
  simp only [State.submit, h, ne_eq, not_true_eq_false, if_false]
  rfl

theorem begun_job (s : State) (cls : KeyClass) (code arg : Nat) :
    (begun s cls code arg).job = { s.job with out := s.job.out ++ [{ ticket := s.job.next, code := code, arg := arg, cls := cls, step := 0 }], next := ticketNext s.job.next, tickets := s.job.tickets.set (clsIx cls) (s.job.next, 1) } := by
  have hjob := begins_job (s.addJob cls code arg) code arg s.job.next
  have hset : (begun s cls code arg).job = { ((s.addJob cls code arg).jobBegins code arg s.job.next).job with tickets := ((s.addJob cls code arg).jobBegins code arg s.job.next).job.tickets.set (clsIx cls) (s.job.next, 1) } := rfl
  rw [hset, hjob]
  rfl

/-- A load takes its slot and its length (R235). -/
theorem begun_load (s : State) (cls : KeyClass) (arg : Nat) :
    (begun s cls 1 arg).sch.phase = 1 ∧ (begun s cls 1 arg).sch.ldSlot = bitsOf (s.reg 0x2414) 24 24 ∧ (begun s cls 1 arg).sch.ldLen = bitsOf (s.reg 0x2414) 20 0 ∧ (begun s cls 1 arg).sch.chunk = 0 :=
  ⟨rfl, rfl, rfl, rfl⟩

/-- An accepted activation, of an image or of a template, waits for its reference tick (R238). -/
theorem actAccepted_sch (s : State) (img : Bool) (ticket : Nat) :
    (s.actAccepted img ticket).sch.act = .accepted ∧ (s.actAccepted img ticket).sch.actResult = 1 ∧ (s.actAccepted img ticket).sch.actTicket = ticket ∧ (s.actAccepted img ticket).sch.actImage = img := by
  unfold State.actAccepted
  dsimp only
  split
  · rw [push_sch]
    exact ⟨rfl, rfl, rfl, rfl⟩
  · exact ⟨rfl, rfl, rfl, rfl⟩

theorem begun_activation (s : State) (cls : KeyClass) {code : Nat} (arg : Nat) (hc : code = 2 ∨ code = 3) :
    (begun s cls code arg).sch.act = .accepted ∧ (begun s cls code arg).sch.actResult = 1 ∧ (begun s cls code arg).sch.actTicket = s.job.next ∧ (begun s cls code arg).sch.actImage = decide (code = 2) := by
  rcases hc with rfl | rfl
  · exact actAccepted_sch (s.addJob cls 2 arg) true s.job.next
  · exact actAccepted_sch (s.addJob cls 3 arg) false s.job.next

/-- A capture's slot is leased to the ticket (R290). -/
theorem begun_lease (s : State) (cls : KeyClass) {arg : Nat} (ha : arg < s.cap.slots.length) : (nth (begun s cls 6 arg).cap.slots arg).lease = some s.job.next :=
  congrArg CapSlot.lease (modSlot_nth (s.addJob cls 6 arg) arg (fun k => { k with lease := some s.job.next }) ha)

/-- A walk falls due in the mode of its argument (R348). -/
theorem begun_walk (s : State) (cls : KeyClass) (arg : Nat) : (begun s cls 9 arg).chn.walkDue = true ∧ (begun s cls 9 arg).chn.walkMode = arg := ⟨rfl, rfl⟩

/-! #### Refusal (R400) -/

theorem submit_refused {s : State} {cls : KeyClass} {code arg : Nat} (h : s.jobRefusal cls code arg ≠ 0) :
    (s.submit cls code arg).1.job = { s.job with tickets := s.job.tickets.set (clsIx cls) (0, s.jobRefusal cls code arg) } := by
  simp only [State.submit, if_pos h]
  have hset : ∀ (u : State) r, (u.setTicket cls 0 r).job = { u.job with tickets := u.job.tickets.set (clsIx cls) (0, r) } := fun _ _ => rfl
  rw [hset, show_job]

/-! #### Cancel (R399, R402) -/

theorem exec_jobCancel {s : State} {cls : KeyClass} {n : Nat} (hw : s.mayWrite cls 0x1000) (hn : n < 65536) : exec (.jobCancel cls n) s = .next (s.cancel cls n).1 :=
  congrArg Host.Outcome.next ((submit_eq hw 0xFF n (by decide) hn (by decide)).trans (if_pos rfl))

section
variable {s : State} {cls : KeyClass} {n : Nat}

theorem cancel_unknown (hf : s.job.out.find? (fun j => j.ticket = n) = none) : (s.cancel cls n).1 = s.setTicket cls n 1 := by
  rw [State.cancel, hf]

variable {j : Job} (hf : s.job.out.find? (fun j => j.ticket = n) = some j)
include hf

theorem cancel_foreign (hc : j.cls ≠ cls) (hin : s.classIn cls 1 = false) : (s.cancel cls n).1 = s.setTicket cls 0 2 := by
  simp [State.cancel, hf, hc, hin]

variable (hc : j.cls = cls ∨ s.classIn cls 1 = true)
include hc

theorem cancel_own : (s.cancel cls n).1 = if s.cancellable j = false then s.setTicket cls 0 8 else (s.stopJob j).setTicket cls n 1 := by
  have hmay : (decide (j.cls = cls) || s.classIn cls 1) = true := by simpa using hc
  simp only [State.cancel, hf, hmay, Bool.not_true, Bool.false_eq_true, if_false, Bool.not_eq_true']
  split <;> rfl

theorem cancel_late (hcan : s.cancellable j = false) : (s.cancel cls n).1 = s.setTicket cls 0 8 := (cancel_own hf hc).trans (if_pos hcan)

theorem cancel_ends (hcan : s.cancellable j = true) : (s.cancel cls n).1 = (s.stopJob j).setTicket cls n 1 := (cancel_own hf hc).trans (if_neg (by simp [hcan]))

end

/-- The jobs that R399 lets end are those that a stop knows. -/
theorem code_of_cancellable {s : State} {j : Job} (h : s.cancellable j = true) : j.code ∈ [1, 2, 3, 6, 7, 8, 10] := by
  simp only [State.cancellable, Bool.or_eq_true, Bool.and_eq_true, decide_eq_true_eq, List.mem_cons, List.not_mem_nil, or_false] at h ⊢
  omega

/-- Stopping a job undoes what its block began, which touches no job, and ends it: a lease as done, every other job as cancelled. -/
theorem stopJob_ends {s : State} {j : Job} (h : s.cancellable j = true) :
    ∃ u : State, u.job = s.job ∧ s.stopJob j = u.endJob j.ticket (if j.code = 6 then jobDone else jobCancelled) 0 := by
  have keep {u : State} (hu : Keeps [.causes, .irq, .ring, .cap, .trip, .dm, .afe, .flt, .pe, .sch, .mram] s u) : u.job = s.job := hu.same (p := .job) (by decide)
  have hc := code_of_cancellable h
  unfold State.stopJob
  simp only [List.mem_cons, List.not_mem_nil, or_false] at hc
  rcases hc with hc | hc | hc | hc | hc | hc | hc <;> rw [hc]
  · exact ⟨_, keep (keeps_loadCancelled rfl (Keeps.refl _ s)), rfl⟩
  · exact ⟨_, keep (keeps_actCancelled rfl (Keeps.refl _ s)), rfl⟩
  · exact ⟨_, keep (keeps_actCancelled rfl (Keeps.refl _ s)), rfl⟩
  · exact ⟨_, keep (keeps_endLease _ rfl (Keeps.refl _ s)), rfl⟩
  · exact ⟨_, keep (keeps_bistCancel _ rfl (Keeps.refl _ s)), rfl⟩
  · exact ⟨_, keep (keeps_reconnectAll rfl (Keeps.refl _ s)), rfl⟩
  · exact ⟨s, rfl, rfl⟩

theorem cancelled_job {s : State} {cls : KeyClass} {n : Nat} {j : Job} (hf : s.job.out.find? (fun j => j.ticket = n) = some j) (hcan : s.cancellable j = true) :
    ((s.stopJob j).setTicket cls n 1).job.out = s.job.out.filter (fun j => j.ticket ≠ n) ∧ ((s.stopJob j).setTicket cls n 1).job.tickets = s.job.tickets.set (clsIx cls) (n, 1) ∧
      ((s.stopJob j).setTicket cls n 1).job.hist = (({ ticket := n, state := if j.code = 6 then jobDone else jobCancelled, reason := 0 } : JobEnd) :: s.job.hist).take 16 := by
  obtain ⟨u, hu, hstop⟩ := stopJob_ends hcan
  have hn : j.ticket = n := find_ticket hf
  obtain ⟨hout, hhist, htickets⟩ := endJob_job u n (if j.code = 6 then jobDone else jobCancelled) 0 j (hu ▸ hf)
  rw [hstop, hn]
  rw [hu] at hout hhist htickets
  exact ⟨hout, congrArg (fun l => l.set (clsIx cls) (n, 1)) htickets, hhist⟩

/-! #### The statement -/

/-- Settles O24: a submission and a cancel are writes of JOB_SUBMIT, each read off the one case that the refusal or the outstanding job selects. That a cancel of a ticket that is not outstanding counts as accepted is log entry 107; the reasons of a refusal rest on log entries 109 to 112 and 151. -/
theorem jobSubmission : Obligations.JobSubmission := by
  refine ⟨fun cls arg s hw ha p hp => ⟨fun h => ?accepted, fun h => ?refused⟩, fun cls n s hw hn => ⟨fun hf => ?unknown, fun j hf => ⟨fun hc hin => ?foreign, fun hc hcan => ?late, fun hc hcan => ?ends⟩⟩⟩
  case accepted =>
    refine ⟨begun s cls p.2 arg, (exec_submission hp hw ha).trans (congrArg Host.Outcome.next (submit_accepted h)), begun_job s cls p.2 arg, ?_, begun_activation s cls arg, ?_, ?_⟩
    · exact fun hc => hc ▸ begun_load s cls arg
    · exact fun hc hlt => hc ▸ begun_lease s cls hlt
    · exact fun hc => hc ▸ begun_walk s cls arg
  case refused => exact ⟨_, exec_submission hp hw ha, submit_refused h⟩
  case unknown => exact ⟨_, (exec_jobCancel hw hn).trans (congrArg Host.Outcome.next (cancel_unknown hf)), rfl⟩
  case foreign => exact ⟨_, (exec_jobCancel hw hn).trans (congrArg Host.Outcome.next (cancel_foreign hf hc hin)), rfl⟩
  case late => exact ⟨_, (exec_jobCancel hw hn).trans (congrArg Host.Outcome.next (cancel_late hf hc hcan)), rfl⟩
  case ends => exact ⟨_, (exec_jobCancel hw hn).trans (congrArg Host.Outcome.next (cancel_ends hf hc hcan)), cancelled_job hf hcan⟩

end Sys2Proof.Proofs.JobSubmission
end

section
/-! ### Anchor frames, the hinge activation's messages, handover and wire faults (R240, R366, R369, R372, R377, R378, R381) -/

namespace Sys2Proof.Proofs.AnchorsAndHandover

open Sys2Proof Sys2Proof.Machine Sys2Proof.Facts.HingePairs

/-! #### Anchor frames (R369, R372) -/

theorem frameIn_unhinged {s : State} (l : List Word) (absent : Bool) (h : s.hinged = false) : s.frameIn l absent = s := by
  simp [State.frameIn, h]

section
variable {s : State} {l : List Word} {absent : Bool} (hh : s.hinged = true)
include hh

/-- An absent frame and one that fails its check are counted. -/
theorem frameIn_bad (h : absent = true ∨ frameOk l = false) : s.frameIn l absent = s.modHng (fun x => { x with crcFail := satInc 255 x.crcFail }) := by
  have hbad : (absent || !frameOk l) = true := by simpa using h
  simp [State.frameIn, hh, hbad]

/-- A good anchor frame waits for the next tick of a unit that takes anchors. -/
theorem frameIn_anchor (habs : absent = false) (hok : frameOk l = true) (hkind : bitsOf (nth l 0) 23 16 = 1) (ht : s.takesAnchors = true) : s.frameIn l absent = s.modHng (fun x => { x with frame := some l }) := by
  simp [State.frameIn, hh, habs, hok, hkind, ht]

end

theorem adopt_none {s : State} (n : Nat) (h : s.hng.frame = none) : s.adopt n = s := by
  rw [State.adopt, h]

/-- The frame that waits is taken out. -/
def frameTaken (s : State) : State := s.modHng (fun h => { h with frame := none })

theorem takesAnchors_frameTaken (s : State) : (frameTaken s).takesAnchors = s.takesAnchors := rfl

theorem adopt_dropped {s : State} (n : Nat) (hf : s.hng.frame ≠ none) (ht : s.takesAnchors = false) : s.adopt n = frameTaken s := by
  obtain ⟨l, hl⟩ := Option.ne_none_iff_exists'.mp hf
  have htaken := (takesAnchors_frameTaken s).trans ht
  rw [State.adopt, hl]
  exact if_pos (by simp [← htaken, frameTaken])

/-- An adopted frame puts its items into the records of the scheme's instances and leaves every other record. -/
theorem adopt_taken {s : State} (n : Nat) (hf : s.hng.frame ≠ none) (ht : s.takesAnchors = true) :
    ∃ u : State, AdK (frameTaken s) u ∧ s.adopt n = u.modHng (fun h => { h with anchors := (h.anchors + 1) % 65536, adopted := some u.pwr.ot }) := by
  obtain ⟨l, hl⟩ := Option.ne_none_iff_exists'.mp hf
  have htaken := (takesAnchors_frameTaken s).trans ht
  rw [State.adopt, hl]
  refine ⟨_, adopt_items _ _ _ _ ⟨rfl, rfl, rfl, rfl, fun _ _ => rfl, fun _ _ _ => rfl⟩ _, if_neg ?_⟩
  simp [← htaken, frameTaken]

/-! #### The activation's messages (R240) -/

theorem activateOrder_ignored {s : State} (g : Nat) (h : s.hinged = false ∨ s.sys.st ≠ .standby ∨ s.sch.act ≠ .idle) : s.activateOrder g = s := by
  have hno : ¬(s.hinged ∧ s.sys.st = .standby ∧ s.sch.act = .idle) := fun ⟨hh, hst, hact⟩ => by simp [hh, hst, hact] at h
  unfold State.activateOrder
  split
  · exact if_neg hno
  · rfl

/-- The standby prepares the ordered generation from the slot that holds it. -/
theorem activateOrder_taken {s : State} {g k : Nat} (hh : s.hinged = true) (hst : s.sys.st = .standby) (hact : s.sch.act = .idle)
    (hf : (List.range 2).find? (fun k => s.hallSet k && s.hallOk k && decide (field (s.slotImage k) 0x10 4 = g) && (s.checkImage (s.slotImage k) (s.slotLen k)).isNone) = some k) :
    s.activateOrder g = s.modSch (fun x => { x with act := .accepted, actCfg := schemeOf (s.slotImage k), actImage := true, actIx := k, actTicket := 0, actHinge := true, actResult := 1 }) := by
  rw [State.activateOrder, hf]
  exact if_pos ⟨hh, hst, hact⟩

theorem readyReport_taken {s : State} (ha : s.sch.actHinge = true) (hst : s.sys.st = .inService) : s.readyReport = s.modHng (fun h => { h with readyIn := true }) := if_pos ⟨ha, hst⟩

theorem readyReport_ignored {s : State} (h : s.sch.actHinge = false ∨ s.sys.st ≠ .inService) : s.readyReport = s :=
  if_neg fun ⟨ha, hst⟩ => h.elim (fun hn => by simp [hn] at ha) (fun hn => hn hst)

/-! #### HNG_CTL (R377, R381) -/

/-- dig_tol is stored unless it is 0. -/
def toleranceWritten (s : State) (v : Word) : State := if bitsOf v 17 8 = 0 then s else s.setStored 0x4400 (pack [(8, 10, bitsOf v 17 8)])

/-- HNG_CTL as written: the tolerance, then the request. -/
def ctlWritten (s : State) (v : Word) : State := if bitAt v 0 = true then (toleranceWritten s v).requestHandover else toleranceWritten s v

section
variable {s : State} {cls : KeyClass} (v : Word) (hw : s.mayWrite cls 0x4400)
include hw

theorem exec_handoverWrite : exec (.handoverWrite cls v) s = .next (s.writeHngCtl v).1 := by
  obtain ⟨r, hr, hm⟩ := tgthng
  exact congrArg Host.Outcome.next (write_applies hw hr hm)

theorem handoverWrite_unhinged (hh : s.hinged = false) : exec (.handoverWrite cls v) s = .next s := by
  rw [exec_handoverWrite v hw]
  simp [State.writeHngCtl, hh]

theorem handoverWrite_hinged (hh : s.hinged = true) : exec (.handoverWrite cls v) s = .next (ctlWritten s v) := by
  rw [exec_handoverWrite v hw]
  by_cases hz : bitsOf v 17 8 = 0 <;> simp [State.writeHngCtl, ctlWritten, toleranceWritten, hh, hz]

end

/-- The tolerance changes its register and what is restored of it, no more. -/
theorem toleranceWritten_keeps (s : State) (v : Word) : Keeps [.nv, .regs] s (toleranceWritten s v) :=
  Keeps.opt (Keeps.refl _ s) (keeps_setStored _ _ rfl (Keeps.refl _ s))

theorem requestHandover_keeps (u : State) : Keeps [.hng, .free] u u.requestHandover := keeps_requestHandover rfl (Keeps.refl _ u)

theorem reg_toleranceWritten (s : State) (v : Word) {k : Nat} (hk : k ≠ 0x4400) : (toleranceWritten s v).reg k = s.reg k := by
  unfold toleranceWritten
  split
  · rfl
  · rw [reg_setStored, if_neg hk.symm]

/-- What a handover asks of the unit and of its peer. -/
theorem toleranceWritten_same (s : State) (v : Word) :
    (toleranceWritten s v).hng = s.hng ∧ (toleranceWritten s v).sys = s.sys ∧ (toleranceWritten s v).hinged = s.hinged ∧ (toleranceWritten s v).peerSrc = s.peerSrc ∧ (toleranceWritten s v).tripAsserted = s.tripAsserted := by
  have hk := toleranceWritten_keeps s v
  have hsys : (toleranceWritten s v).sys = s.sys := by
    unfold toleranceWritten
    split
    · rfl
    · exact setStored_sys ..
  have hsch : (toleranceWritten s v).sch = s.sch := hk.same (p := .sch) (by decide)
  have hchn : (toleranceWritten s v).chn = s.chn := hk.same (p := .chn) (by decide)
  refine ⟨hk.same (p := .hng) (by decide), hsys, ?_, ?_, ?_⟩
  · rw [State.hinged, hsch, State.hinged]
  · rw [State.peerSrc, State.src, State.hingeCfg, hsch, hchn]
    rfl
  · exact trip_congr (fun k hlt => reg_toleranceWritten s v (by omega)) hsys (hk.same (p := .fst) (by decide)) (hk.same (p := .fio) (by decide)) hsch

theorem ctlWritten_regs {s : State} {v : Word} : (ctlWritten s v).regs = (toleranceWritten s v).regs ∧ (ctlWritten s v).nv = (toleranceWritten s v).nv := by
  have hk : Keeps [.hng, .free] (toleranceWritten s v) (ctlWritten s v) := Keeps.opt (requestHandover_keeps _) (Keeps.refl _ _)
  exact ⟨hk.same (p := .regs) (by decide), hk.same (p := .nv) (by decide)⟩

section
variable {u : State} (hh : u.hinged = true)
include hh

theorem hingeRole_active : u.hingeRole = 1 ↔ u.sys.st = .inService := by
  by_cases hst : u.sys.st = .inService
  · simp [State.hingeRole, hh, hst]
  · simp only [State.hingeRole, hh, hst, Bool.not_true, Bool.false_eq_true, if_false, iff_false]
    split
    · decide
    · split <;> decide

/-- A unit that is not active, or already on its way out, refuses with 5. -/
theorem requestHandover_inactive (h : u.sys.st ≠ .inService ∨ u.hng.leaving ≠ none) : u.requestHandover = u.modHng (fun x => { x with hoResult := 5 }) := by
  have hno : u.hingeRole ≠ 1 ∨ u.hng.leaving ≠ none := h.imp_left (mt (hingeRole_active hh).mp)
  simp only [State.requestHandover, hh, Bool.not_true, Bool.false_eq_true, if_false, if_pos hno]

variable (hst : u.sys.st = .inService) (hl : u.hng.leaving = none)
include hst hl

theorem not_inactive : ¬(u.hingeRole ≠ 1 ∨ u.hng.leaving ≠ none) := by
  simp [(hingeRole_active hh).mpr hst, hl]

/-- An asserted trip refuses with 3. -/
theorem requestHandover_tripped (ht : u.tripAsserted = true) : u.requestHandover = u.modHng (fun x => { x with hoResult := 3 }) := by
  simp only [State.requestHandover, hh, Bool.not_true, Bool.false_eq_true, if_false, if_neg (not_inactive hh hst hl), if_pos ht]

/-- A peer that is no standby refuses with 4. -/
theorem requestHandover_peerless (ht : u.tripAsserted = false) (hp : u.peerSrc.present = false ∨ u.peerSrc.state ≠ 4) : u.requestHandover.hng = { u.hng with hoResult := 4 } := by
  have hno : (u.peerSrc.present && decide (u.peerSrc.state = 4) && (Config.freeWord u.free).getLsbD 0) = false := by
    rcases hp with hp | hp <;> simp [hp]
  simp only [State.requestHandover, hh, Bool.not_true, Bool.false_eq_true, if_false, if_neg (not_inactive hh hst hl), ht, hno]
  rfl

end

section
variable {s : State} {v : Word}

theorem ctlWritten_requested (hv : bitAt v 0 = true) : ctlWritten s v = (toleranceWritten s v).requestHandover := if_pos hv

theorem ctlWritten_unrequested (hv : bitAt v 0 = false) : (ctlWritten s v).hng = s.hng := by
  obtain ⟨hhng, -⟩ := toleranceWritten_same s v
  rw [ctlWritten, if_neg (by simp [hv]), hhng]

theorem ctlWritten_zero (hz : bitsOf v 17 8 = 0) : (ctlWritten s v).regs = s.regs ∧ (ctlWritten s v).nv = s.nv := by
  obtain ⟨hregs, hnv⟩ := ctlWritten_regs (s := s) (v := v)
  rw [hregs, hnv, toleranceWritten, if_pos hz]
  exact ⟨rfl, rfl⟩

theorem ctlWritten_tolerance (hz : bitsOf v 17 8 ≠ 0) : (ctlWritten s v).reg 0x4400 = pack [(8, 10, bitsOf v 17 8)] := by
  obtain ⟨hregs, -⟩ := ctlWritten_regs (s := s) (v := v)
  have hreg : (ctlWritten s v).reg 0x4400 = (toleranceWritten s v).reg 0x4400 := congrArg (fun l => lookupD l 0x4400 (regDefault 0x4400)) hregs
  rw [hreg, toleranceWritten, if_neg hz, reg_setStored, if_pos rfl]

variable (hh : s.hinged = true) (hv : bitAt v 0 = true)
include hh hv

theorem ctlWritten_inactive (h : s.sys.st ≠ .inService ∨ s.hng.leaving ≠ none) : (ctlWritten s v).hng = { s.hng with hoResult := 5 } := by
  obtain ⟨hhng, hsys, hhin, -⟩ := toleranceWritten_same s v
  rw [ctlWritten_requested hv, requestHandover_inactive (hhin.trans hh) (by rwa [hsys, hhng]), State.modHng, hhng]

variable (hst : s.sys.st = .inService) (hl : s.hng.leaving = none)
include hst hl

theorem ctlWritten_tripped (ht : s.tripAsserted = true) : (ctlWritten s v).hng = { s.hng with hoResult := 3 } := by
  obtain ⟨hhng, hsys, hhin, -, htrip⟩ := toleranceWritten_same s v
  rw [ctlWritten_requested hv, requestHandover_tripped (hhin.trans hh) (by rw [hsys, hst]) (by rw [hhng, hl]) (htrip.trans ht), State.modHng, hhng]

theorem ctlWritten_peerless (ht : s.tripAsserted = false) (hp : s.peerSrc.present = false ∨ s.peerSrc.state ≠ 4) : (ctlWritten s v).hng = { s.hng with hoResult := 4 } := by
  obtain ⟨hhng, hsys, hhin, hpeer, htrip⟩ := toleranceWritten_same s v
  rw [ctlWritten_requested hv, requestHandover_peerless (hhin.trans hh) (by rw [hsys, hst]) (by rw [hhng, hl]) (htrip.trans ht) (by rwa [hpeer]), hhng]

end

/-! #### Handover messages (R377) -/

theorem handoverIn_standby {s : State} (hh : s.hinged = true) (hst : s.sys.st = .standby) : s.handoverIn = s.pushFrame 5 [] := if_pos ⟨hh, hst⟩

theorem handoverIn_ignored {s : State} (hst : s.sys.st ≠ .standby) : s.handoverIn = s := if_neg fun h => hst h.2

theorem handoverAck_taken {s : State} (h : s.hng.hoResult = 1) : s.handoverAck = s.modHng (fun x => { x with hoAck := true }) := if_pos h

theorem handoverAck_ignored {s : State} (h : s.hng.hoResult ≠ 1) : s.handoverAck = s := if_neg h

theorem handoverTimeout_due {s : State} (h : s.hng.hoResult = 1) (ha : s.hng.hoAck = false) : s.handoverTimeout = s.modHng (fun x => { x with hoResult := 6 }) := if_pos ⟨h, ha⟩

theorem handoverTimeout_ignored {s : State} (h : s.hng.hoResult ≠ 1 ∨ s.hng.hoAck = true) : s.handoverTimeout = s :=
  if_neg fun ⟨hr, ha⟩ => h.elim (fun hn => hn hr) (fun hn => by simp [hn] at ha)

/-! #### Wire faults (R378) -/

/-- Three cycles that disagree make a wire fault, told once. -/
theorem wireFaultSet_found {s : State} (hh : s.hinged = true) (hst : s.sys.st = .standby) (hd : 3 ≤ s.hng.differ) :
    s.wireFaultSet.hng = { s.hng with wireFault := true } ∧ s.wireFaultSet.sys.st = .standby := by
  unfold State.wireFaultSet
  split
  · rw [stage_hng, stage_sys_st]
    exact ⟨rfl, hst⟩
  · next hno =>
    have hwf : s.hng.wireFault = true := by
      cases h : s.hng.wireFault
      · exact absurd ⟨hh, hst, hd, h⟩ hno
      · rfl
    exact ⟨by rw [← hwf], hst⟩

theorem wireFaultSet_few {s : State} (hd : s.hng.differ < 3) : s.wireFaultSet = s := if_neg fun ⟨_, _, h, _⟩ => absurd h (by omega)

theorem wireFaultClear_agreeing {s : State} (h : s.hng.differ = 0) : s.wireFaultClear = s.modHng (fun x => { x with wireFault := false }) := if_pos h

theorem wireFaultClear_ignored {s : State} (h : s.hng.differ ≠ 0) : s.wireFaultClear = s := if_neg h

/-! #### The statement -/

/-- Settles O43: each message acts in its own condition alone, where another leaves the module as it is by log entry 1 (HNG_CTL of a unit not hinged among them), and a handover is refused for the first reason of R377 that stands. -/
theorem anchorsAndHandover : Obligations.AnchorsAndHandover := by
  refine ⟨fun l a s => ⟨fun hh => ?unhinged, fun hh hbad => ?bad, fun hh ha hok hk ht => ?anchor⟩, fun s => ⟨fun hf => ?noFrame, fun hf ht => ?dropped, fun hf ht => ?adopted⟩,
    fun g s h => ?noOrder, fun g k s hh hst hact hf => ?order, fun s => ⟨fun ha hst => ?ready, fun h => ?notReady⟩,
    fun cls v s hw => ⟨fun hh => ?ctlUnhinged, fun hh => ?ctlHinged⟩, fun s => ⟨fun hh hst => ?request, fun hst => ?noRequest, fun h => ?ack, fun h => ?noAck, fun h ha => ?timeout, fun h => ?noTimeout⟩,
    fun s hh hst hd => ?fault, fun s hd => ?noFault, fun s => ⟨fun h => ?clear, fun h => ?noClear⟩, fun s => rfl⟩
  case unhinged => exact congrArg Host.Outcome.next (frameIn_unhinged l a hh)
  case bad => exact congrArg Host.Outcome.next (frameIn_bad hh hbad)
  case anchor => exact congrArg Host.Outcome.next (frameIn_anchor hh ha hok hk ht)
  case noFrame => exact congrArg Host.Outcome.next (adopt_none 1 hf)
  case dropped => exact congrArg Host.Outcome.next (adopt_dropped 1 hf ht)
  case adopted =>
    obtain ⟨u, ⟨hhng, -, hpwr, hlen, -, hels⟩, hu⟩ := adopt_taken 1 hf ht
    refine ⟨_, congrArg Host.Outcome.next hu, ?_, hlen, hels⟩
    rw [State.modHng, hhng, hpwr]
    rfl
  case noOrder => exact congrArg Host.Outcome.next (activateOrder_ignored g h)
  case order => exact ⟨_, congrArg Host.Outcome.next (activateOrder_taken hh hst hact hf), rfl, rfl⟩
  case ready => exact congrArg Host.Outcome.next (readyReport_taken ha hst)
  case notReady => exact congrArg Host.Outcome.next (readyReport_ignored h)
  case ctlUnhinged => exact handoverWrite_unhinged v hw hh
  case ctlHinged =>
    exact ⟨_, handoverWrite_hinged v hw hh, ctlWritten_zero, ctlWritten_tolerance, ctlWritten_unrequested, ctlWritten_inactive hh, fun hv hst hl => ctlWritten_tripped hh hv hst hl,
      fun hv hst hl => ctlWritten_peerless hh hv hst hl⟩
  case request => exact congrArg Host.Outcome.next (handoverIn_standby hh hst)
  case noRequest => exact congrArg Host.Outcome.next (handoverIn_ignored hst)
  case ack => exact congrArg Host.Outcome.next (handoverAck_taken h)
  case noAck => exact congrArg Host.Outcome.next (handoverAck_ignored h)
  case timeout => exact congrArg Host.Outcome.next (handoverTimeout_due h ha)
  case noTimeout => exact congrArg Host.Outcome.next (handoverTimeout_ignored h)
  case fault => exact ⟨_, rfl, wireFaultSet_found hh hst hd⟩
  case noFault => exact congrArg Host.Outcome.next (wireFaultSet_few hd)
  case clear => exact congrArg Host.Outcome.next (wireFaultClear_agreeing h)
  case noClear => exact congrArg Host.Outcome.next (wireFaultClear_ignored h)

end Sys2Proof.Proofs.AnchorsAndHandover
end

section
/-! ### Chunks, setting groups, template parameters and structural activations (R211, R236-R239, R241) -/

namespace Sys2Proof.Proofs.SchemeCommands

open Sys2Proof Sys2Proof.Machine Sys2Proof.Facts.FrontEnd Sys2Proof.Facts.HingePairs Sys2Proof.Facts.SchemeJobs

/-! #### Chunks of a load (R236) -/

/-- The chunk's number as XFER_CTL keeps it. -/
def chunkWritten (s : State) (v : Word) : State := s.setReg 0x2418 (BitVec.ofNat 32 (bitsOf v 8 0))

theorem exec_chunkCommit {s : State} {cls : KeyClass} (v : Word) (h : s.mayWrite cls 0x2418) : exec (.chunkCommit cls v) s = .next (s.writeXfer (v ||| 0x80000000#32)) := by
  obtain ⟨⟨r, hr, hm⟩, -, -⟩ := tgtx
  exact congrArg Host.Outcome.next (write_applies h hr hm)

theorem writeXfer_commit (s : State) (v : Word) : s.writeXfer (v ||| 0x80000000#32) =
    if (!s.loading || !s.sch.ready) = true then (chunkWritten s v).modSch (fun x => { x with xferErr := true })
    else if bitsOf v 8 0 ≠ s.sch.chunk then (chunkWritten s v).refuseLoad { code := 7, sec := 0, off := 4096 * bitsOf v 8 0 }
    else (chunkWritten s v).modSch (fun x => { x with ready := false, copied := 0 }) := by
  obtain ⟨hchunk, hcommit⟩ := xfer_bits v
  obtain ⟨hload, hsch⟩ := chunk_sch s (BitVec.ofNat 32 (bitsOf v 8 0))
  unfold State.writeXfer
  rw [hchunk, hcommit, hload]
  exact if_neg (by decide)

/-- A refused load shows where and why, and its slot is empty. -/
theorem refuseLoad_sch (s : State) (b : Bad) : (s.refuseLoad b).sch =
    { s.sch with slotState := s.sch.slotState.set s.sch.ldSlot 0, slotGen := s.sch.slotGen.set s.sch.ldSlot 0, phase := 5, reason := b.code, sect := b.sec, pos := b.off, ready := false } := by
  unfold State.refuseLoad
  dsimp only
  split
  · rw [endJob_sch, stage_sch]
    rfl
  · rw [stage_sch]
    rfl

section
variable {s : State} (v : Word)

theorem chunk_unexpected (h : s.loading = false ∨ s.sch.ready = false) : (s.writeXfer (v ||| 0x80000000#32)).sch = { s.sch with xferErr := true } := by
  rw [writeXfer_commit, if_pos (by simpa using h)]
  rfl

variable {v} (hl : s.loading = true) (hr : s.sch.ready = true)
include hl hr

theorem chunk_taken (hc : bitsOf v 8 0 = s.sch.chunk) : (s.writeXfer (v ||| 0x80000000#32)).sch = { s.sch with ready := false, copied := 0 } := by
  rw [writeXfer_commit, if_neg (by simp [hl, hr]), if_neg (not_not_intro hc)]
  rfl

/-- A chunk out of turn refuses the load (R236). -/
theorem chunk_outOfTurn (hc : bitsOf v 8 0 ≠ s.sch.chunk) :
    (s.writeXfer (v ||| 0x80000000#32)).sch = { s.sch with slotState := s.sch.slotState.set s.sch.ldSlot 0, slotGen := s.sch.slotGen.set s.sch.ldSlot 0, phase := 5, reason := 7, sect := 0, pos := 4096 * bitsOf v 8 0, ready := false } := by
  rw [writeXfer_commit, if_neg (by simp [hl, hr]), if_pos hc, refuseLoad_sch]
  rfl

end

/-! #### Setting groups (R237) -/

theorem exec_schGroupWrite {s : State} {cls : KeyClass} (v : Word) (h : s.mayWrite cls 0x2430) : exec (.schGroupWrite cls v) s = .next (s.writeGroup v).1 := by
  obtain ⟨-, ⟨r, hr, hm⟩, -⟩ := tgtx
  exact congrArg Host.Outcome.next (write_applies h hr hm)

section
variable {s : State} {v : Word}

theorem writeGroup_refused (h : s.sch.cfg.groupNets ≠ [] ∨ s.sch.cfg.nGroups ≤ bitsOf v 2 0) : (s.writeGroup v).1 = s.modSch (fun x => { x with groupResult := 2 }) := by
  simp only [State.writeGroup, if_pos h]

theorem writeGroup_waits (hn : s.sch.cfg.groupNets = []) (hlt : bitsOf v 2 0 < s.sch.cfg.nGroups) (ha : s.actSpan = false) :
    (s.writeGroup v).1 = (s.modSch (fun x => { x with groupPend := some (bitsOf v 2 0) })).store 0x2430 (BitVec.ofNat 32 (bitsOf v 2 0)) := by
  have hno : ¬(s.sch.cfg.groupNets ≠ [] ∨ s.sch.cfg.nGroups ≤ bitsOf v 2 0) := by simp [hn, hlt]
  simp [State.writeGroup, hno, ha]

variable (ht : s.ticking = true) (ha : s.actSpan = false)
include ht ha

/-- The waiting group comes into effect at the tick. -/
theorem groupSwitch_waiting {g : Nat} (hg : s.sch.groupPend = some g) : s.groupSwitch.sch = { s.sch with group := g, groupPend := none, groupResult := 1 } := by
  rw [State.groupSwitch, if_neg (by simp [ht, ha]), hg]
  exact setGroup_sch _ g

/-- Selecting nets choose the group; a number beyond the last group changes nothing. -/
theorem groupSwitch_nets (hg : s.sch.groupPend = none) (hn : s.sch.cfg.groupNets ≠ []) :
    s.groupSwitch.sch = { s.sch with group := if s.netGroup < s.sch.cfg.nGroups then s.netGroup else s.sch.group } := by
  rw [State.groupSwitch, if_neg (by simp [ht, ha]), hg]
  dsimp only
  rw [State.groupTick, if_neg (by simp [hn, ha])]
  split
  · exact setGroup_sch s s.netGroup
  · rfl

end

/-! #### Template parameters (R211) -/

theorem exec_templateParamWrite {s : State} {cls : KeyClass} (v : Word) (h : s.mayWrite cls 0x243C) : exec (.templateParamWrite cls v) s = .next (s.writeParam v).1 := by
  obtain ⟨-, -, r, hr, hm⟩ := tgtx
  exact congrArg Host.Outcome.next (write_applies h hr hm)

section
variable {s : State} {v : Word}

theorem writeParam_bad (h : paramOk s.parTpl s.parsSeen s.parSel v = false) : (s.writeParam v).1 = s := by
  simp [State.writeParam, h]

variable (h : paramOk s.parTpl s.parsSeen s.parSel v = true)
include h

theorem writeParam_running (ht : s.parTpl = s.sch.tpl) : (s.writeParam v).1.sch = { s.sch with paramPend := s.sch.paramPend.filter (fun p => p.1 ≠ s.parSel) ++ [(s.parSel, v)] } := by
  simp [State.writeParam, h, if_pos ht, State.modSch]

theorem writeParam_toCome (ht : s.parTpl ≠ s.sch.tpl) : (s.writeParam v).1.sch = { s.sch with paramNext := insertKey s.sch.paramNext s.parSel v } := by
  simp [State.writeParam, h, if_neg ht, State.modSch]

end

/-! #### The reference tick of an activation (R27, R238, R239) -/

theorem autoState_st (s : State) (n : OpState) (c : Nat) : (s.autoState n c).sys.st = n := (auto_hng s n c).2.1

theorem autoState_keeps (s : State) (n : OpState) (c : Nat) : Keeps [.st, .irq, .nme, .job, .ring, .trip, .pwr, .afe, .flt, .fst, .fio, .chn, .hng] s (s.autoState n c) := keeps_autoState n c rfl (Keeps.refl _ s)

/-- A module that takes a scheme is BLOCKED. -/
def halted (s : State) : State := if s.sys.st = .blocked then s else s.autoState .blocked 3

theorem halted_same (s : State) : (halted s).sch = s.sch ∧ (halted s).pe = s.pe := by
  have hk := Keeps.opt (c := s.sys.st = .blocked) (Keeps.refl _ s) (autoState_keeps s .blocked 3)
  exact ⟨hk.same (p := .sch) (by decide), hk.same (p := .pe) (by decide)⟩

theorem halted_st (s : State) : (halted s).sys.st = .blocked := by
  unfold halted
  split
  · next h => exact h
  · exact autoState_st s .blocked 3

/-- The activation's span has begun, and its reference tick is kept. -/
def spanBegun (s : State) : State :=
  ({ halted s with sys := { (halted s).sys with reqHold := true, reqDue := false } }).modSch (fun x => { x with act := .blocked, actOt := (halted s).pe.tickOt })

theorem spanBegun_sch (s : State) : (spanBegun s).sch = { s.sch with act := .blocked, actOt := s.pe.tickOt } := by
  obtain ⟨hsch, hpe⟩ := halted_same s
  unfold spanBegun
  dsimp only [State.modSch]
  rw [hsch, hpe]

theorem spanBegun_st (s : State) : (spanBegun s).sys.st = .blocked := halted_st s

section
variable {s : State} (hm : s.actMayStart = true)
include hm

theorem actReference_starts (h : s.sys.st = .inService → s.hng.leaving = none → s.tripAsserted = false) : s.actReference = (spanBegun s).applyScheme := by
  have hno : ¬(s.sys.st = .inService ∧ s.hng.leaving = none ∧ s.tripAsserted = true) := fun ⟨hst, hl, ht⟩ => by simp [h hst hl] at ht
  simp only [State.actReference, hm, Bool.not_true, Bool.false_eq_true, if_false, if_neg hno]
  rfl

theorem actReference_tripped (hst : s.sys.st = .inService) (hl : s.hng.leaving = none) (ht : s.tripAsserted = true) : s.actReference = s.actTripped := by
  simp only [State.actReference, hm, Bool.not_true, Bool.false_eq_true, if_false, if_pos (And.intro hst (And.intro hl ht))]

end

/-- The scheme once an activation has put another in force: its configuration, from the image or the template, and its parameters. -/
def inForce (x : Scheme) (cfg : SchemeCfg) (params : List (Nat × Word)) : Scheme :=
  { x with
    cfg := cfg, image := x.actImage, slot := if x.actImage then x.actIx else x.slot, tpl := if x.actImage then x.tpl else x.actIx, placed := true,
    params := params, paramPend := if x.actImage then x.paramPend else [], paramNext := [], group := cfg.initGroup, groupPend := none,
    groupResult := if x.groupPend.isSome then 3 else x.groupResult }

theorem applyScheme_sch (s : State) : ∃ cfg params, s.applyScheme.sch = inForce s.sch cfg params ∧ (s.sch.actImage = true → cfg = s.sch.actCfg) := by
  have hpre : Keeps [.cap, .trip, .nv] s s.captureActivated.writeLatches := keeps_writeLatches rfl (keeps_captureActivated rfl (Keeps.refl _ s))
  have hsch : s.captureActivated.writeLatches.sch = s.sch := hpre.same (p := .sch) (by decide)
  unfold State.applyScheme
  extract_lets x u keepPar params cfg u1 nv u2
  refine ⟨cfg, params, ?_, fun himg => if_pos himg⟩
  have hlatch : u2.keepLatches.sch = u1.sch := rfl
  obtain ⟨hplaced, -⟩ := placeScheme_sch u2.keepLatches true
  rw [hplaced, hlatch]
  simp only [u1, State.modSch, u, hsch]
  rfl

theorem applyScheme_st (s : State) : s.applyScheme.sys.st = s.sys.st := by
  obtain ⟨hst, -⟩ := Keeps.same (keeps_applyScheme (K := [.causes, .irq, .key, .ring, .cap, .trip, .nv, .afe, .pe, .trk, .sch, .fst, .fio, .svc, .chn, .hng, .regs, .defer]) rfl (Keeps.refl _ s)) (p := .st) (by decide)
  exact hst

/-- A trip asserted at the reference tick drops the activation (log entry 132). -/
theorem actTripped_sch (s : State) : s.actTripped.sch = { s.sch with act := .idle, actHinge := false, actTicket := 0, actResult := 3 } := by
  unfold State.actTripped
  dsimp only
  rw [stage_sch]
  split
  · rfl
  · rw [endJob_sch]

theorem actTripped_st (s : State) : s.actTripped.sys.st = s.sys.st := by
  obtain ⟨hst, -⟩ := Keeps.same (keeps_actTripped (K := [.irq, .job, .ring, .trip, .sch]) rfl (Keeps.refl _ s)) (p := .st) (by decide)
  exact hst

/-! #### The first boundary of an activation (R238) -/

/-- At the boundary the settings are in force, and what they change starts anew. -/
def settingsInForce (s : State) : State :=
  let u := ((s.actAfe.retunePilots.fastFloors).spoilAll 6).abandonAll
  if sameFlt u.flt.eff s.flt.eff then u else u.filterApplied s.flt.eff u.flt.eff

theorem actBoundary_settles {s : State} (ha : s.sch.act = .blocked) (ht : s.ticking = true) :
    s.actBoundary = (settingsInForce s).modSch (fun x => { x with act := .settling, actLeft := (settingsInForce s).settleTicks }) :=
  if_neg (by simp [ha, ht])

theorem settingsInForce_keeps (s : State) : Keeps [.irq, .ring, .trip] ((s.actAfe.retunePilots.fastFloors).spoilAll 6).abandonAll (settingsInForce s) :=
  Keeps.opt (Keeps.refl _ _) (keeps_filterApplied _ _ rfl (Keeps.refl _ _))

/-- Beyond the outputs that are invalid anew the filter's part is the settings alone. -/
theorem settingsInForce_flt (s : State) : (settingsInForce s).flt = { s.actAfe.flt with ch := s.actAfe.flt.ch.map (fun x => x.spoil s.actAfe.flt.eff 6) } := by
  have hflt : s.actAfe.retunePilots.fastFloors.flt = s.actAfe.flt :=
    Keeps.same (keeps_fastFloors (K := [.causes, .irq, .ring, .trip, .afe, .clk, .fst, .chn]) rfl (keeps_retunePilots rfl (Keeps.refl _ s.actAfe))) (p := .flt) (by decide)
  have hspoil : (((s.actAfe.retunePilots.fastFloors).spoilAll 6).abandonAll).flt =
      { s.actAfe.retunePilots.fastFloors.flt with ch := s.actAfe.retunePilots.fastFloors.flt.ch.map (fun x => x.spoil s.actAfe.retunePilots.fastFloors.flt.eff 6) } := rfl
  rw [(settingsInForce_keeps s).same (p := .flt) (by decide), hspoil, hflt]

/-- No later step of the boundary changes a gain. -/
theorem settingsInForce_gain (s : State) (c : Nat) : ((settingsInForce s).afeCh c).gain = (s.actAfe.afeCh c).gain := by
  have hafe : (settingsInForce s).afe = _ := (settingsInForce_keeps s).same (p := .afe) (by decide)
  have hfloors : s.actAfe.retunePilots.fastFloors.afe = s.actAfe.retunePilots.afe := floors (p := .afe) _ (by decide)
  have hch : (((s.actAfe.retunePilots.fastFloors).spoilAll 6).abandonAll).afe.ch = s.actAfe.retunePilots.fastFloors.afe.ch := rfl
  rw [State.afeCh, hafe, hch, hfloors]
  exact retune_gain s.actAfe c

theorem actAfe_gain (s : State) {c : Nat} (hc : c < 16) : (s.actAfe.afeCh c).gain = bitsOf (s.reg (0x1400 + 4 * c)) 1 0 := by
  simp [State.actAfe, State.afeCh, nth, List.getD_eq_getElem?_getD, hc]

/-! #### The end of an activation (R238) -/

theorem activated_finishes {s : State} (ha : s.sch.act = .settling) (hl : s.sch.actLeft = 0) (ht : s.ticking = true) (hh : s.sch.actHinge = false) :
    s.activated = if s.finishAct.sys.st = .blocked ∧ s.finishAct.enabled = true ∧ s.finishAct.hinged = false then s.finishAct.autoState .inService 2 else s.finishAct := by
  simp [State.activated, ha, hl, ht, hh]

theorem finishAct_regs (s : State) : s.finishAct.regs = s.regs :=
  Keeps.same (keeps_finishAct (K := [.irq, .job, .ring, .trip, .sch]) rfl (Keeps.refl _ s)) (p := .regs) (by decide)

/-- A finished activation leaves a scheme that is not lost, so only its own setting says whether protection is enabled. -/
theorem finishAct_enabled (s : State) : s.finishAct.enabled = if s.sch.image then s.sch.cfg.enable else decide (s.sch.tpl ≠ 0) && bitAt (s.reg 0x2434) 4 := by
  obtain ⟨hsch, -⟩ := finishAct_eq s
  rw [State.enabled, hsch, State.reg, finishAct_regs]
  rfl

theorem finishAct_hinged (s : State) : s.finishAct.hinged = s.hinged := by
  obtain ⟨hsch, -⟩ := finishAct_eq s
  rw [State.hinged, hsch, State.hinged]

section
variable {s : State} (ha : s.sch.act = .settling) (hl : s.sch.actLeft = 0) (ht : s.ticking = true) (hh : s.sch.actHinge = false)
include ha hl ht hh

theorem activated_sch : s.activated.sch = { s.sch with act := .idle, actHinge := false, actTicket := 0, actResult := 2, lost := false, fallback := false, blockedUs := s.pe.tickOt - s.sch.actOt } := by
  obtain ⟨hsch, -⟩ := finishAct_eq s
  rw [activated_finishes ha hl ht hh]
  split
  · exact ((autoState_keeps s.finishAct .inService 2).same (p := .sch) (by decide)).trans hsch
  · exact hsch

/-- The module enters service where its scheme enables protection; a hinged unit waits for its role. -/
theorem activated_st : s.activated.sys.st =
    if s.sys.st = .blocked ∧ (if s.sch.image then s.sch.cfg.enable else decide (s.sch.tpl ≠ 0) && bitAt (s.reg 0x2434) 4) = true ∧ s.hinged = false then .inService else s.sys.st := by
  obtain ⟨-, hst, -⟩ := finishAct_eq s
  rw [activated_finishes ha hl ht hh, hst, finishAct_enabled, finishAct_hinged, apply_ite (fun u : State => u.sys.st), autoState_st, hst]

end

/-! #### The statement -/

/-- Settles O25: each write and each instant of an activation is read off the one case of its rule. That a trip at the reference tick drops the activation is log entry 132, the group's override and the return to service log entries 77 and 72, the place of a parameter written during an activation log entry 155. -/
theorem schemeCommands : Obligations.SchemeCommands := by
  refine ⟨fun cls v s hw => ⟨fun h => ?unexpected, fun hl hr hc => ?taken, fun hl hr hc => ?outOfTurn⟩, fun cls v s hw => ⟨fun h => ?groupRefused, fun hn hlt ha => ?groupWaits⟩,
    fun s ht ha => ⟨fun g hg => ?groupTaken, fun hg hn => ?groupNets⟩, fun cls v s hw => ⟨fun h ht => ?running, fun h ht => ?toCome, fun h => ?badParam⟩,
    fun s hm h => ?starts, fun s hm hst hl ht => ?tripped, fun s ha ht => ?boundary, fun s ha hl ht hh => ?finished⟩
  case unexpected => exact ⟨_, exec_chunkCommit v hw, chunk_unexpected v h⟩
  case taken => exact ⟨_, exec_chunkCommit v hw, chunk_taken hl hr hc⟩
  case outOfTurn =>
    refine ⟨_, exec_chunkCommit v hw, ?_⟩
    dsimp only
    rw [chunk_outOfTurn hl hr hc]
    exact ⟨rfl, rfl, rfl, rfl, rfl⟩
  case groupRefused =>
    refine ⟨_, exec_schGroupWrite v hw, ?_⟩
    rw [writeGroup_refused h]
    exact ⟨rfl, rfl⟩
  case groupWaits =>
    refine ⟨_, exec_schGroupWrite v hw, ?_⟩
    dsimp only
    rw [writeGroup_waits hn hlt ha, store_sch]
    rfl
  case groupTaken => exact ⟨_, rfl, groupSwitch_waiting ht ha hg⟩
  case groupNets => exact ⟨_, rfl, groupSwitch_nets ht ha hg hn⟩
  case running => exact ⟨_, exec_templateParamWrite v hw, writeParam_running h ht⟩
  case toCome => exact ⟨_, exec_templateParamWrite v hw, writeParam_toCome h ht⟩
  case badParam => exact (exec_templateParamWrite v hw).trans (congrArg Host.Outcome.next (writeParam_bad h))
  case starts =>
    obtain ⟨cfg, params, hsch, himg⟩ := applyScheme_sch (spanBegun s)
    refine ⟨_, congrArg Host.Outcome.next (actReference_starts hm h), ?_⟩
    dsimp only
    rw [applyScheme_st, spanBegun_st, hsch]
    rw [spanBegun_sch] at himg ⊢
    exact ⟨rfl, rfl, rfl, rfl, rfl, fun hi => ⟨himg hi, if_pos hi⟩, fun hi => if_neg (by simp [hi]), rfl, rfl, fun hp => if_pos hp⟩
  case tripped =>
    refine ⟨_, congrArg Host.Outcome.next (actReference_tripped hm hst hl ht), ?_⟩
    dsimp only
    rw [actTripped_st, actTripped_sch]
    exact ⟨rfl, hst, rfl, rfl⟩
  case boundary =>
    have hflt := settingsInForce_flt s
    refine ⟨_, congrArg Host.Outcome.next (actBoundary_settles ha ht), rfl, ?_, ?_, ?_, fun c hc => (settingsInForce_gain s c).trans (actAfe_gain s hc)⟩
    · exact congrArg Flt.eff hflt
    · exact congrArg Flt.pend hflt
    · exact congrArg Flt.result hflt
  case finished =>
    refine ⟨_, rfl, ?_⟩
    dsimp only
    rw [activated_sch ha hl ht hh, activated_st ha hl ht hh]
    exact ⟨rfl, rfl, rfl, rfl, rfl, rfl⟩

end Sys2Proof.Proofs.SchemeCommands
end

section
/-! ### Faults and holds of the outputs (R246, R253, R258) -/

namespace Sys2Proof.Proofs.OutputFaults

open Sys2Proof Sys2Proof.Machine Sys2Proof.Facts.FieldPorts Sys2Proof.Proofs.FieldSupply

theorem whileAlive_dead {s : State} (f : State → State) (h : s.alive = false) : s.whileAlive f = s := if_neg (by simp [h])

/-- The outputs of a state in which one output was changed in place: that output's new value, and every other one's as before. -/
theorem outp_of_modDo {s t : State} {n : Nat} {f : DoSt → DoSt} (h : t.fio = (s.modDo n f).fio) (hn : n < s.fio.dos.length) :
    t.outp n = f (s.outp n) ∧ ∀ m, m ≠ n → t.outp m = s.outp m := by
  simp only [State.outp, h]
  exact ⟨outp_modDo s n f hn, fun m hm => outp_modDo_ne s n m f hm.symm⟩

/-- A fault that is marked on its output and recorded, by a command the module is alive to take. -/
theorem leads_recorded {s : State} {i : Instr} {n code sev : Nat} {f : DoSt → DoSt} {g : State → State} {body : List Byte} (hi : exec i s = .next (s.whileAlive g))
    (ha : s.alive = true) (hg : g s = (s.modDo n f).stage code sev body) (hn : n < s.fio.dos.length) :
    Leads (exec i s) fun t => t.outp n = f (s.outp n) ∧ ∀ m, m ≠ n → t.outp m = s.outp m :=
  ⟨_, hi.trans (congrArg Host.Outcome.next ((whileAlive_alive g ha).trans hg)), outp_of_modDo (stage_fio ..) hn⟩

/-! #### What each fault does where its condition holds (R258) -/

section
variable {s : State} {n : Nat}

section
variable (hn : n < 12) (hoff : s.outOn n = false) (hsup : s.fio.state ≠ 2) (hcpl : s.cplFailed (16 + n) = false) (hst : (s.outp n).stuck = false) (hx : (s.outp n).cross = false)
include hn hoff hsup hcpl hst hx

/-- An output that reads on although it is commanded off: what is done turns on whether a hinge peer may drive it. -/
theorem stuckOn_judged : s.stuckOn n =
    if s.hinged && s.doShared n then s.modDo n (fun o => { o with peer := true })
    else ((s.modDo n (fun o => { o with stuck := true })).setNme 5).stage 0x00D7 2 (b1 n) :=
  if_neg (by simp [hn, hoff, hsup, hcpl, hst, hx])

theorem stuckOn_own (h : s.hinged = false ∨ s.doShared n = false) :
    s.stuckOn n = ((s.modDo n (fun o => { o with stuck := true })).setNme 5).stage 0x00D7 2 (b1 n) := by
  rw [stuckOn_judged hn hoff hsup hcpl hst hx, if_neg (by rcases h with h | h <;> simp [h])]

theorem stuckOn_peer (hh : s.hinged = true) (hs : s.doShared n = true) : s.stuckOn n = s.modDo n (fun o => { o with peer := true }) := by
  rw [stuckOn_judged hn hoff hsup hcpl hst hx, if_pos (by simp [hh, hs])]

end

section
variable (hn : n < 12) (hon : s.outOn n = true)
include hn hon

theorem outShort_taken (hl : (s.outp n).limit = false) : s.outShort n = (s.modDo n (fun o => { o with limit := true })).stage 0x00D8 2 (b1 n) :=
  if_pos ⟨hn, hon, hl⟩

theorem thermalOff_taken (hl : (s.outp n).limit = true) : s.thermalOff n = s.modDo n (fun o => { o with thermal := true }) :=
  if_pos ⟨hn, hon, hl⟩

theorem outFailOff_taken (hl : (s.outp n).limit = false) (hf : (s.outp n).failOff = false) :
    s.outFailOff n = (s.modDo n (fun o => { o with failOff := true, stuck := false })).stage 0x00DA 2 (b1 n) :=
  if_pos ⟨hn, hon, hl, hf⟩

theorem outOpen_taken {cur : Nat} (hc : cur < 10) (hf : (s.outp n).failOff = false) (ho : (s.outp n).openLd = false) :
    s.outOpen n cur = (s.modDo n (fun o => { o with openLd := true, current := cur / 10 })).stage 0x00DB 1 (b1 n) :=
  if_pos ⟨hn, hon, hc, hf, ho⟩

theorem outOverload_taken {cur : Nat} (hc : s.overLimit n < cur) (ho : (s.outp n).overload = false) :
    s.outOverload n cur = (s.modDo n (fun o => { o with overload := true, current := cur / 10 })).stage 0x00DC 1 (b1 n) :=
  if_pos ⟨hn, hon, hc, ho⟩

end

/-- No call and no hold keeps a driver on in the off period of its thermal shutdown. -/
theorem outOn_thermal (h : (s.outp n).thermal = true) : s.outOn n = false := by simp [State.outOn, h]

theorem thermalRetry_taken (h : (s.outp n).thermal = true) : s.thermalRetry n = s.modDo n (fun o => { o with thermal := false, limit := false }) := if_pos h

theorem crossDrive_taken {m : Nat} (hn : n < 12) (hm : m < 12) (hne : n ≠ m) (hoff : s.outOn n = false) (hon : s.outOn m = true) (hg : s.grouped n m = false)
    (hx : (s.outp n).cross = false) : s.crossDrive n m = (s.modDo n (fun o => { o with cross := true })).stage 0x00D9 2 (b1 n ++ b1 m) :=
  if_pos ⟨hn, hm, hne, hoff, hon, hg, hx⟩

end

/-! #### The host clears cross-drive inhibits; a hold ends (R246, R258) -/

theorem exec_crossInhClear {s : State} {cls : KeyClass} {v : Word} (h : s.mayWrite cls 0x2D40) : exec (.crossInhClear cls v) s = .next (s.crossClear v) := by
  obtain ⟨r, hr, hw⟩ := tgtc
  exact congrArg Host.Outcome.next ((write_applies h hr hw).trans (Facts.StateMoves.ap2D40 cls v s))

theorem followOutputs_cross (s : State) (n : Nat) : (s.followOutputs.outp n).cross = (s.outp n).cross := ((dok_follow s).1 n).1

theorem followOutputs_hold (s : State) (n : Nat) : (s.followOutputs.outp n).hold = (s.outp n).hold := ((dok_follow s).1 n).2.1

theorem followOutputs_holding (s : State) (n : Nat) : (s.followOutputs.outp n).holding = (s.outp n).holding := ((dok_follow s).1 n).2.2.1

/-- The inhibit ends on the outputs that the written bits name and on no other; following the outputs changes none. -/
theorem crossClear_cross (s : State) (v : Word) {n : Nat} (hn : n < 12) : ((s.crossClear v).outp n).cross = ((s.outp n).cross && !bitAt v n) := by
  rw [State.crossClear, followOutputs_cross]
  by_cases hb : bitAt v n <;> simp [State.outp, nth, List.getD_eq_getElem?_getD, hn, hb]

/-- The end of a hold is one output's alone: following the outputs starts and ends no hold. -/
theorem holdExpiry_holds {s : State} {n : Nat} (hn : n < s.fio.dos.length) :
    ((s.holdExpiry n).outp n).hold = false ∧ ((s.holdExpiry n).outp n).holding = false ∧
      ∀ m, m ≠ n → ((s.holdExpiry n).outp m).hold = (s.outp m).hold ∧ ((s.holdExpiry n).outp m).holding = (s.outp m).holding := by
  obtain ⟨hself, hothers⟩ := outp_of_modDo (f := fun o => { o with hold := false, holding := false }) rfl hn
  simp only [State.holdExpiry, followOutputs_hold, followOutputs_holding]
  exact ⟨congrArg DoSt.hold hself, congrArg DoSt.holding hself, fun m hm => ⟨congrArg DoSt.hold (hothers m hm), congrArg DoSt.holding (hothers m hm)⟩⟩

/-- Settles O26: a fault marks its own output where its condition holds, and one that its module is not alive to see marks none; an inhibit ends where the host's bit names it, a hold at its expiry. -/
theorem outputFaults : Obligations.OutputFaults := by
  refine ⟨fun n m cur s hdead i hi => ?_, fun n s ha hn hl hoff hsup hcpl hst hx => ⟨fun h => ?_, fun hh hs => ?_⟩,
    fun n s ha hn hl hon => ⟨fun h => ?_, fun h => ?_, fun h hf => ?_, fun cur hc hf ho => ?_, fun cur hc ho => ?_⟩, fun n s hl h => ?_,
    fun n m s ha hn hm hne hl hoff hon hg hx => ?_, fun cls v s hw _ => ?_, fun n s hl => ⟨_, rfl, holdExpiry_holds hl⟩⟩
  · simp only [List.mem_cons, List.not_mem_nil, or_false] at hi
    rcases hi with rfl | rfl | rfl | rfl | rfl | rfl | rfl <;> exact congrArg Host.Outcome.next (whileAlive_dead _ hdead)
  · obtain ⟨hself, hothers⟩ := outp_of_modDo (t := s.stuckOn n) (by rw [stuckOn_own hn hoff hsup hcpl hst hx h, stage_fio, setNme_fio]) hl
    refine ⟨_, congrArg Host.Outcome.next (whileAlive_alive _ ha), hself, ?_, hothers⟩
    rw [stuckOn_own hn hoff hsup hcpl hst hx h, stage_sys_nme]
    rfl
  · obtain ⟨hself, -⟩ := outp_of_modDo (f := fun o => { o with peer := true }) rfl hl
    exact ⟨_, congrArg Host.Outcome.next ((whileAlive_alive _ ha).trans (stuckOn_peer hn hoff hsup hcpl hst hx hh hs)), hself, rfl, rfl⟩
  · exact leads_recorded rfl ha (outShort_taken hn hon h) hl
  · obtain ⟨hself, -⟩ := outp_of_modDo (f := fun o => { o with thermal := true }) rfl hl
    exact ⟨_, congrArg Host.Outcome.next ((whileAlive_alive _ ha).trans (thermalOff_taken hn hon h)), hself, outOn_thermal (congrArg DoSt.thermal hself)⟩
  · exact leads_recorded rfl ha (outFailOff_taken hn hon h hf) hl
  · exact leads_recorded rfl ha (outOpen_taken hn hon hc hf ho) hl
  · exact leads_recorded rfl ha (outOverload_taken hn hon hc ho) hl
  · exact ⟨_, congrArg Host.Outcome.next (thermalRetry_taken h), outp_of_modDo rfl hl⟩
  · exact leads_recorded rfl ha (crossDrive_taken hn hm hne hoff hon hg hx) hl
  · exact ⟨_, exec_crossInhClear hw, fun n hn => crossClear_cross s v hn⟩

end Sys2Proof.Proofs.OutputFaults
end

section
/-! ### The invariant of the stores and idle time (R256, R273, R398) -/

namespace Sys2Proof.Proofs.Stores

open Sys2Proof Sys2Proof.Machine

theorem step_front {s : State} {c : Instr} {cs : List Instr} (h : s.pending = c :: cs) : step s = exec c (s.rest cs) := by
  rw [step, h]

theorem step_idle {s : State} (h : s.pending = []) : step s = .next s.idle := by
  rw [step, h]

/-- The state 1 µs of OT later. -/
def later (s : State) : State := { s with pwr := { s.pwr with ot := s.pwr.ot + 1 } }

theorem idle_off {s : State} (h : s.sys.st = .off) : s.idle = s := if_pos h

theorem idle_on {s : State} (h : s.sys.st ≠ .off) : s.idle = (later s).couplerFlush := if_neg h

theorem keeps_later {K : List Part} {s : State} (hM : Within [.pwr] K) : Keeps K s (later s) := Keeps.setPwr (hM.mem rfl) (Keeps.refl K s)

theorem keeps_idle (s : State) : Keeps [.irq, .ring, .trip, .pwr, .fio] s s.idle :=
  Keeps.opt (Keeps.refl _ s) (keeps_couplerFlush rfl (keeps_later rfl))

/-- Judging couplers leaves time alone. -/
theorem couplerFlush_pwr (s : State) : s.couplerFlush.pwr = s.pwr :=
  Keeps.same (keeps_couplerFlush (K := [.irq, .ring, .trip, .fio]) rfl (Keeps.refl _ s)) (p := .pwr) (by decide)

/-- Settles O4: a command keeps the invariant by the law of its arm, and idle time by the law of what it judges. -/
theorem stepKeepsInv : Obligations.StepKeepsInv := by
  intro s t hs ht
  cases hp : s.pending with
  | nil =>
    obtain rfl : s.idle = t := Host.Outcome.next.inj ((step_idle hp).symm.trans ht)
    exact (keeps_idle s).2 hs
  | cons c cs =>
    obtain ⟨u, hu, hk⟩ := StateMoves.exec_keeps c (s.rest cs)
    obtain rfl : u = t := Host.Outcome.next.inj (hu.symm.trans ((step_front hp).symm.trans ht))
    exact hk.2 hs

/-- Settles O2: idle time is 1 µs more of OT, followed by the judgement of couplers, which has a frame of its own (log entry 2). -/
theorem idleStep : Obligations.IdleStep := by
  refine fun s hp => ⟨fun hoff => ?_, fun hon => ⟨_, step_idle hp, ?_, (keeps_idle s).1⟩⟩
  · rw [step_idle hp, idle_off hoff]
  · rw [idle_on hon, couplerFlush_pwr, later]

/-- Settles O3: after reset MRAM, the job table and the staging ring are empty. -/
theorem resetInv : Obligations.ResetInv := ⟨rfl, Nat.zero_le 4, Nat.zero_le 512, List.Pairwise.nil⟩

end Sys2Proof.Proofs.Stores
end

section
/-! ### The recorder: staging, writing, and the tokens that return (R264, R265, R269-R271, R273, R274, R276, R277) -/

namespace Sys2Proof.Proofs.Recorder

open Sys2Proof Sys2Proof.Machine Sys2Proof.Facts.Records

/-! #### Staging (R273, R276) -/

theorem stage_noToken {s : State} {code : Nat} (hc : code ∈ Config.noToken) (hlow : s.ldg.ovLow = 0) (hhigh : s.ldg.ovHigh = 0) (sev : Nat) (body : List Byte) :
    s.stage code sev body = s.offer (s.entryOf false code sev 0 body) := by
  rw [State.stage, State.stageWith, overflow_id hlow hhigh]
  exact if_pos hc

/-- After an INFO or WARN entry is offered, the overflow record is not due: either nothing was lost, or the ring still has no room for one (R273). -/
theorem overflow_offer {s : State} {e : Entry} (hlow : s.ldg.ovLow = 0) (hhigh : s.ldg.ovHigh = 0) (hs : e.sev < 2) : (s.offer e).overflow = s.offer e :=
  (offer_over e hlow hhigh hs).elim id fun h => h.2.2

@[simp] theorem offer_bucket (s : State) (e : Entry) (code : Nat) : (s.offer e).bucket code = s.bucket code := by
  rw [State.bucket, offer_buckets, State.bucket]

/-! #### Tokens that return (R276, R277) -/

section
variable {s : State} (hlow : s.ldg.ovLow = 0) (hhigh : s.ldg.ovHigh = 0) {code : Nat}
include hlow hhigh

theorem tokenReturn_full (h : (s.bucket code).lacks = 0) : s.tokenReturn code = s := by
  rw [State.tokenReturn, overflow_id hlow hhigh]
  exact if_pos h

theorem tokenReturn_refills (h : (s.bucket code).lacks ≠ 0) (hp : (s.bucket code).pending = 0) :
    s.tokenReturn code = s.setBucket code { s.bucket code with lacks := (s.bucket code).lacks - 1 } := by
  rw [State.tokenReturn, overflow_id hlow hhigh]
  exact (if_neg h).trans (if_neg (not_not.mpr hp))

theorem tokenReturn_spent (h : (s.bucket code).lacks ≠ 0) (hp : (s.bucket code).pending ≠ 0) : s.tokenReturn code = s.summary code := by
  rw [State.tokenReturn, overflow_id hlow hhigh]
  exact (if_neg h).trans (if_pos hp)

end

theorem summary_bucket (s : State) (code : Nat) :
    (s.summary code).bucket code = { s.bucket code with pending := 0, first := 0, last := 0, summaries := satInc 65535 (s.bucket code).summaries } := by
  rw [State.summary, offer_bucket, bucket_set]

/-- The summary of a code's pending count (R277). -/
def summaryOf (s : State) (code : Nat) : Entry :=
  let b := s.bucket code
  s.entryOf false 0x00E0 (s.codeSev code) 2 (b2 code ++ zeros 2 ++ b4 b.pending ++ b8 b.first ++ b8 b.last)

theorem summaryOf_mem_summary {s : State} (code : Nat) (hc : s.ldg.closed = false) (hl : s.ldg.ring.length < 480) : summaryOf s code ∈ (s.summary code).ldg.ring :=
  offer_mem (s.setBucket code _) (summaryOf s code) hc hl

/-! #### The oldest entry (R274) -/

/-- The state whose ring holds what follows the oldest entry. -/
def popped (s : State) (r : List Entry) : State := { s with ldg := { s.ldg with ring := r } }

theorem ledgerWrite_empty {s : State} (h : s.ldg.ring = []) : s.ledgerWrite = s := by
  rw [State.ledgerWrite, h]

theorem canWrite_mram {s : State} {e : Entry} (h : s.canWrite e = true) : s.dm.mramFail = false := by
  simp only [State.canWrite, Bool.and_eq_true, Bool.not_eq_true'] at h
  exact h.1.1.2

section
variable {s : State} {e : Entry} {r : List Entry} (h : s.ldg.ring = e :: r)
include h

theorem ledgerWrite_held (hc : s.canWrite e = false) : s.ledgerWrite = s := by
  rw [State.ledgerWrite, h]
  exact if_neg (by simp [hc])

theorem ledgerWrite_writes (hc : s.canWrite e = true) : s.ledgerWrite = ((popped s r).writeRecord e (decide (s.pwr.pf = PfStage.flushing))).overflow := by
  rw [State.ledgerWrite, h]
  exact if_pos hc

end

/-! #### Where a record goes (R265) -/

/-- Flag byte of an entry as the recorder writes it now: its own flags, and whether a power fail is being flushed (R267). -/
def flagsOf (s : State) (e : Entry) : Nat := e.flags + 16 * b2n (decide (s.pwr.pf = PfStage.flushing))

theorem writeRecord_first {s : State} {e : Entry} (pf : Bool) (hc : s.ldg.commissioned = true) (hf : s.ldg.firstFull = false) (hl : s.ldg.firstPos + recLen e ≤ firstSize) :
    s.writeRecord e pf = s.writeFirst e (e.flags + 16 * b2n pf) := (if_pos ⟨hc, hf⟩).trans (if_pos hl)

theorem writeRecord_circ {s : State} (e : Entry) (pf : Bool) (h : s.ldg.commissioned = false ∨ s.ldg.firstFull = true) :
    s.writeRecord e pf = s.writeCirc e (e.flags + 16 * b2n pf) := if_neg (by rcases h with h | h <;> simp [h])

/-- The first area closed for good. -/
def firstClosed (s : State) : State := { s with ldg := { s.ldg with firstFull := true } }

theorem writeRecord_closes {s : State} {e : Entry} (pf : Bool) (hc : s.ldg.commissioned = true) (hf : s.ldg.firstFull = false) (hl : firstSize < s.ldg.firstPos + recLen e) :
    s.writeRecord e pf = (firstClosed (s.writeCirc e (e.flags + 16 * b2n pf))).stage 0x00E8 0 [] := (if_pos ⟨hc, hf⟩).trans (if_neg (by omega))

/-! #### A record in MRAM (R269) -/

section
variable {m : List Host.Cell} {off : Nat} {e : Entry} (fl seq : Nat) (hw : Memory.wf m = true) (hl : off + recLen e ≤ mramSize)
include hw hl

theorem record_readBack : memReadBytes (memWriteBytes m off (recBytes e fl seq)) off (recLen e) = recBytes e fl seq := by
  rw [← length_recBytes e fl seq] at hl ⊢
  exact memReadBytes_self _ m off hw hl

theorem record_frame {a : Nat} (ha : a < off ∨ off + recLen e ≤ a) : memRead (memWriteBytes m off (recBytes e fl seq)) a = memRead m a := by
  rw [← length_recBytes e fl seq] at hl ha
  rw [memRead_writeBytes _ m off a hw hl, if_neg (by omega)]

end

/-! #### The first area (R264, R265, R271) -/

/-- Where the next record of the first area goes. -/
def firstOff (s : State) : Nat := firstBase + s.ldg.firstPos

theorem writeFirst_ldg (s : State) (e : Entry) (fl : Nat) : (s.writeFirst e fl).ldg =
    { s.ldg with
      first := s.ldg.first ++ [{ off := firstOff s, len := recLen e, seq := s.ldg.nextSeq }], firstPos := s.ldg.firstPos + recLen e,
      nextSeq := seqNext s.ldg.nextSeq } := by
  unfold State.writeFirst
  dsimp only
  rw [(put_ldg ..).1, firstOff]

theorem firstOff_inside {s : State} {e : Entry} (hl : s.ldg.firstPos + recLen e ≤ firstSize) : firstOff s + recLen e ≤ mramSize := by
  simp only [firstOff, firstBase, firstSize, mramSize] at *
  omega

theorem writeFirst_mram {s : State} {e : Entry} (fl : Nat) (hf : s.dm.mramFail = false) (hl : s.ldg.firstPos + recLen e ≤ firstSize) :
    (s.writeFirst e fl).mram = memWriteBytes s.mram (firstOff s) (recBytes e (fl + 4) s.ldg.nextSeq) :=
  mramPut_mram s _ _ hf (by rw [length_recBytes]; exact firstOff_inside hl)

/-! #### The circulating area (R264, R270, R271) -/

/-- Where the next record of the circulating area goes while it fits before the area's end. -/
def circOff (s : State) : Nat := circBase + s.ldg.circPos

/-- A record put there, over the records that it invalidates (R270). -/
def circPut (s : State) (e : Entry) (fl : Nat) : State := (s.overwrite (circOff s) (recLen e)).mramPut (circOff s) (recBytes e fl s.ldg.nextSeq)

section
variable {s : State} {e : Entry} (fl : Nat) (hl : s.ldg.circPos + recLen e ≤ circSize)
include hl

theorem circOff_inside : circOff s + recLen e ≤ mramSize := by
  simp only [circOff, circBase, circSize, mramSize] at *
  omega

/-- A record that fits is put where the area stands, and follows the records that it leaves there. -/
theorem writeCirc_fits : s.writeCirc e fl =
    { circPut s e fl with
      ldg := { (circPut s e fl).ldg with
        circ := s.ldg.circ.filter (fun r => !decide (r.off < circOff s + recLen e ∧ circOff s < r.off + r.len)) ++ [{ off := circOff s, len := recLen e, seq := s.ldg.nextSeq }],
        circPos := s.ldg.circPos + recLen e, nextSeq := seqNext s.ldg.nextSeq } } := by
  obtain ⟨-, -, hseq, -, hpos, -⟩ := overwrite_keep s (circOff s) (recLen e)
  unfold State.writeCirc circPut
  dsimp only
  rw [if_pos hl, ← circOff, hseq, (put_ldg ..).1, overwrite_circ, hpos]

theorem writeCirc_circ : (s.writeCirc e fl).ldg.circ =
    s.ldg.circ.filter (fun r => !decide (r.off < circOff s + recLen e ∧ circOff s < r.off + r.len)) ++ [{ off := circOff s, len := recLen e, seq := s.ldg.nextSeq }] := by
  rw [writeCirc_fits fl hl]

theorem writeCirc_circPos : (s.writeCirc e fl).ldg.circPos = s.ldg.circPos + recLen e := by
  rw [writeCirc_fits fl hl]

theorem writeCirc_mram (hf : s.dm.mramFail = false) :
    (s.writeCirc e fl).mram = memWriteBytes (s.overwrite (circOff s) (recLen e)).mram (circOff s) (recBytes e fl s.ldg.nextSeq) := by
  obtain ⟨hfail, -⟩ := overwrite_keep s (circOff s) (recLen e)
  rw [writeCirc_fits fl hl]
  exact mramPut_mram _ _ _ (hfail.trans hf) (by rw [length_recBytes]; exact circOff_inside hl)

end

/-! #### The recorder writes its oldest entry (R274) -/

/-- The state once an oldest entry that no longer fits in the first area is in the circulating area (R265). -/
def overfilled (s : State) (e : Entry) (r : List Entry) : State := firstClosed ((popped s r).writeCirc e (flagsOf s e))

/-- The entry of FIRST_AREA_FULL. -/
def firstAreaFull (s : State) : Entry := s.entryOf false 0x00E8 0 0 []

section
variable {s : State} {e : Entry} {r : List Entry} (h : s.ldg.ring = e :: r) (hc : s.canWrite e = true) (hlow : s.ldg.ovLow = 0) (hhigh : s.ldg.ovHigh = 0)
include h hc hlow hhigh

theorem ledgerWrite_first (hcom : s.ldg.commissioned = true) (hfull : s.ldg.firstFull = false) (hl : s.ldg.firstPos + recLen e ≤ firstSize) :
    s.ledgerWrite = (popped s r).writeFirst e (flagsOf s e) := by
  rw [ledgerWrite_writes h hc, writeRecord_first (s := popped s r) _ hcom hfull hl]
  refine overflow_id ?_ ?_ <;> rw [writeFirst_ldg]
  · exact hlow
  · exact hhigh

theorem ledgerWrite_circ (ha : s.ldg.commissioned = false ∨ s.ldg.firstFull = true) :
    s.ledgerWrite = (popped s r).writeCirc e (flagsOf s e) := by
  obtain ⟨-, -, -, -, -, hl, hh, -⟩ := writeCirc_ldg (popped s r) e (flagsOf s e)
  rw [ledgerWrite_writes h hc, writeRecord_circ (s := popped s r) e _ ha]
  exact overflow_id (hl.trans hlow) (hh.trans hhigh)

/-- The record that does not fit goes to the circulating area, and FIRST_AREA_FULL is staged (R265). -/
theorem ledgerWrite_closes (hcom : s.ldg.commissioned = true) (hfull : s.ldg.firstFull = false) (hl : firstSize < s.ldg.firstPos + recLen e) :
    s.ledgerWrite = (overfilled s e r).offer (firstAreaFull (overfilled s e r)) := by
  obtain ⟨-, -, -, -, -, hl', hh', -⟩ := writeCirc_ldg (popped s r) e (flagsOf s e)
  have htl : (overfilled s e r).ldg.ovLow = 0 := hl'.trans hlow
  have hth : (overfilled s e r).ldg.ovHigh = 0 := hh'.trans hhigh
  have hinfo : (firstAreaFull (overfilled s e r)).sev < 2 := Nat.zero_lt_two
  rw [ledgerWrite_writes h hc, writeRecord_closes (s := popped s r) _ hcom hfull hl]
  exact (congrArg State.overflow (stage_noToken (by decide) htl hth 0 [])).trans (overflow_offer htl hth hinfo)

end

/-- Settles O28: the record is put where its area stands, read back whole and framed by its address; a returned token either fills the bucket or is spent on the pending count. -/
theorem ledgerWriting : Obligations.LedgerWriting := by
  refine ⟨fun s e r hr hc hlow hhigh hw => ⟨fun hcom hfull hl => ⟨_, congrArg Host.Outcome.next (ledgerWrite_first hr hc hlow hhigh hcom hfull hl), ?_⟩,
    fun ha hl => ⟨_, congrArg Host.Outcome.next (ledgerWrite_circ hr hc hlow hhigh ha), ?_⟩⟩,
    fun code s hlow hhigh hlacks => ⟨fun hp => ⟨_, congrArg Host.Outcome.next (tokenReturn_refills hlow hhigh hlacks hp), bucket_set .., rfl⟩,
      fun hp => ⟨_, congrArg Host.Outcome.next (tokenReturn_spent hlow hhigh hlacks hp), summary_bucket s code, fun hcl hlen => ⟨_, summaryOf_mem_summary code hcl hlen, rfl, rfl, rfl⟩⟩⟩⟩
  · have hin := firstOff_inside hl
    beta_reduce
    rw [State.mramGet, writeFirst_ldg, writeFirst_mram (s := popped s r) _ (canWrite_mram hc) hl]
    exact ⟨rfl, rfl, rfl, rfl, rfl, record_readBack _ _ hw hin, fun a ha => record_frame _ _ hw hin ha⟩
  · obtain ⟨hfirst, -, hseq, hring, -⟩ := writeCirc_ldg (popped s r) e (flagsOf s e)
    have hin := circOff_inside hl
    have hwo := (overwrite_keep (popped s r) (circOff s) (recLen e)).2.1 hw
    rw [State.mramGet, writeCirc_mram (s := popped s r) _ hl (canWrite_mram hc), writeCirc_circ (s := popped s r) _ hl]
    exact ⟨hring, hseq, hfirst, List.getLast?_concat .., writeCirc_circPos (s := popped s r) _ hl, List.dropLast_concat .., record_readBack _ _ hwo hin,
      fun a ha hr => (record_frame _ _ hwo hin ha).trans (overwrite_frame (popped s r) _ _ a hw hr)⟩

/-- Settles O59: each step by the one law of its case; the entry of FIRST_AREA_FULL and the summary are those that the ring then holds. That an empty ring, an entry not yet writable and a full bucket change nothing is log entry 1. -/
theorem recorderSteps : Obligations.RecorderSteps := by
  refine ⟨fun s hr => congrArg Host.Outcome.next (ledgerWrite_empty hr), fun s e r hr => ⟨fun hc => congrArg Host.Outcome.next (ledgerWrite_held hr hc),
      fun hc hlow hhigh hcom hfull hl => ⟨_, congrArg Host.Outcome.next (ledgerWrite_closes hr hc hlow hhigh hcom hfull hl), ?_⟩⟩,
    fun code s hlow hhigh => ⟨fun h => congrArg Host.Outcome.next (tokenReturn_full hlow hhigh h), fun h hp => congrArg Host.Outcome.next (tokenReturn_refills hlow hhigh h hp),
      fun h hp hcl hlen => ⟨_, congrArg Host.Outcome.next (tokenReturn_spent hlow hhigh h hp), (keeps_summary (K := [.irq, .ring, .trip]) code rfl (Keeps.refl _ s)).1, ?_⟩⟩⟩
  · obtain ⟨hfirst, hpos, hseq, hring, hclosed, -, -, hpwr, hlast⟩ := writeCirc_ldg (popped s r) e (flagsOf s e)
    obtain ⟨ofirst, opos, ofull, oseq, ocirc⟩ := offer_first (overfilled s e r) (firstAreaFull _)
    refine ⟨ofull, ofirst.trans hfirst, opos.trans hpos, oseq.trans hseq, (congrArg List.getLast? ocirc).trans hlast,
      fun hcl hlen => ⟨_, offer_mem (overfilled s e r) _ (hclosed.trans hcl) (lt_of_eq_of_lt (congrArg List.length hring) hlen), rfl, rfl, congrArg Power.ot hpwr⟩⟩
  · rw [summary_bucket]
    exact ⟨rfl, rfl, _, summaryOf_mem_summary code hcl hlen, rfl, rfl, rfl, rfl⟩

end Sys2Proof.Proofs.Recorder
end

section
/-! ### Reading the ledger: the cursors of the classes and the scan at power-on (R279, R280, R283) -/

namespace Sys2Proof.Proofs.LedgerReading

open Sys2Proof Sys2Proof.Machine Sys2Proof.Facts.Records

/-! #### A move is asked for (R280) -/

/-- The commands that move a class's cursor, with the value of LDG_CUR_CTL op that each writes (R280). -/
def cursorMoves (cls : KeyClass) : List (Instr × Nat) :=
  [(.cursorSeek cls, 1), (.cursorOldest cls, 2), (.cursorNewest cls, 3), (.cursorNext cls, 4), (.cursorPrev cls, 5), (.cursorFirst cls, 6)]

theorem cursorMoves_op {cls : KeyClass} {p : Instr × Nat} (hp : p ∈ cursorMoves cls) : 1 ≤ p.2 ∧ p.2 ≤ 6 := by
  simp only [cursorMoves, List.mem_cons, List.not_mem_nil, or_false] at hp
  rcases hp with rfl | rfl | rfl | rfl | rfl | rfl <;> simp

theorem exec_cursorMove {s : State} {cls : KeyClass} {p : Instr × Nat} (hp : p ∈ cursorMoves cls) (h : s.mayWrite cls 0x3014) : exec p.1 s = .next (s.cursorOp cls p.2) := by
  simp only [cursorMoves, List.mem_cons, List.not_mem_nil, or_false] at hp
  rcases hp with rfl | rfl | rfl | rfl | rfl | rfl <;> exact congrArg Host.Outcome.next (cursor_eq h _ (by decide))

/-- The move starts, unless one already runs (R280). -/
theorem cursorOp_self {s : State} {cls : KeyClass} {op : Nat} (hl : clsIx cls < s.ldg.cursors.length) (hop : 1 ≤ op ∧ op ≤ 6) :
    nth (s.cursorOp cls op).ldg.cursors (clsIx cls) =
      { nth s.ldg.cursors (clsIx cls) with op := if (nth s.ldg.cursors (clsIx cls)).op = 0 then op else (nth s.ldg.cursors (clsIx cls)).op } := by
  refine (nth_modNth_self hl).trans ?_
  by_cases hidle : (nth s.ldg.cursors (clsIx cls)).op = 0
  · rw [if_pos ⟨hidle, hop⟩, if_pos hidle]
  · rw [if_neg fun h => hidle h.1, if_neg hidle]

theorem cursorOp_other (s : State) {cls : KeyClass} (op : Nat) {k : Nat} (hk : k ≠ clsIx cls) : nth (s.cursorOp cls op).ldg.cursors k = nth s.ldg.cursors k :=
  nth_modNth_ne hk.symm

/-! #### Where a move leads (R280) -/

/-- The sequence that a class seeks, of LDG_CUR_SEQ. -/
def sought (s : State) (cls : KeyClass) : Nat := (s.reg (bankKey 0x3010 (clsIx cls))).toNat

theorem cursorDone_self {s : State} {cls : KeyClass} (hl : clsIx cls < s.ldg.cursors.length) :
    nth (s.cursorDone cls).ldg.cursors (clsIx cls) = { s.moveCursor (sought s cls) (nth s.ldg.cursors (clsIx cls)) with op := 0 } := nth_modNth_self hl

theorem cursorDone_other (s : State) {cls : KeyClass} {k : Nat} (hk : k ≠ clsIx cls) : nth (s.cursorDone cls).ldg.cursors k = nth s.ldg.cursors k :=
  nth_modNth_ne hk.symm

/-- The oldest record is one that reads valid. -/
theorem oldest_valid {s : State} {r : RecIx} (h : s.oldest = some r) : s.recValid r = true := by
  have hr := List.find?_some h
  simp only [Bool.and_eq_true] at hr
  exact hr.2

section
variable {s : State} {c : Cursor} {seq : Nat} {r r' : RecIx}

section
variable (hop : c.op = 1) (hf : s.ldg.circ.find? (fun x => x.seq = seq) = some r)
include hop hf

theorem moveCursor_seek (hb : seqBelow r.seq s.ldg.floor = false) : s.moveCursor seq c = s.cursorAt false (some r) := by
  obtain rfl : r.seq = seq := of_decide_eq_true (List.find?_some hf :)
  simp [State.moveCursor, hop, hf, hb]

theorem moveCursor_seekCleared (hb : seqBelow r.seq s.ldg.floor = true) : s.moveCursor seq c = { c with status := 4, op := 0 } := by
  obtain rfl : r.seq = seq := of_decide_eq_true (List.find?_some hf :)
  simp [State.moveCursor, hop, hf, hb]

end

theorem moveCursor_oldest (hop : c.op = 2) (h : s.oldest = some r) : s.moveCursor seq c = { area := false, ix := some r, status := 0 } := by
  simp only [State.moveCursor, hop, h, State.cursorAt, State.ixStatus, oldest_valid h, if_pos]

theorem moveCursor_first (hop : c.op = 6) (h : s.ldg.first.head? = some r) : s.moveCursor seq c = s.cursorAt true (some r) := by
  simp only [State.moveCursor, hop, h]

section
variable (hst : c.status < 2) (ha : c.area = false) (hix : c.ix = some r) (hb : seqBelow r.seq s.ldg.floor = false)
include ha hix hb

theorem belowFloor_present : s.belowFloor c = false := by
  simp [State.belowFloor, State.present, hix, ha, hb]

include hst

theorem moveCursor_next (hop : c.op = 4) (hn : nextOf s.ldg.circ r = some r') : s.moveCursor seq c = s.cursorAt false (some r') := by
  have hlapped : ¬(c.status = 2 ∨ c.status = 4) := by omega
  simp [State.moveCursor, hop, hlapped, belowFloor_present ha hix hb, hix, ha, hn]

theorem moveCursor_prev (hop : c.op = 5) (hp : prevOf s.ldg.circ r = some r') (hb' : seqBelow r'.seq s.ldg.floor = false) : s.moveCursor seq c = s.cursorAt false (some r') := by
  have hcleared : c.status ≠ 4 := by omega
  have hpresent : s.present false r' = true := by simp [State.present, hb']
  simp [State.moveCursor, hop, hcleared, belowFloor_present ha hix hb, hix, ha, hp, Option.filter, hpresent]

end

end

/-! #### The scan at power-on (R283) -/

/-- The records of an area up to the newest valid one. -/
def trimmed (s : State) (l : List RecIx) : List RecIx := l.take (l.length - (l.reverse.takeWhile (fun r => !s.recValid r)).length)

theorem scanDone_ledger (s : State) : s.scanDone.ldg.scanning = false ∧ s.scanDone.ldg.circ = trimmed s s.ldg.circ ∧ s.scanDone.ldg.first = trimmed s s.ldg.first := by
  unfold State.scanDone
  dsimp only
  split <;> simp only [stage_ldg_scanning, stage_ldg_circ, stage_ldg_first, apply_ite State.ldg, ite_self, trimmed, and_self]

theorem bootRow_ldg (s : State) (n : Nat) : (s.bootRow n).ldg = s.ldg := by
  unfold State.bootRow
  split <;> rfl

theorem ledgerScanned_due {s : State} (ha : s.alive = true) (hs : s.ldg.scanning = true) : s.ledgerScanned = s.scanDone.bootRow 11 := if_pos ⟨ha, hs⟩

/-- Settles O29: an idle cursor takes the move, each move leads where the records say, and the scan ends each area at its newest valid record. -/
theorem ledgerReading : Obligations.LedgerReading := by
  refine ⟨fun cls s hw hl p hp => ⟨_, exec_cursorMove hp hw, cursorOp_self hl (cursorMoves_op hp), fun k hk => cursorOp_other s p.2 hk⟩, fun cls s c hl hc => ?_, fun s ha hs => ?_⟩
  · refine ⟨_, rfl, fun k hk => cursorDone_other s hk, rfl, ?_⟩
    rw [cursorDone_self hl, hc]
    refine ⟨rfl, fun hop r hf => ⟨fun hb => ?seek, fun hb => ?seekCleared⟩, fun hop r hr => ?oldest, fun hop r hr => ?first, fun hop hst harea r r' hix hb hn => ?next,
      fun hop hst harea r r' hix hb hp hb' => ?prev⟩
    case seek => rw [moveCursor_seek (seq := sought s cls) hop hf hb]; rfl
    case seekCleared => rw [moveCursor_seekCleared (seq := sought s cls) hop hf hb]
    case oldest => rw [moveCursor_oldest hop hr]
    case first => rw [moveCursor_first hop hr]; rfl
    case next => rw [moveCursor_next hst harea hix hb hop hn]; rfl
    case prev => rw [moveCursor_prev hst harea hix hb hop hp hb']; rfl
  · obtain ⟨hscan, hcirc, hfirst⟩ := scanDone_ledger s
    obtain ⟨hcut, hlast⟩ := cut_props s s.ldg.circ
    obtain ⟨hcut', hlast'⟩ := cut_props s s.ldg.first
    refine ⟨_, congrArg Host.Outcome.next (ledgerScanned_due ha hs), ?_⟩
    beta_reduce
    rw [bootRow_ldg, hscan, hcirc, hfirst]
    exact ⟨rfl, hcut, hlast, hcut', hlast'⟩

end Sys2Proof.Proofs.LedgerReading
end

section
/-! ### Captures: trigger, end, protection and lease (R284, R285, R288-R290) -/

namespace Sys2Proof.Proofs.Captures

open Sys2Proof Sys2Proof.Machine Sys2Proof.Facts.Records

/-! #### The host's trigger and the end of a capture (R284, R288, R289) -/

theorem write_capCtl {s : State} {cls : KeyClass} (h : s.mayWrite cls 0x3404) (v : Word) : s.write cls 0x3404 v = s.writeCapCtl v := by
  obtain ⟨⟨r, hr, hm⟩, -⟩ := tgtcap
  exact write_applies h hr hm

theorem exec_capTrig {s : State} {cls : KeyClass} (h : s.mayWrite cls 0x3404) : exec (.capTrig cls) s = .next (s.modCap (fun x => { x with hostTrig := true })) :=
  congrArg Host.Outcome.next ((write_capCtl h 1).trans (if_pos (by decide)))

/-- A capture whose ticks are complete, as it waits to be written: protected when a TRIP record falls within its ticks (R289). -/
def ended (s : State) (c : Capture) : Capture := { c with protect := c.protect || (s.capCfg.protect && protects s.cap.trip c) }

theorem captureEnd_complete {s : State} {c : Capture} (hr : s.cap.recording = some c) (hw : c.want ≤ c.ticks.length) :
    s.captureEnd = s.modCap (fun x => { x with recording := none, waiting := x.waiting ++ [ended s c], writing := true, written := if x.writing then x.written else 0 }) := by
  rw [State.captureEnd, hr]
  refine (if_pos hw).trans ?_
  rw [State.endCapture, hr]
  rfl

/-! #### Protection of a slot (R289) -/

section
variable {s : State} {cls : KeyClass} (h : s.mayWrite cls 0x3414)
include h

theorem exec_slotProtect : exec (.slotProtect cls) s = .next (s.setProt (s.selSlot cls) true) := by
  obtain ⟨-, ⟨r, hr, hm⟩⟩ := tgtcap
  exact congrArg Host.Outcome.next (write_applies h hr hm)

theorem exec_slotUnprotect : exec (.slotUnprotect cls) s = .next (s.setProt (s.selSlot cls) false) := by
  obtain ⟨-, ⟨r, hr, hm⟩⟩ := tgtcap
  exact congrArg Host.Outcome.next (write_applies h hr hm)

end

theorem setProt_invalid {s : State} {k : Nat} (p : Bool) (h : (s.capSlot k).state ≠ 1) : s.setProt k p = s := if_pos h

/-! #### The lease of a slot lapses (R290) -/

theorem leaseTimeout_leased {s : State} {k n : Nat} (h : (s.capSlot k).lease = some n) : s.leaseTimeout k = (s.endLease n).endJob n jobDone 0 := by
  rw [State.leaseTimeout, h]

/-- A slot whose lease is a ticket's loses it. -/
theorem endLease_lease {s : State} {k n : Nat} (h : (s.capSlot k).lease = some n) : ((s.endLease n).capSlot k).lease = none := by
  have hk : k < s.cap.slots.length := by
    by_contra hk
    rw [State.capSlot, nth, List.getD_eq_default _ _ (by omega)] at h
    cases h
  have hslot : (s.endLease n).capSlot k = if (s.capSlot k).lease = some n then { s.capSlot k with lease := none } else s.capSlot k := Boundaries.nth_map hk
  rw [hslot, if_pos h]

theorem endJob_slots (s : State) (n a b : Nat) : (s.endJob n a b).cap.slots = s.cap.slots :=
  (Keeps.same (keeps_endJob (K := [.irq, .job, .ring, .trip]) n a b rfl (Keeps.refl _ s)) (p := .cap) (by decide)).2.2.2.2.2.1

theorem endJob_capSlot (s : State) (n a b k : Nat) : (s.endJob n a b).capSlot k = s.capSlot k := by
  rw [State.capSlot, endJob_slots, State.capSlot]

/-- Settles O30: a complete capture waits to be written, the protection of a valid slot reaches its header and its CRC (log entry 51), that of another slot changes nothing (log entry 1), and a lapsed lease ends its job. -/
theorem captures : Obligations.Captures := by
  refine ⟨fun cls s hw => exec_capTrig hw, fun s c hr hc => ⟨_, congrArg Host.Outcome.next (captureEnd_complete hr hc), rfl, rfl, rfl, rfl⟩,
    fun cls s hw hl => ⟨fun hst => ⟨?_, ?_⟩, fun hst hf hm p hp => ?_⟩, fun k n s j hk hj => ?_⟩
  · rw [exec_slotProtect hw, setProt_invalid _ hst]
  · rw [exec_slotUnprotect hw, setProt_invalid _ hst]
  · simp only [List.mem_cons, List.not_mem_nil, or_false] at hp
    rcases hp with rfl | rfl
    · exact ⟨_, exec_slotProtect hw, setProt_spec s _ true (sel_lt s cls) hl hst hf hm⟩
    · exact ⟨_, exec_slotUnprotect hw, setProt_spec s _ false (sel_lt s cls) hl hst hf hm⟩
  · obtain ⟨hout, hhist, -⟩ := endJob_job (s.endLease n) n jobDone 0 j hj
    refine ⟨_, congrArg Host.Outcome.next (leaseTimeout_leased hk), ?_, hout, hhist⟩
    rw [endJob_capSlot, endLease_lease hk]

end Sys2Proof.Proofs.Captures
end

section
/-! ### A step and what each command may change -/

namespace Sys2Proof.Proofs.Steps

open Sys2Proof Sys2Proof.Machine

/-- Settles O1: the queue's front decides the step (log entry 2 covers the empty queue). -/
theorem stepTakesFront : Obligations.StepTakesFront := fun _ _ _ h => Stores.step_front h

/-- Settles O5: each arm answers a next state, and the law of its operation carries its frame (log entry 1: also where the command's condition does not hold). -/
theorem commandsTouch : Obligations.CommandsTouch := by
  intro c s
  obtain ⟨t, ht, hk⟩ := StateMoves.exec_keeps c s
  exact ⟨t, ht, hk.1⟩

end Sys2Proof.Proofs.Steps
end

section
/-! ### Time offsets and the other messages of PTP (R298, R299, R301, R302, R304-R306) -/

namespace Sys2Proof.Proofs.TimeMessages

open Sys2Proof Sys2Proof.Machine Sys2Proof.Facts.TimeKeeping

/-! #### Messages of the selected port (R301) -/

section
variable {s : State} {p : Nat} {m : SyncIn} (hon : s.ptpOn p = true) (hsrc : s.srcEff = 1) (hport : s.ptp.port = p + 1)
include hon hsrc hport

theorem selected_port : ¬(s.ptpOn p = false ∨ s.srcEff ≠ 1 ∨ s.ptp.port ≠ p + 1) := by
  simp [hon, hsrc, hport]

/-- A one-step Sync carries its offset. -/
theorem ptpSync_oneStep (h : m.oneStep = true) : s.ptpSync p m = s.syncOffset p m.t1 m.t2 m.corr :=
  (if_neg (selected_port hon hsrc hport)).trans (if_pos h)

/-- A two-step Sync is held for its Follow_Up. -/
theorem ptpSync_twoStep (h : m.oneStep = false) : s.ptpSync p m = s.modPtp (fun x => { x with waiting := x.waiting.set p (some m) }) :=
  (if_neg (selected_port hon hsrc hport)).trans (if_neg (by simp [h]))

/-- The Follow_Up of the Sync held ends the wait and carries the offset. -/
theorem ptpFollowUp_answers (t1 corr : Int) (h : nth s.ptp.waiting p = some m) :
    s.ptpFollowUp p m.seq t1 corr = (s.modPtp (fun x => { x with waiting := x.waiting.set p none })).syncOffset p t1 m.t2 (m.corr + corr) := by
  rw [State.ptpFollowUp, h]
  exact if_neg (by simp [hon, hsrc, hport])

end

/-- Settles O31: the message answers its offset, and the offset is judged by `judge_spec` on the state that the message leaves. -/
theorem offsetJudged : Obligations.OffsetJudged := by
  intro s p c o hon hsrc hport hc
  rcases hc with ⟨m, rfl, hstep, rfl⟩ | ⟨m, t1, corr, rfl, hwait, rfl⟩
  · exact ⟨_, congrArg Host.Outcome.next (ptpSync_oneStep hon hsrc hport hstep), judge_spec s _⟩
  · exact ⟨_, congrArg Host.Outcome.next (ptpFollowUp_answers hon hsrc hport t1 corr hwait), judge_spec (s.modPtp fun x => { x with waiting := x.waiting.set p none }) _⟩

/-! #### A port that takes no PTP (R298) -/

section
variable {s : State} {p : Nat} (h : s.ptpOn p = false)
include h

theorem ptpSync_off (m : SyncIn) : s.ptpSync p m = s := if_pos (.inl h)

theorem announce_off (a : AnnounceIn) : s.announce p a = s := if_pos (.inl h)

theorem pdelayReq_off (q : Nat) (t2 t3 : Int) : s.pdelayReq p q t2 t3 = s := if_neg (by simp [h])

theorem pdelayResp_off (t1 t2 t3 t4 : Int) : s.pdelayResp p t1 t2 t3 t4 = s := if_neg (by simp [h])

end

/-! #### Announce (R298, R302) -/

/-- A port takes an Announce of its first master, of the same one, or of a better one (R298). -/
def announceTaken (s : State) (p : Nat) (a : AnnounceIn) : Bool :=
  match nth s.ptp.masters p with
  | none => true
  | some o => decide (o.gm = a.gm) || better (masterKey a) (masterKey o)

/-- The masters with the sender of an Announce, and the port selected among them. -/
def masterTaken (s : State) (p : Nat) (a : AnnounceIn) : State := (s.modPtp (fun x => { x with masters := x.masters.set p (some a) })).reselect

/-- The masters after an Announce. -/
def announced (s : State) (p : Nat) (a : AnnounceIn) : State := if announceTaken s p a then masterTaken s p a else s

theorem announce_judged {s : State} {p : Nat} {a : AnnounceIn} (hon : s.ptpOn p = true) (hd : a.domain = bitsOf s.ptpCtl 15 8) :
    s.announce p a = if (announced s p a).srcEff = 1 then ((announced s p a).dropHold [2, 3]).endHoldover else announced s p a :=
  if_neg (by simp [hon, hd])

/-- The causes of holdover that an Announce ends leave the masters as they are. -/
theorem announce_masters {s : State} {p : Nat} {a : AnnounceIn} (hon : s.ptpOn p = true) (hd : a.domain = bitsOf s.ptpCtl 15 8) :
    (s.announce p a).ptp.masters = (announced s p a).ptp.masters ∧ (s.announce p a).ptp.port = (announced s p a).ptp.port ∧ (s.announce p a).ptp.gm = (announced s p a).ptp.gm := by
  rw [announce_judged hon hd]
  split
  · exact dropEnd _ _
  · exact ⟨rfl, rfl, rfl⟩

/-- A selection among masters of which one stands on a port that takes PTP finds a port and its grandmaster. -/
theorem reselect_found {s : State} {p : Nat} {a : AnnounceIn} (hon : s.ptpOn p = true) (h : nth s.ptp.masters p = some a) :
    s.reselect.ptp.masters = s.ptp.masters ∧ s.reselect.ptp.port ≠ 0 ∧ s.reselect.ptp.gm.isSome = true := by
  obtain ⟨hport, b, hb⟩ := best_some s p a hon h
  rw [resel, if_neg hport, hb]
  exact ⟨rfl, hport, rfl⟩

theorem masterTaken_spec {s : State} {p : Nat} {a : AnnounceIn} (hon : s.ptpOn p = true) (hl : p < s.ptp.masters.length) :
    nth (masterTaken s p a).ptp.masters p = some a ∧ (masterTaken s p a).ptp.port ≠ 0 ∧ (masterTaken s p a).ptp.gm.isSome = true := by
  have hset : nth (s.ptp.masters.set p (some a)) p = some a := nth_set_self hl
  obtain ⟨hmasters, hfound⟩ := reselect_found (s := s.modPtp (fun x => { x with masters := x.masters.set p (some a) })) hon hset
  exact ⟨(congrArg (nth · p) hmasters).trans hset, hfound⟩

theorem announced_first {s : State} {p : Nat} {a : AnnounceIn} (h : nth s.ptp.masters p = none) : announced s p a = masterTaken s p a :=
  if_pos (by rw [announceTaken, h])

theorem announced_worse {s : State} {p : Nat} {a o : AnnounceIn} (h : nth s.ptp.masters p = some o) (hgm : o.gm ≠ a.gm) (hb : better (masterKey a) (masterKey o) = false) :
    announced s p a = s :=
  if_neg (by rw [announceTaken, h]; simp [hgm, hb])

/-! #### What ends without a message (R301, R302, R306) -/

/-- The masters without that of a port whose Announces ended. -/
def masterLost (s : State) (p : Nat) : State := (s.modPtp (fun x => { x with masters := x.masters.set p none })).reselect

/-- The loss of the only master selects no port, and leaves the servo's state. -/
theorem masterLost_last {s : State} {p : Nat} (hp : p < 2) (hl : s.ptp.masters.length = 2) (ho : nth s.ptp.masters (1 - p) = none) :
    nth (masterLost s p).ptp.masters p = none ∧ (masterLost s p).ptp.port = 0 ∧ (masterLost s p).ptp.state = s.ptp.state := by
  have hset : nth (s.ptp.masters.set p none) p = none := nth_set_self (by omega)
  have hother : nth (s.ptp.masters.set p none) (1 - p) = none := by rw [nth_set_ne (by omega), ho]
  have hbest := best_none (s.modPtp (fun x => { x with masters := x.masters.set p none })) p hp hset hother
  rw [masterLost, resel, hbest]
  exact ⟨hset, rfl, rfl⟩

/-- Where the time comes from is read off the registers, the straps and the ports of the chain. -/
theorem srcEff_congr {s t : State} (hregs : t.regs = s.regs) (hpwr : t.pwr = s.pwr) (hchn : t.chn = s.chn) : t.srcEff = s.srcEff := by
  unfold State.srcEff State.follower State.ptpCtl State.reg
  rw [hregs, hpwr, hchn]

theorem masterLost_srcEff (s : State) (p : Nat) : (masterLost s p).srcEff = s.srcEff := by
  have hk := keeps_reselect (K := [.irq, .ring, .trip, .ptp]) rfl (Keeps.refl _ (s.modPtp (fun x => { x with masters := x.masters.set p none })))
  exact srcEff_congr (hk.same (p := .regs) (by decide)) (hk.same (p := .pwr) (by decide)) (hk.same (p := .chn) (by decide))

theorem announceTimeout_lost {s : State} {p : Nat} {a : AnnounceIn} (ha : nth s.ptp.masters p = some a) :
    s.announceTimeout p = if decide (s.ptp.port = p + 1) && decide ((masterLost s p).ptp.port = 0) && decide ((masterLost s p).srcEff = 1) then (masterLost s p).holdover 2 else masterLost s p :=
  if_neg (by simp [ha])

/-- Holdover from a state that follows a time keeps the masters and the port, and holds its cause. -/
theorem holdover_enters {s : State} {c : Nat} (h : s.ptp.state = 1 ∨ s.ptp.state = 2) :
    (s.holdover c).ptp.state = 3 ∧ c ∈ (s.holdover c).ptp.causes ∧ (s.holdover c).ptp.hoOt = s.pwr.ot ∧ (s.holdover c).ptp.adj = s.heldAdj ∧
      (s.holdover c).ptp.masters = s.ptp.masters ∧ (s.holdover c).ptp.port = s.ptp.port := by
  rw [hold2 s c h]
  refine ⟨rfl, ?_, rfl, rfl, rfl, rfl⟩
  by_cases hc : c ∈ s.ptp.causes <;> simp [hc]

theorem realigned_due {s : State} (h : s.ptp.realign = true) : s.realigned.ptp = { s.ptp with realign := false, good := 0 } := by
  rw [State.realigned, if_pos h, stage_ptp]
  rfl

/-- Settles O32: a message acts on a port that takes PTP (elsewhere nothing changes, log entry 1), an Announce by the masters that it leaves, a loss by the holdover that it begins. -/
theorem ptpMessages : Obligations.PtpMessages := by
  refine ⟨fun p m s hon hsrc hport h => congrArg Host.Outcome.next (ptpSync_twoStep hon hsrc hport h), fun p s h => ⟨fun m => ?_, fun a => ?_, fun q t2 t3 => ?_, fun a b c d => ?_⟩,
    fun p q t2 t3 s hon => congrArg Host.Outcome.next (if_pos hon), fun p t1 t2 t3 t4 s hon hl => ⟨_, congrArg Host.Outcome.next (if_pos hon), nth_modNth_self hl, fun k hk => nth_modNth_ne hk.symm⟩,
    fun p a s hon hd hl => ⟨fun hn => ⟨_, rfl, ?_⟩, fun o ho hgm hb => ⟨_, rfl, ?_⟩⟩, fun s => ⟨fun h => congrArg Host.Outcome.next (if_neg h), fun hsrc hst => ⟨_, congrArg Host.Outcome.next (if_pos hsrc), ?_⟩⟩,
    fun p a s hp hl ha ho hport hsrc hst => ?_, fun s => ⟨fun h => ⟨_, rfl, realigned_due h⟩, fun h => congrArg Host.Outcome.next (if_neg (by simp [h]))⟩⟩
  · exact congrArg Host.Outcome.next (ptpSync_off h m)
  · exact congrArg Host.Outcome.next (announce_off h a)
  · exact congrArg Host.Outcome.next (pdelayReq_off h q t2 t3)
  · exact congrArg Host.Outcome.next (pdelayResp_off h a b c d)
  · obtain ⟨hmasters, hsel, hgm⟩ := announce_masters hon hd
    rw [hmasters, hsel, hgm, announced_first hn]
    exact masterTaken_spec hon hl
  · have hm := announce_masters hon hd
    rwa [announced_worse ho hgm hb] at hm
  · obtain ⟨hstate, hcause, hot, hadj, -⟩ := holdover_enters (c := 1) hst
    exact ⟨hstate, hcause, hot, hadj⟩
  · obtain ⟨hmaster, hnone, hstate⟩ := masterLost_last hp hl ho
    obtain ⟨hst3, hcause, -, -, hmasters, hkept⟩ := holdover_enters (s := masterLost s p) (c := 2) (by rwa [hstate])
    exact ⟨_, congrArg Host.Outcome.next ((announceTimeout_lost ha).trans (if_pos (by simp [hport, hnone, masterLost_srcEff, hsrc]))), hst3, hcause, hkept.trans hnone, (congrArg (nth · p) hmasters).trans hmaster⟩

end Sys2Proof.Proofs.TimeMessages
end

section
/-! ### Ethernet links, redundant LANs, module and management frames (R302, R307-R309, R322) -/

namespace Sys2Proof.Proofs.LinksAndManagement

open Sys2Proof Sys2Proof.Machine Sys2Proof.Facts.StreamRules

/-! #### Links (R302, R307) -/

/-- The state with a link as read. -/
def linkRead (s : State) (m : Nat) (up : Bool) (v : Nat) : State :=
  { s with svc := { s.svc with mac := modNth s.svc.mac m (fun x => { x with link := up, speed := v % 4 }) } }

/-- The state with the change of a link recorded. -/
def linkTold (s : State) (m : Nat) (up : Bool) (v : Nat) : State :=
  if (nth s.svc.mac m).link = up then linkRead s m up v else (linkRead s m up v).stage 0x00F3 (if up then 0 else 1) []

theorem linkTold_keeps (s : State) (m : Nat) (up : Bool) (v : Nat) : Keeps [.irq, .ring, .trip] (linkRead s m up v) (linkTold s m up v) :=
  Keeps.opt (Keeps.refl _ _) (keeps_stage _ _ _ rfl (Keeps.refl _ _))

theorem linkTold_svc (s : State) (m : Nat) (up : Bool) (v : Nat) : (linkTold s m up v).svc = (linkRead s m up v).svc := (linkTold_keeps s m up v).same (p := .svc) (by decide)

theorem linkTold_ptp (s : State) (m : Nat) (up : Bool) (v : Nat) : (linkTold s m up v).ptp = s.ptp := (linkTold_keeps s m up v).same (p := .ptp) (by decide)

/-- The ports that PTP may use and the source of time do not follow a link. -/
theorem linkTold_same (s : State) (m : Nat) (up : Bool) (v : Nat) : (linkTold s m up v).srcEff = s.srcEff ∧ ∀ k, (linkTold s m up v).portEn k = s.portEn k := by
  have hk := linkTold_keeps s m up v
  have hregs : (linkTold s m up v).regs = s.regs := hk.same (p := .regs) (by decide)
  refine ⟨TimeMessages.srcEff_congr hregs (hk.same (p := .pwr) (by decide)) (hk.same (p := .chn) (by decide)), fun k => ?_⟩
  rw [State.portEn, State.ptpCtl, State.reg, hregs]
  rfl

section
variable {s : State} {m : Nat} {up : Bool} {v : Nat}

theorem ethLink_unchanged (h : (nth s.svc.mac m).link = up ∧ (up = false ∨ (nth s.svc.mac m).speed = v)) : s.ethLink m up v = s := if_pos (.inr h)

theorem ethLink_changed (hm : m < 2) (h : ¬((nth s.svc.mac m).link = up ∧ (up = false ∨ (nth s.svc.mac m).speed = v))) :
    s.ethLink m up v = if !up && (linkTold s m up v).linksDown && decide ((linkTold s m up v).srcEff = 1) then (linkTold s m up v).holdover 3 else linkTold s m up v :=
  if_neg (by simpa [Nat.not_le.mpr hm] using h)

/-- A change of a link reaches its own port. -/
theorem ethLink_svc (hm : m < 2) (h : ¬((nth s.svc.mac m).link = up ∧ (up = false ∨ (nth s.svc.mac m).speed = v))) : (s.ethLink m up v).svc = (linkRead s m up v).svc := by
  rw [ethLink_changed hm h, ← linkTold_svc]
  split
  · exact hold_svc _ 3
  · rfl

/-- A link reads as it came, the other ports and the contexts as before. -/
theorem ethLink_read (hm : m < 2) (hl : m < s.svc.mac.length) (hv : v < 4) :
    (nth (s.ethLink m up v).svc.mac m).link = up ∧ (up = true → (nth (s.ethLink m up v).svc.mac m).speed = v) ∧ (∀ k, k ≠ m → nth (s.ethLink m up v).svc.mac k = nth s.svc.mac k) ∧
      (s.ethLink m up v).svc.ctx = s.svc.ctx := by
  by_cases h : (nth s.svc.mac m).link = up ∧ (up = false ∨ (nth s.svc.mac m).speed = v)
  · rw [ethLink_unchanged h]
    exact ⟨h.1, fun hup => h.2.resolve_left (by simp [hup]), fun _ _ => rfl, rfl⟩
  · rw [ethLink_svc hm h]
    have hmac : nth (linkRead s m up v).svc.mac m = { nth s.svc.mac m with link := up, speed := v % 4 } := nth_modNth_self hl
    rw [hmac]
    exact ⟨rfl, fun _ => Nat.mod_eq_of_lt hv, fun k hk => nth_modNth_ne hk.symm, rfl⟩

/-- A link that comes up leaves the time state. -/
theorem ethLink_up_ptp (hm : m < 2) (hup : up = true) : (s.ethLink m up v).ptp = s.ptp := by
  by_cases h : (nth s.svc.mac m).link = up ∧ (up = false ∨ (nth s.svc.mac m).speed = v)
  · rw [ethLink_unchanged h]
  · rw [ethLink_changed hm h, if_neg (by simp [hup]), linkTold_ptp]

/-- With a link's loss no port that PTP may use has one, where the others had none. -/
theorem linksDown_of_last (hl : m < s.svc.mac.length) (ho : ∀ k, k < 2 → k ≠ m → s.portEn k = true → (nth s.svc.mac k).link = false) : (linkTold s m false v).linksDown = true := by
  obtain ⟨-, hen⟩ := linkTold_same s m false v
  simp only [State.linksDown, List.all_eq_true, List.mem_range, Bool.or_eq_true, Bool.not_eq_true', hen, linkTold_svc]
  intro k hk
  by_cases hkm : k = m
  · subst hkm
    exact .inr (congrArg MacSt.link (nth_modNth_self hl))
  · by_cases hp : s.portEn k = true
    · exact .inr ((congrArg MacSt.link (nth_modNth_ne (Ne.symm hkm))).trans (ho k hk hkm hp))
    · exact .inl (by simpa using hp)

/-- The loss of the last link leaves a servo that follows PTP in holdover (R302). -/
theorem ethLink_lost (hm : m < 2) (hl : m < s.svc.mac.length) (hlink : (nth s.svc.mac m).link = true)
    (ho : ∀ k, k < 2 → k ≠ m → s.portEn k = true → (nth s.svc.mac k).link = false) (hsrc : s.srcEff = 1) : s.ethLink m false v = (linkTold s m false v).holdover 3 := by
  rw [ethLink_changed hm (by simp [hlink]), if_pos (by simp [linksDown_of_last hl ho, (linkTold_same s m false v).1, hsrc])]

end

/-! #### Redundant LANs (R308) -/

theorem lanFault_spec {s : State} {l : Nat} (h2 : l < 2) (hl : l < s.svc.mac.length) :
    nth (s.lanFault l).svc.mac l = { nth s.svc.mac l with fault := true } ∧ (∀ k, k ≠ l → nth (s.lanFault l).svc.mac k = nth s.svc.mac k) ∧ (s.lanFault l).svc.ctx = s.svc.ctx := by
  unfold State.lanFault
  cases hf : (nth s.svc.mac l).fault
  · rw [if_pos ⟨h2, rfl⟩, stage_svc]
    exact ⟨nth_modNth_self hl, fun k hk => nth_modNth_ne hk.symm, rfl⟩
  · rw [if_neg (by simp), ← hf]
    exact ⟨rfl, fun _ _ => rfl, rfl⟩

/-! #### Management frames (R309, R322) -/

section
variable {s : State} {m : Nat} {f : MgmtIn} (hon : s.macOn m = true) (ha : s.alive = true)
include hon ha

theorem mgmtFrame_served (hen : bitAt (s.reg 0x3C0C) m = true) (h1 : 1 ≤ f.count) (h32 : f.count ≤ 32) (hc : f.count = f.txns.length) :
    s.mgmtFrame m f = (s.serveAll f.txns).1.send [.mgmt m f.src f.seq (s.serveAll f.txns).2] :=
  (if_neg (by simp [hon, ha])).trans (if_pos ⟨hen, h1, h32, hc⟩)

theorem mgmtFrame_dropped (h : bitAt (s.reg 0x3C0C) m = false ∨ f.count = 0 ∨ 32 < f.count ∨ f.count ≠ f.txns.length) : s.mgmtFrame m f = s.dropFrame m := by
  refine (if_neg (by simp [hon, ha])).trans (if_neg ?_)
  rintro ⟨hen, h1, h32, hc⟩
  rcases h with h | h | h | h
  · simp [hen] at h
  · omega
  · omega
  · exact h hc

end

/-- Settles O34: a link by what it reads and by the holdover of the last one, and a management frame by the transactions that it carries, served and answered within the command (log entry 44). -/
theorem linksAndManagement : Obligations.LinksAndManagement := by
  refine ⟨fun m up v s hm hl hv => ⟨_, rfl, ?_⟩, fun s h => congrArg Host.Outcome.next (if_pos (by simpa using h)), fun l s h2 hl => ⟨_, rfl, lanFault_spec h2 hl⟩,
    fun m f s hon ha => ⟨fun hen h1 h32 hc => ⟨_, congrArg Host.Outcome.next (mgmtFrame_served hon ha hen h1 h32 hc), rfl, (serve_len s f.txns).trans hc.symm⟩,
      fun h => congrArg Host.Outcome.next (mgmtFrame_dropped hon ha h)⟩⟩
  obtain ⟨hlink, hspeed, hother, hctx⟩ := ethLink_read (up := up) hm hl hv
  refine ⟨hlink, hspeed, hother, hctx, ?_, ethLink_up_ptp hm⟩
  rintro hwas rfl ho hsrc hst
  rw [ethLink_lost hm hl hwas ho hsrc]
  exact hold2 _ 3 (by rwa [linkTold_ptp])

end Sys2Proof.Proofs.LinksAndManagement
end

section
/-! ### Subscribed streams: samples and event messages judged and kept (R308, R310, R317, R320, R322) -/

namespace Sys2Proof.Proofs.SubscribedStreams

open Sys2Proof Sys2Proof.Machine Sys2Proof.Facts.StreamRules

/-! #### Copies of a LAN pair and frames of no context (R308, R310) -/

theorem svFrame_copy {s : State} {m : Nat} {f : SvIn} (hon : s.macOn m = true) (hd : (s.prp m f.src f.trailer).2 = true) : s.svFrame m f = (s.prp m f.src f.trailer).1 :=
  (if_neg (by simp [hon])).trans (if_pos hd)

theorem eventFrame_copy {s : State} {m : Nat} {f : EventIn} (hon : s.macOn m = true) (hd : (s.prp m f.src f.trailer).2 = true) : s.eventFrame m f = (s.prp m f.src f.trailer).1 :=
  (if_neg (by simp [hon])).trans (if_pos hd)

/-- A second copy within 400 ms is counted and keeps every context. -/
theorem copies_counted {s : State} {m q l : Nat} {p : Nat × Nat × Nat × Nat} (hon : s.macOn m = true) (hp : p ∈ s.svc.seen) (hq : p.2.1 = q) (ht : s.pwr.ot ≤ p.2.2.2 + 400000)
    {c : Instr} (hc : c ∈ [Instr.svFrameReceived m { (default : SvIn) with src := p.1, trailer := some (q, l) }, .eventMessageReceived m { (default : EventIn) with src := p.1, trailer := some (q, l) }]) :
    Leads (exec c s) fun t => t.svc.ctx = s.svc.ctx ∧ t.svc.dups = satInc 65535 s.svc.dups := by
  obtain ⟨hdup, hkept⟩ := prp_dup s m p.1 q l p hp rfl hq ht
  simp only [List.mem_cons, List.not_mem_nil, or_false] at hc
  rcases hc with rfl | rfl
  · exact ⟨_, congrArg Host.Outcome.next (svFrame_copy hon hdup), hkept⟩
  · exact ⟨_, congrArg Host.Outcome.next (eventFrame_copy hon hdup), hkept⟩

/-! #### Samples (R317) -/

/-- A sample whose context takes it: counted, and the latest of its context. -/
def sampleCounted (s : State) (f : SvIn) (x : CtxSt) : CtxSt :=
  { x with frames := (x.frames + 1) % 65536, missed := satAdd 65535 x.missed (if x.started then skipped s.fp x.last f.smpCnt else 0), last := f.smpCnt,
           test := f.items.any (fun it => it.2.testBit 3), started := true }

/-- A counted sample is kept for its tick, or is late. -/
def sampleKept (s : State) (c : StreamCfg) (f : SvIn) (x : CtxSt) : CtxSt :=
  if s.readAt f.smpCnt c.delay ≤ s.tickNear then { x with late := satInc 255 x.late }
  else { x with held := x.held ++ [{ at_ := s.readAt f.smpCnt c.delay, cnt := f.smpCnt, synch := f.smpSynch, items := f.items }] }

/-- A context after a frame that names it (R317). -/
def sampleJudged (s : State) (c : StreamCfg) (f : SvIn) (x : CtxSt) : CtxSt :=
  if f.rate ≠ s.fp then { x with rate := satInc 255 x.rate }
  else if f.items.length ≠ c.count then { x with format := satInc 255 x.format }
  else if x.held.any (fun h => h.at_ = s.readAt f.smpCnt c.delay) ∨ (x.started ∧ x.last = f.smpCnt) then { x with dups := satInc 255 x.dups }
  else sampleKept s c f (sampleCounted s f x)

/-- A frame that no copy precedes reaches the context that it names, and no other. -/
theorem svFrame_ctx {s : State} {m i : Nat} {c : StreamCfg} {f : SvIn} (hon : s.macOn m = true) (hf : Fresh s f.src f.trailer)
    (hi : s.matchCtx 0 m f.mac f.appid f.hash = some i) (hc : s.ctxCfg i = some c) (hl : i < s.svc.ctx.length) :
    (s.svFrame m f).ctx i = sampleJudged s c f (s.ctx i) ∧ ∀ k, k ≠ i → (s.svFrame m f).ctx k = s.ctx k := by
  obtain ⟨g, hg, hctx, -, -⟩ := prp_fresh s m f.src f.trailer hf
  have hu : ∀ k, (s.modSvc g).ctx k = s.ctx k := fun k => congrArg (nth · k) (hctx s.svc)
  have hlu : i < (s.modSvc g).svc.ctx.length := lt_of_lt_of_eq hl (congrArg List.length (hctx s.svc)).symm
  have hiu : (s.modSvc g).matchCtx 0 m f.mac f.appid f.hash = some i := hi
  have hcu : (s.modSvc g).ctxCfg i = some c := hc
  have hread : (s.modSvc g).readAt f.smpCnt c.delay = s.readAt f.smpCnt c.delay := rfl
  have hfp : (s.modSvc g).fp = s.fp := rfl
  have hnear (F : CtxSt → CtxSt) : ((s.modSvc g).modCtx i F).tickNear = s.tickNear := rfl
  have one (F : CtxSt → CtxSt) : ((s.modSvc g).modCtx i F).ctx i = F (s.ctx i) ∧ ∀ k, k ≠ i → ((s.modSvc g).modCtx i F).ctx k = s.ctx k :=
    ⟨by rw [ctx_mod _ _ _ hlu, hu], fun k hk => by rw [ctx_ne _ _ _ _ hk, hu]⟩
  have two (F G : CtxSt → CtxSt) : (((s.modSvc g).modCtx i F).modCtx i G).ctx i = G (F (s.ctx i)) ∧ ∀ k, k ≠ i → (((s.modSvc g).modCtx i F).modCtx i G).ctx k = s.ctx k :=
    ⟨by rw [ctx_mod _ _ _ (by rw [ctx_len]; exact hlu), (one F).1], fun k hk => by rw [ctx_ne _ _ _ _ hk, (one F).2 k hk]⟩
  unfold State.svFrame sampleJudged
  simp only [hon, hg, Bool.true_eq_false, Bool.false_eq_true, if_false, hiu, hcu, Option.getD_some, hread, hfp, hnear, hu]
  by_cases hrate : f.rate ≠ s.fp
  · rw [if_pos hrate, if_pos hrate]
    exact one _
  rw [if_neg hrate, if_neg hrate]
  by_cases hcount : f.items.length ≠ c.count
  · rw [if_pos hcount, if_pos hcount]
    exact one _
  rw [if_neg hcount, if_neg hcount]
  by_cases hdup : (s.ctx i).held.any (fun h => h.at_ = s.readAt f.smpCnt c.delay) ∨ ((s.ctx i).started ∧ (s.ctx i).last = f.smpCnt)
  · rw [if_pos hdup, if_pos hdup]
    exact one _
  rw [if_neg hdup, if_neg hdup, sampleKept]
  by_cases hlate : s.readAt f.smpCnt c.delay ≤ s.tickNear
  · rw [if_pos hlate, if_pos hlate]
    exact two _ _
  · rw [if_neg hlate, if_neg hlate]
    exact two _ _

theorem svFrame_unmatched {s : State} {m : Nat} {f : SvIn} (hon : s.macOn m = true) (hf : Fresh s f.src f.trailer) (hl : m < s.svc.mac.length) (hn : s.matchCtx 0 m f.mac f.appid f.hash = none) :
    (s.svFrame m f).svc.ctx = s.svc.ctx ∧ (nth (s.svFrame m f).svc.mac m).dropped = satInc 65535 (nth s.svc.mac m).dropped := by
  obtain ⟨g, hg, hctx, hlen, hdrop⟩ := prp_fresh s m f.src f.trailer hf
  have hframe : s.svFrame m f = (s.modSvc g).dropFrame m := by
    have hnu : (s.modSvc g).matchCtx 0 m f.mac f.appid f.hash = none := hn
    simp [State.svFrame, hon, hg, hnu]
  rw [hframe]
  refine ⟨hctx s.svc, ?_⟩
  exact (congrArg MacSt.dropped (nth_modNth_self (hlen.symm ▸ hl))).trans (congrArg (satInc 65535) (hdrop m))

/-! #### The branches of a judged sample (R317) -/

section
variable {s : State} {c : StreamCfg} {f : SvIn} {x : CtxSt}

theorem sampleJudged_rate (h : f.rate ≠ s.fp) : sampleJudged s c f x = { x with rate := satInc 255 x.rate } := if_pos h

section
variable (hr : f.rate = s.fp)
include hr

theorem sampleJudged_format (h : f.items.length ≠ c.count) : sampleJudged s c f x = { x with format := satInc 255 x.format } :=
  (if_neg (not_not.mpr hr)).trans (if_pos h)

variable (hn : f.items.length = c.count)
include hn

theorem sampleJudged_repeated (h : (∃ y ∈ x.held, y.at_ = s.readAt f.smpCnt c.delay) ∨ (x.started = true ∧ x.last = f.smpCnt)) :
    sampleJudged s c f x = { x with dups := satInc 255 x.dups } :=
  (if_neg (not_not.mpr hr)).trans ((if_neg (not_not.mpr hn)).trans (if_pos (by simpa using h)))

theorem sampleJudged_new (hheld : ∀ y ∈ x.held, y.at_ ≠ s.readAt f.smpCnt c.delay) (hlast : x.started = true → x.last ≠ f.smpCnt) :
    sampleJudged s c f x = sampleKept s c f (sampleCounted s f x) := by
  refine (if_neg (not_not.mpr hr)).trans ((if_neg (not_not.mpr hn)).trans (if_neg ?_))
  simp only [List.any_eq_true, decide_eq_true_eq, not_or, not_exists, not_and]
  exact ⟨hheld, hlast⟩

end

/-- A kept sample is counted once, and waits unless its tick is past. -/
theorem sampleKept_spec : (sampleKept s c f (sampleCounted s f x)).frames = (x.frames + 1) % 65536 ∧ (sampleKept s c f (sampleCounted s f x)).last = f.smpCnt ∧
    (sampleKept s c f (sampleCounted s f x)).started = true ∧
    (s.tickNear < s.readAt f.smpCnt c.delay →
      (sampleKept s c f (sampleCounted s f x)).held = x.held ++ [{ at_ := s.readAt f.smpCnt c.delay, cnt := f.smpCnt, synch := f.smpSynch, items := f.items }] ∧
      (sampleKept s c f (sampleCounted s f x)).late = x.late) ∧
    (s.readAt f.smpCnt c.delay ≤ s.tickNear → (sampleKept s c f (sampleCounted s f x)).held = x.held ∧ (sampleKept s c f (sampleCounted s f x)).late = satInc 255 x.late) := by
  unfold sampleKept
  split
  · next h => exact ⟨rfl, rfl, rfl, fun hn => absurd h (Nat.not_le.mpr hn), fun _ => ⟨rfl, rfl⟩⟩
  · next h => exact ⟨rfl, rfl, rfl, fun _ => ⟨rfl, rfl⟩, fun hn => absurd hn h⟩

end

/-! #### Event messages (R320) -/

/-- A context with a message taken. -/
def messageTaken (s : State) (f : EventIn) (x : CtxSt) : CtxSt :=
  { x with frames := (x.frames + 1) % 65536, last := f.stNum, sq := f.sqNum, ttl := f.ttl, test := f.test, started := true, got := s.pwr.ot,
           msg := f.members.map (fun b => b.getD false), stands := !f.ndsCom && !f.sim }

/-- A message that bars its context: one with ndsCom or simulation, or a test message outside TEST. -/
def Barred (s : State) (f : EventIn) : Prop := (f.test = true ∧ s.sys.st ≠ .test) ∨ f.ndsCom = true ∨ f.sim = true

theorem ctxLost_ctx {u : State} {i : Nat} (hl : i < u.svc.ctx.length) : (u.ctxLost i).ctx i = { u.ctx i with valid := false, lost := true } ∧ ∀ k, k ≠ i → (u.ctxLost i).ctx k = u.ctx k := by
  unfold State.ctxLost
  exact ⟨by rw [ctx_stage, ctx_mod _ _ _ hl], fun k hk => by rw [ctx_stage, ctx_ne _ _ _ _ hk]⟩

theorem eventGood_ctx {u : State} {i : Nat} (hl : i < u.svc.ctx.length) :
    (u.eventGood i).ctx i = { u.ctx i with bits := (u.ctx i).msg, valid := true, lost := false, off := 0 } ∧ ∀ k, k ≠ i → (u.eventGood i).ctx k = u.ctx k := by
  have hk (v : State) (q : Bool) (k : Nat) : (if q then v.stage 0x00F5 0 [] else v).ctx k = v.ctx k := by
    split
    · exact ctx_stage ..
    · rfl
  unfold State.eventGood State.ctxBack
  exact ⟨by rw [hk, ctx_mod _ _ _ (by rw [ctx_len]; exact hl), ctx_mod _ _ _ hl], fun k hne => by rw [hk, ctx_ne _ _ _ _ hne, ctx_ne _ _ _ _ hne]⟩

section
variable {s : State} {m i : Nat} {c : StreamCfg} {f : EventIn}

/-- A message that no copy precedes and that is not a repeat is taken by its context, which it bars or makes good. -/
theorem eventFrame_taken (hon : s.macOn m = true) (hf : Fresh s f.src f.trailer) (hi : s.matchCtx 1 m f.mac f.appid f.hash = some i) (hc : s.ctxCfg i = some c)
    (hn : f.members.length = c.count) (hm : ∀ b ∈ f.members, b ≠ none) (hnew : (s.ctx i).started = true → (s.ctx i).last = f.stNum → (s.ctx i).sq ≠ f.sqNum) :
    ∃ g : Svc → Svc, (∀ x, (g x).ctx = x.ctx) ∧
      (Barred s f → s.eventFrame m f = if (s.ctx i).valid then ((s.modSvc g).modCtx i (messageTaken s f)).ctxLost i else (s.modSvc g).modCtx i (messageTaken s f)) ∧
      (¬Barred s f → s.eventFrame m f = ((s.modSvc g).modCtx i (messageTaken s f)).eventGood i) := by
  obtain ⟨g, hg, hctx, -, -⟩ := prp_fresh s m f.src f.trailer hf
  have hx : (s.modSvc g).ctx i = s.ctx i := congrArg (nth · i) (hctx s.svc)
  have hiu : (s.modSvc g).matchCtx 1 m f.mac f.appid f.hash = some i := hi
  have hcu : (s.modSvc g).ctxCfg i = some c := hc
  have hformat : ¬(f.members.length ≠ c.count ∨ f.members.any (fun b => b.isNone) = true) := by
    simp only [ne_eq, hn, not_true_eq_false, false_or, List.any_eq_true, Option.isNone_iff_eq_none, not_exists, not_and]
    exact hm
  have hrepeat : ¬((s.ctx i).started = true ∧ (s.ctx i).last = f.stNum ∧ (s.ctx i).sq = f.sqNum) := fun ⟨h1, h2, h3⟩ => hnew h1 h2 h3
  have hframe : s.eventFrame m f = if (f.test ∧ s.sys.st ≠ .test) ∨ f.ndsCom ∨ f.sim then
      (if (s.ctx i).valid then ((s.modSvc g).modCtx i (messageTaken s f)).ctxLost i else (s.modSvc g).modCtx i (messageTaken s f))
      else ((s.modSvc g).modCtx i (messageTaken s f)).eventGood i := by
    unfold State.eventFrame
    simp only [hon, hg, Bool.true_eq_false, Bool.false_eq_true, if_false, hiu, hcu, Option.getD_some, hx]
    rw [if_neg hformat, if_neg hrepeat]
    rfl
  exact ⟨g, hctx, fun h => hframe.trans (if_pos h), fun h => hframe.trans (if_neg h)⟩

end

/-- The contexts once a message is taken. -/
theorem messageTaken_ctx {s : State} {i : Nat} {f : EventIn} {g : Svc → Svc} (hg : ∀ x, (g x).ctx = x.ctx) (hl : i < s.svc.ctx.length) :
    ((s.modSvc g).modCtx i (messageTaken s f)).ctx i = messageTaken s f (s.ctx i) ∧ (∀ k, k ≠ i → ((s.modSvc g).modCtx i (messageTaken s f)).ctx k = s.ctx k) ∧
      i < ((s.modSvc g).modCtx i (messageTaken s f)).svc.ctx.length := by
  have hlen : i < (s.modSvc g).svc.ctx.length := lt_of_lt_of_eq hl (congrArg List.length (hg s.svc)).symm
  have hx (k : Nat) : (s.modSvc g).ctx k = s.ctx k := congrArg (nth · k) (hg s.svc)
  exact ⟨by rw [ctx_mod _ _ _ hlen, hx], fun k hk => by rw [ctx_ne _ _ _ _ hk, hx], by rwa [ctx_len]⟩

/-- A barred message makes its context invalid and keeps the values that it reads. -/
theorem barred_ctx {s : State} {i : Nat} {f : EventIn} {g : Svc → Svc} (hg : ∀ x, (g x).ctx = x.ctx) (hl : i < s.svc.ctx.length) :
    let t := if (s.ctx i).valid then ((s.modSvc g).modCtx i (messageTaken s f)).ctxLost i else (s.modSvc g).modCtx i (messageTaken s f)
    (∃ b, t.ctx i = { messageTaken s f (s.ctx i) with valid := false, lost := b }) ∧ ∀ k, k ≠ i → t.ctx k = s.ctx k := by
  obtain ⟨hself, hother, hlen⟩ := messageTaken_ctx (f := f) hg hl
  dsimp only
  split
  · obtain ⟨hlost, hkept⟩ := ctxLost_ctx hlen
    exact ⟨⟨true, by rw [hlost, hself]⟩, fun k hk => (hkept k hk).trans (hother k hk)⟩
  · next hv =>
    have hinvalid : (s.ctx i).valid = false := by simpa using hv
    exact ⟨⟨(s.ctx i).lost, by rw [hself, ← hinvalid]; rfl⟩, hother⟩

/-- The expiry of a message's time to live makes its context invalid and lost. -/
theorem eventExpiry_ctx {s : State} {i : Nat} {c : StreamCfg} (hc : s.ctxCfg i = some c) (hk : c.kind = 1) (hv : (s.ctx i).valid = true) (hl : i < s.svc.ctx.length) :
    (s.eventExpiry i).ctx i = { s.ctx i with stands := false, valid := false, lost := true } ∧ ∀ k, k ≠ i → (s.eventExpiry i).ctx k = s.ctx k := by
  have hself := ctx_mod s i (fun x => { x with stands := false }) hl
  have hframe : s.eventExpiry i = (s.modCtx i (fun x => { x with stands := false })).ctxLost i := by
    rw [State.eventExpiry, hc]
    exact (if_pos hk).trans (if_pos (by rw [hself]; exact hv))
  obtain ⟨hlost, hkept⟩ := ctxLost_ctx (u := s.modCtx i (fun x => { x with stands := false })) (i := i) (by rwa [ctx_len])
  rw [hframe]
  exact ⟨by rw [hlost, hself], fun k hne => (hkept k hne).trans (ctx_ne s i k _ hne)⟩

/-- Settles O35: a frame that no copy precedes reaches the context that it names, by the branch of its judgement; one with another number of items is a format error (log entry 54). -/
theorem subscribedStreams : Obligations.SubscribedStreams := by
  refine ⟨fun m q l s p hon hp hq ht c hc => copies_counted hon hp hq ht hc, fun m f s hon hl hf hn => ⟨_, rfl, svFrame_unmatched hon hf hl hn⟩,
    fun m i f c s hon hf hi hc hl => ⟨_, rfl, ?sample⟩, fun m i f c s hon hf hi hc hl hn hm hnew => ⟨_, rfl, ?event⟩, fun i c s hc hk hv hl => ⟨_, rfl, eventExpiry_ctx hc hk hv hl⟩⟩
  case sample =>
    obtain ⟨hself, hother⟩ := svFrame_ctx hon hf hi hc hl
    refine ⟨hother, ?_⟩
    rw [hself]
    refine ⟨sampleJudged_rate, sampleJudged_format, fun hr hn => ⟨sampleJudged_repeated hr hn, fun hheld hlast => ?_⟩⟩
    rw [sampleJudged_new hr hn hheld hlast]
    exact sampleKept_spec
  case event =>
    obtain ⟨g, hg, hbar, hgood⟩ := eventFrame_taken hon hf hi hc hn hm hnew
    obtain ⟨hself, hkept, hlen⟩ := messageTaken_ctx (f := f) hg hl
    by_cases hb : Barred s f
    · obtain ⟨⟨b, hx⟩, hother⟩ := barred_ctx (f := f) hg hl
      rw [hbar hb, hx]
      refine ⟨hother, rfl, rfl, rfl, rfl, fun _ => ⟨rfl, rfl⟩, fun hnds hsim htest => ?_⟩
      rcases hb with ⟨ht, hst⟩ | h | h
      · exact absurd (htest ht) hst
      · simp [hnds] at h
      · simp [hsim] at h
    · obtain ⟨hx, hother⟩ := eventGood_ctx hlen
      rw [hgood hb, hx, hself]
      refine ⟨fun k hk => (hother k hk).trans (hkept k hk), rfl, rfl, rfl, rfl, fun h => absurd ?_ hb, fun _ _ _ => ⟨rfl, rfl, rfl⟩⟩
      rcases h with h | h | h
      · exact .inr (.inl h)
      · exact .inr (.inr h)
      · exact .inl h

end Sys2Proof.Proofs.SubscribedStreams
end

section
/-! ### Training and recovery of the chain's ports (R331, R332) -/

namespace Sys2Proof.Proofs.PortTraining

open Sys2Proof Sys2Proof.Machine Sys2Proof.Facts.ChainRules

/-- Another port stands as it stood, and a port's own state is as given. -/
def PortMoved (s t : State) (p : Nat) (st : PortState) : Prop := (t.port p).st = st ∧ ∀ k, k ≠ p → t.port k = s.port k

section
variable {s : State} {p : Nat}

theorem portMoved_self (s : State) (p : Nat) : PortMoved s s p (s.port p).st := ⟨rfl, fun _ _ => rfl⟩

theorem portMoved_modPort (hl : p < s.chn.ports.length) (st : PortState) : PortMoved s (s.modPort p (fun x => { x with st := st })) p st :=
  ⟨congrArg ChnPort.st (port_mod s p _ hl), fun k hk => port_ne s p k _ hk⟩

/-- A choice between a step on and the state as it is. -/
theorem portMoved_ite {q : Prop} [Decidable q] {t : State} {st st' : PortState} (ht : PortMoved s t p st) (hs : (s.port p).st = st') :
    PortMoved s (if q then t else s) p (if q then st else st') := by
  split
  · exact ht
  · exact hs ▸ portMoved_self s p

/-! #### The steps of training (R331) -/

/-- Lanes judged, and the port switched. -/
theorem portMoved_switch (hl : p < s.chn.ports.length) (good : Nat) : PortMoved s ((s.judgeLanes p good).modPort p (fun x => { x with st := .switch })) p .switch := by
  obtain ⟨-, hother, hlen⟩ := judgeLanes_port s p good hl
  obtain ⟨hst, hkept⟩ := portMoved_modPort (s := s.judgeLanes p good) (hlen.symm ▸ hl) .switch
  exact ⟨hst, fun k hk => (hkept k hk).trans (hother k hk)⟩

/-- The far side's lanes noted, and the port up. -/
theorem portMoved_up (hl : p < s.chn.ports.length) (failed : Nat) : PortMoved s ((s.farLanes p failed).toUp p) p .up := by
  obtain ⟨hst, hother⟩ := toUp_port (s.farLanes p failed) p (by rw [State.farLanes, len_mod]; exact hl)
  exact ⟨hst, fun k hk => (hother k hk).trans (port_ne s p k _ hk)⟩

/-- The state that a step of training leaves a port in (R331). -/
def trained (s : State) (p : Nat) (x : TrainIn) : PortState :=
  match (s.port p).st with
  | .clock => if 8 ≤ x.windows then .align else .clock
  | .align => if alignOk x then .deskew else .align
  | .deskew => if x.aligned then .spare else .deskew
  | .spare => if 4 ≤ (s.serving p x.goodLanes).length then .switch else .spare
  | .switch => if switchOk x then .up else .switch
  | st => st

theorem trainAdvance_moves (hm : s.portMay p = true) (hl : p < s.chn.ports.length) (x : TrainIn) : PortMoved s (s.trainAdvance p x) p (trained s p x) := by
  unfold State.trainAdvance trained
  rw [if_neg (by simp [hm])]
  cases hst : (s.port p).st with
  | clock => exact portMoved_ite (portMoved_modPort hl _) hst
  | align => exact portMoved_ite (portMoved_modPort hl _) hst
  | deskew => exact portMoved_ite (portMoved_modPort hl _) hst
  | spare => exact portMoved_ite (portMoved_switch hl _) hst
  | switch => exact portMoved_ite (portMoved_up hl _) hst
  | _ => exact ⟨hst, fun _ _ => rfl⟩

/-- A port that is not in training stays as it is. -/
theorem trainAdvance_idle (x : TrainIn) (h : (s.port p).st ∈ [PortState.down, .up, .recovery]) : s.trainAdvance p x = s := by
  unfold State.trainAdvance
  split
  · rfl
  · simp only [List.mem_cons, List.not_mem_nil, or_false] at h
    rcases h with h | h | h <;> rw [h]

theorem trainTimeout_training (h : (s.port p).st ∈ [PortState.clock, .align, .deskew, .spare, .switch]) : s.trainTimeout p = s.portDown p := by
  simp only [List.mem_cons, List.not_mem_nil, or_false] at h
  unfold State.trainTimeout
  rcases h with h | h | h | h | h <;> rw [h]

theorem trainTimeout_idle (h : (s.port p).st ∈ [PortState.down, .up, .recovery]) : s.trainTimeout p = s := by
  simp only [List.mem_cons, List.not_mem_nil, or_false] at h
  unfold State.trainTimeout
  rcases h with h | h | h <;> rw [h]

/-! #### Recovery (R332) -/

theorem recoveryEntry_due {c : RecoveryCause} (hl : p < s.chn.ports.length) (hup : s.portUp p = true) (hd : recoveryDue c = true) :
    PortMoved s (s.recoveryEntry p c) p .recovery ∧ ((s.recoveryEntry p c).port p).recoveries = satInc 255 (s.port p).recoveries := by
  unfold State.recoveryEntry
  rw [if_pos ⟨hup, hd⟩]
  extract_lets n
  have hstage (u : State) (a b : Nat) (l : List Byte) (k : Nat) : (u.stage a b l).port k = u.port k := port_congr (stage_chn u a b l) k
  refine ⟨⟨?_, fun k hk => ?_⟩, ?_⟩
  · rw [hstage, port_mod _ _ _ hl]
  · rw [hstage, port_ne _ _ _ _ hk]
  · rw [hstage, port_mod _ _ _ hl]

/-- What ends a recovery in UP: lanes enough, and the port aligned and switched again. -/
def recovered (s : State) (p : Nat) (x : TrainIn) : Prop := 4 ≤ ((s.judgeLanes p x.goodLanes).serving p x.goodLanes).length ∧ alignOk x ∧ x.aligned ∧ switchOk x

theorem recovered_iff (s : State) (p : Nat) (x : TrainIn) :
    recovered s p x ↔ 4 ≤ ((s.judgeLanes p x.goodLanes).serving p x.goodLanes).length ∧ 4 ≤ countIf x.markers (fun n => 8 ≤ n) ∧ x.aligned = true ∧ x.farSpare = true ∧ 4 ≤ x.k285 := by
  simp [recovered, alignOk, switchOk]

theorem portMoved_trans {t u : State} {a b : PortState} (h : PortMoved s t p a) (h' : PortMoved t u p b) : PortMoved s u p b := ⟨h'.1, fun k hk => (h'.2 k hk).trans (h.2 k hk)⟩

theorem recoveryDone_spec (hl : p < s.chn.ports.length) (hst : (s.port p).st = .recovery) (x : TrainIn) :
    (recovered s p x → PortMoved s (s.recoveryDone p x) p .up) ∧ (¬recovered s p x → PortMoved s (s.recoveryDone p x) p .down) := by
  obtain ⟨-, hother, hlen⟩ := judgeLanes_port s p x.goodLanes hl
  have hjudged : PortMoved s (s.judgeLanes p x.goodLanes) p ((s.judgeLanes p x.goodLanes).port p).st := ⟨rfl, hother⟩
  have hlj : p < (s.judgeLanes p x.goodLanes).chn.ports.length := hlen.symm ▸ hl
  have hstage (u : State) (q : Prop) [Decidable q] (a b : Nat) (l : List Byte) (k : Nat) : (if q then u.stage a b l else u).port k = u.port k := by
    split
    · exact port_congr (stage_chn u a b l) k
    · rfl
  refine ⟨fun h => ?_, fun h => ?_⟩
  · obtain ⟨hup, hkept⟩ := portMoved_up hlj x.farFailed
    have hdone : s.recoveryDone p x = _ := (if_neg (not_not.mpr hst)).trans (if_pos h)
    rw [hdone]
    exact portMoved_trans hjudged ⟨(congrArg ChnPort.st (hstage _ _ _ _ _ p)).trans hup, fun k hk => (hstage _ _ _ _ _ k).trans (hkept k hk)⟩
  · have hdone : s.recoveryDone p x = _ := (if_neg (not_not.mpr hst)).trans (if_neg h)
    rw [hdone]
    exact portMoved_trans hjudged (portDown_port _ p hlj)

end

/-- Settles O37: each command moves its own port by one step, and a command in another state of the port changes nothing (log entry 1). -/
theorem portTraining : Obligations.PortTraining := by
  refine ⟨fun p s hm hst => congrArg Host.Outcome.next (if_pos ⟨hm, hst⟩), fun p x s hm hl => ⟨_, rfl, ?advance⟩,
    fun p s hl => ⟨fun h => ⟨_, congrArg Host.Outcome.next (trainTimeout_training h), portDown_port s p hl⟩, fun h => congrArg Host.Outcome.next (trainTimeout_idle h)⟩,
    fun p c s hl hup => ⟨fun hd => ⟨_, rfl, ?entry⟩, fun hd => congrArg Host.Outcome.next (if_neg (by simp [hd]))⟩, fun p x s hl hst => ⟨_, rfl, ?done⟩⟩
  case advance =>
    obtain ⟨hmoved, hother⟩ := trainAdvance_moves hm hl x
    rw [hmoved]
    refine ⟨hother, fun h => ?_, fun h => ?_, fun h => ?_, fun h => ?_, fun h => ?_, trainAdvance_idle x⟩
    · rw [trained, h]
    · rw [trained, h]
      simp only [alignOk, decide_eq_true_eq]
    · rw [trained, h]
    · rw [trained, h]
      rfl
    · rw [trained, h]
      simp only [switchOk, Bool.and_eq_true, decide_eq_true_eq]
  case entry =>
    obtain ⟨⟨hrec, hother⟩, hcount⟩ := recoveryEntry_due hl hup hd
    exact ⟨hrec, hcount, hother⟩
  case done =>
    obtain ⟨hup, hdown⟩ := recoveryDone_spec hl hst x
    by_cases h : recovered s p x
    · exact ⟨(hup h).2, by rw [(hup h).1, if_pos ((recovered_iff s p x).mp h)]⟩
    · exact ⟨(hdown h).2, by rw [(hdown h).1, if_neg (mt (recovered_iff s p x).mpr h)]⟩

end Sys2Proof.Proofs.PortTraining
end

section
/-! ### Ring, line, walk and the loss of the root (R348, R350-R352, R354-R356, R359) -/

namespace Sys2Proof.Proofs.RingAndWalk

open Sys2Proof Sys2Proof.Machine Sys2Proof.Facts.ChainRules

/-- The job that waits for a walk ends with it, and the chain stands as before. -/
theorem endWalkJob {s u : State} (hu : u.job = s.job) {j : Job} (hj : s.jobOf 9 = some j) (st reason : Nat) :
    (u.endJob j.ticket st reason).job.hist = (({ ticket := j.ticket, state := st, reason := reason } : JobEnd) :: s.job.hist).take 16 := by
  obtain ⟨j', hfound⟩ := jobOf_found s 9 j hj
  rw [end_hist u j.ticket st reason j' (by rwa [hu]), hu]

/-! #### The ring opens and closes (R352) -/

/-- The chain as a line, its walk failed. -/
def ringOpened (s : State) : State :=
  (s.modChn (fun c => { c with ring := 2, walkResult := if decide (s.chn.ring = 3) then 3 else c.walkResult, measured := c.measured && !decide (s.chn.ring = 3), pass := 0 })).stage 0x0104 2 []

theorem ringOpened_job (s : State) : (ringOpened s).job = s.job := stage_job ..

section
variable {s : State} (hs : s.chn.sender = true) (hr : s.pwr.rootStrap = true)
include hs hr

section
variable (hring : s.chn.ring = 1 ∨ s.chn.ring = 3) (hm : ∃ p ∈ s.chn.ports, 2 ≤ p.missed)
include hring hm

theorem ringOpen_due : s.ringOpen = match decide (s.chn.ring = 3), (ringOpened s).jobOf 9 with
    | true, some j => (ringOpened s).endJob j.ticket jobFailed 3
    | _, _ => ringOpened s :=
  if_pos ⟨hs, hr, hring, by simpa using hm⟩

theorem ringOpen_chn : s.ringOpen.chn = (ringOpened s).chn := by
  rw [ringOpen_due hs hr hring hm]
  split
  · exact end_chn ..
  · rfl

theorem ringOpen_walking (hw : s.chn.ring = 3) {j : Job} (hj : s.jobOf 9 = some j) : s.ringOpen = (ringOpened s).endJob j.ticket jobFailed 3 := by
  have hjob : (ringOpened s).jobOf 9 = some j := by
    rw [State.jobOf, ringOpened_job]
    exact hj
  rw [ringOpen_due hs hr hring hm, hjob, hw]
  rfl

end

theorem ringClosed_due (hring : s.chn.ring = 2) (hb : ∀ p ∈ s.chn.ports, 8 ≤ p.back) : s.ringClosed = (s.modChn (fun c => { c with ring := 1, walkDue := true })).stage 0x0105 0 [] :=
  if_pos ⟨hs, hr, hring, by simpa using hb⟩

end

/-! #### The walk (R348, R350, R351) -/

/-- The mode and the claim of a walk. -/
def walkModeOf (s : State) : Nat := if (s.jobOf 9).isSome then s.chn.walkMode else 0

/-- The chain as a walk begins. -/
def walkBegun (s : State) : State :=
  s.modChn (fun c => { c with
    ring := 3, walk := (c.walk + 1) % 65536, walkResult := 1, walkConf := 0, walkFull := 0, walkMode := walkModeOf s, walkDue := false, pass := 1,
    taken := if s.claimOf (walkModeOf s) = 0 then 0 else 2 ^ s.claimOf (walkModeOf s) })

theorem walkStart_due {s : State} (hs : s.chn.sender = true) (hr : s.pwr.rootStrap = true) (hring : s.chn.ring = 1) (h0 : s.portUp 0 = true) (h1 : s.portUp 1 = true) (hd : s.chn.walkDue = true) :
    s.walkStart = if s.claimOf (walkModeOf s) ≠ 0 then (walkBegun s).setAddr (s.claimOf (walkModeOf s)) false false else walkBegun s :=
  if_pos (by simp [hs, hr, hring, h0, h1, hd])

theorem walkStart_spec {s : State} (hs : s.chn.sender = true) (hr : s.pwr.rootStrap = true) (hring : s.chn.ring = 1) (h0 : s.portUp 0 = true) (h1 : s.portUp 1 = true) (hd : s.chn.walkDue = true) :
    s.walkStart.chn.ring = 3 ∧ s.walkStart.chn.walk = (s.chn.walk + 1) % 65536 ∧ s.walkStart.chn.walkResult = 1 ∧ s.walkStart.chn.pass = 1 ∧ s.walkStart.chn.walkDue = false ∧
      (s.chnPin ≠ 0 → s.walkStart.chn.addr = s.chnPin ∧ s.walkStart.chn.taken = 2 ^ s.chnPin) := by
  rw [walkStart_due hs hr hring h0 h1 hd]
  by_cases hc : s.claimOf (walkModeOf s) ≠ 0
  · obtain ⟨m, hm⟩ := setAddr_chn (walkBegun s) (s.claimOf (walkModeOf s)) false false
    rw [if_pos hc, hm]
    refine ⟨rfl, rfl, rfl, rfl, rfl, fun hp => ?_⟩
    have hclaim : s.claimOf (walkModeOf s) = s.chnPin := if_pos hp
    exact ⟨hclaim, (if_neg hc).trans (by rw [hclaim])⟩
  · rw [if_neg hc]
    refine ⟨rfl, rfl, rfl, rfl, rfl, fun hp => absurd ?_ hc⟩
    have hclaim : s.claimOf (walkModeOf s) = s.chnPin := if_pos hp
    rwa [hclaim]

/-- The chain after a walk that returned to its sender. -/
def walkDone (s : State) (tr : Nat) : State :=
  s.modChn (fun c => { c with
    tr := some tr, d1 := none, measured := true, ring := 1, members := (membersOf s.chn.taken).length, deputy := ((membersOf s.chn.taken).filter (fun a => a ≠ c.addr)).headD 0, walkResult := 2, pass := 0,
    senderAddr := c.addr })

/-- The walk's record. -/
def walkTold (s : State) (tr : Nat) : State := (walkDone s tr).stage 0x0106 0 (b2 s.chn.walk ++ b1 (membersOf s.chn.taken).length ++ b1 s.chn.walkConf ++ b1 s.chn.walkFull)

theorem walkTold_job (s : State) (tr : Nat) : (walkTold s tr).job = s.job := stage_job ..

section
variable {s : State} (hring : s.chn.ring = 3) (tr : Nat) (d : Int)
include hring

section
variable (hs : s.chn.sender = true) (hp : s.chn.pass = 4)
include hs hp

theorem walkEnd_returned : s.walkEnd tr d = match (walkTold s tr).jobOf 9 with
    | some j => (walkTold s tr).endJob j.ticket jobDone 0
    | none => walkTold s tr :=
  (if_neg (not_not.mpr hring)).trans ((if_pos hs).trans (if_neg (not_not.mpr hp)))

theorem walkEnd_chn : (s.walkEnd tr d).chn = (walkDone s tr).chn := by
  rw [walkEnd_returned hring tr d hs hp, ← show (walkTold s tr).chn = (walkDone s tr).chn from stage_chn ..]
  split
  · exact end_chn ..
  · rfl

theorem walkEnd_job {j : Job} (hj : s.jobOf 9 = some j) : s.walkEnd tr d = (walkTold s tr).endJob j.ticket jobDone 0 := by
  have hjob : (walkTold s tr).jobOf 9 = some j := by
    rw [State.jobOf, walkTold_job]
    exact hj
  rw [walkEnd_returned hring tr d hs hp, hjob]

end

theorem walkEnd_member (hs : s.chn.sender = false) :
    s.walkEnd tr d = s.modChn (fun c => { c with tr := some tr, d1 := some (((tr : Int) + d) / 2).toNat, measured := true, ring := 1, pass := 0 }) :=
  (if_neg (not_not.mpr hring)).trans (if_neg (by simp [hs]))

end

/-! #### The loss of the root (R354-R356) -/

theorem deputyActive_due {s : State} (ha : s.chn.addr ≠ 0) (hd : s.chn.deputy = s.chn.addr) (hs : s.chn.sender = false) (hu : s.anyUp = true) (hup : s.chn.upstream.isSome = true) :
    s.deputyActive = ((s.modChn (fun c => { c with sender := true, deputyActs := true, senderAddr := c.addr, marksLost := true })).stage 0x010A 2 []).holdover 4 :=
  if_pos ⟨ha, hd, hs, hu, hup⟩

theorem noRootFound_due {s : State} (hs : s.chn.sender = false) (hn : s.chn.noRoot = false) (hu : s.anyUp = true)
    (h : s.chn.marksLost = true ∨ ∃ p ∈ [0, 1], s.portUp p = true ∧ (s.port p).marks = false ∧ (s.port p).upOt + 5000 ≤ s.pwr.ot) :
    s.noRootFound = (s.modChn (fun c => { c with noRoot := true, ring := if c.upstream.isNone || c.marksLost then 0 else c.ring })).stage 0x0109 1 [] := by
  refine if_pos ⟨hs, hn, hu, h.symm.imp_left fun ⟨p, hp, hup, hm, ht⟩ => ?_⟩
  exact List.any_eq_true.mpr ⟨p, hp, by simp [hup, hm, ht]⟩

theorem chainTimeLost_due {s : State} (hf : s.follower = true) (hs : s.chn.sender = false) (hup : s.chn.upstream.isSome = true) (hm : s.chn.marksLost = false) :
    s.chainTimeLost = (s.modChn (fun c => { c with marksLost := true })).holdover 4 := if_pos ⟨hf, hs, hup, hm⟩

/-- Settles O38: each command acts in its own condition alone (elsewhere nothing changes, log entry 1), by the chain that it leaves and by the job that ends with its walk; the measured offset is rounded down (log entry 61). -/
theorem ringAndWalk : Obligations.RingAndWalk := by
  refine ⟨fun s hs hr hring hm => ⟨_, rfl, ?opens⟩, fun s hs hr hring hb => ⟨_, congrArg Host.Outcome.next (ringClosed_due hs hr hring hb), stage_chn ..⟩,
    fun s hs hr hring h0 h1 hd => ⟨_, rfl, walkStart_spec hs hr hring h0 h1 hd⟩,
    fun tr d s => ⟨fun h => congrArg Host.Outcome.next (if_pos h), fun h hs hp => congrArg Host.Outcome.next ((if_neg (not_not.mpr h)).trans ((if_pos hs).trans (if_pos hp))),
      fun h hs hp => ⟨_, rfl, ?returns⟩, fun h hs => ⟨_, congrArg Host.Outcome.next (walkEnd_member h tr d hs), rfl⟩⟩,
    fun s ha hd hs hu hup => ⟨_, congrArg Host.Outcome.next (deputyActive_due ha hd hs hu hup), ?deputy⟩, fun s hs hn hu h => ⟨_, congrArg Host.Outcome.next (noRootFound_due hs hn hu h), ?root⟩,
    fun s hf hs hup hm => ⟨_, congrArg Host.Outcome.next (chainTimeLost_due hf hs hup hm), hold_chn .., fun h => hold2 _ 4 h⟩⟩
  case opens =>
    refine ⟨?_, fun hw j hj => ⟨3, ?_⟩⟩
    · rw [ringOpen_chn hs hr hring hm, ringOpened, stage_chn]
      simp only [State.modChn, decide_eq_true_eq]
    · rw [ringOpen_walking hs hr hring hm hw hj]
      exact endWalkJob (ringOpened_job s) hj _ _
  case returns =>
    beta_reduce
    rw [walkEnd_chn h tr d hs hp]
    refine ⟨rfl, rfl, rfl, rfl, rfl, rfl, rfl, fun j hj => ⟨0, ?_⟩⟩
    rw [walkEnd_job h tr d hs hp hj]
    exact endWalkJob (walkTold_job s tr) hj _ _
  case deputy =>
    refine ⟨(hold_chn ..).trans (stage_chn ..), fun h => hold2 _ 4 ?_⟩
    rw [stage_ptp]
    exact h
  case root =>
    beta_reduce
    rw [stage_chn]
    exact ⟨rfl, rfl, fun h => if_pos (by simp [h])⟩

end Sys2Proof.Proofs.RingAndWalk
end

section
/-! ### The slots of units and the local cycle (R329, R333, R337, R339, R341) -/

namespace Sys2Proof.Proofs.UnitSlots

open Sys2Proof Sys2Proof.Machine Sys2Proof.Facts.ChainRules

/-! #### A slot's bytes and its seal (R337) -/

/-- A slot without a sealed run of data bytes fails its check. -/
theorem slotBytes_unsealed {n : Nat} {l : List RxSym} (h : ∀ b, l = b.map RxSym.data → ¬SlotSealed n b) : slotBytes l = none ∨ ∃ b, slotBytes l = some b ∧ ¬SlotSealed n b := by
  cases hb : slotBytes l with
  | none => exact .inl rfl
  | some b => exact .inr ⟨b, rfl, h b ((bytes_data l b).mp hb)⟩

/-! #### What a slot leaves in the ports (R329, R337) -/

/-- The symbols of a slot counted, and the slot of another unit forwarded. -/
def slotCounted (s : State) (p n : Nat) (l : List RxSym) : State := if n = s.chn.addr then s.countSymbols p l else (s.countSymbols p l).relaySlot p n l

theorem slotCounted_chn (s : State) (p n : Nat) (l : List RxSym) : (slotCounted s p n l).chn = { s.chn with ports := (slotCounted s p n l).chn.ports } := by
  unfold slotCounted
  split
  · exact count_chn s p l
  · exact relay_chn (s.countSymbols p l) p n l

theorem slotCounted_src (s : State) (p n : Nat) (l : List RxSym) (a : Nat) : (slotCounted s p n l).src a = s.src a := by
  rw [State.src, slotCounted_chn, State.src]

/-- The counts that a slot leaves in a port. -/
def countedPort (x : ChnPort) (l : List RxSym) : ChnPort :=
  { x with violations := satAdd 65535 x.violations (countIf l (fun y => y = .violation)), k307 := satAdd 255 x.k307 (countIf l (fun y => y = .error)) }

section
variable {s : State} {p : Nat} (n : Nat) (l : List RxSym)

theorem slotCounted_port (hl : p < s.chn.ports.length) : (slotCounted s p n l).port p = countedPort (s.port p) l := by
  unfold slotCounted
  split
  · exact port_mod s p _ hl
  · exact ((relay_port (s.countSymbols p l) p n l).1 p (by omega)).trans (port_mod s p _ hl)

theorem slotCounted_length : (slotCounted s p n l).chn.ports.length = s.chn.ports.length := by
  have hcount : (s.countSymbols p l).chn.ports.length = s.chn.ports.length := len_mod s p _
  unfold slotCounted
  split
  · exact hcount
  · unfold State.relaySlot
    split
    · exact (len_mod _ _ _).trans hcount
    · exact hcount

/-- Another unit's slot goes on with K30.7 in place of a symbol in error. -/
theorem slotCounted_relay (hn : n ≠ s.chn.addr) (hup : s.portUp (1 - p) = true) (hl' : 1 - p < s.chn.ports.length) :
    lookupD ((slotCounted s p n l).port (1 - p)).relay n [] = l.map (fun y => if y = .violation then .error else y) := by
  have hport : (s.countSymbols p l).port (1 - p) = s.port (1 - p) := port_ne s p (1 - p) _ (by omega)
  have hup' : (s.countSymbols p l).portUp (1 - p) = true := by rw [State.portUp, hport]; exact hup
  have hlen : (s.countSymbols p l).chn.ports.length = s.chn.ports.length := len_mod s p _
  rw [slotCounted, if_neg hn]
  exact (relay_port (s.countSymbols p l) p n l).2 hup' (hlen.symm ▸ hl')

end

/-! #### A slot that is bad, or good (R337, R339) -/

section
variable {s : State} {p n : Nat} {l : List RxSym} (hup : s.portUp p = true) (h1 : 1 ≤ n) (h63 : n ≤ 63) (ha : l.all (fun b => b = .data 0) = false)
include hup h1 h63 ha

theorem unitSlot_carried : s.unitSlot p n l = match slotBytes l with
    | some b => (slotCounted s p n l).takeSlot p n b
    | none => (slotCounted s p n l).crcFailed p := by
  have hn : ¬(n = 0 ∨ 63 < n) := by omega
  refine (if_neg (by rw [ha]; simp [hup, hn])).trans ?_
  unfold slotCounted
  rfl

theorem unitSlot_bad (h : ∀ b, l = b.map RxSym.data → ¬SlotSealed 0xE4 b) : s.unitSlot p n l = (slotCounted s p n l).crcFailed p := by
  rw [unitSlot_carried hup h1 h63 ha]
  rcases slotBytes_unsealed h with hb | ⟨b, hb, hs⟩
  · rw [hb]
  · rw [hb]
    exact if_pos (by by_contra hc; exact hs (by simpa [SlotSealed] using hc))

theorem unitSlot_good {b : List Byte} (hb : l = b.map RxSym.data) (hs : SlotSealed 0xE4 b) :
    s.unitSlot p n l = if n = s.chn.addr ∨ field b 0 1 ≠ n ∨ (s.src n).taken then slotCounted s p n l
      else ((slotCounted s p n l).modSrc n (fun x => { x.take b with lost := false })).fpCheck n := by
  obtain ⟨hlen, hcrc⟩ := hs
  have haddr : (slotCounted s p n l).chn.addr = s.chn.addr := by rw [slotCounted_chn]
  rw [unitSlot_carried hup h1 h63 ha, (bytes_data l b).mpr hb]
  refine (if_neg (by simp [hlen, hcrc])).trans ?_
  rw [haddr, slotCounted_src]

end

/-- A bad copy is counted in its port. -/
theorem crcFailed_port {u : State} {p : Nat} (hl : p < u.chn.ports.length) : (u.crcFailed p).port p = { u.port p with crc := satInc 255 (u.port p).crc } ∧ ∀ k, k ≠ p → (u.crcFailed p).port k = u.port k :=
  ⟨port_mod u p _ hl, fun k hk => port_ne u p k _ hk⟩

/-- A kept copy stands in its unit's record and leaves the other units and the ports. -/
theorem slotKept_spec (u : State) (n : Nat) (b : List Byte) :
    let t := (u.modSrc n (fun x => { x.take b with lost := false })).fpCheck n
    (t.src n).taken = true ∧ (t.src n).lost = false ∧ (t.src n).flags = field b 1 1 ∧ (t.src n).inNets = slice b 0x1C 64 ∧ (t.src n).inXcp = slice b 0x5C 128 ∧
      (t.src n).digests.head? = some (field b 2 2, field b 0xDC 4) ∧ (∀ a, a ≠ n → t.src a = u.src a) ∧ t.chn.ports = u.chn.ports ∧ t.chn.addr = u.chn.addr := by
  obtain ⟨⟨told, hself⟩, hother, hports, haddr⟩ := fp_src (u.modSrc n (fun x => { x.take b with lost := false })) n
  have hkept : (u.modSrc n (fun x => { x.take b with lost := false })).src n = { (u.src n).take b with lost := false } := by rw [src_insert, if_pos rfl]
  dsimp only
  rw [hself, hkept]
  refine ⟨rfl, rfl, rfl, rfl, rfl, rfl, fun a ha => ?_, hports, haddr⟩
  rw [hother a ha, src_insert, if_neg (Ne.symm ha)]

/-- A slot leaves the unit's own address, counts its symbols in its port, and leaves the other ports to what goes on. -/
def SlotPassed (s : State) (p n : Nat) (l : List RxSym) (t : State) : Prop :=
  t.chn.addr = s.chn.addr ∧ (∃ c, t.port p = { countedPort (s.port p) l with crc := c }) ∧ ∀ k, k ≠ p → t.port k = (slotCounted s p n l).port k

section
variable {s : State} {p n : Nat} {l : List RxSym} (hl : p < s.chn.ports.length)
include hl

/-- A bad copy passes, counted in its port. -/
theorem badSlot_passed :
    SlotPassed s p n l ((slotCounted s p n l).crcFailed p) ∧ (((slotCounted s p n l).crcFailed p).port p).crc = satInc 255 (s.port p).crc ∧ ((slotCounted s p n l).crcFailed p).chn.src = s.chn.src := by
  obtain ⟨hself, hother⟩ := crcFailed_port (u := slotCounted s p n l) ((slotCounted_length n l).symm ▸ hl)
  rw [slotCounted_port n l hl] at hself
  have hchn : ((slotCounted s p n l).crcFailed p).chn.addr = (slotCounted s p n l).chn.addr ∧ ((slotCounted s p n l).crcFailed p).chn.src = (slotCounted s p n l).chn.src := ⟨rfl, rfl⟩
  rw [slotCounted_chn] at hchn
  exact ⟨⟨hchn.1, ⟨_, hself⟩, hother⟩, congrArg ChnPort.crc hself, hchn.2⟩

/-- Ports and address alone tell whether a slot passed. -/
theorem slotPassed_of {t : State} (hports : t.chn.ports = (slotCounted s p n l).chn.ports) (haddr : t.chn.addr = (slotCounted s p n l).chn.addr) :
    SlotPassed s p n l t ∧ (t.port p).crc = (s.port p).crc := by
  have hport (k : Nat) : t.port k = (slotCounted s p n l).port k := congrArg (nth · k) hports
  rw [slotCounted_chn] at haddr
  refine ⟨⟨haddr, ⟨(s.port p).crc, ?_⟩, fun k _ => hport k⟩, ?_⟩
  · rw [hport, slotCounted_port n l hl]
    rfl
  · rw [hport, slotCounted_port n l hl]
    rfl

variable (hup : s.portUp p = true) (h1 : 1 ≤ n) (h63 : n ≤ 63) (ha : l.all (fun b => b = .data 0) = false)
include hup h1 h63 ha

theorem goodSlot_passed {b : List Byte} (hb : l = b.map RxSym.data) (hs : SlotSealed 0xE4 b) : SlotPassed s p n l (s.unitSlot p n l) ∧ ((s.unitSlot p n l).port p).crc = (s.port p).crc := by
  rw [unitSlot_good hup h1 h63 ha hb hs]
  split
  · exact slotPassed_of hl rfl rfl
  · obtain ⟨-, -, -, -, -, -, -, hports, haddr⟩ := slotKept_spec (slotCounted s p n l) n b
    exact slotPassed_of hl hports haddr

theorem unitSlot_passed : SlotPassed s p n l (s.unitSlot p n l) := by
  by_cases hsealed : ∃ b, l = b.map RxSym.data ∧ SlotSealed 0xE4 b
  · obtain ⟨b, hb, hs⟩ := hsealed
    exact (goodSlot_passed hl hup h1 h63 ha hb hs).1
  · rw [unitSlot_bad hup h1 h63 ha fun b hb hs => hsealed ⟨b, hb, hs⟩]
    exact (badSlot_passed hl).1

end

/-! #### An absent slot (R339, R341) -/

theorem slotLoss_due {s : State} {a : Nat} (hsrc : ∃ q ∈ s.chn.src, q.1 = a) (hl : (s.src a).lost = false)
    (h : 3 ≤ (s.src a).absent ∨ ((s.src a).taken = false ∧ (s.chn.marksLost = true ∨ s.anyUp = false))) :
    s.slotLoss a = (s.modSrc a (fun y => { y with present := false, lost := true, nets := [], xcp := [] })).stage 0x010D 1 (b1 a) := by
  have hany : s.chn.src.any (fun q => q.1 = a) = true := by simpa using hsrc
  refine if_pos ?_
  rw [hany, hl]
  simpa using h

/-! #### The local cycle (R333) -/

/-- The slots of a local cycle. -/
def localSlots (s : State) (p : Nat) : State :=
  s.modChn (fun c => { c with mgmtOut := mgmtSlot (zeros 0x20) [] [] [], slotOut := zeros 232, ports := modNth c.ports p (fun x => { x with pairs := 0, relay := [], relayed := [] }) })

theorem localCycle_due {s : State} {p : Nat} (hup : s.portUp p = true) (hs : s.chn.sender = false) (h : (s.port (1 - p)).marks = false ∨ s.chn.marksLost = true) :
    s.localCycle p = if (localSlots s p).chn.upstream.isNone || (localSlots s p).chn.marksLost then (localSlots s p).repeatGroups [p] else localSlots s p :=
  if_pos (by simpa [hup, hs] using h)

/-- The slot without a root's block is all zeros before its CRC. -/
theorem localMgmt_zero : ∀ k < 0x3F4, nth (mgmtSlot (zeros 0x20) [] [] []) k = 0 := by
  intro k hk
  unfold mgmtSlot
  simp only [padZero, padNil, zeros_app]
  exact nthZero _ _ _ hk

theorem localCycle_core {s : State} {p : Nat} (hup : s.portUp p = true) (hs : s.chn.sender = false) (h : (s.port (1 - p)).marks = false ∨ s.chn.marksLost = true) :
    CK (localSlots s p) (s.localCycle p) := by
  rw [localCycle_due hup hs h]
  split
  · exact ck_repeat _ _
  · exact CK.rfl

/-- Settles O39: a slot by what it leaves in the ports and, when its copy is kept, in its unit's record; a local cycle, whose sender is 0 and whose walk block is empty (log entry 59), by the slots that go out. -/
theorem unitSlots : Obligations.UnitSlots := by
  refine ⟨fun p n l s hup h1 h63 ha hl => ⟨_, rfl, ?slot⟩, fun a s hsrc hlost h => ⟨_, congrArg Host.Outcome.next (slotLoss_due hsrc hlost h), ?loss⟩,
    fun p s hup hs h => ⟨_, rfl, ?cycle⟩⟩
  case slot =>
    obtain ⟨haddr, ⟨c, hport⟩, hother⟩ := unitSlot_passed hl hup h1 h63 ha
    refine ⟨haddr, by rw [hport]; rfl, by rw [hport]; rfl, fun hn hup' hl' => ?_, fun hbad => ?_, fun b hb hs => ⟨(goodSlot_passed hl hup h1 h63 ha hb hs).2, fun h => ?_, fun hn hb0 ht => ?_⟩⟩
    · rw [hother (1 - p) (by omega)]
      exact slotCounted_relay n l hn hup' hl'
    · rw [unitSlot_bad hup h1 h63 ha hbad]
      exact (badSlot_passed hl).2
    · rw [unitSlot_good hup h1 h63 ha hb hs, if_pos h, slotCounted_chn]
    · obtain ⟨htaken, hlost, hflags, hnets, hxcp, hdigest, hkept, -⟩ := slotKept_spec (slotCounted s p n l) n b
      rw [unitSlot_good hup h1 h63 ha hb hs, if_neg (by simp [hn, hb0, ht])]
      exact ⟨htaken, hlost, hflags, hnets, hxcp, hdigest, fun a hne => (hkept a hne).trans (slotCounted_src s p n l a)⟩
  case loss =>
    have hself : ((s.modSrc a (fun y => { y with present := false, lost := true, nets := [], xcp := [] })).stage 0x010D 1 (b1 a)).src a = { s.src a with present := false, lost := true, nets := [], xcp := [] } := by
      rw [src_stage, src_insert, if_pos rfl]
    refine ⟨hself, fun b hb => ?_, fun i => ?_⟩
    · rw [src_stage, src_insert, if_neg (Ne.symm hb)]
    · rw [hself]
      rfl
  case cycle =>
    obtain ⟨hcore, hports⟩ := localCycle_core hup hs h
    obtain ⟨-, -, -, -, -, -, -, haddr, -, hslot, hmgmt, hsrc⟩ := core_eq hcore
    refine ⟨hslot, ?_, ?_, hsrc, haddr, fun hu hm => ?_⟩
    · rw [hmgmt]
      exact mgmt_sealed _ _ _ _
    · rw [hmgmt]
      exact localMgmt_zero
    · have hlocal : s.localCycle p = localSlots s p := (localCycle_due hup hs h).trans (if_neg (by simp [localSlots, State.modChn, hm, Option.isSome_iff_ne_none.mp hu]))
      rw [hlocal]
      exact ⟨fun hl => congrArg ChnPort.pairs (nth_modNth_self hl), fun q hq => nth_modNth_ne (Ne.symm hq)⟩

end Sys2Proof.Proofs.UnitSlots
end

section
/-! ### The cycle of the chain: marks, the sender's slots, management slots (R327, R333, R334, R336, R352, R354, R355) -/

namespace Sys2Proof.Proofs.ChainCycles

open Sys2Proof Sys2Proof.Machine Sys2Proof.Facts.ChainRules

/-! #### The sender's cycle (R333, R334, R354) -/

/-- The unit as the sender of the marks. -/
def senderTaken (s : State) : State := s.moveTime (fun s => s.modChn (fun c => { c with sender := true, senderAddr := c.addr, noRoot := false, marksLost := false }))

/-- The ports as the sender's cycle finds them. -/
def cyclePorts (start : Bool) (l : List ChnPort) : List ChnPort := if start then l.map (fun p => { p with seen := false, back := 0, missed := 0 }) else l.map countBack

/-- The sender's cycle, counted. -/
def cycleBegun (s : State) : State :=
  (senderTaken s).modChn (fun c => { c with
    second := (senderTaken s).nextCycle / 76800, cycle := (senderTaken s).nextCycle % 76800, ports := cyclePorts (!s.chn.sender) c.ports,
    ring := if c.ring = 0 then (if (senderTaken s).portUp 0 && (senderTaken s).portUp 1 then 1 else 2) else c.ring, walkDue := c.walkDue || (!s.chn.sender && c.walk = 0) })

theorem chainCycle_sends {s : State} (h : s.maySend = true) : s.chainCycle = (cycleBegun s).newCycle.sendMgmt := if_neg (by simp [h])

theorem senderTaken_chn (s : State) : (senderTaken s).chn = { s.chn with sender := true, senderAddr := s.chn.addr, noRoot := false, marksLost := false } := move_chn s _

theorem senderTaken_portUp (s : State) (k : Nat) : (senderTaken s).portUp k = s.portUp k := by
  rw [State.portUp, State.port, senderTaken_chn, State.portUp, State.port]

theorem senderTaken_nextCycle (s : State) : (senderTaken s).nextCycle = s.nextCycle := move_next s _ rfl rfl rfl rfl

/-- The management slot goes out sealed, and no entry of the mailbox waits for a slot any more. -/
theorem sendMgmt_spec (u : State) :
    u.sendMgmt.chn.sender = u.chn.sender ∧ u.sendMgmt.chn.senderAddr = u.chn.senderAddr ∧ u.sendMgmt.chn.second = u.chn.second ∧ u.sendMgmt.chn.cycle = u.chn.cycle ∧
      u.sendMgmt.chn.noRoot = u.chn.noRoot ∧ u.sendMgmt.chn.marksLost = u.chn.marksLost ∧ u.sendMgmt.chn.ring = u.chn.ring ∧ (∀ m ∈ u.sendMgmt.chn.mbox, m.due = false) ∧ SlotSealed 0x3F4 u.sendMgmt.chn.mgmtOut := by
  refine ⟨rfl, rfl, rfl, rfl, rfl, rfl, rfl, fun m hm => ?_, mgmt_sealed _ _ _ _⟩
  obtain ⟨m', -, rfl⟩ := List.mem_map.mp hm
  rfl

theorem chainCycle_spec {s : State} (h : s.maySend = true) :
    s.chainCycle.chn.sender = true ∧ s.chainCycle.chn.senderAddr = s.chn.addr ∧ s.chainCycle.chn.second * 76800 + s.chainCycle.chn.cycle = s.nextCycle ∧ s.chainCycle.chn.cycle < 76800 ∧
      s.chainCycle.chn.noRoot = false ∧ s.chainCycle.chn.marksLost = false ∧ (s.chn.ring ≠ 0 → s.chainCycle.chn.ring = s.chn.ring) ∧
      (s.chn.ring = 0 → s.chainCycle.chn.ring = if s.portUp 0 = true ∧ s.portUp 1 = true then 1 else 2) ∧ (∀ m ∈ s.chainCycle.chn.mbox, m.due = false) ∧ SlotSealed 0x3F4 s.chainCycle.chn.mgmtOut := by
  obtain ⟨hsender, haddr, hsecond, hcycle, hroot, hlost, hring, hmbox, hslot⟩ := sendMgmt_spec (cycleBegun s).newCycle
  obtain ⟨nsender, nsecond, ncycle, -, nring, nroot, nlost, -, naddr, -⟩ := newCycle_spec (cycleBegun s)
  have hchn := senderTaken_chn s
  have bsender : (cycleBegun s).chn.sender = true := congrArg Chain.sender hchn
  have baddr : (cycleBegun s).chn.senderAddr = s.chn.addr := congrArg Chain.senderAddr hchn
  have broot : (cycleBegun s).chn.noRoot = false := congrArg Chain.noRoot hchn
  have blost : (cycleBegun s).chn.marksLost = false := congrArg Chain.marksLost hchn
  have bsecond : (cycleBegun s).chn.second = s.nextCycle / 76800 := congrArg (· / 76800) (senderTaken_nextCycle s)
  have bcycle : (cycleBegun s).chn.cycle = s.nextCycle % 76800 := congrArg (· % 76800) (senderTaken_nextCycle s)
  have bring : (cycleBegun s).chn.ring = if s.chn.ring = 0 then (if s.portUp 0 && s.portUp 1 then 1 else 2) else s.chn.ring := by
    have sring : (senderTaken s).chn.ring = s.chn.ring := by rw [hchn]
    rw [← senderTaken_portUp s 0, ← senderTaken_portUp s 1, ← sring]
    rfl
  rw [chainCycle_sends h]
  refine ⟨hsender.trans (nsender.trans bsender), haddr.trans (naddr.trans baddr), ?_, ?_, hroot.trans (nroot.trans broot), hlost.trans (nlost.trans blost), fun hr => ?_, fun hr => ?_, hmbox, hslot⟩
  · rw [hsecond, nsecond, bsecond, hcycle, ncycle, bcycle, Nat.div_add_mod']
  · rw [hcycle, ncycle, bcycle]
    exact Nat.mod_lt _ (by decide)
  · rw [hring, nring, bring, if_neg hr]
  · rw [hring, nring, bring, if_pos hr]
    simp only [Bool.and_eq_true]

/-! #### A mark that arrives (R333, R334, R355) -/

/-- The port of a mark, as a unit that does not send notes it. -/
def markNoted (s : State) (p : Nat) : State := s.modPort p (fun x => { x with marks := true, seen := true })

section
variable {s : State} {p : Nat} {arr : Rat} {sec cyc ph : Nat} (hup : s.portUp p = true)
include hup

/-- The sender notes a mark of its own cycle that came round. -/
theorem cycleMark_sender (hs : s.chn.sender = true) :
    s.cycleMark p arr sec cyc ph = s.modPort p (fun x => if decide (s.chn.second = sec ∧ s.chn.cycle = cyc) then { x with seen := true, marks := true } else { x with marks := true }) :=
  (if_neg (by simp [hup])).trans (if_pos hs)

variable (hs : s.chn.sender = false)
include hs

theorem cycleMark_again (h1 : s.chn.second = sec) (h2 : s.chn.cycle = cyc) (hu : s.chn.upstream.isSome = true) : s.cycleMark p arr sec cyc ph = markNoted s p :=
  (if_neg (by simp [hup])).trans ((if_neg (by simp [hs])).trans (if_neg (by simp [h1, h2, Option.isSome_iff_ne_none.mp hu])))

/-- The first mark of a cycle makes its port the upstream one and begins the cycle; it is judged by the servo. -/
theorem cycleMark_first (h : s.chn.second ≠ sec ∨ s.chn.cycle ≠ cyc ∨ s.chn.upstream = none) :
    s.cycleMark p arr sec cyc ph = ((markNoted s p).markNew p sec cyc).markTime (((markNoted s p).markNew p sec cyc).markOffset arr sec cyc ph) := by
  refine (if_neg (by simp [hup])).trans ((if_neg (by simp [hs])).trans (if_pos ?_))
  rcases h with h | h | h <;> simp [h]

end

/-- The cycle of a mark, whose port is the upstream one. -/
def markTaken (u : State) (p sec cyc : Nat) : State :=
  u.moveTime (fun s => s.modChn (fun c => { c with second := sec, cycle := cyc, upstream := some p, marksLost := false, noRoot := false, ring := if c.ring = 0 then 2 else c.ring }))

theorem markTaken_chn (u : State) (p sec cyc : Nat) :
    (markTaken u p sec cyc).chn = { u.chn with second := sec, cycle := cyc, upstream := some p, marksLost := false, noRoot := false, ring := if u.chn.ring = 0 then 2 else u.chn.ring } := move_chn u _

theorem markNew_taken (u : State) (p sec cyc : Nat) : u.markNew p sec cyc = (markTaken u p sec cyc).newCycle := by
  unfold State.markNew markTaken
  rfl

theorem markNew_spec (u : State) (p sec cyc : Nat) :
    (u.markNew p sec cyc).chn.second = sec ∧ (u.markNew p sec cyc).chn.cycle = cyc ∧ (u.markNew p sec cyc).chn.upstream = some p ∧ (u.markNew p sec cyc).chn.marksLost = false ∧
      (u.markNew p sec cyc).chn.noRoot = false ∧ (u.markNew p sec cyc).chn.sender = u.chn.sender ∧ (u.markNew p sec cyc).chn.ring = if u.chn.ring = 0 then 2 else u.chn.ring := by
  obtain ⟨nsender, nsecond, ncycle, nup, nring, nroot, nlost, -⟩ := newCycle_spec (markTaken u p sec cyc)
  rw [markNew_taken, nsender, nsecond, ncycle, nup, nring, nroot, nlost, markTaken_chn]
  exact ⟨rfl, rfl, rfl, rfl, rfl, rfl, rfl⟩

theorem cycleMark_first_chn {s : State} {p : Nat} {arr : Rat} {sec cyc ph : Nat} (hup : s.portUp p = true) (hs : s.chn.sender = false) (h : s.chn.second ≠ sec ∨ s.chn.cycle ≠ cyc ∨ s.chn.upstream = none) :
    (s.cycleMark p arr sec cyc ph).chn = ((markNoted s p).markNew p sec cyc).chn := by
  rw [cycleMark_first hup hs h]
  exact time_chn _ _

/-! #### A management slot that arrives (R336, R352, R354) -/

/-- Only ports differ. -/
def PortsOnly (s t : State) : Prop := t.chn = { s.chn with ports := t.chn.ports }

theorem PortsOnly.trans {s t u : State} (h : PortsOnly s t) (h' : PortsOnly t u) : PortsOnly s u := by
  unfold PortsOnly at *
  rw [h', h]

section
variable {s : State} {p : Nat} {l : List RxSym}

theorem portsOnly_counted (s : State) (p : Nat) (l : List RxSym) : PortsOnly s (s.countSymbols p l) := count_chn s p l

theorem portsOnly_relay (s : State) (p k : Nat) (l : List RxSym) : PortsOnly s (s.relaySlot p k l) := relay_chn s p k l

section
variable (hup : s.portUp p = true)
include hup

theorem managementSlot_bad (h : ∀ b, l = b.map RxSym.data → ¬SlotSealed 0x3F4 b) : s.managementSlot p l = (s.countSymbols p l).mgmtBad p l := by
  have hcarried : s.managementSlot p l = match slotBytes l with
      | some b => if b.length ≠ 1016 ∨ field b 0x3F4 4 ≠ crc32c (b.take 0x3F4) then (s.countSymbols p l).mgmtBad p l else (s.countSymbols p l).takeMgmt p b
      | none => (s.countSymbols p l).mgmtBad p l := if_neg (by simp [hup])
  rw [hcarried]
  rcases UnitSlots.slotBytes_unsealed h with hb | ⟨b, hb, hs⟩
  · rw [hb]
  · rw [hb]
    exact if_pos (by by_contra hc; exact hs (by simpa [SlotSealed] using hc))

theorem managementSlot_good {b : List Byte} (hb : l = b.map RxSym.data) (hs : SlotSealed 0x3F4 b) : s.managementSlot p l = (s.countSymbols p l).takeMgmt p b := by
  obtain ⟨hlen, hcrc⟩ := hs
  have hcarried : s.managementSlot p l = match slotBytes l with
      | some b => if b.length ≠ 1016 ∨ field b 0x3F4 4 ≠ crc32c (b.take 0x3F4) then (s.countSymbols p l).mgmtBad p l else (s.countSymbols p l).takeMgmt p b
      | none => (s.countSymbols p l).mgmtBad p l := if_neg (by simp [hup])
  rw [hcarried, (bytes_data l b).mpr hb]
  exact if_neg (by simp [hlen, hcrc])

end

/-- A bad slot is counted in its port; a unit that does not send forwards it. -/
theorem mgmtBad_spec (hl : p < s.chn.ports.length) :
    PortsOnly s (s.mgmtBad p l) ∧ ((s.mgmtBad p l).port p).crc = satInc 255 (s.port p).crc ∧
      (s.chn.sender = false → s.portUp (1 - p) = true → 1 - p < s.chn.ports.length → lookupD ((s.mgmtBad p l).port (1 - p)).relay 0 [] = l.map (fun y => if y = .violation then .error else y)) := by
  obtain ⟨hself, hother⟩ := UnitSlots.crcFailed_port hl
  unfold State.mgmtBad
  split
  · next hs => exact ⟨rfl, congrArg ChnPort.crc hself, fun h => by simp [h] at hs⟩
  · obtain ⟨hkept, hrelay⟩ := relay_port (s.crcFailed p) p 0 l
    refine ⟨PortsOnly.trans (t := s.crcFailed p) rfl (portsOnly_relay _ _ _ _), ?_, fun _ hup hl' => hrelay ?_ ?_⟩
    · rw [hkept p (by omega), hself]
    · rw [State.portUp, hother (1 - p) (by omega)]
      exact hup
    · exact lt_of_lt_of_eq hl' (len_mod s p _).symm

end

section
variable {u : State} {p : Nat} {b : List Byte}

theorem takeMgmt_empty (h0 : field b 0x10 1 = 0) (hz : ∀ x ∈ slice b 0x20 16, x = 0) : u.takeMgmt p b = u := if_pos ⟨h0, by simpa using hz⟩

/-- A slot with a root's block passes a unit that does not send, which seals it again. -/
theorem takeMgmt_passes (h0 : field b 0x10 1 ≠ 0) (hs : u.chn.sender = false) : SlotSealed 0x3F4 (u.takeMgmt p b).chn.mgmtOut := by
  have hpass : u.takeMgmt p b = (u.slotPasses p b).relaySlot p 0 ((u.slotPasses p b).chn.mgmtOut.map RxSym.data) := (if_neg (fun h => h0 h.1)).trans (if_neg (by simp [hs]))
  rw [hpass, relay_chn]
  exact sealed_mk _ _ (padLen _ _)

theorem takeMgmt_otherSender (h0 : field b 0x10 1 ≠ 0) (hs : u.chn.sender = true) (ha : field b 0x10 1 ≠ u.chn.addr) : u.takeMgmt p b = u.otherSender (field b 0x10 1) :=
  (if_neg (fun h => h0 h.1)).trans ((if_pos hs).trans (if_neg (fun h => h.elim ha h0)))

/-- A deputy gives way to another sender (R354). -/
theorem otherSender_deputy (a : Nat) (hd : u.chn.deputyActs = true) : (u.otherSender a).chn = { u.chn with sender := false, deputyActs := false } := by
  rw [State.otherSender, if_pos hd]
  exact move_chn u _

section
variable {a : Nat} (hd : u.chn.deputyActs = false)
include hd

/-- A root goes on beside its own deputy. -/
theorem otherSender_ofDeputy (ha : a = u.chn.deputy) : u.otherSender a = u := (if_neg (by simp [hd])).trans (if_pos ha)

/-- A root stops beside any other sender (R354). -/
theorem otherSender_stops (ha : a ≠ u.chn.deputy) : (u.otherSender a).chn = { u.chn with sender := false, stopped := true, ring := 0 } := by
  rw [State.otherSender, if_neg (by simp [hd]), if_neg ha]
  exact (stage_chn ..).trans (move_chn u _)

end

end

/-- Settles O40: the sender's cycle by what begins it and by the slots that go out, a mark by whether it is the first of its cycle (its block tells second, cycle and phase, log entry 60), a management slot by its check and its sender. -/
theorem chainCycles : Obligations.ChainCycles := by
  refine ⟨fun s => ⟨fun h => congrArg Host.Outcome.next (if_pos (by simp [h])), fun h => ⟨_, rfl, chainCycle_spec h⟩⟩,
    fun p arr sec cyc ph s => ⟨fun h => congrArg Host.Outcome.next (if_pos (by simp [h])), fun hup hl hs => ⟨_, congrArg Host.Outcome.next (cycleMark_sender hup hs), ?_, fun k hk => port_ne s p k _ hk⟩,
      fun hup hl hs h1 h2 hu => ⟨_, congrArg Host.Outcome.next (cycleMark_again hup hs h1 h2 hu), port_mod s p _ hl, fun k hk => port_ne s p k _ hk, rfl, rfl⟩, fun hup hl hs h => ⟨_, rfl, ?_⟩⟩,
    fun p l s => ⟨fun h => congrArg Host.Outcome.next (if_pos (by simp [h])), fun hup hl h => ⟨_, congrArg Host.Outcome.next (managementSlot_bad hup h), ?_⟩, fun b hup hb hs =>
      have hgood := congrArg Host.Outcome.next (managementSlot_good hup hb hs)
      ⟨fun h0 hz => ⟨_, hgood, ?_⟩, fun h0 hn => ⟨_, hgood, takeMgmt_passes h0 hn⟩, fun h0 hs' ha => ?_⟩⟩⟩
  · rw [port_mod s p _ hl]
    by_cases h : s.chn.second = sec ∧ s.chn.cycle = cyc <;> simp [h]
  · obtain ⟨hsecond, hcycle, hup', hlost, hroot, hsender, hring⟩ := markNew_spec (markNoted s p) p sec cyc
    rw [cycleMark_first_chn hup hs h]
    exact ⟨hsecond, hcycle, hup', hlost, hroot, hsender.trans hs, fun hr => hring.trans (if_pos hr), fun hr => hring.trans (if_neg hr)⟩
  · obtain ⟨hports, hcrc, hrelay⟩ := mgmtBad_spec (s := s.countSymbols p l) (l := l) (lt_of_lt_of_eq hl (len_mod s p _).symm)
    refine ⟨(portsOnly_counted s p l).trans hports, hcrc.trans ?_, fun hs hup' hl' => hrelay hs ?_ (lt_of_lt_of_eq hl' (len_mod s p _).symm)⟩
    · rw [State.countSymbols, port_mod s p _ hl]
    · rw [State.portUp, State.countSymbols, port_ne s p _ _ (by omega)]
      exact hup'
  · rw [takeMgmt_empty h0 hz]
    exact ⟨rfl, rfl⟩
  · have hother := takeMgmt_otherSender (u := s.countSymbols p l) (p := p) h0 hs' ha
    rw [hother] at hgood
    refine ⟨fun hd => ⟨_, hgood, ?_⟩, fun hd hne => ⟨_, hgood, ?_⟩, fun hd he => ⟨_, hgood, ?_⟩⟩
    · beta_reduce
      rw [otherSender_deputy (u := s.countSymbols p l) _ hd]
      rfl
    · beta_reduce
      rw [otherSender_stops (u := s.countSymbols p l) hd hne]
      rfl
    · beta_reduce
      rw [otherSender_ofDeputy (u := s.countSymbols p l) hd he]
      rfl

end Sys2Proof.Proofs.ChainCycles
end

section
/-! ### Remote register access and the latched excerpt (R357, R358, R361) -/

namespace Sys2Proof.Proofs.RemoteAccess

open Sys2Proof Sys2Proof.Machine Sys2Proof.Facts.ChainRules

/-! #### The sender's mailbox (R357, R358) -/

theorem write_go {s : State} {cls : KeyClass} (hw : s.mayWrite cls 0x403C) : s.write cls 0x403C 1 = s.remoteGo := by
  obtain ⟨⟨r, hr, hm⟩, -⟩ := tgtrmt
  exact (write_applies hw hr hm).trans rfl

theorem remoteGo_busy {s : State} (hb : (s.mbox s.mboxSel).busy = true) : s.remoteGo = s := if_pos hb

section
variable {s : State} (hb : (s.mbox s.mboxSel).busy = false)
include hb

theorem remoteGo_notSender (hs : s.chn.sender = false) : s.remoteGo = s.modMbox s.mboxSel (fun x => { x with status := 5 }) :=
  (if_neg (by simp [hb])).trans (if_pos (by simp [hs]))

theorem remoteGo_self (hs : s.chn.sender = true) (ht : (s.mbox s.mboxSel).target = 0 ∨ (s.mbox s.mboxSel).target = s.chn.addr) :
    s.remoteGo = s.modMbox s.mboxSel (fun x => { x with status := 6 }) :=
  (if_neg (by simp [hb])).trans ((if_neg (by simp [hs])).trans (if_pos ht))

theorem remoteGo_sent (hs : s.chn.sender = true) (h0 : (s.mbox s.mboxSel).target ≠ 0) (ha : (s.mbox s.mboxSel).target ≠ s.chn.addr) :
    s.remoteGo = s.modMbox s.mboxSel (fun x => { x with tag := (x.tag + 1) % 256, busy := true, due := true, age := 0, status := 1 }) :=
  (if_neg (by simp [hb])).trans ((if_neg (by simp [hs])).trans (if_neg (by simp [h0, ha])))

/-- In each outcome a go changes the selected mailbox alone. -/
theorem remoteGo_changes : ∃ f, s.remoteGo = s.modMbox s.mboxSel f := by
  by_cases hs : s.chn.sender = true
  · by_cases ht : (s.mbox s.mboxSel).target = 0 ∨ (s.mbox s.mboxSel).target = s.chn.addr
    · exact ⟨_, remoteGo_self hb hs ht⟩
    · exact ⟨_, remoteGo_sent hb hs (fun h => ht (.inl h)) (fun h => ht (.inr h))⟩
  · exact ⟨_, remoteGo_notSender hb (by simpa using hs)⟩

end

/-! #### The target (R358) -/

/-- The unit once it has served entry `m`, with its answer put out for three cycles. -/
def transacted (s : State) (m : Nat) (e : List Byte) : State :=
  (s.serve .chain (slice e 4 9)).1.modChn (fun c => { c with
    tags := c.tags.set m (field e 1 1), answers := c.answers.filter (fun a => a.1 ≠ m) ++ [(m, answerEntry c.addr (field e 1 1) (s.serve .chain (slice e 4 9)).2, 3)] })

theorem remoteTransaction_ignored {s : State} {m : Nat} {e : List Byte} (h : field e 0 1 ≠ s.chn.addr ∨ nth s.chn.tags m = field e 1 1 ∨ s.chn.sender = true) :
    s.remoteTransaction m e = s :=
  if_pos (.inr (.inr (h.imp_right (.imp_right .inl))))

theorem remoteTransaction_served {s : State} {m : Nat} {e : List Byte} (hm : m < 8) (ha : s.chn.addr ≠ 0) (hf : field e 0 1 = s.chn.addr) (ht : nth s.chn.tags m ≠ field e 1 1)
    (hs : s.chn.sender = false) (hl : s.alive = true) : s.remoteTransaction m e = transacted s m e :=
  if_neg (by simp [hm, ha, hf, ht, hs, hl])

/-! #### The answer and its absence (R358) -/

theorem remoteAnswer_taken {s : State} {m : Nat} {e : List Byte} (hm : m < 8) (hb : (s.mbox m).busy = true) (hd : (s.mbox m).due = false) (ht : field e 1 1 = (s.mbox m).tag)
    (ha : field e 0 1 = (s.mbox m).target) :
    s.remoteAnswer m e = s.modMbox m (fun x => { x with busy := false, status := remoteStatus (slice e 4 9), data := if remoteStatus (slice e 4 9) = 2 then BitVec.ofNat 32 (beNat (slice (slice e 4 9) 3 4)) else x.data }) :=
  if_neg (by simp [hm, hb, hd, ht, ha])

theorem remoteTimeout_over {s : State} {m : Nat} (hm : m < 8) (hb : (s.mbox m).busy = true) (hd : (s.mbox m).due = false) (h : 8 ≤ (s.mbox m).age) :
    s.remoteTimeout m = s.modMbox m (fun x => { x with busy := false, status := 4 }) :=
  if_pos ⟨hm, hb, hd, h⟩

theorem remoteTimeout_young {s : State} {m : Nat} (h : (s.mbox m).age < 8) : s.remoteTimeout m = s :=
  if_neg fun ⟨_, _, _, h8⟩ => absurd h (Nat.not_lt.2 h8)

/-! #### The excerpt (R361) -/

theorem read_xcp {s : State} {cls : KeyClass} (h : s.mayRead cls 0x4050) : s.read cls 0x4050 = s.latchXcp := by
  obtain ⟨-, t, ht⟩ := tgtrmt
  rw [read_applies h ht]
  simp [State.readEffect]

/-- Settles O41: the go by what the selected mailbox asks for, the transaction by whether the target takes it (log entry 121), the answer and the timeout by the mailbox that waits, the excerpt by the read that latches it. A go while busy, a foreign transaction and a young timeout change nothing (log entry 1). -/
theorem remoteAccess : Obligations.RemoteAccess := by
  refine ⟨fun cls s hw hlen => ⟨fun hb => congrArg Host.Outcome.next ((write_go hw).trans (remoteGo_busy hb)), fun hb => ⟨_, congrArg Host.Outcome.next (write_go hw), fun k hk => ?other, fun hs => ?notSender, fun hs ht => ?self, fun hs h0 ha => ?sent⟩⟩,
    fun m e s => ⟨fun h => congrArg Host.Outcome.next (remoteTransaction_ignored h), fun hm ha hf ht hs hl => ⟨_, congrArg Host.Outcome.next (remoteTransaction_served hm ha hf ht hs hl), rfl, rfl, _, List.mem_append_right _ (List.mem_singleton_self _)⟩⟩,
    fun m e s hm hlen hb hd ht ha => ⟨_, congrArg Host.Outcome.next (remoteAnswer_taken hm hb hd ht ha), ?answer⟩,
    fun m s hm hlen hb hd => ⟨fun h => ⟨_, congrArg Host.Outcome.next (remoteTimeout_over hm hb hd h), mb_mod s m _ hlen, fun k hk => mb_ne s m k _ hk⟩, fun h => congrArg Host.Outcome.next (remoteTimeout_young h)⟩,
    fun cls s h => congrArg Host.Outcome.next (read_xcp h)⟩
  case other =>
    obtain ⟨f, hf⟩ := remoteGo_changes hb
    rw [hf, mb_ne s _ k _ hk]
  case notSender => rw [remoteGo_notSender hb hs, mb_mod s _ _ hlen]
  case self => rw [remoteGo_self hb hs ht, mb_mod s _ _ hlen]
  case sent => rw [remoteGo_sent hb hs h0 ha, mb_mod s _ _ hlen]
  case answer =>
    beta_reduce
    rw [mb_mod s m _ hlen]
    exact ⟨rfl, rfl, fun k hk => mb_ne s m k _ hk, fun h => if_pos h, fun h => if_neg h⟩

end Sys2Proof.Proofs.RemoteAccess
end

section
/-! ### The roles of a hinge pair (R366, R367, R374, R376, R378) -/

namespace Sys2Proof.Proofs.HingeRoles

open Sys2Proof Sys2Proof.Machine Sys2Proof.Facts.HingePairs

/-! #### The peer seen and lost, the takeover (R366, R374) -/

/-- The unit with the peer gone. -/
def peerGone (s : State) : State := s.modHng (fun h => { h with peer := false, freeOt := s.pwr.ot })

theorem peerChange_lost_waits {s : State} (h : s.standsBy = false ∨ s.hng.wireFault = true) : s.peerChange false = peerGone s :=
  if_neg (show ¬ (!false && s.standsBy && !s.hng.wireFault) = true by rcases h with h | h <;> simp [h])

theorem peerChange_lost_takes {s : State} (hs : s.standsBy = true) (hw : s.hng.wireFault = false) : s.peerChange false = (peerGone s).takeover :=
  if_pos (show (!false && s.standsBy && !s.hng.wireFault) = true by simp [hs, hw])

/-- Only a hinged unit stands by. -/
theorem hinged_of_standsBy {s : State} (h : s.standsBy = true) : s.hinged = true := by
  simp only [State.standsBy, Bool.and_eq_true] at h
  exact h.1.1

/-! #### The claim and its second look (R367, R376) -/

theorem claimDue_iff {s : State} : s.claimDue = true ↔ s.hinged = true ∧ s.sys.st = .blocked ∧ s.enabled = true ∧ s.ticking = true ∧ s.hng.peer = false ∧ s.actSpan = false ∧ s.sys.shutting = false ∧
    (s.preferred = true ∨ s.hng.freeOt + 200000 ≤ s.pwr.ot) := by
  simp only [State.claimDue, Bool.and_eq_true, Bool.or_eq_true, Bool.not_eq_true', decide_eq_true_eq, and_assoc]

theorem hingeClaim_due {s : State} (h : s.claimDue = true) : s.hingeClaim = (s.autoState .inService 2).modHng (fun h => { h with claimed := true }) := if_pos h

theorem hingeClaim_idle {s : State} (h : ¬ s.claimDue = true) : s.hingeClaim = s := if_neg h

theorem claimed_spec {s : State} (hd : s.claimDue = true) : s.hingeClaim.sys.st = .inService ∧ s.hingeClaim.sys.lastCause = 2 ∧ s.hingeClaim.hng.ctl = true ∧ s.hingeClaim.hng.claimed = true := by
  obtain ⟨hhng, hst, hcause⟩ := auto_hng s .inService 2
  rw [hingeClaim_due hd]
  refine ⟨hst, hcause, ?_, rfl⟩
  rw [modHng_hng, hhng]
  simp [(claimDue_iff.1 hd).1]

/-- The unit with its claim's second look taken. -/
def lookedAgain (s : State) : State := s.modHng (fun h => { h with claimed := false })

/-- The same unit with the peer seen too. -/
def peerSeen (s : State) : State := (lookedAgain s).modHng (fun h => { h with peer := true })

section
variable {s : State} (hc : s.hng.claimed = true) (hst : s.sys.st = .inService)
include hc hst

theorem claimRecheck_alone : s.claimRecheck false = lookedAgain s := (if_neg (by simp [hc, hst])).trans (if_neg Bool.false_ne_true)

theorem claimRecheck_keeps (hp : s.preferred = true) : s.claimRecheck true = (peerSeen s).stage 0x0117 1 [] :=
  (if_neg (by simp [hc, hst])).trans ((if_pos rfl).trans (congrArg (fun u : State => u.stage 0x0117 1 []) (if_pos hp)))

theorem claimRecheck_yields (hp : s.preferred = false) : s.claimRecheck true = ((peerSeen s).changeState .blocked 2).stage 0x0117 1 [] :=
  (if_neg (by simp [hc, hst])).trans ((if_pos rfl).trans (congrArg (fun u : State => u.stage 0x0117 1 []) (if_neg (show ¬ s.preferred = true by simp [hp]))))

end

theorem claimRecheck_idle {s : State} {b : Bool} (h : s.hng.claimed = false ∨ s.sys.st ≠ .inService) : s.claimRecheck b = s :=
  if_pos (by simpa using h)

/-- The second look of a claim that finds the peer and stays: the peer is noted, state and HNG_CTL are kept. -/
theorem kept_spec (s : State) : ((peerSeen s).stage 0x0117 1 []).hng = { s.hng with claimed := false, peer := true } ∧ ((peerSeen s).stage 0x0117 1 []).sys.st = s.sys.st :=
  ⟨stage_hng .., stage_sys_st ..⟩

/-- The second look of a claim that gives way. -/
theorem yielded_spec (s : State) : let t := ((peerSeen s).changeState .blocked 2).stage 0x0117 1 []
    t.hng = { s.hng with ctl := false, leaving := none, claimed := false, peer := true } ∧ t.sys.st = .blocked ∧ t.sys.lastCause = 2 := by
  obtain ⟨hhng, hst, hcause, -⟩ := change_hng (peerSeen s) .blocked 2
  exact ⟨(stage_hng ..).trans hhng, (stage_sys_st ..).trans hst, (stage_sys_lastCause ..).trans hcause⟩

/-! #### The entry into STANDBY (R378) -/

theorem autoState_sch (s : State) (n : OpState) (c : Nat) : (s.autoState n c).sch = s.sch :=
  have hkeep : Keeps [.st, .irq, .nme, .job, .ring, .trip, .pwr, .afe, .flt, .fst, .fio, .chn, .hng] s (s.changeState n c) := keeps_changeState n c rfl (Keeps.refl _ s)
  hkeep.same (p := .sch) (by decide)

/-- The cause of an entry into STANDBY. -/
def standbyCause (s : State) : Nat := if s.sys.st = .failsafe then 0xB else if s.sch.actHinge then 3 else 2

/-- The unit in STANDBY, before an activation that ends with it. -/
def standing (s : State) : State := (s.autoState .standby (standbyCause s)).stageTick 0x0119 0 []

theorem hingeStandby_due {s : State} (h : s.standbyDue = true) : s.hingeStandby = standing s := by rw [State.hingeStandby, if_pos h, standing, standbyCause]

theorem standing_spec (s : State) : (standing s).sys.st = .standby ∧ (standing s).sys.lastCause = standbyCause s ∧ (standing s).hng.ctl = false ∧ (standing s).sch = s.sch := by
  obtain ⟨hhng, hst, hcause⟩ := auto_hng s .standby (standbyCause s)
  rw [standing, stageTick_sys_st, stageTick_sys_lastCause, stageTick_hng, stageTick_sch, hhng]
  exact ⟨hst, hcause, rfl, autoState_sch ..⟩

theorem enterStandby_idle {s : State} (h : s.standbyDue = false) : s.enterStandby = s := if_neg (by simp [h])

theorem enterStandby_due {s : State} (h : s.standbyDue = true) : s.enterStandby = if s.sch.actHinge = true ∧ s.sch.act = .idle then (standing s).finishAct else standing s := by
  refine (if_pos h).trans ?_
  dsimp only
  rw [hingeStandby_due h, (standing_spec s).2.2.2]

/-- What the end of an activation leaves: the state and HNG_CTL as they were, the activation closed with result 2. -/
theorem finishAct_spec (s : State) : s.finishAct.sys.st = s.sys.st ∧ s.finishAct.sys.lastCause = s.sys.lastCause ∧ s.finishAct.hng = s.hng ∧
    s.finishAct.sch.actHinge = false ∧ s.finishAct.sch.actTicket = 0 ∧ s.finishAct.sch.actResult = 2 := by
  have hkeep : Keeps [.irq, .job, .ring, .trip, .sch] s s.finishAct := keeps_finishAct rfl (Keeps.refl _ s)
  obtain ⟨hst, hcause, -⟩ := hkeep.same (p := .st) (by decide)
  have hsch : s.finishAct.sch = _ := stageTick_sch ..
  exact ⟨hst, hcause, hkeep.same (p := .hng) (by decide), congrArg Scheme.actHinge hsch, congrArg Scheme.actTicket hsch, congrArg Scheme.actResult hsch⟩

theorem enterStandby_spec {s : State} (h : s.standbyDue = true) : s.enterStandby.sys.st = .standby ∧ s.enterStandby.sys.lastCause = standbyCause s ∧ s.enterStandby.hng.ctl = false ∧
    (s.sch.actHinge = true → s.sch.act = .idle → s.enterStandby.sch.actHinge = false ∧ s.enterStandby.sch.actTicket = 0 ∧ s.enterStandby.sch.actResult = 2) := by
  obtain ⟨hst, hcause, hctl, -⟩ := standing_spec s
  rw [enterStandby_due h]
  by_cases ha : s.sch.actHinge = true ∧ s.sch.act = .idle
  · rw [if_pos ha]
    obtain ⟨hst', hcause', hhng', hend⟩ := finishAct_spec (standing s)
    exact ⟨hst'.trans hst, hcause'.trans hcause, (congrArg Hinge.ctl hhng').trans hctl, fun _ _ => hend⟩
  · rw [if_neg ha]
    exact ⟨hst, hcause, hctl, fun h1 h2 => absurd ⟨h1, h2⟩ ha⟩

/-- Settles O42: a lost peer by whether the unit stands by, the claim by the one condition `claimDue_iff` and its second look by what it finds (log entry 66), the entry into STANDBY by the activation that may end with it (log entry 69); where the condition fails nothing changes (log entry 1). -/
theorem hingeRoles : Obligations.HingeRoles := by
  refine ⟨fun s => rfl, fun s => ⟨fun h => congrArg Host.Outcome.next (peerChange_lost_waits h), fun hs hw => ⟨_, congrArg Host.Outcome.next (peerChange_lost_takes hs hw), take_spec (peerGone s) (hinged_of_standsBy hs)⟩⟩,
    fun s hh hst hen ht hp ha hsh => ⟨fun h => ⟨_, rfl, claimed_spec (claimDue_iff.2 ⟨hh, hst, hen, ht, hp, ha, hsh, h⟩)⟩, fun hn hot => congrArg Host.Outcome.next (hingeClaim_idle fun hd => ?tooSoon)⟩,
    fun s h => congrArg Host.Outcome.next (hingeClaim_idle fun hd => ?notDue),
    fun b s => ⟨fun h => congrArg Host.Outcome.next (claimRecheck_idle h), fun hc hst => ?recheck⟩,
    fun s => ⟨fun h => congrArg Host.Outcome.next (enterStandby_idle h), fun h => ⟨_, rfl, enterStandby_spec h⟩⟩⟩
  case tooSoon =>
    obtain ⟨-, -, -, -, -, -, -, hpref | hfree⟩ := claimDue_iff.1 hd
    · exact absurd hpref (by simp [hn])
    · omega
  case notDue =>
    obtain ⟨hh, hst, -, -, hp, -⟩ := claimDue_iff.1 hd
    simp [hh, hst, hp] at h
  case recheck =>
    cases b with
    | false => exact ⟨_, congrArg Host.Outcome.next (claimRecheck_alone hc hst), rfl, (Bool.or_false _).symm, fun _ => ⟨rfl, rfl⟩, fun h => absurd h Bool.false_ne_true⟩
    | true =>
      by_cases hp : s.preferred = true
      · obtain ⟨hhng, hst'⟩ := kept_spec s
        exact ⟨_, congrArg Host.Outcome.next (claimRecheck_keeps hc hst hp), congrArg Hinge.claimed hhng, (congrArg Hinge.peer hhng).trans (Bool.or_true _).symm, fun _ => ⟨hst', (congrArg Hinge.ctl hhng).trans rfl⟩, fun _ hn => absurd hp (by simp [hn])⟩
      · have hn : s.preferred = false := by simpa using hp
        obtain ⟨hhng, hst', hcause⟩ := yielded_spec s
        exact ⟨_, congrArg Host.Outcome.next (claimRecheck_yields hc hst hn), congrArg Hinge.claimed hhng, (congrArg Hinge.peer hhng).trans (Bool.or_true _).symm, fun h => absurd h (by simp [hn]), fun _ _ => ⟨hst', hcause, congrArg Hinge.ctl hhng⟩⟩

end Sys2Proof.Proofs.HingeRoles
end

section
/-! ### Host and debug frames, and what the keyway refuses (R383-R389, R396) -/

namespace Sys2Proof.Proofs.HostFrames

open Sys2Proof Sys2Proof.Machine Sys2Proof.Facts.HostPort

/-! #### The four commands (R383, R389) -/

/-- The frames of nine bytes: the command, its command byte, whether it writes. -/
def frameRows : List ((KeyClass → List Byte → Instr) × Nat × Bool) :=
  [((fun (cls : KeyClass) (f : List Byte) => Instr.hostRead cls f), 0x0B, false), (fun cls f => .hostWrite cls f, 0x02, true), (fun cls f => .hostQuadRead cls f, 0xEB, false), (fun cls f => .hostQuadWrite cls f, 0x32, true)]

section
variable {p : (KeyClass → List Byte → Instr) × Nat × Bool} (hp : p ∈ frameRows)
include hp

theorem exec_frame (cls : KeyClass) (f : List Byte) (s : State) : exec (p.1 cls f) s = .next (s.frame cls f (decide (reqCmd f = p.2.1))) := by
  simp only [frameRows, List.mem_cons, List.not_mem_nil, or_false] at hp
  rcases hp with rfl | rfl | rfl | rfl <;> rfl

theorem cmdOp_frame (cls : KeyClass) : cmdOp cls p.2.1 = if cls = .debug ∧ (p.2.1 = 0xEB ∨ p.2.1 = 0x32) then none else some p.2.2 := by
  simp only [frameRows, List.mem_cons, List.not_mem_nil, or_false] at hp
  rcases hp with rfl | rfl | rfl | rfl <;> cases cls <;> rfl

theorem cmd_frame : p.2.1 = 0x0B ∨ p.2.1 = 0x02 ∨ p.2.1 = 0xEB ∨ p.2.1 = 0x32 := by
  simp only [frameRows, List.mem_cons, List.not_mem_nil, or_false] at hp
  rcases hp with rfl | rfl | rfl | rfl <;> decide

/-- A path that is down, another length and another command byte leave the module alone. -/
theorem exec_frame_other {cls : KeyClass} {f : List Byte} {s : State} (h : s.pathUp cls = false ∨ f.length ≠ 9 ∨ reqCmd f ≠ p.2.1) : exec (p.1 cls f) s = .next s :=
  (exec_frame hp cls f s).trans (congrArg Host.Outcome.next (frame_miss (h.imp_right (Or.imp_right fun hc => decide_eq_false hc))))

end

/-- Settles O44: the rows of the four commands by `exec_frame` and `cmdOp_frame`, the answer by the order of R387 (log entry 118 for the code under a power fail); a frame that is not the row's own changes nothing (log entry 1). -/
theorem hostFrames : Obligations.HostFrames := by
  intro p hp cls f s
  refine ⟨exec_frame_other hp, fun hu hl hc => ?_⟩
  rw [exec_frame hp]
  obtain ⟨hcrc, hdebug, hrun⟩ := frames_core cls f s p.2.1 p.2.2 (decide (reqCmd f = p.2.1)) (cmdOp_frame hp cls) (cmd_frame hp) hu hl hc (decide_eq_true hc)
  refine ⟨hcrc, hdebug, fun ho hq => ⟨(hrun ho hq).1, fun hpf u code vr d h => ?_⟩⟩
  exact (hrun ho hq).2 hpf u code vr d (outcome_core cls (reqAddr f) (reqData f) s u p.2.2 code vr d h)

/-! #### A request that the keyway refuses (R396) -/

/-- What a keyway refusal answers and leaves. -/
theorem refused_outcome {s : State} {cls : KeyClass} {a : Nat} {v : Word} {g : Target} {w : Bool} (hg : targetOf a = some g) (hr : w = false → s.may cls a (romRead g) 0 = false)
    (hw : w = true → writable g = true ∧ s.may cls a (romWrite g) 1 = false) :
    (if w then s.busWrite cls a v else s.busRead cls a v) = (s.keyRefused cls (b2n w) a v, { code := 1, refused := false, data := 0 }) := by
  refine outcome_core cls a v s _ w 1 false 0 (.inr ⟨g, hg, ?_⟩)
  cases w with
  | false => exact .inr (.inl ⟨rfl, hr rfl, rfl, rfl, rfl, rfl⟩)
  | true => exact .inr (.inr (.inl ⟨rfl, (hw rfl).1, (hw rfl).2, rfl, rfl, rfl, rfl⟩))

theorem satInc_eq_min (top : Nat) : satInc top = fun n => min top (n + 1) := by
  funext n
  unfold satInc
  split <;> omega

theorem nmeOut_keyRefused (s : State) (cls : KeyClass) (op a : Nat) (v : Word) : (s.keyRefused cls op a v).nmeOut = s.nmeOut := by
  have hkeep := BrokenFrames.keyRefused_same s cls op a v
  have hnme : (s.keyRefused cls op a v).sys.nme = s.sys.nme := hkeep.2 .nme (by decide)
  have hhost : (s.keyRefused cls op a v).host = s.host := hkeep.2 .host (by decide)
  rw [State.nmeOut, State.nmeOut, hnme, hhost]

theorem irqOut_of_host {u t : State} (h : SameBut [.host] u t) : t.irqOut = u.irqOut := by
  have hirq : t.sys.irq = u.sys.irq := h.2 .irq (by decide)
  have hregs : t.regs = u.regs := h.2 .regs (by decide)
  rw [State.irqOut, State.irqOut, hirq, State.reg, State.reg, hregs]

/-- The refused state is the counted one with its record staged. -/
theorem keyRefused_staged (s : State) (cls : KeyClass) (op a : Nat) (v : Word) :
    s.keyRefused cls op a v = (({ s with key := (s.keyRefused cls op a v).key } : State)).stage 0x0120 1 (b1 (clsIx cls) ++ b1 op ++ b2 a ++ b4 v.toNat) := by
  rw [BrokenFrames.keyRefused_key]
  rfl

/-- A frame that the keyway refuses: its answer, and nothing beyond the refusal. -/
theorem refused_frame {p : (KeyClass → List Byte → Instr) × Nat × Bool} (hp : p ∈ frameRows) {cls : KeyClass} {f : List Byte} {g : Target} {s : State} (hu : s.pathUp cls = true) (hl : f.length = 9)
    (hc : reqCmd f = p.2.1) (ho : reqCrcOk f = true) (hpf : s.pwr.pf = .none) (hd : cls = .debug → p.2.1 = 0x0B ∨ p.2.1 = 0x02) (hg : targetOf (reqAddr f) = some g)
    (hr : p.2.2 = false → s.may cls (reqAddr f) (romRead g) 0 = false) (hw : p.2.2 = true → writable g = true ∧ s.may cls (reqAddr f) (romWrite g) 1 = false) :
    Leads (exec (p.1 cls f) s) fun t => t.host.answer = some (cls, answerBytes (1 + 64 * b2n t.irqOut + 128 * b2n s.nmeOut) (reqAddr f) 0) ∧ SameBut [.host] (s.keyRefused cls (b2n p.2.2) (reqAddr f) (reqData f)) t := by
  have hq : cls ≠ .debug ∨ p.2.1 = 0x0B ∨ p.2.1 = 0x02 := or_iff_not_imp_left.2 fun h => hd (not_not.1 h)
  obtain ⟨-, -, hrun⟩ := frames_core cls f s p.2.1 p.2.2 (decide (reqCmd f = p.2.1)) (cmdOp_frame hp cls) (cmd_frame hp) hu hl hc (decide_eq_true hc)
  obtain ⟨t, ht, hsame, hhost⟩ := (hrun ho hq).2 hpf _ _ _ _ (refused_outcome hg hr hw)
  refine ⟨t, (exec_frame hp cls f s).trans ht, ?_, hsame⟩
  rw [hhost, irqOut_of_host hsame, nmeOut_keyRefused]
  simp [b2n]

/-- Settles O47: the refusal's outcome is that of R396, with the data offered in its record (log entry 116); the count is `satInc` of the class, whatever the record's rate. -/
theorem keywayRefusal : Obligations.KeywayRefusal := by
  intro p hp cls f g s hu hl hc ho hpf hd hg hr hw
  obtain ⟨row, hrow, rfl⟩ : ∃ row ∈ frameRows, (row.1, row.2.1, b2n row.2.2) = p := List.mem_map.1 hp
  obtain ⟨t, ht, hanswer, hsame⟩ := refused_frame hrow hu hl hc ho hpf hd hg (fun h => hr (by simp [b2n, h])) (fun h => hw (by simp [b2n, h]))
  have hkey : t.key = (s.keyRefused cls (b2n row.2.2) (reqAddr f) (reqData f)).key := hsame.2 .key (by decide)
  refine ⟨t, ht, hanswer, ?others, ?count, ?record⟩
  case others =>
    exact Facts.ClockRules.sameTrans (Facts.ClockRules.sameUp (BrokenFrames.keyRefused_same ..) (by decide)) (Facts.ClockRules.sameUp hsame (by decide))
  case count => rw [hkey, BrokenFrames.keyRefused_key, satInc_eq_min]
  case record => rwa [hkey, ← keyRefused_staged]

end Sys2Proof.Proofs.HostFrames
end

section
/-! ### The ROM keyway table (R393, R394) -/

namespace Sys2Proof.Proofs.KeywayTable

open Sys2Proof Sys2Proof.Machine Sys2Proof.Facts.HostPort

/-! #### Who may write a register (R394) -/

/-- R394's ranges: first and last byte of a range and the classes that may write its registers. -/
def writeRows : List (Nat × Nat × List KeyClass) :=
  [(0x0000, 0x000F, [.host, .chain]), (0x0010, 0x03FF, [.host]), (0x0400, 0x07FF, [.host]), (0x0800, 0x0BFF, [.host, .chain]), (0x0C00, 0x0FFF, [.host, .chain, .net, .debug]),
    (0x1000, 0x1003, [.host, .chain, .net]), (0x1004, 0x13FF, [.host, .chain, .net, .debug]), (0x1400, 0x145F, [.host, .chain]), (0x1460, 0x1463, [.host, .chain, .net, .debug]), (0x1464, 0x146F, [.host, .chain]), (0x1470, 0x1473, [.host, .chain, .net, .debug]), (0x1474, 0x17FF, [.host, .chain]), (0x1800, 0x1BFF, [.host, .chain]),
    (0x1C00, 0x1C23, [.host, .chain]), (0x1C24, 0x1C27, [.host, .chain, .net]), (0x1C28, 0x1FFF, [.host, .chain]), (0x2000, 0x23FF, [.host, .chain, .net, .debug]),
    (0x2400, 0x242F, [.host, .chain]), (0x2430, 0x2433, [.host, .chain, .net]), (0x2434, 0x2437, [.host, .chain]), (0x2438, 0x243B, [.host, .chain, .net, .debug]), (0x243C, 0x27FF, [.host, .chain]),
    (0x2800, 0x2803, [.host, .chain, .net, .debug]), (0x2804, 0x2BFF, [.host, .chain]), (0x2C00, 0x2C83, [.host, .chain]), (0x2C84, 0x2C87, [.host, .chain, .net, .debug]), (0x2C88, 0x2FFF, [.host, .chain]),
    (0x3000, 0x3023, [.host, .chain, .net, .debug]), (0x3024, 0x33FF, [.host, .chain]), (0x3400, 0x3407, [.host, .chain]), (0x3408, 0x340B, [.host, .chain, .net, .debug]), (0x340C, 0x37FF, [.host]),
    (0x3800, 0x3827, [.host, .chain]), (0x3828, 0x3837, [.host]), (0x3838, 0x3BFF, [.host, .chain]), (0x3C00, 0x3C0F, [.host]), (0x3C10, 0x3FFF, [.host, .chain, .net, .debug]),
    (0x4000, 0x402F, [.host, .chain]), (0x4030, 0x403F, [.host]), (0x4040, 0x43FF, [.host, .chain, .net, .debug]), (0x4400, 0x47FF, [.host, .chain]), (0x9000, 0x9FFF, [.host, .chain])]

/-- The classes of a list as the ROM keeps them. -/
def classMask (l : List KeyClass) : Nat := maskOf [decide (.host ∈ l), decide (.chain ∈ l), decide (.net ∈ l), decide (.debug ∈ l)]

/-- Every register with a writable field lies outside a range or has the range's classes. -/
theorem regMap_rows : ∀ r ∈ regMap, r.mask ≠ 0 → ∀ p ∈ writeRows, p.2.1 < r.addr ∨ r.addr + 4 * r.count ≤ p.1 ∨ r.classes = classMask p.2.2 := by
  decide +kernel

/-- Only the last range reaches the transfer window. -/
theorem windowRow : ∀ p ∈ writeRows, 0x9000 ≤ p.2.1 → p.2.2 = [.host, .chain] := by
  decide

theorem romWrite_row {p : Nat × Nat × List KeyClass} (hp : p ∈ writeRows) {a : Nat} {g : Target} (h1 : p.1 ≤ a) (h2 : a ≤ p.2.1) (ht : targetOf a = some g) (hw : writable g = true) :
    romWrite g = classMask p.2.2 := by
  cases g with
  | reg r => exact romTab writeRows regMap_rows p hp a r h1 h2 ht (by simpa [writable] using hw)
  | transferWin =>
    rw [windowRow p hp ((tgt_win ht).1.trans h2)]
    rfl
  | ledgerWin => exact absurd hw Bool.false_ne_true
  | captureWin => exact absurd hw Bool.false_ne_true
  | probeWin => exact absurd hw Bool.false_ne_true

/-- A class of the mask, or DEBUG in HOST's place while DBG_EN was high at reset (R393). -/
theorem classIn_mask (s : State) (cls : KeyClass) (l : List KeyClass) :
    s.classIn cls (classMask l) = true ↔ cls ∈ l ∨ (cls = .debug ∧ s.key.dbgEn = true ∧ .host ∈ l) := by
  have hcls : (classMask l).testBit (clsIx cls) = decide (cls ∈ l) := rom_bits l cls
  have hhost : (classMask l).testBit 0 = decide (.host ∈ l) := rom_bits l .host
  simp only [State.classIn, hcls, hhost, Bool.or_eq_true, Bool.and_eq_true, decide_eq_true_eq, and_assoc]

/-! #### Who may read a word (R394) -/

theorem romRead_window : romRead .transferWin = classMask [.host, .chain] := rfl

theorem romRead_open {g : Target} (h : g ≠ .transferWin) : romRead g = classMask [.host, .chain, .net, .debug] := by
  cases g with
  | transferWin => exact absurd rfl h
  | reg r => rfl
  | ledgerWin => rfl
  | captureWin => rfl
  | probeWin => rfl

theorem may_read (s : State) (cls : KeyClass) (a : Nat) (g : Target) (h : s.key.entries = []) :
    s.may cls a (romRead g) 0 = true ↔ g ≠ .transferWin ∨ cls = .host ∨ cls = .chain ∨ (cls = .debug ∧ s.key.dbgEn = true) := by
  rw [may_eq s cls a _ 0 h]
  by_cases hg : g = .transferWin
  · rw [hg, romRead_window, classIn_mask]
    simp [or_assoc]
  · rw [romRead_open hg, classIn_mask]
    cases cls <;> simp [hg]

/-! #### A write without a writable field (R394) -/

theorem busWrite_readOnly {s : State} {cls : KeyClass} {a : Nat} {v : Word} {g : Target} (hg : targetOf a = some g) (hw : writable g = false) (hb : s.sys.st ≠ .boot) :
    s.busWrite cls a v = (s, { code := 0, refused := false, data := s.wordView cls a g }) :=
  outcome_core cls a v s s true 0 false (s.wordView cls a g) (.inr ⟨g, hg, .inr (.inr (.inr (.inr (.inr ⟨rfl, hw, .inl hb, rfl, rfl, rfl, rfl⟩))))⟩)

/-- Settles O46: a register by the range that its map entry lies in (`regMap_rows`), the window by the last range, a read by the two read masks, a write without a writable field by the order of R387. -/
theorem keywayTable : Obligations.KeywayTable := by
  refine ⟨fun p hp a g h1 h2 ht hw cls s he => ?write, fun a g cls s _ he => may_read s cls a g he, fun a g _ hg => ?readOnly, fun cls f g s hu hl hc ho hpf hb ht hw => ?unchanged⟩
  case write =>
    rw [may_eq s cls a _ 1 he, romWrite_row hp h1 h2 ht hw, classIn_mask]
  case readOnly => rcases hg with rfl | rfl | rfl <;> rfl
  case unchanged =>
    have hrow : ((fun cls f => Instr.hostWrite cls f, 0x02, true) : (KeyClass → List Byte → Instr) × Nat × Bool) ∈ HostFrames.frameRows := .tail _ (.head _)
    obtain ⟨-, -, hrun⟩ := frames_core cls f s 0x02 true (decide (reqCmd f = 0x02)) (HostFrames.cmdOp_frame hrow cls) (.inr (.inl rfl)) hu hl hc (decide_eq_true hc)
    obtain ⟨t, hexec, hsame, hhost⟩ := (hrun ho (.inr (.inr rfl))).2 hpf _ _ _ _ (busWrite_readOnly ht hw hb)
    refine ⟨t, hexec, hsame, ?_⟩
    rw [hhost]
    simp [b2n]

end Sys2Proof.Proofs.KeywayTable
end

section
/-! ### Resets, the host reset and the counter block (R435, R439, R440, R445-R447, R453, R455) -/

namespace Sys2Proof.Proofs.Resets

open Sys2Proof Sys2Proof.Machine Sys2Proof.Facts.PowerRules

/-! #### The loss of the always-on domain (R435, R444, R445) -/

/-- What the loss of the always-on domain leaves: MRAM, and nothing of the rest. -/
def ColdLeft (st : OpState) (s t : State) : Prop :=
  t.sys.st = st ∧ t.pwr = { pccCopies := s.pwr.pccCopies, blocks := s.pwr.blocks, newest := s.pwr.newest } ∧ t.clk = {} ∧ t.regs = [] ∧ t.host = {} ∧ t.job = {} ∧
    t.ldg.first = s.ldg.first ∧ t.ldg.circ = s.ldg.circ ∧ t.nv.ovr = s.nv.ovr ∧ t.dm.map = s.dm.map ∧ t.mram = s.mram

theorem resetTo_cold (s : State) (st : OpState) (cause rail : Nat) : ColdLeft st s (s.resetTo st true cause rail) := by
  unfold State.resetTo ColdLeft
  generalize s.holdOutputs = h
  and_intros <;> rfl

/-! #### RESET_N (R439, R445, R446, R453) -/

theorem committing_iff {s : State} : s.committing = true ↔ s.pwr.pf = .flushing ∨ s.pwr.pf = .committing := by simp [State.committing]

theorem not_committing {s : State} (h : s.pwr.pf = .none ∨ s.pwr.pf = .committed) : ¬ s.committing = true := by
  rw [committing_iff]
  rcases h with h | h <;> simp [h]

section
variable {s : State}

theorem resetLow_ignored (h : s.sys.st = .off ∨ s.pwr.held = true) : s.resetLow = s := if_pos h

variable (hoff : s.sys.st ≠ .off) (hheld : s.pwr.held = false)
include hoff hheld

theorem resetLow_waits (hc : s.committing = true) : s.resetLow = { s with pwr := { s.pwr with resetWaits := true } } :=
  (if_neg (by simp [hoff, hheld])).trans (if_pos hc)

theorem resetLow_resets (hc : ¬ s.committing = true) : s.resetLow = (s.resetFor 1 15).modPwr (fun p => { p with held := true }) :=
  (if_neg (by simp [hoff, hheld])).trans (if_neg hc)

end

/-! #### Rail faults (R435) -/

section
variable {s : State} {r : Nat}

theorem railFault_ignored (h : s.sys.st = .off ∨ 9 ≤ r) : s.railFault r = s := if_pos h

variable (hoff : s.sys.st ≠ .off)
include hoff

theorem railFault_alwaysOn : s.railFault 0 = s.resetTo .boot true 0 15 := (if_neg (by simp [hoff])).trans (if_pos rfl)

variable (hlo : 1 ≤ r) (hhi : r < 9)
include hlo hhi

theorem railFault_dark (hd : s.sys.st = .dormant ∨ s.pwr.held = true) : s.railFault r = s :=
  (if_neg (not_or.2 ⟨hoff, Nat.not_le.2 hhi⟩)).trans ((if_neg (by omega)).trans (if_pos ((darkO2 s).2 (.inr hd))))

theorem railFault_resets (hd : s.sys.st ≠ .dormant) (hh : s.pwr.held = false) : s.railFault r = s.resetFor 2 r :=
  (if_neg (not_or.2 ⟨hoff, Nat.not_le.2 hhi⟩)).trans ((if_neg (by omega)).trans (if_neg (by simp [darkO2, hoff, hd, hh])))

end

/-! #### The host reset (R445, R446, R455) -/

theorem write_pwrCtl {s : State} {cls : KeyClass} (hw : s.mayWrite cls 0x0418) : s.write cls 0x0418 1 = (s.writePwrCtl 1).1 := by
  obtain ⟨r, hr, hm⟩ := tgtrst
  exact (write_applies hw hr hm).trans rfl

theorem writePwrCtl_refused {s : State} (h : s.tripAsserted = true) : s.writePwrCtl 1 = (s, true) := (if_neg (by decide)).trans (if_pos h)

theorem writePwrCtl_taken {s : State} (h : s.tripAsserted = false) : s.writePwrCtl 1 = ({ s with pwr := { s.pwr with hostReset := true } }, false) :=
  (if_neg (by decide)).trans (if_neg (by simp [h]))

/-- The ring and a counter block written before a host reset. -/
def hostFlushed (s : State) : State := s.flushRing.writeBlock false

theorem hostResetEffect_ignored {s : State} (h : ¬(s.pwr.hostReset = true ∧ s.alive = true ∧ s.committing = false)) : s.hostResetEffect = s := if_neg h

theorem hostResetEffect_resets {s : State} (hr : s.pwr.hostReset = true) (hl : s.alive = true) (hc : ¬ s.committing = true) : s.hostResetEffect = (hostFlushed s).resetFor 3 15 :=
  if_pos ⟨hr, hl, by simpa using hc⟩

theorem flushRing_same (s : State) : SameBut [.irq, .ring, .ledger, .trip, .dm, .mram] s s.flushRing := (keeps_flushRing (K := [.irq, .ring, .ledger, .trip, .dm, .mram]) rfl (Keeps.refl _ s)).1

theorem hostFlushed_same (s : State) : SameBut [.irq, .ring, .ledger, .trip, .dm, .mram, .pwr] s (hostFlushed s) :=
  sameTransO2 (sameUpO2 (flushRing_same s) (by decide)) (sameUpO2 (Dormant.writeBlock_keeps _ false) (by decide))

theorem hostFlushed_ot (s : State) : (hostFlushed s).pwr.ot = s.pwr.ot :=
  (Dormant.writeBlock_pwr s.flushRing false).1.trans (congrArg Power.ot ((flushRing_same s).2 .pwr (by decide)))

/-- The block goes to the older copy while MRAM works. -/
theorem hostFlushed_newest {s : State} (h : (hostFlushed s).dm.mramFail = false) : (hostFlushed s).pwr.newest = 1 - s.pwr.newest := by
  have hdm : (hostFlushed s).dm = s.flushRing.dm := (Dormant.writeBlock_keeps s.flushRing false).2 .dm (by decide)
  have hpwr : s.flushRing.pwr = s.pwr := (flushRing_same s).2 .pwr (by decide)
  rw [hostFlushed, Dormant.writeBlock_written false (hdm ▸ h), ← hpwr]

/-! #### The restart of the HC (R447) -/

/-- The HC restarted: its jobs are gone and the capture write starts its piece again. -/
def restarted (s : State) : State := (s.abandonJobs.modPwr (fun p => { p with hcRestarts := satInc 255 p.hcRestarts })).modCap (fun c => { c with written := 0 })

theorem hcRestart_taken {s : State} (h : s.alive = true) : s.hcRestart = (restarted s).stage 0x0145 2 [] := if_pos h

theorem abandonJobs_pwr (s : State) : s.abandonJobs.pwr = s.pwr :=
  Keeps.same (keeps_abandonJobs (K := [.causes, .irq, .job, .ring, .cap, .trip, .dm, .afe, .flt, .pe, .sch, .mram]) rfl (Keeps.refl _ s)) (p := .pwr) (by decide)

theorem abandonJobs_job (s : State) : s.abandonJobs.job.out = [] ∧ s.abandonJobs.job.next = 1 := ⟨rfl, rfl⟩

theorem restarted_spec (s : State) : (restarted s).job = s.abandonJobs.job ∧ (restarted s).pwr = { s.pwr with hcRestarts := satInc 255 s.pwr.hcRestarts } ∧ (restarted s).cap.written = 0 := by
  refine ⟨rfl, ?_, rfl⟩
  rw [restarted, modCap_pwr, State.modPwr, abandonJobs_pwr]

theorem restarted_same (s : State) : SameBut [.causes, .irq, .job, .ring, .cap, .trip, .dm, .afe, .flt, .pe, .sch, .mram, .pwr] s (restarted s) :=
  (keeps_modCap (K := [.causes, .irq, .job, .ring, .cap, .trip, .dm, .afe, .flt, .pe, .sch, .mram, .pwr]) _ rfl (keeps_modPwr _ rfl (keeps_abandonJobs rfl (Keeps.refl _ s)))).1

/-! #### The counter block (R440) -/

/-- The module at the OT of a block. -/
def blockAt (s : State) (ot : Nat) : State := s.modPwr (fun p => { p with ot := ot })

theorem blockDue_taken {s : State} {ot : Nat} (hl : s.alive = true) (hp : s.pwr.pf = .none) (ho : s.pwr.ot ≤ ot) : s.blockDue ot = (blockAt s ot).writeBlock false :=
  if_pos ⟨hl, hp, ho⟩

theorem blockDue_ignored {s : State} {ot : Nat} (h : s.alive = false ∨ s.pwr.pf ≠ .none ∨ ot < s.pwr.ot) : s.blockDue ot = s := by
  refine if_neg ?_
  rintro ⟨hl, hp, ho⟩
  rcases h with h | h | h
  · simp [h] at hl
  · exact h hp
  · omega

/-- Settles O52: each reset by the condition that lets it act (log entries 95, 96, 128), what it leaves by the one rule of a reset (`was_resetO2`, `resetTo_cold`), the host reset over its flush, the restart over the jobs it ends, the counter block by whether MRAM works; where the condition fails nothing changes (log entry 1). -/
theorem resets : Obligations.Resets := by
  refine ⟨fun s => ⟨fun h => congrArg Host.Outcome.next (resetLow_ignored h), fun ho hh hc => congrArg Host.Outcome.next (resetLow_waits ho hh (committing_iff.2 hc)), fun ho hh hc => ⟨_, congrArg Host.Outcome.next (resetLow_resets ho hh (not_committing hc)), ?resetN⟩⟩,
    fun s => rfl,
    fun r s => ⟨fun h => congrArg Host.Outcome.next (railFault_ignored h), fun ho hr => ⟨_, congrArg Host.Outcome.next (hr ▸ railFault_alwaysOn ho), resetTo_cold s .boot 0 15⟩,
      fun ho h1 h9 hd => congrArg Host.Outcome.next (railFault_dark ho h1 h9 hd), fun ho h1 h9 hd hh => ⟨_, congrArg Host.Outcome.next (railFault_resets ho h1 h9 hd hh), ?rail⟩⟩,
    fun cls s hw => ⟨fun h => congrArg Host.Outcome.next ?refused, fun h => congrArg Host.Outcome.next ?asked⟩,
    fun s => ⟨fun h => congrArg Host.Outcome.next (hostResetEffect_ignored ?notDue), fun hr hl hp => ⟨_, congrArg Host.Outcome.next (hostResetEffect_resets hr hl (not_committing hp)), hostFlushed s, hostFlushed_same s, fun _ hm => hostFlushed_newest hm, hostFlushed_ot s, was_resetO2 _ 3 15⟩⟩,
    fun s => ⟨fun h => congrArg Host.Outcome.next (if_neg (by simp [h])), fun h => ⟨_, congrArg Host.Outcome.next (hcRestart_taken h), ?same, ?out, ?next, ?pwr, ?written⟩⟩,
    fun ot s => ⟨fun h => congrArg Host.Outcome.next (blockDue_ignored h), fun hl hp ho => ⟨_, congrArg Host.Outcome.next (blockDue_taken hl hp ho), ?blockSame, (Dormant.writeBlock_pwr (blockAt s ot) false).1, fun hm => ?lost, fun hm => ?kept⟩⟩⟩
  case resetN =>
    obtain ⟨hwas, hstep, hfrom⟩ := was_reset s 1 15
    exact ⟨held_reset hwas, rfl, hstep, hfrom⟩
  case rail =>
    obtain ⟨hwas, hstep, -⟩ := was_reset s 2 r
    exact ⟨hwas, hstep⟩
  case refused => rw [write_pwrCtl hw, writePwrCtl_refused h]
  case asked => rw [write_pwrCtl hw, writePwrCtl_taken h]
  case notDue =>
    rintro ⟨hr, hl, hc⟩
    rcases h with h | h | h
    · simp [h] at hr
    · simp [h] at hl
    · simp [committing_iff.2 h] at hc
  case same => exact sameTransO2 (restarted_same s) (sameUpO2 (stageO2 _ _ _ _) (by decide))
  case out => rw [stage_job, (restarted_spec s).1, (abandonJobs_job s).1]
  case next => rw [stage_job, (restarted_spec s).1, (abandonJobs_job s).2]
  case pwr => rw [stage_pwr, (restarted_spec s).2.1]
  case written => rw [stage_cap_written, (restarted_spec s).2.2]
  case blockSame => exact sameTransO2 (sameAnyO2 _ s _ (by decide)) (Dormant.writeBlock_keeps (blockAt s ot) false)
  case lost => exact congrArg State.pwr (if_pos hm)
  case kept => exact congrArg State.pwr (Dormant.writeBlock_written (s := blockAt s ot) false hm)

end Sys2Proof.Proofs.Resets
end

section
/-! ### Feeds, the power-fail commit and the hold-up capacitor (R363, R364, R436-R440, R443, R444, R453) -/

namespace Sys2Proof.Proofs.FeedsAndPowerFail

open Sys2Proof Sys2Proof.Machine Sys2Proof.Facts.PowerRules

theorem not_dark {s : State} (hoff : s.sys.st ≠ .off) (hd : s.sys.st ≠ .dormant) (hh : s.pwr.held = false) : ¬ s.dark = true := by
  simp [darkO2, hoff, hd, hh]

/-! #### A feed out of range (R363, R364) -/

/-- The feed judged out of range. -/
def feedFallen (s : State) (f mv : Nat) : State := s.modPwr (fun p => { p with
  feedOk := p.feedOk.set f false, feedHigh := p.feedHigh.set f (decide (40500 < mv)), feedSup := p.feedSup.set f (decide (5500 ≤ mv) && !decide (40500 < mv)), feedWasOut := p.feedWasOut.set f true })

/-- The judgement recorded. -/
def feedTold (s : State) (f mv : Nat) : State := (feedFallen s f mv).stage 0x0110 1 (b1 f ++ b2 mv)

theorem feedOut_ignored {s : State} {f mv : Nat} (h : s.sys.st = .off ∨ 2 ≤ f ∨ (nth s.pwr.feedOk f = false ∧ nth s.pwr.feedWasOut f = true) ∨ (5900 ≤ mv ∧ mv ≤ 40500)) : s.feedOut f mv = s :=
  if_pos h

section
variable {s : State} {f mv : Nat} (hoff : s.sys.st ≠ .off) (hf : f < 2) (hj : nth s.pwr.feedOk f = true ∨ nth s.pwr.feedWasOut f = false) (hmv : mv < 5900 ∨ 40500 < mv)
include hoff hf hj hmv

theorem feedOut_judged : ¬(s.sys.st = .off ∨ 2 ≤ f ∨ (nth s.pwr.feedOk f = false ∧ nth s.pwr.feedWasOut f = true) ∨ (5900 ≤ mv ∧ mv ≤ 40500)) := by
  rintro (h | h | ⟨hok, hout⟩ | h)
  · exact hoff h
  · omega
  · simp [hok, hout] at hj
  · omega

theorem feedOut_dark (hd : s.sys.st = .dormant ∨ s.pwr.held = true) : s.feedOut f mv = feedFallen s f mv :=
  (if_neg (feedOut_judged hoff hf hj hmv)).trans (if_pos ((darkO2 (feedFallen s f mv)).2 (.inr hd)))

theorem feedOut_lit (hd : s.sys.st ≠ .dormant) (hh : s.pwr.held = false) :
    s.feedOut f mv = if (feedTold s f mv).feedsOut = true ∧ (feedTold s f mv).pwr.pf = .none then (feedTold s f mv).found 6 else feedTold s f mv :=
  (if_neg (feedOut_judged hoff hf hj hmv)).trans (if_neg (not_dark (s := feedFallen s f mv) hoff hd hh))

end

theorem feedTold_same (s : State) (f mv : Nat) : SameBut [.irq, .ring, .trip, .pwr] s (feedTold s f mv) :=
  sameTransO2 (sameAnyO2 _ s _ (by decide)) (sameUpO2 (stageO2 _ _ _ _) (by decide))

theorem feedTold_pwr (s : State) (f mv : Nat) : (feedTold s f mv).pwr = (feedFallen s f mv).pwr := stage_pwr ..

theorem feedsOut_iff (s : State) : s.feedsOut = true ↔ ∀ k, k < 2 → nth s.pwr.feedWasOut k = true ∧ nth s.pwr.feedOk k = false := by
  simp [State.feedsOut]

/-- FAILSAFE cause 6 stands while both feeds are out. -/
theorem found_spec (s : State) (f mv : Nat) : SameBut [.causes, .irq, .ring, .trip, .fio, .hng, .pwr] s ((feedTold s f mv).found 6) ∧ 6 ∈ ((feedTold s f mv).found 6).sys.causes ∧
    ((feedTold s f mv).found 6).pwr = (feedFallen s f mv).pwr := by
  obtain ⟨hsame, hcause⟩ := foundO2 (feedTold s f mv)
  have hpwr : ((feedTold s f mv).found 6).pwr = (feedTold s f mv).pwr := hsame.2 .pwr (by decide)
  exact ⟨sameTransO2 (sameUpO2 (feedTold_same s f mv) (by decide)) (sameUpO2 hsame (by decide)), hcause, hpwr.trans (feedTold_pwr s f mv)⟩

/-! #### A feed in range (R363, R364, R443) -/

/-- The feed judged in range. -/
def feedRisen (s : State) (f : Nat) : State := s.modPwr (fun p => { p with
  feedOk := p.feedOk.set f true, feedHigh := p.feedHigh.set f false, feedSup := p.feedSup.set f true, feedWasOut := p.feedWasOut.set f (nth s.pwr.feedWasOut f && s.dark) })

/-- The end of a judgement recorded, where there was one. -/
def risenTold (b : Bool) (f : Nat) (u : State) : State := if b then u.stage 0x0111 0 (b1 f) else u

theorem feedIn_ignored {s : State} {f mv : Nat} (h : s.sys.st = .off ∨ 2 ≤ f ∨ nth s.pwr.feedOk f = true ∨ mv < 6100 ∨ 39500 < mv) : s.feedIn f mv = s := if_pos h

section
variable {s : State} {f mv : Nat} (hoff : s.sys.st ≠ .off) (hf : f < 2) (hj : nth s.pwr.feedOk f = false) (hlo : 6100 ≤ mv) (hhi : mv ≤ 39500)
include hoff hf hj hlo hhi

theorem feedIn_judged : ¬(s.sys.st = .off ∨ 2 ≤ f ∨ nth s.pwr.feedOk f = true ∨ mv < 6100 ∨ 39500 < mv) := by
  rintro (h | h | h | h | h)
  · exact hoff h
  · omega
  · simp [hj] at h
  · omega
  · omega

theorem feedIn_dark (hd : s.sys.st = .dormant ∨ s.pwr.held = true) : s.feedIn f mv = (feedRisen s f).modPwr (fun p => { p with pf := .none }) :=
  (if_neg (feedIn_judged hoff hf hj hlo hhi)).trans (if_pos ((darkO2 s).2 (.inr hd)))

theorem feedIn_lit (hd : s.sys.st ≠ .dormant) (hh : s.pwr.held = false) :
    s.feedIn f mv = risenTold (nth s.pwr.feedWasOut f) f (if s.pwr.pf = .none then (feedRisen s f).dropCause 6 else ((feedRisen s f).dropCause 6).powerBack) :=
  (if_neg (feedIn_judged hoff hf hj hlo hhi)).trans (if_neg (not_dark hoff hd hh))

end

theorem risenTold_spec (b : Bool) (f : Nat) (u : State) : SameBut [.irq, .ring, .trip] u (risenTold b f u) ∧ (risenTold b f u).ldg.closed = u.ldg.closed := by
  cases b with
  | true => exact ⟨stageO2 u 0x0111 0 (b1 f), (stage_closed u 0x0111 0 (b1 f)).1⟩
  | false => exact ⟨(Keeps.refl [.irq, .ring, .trip] u).1, rfl⟩

/-- A feed back in range without its cause of FAILSAFE. -/
def feedCleared (s : State) (f : Nat) : State := (feedRisen s f).dropCause 6

theorem feedCleared_spec (s : State) (f : Nat) : SameBut [.causes, .pwr] s (feedCleared s f) ∧ (feedCleared s f).pwr = (feedRisen s f).pwr ∧ (feedCleared s f).sys.causes = s.sys.causes.filter (fun x => x ≠ 6) := by
  rw [feedCleared, dropO2]
  exact ⟨sameTransO2 (sameAnyO2 _ s (feedRisen s f).pwr (by decide)) (sameUpO2 (causesO2 _ _) (by decide)), rfl, rfl⟩

/-- The state once the commit is over and the ring takes entries again. -/
def resumed (u : State) : State := (u.modPwr (fun p => { p with pf := .none, charging := true, restored := true, resetWaits := false })).reopenRing

theorem powerBack_resumed {s : State} (h : s.completeCommit.pwr.resetWaits = false) : s.powerBack = resumed s.completeCommit := if_neg (by simp [h])

theorem resumed_spec (u : State) : SameBut [.irq, .ring, .trip, .pwr] u (resumed u) ∧ (resumed u).pwr = { u.pwr with pf := .none, charging := true, restored := true, resetWaits := false } ∧ (resumed u).ldg.closed = false := by
  obtain ⟨hsame, hclosed⟩ := reopenO2 (u.modPwr (fun p => { p with pf := .none, charging := true, restored := true, resetWaits := false }))
  exact ⟨sameTransO2 (sameAnyO2 _ u _ (by decide)) (sameUpO2 hsame (by decide)), hsame.2 .pwr (by decide), hclosed⟩

theorem completeCommit_done {s : State} (h : s.pwr.pf = .committed) : s.completeCommit = s := by
  simp [State.completeCommit, h]

theorem completeCommit_commits {s : State} (h : s.pwr.pf = .committing) (hc : s.clk.level ≠ 2 ∨ s.clk.ircOk = true) : s.completeCommit = s.writeBlock true := by
  have hclk : ¬(s.clk.level = 2 ∧ s.clk.ircOk = false) := by
    rintro ⟨hl, hi⟩
    simp [hl, hi] at hc
  simp [State.completeCommit, h, hclk]

/-! #### The declaration (R438, R451) -/

/-- The power fail declared, before what it abandons. -/
def declared (s : State) (mv : Nat) : State :=
  let u := s.modPwr (fun p => { p with
    pf := .flushing, holdMv := mv % 65536, charging := false, feedSup := [false, false], bootStep := if s.sys.shutting then 14 else p.bootStep, wakeAfter := false })
  ({ u with sys := { u.sys with shutting := false } } : State).setNme 2

/-- Self-tests, jobs and captures dropped. -/
def abandoned (u : State) : State := u.testsLost.abandonJobs.dropCaptures

theorem powerFail_ignored {s : State} {mv : Nat} (h : s.sys.st = .off ∨ s.pwr.pf ≠ .none) : s.powerFail mv = s := if_pos h

section
variable {s : State} {mv : Nat} (hoff : s.sys.st ≠ .off) (hp : s.pwr.pf = .none)
include hoff hp

theorem powerFail_dark (hd : s.sys.st = .dormant ∨ s.pwr.held = true) : s.powerFail mv = { s with pwr := { s.pwr with pf := .committed, feedSup := [false, false] } } :=
  (if_neg (not_or.2 ⟨hoff, not_not_intro hp⟩)).trans (if_pos ((darkO2 s).2 (.inr hd)))

theorem powerFail_declared (hd : s.sys.st ≠ .dormant) (hh : s.pwr.held = false) : s.powerFail mv = (abandoned (declared s mv)).closeRing.writeLatches.voidCal :=
  (if_neg (not_or.2 ⟨hoff, not_not_intro hp⟩)).trans (if_neg (not_dark hoff hd hh))

end

theorem abandoned_keeps (u : State) : Keeps [.causes, .irq, .job, .ring, .cap, .trip, .dm, .afe, .flt, .pe, .sch, .mram] u (abandoned u) :=
  keeps_dropCaptures rfl (keeps_abandonJobs rfl (keeps_testsLost rfl (Keeps.refl _ u)))

theorem abandoned_spec (u : State) : (abandoned u).job.out = [] ∧ (abandoned u).cap.waiting = [] ∧ (abandoned u).cap.writing = false := ⟨rfl, rfl, rfl⟩

theorem closed_keeps (u : State) : Keeps [.nv, .afe] u.closeRing u.closeRing.writeLatches.voidCal := keeps_voidCal rfl (keeps_writeLatches rfl (Keeps.refl _ _))

/-! #### The flush and the block (R275, R439, R440, R453) -/

/-- The ring counted as lost, before the record of the loss. -/
def flushCounted (s : State) : State := { s with ldg := { s.ldg with
  ring := [], pfLost := s.ldg.pfLost + s.ldg.ring.length, lostLow := satAdd 65535 s.ldg.lostLow (countIf s.ldg.ring (fun e => e.sev < 2)), lostHigh := satAdd 65535 s.ldg.lostHigh (countIf s.ldg.ring (fun e => 2 ≤ e.sev)) } }

/-- The record of the loss. -/
def flushEntry (s : State) : Entry := s.entryOf false 0x0140 2 0 (b4 s.ldg.pfLost ++ b2 s.pwr.holdMv ++ zeros 2)

theorem flushEnd_eq (s : State) : s.flushEnd = ((flushCounted s).writeRecord (flushEntry (flushCounted s)) true).setIrq (Config.blockOf 0x0140) := rfl

theorem flushEnd_ring (s : State) : (s.ldg.closed = true → s.flushEnd.ldg.ring = []) ∧ s.ldg.pfLost + s.ldg.ring.length ≤ s.flushEnd.ldg.pfLost := by
  rw [flushEnd_eq]
  exact recordO2 (flushCounted s) _ true

theorem flushEnd_same (s : State) : SameBut [.irq, .ring, .ledger, .trip, .dm, .mram] s s.flushEnd := (keeps_flushEnd (K := [.irq, .ring, .ledger, .trip, .dm, .mram]) rfl (Keeps.refl _ s)).1

theorem flushOver_taken {s : State} (hp : s.pwr.pf = .flushing) (hc : s.clk.level ≠ 2 ∨ s.clk.ircOk = true) : s.flushOver = s.flushEnd.modPwr (fun p => { p with pf := .committing }) :=
  if_pos ⟨hp, (clockO2 s).2 hc⟩

theorem no_clock {s : State} (h : s.clk.level = 2 ∧ s.clk.ircOk = false) : ¬ s.commitClock = true := by
  rw [clockO2]
  simp [h]

theorem flushOver_ignored {s : State} (h : s.pwr.pf ≠ .flushing ∨ (s.clk.level = 2 ∧ s.clk.ircOk = false)) : s.flushOver = s :=
  if_neg fun ⟨hp, hc⟩ => h.elim (fun k => k hp) (fun k => no_clock k hc)

theorem commitDone_ignored {s : State} (h : s.pwr.pf ≠ .committing ∨ (s.clk.level = 2 ∧ s.clk.ircOk = false)) : s.commitDone = s :=
  if_neg fun ⟨hp, hc⟩ => h.elim (fun k => k hp) (fun k => no_clock k hc)

/-- The commit done. -/
def committed (s : State) : State := (s.writeBlock true).modPwr (fun p => { p with pf := .committed, resetWaits := false })

theorem commitDone_taken {s : State} (hp : s.pwr.pf = .committing) (hc : s.clk.level ≠ 2 ∨ s.clk.ircOk = true) :
    s.commitDone = if s.pwr.resetWaits then ((committed s).resetFor 1 15).modPwr (fun p => { p with held := true }) else committed s :=
  if_pos ⟨hp, (clockO2 s).2 hc⟩

/-! #### HOLD (R436, R437, R444) -/

theorem holdSpent_ignored {s : State} {mv : Nat} (h : s.sys.st = .off ∨ s.pwr.pf = .none ∨ 5000 ≤ mv) : s.holdSpent mv = s := by
  refine if_neg ?_
  rintro ⟨ho, hp, hm⟩
  rcases h with h | h | h
  · exact ho h
  · exact hp h
  · omega

/-- HOLD charged after `d` tenths of a millisecond. -/
def charged (s : State) (d : Nat) : State := s.modPwr (fun p => { p with holdReady := true, capUf := min 65535 (divRound (2 * d) 5), tCharge := min 65535 d, holdSmall := decide (divRound (2 * d) 5 < 198) })

theorem divRound_capacity (d : Nat) : divRound (2 * d) 5 = (4 * d + 5) / 10 := by
  unfold divRound
  omega

theorem charged_pwr (s : State) (d : Nat) : (charged s d).pwr = { s.pwr with holdReady := true, capUf := min 65535 ((4 * d + 5) / 10), tCharge := min 65535 d, holdSmall := decide ((4 * d + 5) / 10 < 198) } := by
  rw [← divRound_capacity]
  rfl

theorem holdReadySet_taken {s : State} {d : Nat} (hc : s.pwr.charging = true) (hr : s.pwr.holdReady = false) (hl : s.alive = true) :
    s.holdReadySet d = if divRound (2 * d) 5 < 198 then (charged s d).stage 0x0143 2 [] else charged s d :=
  if_pos ⟨hc, hr, hl⟩

theorem holdReadySet_ignored {s : State} {d : Nat} (h : s.pwr.charging = false ∨ s.pwr.holdReady = true ∨ s.alive = false) : s.holdReadySet d = s := by
  refine if_neg ?_
  rintro ⟨hc, hr, hl⟩
  rcases h with h | h | h
  · simp [h] at hc
  · simp [h] at hr
  · simp [h] at hl

theorem holdReadySet_spec {s : State} {d : Nat} (hc : s.pwr.charging = true) (hr : s.pwr.holdReady = false) (hl : s.alive = true) :
    SameBut [.irq, .ring, .trip, .pwr] s (s.holdReadySet d) ∧ (s.holdReadySet d).pwr = (charged s d).pwr := by
  have hsame : SameBut [.irq, .ring, .trip, .pwr] s (charged s d) := sameAnyO2 _ s _ (by decide)
  rw [holdReadySet_taken hc hr hl]
  split
  · exact ⟨sameTransO2 hsame (sameUpO2 (stageO2 _ _ _ _) (by decide)), stage_pwr ..⟩
  · exact ⟨hsame, rfl⟩

theorem holdFaultSet_ignored {s : State} {k : HoldJudge} (h : s.alive = false ∨ s.pwr.pf ≠ .none ∨ s.holdBad k = false) : s.holdFaultSet k = s := by
  refine if_neg ?_
  rintro ⟨hl, hp, hb⟩
  rcases h with h | h | h
  · simp [h] at hl
  · exact h hp
  · simp [h] at hb

theorem holdFaultSet_taken {s : State} {k : HoldJudge} (hl : s.alive = true) (hp : s.pwr.pf = .none) (hb : s.holdBad k = true) :
    s.holdFaultSet k = (s.modPwr (fun p => { p with holdFault := true })).stage 0x0143 2 [] := if_pos ⟨hl, hp, hb⟩

/-! #### What each command leaves -/

section
variable {s : State} {f mv : Nat} (hoff : s.sys.st ≠ .off) (hd : s.sys.st ≠ .dormant) (hh : s.pwr.held = false) (hf : f < 2)
include hoff hd hh hf

/-- A feed out of range of a module that runs. -/
theorem feedOut_spec (hj : nth s.pwr.feedOk f = true ∨ nth s.pwr.feedWasOut f = false) (hmv : mv < 5900 ∨ 40500 < mv) :
    let both := ∀ k, k < 2 → nth (feedFallen s f mv).pwr.feedWasOut k = true ∧ nth (feedFallen s f mv).pwr.feedOk k = false
    (s.feedOut f mv).pwr = (feedFallen s f mv).pwr ∧ (s.feedOut f mv).sys.st = s.sys.st ∧ (¬ both ∨ s.pwr.pf ≠ .none → SameBut [.irq, .ring, .trip, .pwr] s (s.feedOut f mv)) ∧
      (both → s.pwr.pf = .none → 6 ∈ (s.feedOut f mv).sys.causes ∧ SameBut [.causes, .irq, .ring, .trip, .fio, .hng, .pwr] s (s.feedOut f mv)) := by
  intro both
  have hfeeds : (feedTold s f mv).feedsOut = true ↔ both := by rw [feedsOut_iff, feedTold_pwr]
  have hpf : (feedTold s f mv).pwr.pf = s.pwr.pf := by rw [feedTold_pwr]; rfl
  rw [feedOut_lit hoff hf hj hmv hd hh]
  by_cases h : both ∧ s.pwr.pf = .none
  · obtain ⟨hsame, hcause, hpwr⟩ := found_spec s f mv
    rw [if_pos ⟨hfeeds.2 h.1, hpf.trans h.2⟩]
    exact ⟨hpwr, (hsame.2 .st (by decide)).1, fun hn => hn.elim (absurd h.1) (absurd h.2), fun _ _ => ⟨hcause, hsame⟩⟩
  · have hsame := feedTold_same s f mv
    rw [if_neg fun hn => h ⟨hfeeds.1 hn.1, hpf.symm.trans hn.2⟩]
    exact ⟨feedTold_pwr s f mv, (hsame.2 .st (by decide)).1, fun _ => hsame, fun h1 h2 => absurd ⟨h1, h2⟩ h⟩

variable (hj : nth s.pwr.feedOk f = false) (hlo : 6100 ≤ mv) (hhi : mv ≤ 39500)
include hj hlo hhi

theorem feedIn_running (hp : s.pwr.pf = .none) : SameBut [.causes, .irq, .ring, .trip, .pwr] s (s.feedIn f mv) ∧ (s.feedIn f mv).pwr = (feedRisen s f).pwr ∧
    (s.feedIn f mv).sys.causes = s.sys.causes.filter (fun x => x ≠ 6) := by
  obtain ⟨hcleared, hpwr, hcauses⟩ := feedCleared_spec s f
  obtain ⟨htold, -⟩ := risenTold_spec (nth s.pwr.feedWasOut f) f (feedCleared s f)
  rw [feedIn_lit hoff hf hj hlo hhi hd hh, if_pos hp]
  exact ⟨sameTransO2 (sameUpO2 hcleared (by decide)) (sameUpO2 htold (by decide)), (htold.2 .pwr (by decide)).trans hpwr, (htold.2 .causes (by decide)).trans hcauses⟩

/-- A feed back before HOLD is spent: `u` is the module with its commit completed. -/
theorem feedIn_restored {u : State} (hp : s.pwr.pf ≠ .none) (hu : (feedCleared s f).completeCommit = u) (hsame : SameBut [.pwr] (feedCleared s f) u) (hw : u.pwr.resetWaits = false) :
    SameBut [.causes, .irq, .ring, .trip, .pwr] s (s.feedIn f mv) ∧ (s.feedIn f mv).pwr = { u.pwr with pf := .none, charging := true, restored := true, resetWaits := false } ∧
      (s.feedIn f mv).sys.causes = s.sys.causes.filter (fun x => x ≠ 6) ∧ (s.feedIn f mv).ldg.closed = false := by
  obtain ⟨hcleared, -, hcauses⟩ := feedCleared_spec s f
  obtain ⟨hback, hpwr, hclosed⟩ := resumed_spec u
  obtain ⟨htold, hring⟩ := risenTold_spec (nth s.pwr.feedWasOut f) f (resumed u)
  have hall : SameBut [.irq, .ring, .trip, .pwr] (feedCleared s f) (risenTold (nth s.pwr.feedWasOut f) f (resumed u)) :=
    sameTransO2 (sameUpO2 hsame (by decide)) (sameTransO2 hback (sameUpO2 htold (by decide)))
  have hexec : s.feedIn f mv = risenTold (nth s.pwr.feedWasOut f) f (resumed u) := by
    rw [feedIn_lit hoff hf hj hlo hhi hd hh, if_neg hp, ← feedCleared, powerBack_resumed (hu ▸ hw), hu]
  rw [hexec]
  exact ⟨sameTransO2 (sameUpO2 hcleared (by decide)) (sameUpO2 hall (by decide)), (htold.2 .pwr (by decide)).trans hpwr, (hall.2 .causes (by decide)).trans hcauses, hring.trans hclosed⟩

end

theorem powerFail_spec {s : State} {mv : Nat} (hoff : s.sys.st ≠ .off) (hd : s.sys.st ≠ .dormant) (hh : s.pwr.held = false) (hp : s.pwr.pf = .none) :
    let t := s.powerFail mv
    t.pwr = (declared s mv).pwr ∧ t.sys.nme = setBit s.sys.nme 2 ∧ t.sys.st = s.sys.st ∧ t.sys.shutting = false ∧
      t.job.out = [] ∧ t.cap.waiting = [] ∧ t.cap.writing = false ∧ t.ldg.closed = true ∧ t.fio = s.fio ∧ t.fst = s.fst ∧ t.chn = s.chn ∧ t.svc = s.svc := by
  intro t
  have ht : t = (abandoned (declared s mv)).closeRing.writeLatches.voidCal := powerFail_declared hoff hp hd hh
  have hall : Keeps [.causes, .irq, .job, .ring, .cap, .trip, .dm, .nv, .afe, .flt, .pe, .sch, .mram] (declared s mv) t :=
    ht ▸ keeps_voidCal rfl (keeps_writeLatches rfl (keeps_closeRing rfl (Facts.HostPort.keeps_mono (abandoned_keeps (declared s mv)) rfl)))
  have hlast : Keeps [.nv, .afe] (abandoned (declared s mv)).closeRing t := ht ▸ closed_keeps _
  obtain ⟨hst, -, -, -, hshut, -⟩ := hall.same (p := .st) (by decide)
  obtain ⟨hout, hwaiting, hwriting⟩ := abandoned_spec (declared s mv)
  obtain ⟨-, -, hwaiting', hwriting', -⟩ := hlast.same (p := .cap) (by decide)
  obtain ⟨-, -, -, -, -, hclosed, -⟩ := hlast.same (p := .ring) (by decide)
  exact ⟨hall.same (p := .pwr) (by decide), hall.same (p := .nme) (by decide), hst, hshut, (congrArg Jobs.out (hlast.same (p := .job) (by decide))).trans hout, hwaiting'.trans hwaiting, hwriting'.trans hwriting, hclosed,
    hall.same (p := .fio) (by decide), hall.same (p := .fst) (by decide), hall.same (p := .chn) (by decide), hall.same (p := .svc) (by decide)⟩

theorem committed_spec (s : State) : SameBut [.pwr] s (committed s) ∧ (committed s).pwr.pf = .committed ∧ (committed s).pwr.resetWaits = false ∧ (committed s).pwr.ot = s.pwr.ot ∧
    (s.dm.mramFail = false → (committed s).pwr.newest = 1 - s.pwr.newest ∧ ∃ b : CounterBlock, b.pf = true ∧ b.ot = s.pwr.ot ∧ (committed s).pwr.blocks = s.pwr.blocks.set (1 - s.pwr.newest) (some b)) := by
  obtain ⟨hsame, -, hblock⟩ := blockO2 s
  exact ⟨sameTransO2 hsame (sameAnyO2 _ _ _ (by decide)), rfl, rfl, (Dormant.writeBlock_pwr s true).1, hblock⟩

theorem holdBad_iff {s : State} (hc : s.pwr.charging = true) (mv ms : Nat) : (s.holdBad (.short mv ms) = true ↔ s.pwr.holdReady = false ∧ mv < 1000 ∧ 10 ≤ ms) ∧
    (s.holdBad (.openCap mv ms) = true ↔ s.pwr.holdReady = false ∧ mv < 16000 ∧ 500 ≤ ms) ∧ (s.holdBad (.leakage mv ms) = true ↔ s.pwr.holdReady = true ∧ mv < 15000 ∧ 1 ≤ ms) := by
  simp [State.holdBad, hc]

/-- Settles O53: a feed by its judgement and, while it comes back, by the commit that it completes (log entries 85, 86), the declaration by what it abandons and closes, flush and commit by the clock they run on (log entry 94), HOLD by its rules; where the condition fails nothing changes (log entry 1). -/
theorem feedsAndPowerFail : Obligations.FeedsAndPowerFail := by
  refine ⟨fun f mv s => ⟨fun h => congrArg Host.Outcome.next (feedOut_ignored h), fun ho hf hj hmv => ⟨fun hd => congrArg Host.Outcome.next (feedOut_dark ho hf hj hmv hd), fun hd hh => ⟨_, rfl, feedOut_spec ho hd hh hf hj hmv⟩⟩⟩,
    fun f mv s => ⟨fun h => congrArg Host.Outcome.next (feedIn_ignored h), fun ho hf hj hlo hhi => ⟨fun hd => congrArg Host.Outcome.next (feedIn_dark ho hf hj hlo hhi hd),
      fun hd hh hp => ⟨_, rfl, feedIn_running ho hd hh hf hj hlo hhi hp⟩, fun hd hh hp hw => ⟨_, rfl, ?committedBack⟩, fun hd hh hp hw hc hm => ⟨_, rfl, ?committingBack⟩⟩⟩,
    fun mv s => ⟨fun h => congrArg Host.Outcome.next (powerFail_ignored h), fun hd ho hp => congrArg Host.Outcome.next (powerFail_dark ho hp hd), fun ho hd hh hp => ⟨_, rfl, ?declared⟩⟩,
    fun s => ⟨fun h => congrArg Host.Outcome.next (flushOver_ignored h), fun hp hc => ⟨_, congrArg Host.Outcome.next (flushOver_taken hp hc), ?flush⟩⟩,
    fun s => ⟨fun h => congrArg Host.Outcome.next (commitDone_ignored h), fun hp hc => ⟨_, congrArg Host.Outcome.next (commitDone_taken hp hc), ?commit⟩⟩,
    fun mv s => ⟨fun h => congrArg Host.Outcome.next (holdSpent_ignored h), fun ho hp hm => ⟨_, congrArg Host.Outcome.next (if_pos ⟨ho, hp, hm⟩), ?spent⟩⟩,
    fun d s => ⟨fun h => congrArg Host.Outcome.next (holdReadySet_ignored h), fun hc hr hl => ⟨_, rfl, ?ready⟩⟩,
    fun k s => ⟨fun hl hp hb => ⟨_, congrArg Host.Outcome.next (holdFaultSet_taken hl hp hb), ?fault, stage_pwr ..⟩, fun h => congrArg Host.Outcome.next (holdFaultSet_ignored h)⟩,
    fun mv ms s hc => holdBad_iff hc mv ms⟩
  case committedBack =>
    obtain ⟨-, hpwr, -⟩ := feedCleared_spec s f
    have hpf : (feedCleared s f).pwr.pf = .committed := (congrArg Power.pf hpwr).trans hp
    have hwaits : (feedCleared s f).pwr.resetWaits = false := (congrArg Power.resetWaits hpwr).trans hw
    obtain ⟨hall, hpwr', hcauses, hclosed⟩ := feedIn_restored ho hd hh hf hj hlo hhi (by simp [hp]) (completeCommit_done hpf) (Keeps.refl [.pwr] _).1 hwaits
    exact ⟨hall, hpwr'.trans (by rw [hpwr]; rfl), hcauses, hclosed⟩
  case committingBack =>
    obtain ⟨hsame, hpwr, -⟩ := feedCleared_spec s f
    have hclk : (feedCleared s f).clk = s.clk := hsame.2 .clk (by decide)
    have hdm : (feedCleared s f).dm = s.dm := hsame.2 .dm (by decide)
    have hdone := completeCommit_commits ((congrArg Power.pf hpwr).trans hp) (hclk ▸ hc)
    obtain ⟨hblock, hblockPwr, hwritten⟩ := blockO2 (feedCleared s f)
    have hwaits : ((feedCleared s f).writeBlock true).pwr.resetWaits = false := by rw [hblockPwr, hpwr]; exact hw
    obtain ⟨hnewest, b, hbpf, hbot, hblocks⟩ := hwritten (hdm ▸ hm)
    rw [hpwr] at hnewest hbot hblocks
    obtain ⟨hall, hpwr', -, hclosed⟩ := feedIn_restored ho hd hh hf hj hlo hhi (by simp [hp]) hdone hblock hwaits
    rw [hpwr']
    exact ⟨hall, rfl, rfl, rfl, hnewest, ⟨b, hbpf, hbot, hblocks⟩, hclosed⟩
  case declared =>
    obtain ⟨hpwr, hrest⟩ := powerFail_spec (mv := mv) ho hd hh hp
    exact ⟨congrArg Power.pf hpwr, congrArg Power.holdMv hpwr, congrArg Power.charging hpwr, congrArg Power.feedSup hpwr, hrest⟩
  case flush =>
    have hsame := flushEnd_same s
    have hpwr : s.flushEnd.pwr = s.pwr := hsame.2 .pwr (by decide)
    exact ⟨sameTransO2 (sameUpO2 hsame (by decide)) (sameAnyO2 _ _ _ (by decide)), congrArg (fun p : Power => { p with pf := .committing }) hpwr, flushEnd_ring s⟩
  case commit =>
    obtain ⟨hsame, hpf, hwaits, hot, hblock⟩ := committed_spec s
    refine ⟨committed s, hsame, hpf, hwaits, hot, hblock, fun hw => if_neg (by simp [hw]), fun hw => ?_⟩
    rw [if_pos hw]
    exact ⟨held_reset (was_resetO2 (committed s) 1 15), rfl⟩
  case spent =>
    obtain ⟨hst, hpwr, hclk, hregs, hhost, hjob, hfirst, hcirc, hovr, hmap, hmram⟩ := Resets.resetTo_cold s .off 0 15
    exact ⟨hst, hpwr, hclk, hhost, hjob, hregs, hovr, hcirc, hfirst, hmap, hmram⟩
  case ready =>
    obtain ⟨hsame, hpwr⟩ := holdReadySet_spec (d := d) hc hr hl
    exact ⟨hsame, hpwr.trans (charged_pwr s d)⟩
  case fault => exact sameTransO2 (sameAnyO2 _ s _ (by decide)) (sameUpO2 (stageO2 _ _ _ _) (by decide))

end Sys2Proof.Proofs.FeedsAndPowerFail
end

section
/-! ### Self-repair of memory rows (R458, R463, R464) -/

namespace Sys2Proof.Proofs.RepairRows

open Sys2Proof Sys2Proof.Machine Sys2Proof.Facts.RepairRules

/-! #### MRAM around a write of three pieces (R458) -/

theorem memReadBytes_add (m : List Host.Cell) (x a b : Nat) : memReadBytes m x (a + b) = memReadBytes m x a ++ memReadBytes m (x + a) b := by
  induction a generalizing x with
  | zero => simp [memReadBytes]
  | succ a ih =>
    rw [Nat.succ_add, memReadBytes, memReadBytes, ih, Nat.succ_add_eq_add_succ]
    rfl

theorem length_memReadBytes (m : List Host.Cell) (x n : Nat) : (memReadBytes m x n).length = n := by
  induction n generalizing x with
  | zero => rfl
  | succ n ih => rw [memReadBytes, List.length_cons, ih]

/-- What was written in one piece is read back in two. -/
theorem memReadBytes_append (a b : List Byte) (m : List Host.Cell) (x : Nat) (hw : Memory.wf m = true) (hl : x + (a ++ b).length ≤ mramSize) :
    memReadBytes (memWriteBytes m x (a ++ b)) x a.length = a ∧ memReadBytes (memWriteBytes m x (a ++ b)) (x + a.length) b.length = b := by
  have hself := memReadBytes_self (a ++ b) m x hw hl
  rw [List.length_append, memReadBytes_add] at hself
  exact List.append_inj hself (length_memReadBytes ..)

/-! #### The defect map (R458) -/

/-- The bytes of the copy between its hallmark and its CRC. -/
def mapBytes (s : State) (u : Nat) : List Byte := mapBody u s.pwr.pcc (s.pwr.ot + s.otQual false * 2 ^ 56) s.dm.map

/-- A copy as it is written: the hallmark cleared, the fields and the CRC, the hallmark. -/
def mapPut (s : State) (k u : Nat) : State :=
  ((s.mramPut (mapBase k) (zeros 4)).mramPut (mapBase k + 4) (mapBytes s u ++ b4 (crc32c (mapBytes s u)))).mramPut (mapBase k) (b4 0x4D44585A)

theorem writeMap_written {s : State} (k u : Nat) (h : s.dm.mramFail = false) :
    s.writeMap k u = (mapPut s k u).modDm (fun d => { d with
      copies := d.copies.set k (some { update := u, pcc := (mapPut s k u).pwr.pcc, ot := (mapPut s k u).pwr.ot, map := d.map }), copy := k, dirty := false }) := if_neg (by simp [h])

theorem mramPut_dm (s : State) (x : Nat) (l : List Byte) : (s.mramPut x l).dm = { s.dm with mramBad := (s.mramPut x l).dm.mramBad } := by
  unfold State.mramPut
  split <;> rfl

theorem mapPut_dm (s : State) (k u : Nat) : (mapPut s k u).dm = { s.dm with mramBad := (mapPut s k u).dm.mramBad } := by
  rw [mapPut, mramPut_dm, mramPut_dm, mramPut_dm]

theorem mapPut_pwr (s : State) (k u : Nat) : (mapPut s k u).pwr = s.pwr := by
  rw [mapPut, (Facts.Records.put_ldg _ _ _).2, (Facts.Records.put_ldg _ _ _).2, (Facts.Records.put_ldg _ _ _).2]

theorem length_b4 (n : Nat) : (b4 n).length = 4 := length_leBytes ..

theorem mapBase_room {k : Nat} (h : k < 2) : mapBase k + 4096 ≤ mramSize := by
  have hsize : mramSize = 0x1000000 := rfl
  unfold mapBase
  omega

section
variable {s : State} {k u : Nat} (hf : s.dm.mramFail = false) (hk : k < 2) (hlen : (mapBytes s u).length = 4088)
include hf hk hlen

theorem mapPut_mram : (mapPut s k u).mram =
    memWriteBytes (memWriteBytes (memWriteBytes s.mram (mapBase k) (zeros 4)) (mapBase k + 4) (mapBytes s u ++ b4 (crc32c (mapBytes s u)))) (mapBase k) (b4 0x4D44585A) := by
  have hroom := mapBase_room hk
  have hz : (zeros 4).length = 4 := rfl
  have hbody : (mapBytes s u ++ b4 (crc32c (mapBytes s u))).length = 4092 := by rw [List.length_append, hlen, length_b4]
  have hfail : ∀ (t : State) (x : Nat) (l : List Byte), t.dm.mramFail = false → (t.mramPut x l).dm.mramFail = false := fun t x l ht => by rw [mramPut_dm]; exact ht
  rw [mapPut, mramPut_mram _ _ _ (hfail _ _ _ (hfail _ _ _ hf)) (by rw [length_b4]; omega), mramPut_mram _ _ _ (hfail _ _ _ hf) (by omega), mramPut_mram _ _ _ hf (by omega)]

/-- What the write leaves in MRAM: hallmark, fields and CRC at the copy, and every other byte as it was. -/
theorem mapPut_reads (hw : Memory.wf s.mram = true) : (mapPut s k u).mramGet (mapBase k) 4 = b4 0x4D44585A ∧ (mapPut s k u).mramGet (mapBase k + 4) 4088 = mapBytes s u ∧
    (mapPut s k u).mramGet (mapBase k + 4092) 4 = b4 (crc32c (mapBytes s u)) ∧ ∀ y n, y + n ≤ mapBase k ∨ mapBase k + 4096 ≤ y → (mapPut s k u).mramGet y n = s.mramGet y n := by
  have hroom := mapBase_room hk
  have hz : (zeros 4).length = 4 := rfl
  have hhall : (b4 0x4D44585A).length = 4 := length_b4 _
  have hcrc : (b4 (crc32c (mapBytes s u))).length = 4 := length_b4 _
  have hbody : (mapBytes s u ++ b4 (crc32c (mapBytes s u))).length = 4092 := by rw [List.length_append, hlen, hcrc]
  have hw1 : Memory.wf (memWriteBytes s.mram (mapBase k) (zeros 4)) = true := memWf_bytes hw (.inl (by omega))
  have hw2 := memWf_bytes (x := mapBase k + 4) (l := mapBytes s u ++ b4 (crc32c (mapBytes s u))) hw1 (.inl (by omega))
  obtain ⟨hfields, hsum⟩ := memReadBytes_append (mapBytes s u) (b4 (crc32c (mapBytes s u))) _ (mapBase k + 4) hw1 (by omega)
  rw [hlen] at hfields hsum
  rw [hcrc] at hsum
  unfold State.mramGet
  rw [mapPut_mram hf hk hlen]
  refine ⟨memReadBytes_self (b4 0x4D44585A) _ _ hw2 (by omega), ?_, ?_, fun y n hy => ?_⟩
  · rw [memReadBytes_ne _ _ _ _ _ hw2 (by omega) (by omega), hfields]
  · rw [memReadBytes_ne _ _ _ _ _ hw2 (by omega) (by omega)]
    exact hsum
  · rw [memReadBytes_ne _ _ _ _ _ hw2 (by omega) (by omega), memReadBytes_ne _ _ _ _ _ hw1 (by omega) (by omega), memReadBytes_ne _ _ _ _ _ hw (by omega) (by omega)]

end

theorem writeMap_dm {s : State} (k u : Nat) (h : s.dm.mramFail = false) : (s.writeMap k u).dm =
    { s.dm with mramBad := (mapPut s k u).dm.mramBad, copies := s.dm.copies.set k (some { update := u, pcc := s.pwr.pcc, ot := s.pwr.ot, map := s.dm.map }), copy := k, dirty := false } := by
  rw [writeMap_written k u h, mapPut_pwr, State.modDm, mapPut_dm]

theorem olderMap_lt (s : State) : s.olderMap < 2 := by
  unfold State.olderMap
  split
  · split <;> decide
  · decide
  · decide

/-- The copy that the next write goes to and its update count, by the copies that are valid. -/
theorem olderMap_spec {s : State} {k u : Nat} (h : match s.mapCount 0, s.mapCount 1 with
    | some a, some b => (k = if a ≤ b then 0 else 1) ∧ u = max a b + 1
    | some a, none => k = 1 ∧ u = a + 1
    | none, some b => k = 0 ∧ u = b + 1
    | none, none => k = 0 ∧ u = 1) : k = s.olderMap ∧ u = ((s.mapCount 0).getD 0).max ((s.mapCount 1).getD 0) + 1 := by
  unfold State.olderMap
  cases h0 : s.mapCount 0 <;> cases h1 : s.mapCount 1 <;> rw [h0, h1] at h <;> simpa using h

theorem mapWrite_ignored {s : State} (h : s.dm.dirty = false ∨ s.alive = false ∨ s.pwr.mapRead = false ∨ s.dm.mramFail = true) : s.mapWrite = s := by
  unfold State.mapWrite State.writeMap
  split
  next hdue =>
    obtain ⟨hd, hl, hr⟩ := hdue
    have hf : s.dm.mramFail = true := by simpa [hd, hl, hr] using h
    rw [if_pos hf]
  next => rfl

theorem mapWrite_taken {s : State} (hd : s.dm.dirty = true) (hl : s.alive = true) (hr : s.pwr.mapRead = true) :
    s.mapWrite = s.writeMap s.olderMap (((s.mapCount 0).getD 0).max ((s.mapCount 1).getD 0) + 1) := if_pos ⟨hd, hl, hr⟩

/-! #### State-store rows (R463) -/

theorem ssSpare_refused {s : State} {row reason : Nat} (h : ¬ s.ssMay row reason = true) : s.ssSpare row reason = s := if_pos (by simpa using h)

/-- The spare row taken. -/
def ssTaken (s : State) (row reason k : Nat) : State := { s with dm := { s.dm with
  map := { s.dm.map with ssRows := s.dm.map.ssRows.set k (some (row, reason)) }, dirty := true, ssDue := s.dm.ssDue.filter (fun x => x.1 ≠ row), ssLog := s.dm.ssLog.filter (fun e => e.1 / 256 ≠ row) } }

section
variable {s : State} {row reason : Nat} (h : s.ssMay row reason = true)
include h

theorem ssSpare_taken {k : Nat} (hk : freeRow s.dm.map.ssRows = some k) : s.ssSpare row reason = (ssTaken s row reason k).stage 0x0151 1 (b2 row ++ b1 reason) := by
  simp only [State.ssSpare, h, hk]
  rfl

theorem ssSpare_none (hk : freeRow s.dm.map.ssRows = none) : s.ssSpare row reason = if s.dm.ssNoSpare then s else ({ s with dm := { s.dm with ssNoSpare := true } } : State).stage 0x0152 2 [] := by
  simp only [State.ssSpare, State.ssNeeds, h, hk]
  rfl

end

/-- What a scrub of the state store counts and marks. -/
theorem ssScrub_spec (l m : List Nat) {s : State} (hl : s.alive = true) (ha : s.asleep = true) :
    let t := s.ssScrub l m
    t.dm.map = s.dm.map ∧ t.nv.corrections = s.nv.corrections + l.length ∧ (s.dm.ssCorr ≤ 65535 → t.dm.ssCorr = min 65535 (s.dm.ssCorr + l.length)) ∧
      ((freeRow s.dm.map.ssRows).isSome = true → ∀ w ∈ m, (w / 256, 1) ∈ t.dm.ssDue) := by
  intro t
  have ht : t = m.foldl (fun s w => s.ssNeeds (w / 256) 1) (l.foldl State.ssCorrected s) := if_pos ⟨hl, ha⟩
  obtain ⟨hmap, hcorr, hcount⟩ := corrFold l s
  obtain ⟨hmap', hnv, hcount', hdue⟩ := needFold m (l.foldl State.ssCorrected s)
  rw [ht]
  exact ⟨hmap'.trans hmap, (congrArg NonVol.corrections hnv).trans hcorr, fun h => hcount'.trans (hcount h), fun h => (hdue (hmap ▸ h)).2⟩

/-- One corrected word alone. -/
theorem ssScrub_one (w : Nat) {s : State} (hl : s.alive = true) (ha : s.asleep = true) : s.ssScrub [w] [] = s.ssCorrected w := if_pos ⟨hl, ha⟩

/-! #### MRAM rows (R464) -/

/-- The row no longer waits. -/
def mramAsked (s : State) (row : Nat) : State := s.modDm (fun d => { d with mramDue := d.mramDue.filter (fun x => x.1 ≠ row), mramSeen := d.mramSeen.filter (fun w => w / 1024 ≠ row) })

section
variable {s : State} {row : Nat} {b : Bool} (h : s.alive = true ∧ s.dm.mramFail = false ∧ row < 16384 ∧ (b = true ∨ (row, 2) ∈ s.dm.mramDue))
include h

theorem mramSpare_taken {k : Nat} (hk : freeRow s.dm.map.mramRows = some k) :
    (s.mramSpare row b).dm = { (mramAsked s row).dm with map := { s.dm.map with mramRows := s.dm.map.mramRows.set k (some (row, if b then 1 else 2)) }, dirty := true } := by
  have hrow : freeRow (mramAsked s row).dm.map.mramRows = some k := hk
  unfold State.mramSpare
  rw [if_pos h, ← mramAsked]
  simp only [hrow]
  exact stage_dm ..

theorem mramSpare_none (hk : freeRow s.dm.map.mramRows = none) : (s.mramSpare row b).dm = { (mramAsked s row).dm with mramNoSpare := true } := by
  have hrow : freeRow (mramAsked s row).dm.map.mramRows = none := hk
  unfold State.mramSpare
  rw [if_pos h, ← mramAsked]
  simp only [hrow]
  split
  next hn => rw [← hn]
  next => exact stage_dm ..

/-- Of the rows that wait, a spared one no longer does and no other joins. -/
theorem mramSpare_due : (s.mramSpare row b).dm.mramDue = s.dm.mramDue.filter (fun x => x.1 ≠ row) := by
  cases hk : freeRow s.dm.map.mramRows with
  | none => rw [mramSpare_none h hk]; rfl
  | some k => rw [mramSpare_taken h hk]; rfl

end

/-- What a step of the scrub finds, on the offsets inside MRAM. -/
def scrubbed (s : State) (l m : List Nat) : State := (m.filter (fun o => decide (o < mramSize))).foldl State.mramLostWord ((l.filter (fun o => decide (o < mramSize))).foldl State.mramCorrected s)

theorem mramScrubStep_taken {s : State} (l m : List Nat) (hl : s.alive = true) (hf : s.dm.mramFail = false) :
    s.mramScrubStep l m = (scrubbed s l m).modDm (fun d => { d with scrub := (d.scrub + 1) % 16384 }) := by
  rw [State.mramScrubStep, if_pos ⟨hl, hf⟩, State.mramScrub, if_neg (by simp [hf])]
  rfl

theorem scrubbed_spec (s : State) (l m : List Nat) : (scrubbed s l m).mram = s.mram ∧ (scrubbed s l m).dm.map = s.dm.map ∧ (scrubbed s l m).dm.scrub = s.dm.scrub ∧
    ∀ o ∈ m, o < mramSize → o / 8 * 8 ∈ (scrubbed s l m).dm.mramBad ∧ (o / 1024, 1) ∈ (scrubbed s l m).dm.mramDue := by
  obtain ⟨hmram, hmap, hscrub⟩ := mcorrFold (l.filter (fun o => decide (o < mramSize))) s
  obtain ⟨hmram', hmap', hscrub', -, -, hlost⟩ := lostFold (m.filter (fun o => decide (o < mramSize))) ((l.filter (fun o => decide (o < mramSize))).foldl State.mramCorrected s)
  exact ⟨hmram'.trans hmram, hmap'.trans hmap, hscrub'.trans hscrub, fun o ho hs => hlost o (List.mem_filter.2 ⟨ho, decide_eq_true hs⟩)⟩

theorem scrubbed_one (s : State) {o : Nat} (h : o < mramSize) : scrubbed s [o] [] = s.mramCorrected o := by
  simp [scrubbed, h]

/-- A span that holds a byte of a lost word is bad. -/
theorem mramGood_lost {s : State} {o x n : Nat} (hb : o / 8 * 8 ∈ s.dm.mramBad) (hx : x ≤ o) (hn : o < x + n) : s.mramGood x n = false := by
  rw [State.mramGood, Bool.and_eq_false_iff]
  refine .inr (List.all_eq_false.2 ⟨_, hb, ?_⟩)
  rw [decide_eq_true_eq]
  omega

/-- Settles O57: the map by the three pieces of its write, with every byte outside the copy framed (log entry 100), a spare row by the lowest free one (log entry 93), a scrub by its two folds (log entry 102); where the condition fails nothing changes (log entry 1). -/
theorem repairRows : Obligations.RepairRows := by
  refine ⟨fun s => ⟨fun h => congrArg Host.Outcome.next (mapWrite_ignored h), fun hd hl hr hf _ hp hc hla hss hm hw k u hku => ?map⟩,
    fun row reason s => ⟨fun h => congrArg Host.Outcome.next (ssSpare_refused fun hs => h ((ssMay_iff s row reason).1 hs)), fun h k hk hnone hbelow => congrArg Host.Outcome.next (ssSpare_taken ((ssMay_iff s row reason).2 h) (free_at hk hnone hbelow)),
      fun h hfull => congrArg Host.Outcome.next (ssSpare_none ((ssMay_iff s row reason).2 h) (free_none hfull))⟩,
    fun l m s => ⟨fun h => congrArg Host.Outcome.next (if_neg ?awake), fun hl ha => ⟨_, rfl, ?scrub⟩⟩,
    fun row b s => ⟨fun h => congrArg Host.Outcome.next (if_neg h), fun h => ⟨_, rfl, ?due, fun k hk hnone hbelow => ?taken, fun hfull => ?full⟩⟩,
    fun l m s => ⟨fun h => congrArg Host.Outcome.next (if_neg ?noMram), fun hl hf => ⟨_, congrArg Host.Outcome.next (mramScrubStep_taken l m hl hf), ?step⟩⟩⟩
  case map =>
    obtain ⟨hk, hu⟩ := olderMap_spec hku
    have hwrite : s.mapWrite = s.writeMap k u := by rw [mapWrite_taken hd hl hr, hk, hu]
    have hreads := mapPut_reads (k := k) (u := u) hf (hk ▸ olderMap_lt s) (body_len _ _ _ _ hp hc hla hss hm) hw
    have hdm := writeMap_dm k u hf
    refine ⟨_, congrArg Host.Outcome.next hwrite, congrArg Defects.dirty hdm, congrArg Defects.copy hdm, Facts.PowerRules.writeMap_map .., congrArg Defects.copies hdm, ?_⟩
    rw [writeMap_written _ _ hf]
    exact hreads
  case awake =>
    rintro ⟨hl, ha⟩
    simp [hl, ha] at h
  case scrub =>
    obtain ⟨hmap, hcorr, hcount, hdue⟩ := ssScrub_spec l m hl ha
    refine ⟨hmap, hcorr, hcount, fun hfree => ⟨hdue (free_some hfree), ?_⟩⟩
    rintro w rfl rfl
    rw [ssScrub_one w hl ha]
    exact corr1 s w (free_some hfree)
  case due =>
    rw [mramSpare_due h]
    exact fun d hd => ⟨by simpa using (List.mem_filter.1 hd).2, (List.mem_filter.1 hd).1⟩
  case taken =>
    rw [mramSpare_taken h (free_at hk hnone hbelow)]
    exact ⟨rfl, rfl⟩
  case full =>
    rw [mramSpare_none h (free_none hfull)]
    exact ⟨rfl, rfl⟩
  case noMram =>
    rintro ⟨hl, hf⟩
    simp [hl, hf] at h
  case step =>
    obtain ⟨hmram, hmap, hscrub, hlost⟩ := scrubbed_spec s l m
    refine ⟨congrArg (fun n => (n + 1) % 16384) hscrub, hmram, hmap, fun o ho hs => ⟨(hlost o ho hs).1, (hlost o ho hs).2, fun x n hx hn => mramGood_lost (hlost o ho hs).1 hx hn⟩, ?_⟩
    rintro o rfl rfl hs
    obtain ⟨-, -, -, hcorr, hseen, hagain⟩ := mcorr_of s o
    rw [scrubbed_one s hs]
    exact ⟨hcorr, hseen, hagain⟩

end Sys2Proof.Proofs.RepairRows
end
